-- ==== Sys2Proof/Word.lean ====
section
/-!
DEFINITION. The word types of the Q9 (R6, R16, R18): 64-bit data words, 32-bit instruction words,
16-bit half-words and bytes.
-/
namespace Sys2Proof

/-- A 64-bit register value or virtual address (R6, R16). -/
abbrev Word := BitVec 64

/-- A byte of memory. -/
abbrev Byte := BitVec 8

/-- A 32-bit word: an instruction word or a 32-bit field. -/
abbrev Word32 := BitVec 32

/-- A seat mask: bit s stands for seat s of a bench (R4). -/
abbrev SeatMask := BitVec 32

end Sys2Proof
end

