-- ==== Sys2Proof/Syntax.lean ====
section
/-!
DEFINITION. The instructions and operations of the Q9 as syntax: one constructor of `Instr` per row of
spec/opcode_table.json. Rows 0 to 213 are instruction words (R20 to R42, R356); the remaining rows are the
operations and events of the package, which have no encoding and carry plain data that names what they act on.
-/
namespace Sys2Proof

/-! ## Operand types -/

/-- A data register: v0–v47 or s0–s15 (R7). -/
inductive DReg where
  | v (n : Fin 48)
  | s (n : Fin 16)
  deriving DecidableEq, Repr

/-- The two use bits of a source (R25). `reserved` is code 11, which no well-formed instruction carries (R25). -/
inductive Use where
  | plain | keep | last | reserved
  deriving DecidableEq, Repr

/-- A source operand: a register and its use bits (R25). -/
structure Src where
  reg : DReg
  use : Use
  deriving DecidableEq, Repr

/-- A capability register c0–c15 (R6). -/
abbrev CReg := Fin 16
/-- A predicate register p0–p7 (R6). -/
abbrev PReg := Fin 8

/-- Integer width code (R24): .d, .w, .h, .b. It is also the access size code (R28). -/
inductive Width where
  | d | w | h | b
  deriving DecidableEq, Repr

/-- Float width code (R24): .f64, .f32, .f16, .bf16. -/
inductive FWidth where
  | f64 | f32 | f16 | bf16
  deriving DecidableEq, Repr

/-- The W field of a clause header (R21): the width of the clause's 16-bit forms. -/
inductive ClauseW where
  | d | w | h | bf
  deriving DecidableEq, Repr

/-- Rounding codes (R41, R63). `reserved` stands for codes 5 to 7. -/
inductive Rnd where
  | rne | rtz | rup | rdn | sr | reserved
  deriving DecidableEq, Repr

/-- Format codes of `fcvt` (R41). -/
inductive CFmt where
  | f64 | f32 | f16 | bf16 | e4m3 | e5m2 | s32 | s64
  deriving DecidableEq, Repr

/-- Integer condition codes (R41). -/
inductive ICond where
  | eq | ne | lt | le | gt | ge | ltu | leu
  deriving DecidableEq, Repr

/-- Float condition codes (R41). -/
inductive FCond where
  | eq | ne | lt | le | gt | ge | un | ord
  deriving DecidableEq, Repr

/-- Scopes (R9, R28). `reserved` is code 111. -/
inductive Scope where
  | seat | bench | core | team | die | pkg | dom | reserved
  deriving DecidableEq, Repr

/-- The order field of `fence` (R42). `reserved` is code 11. -/
inductive FenceOrd where
  | acqRel | acquire | release | reserved
  deriving DecidableEq, Repr

/-- The order of an atomic (R42, R166). -/
inductive MemOrd where
  | relaxed | acquire | release | acqRel
  deriving DecidableEq, Repr

/-- Atomic operations (R42). -/
inductive AtomOp where
  | add | and | or | xor | min | max | minu | maxu | swap | cas | fadd
  deriving DecidableEq, Repr

/-- Formats of `mma` (R256). -/
inductive MmaFmt where
  | e4m3 | e5m2 | bf16 | f16 | b
  deriving DecidableEq, Repr

/-- Formats of `mmas` (R256). -/
inductive MmasFmt where
  | e4m3 | e5m2 | e3m2 | e2m3 | e2m1
  deriving DecidableEq, Repr

/-- Memory formats of `ald` and `ast` (R262). `reserved` is code 7. -/
inductive TileFmt where
  | raw | f32 | bf16 | f16 | e4m3 | e5m2 | s32 | reserved
  deriving DecidableEq, Repr

namespace DReg
/-- The 6-bit operand code of a register (R7). -/
def code : DReg → Nat
  | .v n => n.val
  | .s n => 48 + n.val
/-- Does the operand name a v register? -/
def isV : DReg → Bool
  | .v _ => true
  | .s _ => false
/-- Is the operand's code even (a pair operand, R26)? -/
def isEven (r : DReg) : Bool := r.code % 2 == 0
/-- An even v register (R275). -/
def isEvenV (r : DReg) : Bool := r.isV && r.isEven
/-- Is the operand the first register of a quad (R174)? -/
def isQuad (r : DReg) : Bool := r.code % 4 == 0
/-- A quad of v registers. -/
def isQuadV (r : DReg) : Bool := r.isV && r.isQuad
/-- The register k places after this one within its class (pairs and quads, R101, R174). -/
def plus (r : DReg) (k : Nat) : DReg :=
  match r with
  | .v n => .v ⟨(n.val + k) % 48, Nat.mod_lt _ (by decide)⟩
  | .s n => .s ⟨(n.val + k) % 16, Nat.mod_lt _ (by decide)⟩
/-- The second register of a pair. -/
def succ (r : DReg) : DReg := r.plus 1
end DReg

/-- Is the format an integer (R41)? -/
def CFmt.isInt : CFmt → Bool
  | .s32 => true
  | .s64 => true
  | _ => false

/-- The rounding codes that `fround` accepts (R82). -/
def Rnd.isDirected : Rnd → Bool
  | .rne => true
  | .rtz => true
  | .rup => true
  | .rdn => true
  | _ => false

/-! ## Data carried by the operations and events -/

/-- Kinds of access to memory (R102, R224). -/
inductive Access where
  | load | store | rmw | fetch
  deriving DecidableEq, Repr

/-- What came back for one seat of a remote load or atomic (R395, R401): the low and high eight bytes, the tag of a
capability, and whether the reply is poison (R402). -/
structure SeatReply where
  seat : Nat
  lo : Word
  hi : Word
  tag : Bool
  poison : Bool
  deriving DecidableEq, Repr

/-- A capability as 128 bits and a tag (R108). -/
structure Cap where
  bits : BitVec 128
  tag : Bool
  deriving DecidableEq, Repr

/-- A message: three words and a capability (R320). -/
structure Message where
  w0 : Word
  w1 : Word
  w2 : Word
  cap : Cap
  deriving DecidableEq, Repr

/-- A party to an endpoint (R354): a compute seat named by its task (so that it keeps its place while parked, R327),
a host hart or service core by its source identifier, or the Dean's agent of a die, for the task on whose behalf it sends. -/
inductive Party where
  | seat (task : Word) (coreT benchT seat : Nat)
  | hart (id : Nat)
  | dean (die : Nat) (task : Word) (pager : Bool)
  deriving DecidableEq, Repr

/-- A Registrar request (R349): who asks, the capability operated on, the operand words, and whether the caller still waits for
the reply (R325, R357). -/
structure RegReq where
  who : Party
  cap : Cap
  w1 : Word
  w2 : Word
  heard : Bool
  deriving DecidableEq, Repr

/-- A translation structure (R223): a core's translation cache, or a die's TLB and walk cache. -/
inductive TlbUnit where
  | core (k : Nat)
  | die (d : Nat)
  deriving DecidableEq, Repr

/-- What a remote access asks of its target (R401, R406, R411). -/
inductive RemoteOp where
  | load (bytes : Nat)
  | store (data : List Byte) (tag poison : Bool)
  | atomic (op : AtomOp) (w32 : Bool) (operands : List (Word × Word))
  | combine (code size : Nat) (value : Word)
  | sret (n : Word)
  /-- the crossing of the capability with the request's bounds to a package (R360) -/
  | exported (pkg : Nat)
  /-- the reservation of a slot for a payload of some bytes (R406) -/
  | reserve (len : Nat)
  deriving DecidableEq, Repr

/-- A translation grant (R223, R235): the package that granted it, the export slot, the page with its address space number and
lease class, the frame, the permissions (bit 0 R, 1 W, 2 X), and the expiry on the granting package's bell; none under a lease of
0, which serves one access. -/
structure Grant where
  target : Nat
  slot : Nat
  asn : Nat
  page : Nat
  size : Nat
  cls : Nat
  frame : Nat
  perms : Nat
  expiry : Option Word
  deriving DecidableEq, Repr

/-- What a structure reports of its bell (R233): the difference from its die's reference, and the bell since which the difference
has been no more than that. -/
structure SkewReport where
  unit : TlbUnit
  diff : Nat
  since : Word
  deriving DecidableEq, Repr

/-- Where a page goes (R216, R248): its new frame, and whether the page may be written otherwise. Once the permission to write is
withdrawn, `expiry` is the EXPIRY of the shootdown's acknowledgement, for which the migration waits (R232). -/
structure NewFrame where
  pa : Nat
  writable : Bool
  expiry : Option Word
  deriving DecidableEq, Repr

/-- The messages of a grant (R235, R403), each about an export slot, an address and a kind of access: what another package asks,
and what it answers here. -/
inductive GrantMsg where
  | ask (src reqId : Nat)
  | answer (reqId : Nat) (g : Grant)
  | refused (reqId sub : Nat)
  deriving DecidableEq, Repr

/-- A remote access as it arrives at its target (R400, R401): the issuing package, its request number, the export
slot and virtual address it names, the bounds its capability carried (R362), and the physical addresses of its bytes with the
expiry of the grants that gave them (R229, R235); and the mark of its package to this target behind which it was sent (R429). -/
structure RemoteReq where
  src : Nat
  reqId : Nat
  slot : Nat
  va : Word
  base : Word
  top : Word
  op : RemoteOp
  pas : List Nat
  expiry : Option Word
  behind : Option Nat
  deriving DecidableEq, Repr

/-- A push reservation as it arrives at its target (R406), or the withdrawal of one (R409). -/
structure PushReq where
  src : Nat
  reqId : Nat
  slot : Nat
  va : Word
  base : Word
  top : Word
  len : Nat
  withdraw : Bool
  behind : Option Nat
  deriving DecidableEq, Repr

/-- A board frame (R434): its fields, CHECK among them as it was received. -/
structure Frame where
  number : Nat
  source : Nat
  kind : Nat
  member : Nat
  seq : Word32
  bell : Word
  w0 : Word
  w1 : Word
  w2 : Word
  gen : Word32
  check : Word32
  deriving DecidableEq, Repr

/-- How an operation of the election comes about (R443, R444): this package sends the message; a frame of a board group brings it; or the
boot word is read, or answers this package's swap, with a value. -/
inductive BootMsg where
  | send
  | frame (f : Frame)
  | word (v : Word)
  deriving DecidableEq, Repr

/-- What reaches a package about the membership of a group (R435, R437): a kind-4 frame; or, at the member that announces joins, the
request of a member to rejoin, with its member number and package. -/
inductive JoinMsg where
  | frame (f : Frame)
  | asked (member pkg : Nat)
  deriving DecidableEq, Repr

/-- The way of a revocation notice (R439): through the fabric from its origin, or in a frame of a board group. -/
inductive NoticeVia where
  | fabric (origin : Nat)
  | board (grp : Nat) (f : Frame)
  deriving DecidableEq, Repr

/-- A KEY_EXCHANGE request (R448, DSP0274): the session it opens, the slot of the certificate chain, and the requester's ECDHE value. -/
structure KeyExchange where
  session : Nat
  slot : Nat
  pub : List (BitVec 8)
  deriving DecidableEq, Repr

/-- A VENDOR_DEFINED_REQUEST (R450, DSP0274). -/
structure VendorMsg where
  standard : Nat
  vendorLen : Nat
  vendor : Nat
  payload : List (BitVec 8)
  deriving DecidableEq, Repr

/-- Who accesses a register of the management space (R452): a host kernel or the PCIe port writes it, or the port reads it. -/
inductive MgmtBy where
  | host | port | portRead
  deriving DecidableEq, Repr

/-- A soft error (R247): corrected; uncorrectable in an HBM line; uncorrectable in an L2, LLC or carve granule. -/
inductive SoftErr where
  | corrected
  | hbmLine (pa : Nat)
  | granule (pa : Nat)
  /-- a granule of the die part of a task's hold, which an L2 slice keeps (R189, R237) -/
  | held (task va : Word)
  deriving DecidableEq, Repr

/-- A limit of R451 that was reached, or what the power controllers measure: watts and degrees Celsius. -/
inductive PowerLimit where
  | packagePower | computeDies | coreRails | junctionThrottle | junctionStop | railLoss | recovered
  | measured (power : BitVec 16) (temp : BitVec 8)
  deriving DecidableEq, Repr

/-- Why a team is halted (R376). -/
inductive HaltWhy where
  | deanPreempt | parkBlocked | ownerPreempt | faultPark | checkpoint | abort | machineCheck
  deriving DecidableEq, Repr

/-- Why a task is aborted for requeue (R307). -/
inductive AbortCause where
  | pageFault (va : Word) (sub : Nat)
  | requeue
  | remoteLost
  | machineCheck (sub : Nat)
  deriving DecidableEq, Repr

/-- The registers of a hart beside x0–x31 and hc0–hc15 (R1, R356), by their RISC-V names; `status` stands for the mode and the
previous modes. -/
inductive HartCsr where
  | satp | vsatp | hgatp | stval | sepc | scause | stvec | mtval | mepc | mcause | mtvec | status
  deriving DecidableEq, Repr

/-- What the instructions of a hart that the spec takes from RISC-V do (R1, R217, R218, R232, R246): loads, stores and atomics, the
performing of the oldest store that it holds back, a fence, the reading of the bell through the `time` CSR; and what any of them
leaves in the hart itself: a register, where the hart goes on, a CSR. -/
inductive HostAcc where
  | load (bytes : Nat) (signed : Bool) (rd : Nat)
  | store (bytes : Nat) (value : Word)
  | amo (op : AtomOp) (w32 : Bool) (value expect : Word) (rd : Nat)
  | drain
  | fence
  | time (rd : Nat)
  | own (rd : Nat) (value pc : Word) (csr : Option (HartCsr × Word))
  deriving DecidableEq, Repr

/-- What is written into a parked seat (R327). -/
inductive Delivery where
  | message (m : Message) (badge : Word)
  | reply (m : Message) (status : Word)
  | word (w : Word) (badge : Word)
  | done
  deriving DecidableEq, Repr

/-- Which of a library's reports (R426). -/
inductive LibReport where
  | unreachable | delivered | notSent
  /-- the replica of a mark with a path index (R429) -/
  | replicaDelivered (path : Nat) | replicaNotSent (path : Nat)
  deriving DecidableEq, Repr

/-- What a target refuses (R236, R406, R430, R431): a request or a reservation; a reservation because its queue is full; a replica of
a mark; or what has waited 50 µs for the link of the target's pool. -/
inductive RefusedId where
  | request (req : Nat)
  | queueFull (req : Nat)
  | replica (mark path : Nat)
  | poolLost (req : Nat)
  deriving DecidableEq, Repr

/-- Why a word is no instruction (R40, R26): unassigned; a field or header in breach. -/
inductive IllegalKind where
  | unassigned | field | header
  deriving DecidableEq, Repr

/-- The instructions and operations: one constructor per row of spec/opcode_table.json (R40, R86, R356). -/
inductive Instr where
  /-- clause header (R29) -/
  | clause (n : Bool) (w : ClauseW) (setB : BitVec 4) (setA : BitVec 4) (wait : BitVec 12)
  /-- 16-bit `mov` (R21, R86) -/
  | mov16 (l : Bool) (a : Fin 32) (d : Fin 32)
  /-- 16-bit `add` (R21, R86) -/
  | add16 (l : Bool) (a : Fin 32) (d : Fin 32)
  /-- 16-bit `sub` (R21, R86) -/
  | sub16 (l : Bool) (a : Fin 32) (d : Fin 32)
  /-- 16-bit `mul` (R21, R86) -/
  | mul16 (l : Bool) (a : Fin 32) (d : Fin 32)
  /-- 16-bit `and` (R21, R86) -/
  | and16 (l : Bool) (a : Fin 32) (d : Fin 32)
  /-- 16-bit `or` (R21, R86) -/
  | or16 (l : Bool) (a : Fin 32) (d : Fin 32)
  /-- 16-bit `xor` (R21, R86) -/
  | xor16 (l : Bool) (a : Fin 32) (d : Fin 32)
  /-- 16-bit `shl` (R21, R86) -/
  | shl16 (l : Bool) (a : Fin 32) (d : Fin 32)
  /-- 16-bit `shr` (R21, R86) -/
  | shr16 (l : Bool) (a : Fin 32) (d : Fin 32)
  /-- 16-bit `sar` (R21, R86) -/
  | sar16 (l : Bool) (a : Fin 32) (d : Fin 32)
  /-- 16-bit `min` (R21, R86) -/
  | min16 (l : Bool) (a : Fin 32) (d : Fin 32)
  /-- 16-bit `max` (R21, R86) -/
  | max16 (l : Bool) (a : Fin 32) (d : Fin 32)
  /-- 16-bit `fadd` (R21, R86) -/
  | fadd16 (l : Bool) (a : Fin 32) (d : Fin 32)
  /-- 16-bit `fsub` (R21, R86) -/
  | fsub16 (l : Bool) (a : Fin 32) (d : Fin 32)
  /-- 16-bit `fmul` (R21, R86) -/
  | fmul16 (l : Bool) (a : Fin 32) (d : Fin 32)
  /-- 16-bit `fma` (R21, R86) -/
  | fma16 (l : Bool) (a : Fin 32) (d : Fin 32)
  /-- `add.w d, a, b` -/
  | add (w : Width) (b : Src) (a : Src) (d : DReg)
  /-- `sub.w d, a, b` -/
  | sub (w : Width) (b : Src) (a : Src) (d : DReg)
  /-- `mul.w d, a, b` -/
  | mul (w : Width) (b : Src) (a : Src) (d : DReg)
  /-- `mulh.w d, a, b` -/
  | mulh (w : Width) (b : Src) (a : Src) (d : DReg)
  /-- `mad.w d, a, b` -/
  | mad (w : Width) (b : Src) (a : Src) (d : DReg)
  /-- `min.w d, a, b` -/
  | min (w : Width) (b : Src) (a : Src) (d : DReg)
  /-- `max.w d, a, b` -/
  | max (w : Width) (b : Src) (a : Src) (d : DReg)
  /-- `minu.w d, a, b` -/
  | minu (w : Width) (b : Src) (a : Src) (d : DReg)
  /-- `maxu.w d, a, b` -/
  | maxu (w : Width) (b : Src) (a : Src) (d : DReg)
  /-- `abs.w d, a` -/
  | abs (w : Width) (a : Src) (d : DReg)
  /-- `neg.w d, a` -/
  | neg (w : Width) (a : Src) (d : DReg)
  /-- `shl.w d, a, b` -/
  | shl (w : Width) (b : Src) (a : Src) (d : DReg)
  /-- `shr.w d, a, b` -/
  | shr (w : Width) (b : Src) (a : Src) (d : DReg)
  /-- `sar.w d, a, b` -/
  | sar (w : Width) (b : Src) (a : Src) (d : DReg)
  /-- `rot.w d, a, b` -/
  | rot (w : Width) (b : Src) (a : Src) (d : DReg)
  /-- `clz.w d, a` -/
  | clz (w : Width) (a : Src) (d : DReg)
  /-- `ctz.w d, a` -/
  | ctz (w : Width) (a : Src) (d : DReg)
  /-- `popc.w d, a` -/
  | popc (w : Width) (a : Src) (d : DReg)
  /-- `brev.w d, a` -/
  | brev (w : Width) (a : Src) (d : DReg)
  /-- `bfx.w d, a, b` -/
  | bfx (w : Width) (b : Src) (a : Src) (d : DReg)
  /-- `bfi.w d, a, b` -/
  | bfi (w : Width) (b : Src) (a : Src) (d : DReg)
  /-- `sel.w d, p, a, b` (R73) -/
  | sel (p : PReg) (w : Width) (b : DReg) (a : Src) (d : DReg)
  /-- `cvt.i` (R74) -/
  | cvtI (u : Bool) (wd : Width) (sat : Bool) (ws : Width) (a : Src) (d : DReg)
  /-- `and d, a, b` (R72) -/
  | and (b : Src) (a : Src) (d : DReg)
  /-- `or d, a, b` (R72) -/
  | or (b : Src) (a : Src) (d : DReg)
  /-- `xor d, a, b` (R72) -/
  | xor (b : Src) (a : Src) (d : DReg)
  /-- `andn d, a, b` (R72) -/
  | andn (b : Src) (a : Src) (d : DReg)
  /-- `not d, a` (R72) -/
  | not (a : Src) (d : DReg)
  /-- `mov d, a` (R72) -/
  | mov (a : Src) (d : DReg)
  /-- `perm d, a, b` (R72) -/
  | perm (b : Src) (a : Src) (d : DReg)
  /-- `pack` (R75) -/
  | pack (w : Width) (b : Src) (a : Src) (d : DReg)
  /-- `unpack` (R75) -/
  | unpack (w : Width) (h : Bool) (a : Src) (d : DReg)
  /-- `fadd.f d, a, b` (R81) -/
  | fadd (f : FWidth) (b : Src) (a : Src) (d : DReg)
  /-- `fsub.f d, a, b` (R81) -/
  | fsub (f : FWidth) (b : Src) (a : Src) (d : DReg)
  /-- `fmul.f d, a, b` (R81) -/
  | fmul (f : FWidth) (b : Src) (a : Src) (d : DReg)
  /-- `fma.f d, a, b` (R81) -/
  | fma (f : FWidth) (b : Src) (a : Src) (d : DReg)
  /-- `fnma.f d, a, b` (R81) -/
  | fnma (f : FWidth) (b : Src) (a : Src) (d : DReg)
  /-- `fscale.f d, a, b` (R81) -/
  | fscale (f : FWidth) (b : Src) (a : Src) (d : DReg)
  /-- `fmin.f d, a, b` (R81) -/
  | fmin (f : FWidth) (b : Src) (a : Src) (d : DReg)
  /-- `fmax.f d, a, b` (R81) -/
  | fmax (f : FWidth) (b : Src) (a : Src) (d : DReg)
  /-- `fabs.f d, a` (R82) -/
  | fabs (f : FWidth) (a : Src) (d : DReg)
  /-- `fneg.f d, a` (R82) -/
  | fneg (f : FWidth) (a : Src) (d : DReg)
  /-- `fclass.f d, a` (R82) -/
  | fclass (f : FWidth) (a : Src) (d : DReg)
  /-- `fround` (R82) -/
  | fround (r : Rnd) (f : FWidth) (a : Src) (d : DReg)
  /-- `fcvt` (R84) -/
  | fcvt (dst : CFmt) (r : Rnd) (src : CFmt) (a : Src) (d : DReg)
  /-- `frcp.f d, a` (R85) -/
  | frcp (f : FWidth) (a : Src) (d : DReg)
  /-- `frsq.f d, a` (R85) -/
  | frsq (f : FWidth) (a : Src) (d : DReg)
  /-- `fsqrt.f d, a` (R85) -/
  | fsqrt (f : FWidth) (a : Src) (d : DReg)
  /-- `fexp2.f d, a` (R85) -/
  | fexp2 (f : FWidth) (a : Src) (d : DReg)
  /-- `flog2.f d, a` (R85) -/
  | flog2 (f : FWidth) (a : Src) (d : DReg)
  /-- `fsin.f d, a` (R85) -/
  | fsin (f : FWidth) (a : Src) (d : DReg)
  /-- `fcos.f d, a` (R85) -/
  | fcos (f : FWidth) (a : Src) (d : DReg)
  /-- `ftanh.f d, a` (R85) -/
  | ftanh (f : FWidth) (a : Src) (d : DReg)
  /-- `modadd d, a, b` (R274) -/
  | modadd (b : Src) (a : Src) (d : DReg)
  /-- `modsub d, a, b` (R274) -/
  | modsub (b : Src) (a : Src) (d : DReg)
  /-- `modmul d, a, b` (R274) -/
  | modmul (b : Src) (a : Src) (d : DReg)
  /-- `mred d, a, b` (R274) -/
  | mred (b : Src) (a : Src) (d : DReg)
  /-- `nttbf d, a` (R275) -/
  | nttbf (a : Src) (d : DReg)
  /-- `inttbf d, a` (R275) -/
  | inttbf (a : Src) (d : DReg)
  /-- `shfl d, a, b` (R163) -/
  | shfl (b : Src) (a : Src) (d : DReg)
  /-- `shflx d, a, b` (R163) -/
  | shflx (b : Src) (a : Src) (d : DReg)
  /-- `bcast d, a, k` -/
  | bcast (k : BitVec 5) (a : Src) (d : DReg)
  /-- `ballot d, p` -/
  | ballot (p : PReg) (d : DReg)
  /-- `vote.any.w q, p` -/
  | voteAny (p : PReg) (w : Width) (q : PReg)
  /-- `vote.all.w q, p` -/
  | voteAll (p : PReg) (w : Width) (q : PReg)
  /-- `match d, a` -/
  | matchSeats (a : Src) (d : DReg)
  /-- `scan` (R165) -/
  | scan (w : Width) (x : Bool) (fl : Bool) (o : BitVec 3) (a : Src) (d : DReg)
  /-- `red` (R165) -/
  | red (w : Width) (fl : Bool) (o : BitVec 3) (a : Src) (d : DReg)
  /-- `li d, imm16` (R76) -/
  | li (i : BitVec 16) (d : DReg)
  /-- `lih_1 d, imm16` (R76) -/
  | lih1 (i : BitVec 16) (d : DReg)
  /-- `lih_2 d, imm16` (R76) -/
  | lih2 (i : BitVec 16) (d : DReg)
  /-- `lih_3 d, imm16` (R76) -/
  | lih3 (i : BitVec 16) (d : DReg)
  /-- `lih_0 d, imm16` (R76) -/
  | lih0 (i : BitVec 16) (d : DReg)
  /-- `addi.w d, a, imm10` (R77) -/
  | addi (w : Width) (i : BitVec 10) (a : DReg) (d : DReg)
  /-- `bra off` (R91) -/
  | bra (o : BitVec 16)
  /-- `call d, off` (R91) -/
  | call (o : BitVec 16) (d : DReg)
  /-- `br.p` (R91) -/
  | brP (o : BitVec 16) (inv : Bool) (k : PReg)
  /-- `brx cd, ca` (R93) -/
  | brx (ca : CReg) (cd : CReg)
  /-- `ret a` (R92) -/
  | ret (a : Src)
  /-- `exit` (R96) -/
  | exit
  /-- `yield` (R97) -/
  | yield
  /-- `brk code12` (R99): code = hi, lo -/
  | brk (hi : BitVec 6) (lo : BitVec 6)
  /-- `pause a` (R98) -/
  | pause (a : Src)
  /-- `cmp.cc.w p, a, b` (R78) -/
  | cmp (c : ICond) (b : Src) (a : Src) (w : Width) (p : PReg)
  /-- `cmpi.cc.w p, a, imm8` (R78) -/
  | cmpi (c : ICond) (i : BitVec 8) (a : Src) (w : Width) (p : PReg)
  /-- `fcmp.cc.f p, a, b` (R79) -/
  | fcmp (c : FCond) (b : Src) (a : Src) (f : FWidth) (p : PReg)
  /-- `pand d, a, b` (R80) -/
  | pand (b : PReg) (a : PReg) (d : PReg)
  /-- `por d, a, b` (R80) -/
  | por (b : PReg) (a : PReg) (d : PReg)
  /-- `pxor d, a, b` (R80) -/
  | pxor (b : PReg) (a : PReg) (d : PReg)
  /-- `pnot d, a` (R80) -/
  | pnot (a : PReg) (d : PReg)
  /-- `ld.sz d, [c + x]` (R101) -/
  | ldIndex (x : Src) (sz : Width) (c : CReg) (d : DReg)
  /-- `ld.sz d, [c + imm]` (R101) -/
  | ldImm (i : BitVec 9) (sz : Width) (c : CReg) (d : DReg)
  /-- `st.sz d, [c + x]` (R101) -/
  | stIndex (x : Src) (sz : Width) (c : CReg) (d : DReg)
  /-- `st.sz d, [c + imm]` (R101) -/
  | stImm (i : BitVec 9) (sz : Width) (c : CReg) (d : DReg)
  /-- `ldp.d d, [c + x]` (R101) -/
  | ldpIndex (x : Src) (c : CReg) (d : DReg)
  /-- `ldp.d d, [c + imm]` (R101) -/
  | ldpImm (i : BitVec 9) (c : CReg) (d : DReg)
  /-- `stp.d d, [c + x]` (R101) -/
  | stpIndex (x : Src) (c : CReg) (d : DReg)
  /-- `stp.d d, [c + imm]` (R101) -/
  | stpImm (i : BitVec 9) (c : CReg) (d : DReg)
  /-- `lds.sz d, [c + x]` (R105) -/
  | ldsIndex (x : Src) (sz : Width) (c : CReg) (d : DReg)
  /-- `lds.sz d, [c + imm]` (R105) -/
  | ldsImm (i : BitVec 9) (sz : Width) (c : CReg) (d : DReg)
  /-- `sts.sz d, [c + x]` (R105) -/
  | stsIndex (x : Src) (sz : Width) (c : CReg) (d : DReg)
  /-- `sts.sz d, [c + imm]` (R105) -/
  | stsImm (i : BitVec 9) (sz : Width) (c : CReg) (d : DReg)
  /-- fragment access (R146) -/
  | ldfRIndex (x : Src) (c : CReg) (d : DReg)
  /-- fragment access (R146) -/
  | ldfRImm (i : BitVec 9) (c : CReg) (d : DReg)
  /-- fragment access (R146) -/
  | ldfCIndex (x : Src) (c : CReg) (d : DReg)
  /-- fragment access (R146) -/
  | ldfCImm (i : BitVec 9) (c : CReg) (d : DReg)
  /-- fragment access (R146) -/
  | stfRIndex (x : Src) (c : CReg) (d : DReg)
  /-- fragment access (R146) -/
  | stfRImm (i : BitVec 9) (c : CReg) (d : DReg)
  /-- fragment access (R146) -/
  | stfCIndex (x : Src) (c : CReg) (d : DReg)
  /-- fragment access (R146) -/
  | stfCImm (i : BitVec 9) (c : CReg) (d : DReg)
  /-- `ldc cd, [c + x]` (R317) -/
  | ldcIndex (x : Src) (c : CReg) (cd : CReg)
  /-- `ldc cd, [c + imm]` (R317) -/
  | ldcImm (i : BitVec 9) (c : CReg) (cd : CReg)
  /-- `stc cd, [c + x]` (R317) -/
  | stcIndex (x : Src) (c : CReg) (cd : CReg)
  /-- `stc cd, [c + imm]` (R317) -/
  | stcImm (i : BitVec 9) (c : CReg) (cd : CReg)
  /-- `pref.lv [c + x]` (R319) -/
  | prefIndex (x : Src) (c : CReg) (llc : Bool)
  /-- `pref.lv [c + imm]` (R319) -/
  | prefImm (i : BitVec 9) (c : CReg) (llc : Bool)
  /-- `fence.o.s` (R117) -/
  | fence (s : Scope) (o : FenceOrd)
  /-- `atom` (R166) -/
  | atomRelaxed (op : AtomOp) (b : DReg) (s : Scope) (w32 : Bool) (c : CReg) (d : DReg)
  /-- `atom` (R166) -/
  | atomAcquire (op : AtomOp) (b : DReg) (s : Scope) (w32 : Bool) (c : CReg) (d : DReg)
  /-- `atom` (R166) -/
  | atomRelease (op : AtomOp) (b : DReg) (s : Scope) (w32 : Bool) (c : CReg) (d : DReg)
  /-- `atom` (R166) -/
  | atomAcqRel (op : AtomOp) (b : DReg) (s : Scope) (w32 : Bool) (c : CReg) (d : DReg)
  /-- `atoms` (R166) -/
  | atoms (op : AtomOp) (b : DReg) (o : MemOrd) (w32 : Bool) (c : CReg) (d : DReg)
  /-- `cinc cd, ca, b, sh` (R109) -/
  | cinc (b : Src) (sh : BitVec 4) (ca : CReg) (cd : CReg)
  /-- `cset cd, ca, b` (R109) -/
  | cset (b : Src) (ca : CReg) (cd : CReg)
  /-- `cbnd cd, ca, b` (R109) -/
  | cbnd (b : Src) (ca : CReg) (cd : CReg)
  /-- `cperm cd, ca, b` (R109) -/
  | cperm (b : Src) (ca : CReg) (cd : CReg)
  /-- `cseal cd, ca, cb` (R316) -/
  | cseal (cb : CReg) (ca : CReg) (cd : CReg)
  /-- `cunseal cd, ca, cb` (R316) -/
  | cunseal (cb : CReg) (ca : CReg) (cd : CReg)
  /-- `cmov cd, ca` (R109) -/
  | cmov (ca : CReg) (cd : CReg)
  /-- `cclr cd, ca` (R109) -/
  | cclr (ca : CReg) (cd : CReg)
  /-- `cget d, ca, sel` (R111) -/
  | cget (slct : BitVec 6) (ca : CReg) (d : DReg)
  /-- `ctest.w p, ca, b` (R112) -/
  | ctest (b : Src) (ca : CReg) (w : Width) (p : PReg)
  /-- `ceq.w p, ca, cb` (R112) -/
  | ceq (cb : CReg) (ca : CReg) (w : Width) (p : PReg)
  /-- `join g` (R114) -/
  | join (g : Fin 64)
  /-- `leave g` (R114) -/
  | leave (g : Fin 64)
  /-- `arrive g` (R114) -/
  | arrive (g : Fin 64)
  /-- `waitb g` (R114) -/
  | waitb (g : Fin 64)
  /-- `bar g` (R114) -/
  | bar (g : Fin 64)
  /-- `mbw m, a` (R172) -/
  | mbw (m : Fin 8) (a : Src)
  /-- `mbr d, m` (R172) -/
  | mbr (m : Fin 8) (d : DReg)
  /-- `mbtry p, d, m` (R173) -/
  | mbtry (m : Fin 8) (p : PReg) (d : DReg)
  /-- `mbind m, g` (R172) -/
  | mbind (m : Fin 8) (g : Fin 64)
  /-- copy (R174) -/
  | cpyT (q : Src) (sz : Width) (ca : CReg) (arr : Bool) (fb : Bool) (cd : CReg)
  /-- copy (R174) -/
  | cpyG (q : Src) (sz : Width) (ca : CReg) (arr : Bool) (fb : Bool) (cd : CReg)
  /-- copy (R174) -/
  | cpyS (q : Src) (sz : Width) (ca : CReg) (arr : Bool) (fb : Bool) (cd : CReg)
  /-- copy (R174) -/
  | cpySc (q : Src) (sz : Width) (ca : CReg) (arr : Bool) (fb : Bool) (cd : CReg)
  /-- copy (R174) -/
  | cpyP (q : Src) (sz : Width) (arr : Bool) (fb : Bool) (cd : CReg)
  /-- `seal d` (R180) -/
  | seal (d : DReg)
  /-- `mma.fmt t, a, b` (R256) -/
  | mma (fmt : MmaFmt) (b : Src) (a : Src) (t : Fin 16)
  /-- `mmas.fmt t, a, b, p` (R256) -/
  | mmas (fmt : MmasFmt) (b : Src) (a : Src) (p : BitVec 2) (t : Fin 16)
  /-- `mmod t, a, b` (R256) -/
  | mmod (b : Src) (a : Src) (t : Fin 16)
  /-- `aclr t` (R261) -/
  | aclr (t : Fin 16)
  /-- `ald.fmt t, [c + a]` (R262) -/
  | ald (fmt : TileFmt) (c : CReg) (a : Src) (t : Fin 16)
  /-- `ast.fmt.r [c + a], t` (R262) -/
  | ast (fmt : TileFmt) (r : Rnd) (c : CReg) (a : Src) (t : Fin 16)
  /-- `tmma t, q, c` (R267) -/
  | tmma (c : CReg) (q : Src) (t : Fin 16)
  /-- `send ce, q, cb` (R320) -/
  | send (cb : CReg) (a : Src) (ce : CReg)
  /-- `recv ce, q, cb` (R320) -/
  | recv (cb : CReg) (a : Src) (ce : CReg)
  /-- `xcall ce, q, cb` (R320) -/
  | xcall (cb : CReg) (a : Src) (ce : CReg)
  /-- `reply q, cb` (R320) -/
  | reply (cb : CReg) (a : Src)
  /-- `notify ce, a` (R320) -/
  | notify (a : Src) (ce : CReg)
  /-- `poll ce, q, cb` (R320) -/
  | poll (cb : CReg) (a : Src) (ce : CReg)
  /-- `sysc ce, q, cb` (R320) -/
  | sysc (cb : CReg) (a : Src) (ce : CReg)
  /-- `push cr, vd, cs` (R405); `keep` is UA = 01 -/
  | push (cb : CReg) (keep : Bool) (d : DReg) (ce : CReg)
  /-- `sret cr, a` (R410) -/
  | sret (a : Src) (ce : CReg)
  /-- `mark cr` (R412) -/
  | mark (ce : CReg)
  /-- `bpost bgk, q` (R413) -/
  | bpost (a : Src) (k : Fin 16)
  /-- `bwait bgk, q` (R413) -/
  | bwait (a : Src) (k : Fin 16)
  /-- `emit ce, a` (R330) -/
  | emit (a : Src) (ce : CReg)
  /-- `ckpt` (R331) -/
  | ckpt
  /-- `rd d, NAME` (R100, R333) -/
  | rd (slct : BitVec 14) (d : DReg)
  /-- `srd d, NAME` (R334) -/
  | srd (slct : BitVec 14) (d : DReg)
  /-- `swr NAME, d` (R334) -/
  | swr (slct : BitVec 14) (d : DReg)
  /-- `trap code14` (R336) -/
  | trap (code : BitVec 14)
  /-- `tret` (R337) -/
  | tret
  /-- `bsave c, sec` (R338) -/
  | bsave (sec : BitVec 3) (c : CReg)
  /-- `brest c, sec` (R338) -/
  | brest (sec : BitVec 3) (c : CReg)
  /-- `rmap d, a, b` (R339) -/
  | rmap (b : DReg) (a : Src) (d : DReg)
  /-- `halt.park` (R337) -/
  | haltPark
  /-- `halt.fail` (R337) -/
  | haltFail
  /-- `halt.requeue` (R337) -/
  | haltRequeue
  /-- `hcld hcd, imm(rs1)` (R356) -/
  | hcld (i : BitVec 12) (rs1 : Fin 32) (hcd : CReg)
  /-- `hcst hcs, imm(rs1)` (R356) -/
  | hcst (i : BitVec 12) (hcs : CReg) (rs1 : Fin 32)
  /-- `hcget rd, hca, sel` (R356) -/
  | hcget (slct : BitVec 12) (hca : CReg) (rd : Fin 32)
  /-- `hcinc hcd, hca, rs2` (R356) -/
  | hcinc (rs2 : Fin 32) (hca : CReg) (hcd : CReg)
  /-- `hcset hcd, hca, rs2` (R356) -/
  | hcset (rs2 : Fin 32) (hca : CReg) (hcd : CReg)
  /-- `hcbnd hcd, hca, rs2` (R356) -/
  | hcbnd (rs2 : Fin 32) (hca : CReg) (hcd : CReg)
  /-- `hcperm hcd, hca, rs2` (R356) -/
  | hcperm (rs2 : Fin 32) (hca : CReg) (hcd : CReg)
  /-- `hcmov hcd, hca` (R356) -/
  | hcmov (hca : CReg) (hcd : CReg)
  /-- `hcclr hcd, hca` (R356) -/
  | hcclr (hca : CReg) (hcd : CReg)
  /-- `hcseal hcd, hca, hcb` (R356) -/
  | hcseal (hcb : CReg) (hca : CReg) (hcd : CReg)
  /-- `hcunseal hcd, hca, hcb` (R356) -/
  | hcunseal (hcb : CReg) (hca : CReg) (hcd : CReg)
  /-- `hcsend hce, hcb` (R357) -/
  | hcsend (hcb : CReg) (hce : CReg)
  /-- `hcrecv hce, hcb` (R357) -/
  | hcrecv (hcb : CReg) (hce : CReg)
  /-- `hcxcall hce, hcb` (R357) -/
  | hcxcall (hcb : CReg) (hce : CReg)
  /-- `hcreply hce, hcb` (R357) -/
  | hcreply (hcb : CReg) (hce : CReg)
  /-- `hcnotify hce, rs2` (R357) -/
  | hcnotify (rs2 : Fin 32) (hce : CReg)
  /-- `hcpoll hce, hcb` (R357) -/
  | hcpoll (hcb : CReg) (hce : CReg)
  /-- a lift becomes due for a bench (R130) -/
  | liftPass (core slot : Nat)
  /-- an idle clock of a pipe (R127) -/
  | pipeIdleClock (core pipe : Nat)
  /-- load data arrive (R106) -/
  | loadComplete (id : Nat) (reply : List SeatReply)
  /-- a store is accepted (R106) -/
  | storeAccepted (id : Nat)
  /-- the values of an atomic set return (R171) -/
  | atomicComplete (id : Nat) (reply : List SeatReply)
  /-- a held line leaves the core part (R189) -/
  | holdLineDrain (task : Word) (coreT line : Nat)
  /-- a pending arrival is applied (R115) -/
  | groupArrivalApply (id : Nat)
  /-- a pause ends (R98) -/
  | pauseWake (core slot seat : Nat)
  /-- a fence ends (R117) -/
  | fenceContinue (core slot seat : Nat)
  /-- a mailbox wait times out (R160) -/
  | mbxTimeout (core slot seat : Nat)
  /-- a core of the team is gone (R154) -/
  | goneMaskSet (task : Word) (coreT : Nat)
  /-- a copy is performed and completes (R178) -/
  | copyComplete (id : Nat)
  /-- a copy's deadline passes (R181) -/
  | promiseMissed (id : Nat)
  /-- the unit time of a matrix instruction ends (R258) -/
  | matrixUnitDone (id : Nat)
  /-- a queued tmma reaches the matrix unit (R270) -/
  | tmmaHandover (id : Nat)
  /-- a tmma completes (R271) -/
  | tmmaComplete (id : Nat)
  /-- the flag of a matrix instruction falls (R276) -/
  | matrixFlagFall (id : Nat)
  /-- the rows of an ald or ast are done (R263) -/
  | tileRowsDone (id : Nat)
  /-- a walk of the Sv57 tables (R224) -/
  | pageWalk (task : Word) (core : Nat) (va : Word) (acc : Access)
  /-- expired entries cease to be used (R229) -/
  | leaseExpire (unit : TlbUnit)
  /-- a hub returns an access past its expiry (R229) -/
  | hubReturnExpired (id : Nat)
  /-- write of SDQTAIL (R455) -/
  | sdqtailWrite (v : Word32)
  /-- the next shootdown request is taken (R231) -/
  | shootdownRequest
  /-- a structure drifts from its reference (R233) -/
  | bellSkewDetect (r : SkewReport)
  /-- a structure caches again (R233) -/
  | skewRecovery (r : SkewReport)
  /-- a transfer renews a translation (R234) -/
  | translationRenewal (id : Nat) (va : Word)
  /-- another package asks for a grant (R235) -/
  | grantRequest (m : GrantMsg) (slot : Nat) (va : Word) (acc : Access)
  /-- a remote access arrives here (R401) -/
  | remoteAccessPerform (req : RemoteReq)
  /-- a remote load's deadline passes (R395) -/
  | remoteReplyDeadline (id : Nat)
  /-- a remote store's deadline passes (R401) -/
  | remoteAckDeadline (id : Nat)
  /-- a reply or a deadline reaches a saved image (R396); an empty reply is the deadline -/
  | savedReplyApply (task : Word) (coreT benchT record : Nat) (reply : List SeatReply)
  /-- a carve change completes (R240) -/
  | carveComplete (carve : Nat)
  /-- an ECC error (R247) -/
  | softError (e : SoftErr)
  /-- a hub samples an access (R249) -/
  | hotnessSample (hub die : Nat) (flags : BitVec 16) (pa : Word) (asn : Word32)
  /-- write of a hub's HOTCTL (R251) -/
  | hotctlWrite (hub : Nat) (v : Word)
  /-- write of HOTTAIL (R251) -/
  | hottailWrite (hub : Nat) (v : Word32)
  /-- the frame of a page is copied and its new mapping installed (R248) -/
  | pageMigration (asn : Nat) (va : Word) (frame : NewFrame)
  /-- instruction caches drop a range (R358) -/
  | icacheInvalidate (due : Word) (asn : Option Nat) (va : Word) (len : Nat)
  /-- a bin's timer expires (R290) -/
  | binTimerExpire (node : Nat)
  /-- a seat has been blocked 20,000 ns in emit (R291) -/
  | emitStallTimeout (core slot seat : Nat)
  /-- a task has been 1,000,000 ns in the pool (R292) -/
  | priorityAging (task : Word)
  /-- the Dean admits a task (R296) -/
  | taskAdmit (task : Word) (die : Nat)
  /-- a staged granule lands (R151) -/
  | stagingGranuleLand (task : Word) (coreT region granule : Nat)
  /-- a loader meets a page fault (R303) -/
  | stagingPageFault (task : Word) (va : Word) (sub : Nat)
  /-- a task is dispatched (R301) -/
  | taskDispatch (task : Word)
  /-- the Dean pre-empts for a starved task (R295) -/
  | deanPreempt (task : Word)
  /-- a task retires (R305) -/
  | taskRetire (task : Word)
  /-- the storers are done (R305) -/
  | taskRetireRelease (task : Word)
  /-- abort for requeue (R307) -/
  | taskAbort (task : Word) (cause : AbortCause)
  /-- the pager answers (R307) -/
  | pagerResident (task : Word)
  /-- an implicit checkpoint (R311); `bin` when it is for a full bin -/
  | implicitCheckpoint (task : Word) (bin : Bool)
  /-- P advances after 32 idle clocks (R314) -/
  | timetableIdleAdvance (core pipe : Nat)
  /-- a team halts (R377) -/
  | teamHalt (task : Word) (why : HaltWhy)
  /-- a blocked task is parked (R327) -/
  | parkBlockedTask (task : Word)
  /-- a delivery to a parked seat (R327) -/
  | parkedDelivery (task : Word) (coreT benchT seat : Nat) (d : Delivery)
  /-- a save run opens (R366) -/
  | saveRunOpen (core slot : Nat)
  /-- a restore run opens (R366) -/
  | restoreRunOpen (core slot : Nat)
  /-- a fault run opens (R382) -/
  | faultRunOpen (core : Nat)
  /-- the reply to a fault record (R386); none is GONE -/
  | faultDisposition (task : Word) (w0 : Option Word)
  /-- a placement-parked task is tested again (R389) -/
  | featChangeRetest (task : Word)
  /-- a machine check (R398) -/
  | machineCheck (sub core : Nat) (task : Word) (aux : Word)
  /-- a reservation reaches its hub (R406) -/
  | pushReserve (req : PushReq)
  /-- a slot's payload completes (R406) -/
  | pushPublish (buf k : Nat)
  /-- a push's reply lands (R407) -/
  | pushReply (id : Nat) (v : Option Word)
  /-- a push's reply deadline passes (R407) -/
  | pushReplyDeadline (id : Nat)
  /-- a granted slot times out (R408) -/
  | pushSlotTimeout (buf k : Nat)
  /-- an sret is performed (R411) -/
  | sretPerform (id : Nat)
  /-- a replica arrives (R429) -/
  | markReplicaArrive (src mark path n : Nat)
  /-- a mark completes (R412) -/
  | markDone (id : Nat)
  /-- a mark times out (R412) -/
  | markTimeout (id : Nat)
  /-- a link fails (R421) -/
  | linkFail (lib : Nat)
  /-- a link is live again (R421) -/
  | linkRetrainDone (lib : Nat)
  /-- the path set to a target changes (R426) -/
  | pathSetChange (target : Nat)
  /-- a library reports (R426) -/
  | libraryReport (lib id : Nat) (r : LibReport)
  /-- a reset target refuses (R430) -/
  | remoteRefusal (id : RefusedId) (ns : Word)
  /-- a path is silent for 10 µs (R426) -/
  | pathSilenceTimeout (target lib : Nat)
  /-- a probe of a failed path (R426) -/
  | pathProbe (target lib : Nat) (answered : Bool)
  /-- 50 µs without a path (R430) -/
  | noPathTimeout (target : Nat)
  /-- 50 µs without a pool link (R431) -/
  | poolLinkTimeout (id : Nat)
  /-- a combined set reaches this target (R428) -/
  | libraryAtomCombine (reqs : List RemoteReq)
  /-- write of POOLSEG (R423) -/
  | poolsegWrite (i : Nat) (v : Word)
  /-- a segment is written back (R423) -/
  | poolsegUnmapDone (i : Nat)
  /-- the hall pass arrives (R433) -/
  | hallPassReceive (grp : Nat)
  /-- a kind-0 post is received (R436) -/
  | programPost (grp : Nat) (f : Frame)
  /-- a pass frame is received (R433) -/
  | passFrame (grp : Nat) (f : Frame)
  /-- the pass is regenerated (R437) -/
  | hallPassRegenerate (grp : Nat)
  /-- a kind-4 frame is received (R437) -/
  | membership (grp : Nat) (m : JoinMsg)
  /-- write of BGCTL (R453) -/
  | bgctlWrite (v : Word)
  /-- beacons are sent (R438) -/
  | bellBeaconSend
  /-- a beacon is received (R438) -/
  | bellBeacon (grp : Nat) (f : Frame)
  /-- the package loses its lock (R438) -/
  | bellUnlock
  /-- a revocation notice is received (R439) -/
  | revocationNotice (via : NoticeVia) (slot : Nat) (base len : Word) (num : Word32)
  /-- an acknowledgement is received (R439) -/
  | revocationAck (src : Nat) (num : Nat)
  /-- a package is fenced (R365) -/
  | revocationFence (src : Nat) (num : Nat)
  /-- the Eraser sweeps (R364) -/
  | eraserSweep
  /-- a revocation completes (R365) -/
  | revocationComplete (num : Nat)
  /-- a destruction completes (R363) -/
  | destroyComplete (type num : Nat)
  /-- Registrar operation CREATE (R350) -/
  | create (req : RegReq)
  /-- Registrar operation MINT (R350) -/
  | mint (req : RegReq)
  /-- Registrar operation DESTROY (R350) -/
  | destroy (req : RegReq)
  /-- Registrar operation REVOKE (R350) -/
  | revoke (req : RegReq)
  /-- Registrar operation MEMCAP (R350) -/
  | memcap (req : RegReq)
  /-- Registrar operation BIND (R350) -/
  | bind (req : RegReq)
  /-- Registrar operation UNBIND (R350) -/
  | unbind (req : RegReq)
  /-- Registrar operation CARVE (R350) -/
  | carve (req : RegReq)
  /-- Registrar operation CARVECAP (R350) -/
  | carvecap (req : RegReq)
  /-- Registrar operation HEAP (R350) -/
  | heap (req : RegReq)
  /-- Registrar operation INJECT (R350) -/
  | inject (req : RegReq)
  /-- Registrar operation EMITCAP (R350) -/
  | emitcap (req : RegReq)
  /-- Registrar operation EXPORT (R350) -/
  | exportSpace (req : RegReq)
  /-- Registrar operation ADMIT (R350) -/
  | admitCap (req : RegReq)
  /-- Registrar operation PREEMPT_PARK (R350) -/
  | preemptPark (req : RegReq)
  /-- Registrar operation PREEMPT_RELEASE (R350) -/
  | preemptRelease (req : RegReq)
  /-- the serving side writes DONE (R353) -/
  | ringDoneWrite (ring : Nat) (done : Word32)
  /-- the allocation service takes a request (R342) -/
  | serviceAlloc (ring : Nat)
  /-- package reset (R440) -/
  | packageReset
  /-- a CLAIM (R444) -/
  | bootClaim (grp : Nat) (m : BootMsg)
  /-- a READY (R444); `leasemax` is the value of the image store (R446) -/
  | bootReady (grp : Nat) (m : BootMsg) (hash : Word) (lib : Nat) (leasemax : Word)
  /-- a TIMEOUT (R444) -/
  | bootTimeout (grp : Nat) (m : BootMsg)
  /-- the BOOTTMO timer expires (R446) -/
  | bootTimerExpire
  /-- the copied image is checked (R441) -/
  | imageVerify (image : List Byte)
  /-- write of BOOTCTL (R447) -/
  | bootctlWrite (v : Word)
  /-- SPDM GET_VERSION to a key object's responder (R448) -/
  | getVersion (key : Nat)
  /-- SPDM GET_CAPABILITIES to a key object's responder (R448) -/
  | getCapabilities (key : Nat)
  /-- SPDM NEGOTIATE_ALGORITHMS to a key object's responder (R448) -/
  | negotiateAlgorithms (key : Nat) (ok : Bool)
  /-- SPDM GET_DIGESTS to a key object's responder (R448) -/
  | getDigests (key : Nat)
  /-- SPDM GET_CERTIFICATE to a key object's responder (R448) -/
  | getCertificate (key slot : Nat)
  /-- SPDM CHALLENGE to a key object's responder (R448) -/
  | challenge (key slot : Nat) (nonce : BitVec 256)
  /-- SPDM GET_MEASUREMENTS to a key object's responder (R448) -/
  | getMeasurements (key index : Nat)
  /-- SPDM KEY_EXCHANGE to a key object's responder (R448) -/
  | keyExchange (key : Nat) (m : KeyExchange)
  /-- SPDM FINISH to a key object's responder (R448) -/
  | finish (key session : Nat) (ok : Bool)
  /-- SPDM END_SESSION to a key object's responder (R448) -/
  | endSession (key session : Nat)
  /-- SPDM KEY_RELEASE to a key object's responder (R448) -/
  | keyRelease (key : Nat) (session : Option Nat) (m : VendorMsg)
  /-- SPDM UNSUPPORTED_REQUEST to a key object's responder (R448) -/
  | unsupportedRequest (key code : Nat)
  /-- a power or temperature limit (R451) -/
  | powerThrottle (l : PowerLimit)
  /-- write of a management register (R452); `port` when it comes from the PCIe port -/
  | mgmtRegisterWrite (offset : Nat) (v : Word) (by_ : MgmtBy)
  /-- a word that is no instruction (R40) -/
  | illegalWord (word : Word32) (kind : IllegalKind)
  /-- an MSI vector arrives (R352) -/
  | pcieMsiVector (n : Nat)
  /-- a board fibre loses light (R416) -/
  | boardFibreLoss (grp : Nat)
  /-- a damaged frame arrives (R436) -/
  | frameCheckFail (grp : Nat) (f : Frame)
  /-- a checkpoint completes (R331) -/
  | checkpointComplete (task : Word)
  /-- a bsave or brest completes (R338) -/
  | imageSectionComplete (id : Nat)
  /-- a push's grant arrives (R406) -/
  | pushGrant (id : Nat) (k pos : Word)
  /-- a waiting hart takes a trap (R357) -/
  | hostTrapWithdraw (hart : Nat) (cause : Word)
  /-- a host access is performed (R217) -/
  | hostHartAccess (hart : Nat) (pa : Nat) (acc : HostAcc)
  /-- LEASEMAX has passed after a lost remote path (R388) -/
  | leasemaxRequeueWait (task : Word)
  deriving DecidableEq, Repr

end Sys2Proof
end

