-- ==== Sys2Proof/WellFormed.lean ====
section
/-!
DEFINITION. Which instructions are well formed: the checks whose breach is ILLEGAL_ENCODING (R26 and the chapters'
own lists). The opcode map's unassigned minors (R40) never become an `Instr`.
-/
namespace Sys2Proof

/-- The use bits of one source (R25, R26): code 11 is illegal, and a last read names a v register. -/
def useOk (a : Src) : Bool := a.use != .reserved && (a.reg.isV || a.use != .last)

/-- The use bits of the two sources A and B (R26): one v register named by both carries the same bits. -/
def useOk2 (a b : Src) : Bool := useOk a && useOk b && !(a.reg.isV && a.reg == b.reg && a.use != b.use)

/-- A last read of an accumulating form's D (R26). -/
def accOk (a : Src) (d : DReg) : Bool := !(a.use == .last && a.reg == d)

/-- SETA and SETB name a flag or none (R29). -/
def setFlagOk (n : BitVec 4) : Bool := n.toNat < 12 || n.toNat == 15

/-- The operation of `scan` and `red` (R165): integer codes 0 and 1 to 7 but 2 is max; float codes 0 to 2. -/
def redOpOk (float : Bool) (o : BitVec 3) : Bool := !float || o.toNat ≤ 2

/-- D of an atomic names a v register, and an even one for `cas` (R166). -/
def atomOk (op : AtomOp) (d : DReg) : Bool := d.isV && (op != .cas || d.isEven)

/-- The fragments of `mma` name v registers, even ones for the 16-bit formats (R256). -/
def mmaOk (fmt : MmaFmt) (a b : Src) : Bool :=
  a.reg.isV && b.reg.isV && ((fmt != .bf16 && fmt != .f16) || (a.reg.isEven && b.reg.isEven))

/-- The rounding code of `ast` (R262). -/
def astRndOk (fmt : TileFmt) (r : Rnd) : Bool :=
  r != .reserved && ((fmt != .raw && fmt != .s32) || r == .rne)

/-- The selectors that `rd` reads (R100, R333). -/
def rdSelOk (s : BitVec 14) : Bool := s.toNat ≤ 0x000F

/-- The selectors that the register map assigns (R335). -/
def sysSelOk (s : BitVec 14) : Bool :=
  s.toNat == 0x0100 || s.toNat == 0x0101 || (0x0110 ≤ s.toNat && s.toNat ≤ 0x0113) || s.toNat == 0x0118 ||
  (0x0120 ≤ s.toNat && s.toNat ≤ 0x0127) || (0x0200 ≤ s.toNat && s.toNat ≤ 0x0207)

/-- The checks of R26 and of the chapters on an instruction's fields. An operation without an encoding has none. DESIGN CHOICE (log
31): the B of `sel`, which has no use bits (R73), counts as a plain read, so that `sel` of one v register as an A with `.l` or `.k`
and as B names it with different use bits (R26). -/
def Instr.wf : Instr → Bool
  | .clause _ _ setB setA _ => setFlagOk setA && setFlagOk setB
  | .mov16 _ _ _ => true
  | .add16 _ _ _ => true
  | .sub16 _ _ _ => true
  | .mul16 _ _ _ => true
  | .and16 _ _ _ => true
  | .or16 _ _ _ => true
  | .xor16 _ _ _ => true
  | .shl16 _ _ _ => true
  | .shr16 _ _ _ => true
  | .sar16 _ _ _ => true
  | .min16 _ _ _ => true
  | .max16 _ _ _ => true
  | .fadd16 _ _ _ => true
  | .fsub16 _ _ _ => true
  | .fmul16 _ _ _ => true
  | .fma16 _ _ _ => true
  | .add _ b a _ => useOk2 a b
  | .sub _ b a _ => useOk2 a b
  | .mul _ b a _ => useOk2 a b
  | .mulh _ b a _ => useOk2 a b
  | .mad _ b a d => useOk2 a b && accOk a d && accOk b d
  | .min _ b a _ => useOk2 a b
  | .max _ b a _ => useOk2 a b
  | .minu _ b a _ => useOk2 a b
  | .maxu _ b a _ => useOk2 a b
  | .abs _ a _ => useOk a
  | .neg _ a _ => useOk a
  | .shl _ b a _ => useOk2 a b
  | .shr _ b a _ => useOk2 a b
  | .sar _ b a _ => useOk2 a b
  | .rot _ b a _ => useOk2 a b
  | .clz _ a _ => useOk a
  | .ctz _ a _ => useOk a
  | .popc _ a _ => useOk a
  | .brev _ a _ => useOk a
  | .bfx _ b a _ => useOk2 a b
  | .bfi _ b a d => useOk2 a b && accOk a d && accOk b d
  | .sel _ _ b a _ => useOk2 a ⟨b, .plain⟩
  | .cvtI _ _ _ _ a _ => useOk a
  | .and b a _ => useOk2 a b
  | .or b a _ => useOk2 a b
  | .xor b a _ => useOk2 a b
  | .andn b a _ => useOk2 a b
  | .not a _ => useOk a
  | .mov a _ => useOk a
  | .perm b a _ => useOk2 a b
  | .pack w b a _ => useOk2 a b && w != .b
  | .unpack w _ a _ => useOk a && w != .b
  | .fadd _ b a _ => useOk2 a b
  | .fsub _ b a _ => useOk2 a b
  | .fmul _ b a _ => useOk2 a b
  | .fma _ b a d => useOk2 a b && accOk a d && accOk b d
  | .fnma _ b a d => useOk2 a b && accOk a d && accOk b d
  | .fscale _ b a _ => useOk2 a b
  | .fmin _ b a _ => useOk2 a b
  | .fmax _ b a _ => useOk2 a b
  | .fabs _ a _ => useOk a
  | .fneg _ a _ => useOk a
  | .fclass _ a _ => useOk a
  | .fround r _ a _ => useOk a && r.isDirected
  | .fcvt dst r src a _ => useOk a && r != .reserved && !(dst.isInt && src.isInt)
  | .frcp f a _ => useOk a && f != .f64
  | .frsq f a _ => useOk a && f != .f64
  | .fsqrt f a _ => useOk a && f != .f64
  | .fexp2 f a _ => useOk a && f != .f64
  | .flog2 f a _ => useOk a && f != .f64
  | .fsin f a _ => useOk a && f != .f64
  | .fcos f a _ => useOk a && f != .f64
  | .ftanh f a _ => useOk a && f != .f64
  | .modadd b a _ => useOk2 a b
  | .modsub b a _ => useOk2 a b
  | .modmul b a _ => useOk2 a b
  | .mred b a _ => useOk2 a b
  | .nttbf a d => useOk a && d.isEvenV && accOk a d && accOk a d.succ
  | .inttbf a d => useOk a && d.isEvenV && accOk a d && accOk a d.succ
  | .shfl b a _ => useOk2 a b
  | .shflx b a _ => useOk2 a b
  | .bcast _ a _ => useOk a
  | .ballot _ _ => true
  | .voteAny _ _ _ => true
  | .voteAll _ _ _ => true
  | .matchSeats a _ => useOk a
  | .scan _ _ fl o a _ => useOk a && redOpOk fl o
  | .red _ fl o a _ => useOk a && redOpOk fl o
  | .li _ _ => true
  | .lih1 _ _ => true
  | .lih2 _ _ => true
  | .lih3 _ _ => true
  | .lih0 _ _ => true
  | .addi _ _ _ _ => true
  | .bra _ => true
  | .call _ _ => true
  | .brP _ _ _ => true
  | .brx _ _ => true
  | .ret a => useOk a
  | .exit => true
  | .yield => true
  | .brk _ _ => true
  | .pause a => useOk a
  | .cmp _ b a _ _ => useOk2 a b
  | .cmpi _ _ a _ _ => useOk a
  | .fcmp _ b a _ _ => useOk2 a b
  | .pand _ _ _ => true
  | .por _ _ _ => true
  | .pxor _ _ _ => true
  | .pnot _ _ => true
  | .ldIndex x _ _ _ => useOk x
  | .ldImm _ _ _ _ => true
  | .stIndex x _ _ _ => useOk x
  | .stImm _ _ _ _ => true
  | .ldpIndex x _ d => useOk x && d.isEven
  | .ldpImm _ _ d => d.isEven
  | .stpIndex x _ d => useOk x && d.isEven
  | .stpImm _ _ d => d.isEven
  | .ldsIndex x _ _ _ => useOk x
  | .ldsImm _ _ _ _ => true
  | .stsIndex x _ _ _ => useOk x
  | .stsImm _ _ _ _ => true
  | .ldfRIndex x _ _ => useOk x
  | .ldfRImm _ _ _ => true
  | .ldfCIndex x _ _ => useOk x
  | .ldfCImm _ _ _ => true
  | .stfRIndex x _ _ => useOk x
  | .stfRImm _ _ _ => true
  | .stfCIndex x _ _ => useOk x
  | .stfCImm _ _ _ => true
  | .ldcIndex x _ _ => useOk x
  | .ldcImm _ _ _ => true
  | .stcIndex x _ _ => useOk x
  | .stcImm _ _ _ => true
  | .prefIndex x _ _ => useOk x
  | .prefImm _ _ _ => true
  | .fence s o => s != .reserved && o != .reserved
  | .atomRelaxed op _ s _ _ d => atomOk op d && s != .reserved
  | .atomAcquire op _ s _ _ d => atomOk op d && s != .reserved
  | .atomRelease op _ s _ _ d => atomOk op d && s != .reserved
  | .atomAcqRel op _ s _ _ d => atomOk op d && s != .reserved
  | .atoms op _ _ _ _ d => atomOk op d
  | .cinc b _ _ _ => useOk b
  | .cset b _ _ => useOk b
  | .cbnd b _ _ => useOk b
  | .cperm b _ _ => useOk b
  | .cseal _ _ _ => true
  | .cunseal _ _ _ => true
  | .cmov _ _ => true
  | .cclr _ _ => true
  | .cget slct _ _ => slct.toNat ≤ 10
  | .ctest b _ _ _ => useOk b
  | .ceq _ _ _ _ => true
  | .join _ => true
  | .leave _ => true
  | .arrive _ => true
  | .waitb _ => true
  | .bar _ => true
  | .mbw _ a => useOk a
  | .mbr _ d => d.isV
  | .mbtry _ _ d => d.isV
  | .mbind _ _ => true
  | .cpyT q _ _ _ _ _ => useOk q && q.reg.isQuad
  | .cpyG q _ _ _ _ _ => useOk q && q.reg.isQuad
  | .cpyS q _ _ _ _ _ => useOk q && q.reg.isQuad
  | .cpySc q _ _ _ _ _ => useOk q && q.reg.isQuad
  | .cpyP q _ _ _ _ => useOk q && q.reg.isQuad
  | .seal _ => true
  | .mma fmt b a _ => useOk2 a b && mmaOk fmt a b
  | .mmas _ b a _ _ => useOk2 a b && a.reg.isV && b.reg.isV && b.reg.code ≤ 46
  | .mmod b a t => useOk2 a b && a.reg.isV && b.reg.isV && t.val % 2 == 0
  | .aclr _ => true
  | .ald fmt _ a _ => useOk a && fmt != .reserved
  | .ast fmt r _ a _ => useOk a && fmt != .reserved && astRndOk fmt r
  | .tmma _ q t => useOk q && q.reg.isQuad && t.val % 4 == 0
  | .send _ a _ => useOk a && a.reg.isQuad
  | .recv _ a _ => useOk a && a.reg.isQuadV
  | .xcall _ a _ => useOk a && a.reg.isQuad
  | .reply _ a => useOk a && a.reg.isQuad
  | .notify a _ => useOk a
  | .poll _ a _ => useOk a && a.reg.isQuadV
  | .sysc _ a _ => useOk a && a.reg.isQuad
  | .push _ _ d _ => d.isV
  | .sret a _ => useOk a
  | .mark _ => true
  | .bpost a _ => useOk a && a.use != .last && a.reg.isQuadV
  | .bwait a _ => useOk a && a.use != .last && a.reg.isQuadV
  | .emit a _ => useOk a
  | .ckpt => true
  | .rd slct _ => rdSelOk slct
  | .srd slct _ => sysSelOk slct
  | .swr slct _ => sysSelOk slct
  | .trap _ => true
  | .tret => true
  | .bsave _ _ => true
  | .brest _ _ => true
  | .rmap b a _ => useOk2 a ⟨b, .plain⟩
  | .haltPark => true
  | .haltFail => true
  | .haltRequeue => true
  | .hcld _ _ _ => true
  | .hcst _ _ _ => true
  | .hcget slct _ _ => slct.toNat ≤ 10
  | .hcinc _ _ _ => true
  | .hcset _ _ _ => true
  | .hcbnd _ _ _ => true
  | .hcperm _ _ _ => true
  | .hcmov _ _ => true
  | .hcclr _ _ => true
  | .hcseal _ _ _ => true
  | .hcunseal _ _ _ => true
  | .hcsend _ _ => true
  | .hcrecv _ _ => true
  | .hcxcall _ _ => true
  | .hcreply _ _ => true
  | .hcnotify _ _ => true
  | .hcpoll _ _ => true
  | .liftPass _ _ => true
  | .pipeIdleClock _ _ => true
  | .loadComplete _ _ => true
  | .storeAccepted _ => true
  | .atomicComplete _ _ => true
  | .holdLineDrain _ _ _ => true
  | .groupArrivalApply _ => true
  | .pauseWake _ _ _ => true
  | .fenceContinue _ _ _ => true
  | .mbxTimeout _ _ _ => true
  | .goneMaskSet _ _ => true
  | .copyComplete _ => true
  | .promiseMissed _ => true
  | .matrixUnitDone _ => true
  | .tmmaHandover _ => true
  | .tmmaComplete _ => true
  | .matrixFlagFall _ => true
  | .tileRowsDone _ => true
  | .pageWalk _ _ _ _ => true
  | .leaseExpire _ => true
  | .hubReturnExpired _ => true
  | .sdqtailWrite _ => true
  | .shootdownRequest => true
  | .bellSkewDetect _ => true
  | .skewRecovery _ => true
  | .translationRenewal _ _ => true
  | .grantRequest _ _ _ _ => true
  | .remoteAccessPerform _ => true
  | .remoteReplyDeadline _ => true
  | .remoteAckDeadline _ => true
  | .savedReplyApply _ _ _ _ _ => true
  | .carveComplete _ => true
  | .softError _ => true
  | .hotnessSample _ _ _ _ _ => true
  | .hotctlWrite _ _ => true
  | .hottailWrite _ _ => true
  | .pageMigration _ _ _ => true
  | .icacheInvalidate _ _ _ _ => true
  | .binTimerExpire _ => true
  | .emitStallTimeout _ _ _ => true
  | .priorityAging _ => true
  | .taskAdmit _ _ => true
  | .stagingGranuleLand _ _ _ _ => true
  | .stagingPageFault _ _ _ => true
  | .taskDispatch _ => true
  | .deanPreempt _ => true
  | .taskRetire _ => true
  | .taskRetireRelease _ => true
  | .taskAbort _ _ => true
  | .pagerResident _ => true
  | .implicitCheckpoint _ _ => true
  | .timetableIdleAdvance _ _ => true
  | .teamHalt _ _ => true
  | .parkBlockedTask _ => true
  | .parkedDelivery _ _ _ _ _ => true
  | .saveRunOpen _ _ => true
  | .restoreRunOpen _ _ => true
  | .faultRunOpen _ => true
  | .faultDisposition _ _ => true
  | .featChangeRetest _ => true
  | .machineCheck _ _ _ _ => true
  | .pushReserve _ => true
  | .pushPublish _ _ => true
  | .pushReply _ _ => true
  | .pushReplyDeadline _ => true
  | .pushSlotTimeout _ _ => true
  | .sretPerform _ => true
  | .markReplicaArrive _ _ _ _ => true
  | .markDone _ => true
  | .markTimeout _ => true
  | .linkFail _ => true
  | .linkRetrainDone _ => true
  | .pathSetChange _ => true
  | .libraryReport _ _ _ => true
  | .remoteRefusal _ _ => true
  | .pathSilenceTimeout _ _ => true
  | .pathProbe _ _ _ => true
  | .noPathTimeout _ => true
  | .poolLinkTimeout _ => true
  | .libraryAtomCombine _ => true
  | .poolsegWrite _ _ => true
  | .poolsegUnmapDone _ => true
  | .hallPassReceive _ => true
  | .programPost _ _ => true
  | .passFrame _ _ => true
  | .hallPassRegenerate _ => true
  | .membership _ _ => true
  | .bgctlWrite _ => true
  | .bellBeaconSend => true
  | .bellBeacon _ _ => true
  | .bellUnlock => true
  | .revocationNotice _ _ _ _ _ => true
  | .revocationAck _ _ => true
  | .revocationFence _ _ => true
  | .eraserSweep => true
  | .revocationComplete _ => true
  | .destroyComplete _ _ => true
  | .create _ => true
  | .mint _ => true
  | .destroy _ => true
  | .revoke _ => true
  | .memcap _ => true
  | .bind _ => true
  | .unbind _ => true
  | .carve _ => true
  | .carvecap _ => true
  | .heap _ => true
  | .inject _ => true
  | .emitcap _ => true
  | .exportSpace _ => true
  | .admitCap _ => true
  | .preemptPark _ => true
  | .preemptRelease _ => true
  | .ringDoneWrite _ _ => true
  | .serviceAlloc _ => true
  | .packageReset => true
  | .bootClaim _ _ => true
  | .bootReady _ _ _ _ _ => true
  | .bootTimeout _ _ => true
  | .bootTimerExpire => true
  | .imageVerify _ => true
  | .bootctlWrite _ => true
  | .getVersion _ => true
  | .getCapabilities _ => true
  | .negotiateAlgorithms _ _ => true
  | .getDigests _ => true
  | .getCertificate _ _ => true
  | .challenge _ _ _ => true
  | .getMeasurements _ _ => true
  | .keyExchange _ _ => true
  | .finish _ _ _ => true
  | .endSession _ _ => true
  | .keyRelease _ _ _ => true
  | .unsupportedRequest _ _ => true
  | .powerThrottle _ => true
  | .mgmtRegisterWrite _ _ _ => true
  | .illegalWord _ _ => true
  | .pcieMsiVector _ => true
  | .boardFibreLoss _ => true
  | .frameCheckFail _ _ => true
  | .checkpointComplete _ => true
  | .imageSectionComplete _ => true
  | .pushGrant _ _ _ => true
  | .hostTrapWithdraw _ _ => true
  | .hostHartAccess _ _ _ => true
  | .leasemaxRequeueWait _ => true

end Sys2Proof
end

