-- ==== Sys2Proof/Decode.lean ====
section
/-!
DEFINITION. The decoder, total on every word: an instruction, or the reason why the word is none (R26, R40, R43). The
encoder follows, written from the same field tables.
-/
namespace Sys2Proof

/-- Why a word is no instruction (R40, R26, R29). -/
inductive DecodeErr where
  /-- an unassigned major or minor: ILLEGAL_INSTRUCTION (R40) -/
  | unassigned
  /-- a field in breach: ILLEGAL_ENCODING (R26) -/
  | field
  /-- a clause header in breach: ILLEGAL_ENCODING of the header (R29, R43) -/
  | header
  deriving DecidableEq, Repr

/-! ## Fields -/

/-- The n bits of w from bit lo upward. -/
def fld (w lo n : Nat) : Nat := w / 2 ^ lo % 2 ^ n

def DReg.ofCode (c : Nat) : DReg := if c < 48 then .v (Fin.ofNat 48 c) else .s (Fin.ofNat 16 (c - 48))
def Use.ofCode : Nat → Use
  | 0 => .plain | 1 => .keep | 2 => .last | _ => .reserved
def Use.code : Use → Nat
  | .plain => 0 | .keep => 1 | .last => 2 | .reserved => 3
def Width.ofCode : Nat → Width
  | 0 => .d | 1 => .w | 2 => .h | _ => .b
def Width.code : Width → Nat
  | .d => 0 | .w => 1 | .h => 2 | .b => 3
def FWidth.ofCode : Nat → FWidth
  | 0 => .f64 | 1 => .f32 | 2 => .f16 | _ => .bf16
def FWidth.code : FWidth → Nat
  | .f64 => 0 | .f32 => 1 | .f16 => 2 | .bf16 => 3
def ClauseW.ofCode : Nat → ClauseW
  | 0 => .d | 1 => .w | 2 => .h | _ => .bf
def ClauseW.code : ClauseW → Nat
  | .d => 0 | .w => 1 | .h => 2 | .bf => 3
def Rnd.ofCode : Nat → Rnd
  | 0 => .rne | 1 => .rtz | 2 => .rup | 3 => .rdn | 4 => .sr | _ => .reserved
def Rnd.code : Rnd → Nat
  | .rne => 0 | .rtz => 1 | .rup => 2 | .rdn => 3 | .sr => 4 | .reserved => 5
def CFmt.ofCode : Nat → CFmt
  | 0 => .f64 | 1 => .f32 | 2 => .f16 | 3 => .bf16 | 4 => .e4m3 | 5 => .e5m2 | 6 => .s32 | _ => .s64
def CFmt.code : CFmt → Nat
  | .f64 => 0 | .f32 => 1 | .f16 => 2 | .bf16 => 3 | .e4m3 => 4 | .e5m2 => 5 | .s32 => 6 | .s64 => 7
def ICond.ofCode : Nat → ICond
  | 0 => .eq | 1 => .ne | 2 => .lt | 3 => .le | 4 => .gt | 5 => .ge | 6 => .ltu | _ => .leu
def ICond.code : ICond → Nat
  | .eq => 0 | .ne => 1 | .lt => 2 | .le => 3 | .gt => 4 | .ge => 5 | .ltu => 6 | .leu => 7
def FCond.ofCode : Nat → FCond
  | 0 => .eq | 1 => .ne | 2 => .lt | 3 => .le | 4 => .gt | 5 => .ge | 6 => .un | _ => .ord
def FCond.code : FCond → Nat
  | .eq => 0 | .ne => 1 | .lt => 2 | .le => 3 | .gt => 4 | .ge => 5 | .un => 6 | .ord => 7
def Scope.ofCode : Nat → Scope
  | 0 => .seat | 1 => .bench | 2 => .core | 3 => .team | 4 => .die | 5 => .pkg | 6 => .dom | _ => .reserved
def Scope.code : Scope → Nat
  | .seat => 0 | .bench => 1 | .core => 2 | .team => 3 | .die => 4 | .pkg => 5 | .dom => 6 | .reserved => 7
def FenceOrd.ofCode : Nat → FenceOrd
  | 0 => .acqRel | 1 => .acquire | 2 => .release | _ => .reserved
def FenceOrd.code : FenceOrd → Nat
  | .acqRel => 0 | .acquire => 1 | .release => 2 | .reserved => 3
def MemOrd.ofCode : Nat → MemOrd
  | 0 => .relaxed | 1 => .acquire | 2 => .release | _ => .acqRel
def MemOrd.code : MemOrd → Nat
  | .relaxed => 0 | .acquire => 1 | .release => 2 | .acqRel => 3
def AtomOp.ofCode : Nat → AtomOp
  | 0 => .add | 1 => .and | 2 => .or | 3 => .xor | 4 => .min | 5 => .max | 6 => .minu | 7 => .maxu
  | 8 => .swap | 9 => .cas | _ => .fadd
def AtomOp.code : AtomOp → Nat
  | .add => 0 | .and => 1 | .or => 2 | .xor => 3 | .min => 4 | .max => 5 | .minu => 6 | .maxu => 7
  | .swap => 8 | .cas => 9 | .fadd => 10
def MmaFmt.ofCode : Nat → MmaFmt
  | 0 => .e4m3 | 1 => .e5m2 | 2 => .bf16 | 3 => .f16 | _ => .b
def MmaFmt.code : MmaFmt → Nat
  | .e4m3 => 0 | .e5m2 => 1 | .bf16 => 2 | .f16 => 3 | .b => 4
def MmasFmt.ofCode : Nat → MmasFmt
  | 0 => .e4m3 | 1 => .e5m2 | 2 => .e3m2 | 3 => .e2m3 | _ => .e2m1
def MmasFmt.code : MmasFmt → Nat
  | .e4m3 => 0 | .e5m2 => 1 | .e3m2 => 2 | .e2m3 => 3 | .e2m1 => 4
def TileFmt.ofCode : Nat → TileFmt
  | 0 => .raw | 1 => .f32 | 2 => .bf16 | 3 => .f16 | 4 => .e4m3 | 5 => .e5m2 | 6 => .s32 | _ => .reserved
def TileFmt.code : TileFmt → Nat
  | .raw => 0 | .f32 => 1 | .bf16 => 2 | .f16 => 3 | .e4m3 => 4 | .e5m2 => 5 | .s32 => 6 | .reserved => 7

/-- An instruction whose must-be-zero fields are zero and whose fields are in order (R26). -/
def chk (zero : Bool) (i : Instr) : Except DecodeErr Instr := if zero && i.wf then .ok i else .error .field

/-- The same for a clause header (R29). -/
def chkHeader (zero : Bool) (i : Instr) : Except DecodeErr Instr := if zero && i.wf then .ok i else .error .header

/-! ## The majors -/

/-- Major 0x00 (R40). -/
def decodeMajor00 (w : Nat) : Except DecodeErr Instr :=
  chkHeader (fld w 30 2 == 0) (.clause (fld w 29 1 == 1) (ClauseW.ofCode (fld w 27 2)) (BitVec.ofNat 4 (fld w 23 4)) (BitVec.ofNat 4 (fld w 19 4)) (BitVec.ofNat 12 (fld w 7 12)))

/-- Major 0x01 (R40). -/
def decodeMajor01 (w : Nat) : Except DecodeErr Instr :=
  if fld w 31 1 == 1 then chk (true) (.sub (Width.ofCode (fld w 29 2)) ⟨DReg.ofCode (fld w 21 6), Use.ofCode (fld w 27 2)⟩ ⟨DReg.ofCode (fld w 13 6), Use.ofCode (fld w 19 2)⟩ (DReg.ofCode (fld w 7 6)))
  else chk (true) (.add (Width.ofCode (fld w 29 2)) ⟨DReg.ofCode (fld w 21 6), Use.ofCode (fld w 27 2)⟩ ⟨DReg.ofCode (fld w 13 6), Use.ofCode (fld w 19 2)⟩ (DReg.ofCode (fld w 7 6)))

/-- Major 0x02 (R40). -/
def decodeMajor02 (w : Nat) : Except DecodeErr Instr :=
  if fld w 31 1 == 1 then chk (true) (.mulh (Width.ofCode (fld w 29 2)) ⟨DReg.ofCode (fld w 21 6), Use.ofCode (fld w 27 2)⟩ ⟨DReg.ofCode (fld w 13 6), Use.ofCode (fld w 19 2)⟩ (DReg.ofCode (fld w 7 6)))
  else chk (true) (.mul (Width.ofCode (fld w 29 2)) ⟨DReg.ofCode (fld w 21 6), Use.ofCode (fld w 27 2)⟩ ⟨DReg.ofCode (fld w 13 6), Use.ofCode (fld w 19 2)⟩ (DReg.ofCode (fld w 7 6)))

/-- Major 0x03 (R40). -/
def decodeMajor03 (w : Nat) : Except DecodeErr Instr :=
  if fld w 31 1 == 1 then .error .unassigned else chk (true) (.mad (Width.ofCode (fld w 29 2)) ⟨DReg.ofCode (fld w 21 6), Use.ofCode (fld w 27 2)⟩ ⟨DReg.ofCode (fld w 13 6), Use.ofCode (fld w 19 2)⟩ (DReg.ofCode (fld w 7 6)))

/-- Major 0x04 (R40). -/
def decodeMajor04 (w : Nat) : Except DecodeErr Instr :=
  if fld w 31 1 == 1 then chk (true) (.max (Width.ofCode (fld w 29 2)) ⟨DReg.ofCode (fld w 21 6), Use.ofCode (fld w 27 2)⟩ ⟨DReg.ofCode (fld w 13 6), Use.ofCode (fld w 19 2)⟩ (DReg.ofCode (fld w 7 6)))
  else chk (true) (.min (Width.ofCode (fld w 29 2)) ⟨DReg.ofCode (fld w 21 6), Use.ofCode (fld w 27 2)⟩ ⟨DReg.ofCode (fld w 13 6), Use.ofCode (fld w 19 2)⟩ (DReg.ofCode (fld w 7 6)))

/-- Major 0x05 (R40). -/
def decodeMajor05 (w : Nat) : Except DecodeErr Instr :=
  if fld w 31 1 == 1 then chk (true) (.maxu (Width.ofCode (fld w 29 2)) ⟨DReg.ofCode (fld w 21 6), Use.ofCode (fld w 27 2)⟩ ⟨DReg.ofCode (fld w 13 6), Use.ofCode (fld w 19 2)⟩ (DReg.ofCode (fld w 7 6)))
  else chk (true) (.minu (Width.ofCode (fld w 29 2)) ⟨DReg.ofCode (fld w 21 6), Use.ofCode (fld w 27 2)⟩ ⟨DReg.ofCode (fld w 13 6), Use.ofCode (fld w 19 2)⟩ (DReg.ofCode (fld w 7 6)))

/-- Major 0x06 (R40). -/
def decodeMajor06 (w : Nat) : Except DecodeErr Instr :=
  if fld w 31 1 == 1 then chk (fld w 21 8 == 0) (.neg (Width.ofCode (fld w 29 2)) ⟨DReg.ofCode (fld w 13 6), Use.ofCode (fld w 19 2)⟩ (DReg.ofCode (fld w 7 6)))
  else chk (fld w 21 8 == 0) (.abs (Width.ofCode (fld w 29 2)) ⟨DReg.ofCode (fld w 13 6), Use.ofCode (fld w 19 2)⟩ (DReg.ofCode (fld w 7 6)))

/-- Major 0x07 (R40). -/
def decodeMajor07 (w : Nat) : Except DecodeErr Instr :=
  if fld w 31 1 == 1 then chk (true) (.shr (Width.ofCode (fld w 29 2)) ⟨DReg.ofCode (fld w 21 6), Use.ofCode (fld w 27 2)⟩ ⟨DReg.ofCode (fld w 13 6), Use.ofCode (fld w 19 2)⟩ (DReg.ofCode (fld w 7 6)))
  else chk (true) (.shl (Width.ofCode (fld w 29 2)) ⟨DReg.ofCode (fld w 21 6), Use.ofCode (fld w 27 2)⟩ ⟨DReg.ofCode (fld w 13 6), Use.ofCode (fld w 19 2)⟩ (DReg.ofCode (fld w 7 6)))

/-- Major 0x08 (R40). -/
def decodeMajor08 (w : Nat) : Except DecodeErr Instr :=
  if fld w 31 1 == 1 then chk (true) (.rot (Width.ofCode (fld w 29 2)) ⟨DReg.ofCode (fld w 21 6), Use.ofCode (fld w 27 2)⟩ ⟨DReg.ofCode (fld w 13 6), Use.ofCode (fld w 19 2)⟩ (DReg.ofCode (fld w 7 6)))
  else chk (true) (.sar (Width.ofCode (fld w 29 2)) ⟨DReg.ofCode (fld w 21 6), Use.ofCode (fld w 27 2)⟩ ⟨DReg.ofCode (fld w 13 6), Use.ofCode (fld w 19 2)⟩ (DReg.ofCode (fld w 7 6)))

/-- Major 0x09 (R40). -/
def decodeMajor09 (w : Nat) : Except DecodeErr Instr :=
  if fld w 31 1 == 1 then chk (fld w 21 8 == 0) (.ctz (Width.ofCode (fld w 29 2)) ⟨DReg.ofCode (fld w 13 6), Use.ofCode (fld w 19 2)⟩ (DReg.ofCode (fld w 7 6)))
  else chk (fld w 21 8 == 0) (.clz (Width.ofCode (fld w 29 2)) ⟨DReg.ofCode (fld w 13 6), Use.ofCode (fld w 19 2)⟩ (DReg.ofCode (fld w 7 6)))

/-- Major 0x0A (R40). -/
def decodeMajor0A (w : Nat) : Except DecodeErr Instr :=
  if fld w 31 1 == 1 then chk (fld w 21 8 == 0) (.brev (Width.ofCode (fld w 29 2)) ⟨DReg.ofCode (fld w 13 6), Use.ofCode (fld w 19 2)⟩ (DReg.ofCode (fld w 7 6)))
  else chk (fld w 21 8 == 0) (.popc (Width.ofCode (fld w 29 2)) ⟨DReg.ofCode (fld w 13 6), Use.ofCode (fld w 19 2)⟩ (DReg.ofCode (fld w 7 6)))

/-- Major 0x0B (R40). -/
def decodeMajor0B (w : Nat) : Except DecodeErr Instr :=
  if fld w 31 1 == 1 then chk (true) (.bfi (Width.ofCode (fld w 29 2)) ⟨DReg.ofCode (fld w 21 6), Use.ofCode (fld w 27 2)⟩ ⟨DReg.ofCode (fld w 13 6), Use.ofCode (fld w 19 2)⟩ (DReg.ofCode (fld w 7 6)))
  else chk (true) (.bfx (Width.ofCode (fld w 29 2)) ⟨DReg.ofCode (fld w 21 6), Use.ofCode (fld w 27 2)⟩ ⟨DReg.ofCode (fld w 13 6), Use.ofCode (fld w 19 2)⟩ (DReg.ofCode (fld w 7 6)))

/-- Major 0x0C (R40). -/
def decodeMajor0C (w : Nat) : Except DecodeErr Instr :=
  chk (true) (.sel (Fin.ofNat 8 (fld w 29 3)) (Width.ofCode (fld w 27 2)) (DReg.ofCode (fld w 21 6)) ⟨DReg.ofCode (fld w 13 6), Use.ofCode (fld w 19 2)⟩ (DReg.ofCode (fld w 7 6)))

/-- Major 0x0D (R40). -/
def decodeMajor0D (w : Nat) : Except DecodeErr Instr :=
  chk (fld w 24 5 == 0) (.cvtI (fld w 31 1 == 1) (Width.ofCode (fld w 29 2)) (fld w 23 1 == 1) (Width.ofCode (fld w 21 2)) ⟨DReg.ofCode (fld w 13 6), Use.ofCode (fld w 19 2)⟩ (DReg.ofCode (fld w 7 6)))

/-- Major 0x0E (R40). -/
def decodeMajor0E (w : Nat) : Except DecodeErr Instr :=
  match fld w 29 3 with
  | 0 => chk (true) (.and ⟨DReg.ofCode (fld w 21 6), Use.ofCode (fld w 27 2)⟩ ⟨DReg.ofCode (fld w 13 6), Use.ofCode (fld w 19 2)⟩ (DReg.ofCode (fld w 7 6)))
  | 1 => chk (true) (.or ⟨DReg.ofCode (fld w 21 6), Use.ofCode (fld w 27 2)⟩ ⟨DReg.ofCode (fld w 13 6), Use.ofCode (fld w 19 2)⟩ (DReg.ofCode (fld w 7 6)))
  | 2 => chk (true) (.xor ⟨DReg.ofCode (fld w 21 6), Use.ofCode (fld w 27 2)⟩ ⟨DReg.ofCode (fld w 13 6), Use.ofCode (fld w 19 2)⟩ (DReg.ofCode (fld w 7 6)))
  | 3 => chk (true) (.andn ⟨DReg.ofCode (fld w 21 6), Use.ofCode (fld w 27 2)⟩ ⟨DReg.ofCode (fld w 13 6), Use.ofCode (fld w 19 2)⟩ (DReg.ofCode (fld w 7 6)))
  | 4 => chk (fld w 21 8 == 0) (.not ⟨DReg.ofCode (fld w 13 6), Use.ofCode (fld w 19 2)⟩ (DReg.ofCode (fld w 7 6)))
  | 5 => chk (fld w 21 8 == 0) (.mov ⟨DReg.ofCode (fld w 13 6), Use.ofCode (fld w 19 2)⟩ (DReg.ofCode (fld w 7 6)))
  | 6 => chk (true) (.perm ⟨DReg.ofCode (fld w 21 6), Use.ofCode (fld w 27 2)⟩ ⟨DReg.ofCode (fld w 13 6), Use.ofCode (fld w 19 2)⟩ (DReg.ofCode (fld w 7 6)))
  | _ => .error .unassigned

/-- Major 0x0F (R40). -/
def decodeMajor0F (w : Nat) : Except DecodeErr Instr :=
  if fld w 31 1 == 1 then chk (fld w 22 7 == 0) (.unpack (Width.ofCode (fld w 29 2)) (fld w 21 1 == 1) ⟨DReg.ofCode (fld w 13 6), Use.ofCode (fld w 19 2)⟩ (DReg.ofCode (fld w 7 6)))
  else chk (true) (.pack (Width.ofCode (fld w 29 2)) ⟨DReg.ofCode (fld w 21 6), Use.ofCode (fld w 27 2)⟩ ⟨DReg.ofCode (fld w 13 6), Use.ofCode (fld w 19 2)⟩ (DReg.ofCode (fld w 7 6)))

/-- Major 0x10 (R40). -/
def decodeMajor10 (w : Nat) : Except DecodeErr Instr :=
  if fld w 31 1 == 1 then chk (true) (.fsub (FWidth.ofCode (fld w 29 2)) ⟨DReg.ofCode (fld w 21 6), Use.ofCode (fld w 27 2)⟩ ⟨DReg.ofCode (fld w 13 6), Use.ofCode (fld w 19 2)⟩ (DReg.ofCode (fld w 7 6)))
  else chk (true) (.fadd (FWidth.ofCode (fld w 29 2)) ⟨DReg.ofCode (fld w 21 6), Use.ofCode (fld w 27 2)⟩ ⟨DReg.ofCode (fld w 13 6), Use.ofCode (fld w 19 2)⟩ (DReg.ofCode (fld w 7 6)))

/-- Major 0x11 (R40). -/
def decodeMajor11 (w : Nat) : Except DecodeErr Instr :=
  if fld w 31 1 == 1 then chk (true) (.fma (FWidth.ofCode (fld w 29 2)) ⟨DReg.ofCode (fld w 21 6), Use.ofCode (fld w 27 2)⟩ ⟨DReg.ofCode (fld w 13 6), Use.ofCode (fld w 19 2)⟩ (DReg.ofCode (fld w 7 6)))
  else chk (true) (.fmul (FWidth.ofCode (fld w 29 2)) ⟨DReg.ofCode (fld w 21 6), Use.ofCode (fld w 27 2)⟩ ⟨DReg.ofCode (fld w 13 6), Use.ofCode (fld w 19 2)⟩ (DReg.ofCode (fld w 7 6)))

/-- Major 0x12 (R40). -/
def decodeMajor12 (w : Nat) : Except DecodeErr Instr :=
  if fld w 31 1 == 1 then chk (true) (.fscale (FWidth.ofCode (fld w 29 2)) ⟨DReg.ofCode (fld w 21 6), Use.ofCode (fld w 27 2)⟩ ⟨DReg.ofCode (fld w 13 6), Use.ofCode (fld w 19 2)⟩ (DReg.ofCode (fld w 7 6)))
  else chk (true) (.fnma (FWidth.ofCode (fld w 29 2)) ⟨DReg.ofCode (fld w 21 6), Use.ofCode (fld w 27 2)⟩ ⟨DReg.ofCode (fld w 13 6), Use.ofCode (fld w 19 2)⟩ (DReg.ofCode (fld w 7 6)))

/-- Major 0x13 (R40). -/
def decodeMajor13 (w : Nat) : Except DecodeErr Instr :=
  if fld w 31 1 == 1 then chk (true) (.fmax (FWidth.ofCode (fld w 29 2)) ⟨DReg.ofCode (fld w 21 6), Use.ofCode (fld w 27 2)⟩ ⟨DReg.ofCode (fld w 13 6), Use.ofCode (fld w 19 2)⟩ (DReg.ofCode (fld w 7 6)))
  else chk (true) (.fmin (FWidth.ofCode (fld w 29 2)) ⟨DReg.ofCode (fld w 21 6), Use.ofCode (fld w 27 2)⟩ ⟨DReg.ofCode (fld w 13 6), Use.ofCode (fld w 19 2)⟩ (DReg.ofCode (fld w 7 6)))

/-- Major 0x14 (R40). -/
def decodeMajor14 (w : Nat) : Except DecodeErr Instr :=
  match fld w 29 3 with
  | 0 => chk (fld w 23 6 == 0) (.fabs (FWidth.ofCode (fld w 21 2)) ⟨DReg.ofCode (fld w 13 6), Use.ofCode (fld w 19 2)⟩ (DReg.ofCode (fld w 7 6)))
  | 1 => chk (fld w 23 6 == 0) (.fneg (FWidth.ofCode (fld w 21 2)) ⟨DReg.ofCode (fld w 13 6), Use.ofCode (fld w 19 2)⟩ (DReg.ofCode (fld w 7 6)))
  | 2 => chk (fld w 23 6 == 0) (.fclass (FWidth.ofCode (fld w 21 2)) ⟨DReg.ofCode (fld w 13 6), Use.ofCode (fld w 19 2)⟩ (DReg.ofCode (fld w 7 6)))
  | 3 => chk (fld w 26 3 == 0) (.fround (Rnd.ofCode (fld w 23 3)) (FWidth.ofCode (fld w 21 2)) ⟨DReg.ofCode (fld w 13 6), Use.ofCode (fld w 19 2)⟩ (DReg.ofCode (fld w 7 6)))
  | _ => .error .unassigned

/-- Major 0x15 (R40). -/
def decodeMajor15 (w : Nat) : Except DecodeErr Instr :=
  chk (fld w 27 2 == 0) (.fcvt (CFmt.ofCode (fld w 29 3)) (Rnd.ofCode (fld w 24 3)) (CFmt.ofCode (fld w 21 3)) ⟨DReg.ofCode (fld w 13 6), Use.ofCode (fld w 19 2)⟩ (DReg.ofCode (fld w 7 6)))

/-- Major 0x16 (R40). -/
def decodeMajor16 (w : Nat) : Except DecodeErr Instr :=
  match fld w 29 3 with
  | 0 => chk (fld w 23 6 == 0) (.frcp (FWidth.ofCode (fld w 21 2)) ⟨DReg.ofCode (fld w 13 6), Use.ofCode (fld w 19 2)⟩ (DReg.ofCode (fld w 7 6)))
  | 1 => chk (fld w 23 6 == 0) (.frsq (FWidth.ofCode (fld w 21 2)) ⟨DReg.ofCode (fld w 13 6), Use.ofCode (fld w 19 2)⟩ (DReg.ofCode (fld w 7 6)))
  | 2 => chk (fld w 23 6 == 0) (.fsqrt (FWidth.ofCode (fld w 21 2)) ⟨DReg.ofCode (fld w 13 6), Use.ofCode (fld w 19 2)⟩ (DReg.ofCode (fld w 7 6)))
  | 3 => chk (fld w 23 6 == 0) (.fexp2 (FWidth.ofCode (fld w 21 2)) ⟨DReg.ofCode (fld w 13 6), Use.ofCode (fld w 19 2)⟩ (DReg.ofCode (fld w 7 6)))
  | 4 => chk (fld w 23 6 == 0) (.flog2 (FWidth.ofCode (fld w 21 2)) ⟨DReg.ofCode (fld w 13 6), Use.ofCode (fld w 19 2)⟩ (DReg.ofCode (fld w 7 6)))
  | 5 => chk (fld w 23 6 == 0) (.fsin (FWidth.ofCode (fld w 21 2)) ⟨DReg.ofCode (fld w 13 6), Use.ofCode (fld w 19 2)⟩ (DReg.ofCode (fld w 7 6)))
  | 6 => chk (fld w 23 6 == 0) (.fcos (FWidth.ofCode (fld w 21 2)) ⟨DReg.ofCode (fld w 13 6), Use.ofCode (fld w 19 2)⟩ (DReg.ofCode (fld w 7 6)))
  | _ => chk (fld w 23 6 == 0) (.ftanh (FWidth.ofCode (fld w 21 2)) ⟨DReg.ofCode (fld w 13 6), Use.ofCode (fld w 19 2)⟩ (DReg.ofCode (fld w 7 6)))

/-- Major 0x18 (R40). -/
def decodeMajor18 (w : Nat) : Except DecodeErr Instr :=
  match fld w 29 3 with
  | 0 => chk (true) (.modadd ⟨DReg.ofCode (fld w 21 6), Use.ofCode (fld w 27 2)⟩ ⟨DReg.ofCode (fld w 13 6), Use.ofCode (fld w 19 2)⟩ (DReg.ofCode (fld w 7 6)))
  | 1 => chk (true) (.modsub ⟨DReg.ofCode (fld w 21 6), Use.ofCode (fld w 27 2)⟩ ⟨DReg.ofCode (fld w 13 6), Use.ofCode (fld w 19 2)⟩ (DReg.ofCode (fld w 7 6)))
  | 2 => chk (true) (.modmul ⟨DReg.ofCode (fld w 21 6), Use.ofCode (fld w 27 2)⟩ ⟨DReg.ofCode (fld w 13 6), Use.ofCode (fld w 19 2)⟩ (DReg.ofCode (fld w 7 6)))
  | 3 => chk (true) (.mred ⟨DReg.ofCode (fld w 21 6), Use.ofCode (fld w 27 2)⟩ ⟨DReg.ofCode (fld w 13 6), Use.ofCode (fld w 19 2)⟩ (DReg.ofCode (fld w 7 6)))
  | 4 => chk (fld w 21 8 == 0) (.nttbf ⟨DReg.ofCode (fld w 13 6), Use.ofCode (fld w 19 2)⟩ (DReg.ofCode (fld w 7 6)))
  | 5 => chk (fld w 21 8 == 0) (.inttbf ⟨DReg.ofCode (fld w 13 6), Use.ofCode (fld w 19 2)⟩ (DReg.ofCode (fld w 7 6)))
  | _ => .error .unassigned

/-- Major 0x1A (R40). -/
def decodeMajor1A (w : Nat) : Except DecodeErr Instr :=
  match fld w 29 3 with
  | 0 => chk (true) (.shfl ⟨DReg.ofCode (fld w 21 6), Use.ofCode (fld w 27 2)⟩ ⟨DReg.ofCode (fld w 13 6), Use.ofCode (fld w 19 2)⟩ (DReg.ofCode (fld w 7 6)))
  | 1 => chk (true) (.shflx ⟨DReg.ofCode (fld w 21 6), Use.ofCode (fld w 27 2)⟩ ⟨DReg.ofCode (fld w 13 6), Use.ofCode (fld w 19 2)⟩ (DReg.ofCode (fld w 7 6)))
  | 2 => chk (fld w 26 3 == 0) (.bcast (BitVec.ofNat 5 (fld w 21 5)) ⟨DReg.ofCode (fld w 13 6), Use.ofCode (fld w 19 2)⟩ (DReg.ofCode (fld w 7 6)))
  | 3 => chk (fld w 16 13 == 0) (.ballot (Fin.ofNat 8 (fld w 13 3)) (DReg.ofCode (fld w 7 6)))
  | 4 => chk (fld w 12 1 == 0 && fld w 16 13 == 0) (.voteAny (Fin.ofNat 8 (fld w 13 3)) (Width.ofCode (fld w 10 2)) (Fin.ofNat 8 (fld w 7 3)))
  | 5 => chk (fld w 12 1 == 0 && fld w 16 13 == 0) (.voteAll (Fin.ofNat 8 (fld w 13 3)) (Width.ofCode (fld w 10 2)) (Fin.ofNat 8 (fld w 7 3)))
  | 6 => chk (fld w 21 8 == 0) (.matchSeats ⟨DReg.ofCode (fld w 13 6), Use.ofCode (fld w 19 2)⟩ (DReg.ofCode (fld w 7 6)))
  | _ => .error .unassigned

/-- Major 0x1B (R40). -/
def decodeMajor1B (w : Nat) : Except DecodeErr Instr :=
  if fld w 31 1 == 1 then chk (fld w 25 4 == 0) (.red (Width.ofCode (fld w 29 2)) (fld w 24 1 == 1) (BitVec.ofNat 3 (fld w 21 3)) ⟨DReg.ofCode (fld w 13 6), Use.ofCode (fld w 19 2)⟩ (DReg.ofCode (fld w 7 6)))
  else chk (fld w 26 3 == 0) (.scan (Width.ofCode (fld w 29 2)) (fld w 25 1 == 1) (fld w 24 1 == 1) (BitVec.ofNat 3 (fld w 21 3)) ⟨DReg.ofCode (fld w 13 6), Use.ofCode (fld w 19 2)⟩ (DReg.ofCode (fld w 7 6)))

/-- Major 0x1C (R40). -/
def decodeMajor1C (w : Nat) : Except DecodeErr Instr :=
  match fld w 29 3 with
  | 0 => chk (true) (.li (BitVec.ofNat 16 (fld w 13 16)) (DReg.ofCode (fld w 7 6)))
  | 1 => chk (true) (.lih1 (BitVec.ofNat 16 (fld w 13 16)) (DReg.ofCode (fld w 7 6)))
  | 2 => chk (true) (.lih2 (BitVec.ofNat 16 (fld w 13 16)) (DReg.ofCode (fld w 7 6)))
  | 3 => chk (true) (.lih3 (BitVec.ofNat 16 (fld w 13 16)) (DReg.ofCode (fld w 7 6)))
  | 4 => chk (true) (.lih0 (BitVec.ofNat 16 (fld w 13 16)) (DReg.ofCode (fld w 7 6)))
  | _ => .error .unassigned

/-- Major 0x1D (R40). -/
def decodeMajor1D (w : Nat) : Except DecodeErr Instr :=
  if fld w 31 1 == 1 then .error .unassigned else chk (true) (.addi (Width.ofCode (fld w 29 2)) (BitVec.ofNat 10 (fld w 19 10)) (DReg.ofCode (fld w 13 6)) (DReg.ofCode (fld w 7 6)))

/-- Major 0x20 (R40). -/
def decodeMajor20 (w : Nat) : Except DecodeErr Instr :=
  match fld w 29 3 with
  | 0 => chk (fld w 7 6 == 0) (.bra (BitVec.ofNat 16 (fld w 13 16)))
  | 1 => chk (true) (.call (BitVec.ofNat 16 (fld w 13 16)) (DReg.ofCode (fld w 7 6)))
  | 2 => chk (fld w 11 2 == 0) (.brP (BitVec.ofNat 16 (fld w 13 16)) (fld w 10 1 == 1) (Fin.ofNat 8 (fld w 7 3)))
  | _ => .error .unassigned

/-- Major 0x21 (R40). -/
def decodeMajor21 (w : Nat) : Except DecodeErr Instr :=
  match fld w 29 3 with
  | 0 => chk (fld w 11 2 == 0 && fld w 17 12 == 0) (.brx (Fin.ofNat 16 (fld w 13 4)) (Fin.ofNat 16 (fld w 7 4)))
  | 1 => chk (fld w 7 6 == 0 && fld w 21 8 == 0) (.ret ⟨DReg.ofCode (fld w 13 6), Use.ofCode (fld w 19 2)⟩)
  | 2 => chk (fld w 7 22 == 0) (.exit)
  | 3 => chk (fld w 7 22 == 0) (.yield)
  | 4 => chk (fld w 7 6 == 0 && fld w 19 2 == 0 && fld w 27 2 == 0) (.brk (BitVec.ofNat 6 (fld w 21 6)) (BitVec.ofNat 6 (fld w 13 6)))
  | 5 => chk (fld w 7 6 == 0 && fld w 21 8 == 0) (.pause ⟨DReg.ofCode (fld w 13 6), Use.ofCode (fld w 19 2)⟩)
  | _ => .error .unassigned

/-- Major 0x24 (R40). -/
def decodeMajor24 (w : Nat) : Except DecodeErr Instr :=
  chk (fld w 12 1 == 0) (.cmp (ICond.ofCode (fld w 29 3)) ⟨DReg.ofCode (fld w 21 6), Use.ofCode (fld w 27 2)⟩ ⟨DReg.ofCode (fld w 13 6), Use.ofCode (fld w 19 2)⟩ (Width.ofCode (fld w 10 2)) (Fin.ofNat 8 (fld w 7 3)))

/-- Major 0x25 (R40). -/
def decodeMajor25 (w : Nat) : Except DecodeErr Instr :=
  chk (fld w 12 1 == 0) (.cmpi (ICond.ofCode (fld w 29 3)) (BitVec.ofNat 8 (fld w 21 8)) ⟨DReg.ofCode (fld w 13 6), Use.ofCode (fld w 19 2)⟩ (Width.ofCode (fld w 10 2)) (Fin.ofNat 8 (fld w 7 3)))

/-- Major 0x26 (R40). -/
def decodeMajor26 (w : Nat) : Except DecodeErr Instr :=
  chk (fld w 12 1 == 0) (.fcmp (FCond.ofCode (fld w 29 3)) ⟨DReg.ofCode (fld w 21 6), Use.ofCode (fld w 27 2)⟩ ⟨DReg.ofCode (fld w 13 6), Use.ofCode (fld w 19 2)⟩ (FWidth.ofCode (fld w 10 2)) (Fin.ofNat 8 (fld w 7 3)))

/-- Major 0x27 (R40). -/
def decodeMajor27 (w : Nat) : Except DecodeErr Instr :=
  match fld w 29 3 with
  | 0 => chk (fld w 10 3 == 0 && fld w 16 5 == 0 && fld w 24 5 == 0) (.pand (Fin.ofNat 8 (fld w 21 3)) (Fin.ofNat 8 (fld w 13 3)) (Fin.ofNat 8 (fld w 7 3)))
  | 1 => chk (fld w 10 3 == 0 && fld w 16 5 == 0 && fld w 24 5 == 0) (.por (Fin.ofNat 8 (fld w 21 3)) (Fin.ofNat 8 (fld w 13 3)) (Fin.ofNat 8 (fld w 7 3)))
  | 2 => chk (fld w 10 3 == 0 && fld w 16 5 == 0 && fld w 24 5 == 0) (.pxor (Fin.ofNat 8 (fld w 21 3)) (Fin.ofNat 8 (fld w 13 3)) (Fin.ofNat 8 (fld w 7 3)))
  | 3 => chk (fld w 10 3 == 0 && fld w 16 13 == 0) (.pnot (Fin.ofNat 8 (fld w 13 3)) (Fin.ofNat 8 (fld w 7 3)))
  | _ => .error .unassigned

/-- Major 0x28 (R40). -/
def decodeMajor28 (w : Nat) : Except DecodeErr Instr :=
  match fld w 29 3 with
  | 0 => if fld w 19 1 == 1 then chk (true) (.ldImm (BitVec.ofNat 9 (fld w 20 9)) (Width.ofCode (fld w 17 2)) (Fin.ofNat 16 (fld w 13 4)) (DReg.ofCode (fld w 7 6)))
    else chk (fld w 20 1 == 0) (.ldIndex ⟨DReg.ofCode (fld w 21 6), Use.ofCode (fld w 27 2)⟩ (Width.ofCode (fld w 17 2)) (Fin.ofNat 16 (fld w 13 4)) (DReg.ofCode (fld w 7 6)))
  | 1 => if fld w 19 1 == 1 then chk (true) (.stImm (BitVec.ofNat 9 (fld w 20 9)) (Width.ofCode (fld w 17 2)) (Fin.ofNat 16 (fld w 13 4)) (DReg.ofCode (fld w 7 6)))
    else chk (fld w 20 1 == 0) (.stIndex ⟨DReg.ofCode (fld w 21 6), Use.ofCode (fld w 27 2)⟩ (Width.ofCode (fld w 17 2)) (Fin.ofNat 16 (fld w 13 4)) (DReg.ofCode (fld w 7 6)))
  | 2 => if fld w 19 1 == 1 then chk (fld w 17 2 == 0) (.ldpImm (BitVec.ofNat 9 (fld w 20 9)) (Fin.ofNat 16 (fld w 13 4)) (DReg.ofCode (fld w 7 6)))
    else chk (fld w 17 2 == 0 && fld w 20 1 == 0) (.ldpIndex ⟨DReg.ofCode (fld w 21 6), Use.ofCode (fld w 27 2)⟩ (Fin.ofNat 16 (fld w 13 4)) (DReg.ofCode (fld w 7 6)))
  | 3 => if fld w 19 1 == 1 then chk (fld w 17 2 == 0) (.stpImm (BitVec.ofNat 9 (fld w 20 9)) (Fin.ofNat 16 (fld w 13 4)) (DReg.ofCode (fld w 7 6)))
    else chk (fld w 17 2 == 0 && fld w 20 1 == 0) (.stpIndex ⟨DReg.ofCode (fld w 21 6), Use.ofCode (fld w 27 2)⟩ (Fin.ofNat 16 (fld w 13 4)) (DReg.ofCode (fld w 7 6)))
  | _ => .error .unassigned

/-- Major 0x29 (R40). -/
def decodeMajor29 (w : Nat) : Except DecodeErr Instr :=
  match fld w 29 3 with
  | 0 => if fld w 19 1 == 1 then chk (true) (.ldsImm (BitVec.ofNat 9 (fld w 20 9)) (Width.ofCode (fld w 17 2)) (Fin.ofNat 16 (fld w 13 4)) (DReg.ofCode (fld w 7 6)))
    else chk (fld w 20 1 == 0) (.ldsIndex ⟨DReg.ofCode (fld w 21 6), Use.ofCode (fld w 27 2)⟩ (Width.ofCode (fld w 17 2)) (Fin.ofNat 16 (fld w 13 4)) (DReg.ofCode (fld w 7 6)))
  | 1 => if fld w 19 1 == 1 then chk (true) (.stsImm (BitVec.ofNat 9 (fld w 20 9)) (Width.ofCode (fld w 17 2)) (Fin.ofNat 16 (fld w 13 4)) (DReg.ofCode (fld w 7 6)))
    else chk (fld w 20 1 == 0) (.stsIndex ⟨DReg.ofCode (fld w 21 6), Use.ofCode (fld w 27 2)⟩ (Width.ofCode (fld w 17 2)) (Fin.ofNat 16 (fld w 13 4)) (DReg.ofCode (fld w 7 6)))
  | 2 => if fld w 19 1 == 1 then chk (fld w 17 2 == 0) (.ldfRImm (BitVec.ofNat 9 (fld w 20 9)) (Fin.ofNat 16 (fld w 13 4)) (DReg.ofCode (fld w 7 6)))
    else chk (fld w 17 2 == 0 && fld w 20 1 == 0) (.ldfRIndex ⟨DReg.ofCode (fld w 21 6), Use.ofCode (fld w 27 2)⟩ (Fin.ofNat 16 (fld w 13 4)) (DReg.ofCode (fld w 7 6)))
  | 3 => if fld w 19 1 == 1 then chk (fld w 17 2 == 0) (.ldfCImm (BitVec.ofNat 9 (fld w 20 9)) (Fin.ofNat 16 (fld w 13 4)) (DReg.ofCode (fld w 7 6)))
    else chk (fld w 17 2 == 0 && fld w 20 1 == 0) (.ldfCIndex ⟨DReg.ofCode (fld w 21 6), Use.ofCode (fld w 27 2)⟩ (Fin.ofNat 16 (fld w 13 4)) (DReg.ofCode (fld w 7 6)))
  | 4 => if fld w 19 1 == 1 then chk (fld w 17 2 == 0) (.stfRImm (BitVec.ofNat 9 (fld w 20 9)) (Fin.ofNat 16 (fld w 13 4)) (DReg.ofCode (fld w 7 6)))
    else chk (fld w 17 2 == 0 && fld w 20 1 == 0) (.stfRIndex ⟨DReg.ofCode (fld w 21 6), Use.ofCode (fld w 27 2)⟩ (Fin.ofNat 16 (fld w 13 4)) (DReg.ofCode (fld w 7 6)))
  | 5 => if fld w 19 1 == 1 then chk (fld w 17 2 == 0) (.stfCImm (BitVec.ofNat 9 (fld w 20 9)) (Fin.ofNat 16 (fld w 13 4)) (DReg.ofCode (fld w 7 6)))
    else chk (fld w 17 2 == 0 && fld w 20 1 == 0) (.stfCIndex ⟨DReg.ofCode (fld w 21 6), Use.ofCode (fld w 27 2)⟩ (Fin.ofNat 16 (fld w 13 4)) (DReg.ofCode (fld w 7 6)))
  | _ => .error .unassigned

/-- Major 0x2A (R40). -/
def decodeMajor2A (w : Nat) : Except DecodeErr Instr :=
  match fld w 29 3 with
  | 0 => if fld w 19 1 == 1 then chk (fld w 11 2 == 0 && fld w 17 2 == 0) (.ldcImm (BitVec.ofNat 9 (fld w 20 9)) (Fin.ofNat 16 (fld w 13 4)) (Fin.ofNat 16 (fld w 7 4)))
    else chk (fld w 11 2 == 0 && fld w 17 2 == 0 && fld w 20 1 == 0) (.ldcIndex ⟨DReg.ofCode (fld w 21 6), Use.ofCode (fld w 27 2)⟩ (Fin.ofNat 16 (fld w 13 4)) (Fin.ofNat 16 (fld w 7 4)))
  | 1 => if fld w 19 1 == 1 then chk (fld w 11 2 == 0 && fld w 17 2 == 0) (.stcImm (BitVec.ofNat 9 (fld w 20 9)) (Fin.ofNat 16 (fld w 13 4)) (Fin.ofNat 16 (fld w 7 4)))
    else chk (fld w 11 2 == 0 && fld w 17 2 == 0 && fld w 20 1 == 0) (.stcIndex ⟨DReg.ofCode (fld w 21 6), Use.ofCode (fld w 27 2)⟩ (Fin.ofNat 16 (fld w 13 4)) (Fin.ofNat 16 (fld w 7 4)))
  | 2 => if fld w 19 1 == 1 then chk (fld w 8 5 == 0 && fld w 17 2 == 0) (.prefImm (BitVec.ofNat 9 (fld w 20 9)) (Fin.ofNat 16 (fld w 13 4)) (fld w 7 1 == 1))
    else chk (fld w 8 5 == 0 && fld w 17 2 == 0 && fld w 20 1 == 0) (.prefIndex ⟨DReg.ofCode (fld w 21 6), Use.ofCode (fld w 27 2)⟩ (Fin.ofNat 16 (fld w 13 4)) (fld w 7 1 == 1))
  | 3 => chk (fld w 9 9 == 0 && fld w 21 8 == 0) (.fence (Scope.ofCode (fld w 18 3)) (FenceOrd.ofCode (fld w 7 2)))
  | _ => .error .unassigned

/-- Major 0x2B (R40). -/
def decodeMajor2B (w : Nat) : Except DecodeErr Instr :=
  if 11 ≤ fld w 29 3 + 8 * fld w 27 2 then .error .unassigned else chk (true) (.atomRelaxed (AtomOp.ofCode (fld w 29 3 + 8 * fld w 27 2)) (DReg.ofCode (fld w 21 6)) (Scope.ofCode (fld w 18 3)) (fld w 17 1 == 1) (Fin.ofNat 16 (fld w 13 4)) (DReg.ofCode (fld w 7 6)))

/-- Major 0x2C (R40). -/
def decodeMajor2C (w : Nat) : Except DecodeErr Instr :=
  if 11 ≤ fld w 29 3 + 8 * fld w 27 2 then .error .unassigned else chk (true) (.atomAcquire (AtomOp.ofCode (fld w 29 3 + 8 * fld w 27 2)) (DReg.ofCode (fld w 21 6)) (Scope.ofCode (fld w 18 3)) (fld w 17 1 == 1) (Fin.ofNat 16 (fld w 13 4)) (DReg.ofCode (fld w 7 6)))

/-- Major 0x2D (R40). -/
def decodeMajor2D (w : Nat) : Except DecodeErr Instr :=
  if 11 ≤ fld w 29 3 + 8 * fld w 27 2 then .error .unassigned else chk (true) (.atomRelease (AtomOp.ofCode (fld w 29 3 + 8 * fld w 27 2)) (DReg.ofCode (fld w 21 6)) (Scope.ofCode (fld w 18 3)) (fld w 17 1 == 1) (Fin.ofNat 16 (fld w 13 4)) (DReg.ofCode (fld w 7 6)))

/-- Major 0x2E (R40). -/
def decodeMajor2E (w : Nat) : Except DecodeErr Instr :=
  if 11 ≤ fld w 29 3 + 8 * fld w 27 2 then .error .unassigned else chk (true) (.atomAcqRel (AtomOp.ofCode (fld w 29 3 + 8 * fld w 27 2)) (DReg.ofCode (fld w 21 6)) (Scope.ofCode (fld w 18 3)) (fld w 17 1 == 1) (Fin.ofNat 16 (fld w 13 4)) (DReg.ofCode (fld w 7 6)))

/-- Major 0x2F (R40). -/
def decodeMajor2F (w : Nat) : Except DecodeErr Instr :=
  if 11 ≤ fld w 29 3 + 8 * fld w 27 2 then .error .unassigned else chk (fld w 18 1 == 0) (.atoms (AtomOp.ofCode (fld w 29 3 + 8 * fld w 27 2)) (DReg.ofCode (fld w 21 6)) (MemOrd.ofCode (fld w 19 2)) (fld w 17 1 == 1) (Fin.ofNat 16 (fld w 13 4)) (DReg.ofCode (fld w 7 6)))

/-- Major 0x30 (R40). -/
def decodeMajor30 (w : Nat) : Except DecodeErr Instr :=
  match fld w 29 3 with
  | 0 => chk (fld w 11 2 == 0) (.cinc ⟨DReg.ofCode (fld w 21 6), Use.ofCode (fld w 27 2)⟩ (BitVec.ofNat 4 (fld w 17 4)) (Fin.ofNat 16 (fld w 13 4)) (Fin.ofNat 16 (fld w 7 4)))
  | 1 => chk (fld w 11 2 == 0 && fld w 17 4 == 0) (.cset ⟨DReg.ofCode (fld w 21 6), Use.ofCode (fld w 27 2)⟩ (Fin.ofNat 16 (fld w 13 4)) (Fin.ofNat 16 (fld w 7 4)))
  | 2 => chk (fld w 11 2 == 0 && fld w 17 4 == 0) (.cbnd ⟨DReg.ofCode (fld w 21 6), Use.ofCode (fld w 27 2)⟩ (Fin.ofNat 16 (fld w 13 4)) (Fin.ofNat 16 (fld w 7 4)))
  | 3 => chk (fld w 11 2 == 0 && fld w 17 4 == 0) (.cperm ⟨DReg.ofCode (fld w 21 6), Use.ofCode (fld w 27 2)⟩ (Fin.ofNat 16 (fld w 13 4)) (Fin.ofNat 16 (fld w 7 4)))
  | 4 => chk (fld w 11 2 == 0 && fld w 17 4 == 0 && fld w 25 4 == 0) (.cseal (Fin.ofNat 16 (fld w 21 4)) (Fin.ofNat 16 (fld w 13 4)) (Fin.ofNat 16 (fld w 7 4)))
  | 5 => chk (fld w 11 2 == 0 && fld w 17 4 == 0 && fld w 25 4 == 0) (.cunseal (Fin.ofNat 16 (fld w 21 4)) (Fin.ofNat 16 (fld w 13 4)) (Fin.ofNat 16 (fld w 7 4)))
  | 6 => chk (fld w 11 2 == 0 && fld w 17 12 == 0) (.cmov (Fin.ofNat 16 (fld w 13 4)) (Fin.ofNat 16 (fld w 7 4)))
  | _ => chk (fld w 11 2 == 0 && fld w 17 12 == 0) (.cclr (Fin.ofNat 16 (fld w 13 4)) (Fin.ofNat 16 (fld w 7 4)))

/-- Major 0x31 (R40). -/
def decodeMajor31 (w : Nat) : Except DecodeErr Instr :=
  match fld w 29 3 with
  | 0 => chk (fld w 17 4 == 0 && fld w 27 2 == 0) (.cget (BitVec.ofNat 6 (fld w 21 6)) (Fin.ofNat 16 (fld w 13 4)) (DReg.ofCode (fld w 7 6)))
  | 1 => chk (fld w 12 1 == 0 && fld w 17 4 == 0) (.ctest ⟨DReg.ofCode (fld w 21 6), Use.ofCode (fld w 27 2)⟩ (Fin.ofNat 16 (fld w 13 4)) (Width.ofCode (fld w 10 2)) (Fin.ofNat 8 (fld w 7 3)))
  | 2 => chk (fld w 12 1 == 0 && fld w 17 4 == 0 && fld w 25 4 == 0) (.ceq (Fin.ofNat 16 (fld w 21 4)) (Fin.ofNat 16 (fld w 13 4)) (Width.ofCode (fld w 10 2)) (Fin.ofNat 8 (fld w 7 3)))
  | _ => .error .unassigned

/-- Major 0x34 (R40). -/
def decodeMajor34 (w : Nat) : Except DecodeErr Instr :=
  match fld w 29 3 with
  | 0 => chk (fld w 13 16 == 0) (.join (Fin.ofNat 64 (fld w 7 6)))
  | 1 => chk (fld w 13 16 == 0) (.leave (Fin.ofNat 64 (fld w 7 6)))
  | 2 => chk (fld w 13 16 == 0) (.arrive (Fin.ofNat 64 (fld w 7 6)))
  | 3 => chk (fld w 13 16 == 0) (.waitb (Fin.ofNat 64 (fld w 7 6)))
  | 4 => chk (fld w 13 16 == 0) (.bar (Fin.ofNat 64 (fld w 7 6)))
  | _ => .error .unassigned

/-- Major 0x35 (R40). -/
def decodeMajor35 (w : Nat) : Except DecodeErr Instr :=
  match fld w 29 3 with
  | 0 => chk (fld w 7 6 == 0 && fld w 24 5 == 0) (.mbw (Fin.ofNat 8 (fld w 21 3)) ⟨DReg.ofCode (fld w 13 6), Use.ofCode (fld w 19 2)⟩)
  | 1 => chk (fld w 13 8 == 0 && fld w 24 5 == 0) (.mbr (Fin.ofNat 8 (fld w 21 3)) (DReg.ofCode (fld w 7 6)))
  | 2 => chk (fld w 16 5 == 0 && fld w 24 5 == 0) (.mbtry (Fin.ofNat 8 (fld w 21 3)) (Fin.ofNat 8 (fld w 13 3)) (DReg.ofCode (fld w 7 6)))
  | 3 => chk (fld w 13 8 == 0 && fld w 24 5 == 0) (.mbind (Fin.ofNat 8 (fld w 21 3)) (Fin.ofNat 64 (fld w 7 6)))
  | _ => .error .unassigned

/-- Major 0x36 (R40). -/
def decodeMajor36 (w : Nat) : Except DecodeErr Instr :=
  match fld w 29 3 with
  | 0 => chk (fld w 19 2 == 0) (.cpyT ⟨DReg.ofCode (fld w 21 6), Use.ofCode (fld w 27 2)⟩ (Width.ofCode (fld w 17 2)) (Fin.ofNat 16 (fld w 13 4)) (fld w 12 1 == 1) (fld w 11 1 == 1) (Fin.ofNat 16 (fld w 7 4)))
  | 1 => chk (fld w 19 2 == 0) (.cpyG ⟨DReg.ofCode (fld w 21 6), Use.ofCode (fld w 27 2)⟩ (Width.ofCode (fld w 17 2)) (Fin.ofNat 16 (fld w 13 4)) (fld w 12 1 == 1) (fld w 11 1 == 1) (Fin.ofNat 16 (fld w 7 4)))
  | 2 => chk (fld w 19 2 == 0) (.cpyS ⟨DReg.ofCode (fld w 21 6), Use.ofCode (fld w 27 2)⟩ (Width.ofCode (fld w 17 2)) (Fin.ofNat 16 (fld w 13 4)) (fld w 12 1 == 1) (fld w 11 1 == 1) (Fin.ofNat 16 (fld w 7 4)))
  | 3 => chk (fld w 19 2 == 0) (.cpySc ⟨DReg.ofCode (fld w 21 6), Use.ofCode (fld w 27 2)⟩ (Width.ofCode (fld w 17 2)) (Fin.ofNat 16 (fld w 13 4)) (fld w 12 1 == 1) (fld w 11 1 == 1) (Fin.ofNat 16 (fld w 7 4)))
  | 4 => chk (fld w 13 4 == 0 && fld w 19 2 == 0) (.cpyP ⟨DReg.ofCode (fld w 21 6), Use.ofCode (fld w 27 2)⟩ (Width.ofCode (fld w 17 2)) (fld w 12 1 == 1) (fld w 11 1 == 1) (Fin.ofNat 16 (fld w 7 4)))
  | 5 => chk (fld w 7 14 == 0 && fld w 27 2 == 0) (.seal (DReg.ofCode (fld w 21 6)))
  | _ => .error .unassigned

/-- Major 0x39 (R40). -/
def decodeMajor39 (w : Nat) : Except DecodeErr Instr :=
  if 5 ≤ fld w 29 3 then .error .unassigned else chk (fld w 11 2 == 0) (.mma (MmaFmt.ofCode (fld w 29 3)) ⟨DReg.ofCode (fld w 21 6), Use.ofCode (fld w 27 2)⟩ ⟨DReg.ofCode (fld w 13 6), Use.ofCode (fld w 19 2)⟩ (Fin.ofNat 16 (fld w 7 4)))

/-- Major 0x3A (R40). -/
def decodeMajor3A (w : Nat) : Except DecodeErr Instr :=
  if 5 ≤ fld w 29 3 then .error .unassigned else chk (true) (.mmas (MmasFmt.ofCode (fld w 29 3)) ⟨DReg.ofCode (fld w 21 6), Use.ofCode (fld w 27 2)⟩ ⟨DReg.ofCode (fld w 13 6), Use.ofCode (fld w 19 2)⟩ (BitVec.ofNat 2 (fld w 11 2)) (Fin.ofNat 16 (fld w 7 4)))

/-- Major 0x3B (R40). -/
def decodeMajor3B (w : Nat) : Except DecodeErr Instr :=
  match fld w 29 3 with
  | 0 => chk (fld w 11 2 == 0) (.mmod ⟨DReg.ofCode (fld w 21 6), Use.ofCode (fld w 27 2)⟩ ⟨DReg.ofCode (fld w 13 6), Use.ofCode (fld w 19 2)⟩ (Fin.ofNat 16 (fld w 7 4)))
  | 1 => chk (fld w 11 18 == 0) (.aclr (Fin.ofNat 16 (fld w 7 4)))
  | 2 => chk (fld w 11 2 == 0 && fld w 25 1 == 0) (.ald (TileFmt.ofCode (fld w 26 3)) (Fin.ofNat 16 (fld w 21 4)) ⟨DReg.ofCode (fld w 13 6), Use.ofCode (fld w 19 2)⟩ (Fin.ofNat 16 (fld w 7 4)))
  | 3 => chk (true) (.ast (TileFmt.ofCode (fld w 26 3)) (Rnd.ofCode (fld w 11 2 + 4 * fld w 25 1)) (Fin.ofNat 16 (fld w 21 4)) ⟨DReg.ofCode (fld w 13 6), Use.ofCode (fld w 19 2)⟩ (Fin.ofNat 16 (fld w 7 4)))
  | 4 => chk (fld w 11 2 == 0 && fld w 25 4 == 0) (.tmma (Fin.ofNat 16 (fld w 21 4)) ⟨DReg.ofCode (fld w 13 6), Use.ofCode (fld w 19 2)⟩ (Fin.ofNat 16 (fld w 7 4)))
  | _ => .error .unassigned

/-- Major 0x3C (R40). -/
def decodeMajor3C (w : Nat) : Except DecodeErr Instr :=
  match fld w 29 3 with
  | 0 => chk (fld w 11 2 == 0 && fld w 25 4 == 0) (.send (Fin.ofNat 16 (fld w 21 4)) ⟨DReg.ofCode (fld w 13 6), Use.ofCode (fld w 19 2)⟩ (Fin.ofNat 16 (fld w 7 4)))
  | 1 => chk (fld w 11 2 == 0 && fld w 25 4 == 0) (.recv (Fin.ofNat 16 (fld w 21 4)) ⟨DReg.ofCode (fld w 13 6), Use.ofCode (fld w 19 2)⟩ (Fin.ofNat 16 (fld w 7 4)))
  | 2 => chk (fld w 11 2 == 0 && fld w 25 4 == 0) (.xcall (Fin.ofNat 16 (fld w 21 4)) ⟨DReg.ofCode (fld w 13 6), Use.ofCode (fld w 19 2)⟩ (Fin.ofNat 16 (fld w 7 4)))
  | 3 => chk (fld w 7 6 == 0 && fld w 25 4 == 0) (.reply (Fin.ofNat 16 (fld w 21 4)) ⟨DReg.ofCode (fld w 13 6), Use.ofCode (fld w 19 2)⟩)
  | 4 => chk (fld w 11 2 == 0 && fld w 21 8 == 0) (.notify ⟨DReg.ofCode (fld w 13 6), Use.ofCode (fld w 19 2)⟩ (Fin.ofNat 16 (fld w 7 4)))
  | 5 => chk (fld w 11 2 == 0 && fld w 25 4 == 0) (.poll (Fin.ofNat 16 (fld w 21 4)) ⟨DReg.ofCode (fld w 13 6), Use.ofCode (fld w 19 2)⟩ (Fin.ofNat 16 (fld w 7 4)))
  | 6 => chk (fld w 11 2 == 0 && fld w 25 4 == 0) (.sysc (Fin.ofNat 16 (fld w 21 4)) ⟨DReg.ofCode (fld w 13 6), Use.ofCode (fld w 19 2)⟩ (Fin.ofNat 16 (fld w 7 4)))
  | _ => .error .unassigned

/-- Major 0x3D (R40). -/
def decodeMajor3D (w : Nat) : Except DecodeErr Instr :=
  match fld w 29 3 with
  | 0 => chk (fld w 11 2 == 0 && fld w 20 1 == 0 && fld w 25 4 == 0) (.push (Fin.ofNat 16 (fld w 21 4)) (fld w 19 1 == 1) (DReg.ofCode (fld w 13 6)) (Fin.ofNat 16 (fld w 7 4)))
  | 1 => chk (fld w 11 2 == 0 && fld w 21 8 == 0) (.sret ⟨DReg.ofCode (fld w 13 6), Use.ofCode (fld w 19 2)⟩ (Fin.ofNat 16 (fld w 7 4)))
  | 2 => chk (fld w 11 18 == 0) (.mark (Fin.ofNat 16 (fld w 7 4)))
  | 3 => chk (fld w 11 2 == 0 && fld w 21 8 == 0) (.bpost ⟨DReg.ofCode (fld w 13 6), Use.ofCode (fld w 19 2)⟩ (Fin.ofNat 16 (fld w 7 4)))
  | 4 => chk (fld w 11 2 == 0 && fld w 21 8 == 0) (.bwait ⟨DReg.ofCode (fld w 13 6), Use.ofCode (fld w 19 2)⟩ (Fin.ofNat 16 (fld w 7 4)))
  | 5 => chk (fld w 11 2 == 0 && fld w 21 8 == 0) (.emit ⟨DReg.ofCode (fld w 13 6), Use.ofCode (fld w 19 2)⟩ (Fin.ofNat 16 (fld w 7 4)))
  | 6 => chk (fld w 7 22 == 0) (.ckpt)
  | _ => .error .unassigned

/-- Major 0x3E (R40). -/
def decodeMajor3E (w : Nat) : Except DecodeErr Instr :=
  match fld w 29 3 with
  | 0 => chk (fld w 27 2 == 0) (.rd (BitVec.ofNat 14 (fld w 13 14)) (DReg.ofCode (fld w 7 6)))
  | 1 => chk (fld w 27 2 == 0) (.srd (BitVec.ofNat 14 (fld w 13 14)) (DReg.ofCode (fld w 7 6)))
  | 2 => chk (fld w 27 2 == 0) (.swr (BitVec.ofNat 14 (fld w 13 14)) (DReg.ofCode (fld w 7 6)))
  | 3 => chk (fld w 7 6 == 0 && fld w 27 2 == 0) (.trap (BitVec.ofNat 14 (fld w 13 14)))
  | 4 => chk (fld w 7 22 == 0) (.tret)
  | 5 => if fld w 13 1 == 1 then chk (fld w 11 2 == 0 && fld w 17 12 == 0) (.brest (BitVec.ofNat 3 (fld w 14 3)) (Fin.ofNat 16 (fld w 7 4)))
    else chk (fld w 11 2 == 0 && fld w 17 12 == 0) (.bsave (BitVec.ofNat 3 (fld w 14 3)) (Fin.ofNat 16 (fld w 7 4)))
  | 6 => chk (fld w 27 2 == 0) (.rmap (DReg.ofCode (fld w 21 6)) ⟨DReg.ofCode (fld w 13 6), Use.ofCode (fld w 19 2)⟩ (DReg.ofCode (fld w 7 6)))
  | _ =>
    match fld w 13 2 with
    | 0 => chk (fld w 7 6 == 0 && fld w 15 14 == 0) (.haltPark)
    | 1 => chk (fld w 7 6 == 0 && fld w 15 14 == 0) (.haltFail)
    | 2 => chk (fld w 7 6 == 0 && fld w 15 14 == 0) (.haltRequeue)
    | _ => .error .field

/-- A 32-bit word (R23, R40). -/
def decode32 (w : Nat) : Except DecodeErr Instr :=
  match fld w 1 6 with
  | 0 => decodeMajor00 w
  | 1 => decodeMajor01 w
  | 2 => decodeMajor02 w
  | 3 => decodeMajor03 w
  | 4 => decodeMajor04 w
  | 5 => decodeMajor05 w
  | 6 => decodeMajor06 w
  | 7 => decodeMajor07 w
  | 8 => decodeMajor08 w
  | 9 => decodeMajor09 w
  | 10 => decodeMajor0A w
  | 11 => decodeMajor0B w
  | 12 => decodeMajor0C w
  | 13 => decodeMajor0D w
  | 14 => decodeMajor0E w
  | 15 => decodeMajor0F w
  | 16 => decodeMajor10 w
  | 17 => decodeMajor11 w
  | 18 => decodeMajor12 w
  | 19 => decodeMajor13 w
  | 20 => decodeMajor14 w
  | 21 => decodeMajor15 w
  | 22 => decodeMajor16 w
  | 24 => decodeMajor18 w
  | 26 => decodeMajor1A w
  | 27 => decodeMajor1B w
  | 28 => decodeMajor1C w
  | 29 => decodeMajor1D w
  | 32 => decodeMajor20 w
  | 33 => decodeMajor21 w
  | 36 => decodeMajor24 w
  | 37 => decodeMajor25 w
  | 38 => decodeMajor26 w
  | 39 => decodeMajor27 w
  | 40 => decodeMajor28 w
  | 41 => decodeMajor29 w
  | 42 => decodeMajor2A w
  | 43 => decodeMajor2B w
  | 44 => decodeMajor2C w
  | 45 => decodeMajor2D w
  | 46 => decodeMajor2E w
  | 47 => decodeMajor2F w
  | 48 => decodeMajor30 w
  | 49 => decodeMajor31 w
  | 52 => decodeMajor34 w
  | 53 => decodeMajor35 w
  | 54 => decodeMajor36 w
  | 57 => decodeMajor39 w
  | 58 => decodeMajor3A w
  | 59 => decodeMajor3B w
  | 60 => decodeMajor3C w
  | 61 => decodeMajor3D w
  | 62 => decodeMajor3E w
  | _ => .error .unassigned

/-- A 16-bit half-word (R20, R22): every one is an instruction. -/
def decode16 (w : Nat) : Instr :=
  match fld w 1 4 with
  | 0 => .mov16 (fld w 15 1 == 1) (Fin.ofNat 32 (fld w 10 5)) (Fin.ofNat 32 (fld w 5 5))
  | 1 => .add16 (fld w 15 1 == 1) (Fin.ofNat 32 (fld w 10 5)) (Fin.ofNat 32 (fld w 5 5))
  | 2 => .sub16 (fld w 15 1 == 1) (Fin.ofNat 32 (fld w 10 5)) (Fin.ofNat 32 (fld w 5 5))
  | 3 => .mul16 (fld w 15 1 == 1) (Fin.ofNat 32 (fld w 10 5)) (Fin.ofNat 32 (fld w 5 5))
  | 4 => .and16 (fld w 15 1 == 1) (Fin.ofNat 32 (fld w 10 5)) (Fin.ofNat 32 (fld w 5 5))
  | 5 => .or16 (fld w 15 1 == 1) (Fin.ofNat 32 (fld w 10 5)) (Fin.ofNat 32 (fld w 5 5))
  | 6 => .xor16 (fld w 15 1 == 1) (Fin.ofNat 32 (fld w 10 5)) (Fin.ofNat 32 (fld w 5 5))
  | 7 => .shl16 (fld w 15 1 == 1) (Fin.ofNat 32 (fld w 10 5)) (Fin.ofNat 32 (fld w 5 5))
  | 8 => .shr16 (fld w 15 1 == 1) (Fin.ofNat 32 (fld w 10 5)) (Fin.ofNat 32 (fld w 5 5))
  | 9 => .sar16 (fld w 15 1 == 1) (Fin.ofNat 32 (fld w 10 5)) (Fin.ofNat 32 (fld w 5 5))
  | 10 => .min16 (fld w 15 1 == 1) (Fin.ofNat 32 (fld w 10 5)) (Fin.ofNat 32 (fld w 5 5))
  | 11 => .max16 (fld w 15 1 == 1) (Fin.ofNat 32 (fld w 10 5)) (Fin.ofNat 32 (fld w 5 5))
  | 12 => .fadd16 (fld w 15 1 == 1) (Fin.ofNat 32 (fld w 10 5)) (Fin.ofNat 32 (fld w 5 5))
  | 13 => .fsub16 (fld w 15 1 == 1) (Fin.ofNat 32 (fld w 10 5)) (Fin.ofNat 32 (fld w 5 5))
  | 14 => .fmul16 (fld w 15 1 == 1) (Fin.ofNat 32 (fld w 10 5)) (Fin.ofNat 32 (fld w 5 5))
  | _ => .fma16 (fld w 15 1 == 1) (Fin.ofNat 32 (fld w 10 5)) (Fin.ofNat 32 (fld w 5 5))

/-- A host capability instruction (R356): the RISC-V custom-0 opcode, selected by funct3 and funct7. The word is read
in a host hart's instruction stream; the same bits in a device code object are majors 0x05 of R40. -/
def decodeHost (w : Nat) : Except DecodeErr Instr :=
  if fld w 0 7 != 11 then .error .unassigned else
  match fld w 12 3 with
  | 0 => chk (fld w 11 1 == 0) (.hcld (BitVec.ofNat 12 (fld w 20 12)) (Fin.ofNat 32 (fld w 15 5)) (Fin.ofNat 16 (fld w 7 4)))
  | 1 => chk (fld w 24 1 == 0) (.hcst (BitVec.ofNat 12 (fld w 7 5 + 32 * fld w 25 7)) (Fin.ofNat 16 (fld w 20 4)) (Fin.ofNat 32 (fld w 15 5)))
  | 2 => chk (fld w 19 1 == 0) (.hcget (BitVec.ofNat 12 (fld w 20 12)) (Fin.ofNat 16 (fld w 15 4)) (Fin.ofNat 32 (fld w 7 5)))
  | 3 =>
    match fld w 25 7 with
    | 0 => chk (fld w 11 1 == 0 && fld w 19 1 == 0) (.hcinc (Fin.ofNat 32 (fld w 20 5)) (Fin.ofNat 16 (fld w 15 4)) (Fin.ofNat 16 (fld w 7 4)))
    | 1 => chk (fld w 11 1 == 0 && fld w 19 1 == 0) (.hcset (Fin.ofNat 32 (fld w 20 5)) (Fin.ofNat 16 (fld w 15 4)) (Fin.ofNat 16 (fld w 7 4)))
    | 2 => chk (fld w 11 1 == 0 && fld w 19 1 == 0) (.hcbnd (Fin.ofNat 32 (fld w 20 5)) (Fin.ofNat 16 (fld w 15 4)) (Fin.ofNat 16 (fld w 7 4)))
    | 3 => chk (fld w 11 1 == 0 && fld w 19 1 == 0) (.hcperm (Fin.ofNat 32 (fld w 20 5)) (Fin.ofNat 16 (fld w 15 4)) (Fin.ofNat 16 (fld w 7 4)))
    | 4 => chk (fld w 11 1 == 0 && fld w 19 6 == 0) (.hcmov (Fin.ofNat 16 (fld w 15 4)) (Fin.ofNat 16 (fld w 7 4)))
    | 5 => chk (fld w 11 1 == 0 && fld w 19 6 == 0) (.hcclr (Fin.ofNat 16 (fld w 15 4)) (Fin.ofNat 16 (fld w 7 4)))
    | 6 => chk (fld w 11 1 == 0 && fld w 19 1 == 0 && fld w 24 1 == 0) (.hcseal (Fin.ofNat 16 (fld w 20 4)) (Fin.ofNat 16 (fld w 15 4)) (Fin.ofNat 16 (fld w 7 4)))
    | 7 => chk (fld w 11 1 == 0 && fld w 19 1 == 0 && fld w 24 1 == 0) (.hcunseal (Fin.ofNat 16 (fld w 20 4)) (Fin.ofNat 16 (fld w 15 4)) (Fin.ofNat 16 (fld w 7 4)))
    | _ => .error .unassigned
  | 4 =>
    match fld w 25 7 with
    | 0 => chk (fld w 7 5 == 0 && fld w 19 1 == 0 && fld w 24 1 == 0) (.hcsend (Fin.ofNat 16 (fld w 20 4)) (Fin.ofNat 16 (fld w 15 4)))
    | 1 => chk (fld w 7 5 == 0 && fld w 19 1 == 0 && fld w 24 1 == 0) (.hcrecv (Fin.ofNat 16 (fld w 20 4)) (Fin.ofNat 16 (fld w 15 4)))
    | 2 => chk (fld w 7 5 == 0 && fld w 19 1 == 0 && fld w 24 1 == 0) (.hcxcall (Fin.ofNat 16 (fld w 20 4)) (Fin.ofNat 16 (fld w 15 4)))
    | 3 => chk (fld w 7 5 == 0 && fld w 19 1 == 0 && fld w 24 1 == 0) (.hcreply (Fin.ofNat 16 (fld w 20 4)) (Fin.ofNat 16 (fld w 15 4)))
    | 4 => chk (fld w 7 5 == 0 && fld w 19 1 == 0) (.hcnotify (Fin.ofNat 32 (fld w 20 5)) (Fin.ofNat 16 (fld w 15 4)))
    | 5 => chk (fld w 7 5 == 0 && fld w 19 1 == 0 && fld w 24 1 == 0) (.hcpoll (Fin.ofNat 16 (fld w 20 4)) (Fin.ofNat 16 (fld w 15 4)))
    | _ => .error .unassigned
  | _ => .error .unassigned

/-! ## The encoder, written from the same field tables -/

/-- The word of a device instruction: its length in bytes and its bits (R20, R27, R29). Operations without an
encoding and host instructions have none. -/
def encode : Instr → Option (Nat × Nat)
  | .clause n w setB setA wait => some (4, 1 + n.toNat * 536870912 + w.code * 134217728 + setB.toNat * 8388608 + setA.toNat * 524288 + wait.toNat * 128)
  | .mov16 l a d => some (2, 0 + l.toNat * 32768 + a.val * 1024 + d.val * 32)
  | .add16 l a d => some (2, 2 + l.toNat * 32768 + a.val * 1024 + d.val * 32)
  | .sub16 l a d => some (2, 4 + l.toNat * 32768 + a.val * 1024 + d.val * 32)
  | .mul16 l a d => some (2, 6 + l.toNat * 32768 + a.val * 1024 + d.val * 32)
  | .and16 l a d => some (2, 8 + l.toNat * 32768 + a.val * 1024 + d.val * 32)
  | .or16 l a d => some (2, 10 + l.toNat * 32768 + a.val * 1024 + d.val * 32)
  | .xor16 l a d => some (2, 12 + l.toNat * 32768 + a.val * 1024 + d.val * 32)
  | .shl16 l a d => some (2, 14 + l.toNat * 32768 + a.val * 1024 + d.val * 32)
  | .shr16 l a d => some (2, 16 + l.toNat * 32768 + a.val * 1024 + d.val * 32)
  | .sar16 l a d => some (2, 18 + l.toNat * 32768 + a.val * 1024 + d.val * 32)
  | .min16 l a d => some (2, 20 + l.toNat * 32768 + a.val * 1024 + d.val * 32)
  | .max16 l a d => some (2, 22 + l.toNat * 32768 + a.val * 1024 + d.val * 32)
  | .fadd16 l a d => some (2, 24 + l.toNat * 32768 + a.val * 1024 + d.val * 32)
  | .fsub16 l a d => some (2, 26 + l.toNat * 32768 + a.val * 1024 + d.val * 32)
  | .fmul16 l a d => some (2, 28 + l.toNat * 32768 + a.val * 1024 + d.val * 32)
  | .fma16 l a d => some (2, 30 + l.toNat * 32768 + a.val * 1024 + d.val * 32)
  | .add w b a d => some (4, 3 + w.code * 536870912 + b.reg.code * 2097152 + b.use.code * 134217728 + a.reg.code * 8192 + a.use.code * 524288 + d.code * 128)
  | .sub w b a d => some (4, 2147483651 + w.code * 536870912 + b.reg.code * 2097152 + b.use.code * 134217728 + a.reg.code * 8192 + a.use.code * 524288 + d.code * 128)
  | .mul w b a d => some (4, 5 + w.code * 536870912 + b.reg.code * 2097152 + b.use.code * 134217728 + a.reg.code * 8192 + a.use.code * 524288 + d.code * 128)
  | .mulh w b a d => some (4, 2147483653 + w.code * 536870912 + b.reg.code * 2097152 + b.use.code * 134217728 + a.reg.code * 8192 + a.use.code * 524288 + d.code * 128)
  | .mad w b a d => some (4, 7 + w.code * 536870912 + b.reg.code * 2097152 + b.use.code * 134217728 + a.reg.code * 8192 + a.use.code * 524288 + d.code * 128)
  | .min w b a d => some (4, 9 + w.code * 536870912 + b.reg.code * 2097152 + b.use.code * 134217728 + a.reg.code * 8192 + a.use.code * 524288 + d.code * 128)
  | .max w b a d => some (4, 2147483657 + w.code * 536870912 + b.reg.code * 2097152 + b.use.code * 134217728 + a.reg.code * 8192 + a.use.code * 524288 + d.code * 128)
  | .minu w b a d => some (4, 11 + w.code * 536870912 + b.reg.code * 2097152 + b.use.code * 134217728 + a.reg.code * 8192 + a.use.code * 524288 + d.code * 128)
  | .maxu w b a d => some (4, 2147483659 + w.code * 536870912 + b.reg.code * 2097152 + b.use.code * 134217728 + a.reg.code * 8192 + a.use.code * 524288 + d.code * 128)
  | .abs w a d => some (4, 13 + w.code * 536870912 + a.reg.code * 8192 + a.use.code * 524288 + d.code * 128)
  | .neg w a d => some (4, 2147483661 + w.code * 536870912 + a.reg.code * 8192 + a.use.code * 524288 + d.code * 128)
  | .shl w b a d => some (4, 15 + w.code * 536870912 + b.reg.code * 2097152 + b.use.code * 134217728 + a.reg.code * 8192 + a.use.code * 524288 + d.code * 128)
  | .shr w b a d => some (4, 2147483663 + w.code * 536870912 + b.reg.code * 2097152 + b.use.code * 134217728 + a.reg.code * 8192 + a.use.code * 524288 + d.code * 128)
  | .sar w b a d => some (4, 17 + w.code * 536870912 + b.reg.code * 2097152 + b.use.code * 134217728 + a.reg.code * 8192 + a.use.code * 524288 + d.code * 128)
  | .rot w b a d => some (4, 2147483665 + w.code * 536870912 + b.reg.code * 2097152 + b.use.code * 134217728 + a.reg.code * 8192 + a.use.code * 524288 + d.code * 128)
  | .clz w a d => some (4, 19 + w.code * 536870912 + a.reg.code * 8192 + a.use.code * 524288 + d.code * 128)
  | .ctz w a d => some (4, 2147483667 + w.code * 536870912 + a.reg.code * 8192 + a.use.code * 524288 + d.code * 128)
  | .popc w a d => some (4, 21 + w.code * 536870912 + a.reg.code * 8192 + a.use.code * 524288 + d.code * 128)
  | .brev w a d => some (4, 2147483669 + w.code * 536870912 + a.reg.code * 8192 + a.use.code * 524288 + d.code * 128)
  | .bfx w b a d => some (4, 23 + w.code * 536870912 + b.reg.code * 2097152 + b.use.code * 134217728 + a.reg.code * 8192 + a.use.code * 524288 + d.code * 128)
  | .bfi w b a d => some (4, 2147483671 + w.code * 536870912 + b.reg.code * 2097152 + b.use.code * 134217728 + a.reg.code * 8192 + a.use.code * 524288 + d.code * 128)
  | .sel p w b a d => some (4, 25 + p.val * 536870912 + w.code * 134217728 + b.code * 2097152 + a.reg.code * 8192 + a.use.code * 524288 + d.code * 128)
  | .cvtI u wd sat ws a d => some (4, 27 + u.toNat * 2147483648 + wd.code * 536870912 + sat.toNat * 8388608 + ws.code * 2097152 + a.reg.code * 8192 + a.use.code * 524288 + d.code * 128)
  | .and b a d => some (4, 29 + b.reg.code * 2097152 + b.use.code * 134217728 + a.reg.code * 8192 + a.use.code * 524288 + d.code * 128)
  | .or b a d => some (4, 536870941 + b.reg.code * 2097152 + b.use.code * 134217728 + a.reg.code * 8192 + a.use.code * 524288 + d.code * 128)
  | .xor b a d => some (4, 1073741853 + b.reg.code * 2097152 + b.use.code * 134217728 + a.reg.code * 8192 + a.use.code * 524288 + d.code * 128)
  | .andn b a d => some (4, 1610612765 + b.reg.code * 2097152 + b.use.code * 134217728 + a.reg.code * 8192 + a.use.code * 524288 + d.code * 128)
  | .not a d => some (4, 2147483677 + a.reg.code * 8192 + a.use.code * 524288 + d.code * 128)
  | .mov a d => some (4, 2684354589 + a.reg.code * 8192 + a.use.code * 524288 + d.code * 128)
  | .perm b a d => some (4, 3221225501 + b.reg.code * 2097152 + b.use.code * 134217728 + a.reg.code * 8192 + a.use.code * 524288 + d.code * 128)
  | .pack w b a d => some (4, 31 + w.code * 536870912 + b.reg.code * 2097152 + b.use.code * 134217728 + a.reg.code * 8192 + a.use.code * 524288 + d.code * 128)
  | .unpack w h a d => some (4, 2147483679 + w.code * 536870912 + h.toNat * 2097152 + a.reg.code * 8192 + a.use.code * 524288 + d.code * 128)
  | .fadd f b a d => some (4, 33 + f.code * 536870912 + b.reg.code * 2097152 + b.use.code * 134217728 + a.reg.code * 8192 + a.use.code * 524288 + d.code * 128)
  | .fsub f b a d => some (4, 2147483681 + f.code * 536870912 + b.reg.code * 2097152 + b.use.code * 134217728 + a.reg.code * 8192 + a.use.code * 524288 + d.code * 128)
  | .fmul f b a d => some (4, 35 + f.code * 536870912 + b.reg.code * 2097152 + b.use.code * 134217728 + a.reg.code * 8192 + a.use.code * 524288 + d.code * 128)
  | .fma f b a d => some (4, 2147483683 + f.code * 536870912 + b.reg.code * 2097152 + b.use.code * 134217728 + a.reg.code * 8192 + a.use.code * 524288 + d.code * 128)
  | .fnma f b a d => some (4, 37 + f.code * 536870912 + b.reg.code * 2097152 + b.use.code * 134217728 + a.reg.code * 8192 + a.use.code * 524288 + d.code * 128)
  | .fscale f b a d => some (4, 2147483685 + f.code * 536870912 + b.reg.code * 2097152 + b.use.code * 134217728 + a.reg.code * 8192 + a.use.code * 524288 + d.code * 128)
  | .fmin f b a d => some (4, 39 + f.code * 536870912 + b.reg.code * 2097152 + b.use.code * 134217728 + a.reg.code * 8192 + a.use.code * 524288 + d.code * 128)
  | .fmax f b a d => some (4, 2147483687 + f.code * 536870912 + b.reg.code * 2097152 + b.use.code * 134217728 + a.reg.code * 8192 + a.use.code * 524288 + d.code * 128)
  | .fabs f a d => some (4, 41 + f.code * 2097152 + a.reg.code * 8192 + a.use.code * 524288 + d.code * 128)
  | .fneg f a d => some (4, 536870953 + f.code * 2097152 + a.reg.code * 8192 + a.use.code * 524288 + d.code * 128)
  | .fclass f a d => some (4, 1073741865 + f.code * 2097152 + a.reg.code * 8192 + a.use.code * 524288 + d.code * 128)
  | .fround r f a d => some (4, 1610612777 + r.code * 8388608 + f.code * 2097152 + a.reg.code * 8192 + a.use.code * 524288 + d.code * 128)
  | .fcvt dst r src a d => some (4, 43 + dst.code * 536870912 + r.code * 16777216 + src.code * 2097152 + a.reg.code * 8192 + a.use.code * 524288 + d.code * 128)
  | .frcp f a d => some (4, 45 + f.code * 2097152 + a.reg.code * 8192 + a.use.code * 524288 + d.code * 128)
  | .frsq f a d => some (4, 536870957 + f.code * 2097152 + a.reg.code * 8192 + a.use.code * 524288 + d.code * 128)
  | .fsqrt f a d => some (4, 1073741869 + f.code * 2097152 + a.reg.code * 8192 + a.use.code * 524288 + d.code * 128)
  | .fexp2 f a d => some (4, 1610612781 + f.code * 2097152 + a.reg.code * 8192 + a.use.code * 524288 + d.code * 128)
  | .flog2 f a d => some (4, 2147483693 + f.code * 2097152 + a.reg.code * 8192 + a.use.code * 524288 + d.code * 128)
  | .fsin f a d => some (4, 2684354605 + f.code * 2097152 + a.reg.code * 8192 + a.use.code * 524288 + d.code * 128)
  | .fcos f a d => some (4, 3221225517 + f.code * 2097152 + a.reg.code * 8192 + a.use.code * 524288 + d.code * 128)
  | .ftanh f a d => some (4, 3758096429 + f.code * 2097152 + a.reg.code * 8192 + a.use.code * 524288 + d.code * 128)
  | .modadd b a d => some (4, 49 + b.reg.code * 2097152 + b.use.code * 134217728 + a.reg.code * 8192 + a.use.code * 524288 + d.code * 128)
  | .modsub b a d => some (4, 536870961 + b.reg.code * 2097152 + b.use.code * 134217728 + a.reg.code * 8192 + a.use.code * 524288 + d.code * 128)
  | .modmul b a d => some (4, 1073741873 + b.reg.code * 2097152 + b.use.code * 134217728 + a.reg.code * 8192 + a.use.code * 524288 + d.code * 128)
  | .mred b a d => some (4, 1610612785 + b.reg.code * 2097152 + b.use.code * 134217728 + a.reg.code * 8192 + a.use.code * 524288 + d.code * 128)
  | .nttbf a d => some (4, 2147483697 + a.reg.code * 8192 + a.use.code * 524288 + d.code * 128)
  | .inttbf a d => some (4, 2684354609 + a.reg.code * 8192 + a.use.code * 524288 + d.code * 128)
  | .shfl b a d => some (4, 53 + b.reg.code * 2097152 + b.use.code * 134217728 + a.reg.code * 8192 + a.use.code * 524288 + d.code * 128)
  | .shflx b a d => some (4, 536870965 + b.reg.code * 2097152 + b.use.code * 134217728 + a.reg.code * 8192 + a.use.code * 524288 + d.code * 128)
  | .bcast k a d => some (4, 1073741877 + k.toNat * 2097152 + a.reg.code * 8192 + a.use.code * 524288 + d.code * 128)
  | .ballot p d => some (4, 1610612789 + p.val * 8192 + d.code * 128)
  | .voteAny p w q => some (4, 2147483701 + p.val * 8192 + w.code * 1024 + q.val * 128)
  | .voteAll p w q => some (4, 2684354613 + p.val * 8192 + w.code * 1024 + q.val * 128)
  | .matchSeats a d => some (4, 3221225525 + a.reg.code * 8192 + a.use.code * 524288 + d.code * 128)
  | .scan w x fl o a d => some (4, 55 + w.code * 536870912 + x.toNat * 33554432 + fl.toNat * 16777216 + o.toNat * 2097152 + a.reg.code * 8192 + a.use.code * 524288 + d.code * 128)
  | .red w fl o a d => some (4, 2147483703 + w.code * 536870912 + fl.toNat * 16777216 + o.toNat * 2097152 + a.reg.code * 8192 + a.use.code * 524288 + d.code * 128)
  | .li i d => some (4, 57 + i.toNat * 8192 + d.code * 128)
  | .lih1 i d => some (4, 536870969 + i.toNat * 8192 + d.code * 128)
  | .lih2 i d => some (4, 1073741881 + i.toNat * 8192 + d.code * 128)
  | .lih3 i d => some (4, 1610612793 + i.toNat * 8192 + d.code * 128)
  | .lih0 i d => some (4, 2147483705 + i.toNat * 8192 + d.code * 128)
  | .addi w i a d => some (4, 59 + w.code * 536870912 + i.toNat * 524288 + a.code * 8192 + d.code * 128)
  | .bra o => some (4, 65 + o.toNat * 8192)
  | .call o d => some (4, 536870977 + o.toNat * 8192 + d.code * 128)
  | .brP o inv k => some (4, 1073741889 + o.toNat * 8192 + inv.toNat * 1024 + k.val * 128)
  | .brx ca cd => some (4, 67 + ca.val * 8192 + cd.val * 128)
  | .ret a => some (4, 536870979 + a.reg.code * 8192 + a.use.code * 524288)
  | .exit => some (4, 1073741891)
  | .yield => some (4, 1610612803)
  | .brk hi lo => some (4, 2147483715 + hi.toNat * 2097152 + lo.toNat * 8192)
  | .pause a => some (4, 2684354627 + a.reg.code * 8192 + a.use.code * 524288)
  | .cmp c b a w p => some (4, 73 + c.code * 536870912 + b.reg.code * 2097152 + b.use.code * 134217728 + a.reg.code * 8192 + a.use.code * 524288 + w.code * 1024 + p.val * 128)
  | .cmpi c i a w p => some (4, 75 + c.code * 536870912 + i.toNat * 2097152 + a.reg.code * 8192 + a.use.code * 524288 + w.code * 1024 + p.val * 128)
  | .fcmp c b a f p => some (4, 77 + c.code * 536870912 + b.reg.code * 2097152 + b.use.code * 134217728 + a.reg.code * 8192 + a.use.code * 524288 + f.code * 1024 + p.val * 128)
  | .pand b a d => some (4, 79 + b.val * 2097152 + a.val * 8192 + d.val * 128)
  | .por b a d => some (4, 536870991 + b.val * 2097152 + a.val * 8192 + d.val * 128)
  | .pxor b a d => some (4, 1073741903 + b.val * 2097152 + a.val * 8192 + d.val * 128)
  | .pnot a d => some (4, 1610612815 + a.val * 8192 + d.val * 128)
  | .ldIndex x sz c d => some (4, 81 + x.reg.code * 2097152 + x.use.code * 134217728 + sz.code * 131072 + c.val * 8192 + d.code * 128)
  | .ldImm i sz c d => some (4, 524369 + i.toNat * 1048576 + sz.code * 131072 + c.val * 8192 + d.code * 128)
  | .stIndex x sz c d => some (4, 536870993 + x.reg.code * 2097152 + x.use.code * 134217728 + sz.code * 131072 + c.val * 8192 + d.code * 128)
  | .stImm i sz c d => some (4, 537395281 + i.toNat * 1048576 + sz.code * 131072 + c.val * 8192 + d.code * 128)
  | .ldpIndex x c d => some (4, 1073741905 + x.reg.code * 2097152 + x.use.code * 134217728 + c.val * 8192 + d.code * 128)
  | .ldpImm i c d => some (4, 1074266193 + i.toNat * 1048576 + c.val * 8192 + d.code * 128)
  | .stpIndex x c d => some (4, 1610612817 + x.reg.code * 2097152 + x.use.code * 134217728 + c.val * 8192 + d.code * 128)
  | .stpImm i c d => some (4, 1611137105 + i.toNat * 1048576 + c.val * 8192 + d.code * 128)
  | .ldsIndex x sz c d => some (4, 83 + x.reg.code * 2097152 + x.use.code * 134217728 + sz.code * 131072 + c.val * 8192 + d.code * 128)
  | .ldsImm i sz c d => some (4, 524371 + i.toNat * 1048576 + sz.code * 131072 + c.val * 8192 + d.code * 128)
  | .stsIndex x sz c d => some (4, 536870995 + x.reg.code * 2097152 + x.use.code * 134217728 + sz.code * 131072 + c.val * 8192 + d.code * 128)
  | .stsImm i sz c d => some (4, 537395283 + i.toNat * 1048576 + sz.code * 131072 + c.val * 8192 + d.code * 128)
  | .ldfRIndex x c d => some (4, 1073741907 + x.reg.code * 2097152 + x.use.code * 134217728 + c.val * 8192 + d.code * 128)
  | .ldfRImm i c d => some (4, 1074266195 + i.toNat * 1048576 + c.val * 8192 + d.code * 128)
  | .ldfCIndex x c d => some (4, 1610612819 + x.reg.code * 2097152 + x.use.code * 134217728 + c.val * 8192 + d.code * 128)
  | .ldfCImm i c d => some (4, 1611137107 + i.toNat * 1048576 + c.val * 8192 + d.code * 128)
  | .stfRIndex x c d => some (4, 2147483731 + x.reg.code * 2097152 + x.use.code * 134217728 + c.val * 8192 + d.code * 128)
  | .stfRImm i c d => some (4, 2148008019 + i.toNat * 1048576 + c.val * 8192 + d.code * 128)
  | .stfCIndex x c d => some (4, 2684354643 + x.reg.code * 2097152 + x.use.code * 134217728 + c.val * 8192 + d.code * 128)
  | .stfCImm i c d => some (4, 2684878931 + i.toNat * 1048576 + c.val * 8192 + d.code * 128)
  | .ldcIndex x c cd => some (4, 85 + x.reg.code * 2097152 + x.use.code * 134217728 + c.val * 8192 + cd.val * 128)
  | .ldcImm i c cd => some (4, 524373 + i.toNat * 1048576 + c.val * 8192 + cd.val * 128)
  | .stcIndex x c cd => some (4, 536870997 + x.reg.code * 2097152 + x.use.code * 134217728 + c.val * 8192 + cd.val * 128)
  | .stcImm i c cd => some (4, 537395285 + i.toNat * 1048576 + c.val * 8192 + cd.val * 128)
  | .prefIndex x c llc => some (4, 1073741909 + x.reg.code * 2097152 + x.use.code * 134217728 + c.val * 8192 + llc.toNat * 128)
  | .prefImm i c llc => some (4, 1074266197 + i.toNat * 1048576 + c.val * 8192 + llc.toNat * 128)
  | .fence s o => some (4, 1610612821 + s.code * 262144 + o.code * 128)
  | .atomRelaxed op b s w32 c d => some (4, 87 + (op.code % 8) * 536870912 + (op.code / 8) * 134217728 + b.code * 2097152 + s.code * 262144 + w32.toNat * 131072 + c.val * 8192 + d.code * 128)
  | .atomAcquire op b s w32 c d => some (4, 89 + (op.code % 8) * 536870912 + (op.code / 8) * 134217728 + b.code * 2097152 + s.code * 262144 + w32.toNat * 131072 + c.val * 8192 + d.code * 128)
  | .atomRelease op b s w32 c d => some (4, 91 + (op.code % 8) * 536870912 + (op.code / 8) * 134217728 + b.code * 2097152 + s.code * 262144 + w32.toNat * 131072 + c.val * 8192 + d.code * 128)
  | .atomAcqRel op b s w32 c d => some (4, 93 + (op.code % 8) * 536870912 + (op.code / 8) * 134217728 + b.code * 2097152 + s.code * 262144 + w32.toNat * 131072 + c.val * 8192 + d.code * 128)
  | .atoms op b o w32 c d => some (4, 95 + (op.code % 8) * 536870912 + (op.code / 8) * 134217728 + b.code * 2097152 + o.code * 524288 + w32.toNat * 131072 + c.val * 8192 + d.code * 128)
  | .cinc b sh ca cd => some (4, 97 + b.reg.code * 2097152 + b.use.code * 134217728 + sh.toNat * 131072 + ca.val * 8192 + cd.val * 128)
  | .cset b ca cd => some (4, 536871009 + b.reg.code * 2097152 + b.use.code * 134217728 + ca.val * 8192 + cd.val * 128)
  | .cbnd b ca cd => some (4, 1073741921 + b.reg.code * 2097152 + b.use.code * 134217728 + ca.val * 8192 + cd.val * 128)
  | .cperm b ca cd => some (4, 1610612833 + b.reg.code * 2097152 + b.use.code * 134217728 + ca.val * 8192 + cd.val * 128)
  | .cseal cb ca cd => some (4, 2147483745 + cb.val * 2097152 + ca.val * 8192 + cd.val * 128)
  | .cunseal cb ca cd => some (4, 2684354657 + cb.val * 2097152 + ca.val * 8192 + cd.val * 128)
  | .cmov ca cd => some (4, 3221225569 + ca.val * 8192 + cd.val * 128)
  | .cclr ca cd => some (4, 3758096481 + ca.val * 8192 + cd.val * 128)
  | .cget slct ca d => some (4, 99 + slct.toNat * 2097152 + ca.val * 8192 + d.code * 128)
  | .ctest b ca w p => some (4, 536871011 + b.reg.code * 2097152 + b.use.code * 134217728 + ca.val * 8192 + w.code * 1024 + p.val * 128)
  | .ceq cb ca w p => some (4, 1073741923 + cb.val * 2097152 + ca.val * 8192 + w.code * 1024 + p.val * 128)
  | .join g => some (4, 105 + g.val * 128)
  | .leave g => some (4, 536871017 + g.val * 128)
  | .arrive g => some (4, 1073741929 + g.val * 128)
  | .waitb g => some (4, 1610612841 + g.val * 128)
  | .bar g => some (4, 2147483753 + g.val * 128)
  | .mbw m a => some (4, 107 + m.val * 2097152 + a.reg.code * 8192 + a.use.code * 524288)
  | .mbr m d => some (4, 536871019 + m.val * 2097152 + d.code * 128)
  | .mbtry m p d => some (4, 1073741931 + m.val * 2097152 + p.val * 8192 + d.code * 128)
  | .mbind m g => some (4, 1610612843 + m.val * 2097152 + g.val * 128)
  | .cpyT q sz ca arr fb cd => some (4, 109 + q.reg.code * 2097152 + q.use.code * 134217728 + sz.code * 131072 + ca.val * 8192 + arr.toNat * 4096 + fb.toNat * 2048 + cd.val * 128)
  | .cpyG q sz ca arr fb cd => some (4, 536871021 + q.reg.code * 2097152 + q.use.code * 134217728 + sz.code * 131072 + ca.val * 8192 + arr.toNat * 4096 + fb.toNat * 2048 + cd.val * 128)
  | .cpyS q sz ca arr fb cd => some (4, 1073741933 + q.reg.code * 2097152 + q.use.code * 134217728 + sz.code * 131072 + ca.val * 8192 + arr.toNat * 4096 + fb.toNat * 2048 + cd.val * 128)
  | .cpySc q sz ca arr fb cd => some (4, 1610612845 + q.reg.code * 2097152 + q.use.code * 134217728 + sz.code * 131072 + ca.val * 8192 + arr.toNat * 4096 + fb.toNat * 2048 + cd.val * 128)
  | .cpyP q sz arr fb cd => some (4, 2147483757 + q.reg.code * 2097152 + q.use.code * 134217728 + sz.code * 131072 + arr.toNat * 4096 + fb.toNat * 2048 + cd.val * 128)
  | .seal d => some (4, 2684354669 + d.code * 2097152)
  | .mma fmt b a t => some (4, 115 + fmt.code * 536870912 + b.reg.code * 2097152 + b.use.code * 134217728 + a.reg.code * 8192 + a.use.code * 524288 + t.val * 128)
  | .mmas fmt b a p t => some (4, 117 + fmt.code * 536870912 + b.reg.code * 2097152 + b.use.code * 134217728 + a.reg.code * 8192 + a.use.code * 524288 + p.toNat * 2048 + t.val * 128)
  | .mmod b a t => some (4, 119 + b.reg.code * 2097152 + b.use.code * 134217728 + a.reg.code * 8192 + a.use.code * 524288 + t.val * 128)
  | .aclr t => some (4, 536871031 + t.val * 128)
  | .ald fmt c a t => some (4, 1073741943 + fmt.code * 67108864 + c.val * 2097152 + a.reg.code * 8192 + a.use.code * 524288 + t.val * 128)
  | .ast fmt r c a t => some (4, 1610612855 + fmt.code * 67108864 + (r.code % 4) * 2048 + (r.code / 4) * 33554432 + c.val * 2097152 + a.reg.code * 8192 + a.use.code * 524288 + t.val * 128)
  | .tmma c q t => some (4, 2147483767 + c.val * 2097152 + q.reg.code * 8192 + q.use.code * 524288 + t.val * 128)
  | .send cb a ce => some (4, 121 + cb.val * 2097152 + a.reg.code * 8192 + a.use.code * 524288 + ce.val * 128)
  | .recv cb a ce => some (4, 536871033 + cb.val * 2097152 + a.reg.code * 8192 + a.use.code * 524288 + ce.val * 128)
  | .xcall cb a ce => some (4, 1073741945 + cb.val * 2097152 + a.reg.code * 8192 + a.use.code * 524288 + ce.val * 128)
  | .reply cb a => some (4, 1610612857 + cb.val * 2097152 + a.reg.code * 8192 + a.use.code * 524288)
  | .notify a ce => some (4, 2147483769 + a.reg.code * 8192 + a.use.code * 524288 + ce.val * 128)
  | .poll cb a ce => some (4, 2684354681 + cb.val * 2097152 + a.reg.code * 8192 + a.use.code * 524288 + ce.val * 128)
  | .sysc cb a ce => some (4, 3221225593 + cb.val * 2097152 + a.reg.code * 8192 + a.use.code * 524288 + ce.val * 128)
  | .push cb keep d ce => some (4, 123 + cb.val * 2097152 + keep.toNat * 524288 + d.code * 8192 + ce.val * 128)
  | .sret a ce => some (4, 536871035 + a.reg.code * 8192 + a.use.code * 524288 + ce.val * 128)
  | .mark ce => some (4, 1073741947 + ce.val * 128)
  | .bpost a k => some (4, 1610612859 + a.reg.code * 8192 + a.use.code * 524288 + k.val * 128)
  | .bwait a k => some (4, 2147483771 + a.reg.code * 8192 + a.use.code * 524288 + k.val * 128)
  | .emit a ce => some (4, 2684354683 + a.reg.code * 8192 + a.use.code * 524288 + ce.val * 128)
  | .ckpt => some (4, 3221225595)
  | .rd slct d => some (4, 125 + slct.toNat * 8192 + d.code * 128)
  | .srd slct d => some (4, 536871037 + slct.toNat * 8192 + d.code * 128)
  | .swr slct d => some (4, 1073741949 + slct.toNat * 8192 + d.code * 128)
  | .trap code => some (4, 1610612861 + code.toNat * 8192)
  | .tret => some (4, 2147483773)
  | .bsave sec c => some (4, 2684354685 + sec.toNat * 16384 + c.val * 128)
  | .brest sec c => some (4, 2684362877 + sec.toNat * 16384 + c.val * 128)
  | .rmap b a d => some (4, 3221225597 + b.code * 2097152 + a.reg.code * 8192 + a.use.code * 524288 + d.code * 128)
  | .haltPark => some (4, 3758096509)
  | .haltFail => some (4, 3758104701)
  | .haltRequeue => some (4, 3758112893)
  | .hcld _ _ _ => none
  | .hcst _ _ _ => none
  | .hcget _ _ _ => none
  | .hcinc _ _ _ => none
  | .hcset _ _ _ => none
  | .hcbnd _ _ _ => none
  | .hcperm _ _ _ => none
  | .hcmov _ _ => none
  | .hcclr _ _ => none
  | .hcseal _ _ _ => none
  | .hcunseal _ _ _ => none
  | .hcsend _ _ => none
  | .hcrecv _ _ => none
  | .hcxcall _ _ => none
  | .hcreply _ _ => none
  | .hcnotify _ _ => none
  | .hcpoll _ _ => none
  | .liftPass _ _ => none
  | .pipeIdleClock _ _ => none
  | .loadComplete _ _ => none
  | .storeAccepted _ => none
  | .atomicComplete _ _ => none
  | .holdLineDrain _ _ _ => none
  | .groupArrivalApply _ => none
  | .pauseWake _ _ _ => none
  | .fenceContinue _ _ _ => none
  | .mbxTimeout _ _ _ => none
  | .goneMaskSet _ _ => none
  | .copyComplete _ => none
  | .promiseMissed _ => none
  | .matrixUnitDone _ => none
  | .tmmaHandover _ => none
  | .tmmaComplete _ => none
  | .matrixFlagFall _ => none
  | .tileRowsDone _ => none
  | .pageWalk _ _ _ _ => none
  | .leaseExpire _ => none
  | .hubReturnExpired _ => none
  | .sdqtailWrite _ => none
  | .shootdownRequest => none
  | .bellSkewDetect _ => none
  | .skewRecovery _ => none
  | .translationRenewal _ _ => none
  | .grantRequest _ _ _ _ => none
  | .remoteAccessPerform _ => none
  | .remoteReplyDeadline _ => none
  | .remoteAckDeadline _ => none
  | .savedReplyApply _ _ _ _ _ => none
  | .carveComplete _ => none
  | .softError _ => none
  | .hotnessSample _ _ _ _ _ => none
  | .hotctlWrite _ _ => none
  | .hottailWrite _ _ => none
  | .pageMigration _ _ _ => none
  | .icacheInvalidate _ _ _ _ => none
  | .binTimerExpire _ => none
  | .emitStallTimeout _ _ _ => none
  | .priorityAging _ => none
  | .taskAdmit _ _ => none
  | .stagingGranuleLand _ _ _ _ => none
  | .stagingPageFault _ _ _ => none
  | .taskDispatch _ => none
  | .deanPreempt _ => none
  | .taskRetire _ => none
  | .taskRetireRelease _ => none
  | .taskAbort _ _ => none
  | .pagerResident _ => none
  | .implicitCheckpoint _ _ => none
  | .timetableIdleAdvance _ _ => none
  | .teamHalt _ _ => none
  | .parkBlockedTask _ => none
  | .parkedDelivery _ _ _ _ _ => none
  | .saveRunOpen _ _ => none
  | .restoreRunOpen _ _ => none
  | .faultRunOpen _ => none
  | .faultDisposition _ _ => none
  | .featChangeRetest _ => none
  | .machineCheck _ _ _ _ => none
  | .pushReserve _ => none
  | .pushPublish _ _ => none
  | .pushReply _ _ => none
  | .pushReplyDeadline _ => none
  | .pushSlotTimeout _ _ => none
  | .sretPerform _ => none
  | .markReplicaArrive _ _ _ _ => none
  | .markDone _ => none
  | .markTimeout _ => none
  | .linkFail _ => none
  | .linkRetrainDone _ => none
  | .pathSetChange _ => none
  | .libraryReport _ _ _ => none
  | .remoteRefusal _ _ => none
  | .pathSilenceTimeout _ _ => none
  | .pathProbe _ _ _ => none
  | .noPathTimeout _ => none
  | .poolLinkTimeout _ => none
  | .libraryAtomCombine _ => none
  | .poolsegWrite _ _ => none
  | .poolsegUnmapDone _ => none
  | .hallPassReceive _ => none
  | .programPost _ _ => none
  | .passFrame _ _ => none
  | .hallPassRegenerate _ => none
  | .membership _ _ => none
  | .bgctlWrite _ => none
  | .bellBeaconSend => none
  | .bellBeacon _ _ => none
  | .bellUnlock => none
  | .revocationNotice _ _ _ _ _ => none
  | .revocationAck _ _ => none
  | .revocationFence _ _ => none
  | .eraserSweep => none
  | .revocationComplete _ => none
  | .destroyComplete _ _ => none
  | .create _ => none
  | .mint _ => none
  | .destroy _ => none
  | .revoke _ => none
  | .memcap _ => none
  | .bind _ => none
  | .unbind _ => none
  | .carve _ => none
  | .carvecap _ => none
  | .heap _ => none
  | .inject _ => none
  | .emitcap _ => none
  | .exportSpace _ => none
  | .admitCap _ => none
  | .preemptPark _ => none
  | .preemptRelease _ => none
  | .ringDoneWrite _ _ => none
  | .serviceAlloc _ => none
  | .packageReset => none
  | .bootClaim _ _ => none
  | .bootReady _ _ _ _ _ => none
  | .bootTimeout _ _ => none
  | .bootTimerExpire => none
  | .imageVerify _ => none
  | .bootctlWrite _ => none
  | .getVersion _ => none
  | .getCapabilities _ => none
  | .negotiateAlgorithms _ _ => none
  | .getDigests _ => none
  | .getCertificate _ _ => none
  | .challenge _ _ _ => none
  | .getMeasurements _ _ => none
  | .keyExchange _ _ => none
  | .finish _ _ _ => none
  | .endSession _ _ => none
  | .keyRelease _ _ _ => none
  | .unsupportedRequest _ _ => none
  | .powerThrottle _ => none
  | .mgmtRegisterWrite _ _ _ => none
  | .illegalWord _ _ => none
  | .pcieMsiVector _ => none
  | .boardFibreLoss _ => none
  | .frameCheckFail _ _ => none
  | .checkpointComplete _ => none
  | .imageSectionComplete _ => none
  | .pushGrant _ _ _ => none
  | .hostTrapWithdraw _ _ => none
  | .hostHartAccess _ _ _ => none
  | .leasemaxRequeueWait _ => none

/-- The word of a host capability instruction (R356). -/
def encodeHost : Instr → Option Nat
  | .hcld i rs1 hcd => some (11 + i.toNat * 1048576 + rs1.val * 32768 + hcd.val * 128)
  | .hcst i hcs rs1 => some (4107 + (i.toNat % 32) * 128 + (i.toNat / 32) * 33554432 + hcs.val * 1048576 + rs1.val * 32768)
  | .hcget slct hca rd => some (8203 + slct.toNat * 1048576 + hca.val * 32768 + rd.val * 128)
  | .hcinc rs2 hca hcd => some (12299 + rs2.val * 1048576 + hca.val * 32768 + hcd.val * 128)
  | .hcset rs2 hca hcd => some (33566731 + rs2.val * 1048576 + hca.val * 32768 + hcd.val * 128)
  | .hcbnd rs2 hca hcd => some (67121163 + rs2.val * 1048576 + hca.val * 32768 + hcd.val * 128)
  | .hcperm rs2 hca hcd => some (100675595 + rs2.val * 1048576 + hca.val * 32768 + hcd.val * 128)
  | .hcmov hca hcd => some (134230027 + hca.val * 32768 + hcd.val * 128)
  | .hcclr hca hcd => some (167784459 + hca.val * 32768 + hcd.val * 128)
  | .hcseal hcb hca hcd => some (201338891 + hcb.val * 1048576 + hca.val * 32768 + hcd.val * 128)
  | .hcunseal hcb hca hcd => some (234893323 + hcb.val * 1048576 + hca.val * 32768 + hcd.val * 128)
  | .hcsend hcb hce => some (16395 + hcb.val * 1048576 + hce.val * 32768)
  | .hcrecv hcb hce => some (33570827 + hcb.val * 1048576 + hce.val * 32768)
  | .hcxcall hcb hce => some (67125259 + hcb.val * 1048576 + hce.val * 32768)
  | .hcreply hcb hce => some (100679691 + hcb.val * 1048576 + hce.val * 32768)
  | .hcnotify rs2 hce => some (134234123 + rs2.val * 1048576 + hce.val * 32768)
  | .hcpoll hcb hce => some (167788555 + hcb.val * 1048576 + hce.val * 32768)
  | .clause _ _ _ _ _ => none
  | .mov16 _ _ _ => none
  | .add16 _ _ _ => none
  | .sub16 _ _ _ => none
  | .mul16 _ _ _ => none
  | .and16 _ _ _ => none
  | .or16 _ _ _ => none
  | .xor16 _ _ _ => none
  | .shl16 _ _ _ => none
  | .shr16 _ _ _ => none
  | .sar16 _ _ _ => none
  | .min16 _ _ _ => none
  | .max16 _ _ _ => none
  | .fadd16 _ _ _ => none
  | .fsub16 _ _ _ => none
  | .fmul16 _ _ _ => none
  | .fma16 _ _ _ => none
  | .add _ _ _ _ => none
  | .sub _ _ _ _ => none
  | .mul _ _ _ _ => none
  | .mulh _ _ _ _ => none
  | .mad _ _ _ _ => none
  | .min _ _ _ _ => none
  | .max _ _ _ _ => none
  | .minu _ _ _ _ => none
  | .maxu _ _ _ _ => none
  | .abs _ _ _ => none
  | .neg _ _ _ => none
  | .shl _ _ _ _ => none
  | .shr _ _ _ _ => none
  | .sar _ _ _ _ => none
  | .rot _ _ _ _ => none
  | .clz _ _ _ => none
  | .ctz _ _ _ => none
  | .popc _ _ _ => none
  | .brev _ _ _ => none
  | .bfx _ _ _ _ => none
  | .bfi _ _ _ _ => none
  | .sel _ _ _ _ _ => none
  | .cvtI _ _ _ _ _ _ => none
  | .and _ _ _ => none
  | .or _ _ _ => none
  | .xor _ _ _ => none
  | .andn _ _ _ => none
  | .not _ _ => none
  | .mov _ _ => none
  | .perm _ _ _ => none
  | .pack _ _ _ _ => none
  | .unpack _ _ _ _ => none
  | .fadd _ _ _ _ => none
  | .fsub _ _ _ _ => none
  | .fmul _ _ _ _ => none
  | .fma _ _ _ _ => none
  | .fnma _ _ _ _ => none
  | .fscale _ _ _ _ => none
  | .fmin _ _ _ _ => none
  | .fmax _ _ _ _ => none
  | .fabs _ _ _ => none
  | .fneg _ _ _ => none
  | .fclass _ _ _ => none
  | .fround _ _ _ _ => none
  | .fcvt _ _ _ _ _ => none
  | .frcp _ _ _ => none
  | .frsq _ _ _ => none
  | .fsqrt _ _ _ => none
  | .fexp2 _ _ _ => none
  | .flog2 _ _ _ => none
  | .fsin _ _ _ => none
  | .fcos _ _ _ => none
  | .ftanh _ _ _ => none
  | .modadd _ _ _ => none
  | .modsub _ _ _ => none
  | .modmul _ _ _ => none
  | .mred _ _ _ => none
  | .nttbf _ _ => none
  | .inttbf _ _ => none
  | .shfl _ _ _ => none
  | .shflx _ _ _ => none
  | .bcast _ _ _ => none
  | .ballot _ _ => none
  | .voteAny _ _ _ => none
  | .voteAll _ _ _ => none
  | .matchSeats _ _ => none
  | .scan _ _ _ _ _ _ => none
  | .red _ _ _ _ _ => none
  | .li _ _ => none
  | .lih1 _ _ => none
  | .lih2 _ _ => none
  | .lih3 _ _ => none
  | .lih0 _ _ => none
  | .addi _ _ _ _ => none
  | .bra _ => none
  | .call _ _ => none
  | .brP _ _ _ => none
  | .brx _ _ => none
  | .ret _ => none
  | .exit => none
  | .yield => none
  | .brk _ _ => none
  | .pause _ => none
  | .cmp _ _ _ _ _ => none
  | .cmpi _ _ _ _ _ => none
  | .fcmp _ _ _ _ _ => none
  | .pand _ _ _ => none
  | .por _ _ _ => none
  | .pxor _ _ _ => none
  | .pnot _ _ => none
  | .ldIndex _ _ _ _ => none
  | .ldImm _ _ _ _ => none
  | .stIndex _ _ _ _ => none
  | .stImm _ _ _ _ => none
  | .ldpIndex _ _ _ => none
  | .ldpImm _ _ _ => none
  | .stpIndex _ _ _ => none
  | .stpImm _ _ _ => none
  | .ldsIndex _ _ _ _ => none
  | .ldsImm _ _ _ _ => none
  | .stsIndex _ _ _ _ => none
  | .stsImm _ _ _ _ => none
  | .ldfRIndex _ _ _ => none
  | .ldfRImm _ _ _ => none
  | .ldfCIndex _ _ _ => none
  | .ldfCImm _ _ _ => none
  | .stfRIndex _ _ _ => none
  | .stfRImm _ _ _ => none
  | .stfCIndex _ _ _ => none
  | .stfCImm _ _ _ => none
  | .ldcIndex _ _ _ => none
  | .ldcImm _ _ _ => none
  | .stcIndex _ _ _ => none
  | .stcImm _ _ _ => none
  | .prefIndex _ _ _ => none
  | .prefImm _ _ _ => none
  | .fence _ _ => none
  | .atomRelaxed _ _ _ _ _ _ => none
  | .atomAcquire _ _ _ _ _ _ => none
  | .atomRelease _ _ _ _ _ _ => none
  | .atomAcqRel _ _ _ _ _ _ => none
  | .atoms _ _ _ _ _ _ => none
  | .cinc _ _ _ _ => none
  | .cset _ _ _ => none
  | .cbnd _ _ _ => none
  | .cperm _ _ _ => none
  | .cseal _ _ _ => none
  | .cunseal _ _ _ => none
  | .cmov _ _ => none
  | .cclr _ _ => none
  | .cget _ _ _ => none
  | .ctest _ _ _ _ => none
  | .ceq _ _ _ _ => none
  | .join _ => none
  | .leave _ => none
  | .arrive _ => none
  | .waitb _ => none
  | .bar _ => none
  | .mbw _ _ => none
  | .mbr _ _ => none
  | .mbtry _ _ _ => none
  | .mbind _ _ => none
  | .cpyT _ _ _ _ _ _ => none
  | .cpyG _ _ _ _ _ _ => none
  | .cpyS _ _ _ _ _ _ => none
  | .cpySc _ _ _ _ _ _ => none
  | .cpyP _ _ _ _ _ => none
  | .seal _ => none
  | .mma _ _ _ _ => none
  | .mmas _ _ _ _ _ => none
  | .mmod _ _ _ => none
  | .aclr _ => none
  | .ald _ _ _ _ => none
  | .ast _ _ _ _ _ => none
  | .tmma _ _ _ => none
  | .send _ _ _ => none
  | .recv _ _ _ => none
  | .xcall _ _ _ => none
  | .reply _ _ => none
  | .notify _ _ => none
  | .poll _ _ _ => none
  | .sysc _ _ _ => none
  | .push _ _ _ _ => none
  | .sret _ _ => none
  | .mark _ => none
  | .bpost _ _ => none
  | .bwait _ _ => none
  | .emit _ _ => none
  | .ckpt => none
  | .rd _ _ => none
  | .srd _ _ => none
  | .swr _ _ => none
  | .trap _ => none
  | .tret => none
  | .bsave _ _ => none
  | .brest _ _ => none
  | .rmap _ _ _ => none
  | .haltPark => none
  | .haltFail => none
  | .haltRequeue => none
  | .liftPass _ _ => none
  | .pipeIdleClock _ _ => none
  | .loadComplete _ _ => none
  | .storeAccepted _ => none
  | .atomicComplete _ _ => none
  | .holdLineDrain _ _ _ => none
  | .groupArrivalApply _ => none
  | .pauseWake _ _ _ => none
  | .fenceContinue _ _ _ => none
  | .mbxTimeout _ _ _ => none
  | .goneMaskSet _ _ => none
  | .copyComplete _ => none
  | .promiseMissed _ => none
  | .matrixUnitDone _ => none
  | .tmmaHandover _ => none
  | .tmmaComplete _ => none
  | .matrixFlagFall _ => none
  | .tileRowsDone _ => none
  | .pageWalk _ _ _ _ => none
  | .leaseExpire _ => none
  | .hubReturnExpired _ => none
  | .sdqtailWrite _ => none
  | .shootdownRequest => none
  | .bellSkewDetect _ => none
  | .skewRecovery _ => none
  | .translationRenewal _ _ => none
  | .grantRequest _ _ _ _ => none
  | .remoteAccessPerform _ => none
  | .remoteReplyDeadline _ => none
  | .remoteAckDeadline _ => none
  | .savedReplyApply _ _ _ _ _ => none
  | .carveComplete _ => none
  | .softError _ => none
  | .hotnessSample _ _ _ _ _ => none
  | .hotctlWrite _ _ => none
  | .hottailWrite _ _ => none
  | .pageMigration _ _ _ => none
  | .icacheInvalidate _ _ _ _ => none
  | .binTimerExpire _ => none
  | .emitStallTimeout _ _ _ => none
  | .priorityAging _ => none
  | .taskAdmit _ _ => none
  | .stagingGranuleLand _ _ _ _ => none
  | .stagingPageFault _ _ _ => none
  | .taskDispatch _ => none
  | .deanPreempt _ => none
  | .taskRetire _ => none
  | .taskRetireRelease _ => none
  | .taskAbort _ _ => none
  | .pagerResident _ => none
  | .implicitCheckpoint _ _ => none
  | .timetableIdleAdvance _ _ => none
  | .teamHalt _ _ => none
  | .parkBlockedTask _ => none
  | .parkedDelivery _ _ _ _ _ => none
  | .saveRunOpen _ _ => none
  | .restoreRunOpen _ _ => none
  | .faultRunOpen _ => none
  | .faultDisposition _ _ => none
  | .featChangeRetest _ => none
  | .machineCheck _ _ _ _ => none
  | .pushReserve _ => none
  | .pushPublish _ _ => none
  | .pushReply _ _ => none
  | .pushReplyDeadline _ => none
  | .pushSlotTimeout _ _ => none
  | .sretPerform _ => none
  | .markReplicaArrive _ _ _ _ => none
  | .markDone _ => none
  | .markTimeout _ => none
  | .linkFail _ => none
  | .linkRetrainDone _ => none
  | .pathSetChange _ => none
  | .libraryReport _ _ _ => none
  | .remoteRefusal _ _ => none
  | .pathSilenceTimeout _ _ => none
  | .pathProbe _ _ _ => none
  | .noPathTimeout _ => none
  | .poolLinkTimeout _ => none
  | .libraryAtomCombine _ => none
  | .poolsegWrite _ _ => none
  | .poolsegUnmapDone _ => none
  | .hallPassReceive _ => none
  | .programPost _ _ => none
  | .passFrame _ _ => none
  | .hallPassRegenerate _ => none
  | .membership _ _ => none
  | .bgctlWrite _ => none
  | .bellBeaconSend => none
  | .bellBeacon _ _ => none
  | .bellUnlock => none
  | .revocationNotice _ _ _ _ _ => none
  | .revocationAck _ _ => none
  | .revocationFence _ _ => none
  | .eraserSweep => none
  | .revocationComplete _ => none
  | .destroyComplete _ _ => none
  | .create _ => none
  | .mint _ => none
  | .destroy _ => none
  | .revoke _ => none
  | .memcap _ => none
  | .bind _ => none
  | .unbind _ => none
  | .carve _ => none
  | .carvecap _ => none
  | .heap _ => none
  | .inject _ => none
  | .emitcap _ => none
  | .exportSpace _ => none
  | .admitCap _ => none
  | .preemptPark _ => none
  | .preemptRelease _ => none
  | .ringDoneWrite _ _ => none
  | .serviceAlloc _ => none
  | .packageReset => none
  | .bootClaim _ _ => none
  | .bootReady _ _ _ _ _ => none
  | .bootTimeout _ _ => none
  | .bootTimerExpire => none
  | .imageVerify _ => none
  | .bootctlWrite _ => none
  | .getVersion _ => none
  | .getCapabilities _ => none
  | .negotiateAlgorithms _ _ => none
  | .getDigests _ => none
  | .getCertificate _ _ => none
  | .challenge _ _ _ => none
  | .getMeasurements _ _ => none
  | .keyExchange _ _ => none
  | .finish _ _ _ => none
  | .endSession _ _ => none
  | .keyRelease _ _ _ => none
  | .unsupportedRequest _ _ => none
  | .powerThrottle _ => none
  | .mgmtRegisterWrite _ _ _ => none
  | .illegalWord _ _ => none
  | .pcieMsiVector _ => none
  | .boardFibreLoss _ => none
  | .frameCheckFail _ _ => none
  | .checkpointComplete _ => none
  | .imageSectionComplete _ => none
  | .pushGrant _ _ _ => none
  | .hostTrapWithdraw _ _ => none
  | .hostHartAccess _ _ _ => none
  | .leasemaxRequeueWait _ => none

/-! ## Bytes and table words -/

/-- The half-word at the head of a byte list (R16, R18). -/
def halfOf : List Byte → Option (Nat × List Byte)
  | b0 :: b1 :: rest => some (b0.toNat + 256 * b1.toNat, rest)
  | _ => none

/-- The decoder on bytes (R18): bit 0 of the first half-word gives the length. The answer is the instruction, its
length in bytes and the bytes that follow; none when the bytes run out. -/
def decodeBytes (bs : List Byte) : Option (Except DecodeErr Instr × Nat × List Byte) :=
  match halfOf bs with
  | none => none
  | some (lo, rest) =>
    if lo % 2 == 0 then some (.ok (decode16 lo), 2, rest)
    else
      match halfOf rest with
      | none => none
      | some (hi, rest') => some (decode32 (lo + 65536 * hi), 4, rest')

/-- The bytes of a word of nbits bits, first byte at the lowest address (R16). -/
def wordBytes (nbits w : Nat) : List Byte :=
  (List.range ((nbits + 7) / 8)).map fun k => BitVec.ofNat 8 (w / 2 ^ (8 * k))

/-- The instruction that the decoder reads from a table word: the bytes are laid out as the hardware stores them, with
zeros above nbits up to the longest instruction (R18). The host instructions of R356 and R357 stand in the opcode space of
another instruction set (custom-0), whose words with SEL clear are also words of major 0x05: a word that reads as a host
instruction is given as that one. -/
def decodeTableWord (nbits w : Nat) : Option Instr :=
  match decodeHost (w % 2 ^ nbits) with
  | .ok i => some i
  | .error _ =>
    match decodeBytes (wordBytes 32 (w % 2 ^ nbits)) with
    | some (.ok i, _, _) => some i
    | _ => none

end Sys2Proof
end

