-- ==== Sys2Proof/Machine/Bits.lean ====
section
/-!
DEFINITION. Bit-field, sub-element, sign-extension and byte-order helpers (R16, R53, R54).
-/
namespace Sys2Proof.Machine

/-- The width in bits of an integer width code (R24). -/
def widthBits : Width → Nat
  | .d => 64
  | .w => 32
  | .h => 16
  | .b => 8

/-- The width in bytes of an access size code (R28). -/
def widthBytes (w : Width) : Nat := widthBits w / 8

/-- The signed reading of the low w bits of x (R55). -/
def sx (w x : Nat) : Int := if 2 * (x % 2 ^ w) < 2 ^ w then Int.ofNat (x % 2 ^ w) else Int.ofNat (x % 2 ^ w) - Int.ofNat (2 ^ w)

/-- The low w bits of an integer, as an unsigned number (`trunc`, R54). -/
def wrap (w : Nat) (x : Int) : Nat := (x % Int.ofNat (2 ^ w)).toNat

/-- Sub-element i of x at width w (R53). -/
def elem (x : Word) (i w : Nat) : Nat := x.toNat / 2 ^ (w * i) % 2 ^ w

/-- The register whose sub-element i is f i for i < n, and 0 above (R53, R54). -/
def ofElems (n w : Nat) (f : Nat → Nat) : Word :=
  BitVec.ofNat 64 ((List.range n).foldl (fun acc i => acc + (f i % 2 ^ w) * 2 ^ (w * i)) 0)

/-- Apply an operation to every sub-element of width w (R69). -/
def lanes (w : Nat) (f : Nat → Nat) : Word := ofElems (64 / w) w f

/-- The predicate of n results, with bits [7:n] written as 0 (R54). -/
def predOf (n : Nat) (f : Nat → Bool) : BitVec 8 :=
  BitVec.ofNat 8 ((List.range n).foldl (fun acc i => acc + (f i).toNat * 2 ^ i) 0)

/-- Bits [hi:lo] of a 64-bit value, as a number. -/
def bitsOf (x : Word) (hi lo : Nat) : Nat := x.toNat / 2 ^ lo % 2 ^ (hi + 1 - lo)

/-- One bit of a 64-bit value. -/
def bitOf (x : Word) (i : Nat) : Bool := x.getLsbD i

/-- Replace the n bits from lo of a number below 2^width by the low n bits of v. -/
def putBits (x lo n v : Nat) : Nat := x - x / 2 ^ lo % 2 ^ n * 2 ^ lo + v % 2 ^ n * 2 ^ lo

/-- Replace bits [lo+n-1:lo] of a word. -/
def putWord (x : Word) (lo n v : Nat) : Word := BitVec.ofNat 64 (putBits x.toNat lo n v)

/-- A signed offset added to an address, modulo 2^64. -/
def addInt (x : Word) (d : Int) : Word := x + BitVec.ofInt 64 d

/-- The n bytes of a value, least significant first (R16). -/
def bytesLE (n v : Nat) : List Byte := (List.range n).map fun k => BitVec.ofNat 8 (v / 256 ^ k)

/-- The value of bytes, least significant first (R16). -/
def valueLE (bs : List Byte) : Nat := bs.foldr (fun b acc => b.toNat + 256 * acc) 0

/-- Rotate a w-bit number left by k < w (R69). -/
def rotl (w x k : Nat) : Nat := (x * 2 ^ k + x / 2 ^ (w - k)) % 2 ^ w

/-- The number of leading zeros of a w-bit number (R70). -/
def clzN : Nat → Nat → Nat
  | 0, _ => 0
  | w + 1, x => if x / 2 ^ w % 2 = 1 then 0 else 1 + clzN w x

/-- The number of trailing zeros of a w-bit number (R70). -/
def ctzN : Nat → Nat → Nat
  | 0, _ => 0
  | w + 1, x => if x % 2 = 1 then 0 else 1 + ctzN w (x / 2)

/-- The number of one bits of a w-bit number (R70). -/
def popN : Nat → Nat → Nat
  | 0, _ => 0
  | w + 1, x => x % 2 + popN w (x / 2)

/-- The bits of a w-bit number in reverse order (R70). -/
def revN : Nat → Nat → Nat
  | 0, _ => 0
  | w + 1, x => x % 2 * 2 ^ w + revN w (x / 2)

/-- The seats of a mask, in ascending order (R4). -/
def seatsOf (m : SeatMask) : List Nat := (List.range 32).filter fun k => m.getLsbD k

/-- The mask of one seat. -/
def seatBit (k : Nat) : SeatMask := BitVec.ofNat 32 (2 ^ k)

/-- The mask of the seats that satisfy a test. -/
def maskOf (f : Nat → Bool) : SeatMask :=
  BitVec.ofNat 32 ((List.range 32).foldl (fun acc i => acc + (f i).toNat * 2 ^ i) 0)

/-- The lowest seat of a mask (R7); 0 for the empty mask. -/
def lowestSeat (m : SeatMask) : Nat := (seatsOf m).headD 0

/-- The value of a list at a place, with a default. -/
def nth {α : Type} (l : List α) (k : Nat) (d : α) : α := l.getD k d

/-- The list with the value at place k replaced, where k is a place of the list. -/
def setNth {α : Type} (l : List α) (k : Nat) (x : α) : List α := l.set k x

/-- The value stored under a key in an association list. -/
def lookupKey {κ α : Type} [BEq κ] (l : List (κ × α)) (k : κ) : Option α :=
  (l.find? fun e => e.1 == k).map (·.2)

/-- The list with the value under a key replaced, or added at the end. -/
def putKey {κ α : Type} [BEq κ] (l : List (κ × α)) (k : κ) (x : α) : List (κ × α) :=
  if l.any (fun e => e.1 == k) then l.map fun e => if e.1 == k then (k, x) else e else l ++ [(k, x)]

/-- The list without a key. -/
def dropKey {κ α : Type} [BEq κ] (l : List (κ × α)) (k : κ) : List (κ × α) := l.filter fun e => !(e.1 == k)

/-- Round down to a multiple of n. -/
def alignDown (a n : Nat) : Nat := a / n * n

/-- Round up to a multiple of n. -/
def alignUp (a n : Nat) : Nat := (a + n - 1) / n * n

end Sys2Proof.Machine
end

