-- ==== Sys2Proof/Machine/Event.lean ====
section
/-!
DEFINITION. The operations and events that can stand in the package's agenda, with the operands of their rows of
spec/opcode_table.json. Each runs the meaning of the constructor of `Instr` of the same name (Machine/Agenda.lean).
-/
namespace Sys2Proof.Machine

/-- The rows of spec/opcode_table.json that are no instruction word. -/
inductive Event where
  /-- a lift becomes due for a bench (R130) -/
  | liftPass (core slot : Nat)
  /-- an idle clock of a pipe (R127) -/
  | pipeIdleClock (core pipe : Nat)
  /-- load data arrive (R106) -/
  | loadComplete (id : Nat) (reply : List SeatReply)
  /-- a store is accepted (R106) -/
  | storeAccepted (id : Nat)
  /-- the values of an atomic set return (R171) -/
  | atomicComplete (id : Nat) (reply : List SeatReply)
  /-- a held line leaves the core part (R189) -/
  | holdLineDrain (task : Word) (coreT line : Nat)
  /-- a pending arrival is applied (R115) -/
  | groupArrivalApply (id : Nat)
  /-- a pause ends (R98) -/
  | pauseWake (core slot seat : Nat)
  /-- a fence ends (R117) -/
  | fenceContinue (core slot seat : Nat)
  /-- a mailbox wait times out (R160) -/
  | mbxTimeout (core slot seat : Nat)
  /-- a core of the team is gone (R154) -/
  | goneMaskSet (task : Word) (coreT : Nat)
  /-- a copy is performed and completes (R178) -/
  | copyComplete (id : Nat)
  /-- a copy's deadline passes (R181) -/
  | promiseMissed (id : Nat)
  /-- the unit time of a matrix instruction ends (R258) -/
  | matrixUnitDone (id : Nat)
  /-- a queued tmma reaches the matrix unit (R270) -/
  | tmmaHandover (id : Nat)
  /-- a tmma completes (R271) -/
  | tmmaComplete (id : Nat)
  /-- the flag of a matrix instruction falls (R276) -/
  | matrixFlagFall (id : Nat)
  /-- the rows of an ald or ast are done (R263) -/
  | tileRowsDone (id : Nat)
  /-- a walk of the Sv57 tables (R224) -/
  | pageWalk (task : Word) (core : Nat) (va : Word) (acc : Access)
  /-- expired entries cease to be used (R229) -/
  | leaseExpire (unit : TlbUnit)
  /-- a hub returns an access past its expiry (R229) -/
  | hubReturnExpired (id : Nat)
  /-- write of SDQTAIL (R455) -/
  | sdqtailWrite (v : Word32)
  /-- the next shootdown request is taken (R231) -/
  | shootdownRequest
  /-- a structure drifts from its reference (R233) -/
  | bellSkewDetect (r : SkewReport)
  /-- a structure caches again (R233) -/
  | skewRecovery (r : SkewReport)
  /-- a transfer renews a translation (R234) -/
  | translationRenewal (id : Nat) (va : Word)
  /-- another package asks for a grant (R235) -/
  | grantRequest (m : GrantMsg) (slot : Nat) (va : Word) (acc : Access)
  /-- a remote access arrives here (R401) -/
  | remoteAccessPerform (req : RemoteReq)
  /-- a remote load's deadline passes (R395) -/
  | remoteReplyDeadline (id : Nat)
  /-- a remote store's deadline passes (R401) -/
  | remoteAckDeadline (id : Nat)
  /-- a reply or a deadline reaches a saved image (R396); an empty reply is the deadline -/
  | savedReplyApply (task : Word) (coreT benchT record : Nat) (reply : List SeatReply)
  /-- a carve change completes (R240) -/
  | carveComplete (carve : Nat)
  /-- an ECC error (R247) -/
  | softError (e : SoftErr)
  /-- a hub samples an access (R249) -/
  | hotnessSample (hub die : Nat) (flags : BitVec 16) (pa : Word) (asn : Word32)
  /-- write of a hub's HOTCTL (R251) -/
  | hotctlWrite (hub : Nat) (v : Word)
  /-- write of HOTTAIL (R251) -/
  | hottailWrite (hub : Nat) (v : Word32)
  /-- the frame of a page is copied and its new mapping installed (R248) -/
  | pageMigration (asn : Nat) (va : Word) (frame : NewFrame)
  /-- instruction caches drop a range (R358) -/
  | icacheInvalidate (due : Word) (asn : Option Nat) (va : Word) (len : Nat)
  /-- a bin's timer expires (R290) -/
  | binTimerExpire (node : Nat)
  /-- a seat has been blocked 20,000 ns in emit (R291) -/
  | emitStallTimeout (core slot seat : Nat)
  /-- a task has been 1,000,000 ns in the pool (R292) -/
  | priorityAging (task : Word)
  /-- the Dean admits a task (R296) -/
  | taskAdmit (task : Word) (die : Nat)
  /-- a staged granule lands (R151) -/
  | stagingGranuleLand (task : Word) (coreT region granule : Nat)
  /-- a loader meets a page fault (R303) -/
  | stagingPageFault (task : Word) (va : Word) (sub : Nat)
  /-- a task is dispatched (R301) -/
  | taskDispatch (task : Word)
  /-- the Dean pre-empts for a starved task (R295) -/
  | deanPreempt (task : Word)
  /-- a task retires (R305) -/
  | taskRetire (task : Word)
  /-- the storers are done (R305) -/
  | taskRetireRelease (task : Word)
  /-- abort for requeue (R307) -/
  | taskAbort (task : Word) (cause : AbortCause)
  /-- the pager answers (R307) -/
  | pagerResident (task : Word)
  /-- an implicit checkpoint (R311); `bin` when it is for a full bin -/
  | implicitCheckpoint (task : Word) (bin : Bool)
  /-- P advances after 32 idle clocks (R314) -/
  | timetableIdleAdvance (core pipe : Nat)
  /-- a team halts (R377) -/
  | teamHalt (task : Word) (why : HaltWhy)
  /-- a blocked task is parked (R327) -/
  | parkBlockedTask (task : Word)
  /-- a delivery to a parked seat (R327) -/
  | parkedDelivery (task : Word) (coreT benchT seat : Nat) (d : Delivery)
  /-- a save run opens (R366) -/
  | saveRunOpen (core slot : Nat)
  /-- a restore run opens (R366) -/
  | restoreRunOpen (core slot : Nat)
  /-- a fault run opens (R382) -/
  | faultRunOpen (core : Nat)
  /-- the reply to a fault record (R386); none is GONE -/
  | faultDisposition (task : Word) (w0 : Option Word)
  /-- a placement-parked task is tested again (R389) -/
  | featChangeRetest (task : Word)
  /-- a machine check (R398) -/
  | machineCheck (sub core : Nat) (task : Word) (aux : Word)
  /-- a reservation reaches its hub (R406) -/
  | pushReserve (req : PushReq)
  /-- a slot's payload completes (R406) -/
  | pushPublish (buf k : Nat)
  /-- a push's reply lands; none is poison of cause 0 (R407, R408) -/
  | pushReply (id : Nat) (v : Option Word)
  /-- a push's reply deadline passes (R407) -/
  | pushReplyDeadline (id : Nat)
  /-- a granted slot times out (R408) -/
  | pushSlotTimeout (buf k : Nat)
  /-- an sret is performed (R411) -/
  | sretPerform (id : Nat)
  /-- a replica arrives (R429) -/
  | markReplicaArrive (src mark path n : Nat)
  /-- a mark completes (R412) -/
  | markDone (id : Nat)
  /-- a mark times out (R412) -/
  | markTimeout (id : Nat)
  /-- a link fails (R421) -/
  | linkFail (lib : Nat)
  /-- a link is live again (R421) -/
  | linkRetrainDone (lib : Nat)
  /-- the path set to a target changes (R426) -/
  | pathSetChange (target : Nat)
  /-- a library reports (R426) -/
  | libraryReport (lib id : Nat) (r : LibReport)
  /-- a reset target refuses (R430) -/
  | remoteRefusal (id : RefusedId) (ns : Word)
  /-- a path is silent for 10 µs (R426) -/
  | pathSilenceTimeout (target lib : Nat)
  /-- a probe of a failed path (R426) -/
  | pathProbe (target lib : Nat) (answered : Bool)
  /-- 50 µs without a path (R430) -/
  | noPathTimeout (target : Nat)
  /-- 50 µs without a pool link (R431) -/
  | poolLinkTimeout (id : Nat)
  /-- a combined set reaches this target (R428) -/
  | libraryAtomCombine (reqs : List RemoteReq)
  /-- write of POOLSEG (R423) -/
  | poolsegWrite (i : Nat) (v : Word)
  /-- a segment is written back (R423) -/
  | poolsegUnmapDone (i : Nat)
  /-- the hall pass arrives (R433) -/
  | hallPassReceive (grp : Nat)
  /-- a kind-0 post is received (R436) -/
  | programPost (grp : Nat) (f : Frame)
  /-- a pass frame is received (R433) -/
  | passFrame (grp : Nat) (f : Frame)
  /-- the pass is regenerated (R437) -/
  | hallPassRegenerate (grp : Nat)
  /-- a kind-4 frame is received, or a join is asked for (R437) -/
  | membership (grp : Nat) (m : JoinMsg)
  /-- write of BGCTL (R453) -/
  | bgctlWrite (v : Word)
  /-- beacons are sent (R438) -/
  | bellBeaconSend
  /-- a beacon is received (R438) -/
  | bellBeacon (grp : Nat) (f : Frame)
  /-- the package loses its lock (R438) -/
  | bellUnlock
  /-- a revocation notice is received (R439) -/
  | revocationNotice (via : NoticeVia) (slot : Nat) (base len : Word) (num : Word32)
  /-- an acknowledgement is received (R439) -/
  | revocationAck (src : Nat) (num : Nat)
  /-- a package is fenced (R365) -/
  | revocationFence (src : Nat) (num : Nat)
  /-- the Eraser sweeps (R364) -/
  | eraserSweep
  /-- a revocation completes (R365) -/
  | revocationComplete (num : Nat)
  /-- a destruction completes (R363) -/
  | destroyComplete (type num : Nat)
  /-- Registrar operation CREATE (R350) -/
  | create (req : RegReq)
  /-- Registrar operation MINT (R350) -/
  | mint (req : RegReq)
  /-- Registrar operation DESTROY (R350) -/
  | destroy (req : RegReq)
  /-- Registrar operation REVOKE (R350) -/
  | revoke (req : RegReq)
  /-- Registrar operation MEMCAP (R350) -/
  | memcap (req : RegReq)
  /-- Registrar operation BIND (R350) -/
  | bind (req : RegReq)
  /-- Registrar operation UNBIND (R350) -/
  | unbind (req : RegReq)
  /-- Registrar operation CARVE (R350) -/
  | carve (req : RegReq)
  /-- Registrar operation CARVECAP (R350) -/
  | carvecap (req : RegReq)
  /-- Registrar operation HEAP (R350) -/
  | heap (req : RegReq)
  /-- Registrar operation INJECT (R350) -/
  | inject (req : RegReq)
  /-- Registrar operation EMITCAP (R350) -/
  | emitcap (req : RegReq)
  /-- Registrar operation EXPORT (R350) -/
  | exportSpace (req : RegReq)
  /-- Registrar operation ADMIT (R350) -/
  | admitCap (req : RegReq)
  /-- Registrar operation PREEMPT_PARK (R350) -/
  | preemptPark (req : RegReq)
  /-- Registrar operation PREEMPT_RELEASE (R350) -/
  | preemptRelease (req : RegReq)
  /-- the serving side writes DONE (R353) -/
  | ringDoneWrite (ring : Nat) (done : Word32)
  /-- the allocation service takes a request (R342) -/
  | serviceAlloc (ring : Nat)
  /-- package reset (R440) -/
  | packageReset
  /-- a CLAIM is sent or decided (R443, R444) -/
  | bootClaim (grp : Nat) (m : BootMsg)
  /-- a READY is sent or decided (R444); `leasemax` is the value of the image store (R446), and of a package that follows the boot word
  `hash` and `lib` too -/
  | bootReady (grp : Nat) (m : BootMsg) (hash : Word) (lib : Nat) (leasemax : Word)
  /-- a TIMEOUT is decided (R444) -/
  | bootTimeout (grp : Nat) (m : BootMsg)
  /-- the BOOTTMO timer expires (R446) -/
  | bootTimerExpire
  /-- bytes of the image reach the package, or the copied image is checked (R441, R446) -/
  | imageVerify (image : List Byte)
  /-- write of BOOTCTL (R447) -/
  | bootctlWrite (v : Word)
  /-- SPDM GET_VERSION to a key object's responder (R448) -/
  | getVersion (key : Nat)
  /-- SPDM GET_CAPABILITIES to a key object's responder (R448) -/
  | getCapabilities (key : Nat)
  /-- SPDM NEGOTIATE_ALGORITHMS to a key object's responder (R448) -/
  | negotiateAlgorithms (key : Nat) (ok : Bool)
  /-- SPDM GET_DIGESTS to a key object's responder (R448) -/
  | getDigests (key : Nat)
  /-- SPDM GET_CERTIFICATE to a key object's responder (R448) -/
  | getCertificate (key slot : Nat)
  /-- SPDM CHALLENGE to a key object's responder (R448) -/
  | challenge (key slot : Nat) (nonce : BitVec 256)
  /-- SPDM GET_MEASUREMENTS to a key object's responder (R448) -/
  | getMeasurements (key index : Nat)
  /-- SPDM KEY_EXCHANGE to a key object's responder (R448) -/
  | keyExchange (key : Nat) (m : KeyExchange)
  /-- SPDM FINISH to a key object's responder (R448) -/
  | finish (key session : Nat) (ok : Bool)
  /-- SPDM END_SESSION to a key object's responder (R448) -/
  | endSession (key session : Nat)
  /-- SPDM KEY_RELEASE to a key object's responder (R448) -/
  | keyRelease (key : Nat) (session : Option Nat) (m : VendorMsg)
  /-- SPDM UNSUPPORTED_REQUEST to a key object's responder (R448) -/
  | unsupportedRequest (key code : Nat)
  /-- a power or temperature limit (R451) -/
  | powerThrottle (l : PowerLimit)
  /-- access to a management register by a host kernel or the PCIe port (R452) -/
  | mgmtRegisterWrite (offset : Nat) (v : Word) (by_ : MgmtBy)
  /-- a word that is no instruction (R40) -/
  | illegalWord (word : Word32) (kind : IllegalKind)
  /-- an MSI vector arrives (R352) -/
  | pcieMsiVector (n : Nat)
  /-- a board fibre loses light (R416) -/
  | boardFibreLoss (grp : Nat)
  /-- a damaged frame arrives (R436) -/
  | frameCheckFail (grp : Nat) (f : Frame)
  /-- a checkpoint completes (R331) -/
  | checkpointComplete (task : Word)
  /-- a bsave or brest completes (R338) -/
  | imageSectionComplete (id : Nat)
  /-- a push's grant arrives (R406) -/
  | pushGrant (id : Nat) (k pos : Word)
  /-- a waiting hart takes a trap (R357) -/
  | hostTrapWithdraw (hart : Nat) (cause : Word)
  /-- a host access is performed (R217) -/
  | hostHartAccess (hart : Nat) (pa : Nat) (acc : HostAcc)
  /-- LEASEMAX has passed after a lost remote path (R388) -/
  | leasemaxRequeueWait (task : Word)
  deriving DecidableEq, Repr

end Sys2Proof.Machine
end

