-- ==== Sys2Proof/Config.lean ====
section
/-!
DEFINITION. What the spec leaves open, as constants without a body: nothing can evaluate them and a statement about the
model holds for every value of them. The fixed figures of the package (R3) stand beside them.
-/
namespace Sys2Proof

/-- The special functions of R85 whose result is only bounded. -/
inductive SpecialFn where
  | frsq | fexp2 | flog2 | fsin | fcos | ftanh
  deriving DecidableEq, Repr

namespace Config

/-! ## Figures of the package (R1, R3) -/

/-- Compute dies of a package (R1). -/
def dies : Nat := 10
/-- Compute cores of a die (R1). -/
def coresPerDie : Nat := 64
/-- Pipes of a core (R3). -/
def pipesPerCore : Nat := 32
/-- Bench slots of a core, the monitor bench apart (R3). -/
def benchSlots : Nat := 64
/-- Memory hubs (R1). -/
def hubs : Nat := 16
/-- Host harts (R1). -/
def hostHarts : Nat := 96
/-- Service cores of a hub (R1). -/
def serviceCores : Nat := 8

/-! ## Free values -/

/-- Which of the things that may happen next happens: the spec fixes no order of independent agents (R129, R193). The
argument is the count of draws. -/
opaque pick : Nat → Nat

/-- How many nanoseconds of bell time a step takes: latencies are timing (R68, R10). -/
opaque elapsed : Nat → Nat

/-- A value that the spec leaves open, by count of draws. -/
opaque freeValue : Nat → Word

/-- The binary32 result that a special function delivers within its bound (R85); the same input gives the same result on
every core. -/
opaque special : SpecialFn → BitVec 32 → BitVec 32

/-- The fixed delay of a beacon from a member of a board group, in nanoseconds, as measured at formation (R438). -/
opaque beaconDelay : Nat → Nat → Nat

/-- Does a package that is asked by ADMIT report a quarantine of the bounds (R361)? Its state lies outside the model; by count
of draws. -/
opaque peerQuarantines : Nat → Bool

/-- The libraries to which links train at domain boot, each with its fibre pairs (R421). -/
opaque linkPairs : List (Nat × Nat)
/-- The heap window that the Registrar gives the address space with an object number (R221): HBASE, the logarithm of HSPAN, and the
HBM offset of its backing. -/
opaque heap : Nat → Word × Nat × Nat
/-- The free runs, base and length, that the allocation pool of the address space with an object number has at first (R341). -/
opaque allocPool : Nat → List (Nat × Nat)
/-- The address space, if any, whose allocation service is reached through the service ring with an object number (R341). -/
opaque ringSpace : Nat → Option Nat

/-- The packages of the domain with the libraries that reach each (R424), as domain boot fixes them. -/
opaque pathLibs : List (Nat × List Nat)

/-- The board groups of the package as formed at domain boot (R432): index, group number, member packages in member order, own
member number. -/
opaque boardGroups : List (Nat × Nat × List Nat × Nat)

/-- The other packages of the domain with CAND = 1 (R443). -/
opaque candidates : List Nat
/-- Did the boot ROM train every die-to-die link and HBM4E stack (R440, R454)? -/
opaque romTrained : Bool

/-- SHA-384 of a string of bytes (R441). -/
opaque sha384 : List (BitVec 8) → List (BitVec 8)

/-- The certificate chain of slot 0 of every key object's responder (R448). -/
opaque certChain : List (BitVec 8)

/-- The digest of the boot ROM (R449). -/
opaque romDigest : List (BitVec 8)

/-- SHA-384 of the Parolcor key, as fused (R441, R449). -/
opaque keyHash : List (BitVec 8)

/-- What the responder's GET_CAPABILITIES response carries (R448, DSP0274). -/
opaque spdmCapabilities : List (BitVec 8)

/-- What the responder's NEGOTIATE_ALGORITHMS response carries: the algorithms of R448 in the layout of DSP0274. -/
opaque spdmAlgorithms : List (BitVec 8)

/-- The responder's own ECDHE P-384 value in its k-th key exchange (R448): it is drawn anew each time. -/
opaque ecdhe : Nat → List (BitVec 8)

/-- The Vendor ID that the package's PCIe function reports in its configuration header (R450). -/
opaque vendorId : BitVec 16

/-- The signature of the device key over bytes (R448). -/
opaque deviceSign : List (BitVec 8) → List (BitVec 8)

/-- Does a signature (second) over bytes (first) verify under ECDSA P-384 with the fused Parolcor key (R441)? -/
opaque signatureOk : List (BitVec 8) → List (BitVec 8) → Bool

/-- The monitor code that an image brings (R366, R447): the spec does not lay out the payload. -/
opaque monitorBytes : List (BitVec 8) → List (BitVec 8)

/-- Where bring-up places the monitor code (R366, R447): the spec gives no address. -/
opaque monitorBase : Word

/-- BOOTCFG as fused (R453): the spec gives no value. -/
opaque bootcfg : Word

/-- SVNMIN as fused (R453). -/
opaque svnmin : Word

end Config
end Sys2Proof
end

