-- ==== Sys2Proof/Machine/Parts.lean ====
section
/-!
DEFINITION. The parts of the state that belong to a compute core and its benches: rows, seats, flags, scratchpad,
tiles, mailboxes, groups, held lines, instructions in flight, the monitor bench's registers. Plain data.
-/
namespace Sys2Proof.Machine

/-! ## Memory -/

/-- Storage with tags and poison per 16-byte granule (R104, R107, R145, R246). `cells` lists the bytes that are not
0, by rising address; `tags` and `poison` list granule numbers (address / 16), rising. `views` lists lines of encrypted memory (R244) by
rising number, each with the key identifiers under which its bytes stand in `cells`, the one under which it was last written first; a line
that is not listed stands under identifier 0 alone. -/
structure Mem where
  cells : List Host.Cell
  tags : List Nat
  poison : List Nat
  views : List (Nat × List Nat)
  deriving DecidableEq, Repr

/-- A line of the task's L2 hold (R189), kept under its virtual address (R216, R226): which of its 64 bytes are held,
their values, and for each of its four granules the held tag and the held poison bit, if the task's stores decided
them. `last` is the bell of the store that last wrote it. -/
structure HoldLine where
  line : Nat
  mask : BitVec 64
  data : BitVec 512
  tags : List (Option Bool)
  poison : List (Option Bool)
  last : Word
  deriving DecidableEq, Repr

/-! ## Registers -/

/-- A row (R135): the register it belongs to, its live mask, its poison mask, the 2-bit causes by seat, and one element
for each seat. -/
structure Row (α : Type) where
  reg : Nat
  live : SeatMask
  poison : SeatMask
  cause : BitVec 64
  elems : List α
  deriving DecidableEq, Repr

/-- A uniform register (R6, R139): its value, and the cause that poisons it as a whole. -/
structure SReg where
  val : Word
  poison : Option Nat
  deriving DecidableEq, Repr

/-- The fault that a woken seat takes when its instruction is issued again (R158, R160, R325, R416). -/
structure WakeFault where
  code : Nat
  sub : Nat
  aux : Nat
  deriving DecidableEq, Repr

/-- What a seat is blocked in (R129). -/
inductive Wait where
  /-- `pause` until a bell time (R98) -/
  | pause (until_ : Word)
  /-- `waitb` or `bar` on the open phase of a group (R114) -/
  | phase (g : Nat)
  /-- `fence` (R117): its scope code and its order code -/
  | fence (scope : Scope) (order : FenceOrd)
  /-- `mbr` on an empty mailbox: the mailbox, D, and the timeout left (R156, R160) -/
  | mbr (m : Nat) (d : DReg) (left : Nat)
  /-- `mbw` on a full mailbox: the mailbox, the word, and the timeout left -/
  | mbw (m : Nat) (w : Word) (left : Nat)
  /-- `send` queued at an endpoint (R323) -/
  | send (ep : Nat)
  /-- `recv` queued at an endpoint or a notification: type, number, the quad, cB, and LDC of the capability (R321) -/
  | recv (type num : Nat) (q : DReg) (cb : CReg) (ldc : Bool) (badge : Word)
  /-- `xcall`: queued, or its message taken and a reply awaited -/
  | xcall (ep : Nat) (taken : Bool) (q : DReg) (cb : CReg) (stc ldc low : Bool)
  /-- `sysc`: waiting for an entry of a ring, or for the reply to request TAG; `low` in both marks the lowest seat of the
  pass, whose reply an s register takes (R7) -/
  | sysc (ring : Nat) (placed : Bool) (tag : Word) (q : DReg) (cb : CReg) (stc ldc low : Bool)
  /-- `emit` on a full bin (R288): the edge, the record's window address, since when, and the pass that issued it (R289) -/
  | emit (graph edge : Nat) (addr : Word) (since : Word) (pass : Nat)
  /-- `bpost`: waiting for its transmission and its own receipt (R414): the board group index and the quad -/
  | bpost (k : Nat) (q : DReg)
  /-- `bwait` on a group: the quad and the post number awaited (R413) -/
  | bwait (k : Nat) (q : DReg) (num : Word)
  /-- a seat that has issued `ckpt` and waits for the checkpoint (R331) -/
  | ckpt
  /-- `mark`, `push` and `sret` do not block; a wait of the monitor bench for a `bsave` is a flag wait -/
  | none
  deriving DecidableEq, Repr

/-- The state of a thread (R129). -/
inductive SeatState where
  | eligible
  | blocked (w : Wait)
  | exited
  deriving DecidableEq, Repr

/-- A thread named within its task, whatever its placement: team core, task bench, seat (R123). -/
structure Thread where
  coreT : Nat
  benchT : Nat
  seat : Nat
  deriving DecidableEq, Repr

/-- A reply right (R323): the caller that waits, and whether the capability that opened the exchange carries STC
(R321). -/
structure ReplyRight where
  caller : Party
  stc : Bool
  deriving DecidableEq, Repr

/-- One seat of a bench (R4, R130, R180, R323): PC; recorded header, its word and the count of instructions issued
since it; whether the next instruction must be a header (R35), and how the seat came there; state; skip count; open
batch number; reply right; the fault due at its next issue; the v
registers whose last read the instruction of a blocked seat makes when it retires (R137). -/
structure Seat where
  pc : Word
  hdr : Word
  hdrWord : Word32
  idx : Nat
  must : Nat
  state : SeatState
  skip : Nat
  batch : Word32
  right : Option ReplyRight
  wake : Option WakeFault
  due : List Nat
  deriving DecidableEq, Repr

/-- A promised copy's miss that waits for delivery (R181). -/
structure Miss where
  seat : Nat
  batch : Word32
  deadline : Word
  deriving DecidableEq, Repr

/-- Whether a bench takes passes (R376, R382); `placed` is a bench whose image has still to be installed (R366). -/
inductive BenchMode where
  | running | faulted | halted | placed
  deriving DecidableEq, Repr

/-- A bench (R122, R134). The monitor bench is one too (R366, R380). `nfree` is the seats whose clause no longer holds its
pipe by N since they issued `yield` (R97); `timers` tells whether the mailbox timeouts of its seats run (R160): they stand
still from a halt to the bench's first pass after it. -/
structure Bench where
  task : Word
  benchT : Nat
  mode : BenchMode
  rowBudget : Nat
  capBudget : Nat
  vrows : List (Row Word)
  crows : List (Row Cap)
  sregs : List SReg
  preds : List (List (BitVec 8))
  flags : List Nat
  seed : Word
  stepCount : Word
  code : Cap
  seats : List Seat
  lifted : SeatMask
  nfree : SeatMask
  opCache : List Nat
  misses : List Miss
  hlimit : Word
  timers : Bool
  deriving DecidableEq, Repr

/-! ## Groups and mailboxes -/

/-- A group of a team (R113): members, those marked as arrived in the open phase, those whose arrival is applied, copies
registered to the phase and those of them that have arrived, and the phase number. -/
structure Group where
  members : List Thread
  marked : List Thread
  applied : List Thread
  copies : Nat
  copyArrived : Nat
  phase : Word32
  deriving DecidableEq, Repr

/-- A mailbox (R155). A queued writer's word stands in its seat's wait. -/
structure Mailbox where
  value : Word
  full : Bool
  bound : Bool
  group : Nat
  armed : Bool
  abandoned : Bool
  readers : List (Nat × Nat)
  writers : List (Nat × Nat)
  deriving DecidableEq, Repr

/-! ## Instructions in flight -/

/-- The value of one seat of a pending data register: the seat, the value, the poison cause. -/
abbrev SeatVal := Nat × Word × Option Nat
/-- The value of one seat of a pending capability register. -/
abbrev SeatCap := Nat × Cap × Option Nat

/-- An access of one seat that is made later than its issue, to a granule still being staged (R151), or by a free choice (R193): the
seat, the address, the size, for a store its value, tag and poison; `extra` is the compare value of an atomic, and the poisoned
elements of a row of an `ast`, one bit for each. Of an atomic, `batch` is its seat's open batch at its issue (R208), and `pas` and
`leases` are its translation, as `LateRead` has it. -/
structure WinItem where
  seat : Nat
  addr : Word
  size : Nat
  value : Nat
  tag : Bool
  poison : Bool
  extra : Nat
  batch : Word32
  pas : List Nat
  leases : List (List Word)
  deriving DecidableEq, Repr

/-- Where an `atom` is performed (R170, R190): the core part, the die part, or the location itself. -/
inductive AtomAt where
  | core | die | loc
  deriving DecidableEq, Repr

/-- A copy in the core's queue (R174 to R183): the kind, the element size, the descriptor, both capabilities, and the
issue's batch, group and deadline. `stage` tells how far it has been performed: 0 not begun, 1 waiting for elements of
another package, 2 waiting for acknowledgements; `req0` is the first request number, `got` the elements that have arrived
(by element number), `want` how many are awaited; `idx` is the index list with its poison, read once when the copy begins. -/
structure CopyCmd where
  kind : Nat
  size : Nat
  q0 : Word
  q1 : Word
  q2 : Word
  q3 : Word
  src : Cap
  dst : Cap
  arr : Bool
  batch : Word32
  deadline : Option Word
  stage : Nat
  req0 : Nat
  want : Nat
  got : List SeatReply
  idx : List (Nat × Bool)
  deriving DecidableEq, Repr

/-- A `tmma` command (R267, R392). -/
structure TmmaCmd where
  q0 : Word
  q1 : Word
  q2 : Word
  q3 : Word
  origin : Word
  cap : Cap
  tile : Nat
  started : Bool
  nextChunk : Nat
  order : Nat
  deriving DecidableEq, Repr

/-- A replica of a mark that is not known to have arrived (R429): its path index, the library last sent on, whether it must be sent
again, and when it was sent (R426). -/
structure Replica where
  path : Nat
  lib : Nat
  again : Bool
  sent : Word
  deriving DecidableEq, Repr

/-- What an instruction in flight still has to do. -/
inductive FlightKind where
  /-- values read at issue that wait to be written (R106, R171, R318): data registers and capability registers, and whether
  an atomic returns them -/
  | load (data : List (DReg × List SeatVal)) (caps : List (CReg × List SeatCap)) (atomic : Bool)
  /-- loads that touch granules not yet landed (R151): D, D + 1 for a pair, cd for a capability -/
  | stagedLoad (d : Option DReg) (cd : Option CReg) (items : List WinItem)
  /-- stores accepted later (R106); the bytes entered the hold or the bank at issue -/
  | store
  /-- stores made later: one of the pass touches granules not yet landed (R151), or they are performed after their issue (R193) -/
  | stagedStore (items : List WinItem)
  /-- atomics made later, as stores are, or once what their release covers has completed (R170, R208): the place, the operation, its
  width, the order, and whether the scope is team or wider -/
  | stagedAtom (at_ : AtomAt) (op : AtomOp) (w32 : Bool) (ord : MemOrd) (wide : Bool) (items : List WinItem)
  /-- rows of an `ald` (`load`) or an `ast` on granules not yet landed (R151, R263): the format and the tile -/
  | stagedRows (load : Bool) (fmt : TileFmt) (tile : Nat) (items : List WinItem)
  /-- a remote load, `ldc` or atomic (R395, R400): the first request number, the bytes of the access, the seats whose
  capability carries LDC, and whether it is an acquire (R170) -/
  | remoteLoad (req : Nat) (bytes : Nat) (ldc : SeatMask) (acq : Bool)
  /-- a remote store that waits for its acknowledgement (R401) -/
  | remoteStore (req : Nat) (pkg : Nat)
  /-- an arrival applied once the seat's earlier accesses have completed (R115), or the departure of a seat that has
  exited (R96, R194), with the seat's open batch at its issue (R208) -/
  | arrival (t : Thread) (g : Nat) (leaves : Bool) (batch : Word32)
  /-- a copy (R178) -/
  | copy (c : CopyCmd)
  /-- a matrix instruction: 0 operands being read, 1 unit time over (R258, R276) -/
  | matrix (unitDone : Bool)
  /-- rows of an `ald` or `ast` (R263) -/
  | tileRows
  /-- a `tmma` in the copy queue or in the matrix unit (R270, R271) -/
  | tmma (c : TmmaCmd)
  /-- a `bsave` or `brest` of the monitor bench (R338): restore, section, address -/
  | image (restore : Bool) (sec : Nat) (c : Cap)
  /-- a `push` (R405): the request number, the target, the reply register, the slot once it is granted, the source (null once the
  payload has been read) and the slot buffer, the length -/
  | push (req : Nat) (pkg : Nat) (d : DReg) (slot : Option Word) (src dst : Cap) (len : Nat)
  /-- an `sret` (R410): the slot buffer, the count, whether the request to another package has been sent, and the seat's open
  batch at its issue (R208) -/
  | sret (c : Cap) (n : Word) (sent : Bool) (batch : Word32)
  /-- a `mark` (R412, R429): the mark's number, the target, the count of replicas (0 before a path was there), and the
  replicas not known to have arrived; and each seat with its open batch at its issue (R208) -/
  | mark (num pkg n : Nat) (paths : List Replica) (batches : List (Nat × Word32))
  /-- a `notify` that waits for its seat's earlier accesses (R208): the notification, the word, the seat's open batch at its issue -/
  | notify (num : Nat) (bits : Word) (batch : Word32)
  /-- a `reply` that waits for them, with the right that it has taken (R208, R323) -/
  | reply (r : ReplyRight) (m : Message) (batch : Word32)
  deriving DecidableEq, Repr

/-- What a load in flight reads for a seat, while the read may still be performed at any time (R190, R193): the address, the places
of its bytes outside the window, the size, and whether the capability carries LDC; and, for the pages of its first and its last byte,
the expiries of the entries that may have served it (R229). -/
structure LateRead where
  seat : Nat
  addr : Nat
  pas : List Nat
  size : Nat
  ldc : Bool
  leases : List (List Word)
  deriving DecidableEq, Repr

/-- An instruction in flight (R31, R132): its number, the bench that issued it, the flag it holds busy, the seats for
which it has not completed, its pending destinations, and those of them whose register was unmapped meanwhile (R137),
each with the number of the first instruction pending to that row: the two name the row.
`mate` is the number that the flights of one pass share: the flag falls with the last of them. `late` are the reads of a load whose
value is the one at its issue unless they are performed later (R193). -/
structure Flight where
  id : Nat
  mate : Nat
  core : Nat
  slot : Nat
  task : Word
  flag : Option Nat
  seats : SeatMask
  vdests : List DReg
  cdests : List CReg
  vlost : List (DReg × Nat)
  clost : List (CReg × Nat)
  kind : FlightKind
  deadline : Word
  late : List LateRead
  deriving DecidableEq, Repr

/-! ## The monitor bench -/

/-- The handler registers of a core (R335). -/
structure TRegs where
  tbench : BitVec 7
  tcause : BitVec 16
  tifa : Word
  taddr : Word
  tmask : Word32
  tresume : Word
  tindex : BitVec 5
  tctx : Word
  deriving DecidableEq, Repr

/-- A fault of a pass (R382, R383, R387): the bench, code and sub-code, IFA, the data address, the mask, the lowest
seat, the resume point, whether it lies past the instruction, AUX and its tag, and the bell. -/
structure FaultInfo where
  slot : Nat
  code : Nat
  sub : Nat
  ifa : Word
  addr : Word
  mask : SeatMask
  seat : Nat
  resume : Word
  index : Nat
  past : Bool
  aux : BitVec 128
  auxTag : Bool
  bell : Word
  deriving DecidableEq, Repr

/-- Kinds of run of the monitor bench (R366, R380). -/
inductive RunKind where
  | fault | save | restore | machineCheck
  deriving DecidableEq, Repr

/-- The open run of a core's monitor bench (R380): its kind, and the fault that opened a fault run. -/
structure Run where
  kind : RunKind
  fault : Option FaultInfo
  deriving DecidableEq, Repr

/-! ## Cores -/

/-- An accumulator tile (R252): 1,024 elements of 48 bits by 32 i + j, their poison bits, and the sticky saturation
flag (R253). -/
structure Tile where
  elems : List (BitVec 48)
  poison : List Nat
  sat : Bool
  deriving DecidableEq, Repr

/-- An entry of a translation structure (R223, R227): address space, page base and level, the leaf word, the frame, the
expiry, and whether it came from another package's grant. -/
structure TlbEntry where
  asn : Nat
  base : Nat
  size : Nat
  frame : Nat
  flags : Nat
  expiry : Word
  deriving DecidableEq, Repr

/-- A line of an instruction cache (R39, R358): the address space and virtual line it was fetched by, its physical
address, its 128 bytes. -/
structure ILine where
  asn : Nat
  va : Nat
  pa : Nat
  bytes : List Byte
  deriving DecidableEq, Repr

/-- A compute core (R1, R6): its benches by slot (64 is the monitor bench), scratchpad, tiles and the task that holds
them, instruction cache lines, timetable words and pointers, which bench each pipe last served, the pipes whose
bench has just yielded, the clocks each has idled, the monitor's registers and queue, its feature bits, translation cache, sequence counters. -/
structure Core where
  benches : List (Nat × Bench)
  spad : Mem
  tiles : List (Nat × Tile)
  accTask : Option Word
  icache : List ILine
  tt : List Word
  ttPos : List (Nat × Nat)
  ttIdle : List (Nat × Nat)
  pipeCur : List (Nat × Nat)
  pipeYield : List Nat
  tregs : TRegs
  run : Option Run
  faultQ : List FaultInfo
  saveQ : List Nat
  restoreQ : List Nat
  feat : Word
  seqFault : Word32
  seqRing : List (Nat × Word32)
  tlb : List TlbEntry
  skewed : Bool
  outOfService : Bool
  deriving DecidableEq, Repr

/-! ## What a task holds on a core of its team -/

/-- A region still being staged on a core (R151, R304): the region and the allocation granules that have not landed. -/
structure StageEntry where
  region : Nat
  waiting : List Nat
  deriving DecidableEq, Repr

/-- A task on one core of its team (R147, R152, R154, R155, R189, R304): the physical core, the allocation base, the
core's own team map, the gone mask, the mailboxes, the core part of the hold, the region scoreboard. -/
structure TaskCore where
  phys : Nat
  base : Nat
  map : List (Nat × Nat)
  gone : BitVec 64
  mail : List Mailbox
  hold : List HoldLine
  staging : List StageEntry
  deriving DecidableEq, Repr

end Sys2Proof.Machine
end

