-- ==== Sys2Proof/Machine/Kernel.lean ====
section
/-!
DEFINITION. The parts of the state that the Dean and the Registrars hold: tasks, graphs, nodes, bins, kernel objects,
host harts and service cores. Plain data.
-/
namespace Sys2Proof.Machine

/-! ## Tasks -/

/-- A record of a bin (R288): its bytes and its poisoned granules. -/
structure BinRec where
  bytes : List Byte
  poison : List Nat
  deriving DecidableEq, Repr

/-- A record held with a task's stores (R288), with the target graph and node, and the pass and the seat that emitted it (R289). -/
structure HeldRec where
  graph : Nat
  node : Nat
  data : BinRec
  pass : Nat
  seat : Nat
  deriving DecidableEq, Repr

/-- What keeps a task out of the ready pool (R292, R303, R327, R378, R386, R388, R389). -/
inductive ParkCond where
  | page | owner | blocked | records | placement
  | leasemax (until_ : Word)
  deriving DecidableEq, Repr

/-- Where a task stands on its road (R290 to R305). -/
inductive TaskPhase where
  /-- launched or returned: in the ready pool unless a condition parks it (R292) -/
  | pool
  /-- admitted: cleared and staged from the given bell on (R298) -/
  | staging (since : Word)
  | running
  /-- placed again, its benches being restored (R366) -/
  | restoring
  /-- its benches are halted for a request (R376) -/
  | halted (why : HaltWhy)
  /-- every thread has exited; the storers are at work (R305) -/
  | storing
  deriving DecidableEq, Repr

/-- A fault record not yet answered (R383 to R386). `source` is the identifier of the party that made it (R13, R354). `coreT` is the team
core by placement, whose image the record concerns, and `named` the CORE_T that the record shows (R339); `moved` tells whether the
handler has rewritten TRESUME or TINDEX (R387). -/
structure FaultRec where
  seq : Word32
  code : Nat
  sub : Nat
  seat : Nat
  benchT : Nat
  coreT : Nat
  mask : SeatMask
  ifa : Word
  addr : Word
  resume : Word
  index : Nat
  past : Bool
  aux : BitVec 128
  auxTag : Bool
  bell : Word
  requeues : Nat
  sent : Bool
  answer : Option Nat
  source : Nat
  named : Nat
  moved : Bool
  deriving DecidableEq, Repr

/-- What the Dean keeps of one team core of a saved or checkpointed task beside its bench images (R149, R304, R309,
R392): the allocation contents and the regions still being staged. -/
structure SavedCore where
  alloc : Mem
  stage : List StageEntry
  deriving DecidableEq, Repr

/-- A checkpoint (R309, R331): the half of CKPTAREA that holds it, and what it captured: allocations and staging, the
bench images, the loads and stores held by R151 and the pending arrivals. -/
structure Ckpt where
  half : Nat
  cores : List SavedCore
  images : Mem
  flights : List (Thread × Flight)
  deriving DecidableEq, Repr

/-- A task (R4): identity and graph (R100, R290); its place in the ready pool (R292); its records (R287); phase and
parking conditions; placement and what it holds on each core; groups (R113); the die part of its hold (R189) and its
held records (R288); aborts since the last checkpoint (R308); restart point (R309); the save space (R390); records
outstanding (R385); and, while it is saved, the waits, reply rights
due faults and missed promises (R181) of its seats, which are kept at their objects (R325, R327, R373), the loads and
stores held by R151 (R392), and the seats that must reach a header next (R35), with their PC and how they came there; and since when no die could take it (R295). `fromCkpt`: it restarts
from its checkpoint. -/
structure Task where
  id : Word
  graph : Nat
  node : Nat
  readySeq : Nat
  since : Word
  poolTime : Word
  launched : Word
  records : List BinRec
  phase : TaskPhase
  conds : List ParkCond
  preempted : Bool
  saved : Bool
  die : Nat
  cores : List TaskCore
  groups : List (Nat × Group)
  dieHold : List HoldLine
  heldRecs : List HeldRec
  reserved : List (Nat × Nat)
  requeues : Nat
  restart : Option Ckpt
  savedCores : List SavedCore
  saveBase : Word
  faults : List FaultRec
  haltQ : List HaltWhy
  ckptSeats : List Thread
  blockedSince : Word
  dispatchSeq : Nat
  savedWaits : List (Thread × Wait)
  savedRights : List (Thread × ReplyRight)
  savedWakes : List (Thread × WakeFault)
  savedFlights : List (Thread × Flight)
  savedMisses : List (Thread × Miss)
  savedForms : List (Thread × Word × Nat)
  noDie : Option Word
  fromCkpt : Bool
  deriving DecidableEq, Repr

/-! ## Kernel objects -/

/-- A party queued as a sender at an endpoint (R323): the message as it will be received, its badge, whether it is an
`xcall`, and STC of the capability used (R321). -/
structure EpSender where
  who : Party
  msg : Message
  badge : Word
  xcall : Bool
  stc : Bool
  deriving DecidableEq, Repr

/-- A party queued as a receiver (R323), and LDC of the capability used (R321). -/
structure EpReceiver where
  who : Party
  ldc : Bool
  deriving DecidableEq, Repr

/-- A seat waiting for an entry of a ring or for its reply (R328, R329): the party, the request number once placed, its
message, STC and LDC of the ring capability. -/
structure RingWaiter where
  who : Party
  tag : Option Word
  msg : Message
  stc : Bool
  ldc : Bool
  bell : Word
  core : Nat
  deriving DecidableEq, Repr

/-- A declared region of a node (R284). -/
structure RegionDesc where
  k : Nat
  offA : Int
  offB : Int
  offC : Int
  offD : Nat
  stride : Int
  rows : Nat
  rowBytes : Nat
  arg : Nat
  warm : Bool
  mode : Nat
  spad : Nat
  deriving DecidableEq, Repr

/-- A bin (R288, R290): reserved places, delivered records in delivery order, and the bell at which the timer expires. -/
structure Bin where
  reserved : Nat
  delivered : List BinRec
  timer : Option Word
  deriving DecidableEq, Repr

/-- A node object (R283, R285, R352). -/
structure NodeObj where
  seed : Word
  spadLog : Nat
  acc : Bool
  recIn : Bool
  argN : Nat
  prio : Nat
  recSize : Nat
  count : Nat
  timer : Nat
  binCap : Nat
  weight : Nat
  holdLog : Nat
  lead : Nat
  ckptArea : Cap
  args : List Cap
  code : Nat
  index : Nat
  entry : Nat
  team : Nat
  benches : Nat
  rows : Nat
  capRows : Nat
  regions : List RegionDesc
  ckptSz : Nat
  deriving DecidableEq, Repr

/-- A graph object (R281, R282). `parking` is a PARK whose reply waits for the last of its tasks to be saved (R378), with
those tasks. -/
structure GraphObj where
  policy : Nat
  nodes : List Nat
  edges : List (Nat × Nat × Bool)
  errep : Cap
  doneep : Cap
  sched : Nat
  place : List Word
  bins : List (Nat × Bin)
  parking : Option (RegReq × List Word)
  deriving DecidableEq, Repr

/-- An address space object (R221, R223, R352): the heap triple with HSPAN belongs to it. -/
structure ASpace where
  root : Word
  asn : Nat
  kid : Nat
  pager : Cap
  faultep : Cap
  revn : Cap
  hbase : Word
  hspan : Word
  hlimit : Word
  hoff : Word
  exportSlot : Option Nat
  deriving DecidableEq, Repr

/-- A code object (R52, R352): its feature mask, the address and size of .text, its address space, its node table. -/
structure CodeObj where
  image : Cap
  aspace : Nat
  feat : Word
  text : Word
  size : Word
  nodes : List (List Byte)
  deriving DecidableEq, Repr

/-- A key object (R448 to R450): its KID; whether it is LOADED and with which two keys; how far its responder has been
negotiated, its session and whether FINISH has completed it; the running hash of measurement 5. -/
structure KeyObj where
  kid : Nat
  released : Bool
  keys : List Byte
  negotiated : Nat
  session : Option Nat
  finished : Bool
  codeHash : List Byte
  deriving DecidableEq, Repr

/-- The data of an object by type (R347, R352). -/
inductive ObjData where
  | untyped (base : Nat) (size : Nat)
  | frame (pa : Nat) (size : Nat) (compressed : Bool)
  | aspace (a : ASpace)
  | endpoint (senders : List EpSender) (receivers : List EpReceiver)
  | notification (word : Word) (receivers : List EpReceiver)
  | sched (mask : Word) (strict : Bool) (mbxtmo : Nat) (bound : List (Nat × Nat))
  | irq (source bit notif : Nat)
  | graph (g : GraphObj)
  | node (n : NodeObj)
  | carve (hub w0 n : Nat) (notif : Nat) (live : List Nat) (pending : Option Nat)
  | key (k : KeyObj)
  | ring (hub log : Nat) (base : Nat) (bellN : Nat) (waiters : List RingWaiter) (delivered : Word32)
  | emit (graph edge : Nat)
  | code (c : CodeObj)
  | sealer
  deriving DecidableEq, Repr

/-- An object's record (R348): seal type, object number, the untyped it was created from and the address of its
64-byte record there, whether it is quarantined (R363), and whether an asynchronous operation is pending (R351). -/
structure Obj where
  type : Nat
  num : Nat
  parent : Nat
  record : Nat
  dead : Bool
  busy : Bool
  data : ObjData
  deriving DecidableEq, Repr

/-! ## Revocation -/

/-- A revocation in progress (R362 to R365): its number, address space object, region, export packages not yet swept,
whether its sweep has ended, and the bell by which a package that has not acknowledged is fenced; the package of a notice
(R439); for a destruction (R363), the object's type and number and the address space whose REVN it sets, with no region. -/
structure Revocation where
  num : Nat
  aspace : Nat
  base : Word
  len : Nat
  joined : Bool
  swept : Bool
  waitFor : List Nat
  deadline : Word
  origin : Option Nat
  target : Option (Nat × Nat)
  deriving DecidableEq, Repr

/-! ## Host harts and service cores -/

/-- Privilege modes of a hart (R1, R356): the H extension adds the two virtual ones. -/
inductive HartMode where
  | user | supervisor | machine | virtualUser | virtualSupervisor
  deriving DecidableEq, Repr

/-- What a hart waits in (R357). -/
inductive HartWait where
  | none
  | send (ep : Nat)
  | recv (type num : Nat) (cb : Nat) (ldc : Bool) (badge : Word)
  | xcall (ep : Nat) (taken : Bool) (cb : Nat) (stc ldc : Bool)
  deriving DecidableEq, Repr

/-- A store of a hart that has not been performed (R217): total store order lets a hart's later loads go before it. `super` tells
whether it was made in S-mode or HS-mode (R452). -/
structure HartStore where
  pa : Nat
  bytes : Nat
  value : Word
  super : Bool
  deriving DecidableEq, Repr

/-- A host hart or a service core (R355): the part that the capability instructions read and write. `x` lists x0–x31,
`hc` hc0–hc15. The CSRs are those of the RISC-V privileged architecture that the spec names (satp, stval, xepc) with
the trap causes, vectors and previous modes, and with the H extension those of translation in the virtual modes. `stores` are
the stores not yet performed, oldest first (R217). -/
structure Hart where
  x : List Word
  hc : List Cap
  pc : Word
  mode : HartMode
  satp : Word
  stval : Word
  sepc : Word
  scause : Word
  stvec : Word
  spp : Bool
  mtval : Word
  mepc : Word
  mcause : Word
  mtvec : Word
  mpp : HartMode
  wait : HartWait
  right : Option ReplyRight
  released : Bool
  stores : List HartStore
  vsatp : Word
  hgatp : Word
  spv : Bool
  deriving DecidableEq, Repr

/-- A logged event (R13): the log, its kind, the sequence number, the bell stamp and a datum. -/
inductive LogKind where
  | leaseSkew | poisoning | corrected | machineCheck | linkDown | linkUp | bellUnlock | other (n : Nat)
  deriving DecidableEq, Repr

structure LogEntry where
  kind : LogKind
  seq : Word32
  bell : Word
  data : Word
  deriving DecidableEq, Repr

end Sys2Proof.Machine
end

