-- ==== Sys2Proof/Machine/Net.lean ====
section
/-!
DEFINITION. The parts of the state that belong to the package as a whole: memory hubs, fabric, board, bring-up,
attestation and management space. Plain data.
-/
namespace Sys2Proof.Machine

/-! ## Hubs -/

/-- A hub's sampling control and hotness ring (R249 to R251): `count` is the accesses it has served since its last sample. The
records themselves lie in memory. -/
structure HotCtl where
  en : Bool
  period : Nat
  head : Word32
  tail : Word32
  dropped : Word32
  full : Bool
  seq : Word32
  count : Nat
  deriving DecidableEq, Repr

/-- An entry of a die's walk cache (R223, R227): the table of the next level that a non-leaf entry names, and its lease class. -/
structure WalkEntry where
  asn : Nat
  cls : Nat
  level : Nat
  prefixV : Nat
  table : Nat
  expiry : Word
  deriving DecidableEq, Repr

/-! ## Fabric -/

/-- A link to a library (R421): its fibre pairs; live, or failed and retraining. -/
structure Link where
  lib : Nat
  pairs : Nat
  live : Bool
  deriving DecidableEq, Repr

/-- The path set to a target (R424, R426, R430): the libraries that reach it, in ascending order; those whose path has
failed; since when it has no path; until when the target refuses requests after a reset. `live` is the set of libraries in use
as it was last seen, `epoch` counts its changes, and `olds` holds the earlier sets under which accesses may still travel, each with
its count (R213, R426). `probed` is when each failed path failed or was last probed (R426). -/
structure PathSet where
  target : Nat
  libs : List Nat
  failed : List Nat
  noneSince : Option Word
  refusing : Option Word
  live : List Nat
  epoch : Nat
  olds : List (Nat × List Nat)
  probed : List (Nat × Word)
  deriving DecidableEq, Repr

/-- A request sent, or waiting to be sent, to another package (R401, R425, R426): its number, the flight it belongs to,
its seats, the target, the line, the library it was sent on (none while it is held), what it asks, and whether the library
has reported it DELIVERED (R426); the count of the path set when it was sent, the die that issued it, the grants given for it alone,
the library on which a grant has been asked for and when, while none has come (R235), and when the request was last sent
(R426). `after`: a release names its seats with their open batches at its issue; it goes out
once what it covers has completed (R208). -/
structure RemoteOut where
  req : Nat
  flight : Nat
  seats : SeatMask
  target : Nat
  line : Nat
  lib : Option Nat
  body : RemoteReq
  sure : Bool
  epoch : Nat
  die : Nat
  own : List Grant
  asked : Option (Nat × Word)
  sent : Option Word
  after : List (Nat × Word32)
  deriving DecidableEq, Repr

/-- The remote address of a request (R359, R400). -/
def RemoteOut.addr (o : RemoteOut) : Word := BitVec.ofNat 64 (o.target * 2 ^ 53 + o.body.slot * 2 ^ 45 + o.body.va.toNat)

/-- What the hub loaders and storers have asked another package for (R278, R299, R305, R400): a granule of a region behind REMOTE to be read,
or bytes of such a row to be written, from the allocation's granule at an address; `sent` falls while a write waits for its page. -/
structure StageReq where
  id : Nat
  task : Word
  coreT : Nat
  region : Nat
  granule : Nat
  va : Word
  body : RemoteReq
  sent : Bool
  store : Bool
  deriving DecidableEq, Repr

/-- A reservation or a slot of a slot buffer held at this package's hub (R406, R408): position number, address, length,
the granules not yet written, and the bell at which the hub completes it itself. -/
structure PushSlot where
  k : Nat
  va : Word
  len : Nat
  missing : List Nat
  complete : Bool
  deadline : Word
  src : Nat
  reqId : Nat
  quarantined : Bool
  deriving DecidableEq, Repr

/-- The hub's state of one slot buffer (R404, R406): its export slot and header address, the queued reservations, the
granted slots. -/
structure PushBuf where
  slot : Nat
  va : Word
  queue : List PushReq
  slots : List PushSlot
  deriving DecidableEq, Repr

/-- A mark being gathered here (R429): the issuing package, its number, the count of paths, the indices arrived. -/
structure MarkIn where
  src : Nat
  num : Nat
  n : Nat
  arrived : List Nat
  deriving DecidableEq, Repr

/-- The record of a page granted to other packages: the latest expiry of all its grants (R235). -/
structure GrantRec where
  asn : Nat
  page : Nat
  size : Nat
  expiry : Word
  deriving DecidableEq, Repr

/-- A package that is fenced for a revocation, with the notice that it has not acknowledged, and whether the notice has been
sent again since (R365, R439). -/
structure Fence where
  pkg : Nat
  num : Nat
  w0 : Word
  w1 : Word
  told : Bool
  deriving DecidableEq, Repr

/-- The allocation service of an address space (R341, R342): the rings through which it is reached and the free runs of its pool, base
and length, by rising base. -/
structure AllocPool where
  aspace : Nat
  rings : List Nat
  runs : List (Nat × Nat)
  deriving DecidableEq, Repr

/-- What waits for the link of a pool library (R431): a task, with the core where it waits, if one is known; an access of another
package; a reservation of another package. -/
inductive PoolWaiter where
  | task (id : Word) (core : Option Nat)
  | access (r : RemoteReq)
  | reserve (p : PushReq)
  deriving DecidableEq, Repr
/-- A wait for the link of a pool library, and its end (R431). -/
structure PoolWait where
  id : Nat
  who : PoolWaiter
  lib : Nat
  limit : Word
  deriving DecidableEq, Repr

/-- A 2 MiB unit of the export set (R360). -/
structure ExportUnit where
  aspace : Nat
  unit : Nat
  pkgs : List Nat
  all : Bool
  deriving DecidableEq, Repr

/-! ## Messages that leave the package -/

/-- What the package sends to the outside: other packages, host interrupts, the port. -/
inductive OutMsg where
  /-- a remote request put on a library path (R401) -/
  | request (target lib : Nat) (r : RemoteReq)
  /-- the answer to a remote request performed here (R401, R430): values, or a refusal with the nanoseconds left -/
  | answer (target reqId : Nat) (values : List (Word × Word × Bool × Bool))
  | refusal (target : Nat) (what : RefusedId) (ns : Word)
  /-- a grant asked for on a library path; a grant, or its refusal with the sub-code of R225 (R235, R403) -/
  | grantAsk (target lib reqId slot : Nat) (va : Word) (acc : Access)
  | grant (target reqId : Nat) (g : Grant)
  | grantFault (target reqId : Nat) (sub : Nat)
  /-- an access that arrived at or past its expiry goes back to its issuer (R229) -/
  | returned (target reqId : Nat)
  /-- a push reservation on a library path, its withdrawal, its grant and its reply (R406, R409); its payload goes as requests -/
  | reserve (target lib : Nat) (p : PushReq)
  | withdraw (target reqId : Nat)
  | granted (target reqId : Nat) (k pos : Word)
  | pushReply (target reqId : Nat) (v : Word) (poison : Bool)
  /-- a mark's replica and its completion (R429) -/
  | markReplica (target num path n lib : Nat)
  | markComplete (target num : Nat)
  /-- a frame put on a board group (R434) -/
  | frame (k : Nat) (f : Frame)
  /-- a revocation notice or acknowledgement through the fabric (R439) -/
  | notice (target : Nat) (w0 w1 w2 : Word)
  | ack (target num : Nat)
  /-- the crossing of a capability of another package, for that package's export set (R360) -/
  | exportNote (target : Nat) (r : RemoteReq)
  /-- a compare-and-swap on the boot word (R443, R444): the value expected and the new one -/
  | bootSwap (old new : Word)
  /-- the leader's write into the image store of a library (R446): bytes of the image at an offset, the progress and the LEASEMAX dword -/
  | imageStore (lib at_ : Nat) (bytes : List Byte) (progress : Nat) (leasemax : Word)
  /-- the request to rejoin a board group (R437), for the member that announces it -/
  | joinAsk (k member : Nat)
  /-- the answer to the PCIe port's read of a management register (R452) -/
  | portData (offset : Nat) (v : Word)
  /-- a probe of a failed path (R426) -/
  | probe (target lib : Nat)
  /-- an SPDM response of a key object's responder (R448 to R450): the request code answered, the outcome, a datum -/
  | spdm (key code : Nat) (ok : Bool) (data : List Byte)
  deriving DecidableEq, Repr

/-! ## Board -/

/-- A post queued at this member (R414): the seats of one pass stand together. -/
structure QueuedPost where
  task : Word
  thread : Thread
  pass : Nat
  w0 : Word
  w1 : Word
  w2 : Word
  sent : Option Nat
  deriving DecidableEq, Repr

/-- A service frame to be sent (R434, R435): its kind and BODY. -/
structure ServiceFrame where
  kind : Nat
  w0 : Word
  w1 : Word
  w2 : Word
  deriving DecidableEq, Repr

/-- A board group (R432 to R437): domain group number; member packages; own member number; whether this package is a
member now and whether it was at its domain boot; hall pass generation; whether it holds the pass; number of the last
post accepted; the log, of frames (R434), and its horizon; posts queued; damaged frames set aside; last frame's bell; the generation it
regenerated or adopted; rejoin requested; this package's sequence counter on the group; the
last strata heard (R438); service frames that it sends when it next
holds the pass (R433). -/
structure BoardGroup where
  number : Nat
  members : List Nat
  me : Nat
  isMember : Bool
  named : Bool
  gen : Word32
  holds : Bool
  last : Nat
  log : List Frame
  horizon : Nat
  queue : List QueuedPost
  aside : List Frame
  lastHeard : Word
  adopted : Option Word32
  rejoin : Bool
  seq : Word32
  strata : List (Nat × Nat)
  service : List ServiceFrame
  deriving DecidableEq, Repr

/-- The bell's lock (R438). `offset` is how far the beacon source's bell is ahead, and `named` tells whether a host kernel has named a
reference since boot (R447). -/
structure BellLock where
  locked : Bool
  stratum : Nat
  reference : Nat
  offset : Int
  lastBeacon : Word
  lastSent : Word
  named : Bool
  deriving DecidableEq, Repr

/-! ## Bring-up and management -/

/-- States of bring-up (R440). -/
inductive BootState where
  | rom | elect | load | verify | run | failed
  deriving DecidableEq, Repr

/-- Bring-up (R440 to R447): state, reason, round and leader, leaders of earlier rounds, image store library, HASH bytes
of the READY, attempts of this round, the timer, the bytes copied, which messages this package has sent in the round (0 CLAIM, 1 READY), the digest and SVN of the image that runs, whether the
round has closed, and the bell of the reset. -/
structure Boot where
  state : BootState
  reason : Nat
  round : Nat
  leader : Option Nat
  past : List Nat
  lib : Nat
  hash : Word
  attempts : Nat
  timer : Option Word
  copied : List Byte
  asked : List Nat
  digest : List Byte
  svn : Nat
  closed : Bool
  since : Word
  deriving DecidableEq, Repr

/-- The management registers that hold state of their own (R228, R302, R423, R451 to R455). -/
structure Mgmt where
  bootcfg : Word
  boottmo : Word
  svnmin : Word
  bootctl : Word
  lease0 : Word
  lease1 : Word
  lease2 : Word
  leasemax : Word
  leaddef : Word
  sdqbase : Word
  sdqlog : Word
  sdqtail : Word32
  sdqdone : Word32
  sdqover : List Nat
  bgassign : List Word
  poolseg : List Word
  poolUnmapping : List Nat
  pwrlim : Word
  pwr : Word
  temp : Word
  tthrot : Word
  skewEvents : Word32
  mcEvents : Word32
  throttled : Bool
  deriving DecidableEq, Repr

end Sys2Proof.Machine
end

