-- ==== Sys2Proof/Machine/State.lean ====
section
/-!
DEFINITION. The state of one Q9 package, the reasons for which a step can stop, and the state after reset. Plain data.
-/
namespace Sys2Proof.Machine

/-- Why the machine stops. -/
inductive Fault where
  /-- Raised by `step` when the package has entered FAILED or has stopped (R440, R398 sub-code 4): no unit runs. Safe:
  nothing is claimed about a package that is out of service until the next reset. -/
  | packageStopped
  deriving DecidableEq, Repr

/-- Why an instruction has no meaning here. -/
inductive Refusal where
  /-- An arm of `exec` that has not been written. Safe: nothing can be proved about it. -/
  | notModelled (mnemonic : String)
  deriving DecidableEq, Repr

/-- What the next pass or operation acts on: a bench of a core with the seats selected (R129), the address of the
instruction and its length; for a host capability instruction, the hart; and whether the pass makes its stores or atomics later than
its issue (R193). -/
structure Sel where
  core : Nat
  slot : Nat
  seats : SeatMask
  pc : Word
  len : Nat
  hart : Nat
  late : Bool
  deriving DecidableEq, Repr

/-- One Q9 package. `pkg` is its number in the domain; `bell` the package's bell (R10); `draws` counts the free values
drawn (the model's own field); `sel` is the selection of the next instruction (the model's own field); `agenda` lists
the operations that can happen next (the model's own field: instructions in flight, timers, and what the outside does).
-/
structure State where
  pkg : Nat
  bell : Word
  draws : Nat
  sel : Sel
  agenda : List Event
  mem : Mem
  cores : List (Nat × Core)
  flights : List Flight
  nextId : Nat
  tasks : List Task
  nextTask : Word
  nextSeq : Nat
  nextDispatch : Nat
  passNum : Nat
  objs : List Obj
  dieTlb : List (Nat × List TlbEntry)
  walkCache : List (Nat × List WalkEntry)
  skewed : List TlbUnit
  quarantine : List Revocation
  nextRevoke : Nat
  sweepStep : Nat
  tagSummary : List Nat
  hot : List HotCtl
  nextObj : Nat
  exportSlots : List (Nat × Nat)
  exportUnits : List ExportUnit
  pools : List AllocPool
  harts : List (Nat × Hart)
  links : List Link
  paths : List PathSet
  remote : List RemoteOut
  nextReq : Nat
  heldIn : List RemoteReq
  returned : List (Nat × Nat × Word)
  poolWaits : List PoolWait
  pushBufs : List PushBuf
  marksIn : List MarkIn
  nextMark : Nat
  marksDone : List (Nat × Nat)
  aborts : List (Word × AbortCause × FaultRec)
  stageReqs : List StageReq
  grants : List GrantRec
  grantCache : List (Nat × List Grant)
  fenced : List Fence
  outbox : List OutMsg
  board : List (Nat × BoardGroup)
  lock : BellLock
  boot : Boot
  mgmt : Mgmt
  log : List LogEntry
  seqLog : Word32
  monitorCode : Cap
  saveNext : Word
  stopped : Bool
  deriving DecidableEq, Repr

/-! ## Reset -/

def Mem.empty : Mem := ⟨[], [], [], []⟩

/-- The null capability (R109). -/
def Cap.null : Cap := ⟨0, false⟩

/-- A seat that has not run (R119). -/
def Seat.reset : Seat := ⟨0, 0, 0, 0, 4, .exited, 0, 1, none, none, []⟩

/-- A bench slot without a task. -/
def Bench.reset : Bench :=
  ⟨0, 0, .halted, 0, 0, [], [], List.replicate 16 ⟨0, none⟩, List.replicate 8 (List.replicate 32 0),
    List.replicate 12 0, 0, 0, Cap.null, List.replicate 32 Seat.reset, 0, 0, [], [], 0, true⟩

/-- The handler registers at reset (R335). -/
def TRegs.reset : TRegs := ⟨0x7F, 0, 0, 0, 0, 0, 0, 0⟩

/-- A core after reset: no bench, zero timetable, FEAT with every unit of the core itself (R51). -/
def Core.reset : Core :=
  ⟨[], Mem.empty, [], none, [], List.replicate 8 0, [], [], [], [], TRegs.reset, none, [], [], [], 0x27, 0, [], [], false,
    false⟩

def HotCtl.reset : HotCtl := ⟨false, 16, 0, 0, 0, false, 0, 0⟩

/-- A hart after reset (R355). -/
def Hart.reset : Hart :=
  ⟨List.replicate 32 0, List.replicate 16 Cap.null, 0, .machine, 0, 0, 0, 0, 0, false, 0, 0, 0, 0, .user, .none, none, false, [], 0, 0,
    false⟩

/-- The management registers after reset (R228, R302, R423, R453). -/
def Mgmt.reset : Mgmt :=
  ⟨Config.bootcfg &&& 0x8000FFFFFFFFFFF8, 4000000000, Config.svnmin, 0, 1000000, 16384, 1000000, 1000000, 1700, 0, 4, 0, 0, [],
    List.replicate 16 0, List.replicate 64 0, [], 15000, 0, 0, 95, 0, 0, false⟩

def Boot.reset : Boot := ⟨.rom, 0, 0, none, [], 0, 0, 0, none, [], [], [], 0, false, 0⟩

/-- The package right after reset (R440). -/
def State.reset : State :=
  { pkg := 0, bell := 0, draws := 0, sel := ⟨0, 0, 0, 0, 4, 0, false⟩, agenda := [], mem := Mem.empty, cores := [],
    flights := [], nextId := 0, tasks := [], nextTask := 1, nextSeq := 0, nextDispatch := 0, passNum := 0, objs := [],
    dieTlb := [], walkCache := [], skewed := [], quarantine := [], nextRevoke := 0, sweepStep := 0, tagSummary := [],
    hot := List.replicate 16 HotCtl.reset, nextObj := 10, exportSlots := [],
    exportUnits := [], pools := [], harts := [], links := [], paths := [], remote := [], nextReq := 0, heldIn := [], returned := [], poolWaits := [], pushBufs := [],
    marksIn := [], nextMark := 0, marksDone := [], aborts := [], stageReqs := [], grants := [], grantCache := [], fenced := [], outbox := [], board := [],
    lock := ⟨false, 5, 0, 0, 0, 0, false⟩, boot := Boot.reset, mgmt := Mgmt.reset, log := [], seqLog := 0,
    monitorCode := Cap.null, saveNext := 0xF000000000, stopped := false }

end Sys2Proof.Machine
end

