-- ==== Sys2Proof/Machine/Caps.lean ====
section
/-!
DEFINITION. Capabilities: fields, bounds, derivations and seals (R108 to R112, R316, R345 to R348).
-/
namespace Sys2Proof.Machine

/-! ## Fields (R108) -/

def capCursor (c : Cap) : Word := c.bits.extractLsb' 64 64
def capLo (c : Cap) : Word := c.bits.extractLsb' 0 64
/-- Permissions with LD in bit 9 down to INVOKE in bit 0 (R109). -/
def capPerms (c : Cap) : BitVec 10 := c.bits.extractLsb' 54 10
def capSeal (c : Cap) : Nat := (c.bits.extractLsb' 44 10).toNat
def capE (c : Cap) : Nat := (c.bits.extractLsb' 38 6).toNat
def capB (c : Cap) : Nat := (c.bits.extractLsb' 19 19).toNat
def capT (c : Cap) : Nat := (c.bits.extractLsb' 0 19).toNat
/-- The object number of a hardware object capability (R346). -/
def capNum (c : Cap) : Nat := (c.bits.extractLsb' 0 38).toNat

/-- Permission bits (R109), by their place k in `capPerms`. -/
inductive Perm where
  | invoke | remote | global | unsealP | sealP | ex | stc | ldc | st | ld
  deriving DecidableEq, Repr

def permBit : Perm → Nat
  | .invoke => 0 | .remote => 1 | .global => 2 | .unsealP => 3 | .sealP => 4
  | .ex => 5 | .stc => 6 | .ldc => 7 | .st => 8 | .ld => 9

/-- Does the capability carry a permission? -/
def hasPerm (c : Cap) (p : Perm) : Bool := (capPerms c).getLsbD (permBit p)

/-- A capability from its fields. -/
def mkCap (cursor : Word) (perms : BitVec 10) (sl e b t : Nat) (tag : Bool) : Cap :=
  ⟨cursor ++ perms ++ BitVec.ofNat 10 sl ++ BitVec.ofNat 6 e ++ BitVec.ofNat 19 b ++ BitVec.ofNat 19 t, tag⟩

/-- Is the seal a hardware object type, 960 to 1023, whose capabilities have no bounds (R108, R346, R347)? DEDUCED (log 54): a
travel-sealed capability has those that follow its address (R360, R361). -/
def isObjType (t : Nat) : Bool := decide (960 ≤ t) && decide (t ≤ 1023) && t != 1009

/-! ## Bounds (R345) -/

/-- The decoded base for a cursor, exponent and base mantissa (R345). -/
def boundBase (c e b : Nat) : Int :=
  let m := 2 ^ e
  let a := c / m % 2 ^ 19
  let k := (a + 2 ^ 19 - b) % 2 ^ 19
  if k < 3 * 2 ^ 17 then Int.ofNat (c / m * m) - Int.ofNat (k * m)
  else Int.ofNat (c / m * m) + Int.ofNat ((2 ^ 19 - k) * m)

def capBase (c : Cap) : Int := boundBase (capCursor c).toNat (capE c) (capB c)
def capLen (c : Cap) : Nat := ((capT c + 2 ^ 19 - capB c) % 2 ^ 19) * 2 ^ capE c
def capTop (c : Cap) : Int := capBase c + Int.ofNat (capLen c)

/-- ok(A) of R109: tagged, unsealed, exponent below 48. -/
def capOk (c : Cap) : Bool := c.tag && capSeal c == 0 && decide (capE c < 48)

/-- The same capability with another cursor; the tag stays where it was set and the cursor is representable (R109,
R345). -/
def withCursor (c : Cap) (cur : Word) : Cap :=
  ⟨cur ++ capLo c,
    capOk c && boundBase cur.toNat (capE c) (capB c) == boundBase (capCursor c).toNat (capE c) (capB c)⟩

/-- The 128 bits unchanged with another tag. -/
def withTag (c : Cap) (t : Bool) : Cap := ⟨c.bits, t⟩

/-! ## Derivations (R109, R110, R316) -/

def cincC (c : Cap) (b : Word) (sh : Nat) : Cap := withCursor c (capCursor c + b * BitVec.ofNat 64 (2 ^ sh))
def csetC (c : Cap) (b : Word) : Cap := withCursor c b

/-- Round up to a multiple of 2^e. -/
def ceilPow (x e : Nat) : Nat := (x + 2 ^ e - 1) / 2 ^ e * 2 ^ e
/-- Round down to a multiple of 2^e. -/
def floorPow (x e : Nat) : Nat := x / 2 ^ e * 2 ^ e

/-- The least exponent that covers [b, t) (R110). -/
def boundExp (b t : Nat) : Nat :=
  ((List.range 48).find? fun e => decide (ceilPow t e - floorPow b e ≤ 3 * 2 ^ (e + 17))).getD 47

/-- Bounds and exponent fields for [b, t): E, b′, t′ (R110). -/
def boundsFor (b t : Nat) : Nat × Nat × Nat :=
  let e := boundExp b t
  (e, floorPow b e, ceilPow t e)

/-- A capability with given bounds, rounded as `cbnd` rounds (R110, R345). -/
def boundedCap (cursor : Word) (perms : BitVec 10) (sl : Nat) (b t : Nat) (tag : Bool) : Cap :=
  match boundsFor b t with
  | (e, b', t') => mkCap cursor perms sl e (b' / 2 ^ e % 2 ^ 19) (t' / 2 ^ e % 2 ^ 19) tag

def cbndC (c : Cap) (len : Word) : Cap :=
  let b := (capCursor c).toNat
  match boundsFor b (b + len.toNat) with
  | (_, b', t') =>
    boundedCap (capCursor c) (capPerms c) (capSeal c) b (b + len.toNat)
      (capOk c && decide (capBase c ≤ Int.ofNat b') && decide (Int.ofNat t' ≤ capTop c))

/-- The same capability with other permissions. -/
def withPerms (c : Cap) (p : BitVec 10) (tag : Bool) : Cap :=
  ⟨capCursor c ++ p ++ c.bits.extractLsb' 0 54, tag⟩

/-- The same capability with another seal. -/
def withSeal (c : Cap) (t : Nat) (tag : Bool) : Cap :=
  ⟨capCursor c ++ capPerms c ++ BitVec.ofNat 10 t ++ c.bits.extractLsb' 0 44, tag⟩

def cpermC (c : Cap) (b : Word) : Cap := withPerms c (capPerms c &&& b.extractLsb' 0 10) (capOk c)
def cclrC (c : Cap) : Cap := withTag c false

/-- Is the capability a sealer (R316)? -/
def isSealer (c : Cap) : Bool := c.tag && capSeal c == 974 && decide (1 ≤ capNum c) && decide (capNum c ≤ 959)

def csealC (a b : Cap) : Cap :=
  withSeal a (capNum b % 1024) (capOk a && isSealer b && hasPerm b .sealP)

def cunsealC (a b : Cap) : Cap :=
  let t := capSeal a
  let r := withSeal a 0 (a.tag && decide (capE a < 48) && decide (1 ≤ t) && decide (t ≤ 959) && isSealer b &&
    hasPerm b .unsealP && capNum b == t)
  withPerms r (capPerms a &&& capPerms b) r.tag

/-- The value of `cget` (R111, R346). -/
def cgetW (c : Cap) (slct : Nat) : Word :=
  let bounded := decide (capE c < 48) && !isObjType (capSeal c)
  match slct with
  | 0 => capCursor c
  | 1 => if bounded then BitVec.ofInt 64 (capBase c) else 0
  | 2 => if bounded then (if capTop c = 2 ^ 64 then -1 else BitVec.ofInt 64 (capTop c)) else 0
  | 3 => if bounded then (if 2 ^ 64 ≤ capLen c then -1 else BitVec.ofNat 64 (capLen c)) else 0
  | 4 => (capPerms c).setWidth 64
  | 5 => BitVec.ofNat 64 (capSeal c)
  | 6 => if c.tag then 1 else 0
  | 7 => if bounded then capCursor c - BitVec.ofInt 64 (capBase c) else 0
  | 8 => BitVec.ofNat 64 (capE c)
  | 9 => capCursor c
  | _ => capLo c

/-- The test of `ctest` (R112). -/
def ctestB (c : Cap) (b : Word) : Bool :=
  capOk c && decide (capBase c ≤ Int.ofNat (capCursor c).toNat) &&
    decide (Int.ofNat ((capCursor c).toNat + b.toNat) ≤ capTop c)

/-- The capability in all fields but the cursor (R94). -/
def sameButCursor (a b : Cap) : Bool :=
  a.tag == b.tag && capLo a == capLo b

/-! ## In memory (R108) -/

/-- The 16 bytes of a capability: bits [63:0] at the lower address. -/
def capBytes (c : Cap) : List Byte := bytesLE 16 c.bits.toNat
/-- A capability from 16 bytes and a tag. -/
def capOfBytes (bs : List Byte) (tag : Bool) : Cap := ⟨BitVec.ofNat 128 (valueLE bs), tag⟩

/-- A new object capability (R348): all permissions but EX, SEAL, UNSEAL and REMOTE, and all ten for a sealer; badge 0. -/
def objCap (type num : Nat) : Cap :=
  ⟨(0 : Word) ++ (if type = 974 then (0x3FF : BitVec 10) else 0x3C5) ++ BitVec.ofNat 10 type ++ (0 : BitVec 6) ++
    BitVec.ofNat 38 num, true⟩

/-- The team scratchpad capability that launch hands to each task (R119). -/
def scratchCap (teamN : Nat) : Cap := boundedCap 0 0x300 0 0 (teamN * 0x80000) true

end Sys2Proof.Machine
end

