-- ==== Sys2Proof/Machine/Float.lean ====
section
/-!
DEFINITION. Number formats, exact values and rounding (R57 to R65, R84). A finite value is an exact dyadic number;
every arithmetic result is computed exactly and rounded once.
-/
namespace Sys2Proof.Machine

/-- How a format writes infinities and NaNs (R57): as IEEE 754; E4M3, with one NaN and no infinity; not at all. -/
inductive Specials where
  | ieee | e4m3 | none
  deriving DecidableEq, Repr

/-- A floating-point format: exponent bits, fraction bits, bias (R57). -/
structure FFmt where
  ebits : Nat
  fbits : Nat
  bias : Nat
  spec : Specials
  deriving DecidableEq, Repr

def fmt64 : FFmt := ⟨11, 52, 1023, .ieee⟩
def fmt32 : FFmt := ⟨8, 23, 127, .ieee⟩
def fmt16 : FFmt := ⟨5, 10, 15, .ieee⟩
def fmtBf16 : FFmt := ⟨8, 7, 127, .ieee⟩
def fmtE5M2 : FFmt := ⟨5, 2, 15, .ieee⟩
def fmtE4M3 : FFmt := ⟨4, 3, 7, .e4m3⟩
def fmtE3M2 : FFmt := ⟨3, 2, 3, .none⟩
def fmtE2M3 : FFmt := ⟨2, 3, 1, .none⟩
def fmtE2M1 : FFmt := ⟨2, 1, 1, .none⟩
def fmt48 : FFmt := ⟨10, 37, 511, .ieee⟩

/-- The width of a format in bits (R57). -/
def fmtWidth (f : FFmt) : Nat := 1 + f.ebits + f.fbits

/-- The magnitude pattern of infinity, or of the first pattern that is not finite (R57). -/
def fmtTop (f : FFmt) : Nat :=
  match f.spec with
  | .ieee => (2 ^ f.ebits - 1) * 2 ^ f.fbits
  | .e4m3 => 2 ^ (f.ebits + f.fbits) - 1
  | .none => 2 ^ (f.ebits + f.fbits)

/-- The magnitude pattern of the largest finite value (R57). -/
def fmtMax (f : FFmt) : Nat := fmtTop f - 1

/-- The canonical NaN (R61): quiet, positive, fraction zero below its top bit; all ones below the sign in E4M3. A
format without a NaN never delivers one; 0 stands there. -/
def fmtNaN (f : FFmt) : Nat :=
  match f.spec with
  | .ieee => fmtTop f + 2 ^ (f.fbits - 1)
  | .e4m3 => fmtTop f
  | .none => 0

/-- A decoded value (R58): NaN, an infinity, or the exact dyadic (−1)^neg · man · 2^exp. -/
inductive FVal where
  | nan
  | inf (neg : Bool)
  | fin (neg : Bool) (man : Nat) (exp : Int)
  deriving DecidableEq, Repr

/-- The sign bit of a pattern. -/
def fmtNeg (f : FFmt) (x : Nat) : Bool := x / 2 ^ (f.ebits + f.fbits) % 2 == 1

/-- The magnitude bits of a pattern. -/
def fmtMag (f : FFmt) (x : Nat) : Nat := x % 2 ^ (f.ebits + f.fbits)

/-- Decode a pattern (R58). -/
def fdecode (f : FFmt) (x : Nat) : FVal :=
  let neg := fmtNeg f x
  let m := fmtMag f x
  let e := m / 2 ^ f.fbits
  let fr := m % 2 ^ f.fbits
  if fmtTop f ≤ m then
    (if f.spec = .ieee ∧ m = fmtTop f then .inf neg else .nan)
  else if e = 0 then .fin neg fr (1 - (f.bias : Int) - f.fbits)
  else .fin neg (2 ^ f.fbits + fr) ((e : Int) - f.bias - f.fbits)

/-- Is the pattern a NaN (R57)? -/
def fisNaN (f : FFmt) (x : Nat) : Bool := fdecode f x == .nan

/-- A pattern with its sign. -/
def fsigned (f : FFmt) (neg : Bool) (mag : Nat) : Nat := mag + neg.toNat * 2 ^ (f.ebits + f.fbits)

/-- The rounding of R63 and R65: the mode, and for stochastic rounding the drawn word. -/
inductive RMode where
  | rne | rtz | rup | rdn
  | sr (r : Nat)
  deriving DecidableEq, Repr

/-- Is a value truncated to t, with remainder rem of den, rounded away from zero (R63, R65)? -/
def roundsUp (m : RMode) (neg : Bool) (t rem den : Nat) : Bool :=
  match m with
  | .rne => decide (den < 2 * rem) || (decide (2 * rem = den) && t % 2 == 1)
  | .rtz => false
  | .rup => decide (0 < rem) && !neg
  | .rdn => decide (0 < rem) && neg
  | .sr r => decide (2 ^ 32 ≤ r + rem * 2 ^ 32 / den)

/-- The value of R64 for a finite result beyond the range. -/
def foverflow (f : FFmt) (m : RMode) (neg : Bool) : Nat :=
  if (f.ebits, f.fbits) = (4, 3) ∨ (f.ebits, f.fbits) = (5, 2) ∨ f.spec = .none then fsigned f neg (fmtMax f)
  else
    match m, neg with
    | .rtz, _ => fsigned f neg (fmtMax f)
    | .rup, true => fsigned f neg (fmtMax f)
    | .rdn, false => fsigned f neg (fmtMax f)
    | _, _ => fsigned f neg (fmtTop f)

/-- The magnitude pattern, unbounded above, of man · 2^exp rounded (R63, R65): the count of values of the format
below it. -/
def froundMag (f : FFmt) (m : RMode) (neg : Bool) (man : Nat) (exp : Int) : Nat :=
  let emin : Int := 1 - f.bias
  let e : Int := Nat.log2 man + exp
  let top := max e emin
  let q : Int := top - f.fbits
  let base := (top - emin).toNat * 2 ^ f.fbits
  if q ≤ exp then base + man * 2 ^ (exp - q).toNat
  else
    let den := 2 ^ (q - exp).toNat
    let t := man / den
    base + t + (roundsUp m neg t (man % den) den).toNat

/-- Round a finite value into a format (R63, R64). -/
def froundFin (f : FFmt) (m : RMode) (neg : Bool) (man : Nat) (exp : Int) : Nat :=
  if man = 0 then fsigned f neg 0
  else
    let c := froundMag f m neg man exp
    if fmtMax f < c then foverflow f m neg else fsigned f neg c

/-- Round a value into a format (R61, R63, R64). -/
def fencode (f : FFmt) (m : RMode) (v : FVal) : Nat :=
  match v with
  | .nan => fmtNaN f
  | .inf neg => if f.spec = .ieee then fsigned f neg (fmtTop f) else fsigned f neg (fmtMax f)
  | .fin neg man exp => froundFin f m neg man exp

/-- A finite value as a signed mantissa at exponent q, where q is at most its exponent. -/
def fixedAt (neg : Bool) (man : Nat) (exp q : Int) : Int :=
  let x : Int := Int.ofNat (man * 2 ^ (exp - q).toNat)
  if neg then -x else x

/-- The exact sum of two values; `rdn` says that the sum is rounded by RDN (R62). -/
def faddV (rdn : Bool) (a b : FVal) : FVal :=
  match a, b with
  | .nan, _ => .nan
  | _, .nan => .nan
  | .inf s, .inf t => if s = t then .inf s else .nan
  | .inf s, _ => .inf s
  | _, .inf t => .inf t
  | .fin s m e, .fin t n g =>
    let q := min e g
    let x := fixedAt s m e q + fixedAt t n g q
    if x = 0 then .fin (if m = 0 ∧ n = 0 ∧ s = t then s else rdn) 0 q
    else .fin (decide (x < 0)) x.natAbs q

/-- The value with its sign changed. -/
def fnegV (a : FVal) : FVal :=
  match a with
  | .nan => .nan
  | .inf s => .inf (!s)
  | .fin s m e => .fin (!s) m e

/-- The exact product (R62). -/
def fmulV (a b : FVal) : FVal :=
  match a, b with
  | .nan, _ => .nan
  | _, .nan => .nan
  | .inf s, .inf t => .inf (s != t)
  | .inf s, .fin t n _ => if n = 0 then .nan else .inf (s != t)
  | .fin s m _, .inf t => if m = 0 then .nan else .inf (s != t)
  | .fin s m e, .fin t n g => .fin (s != t) (m * n) (e + g)

/-- Round to nearest even (R81). -/
def frne (f : FFmt) (v : FVal) : Nat := fencode f .rne v

/-- The format of a float width code (R24). -/
def fwFmt : FWidth → FFmt
  | .f64 => fmt64
  | .f32 => fmt32
  | .f16 => fmt16
  | .bf16 => fmtBf16

/-- The element width of a float width code (R24, R53). -/
def fwBits : FWidth → Nat
  | .f64 => 64
  | .f32 => 32
  | .f16 => 16
  | .bf16 => 16

/-! ## The float lane operations, one sub-element (R81 to R83) -/

def fadd1 (f : FFmt) (a b : Nat) : Nat := frne f (faddV false (fdecode f a) (fdecode f b))
def fsub1 (f : FFmt) (a b : Nat) : Nat := frne f (faddV false (fdecode f a) (fnegV (fdecode f b)))
def fmul1 (f : FFmt) (a b : Nat) : Nat := frne f (fmulV (fdecode f a) (fdecode f b))
/-- a × b + d, rounded once. -/
def fma1 (f : FFmt) (a b d : Nat) : Nat :=
  frne f (faddV false (fmulV (fdecode f a) (fdecode f b)) (fdecode f d))
/-- d − a × b, rounded once. -/
def fnma1 (f : FFmt) (a b d : Nat) : Nat :=
  frne f (faddV false (fnegV (fmulV (fdecode f a) (fdecode f b))) (fdecode f d))

/-- a × 2^sx(b) (R81). The exponent is cut at ±5000, beyond which every format rounds alike. -/
def fscale1 (f : FFmt) (a b : Nat) : Nat :=
  match fdecode f a with
  | .nan => fmtNaN f
  | .inf _ => a
  | .fin s m e => if m = 0 then a else
    froundFin f .rne s m (e + max (-5000) (min 5000 (sx (fmtWidth f) b)))

/-- Order of two values that are not NaN: is a less than b, with −0 = +0? -/
def fltV (a b : FVal) : Bool :=
  match a, b with
  | .inf true, .inf true => false
  | .inf true, _ => true
  | _, .inf true => false
  | .inf false, _ => false
  | _, .inf false => true
  | .fin s m e, .fin t n g => decide (fixedAt s m e (min e g) < fixedAt t n g (min e g))
  | _, _ => false

/-- Equality of two values that are not NaN, with −0 = +0. -/
def feqV (a b : FVal) : Bool :=
  match a, b with
  | .inf s, .inf t => s == t
  | .fin s m e, .fin t n g => decide (fixedAt s m e (min e g) = fixedAt t n g (min e g))
  | _, _ => false

/-- `fcmp` on one pair (R79). -/
def fcmp1 (c : FCond) (f : FFmt) (a b : Nat) : Bool :=
  let x := fdecode f a
  let y := fdecode f b
  let un := x == .nan || y == .nan
  match c with
  | .eq => !un && feqV x y
  | .ne => un || !feqV x y
  | .lt => !un && fltV x y
  | .le => !un && (fltV x y || feqV x y)
  | .gt => !un && fltV y x
  | .ge => !un && (fltV y x || feqV x y)
  | .un => un
  | .ord => !un

/-- Is a ordered below b with −0 below +0 (R81)? -/
def fbelow (f : FFmt) (a b : Nat) : Bool :=
  let x := fdecode f a
  let y := fdecode f b
  fltV x y || (feqV x y && fmtNeg f a && !fmtNeg f b)

/-- minimumNumber (R81). -/
def fmin1 (f : FFmt) (a b : Nat) : Nat :=
  if fisNaN f a && fisNaN f b then fmtNaN f
  else if fisNaN f a then b
  else if fisNaN f b then a
  else if fbelow f b a then b else a

/-- maximumNumber (R81). -/
def fmax1 (f : FFmt) (a b : Nat) : Nat :=
  if fisNaN f a && fisNaN f b then fmtNaN f
  else if fisNaN f a then b
  else if fisNaN f b then a
  else if fbelow f a b then b else a

/-- Clear the sign bit (R82). -/
def fabs1 (f : FFmt) (a : Nat) : Nat := fmtMag f a
/-- Invert the sign bit (R82). -/
def fneg1 (f : FFmt) (a : Nat) : Nat := fsigned f (!fmtNeg f a) (fmtMag f a)

/-- The class mask (R83). -/
def fclass1 (f : FFmt) (a : Nat) : Nat :=
  let neg := fmtNeg f a
  let m := fmtMag f a
  if fmtTop f < m then (if m / 2 ^ (f.fbits - 1) % 2 = 1 then 2 ^ 9 else 2 ^ 8)
  else if m = fmtTop f then (if neg then 2 ^ 0 else 2 ^ 7)
  else if m = 0 then (if neg then 2 ^ 3 else 2 ^ 4)
  else if m < 2 ^ f.fbits then (if neg then 2 ^ 2 else 2 ^ 5)
  else (if neg then 2 ^ 1 else 2 ^ 6)

/-- The magnitude of man · 2^exp rounded to an integer (R82, R84). -/
def roundIntMag (m : RMode) (neg : Bool) (man : Nat) (exp : Int) : Nat :=
  if 0 ≤ exp then man * 2 ^ exp.toNat
  else
    let den := 2 ^ (-exp).toNat
    man / den + (roundsUp m neg (man / den) (man % den) den).toNat

/-- Round to an integral value in the same format (R82). -/
def fround1 (m : RMode) (f : FFmt) (a : Nat) : Nat :=
  match fdecode f a with
  | .nan => fmtNaN f
  | .inf _ => a
  | .fin s man exp => froundFin f .rne s (roundIntMag m s man exp) 0

/-! ## Conversions (R84) -/

/-- The element width of a conversion format (R41, R84). -/
def cfmtBits : CFmt → Nat
  | .f64 => 64 | .f32 => 32 | .f16 => 16 | .bf16 => 16 | .e4m3 => 8 | .e5m2 => 8 | .s32 => 32 | .s64 => 64

/-- The float format of a conversion code; integers have none. -/
def cfmtFloat : CFmt → Option FFmt
  | .f64 => some fmt64 | .f32 => some fmt32 | .f16 => some fmt16 | .bf16 => some fmtBf16
  | .e4m3 => some fmtE4M3 | .e5m2 => some fmtE5M2 | .s32 => none | .s64 => none

/-- The exact value of a source element (R84). -/
def cfmtValue (c : CFmt) (x : Nat) : FVal :=
  match cfmtFloat c with
  | some f => fdecode f x
  | none => .fin (decide (sx (cfmtBits c) x < 0)) (sx (cfmtBits c) x).natAbs 0

/-- A value rounded into a signed integer of w bits, saturating; a NaN gives 0 (R64). -/
def intOfV (w : Nat) (m : RMode) (v : FVal) : Nat :=
  match v with
  | .nan => 0
  | .inf neg => if neg then 2 ^ (w - 1) else 2 ^ (w - 1) - 1
  | .fin neg man exp =>
    -- A magnitude of 2^70 or more lies beyond every bound.
    let mag := if 70 ≤ (Nat.log2 man : Int) + exp ∧ man ≠ 0 then 2 ^ 70 else roundIntMag m neg man exp
    if neg then (if 2 ^ (w - 1) ≤ mag then 2 ^ (w - 1) else wrap w (-(mag : Int)))
    else if 2 ^ (w - 1) - 1 ≤ mag then 2 ^ (w - 1) - 1 else mag

/-- One element of `fcvt` (R84). -/
def fcvt1 (dst src : CFmt) (m : RMode) (x : Nat) : Nat :=
  match cfmtFloat dst with
  | some f => fencode f m (cfmtValue src x)
  | none => intOfV (cfmtBits dst) m (cfmtValue src x)

/-- One round of Philox4x32 (R65): counters and keys. -/
def philoxRound (c : Nat × Nat × Nat × Nat × Nat × Nat) : Nat × Nat × Nat × Nat × Nat × Nat :=
  match c with
  | (c0, c1, c2, c3, k0, k1) =>
    let p0 := 0xD2511F53 * c0
    let p1 := 0xCD9E8D57 * c2
    (Nat.xor (Nat.xor (p1 / 2 ^ 32) c1) k0, p1 % 2 ^ 32, Nat.xor (Nat.xor (p0 / 2 ^ 32) c3) k1, p0 % 2 ^ 32,
      (k0 + 0x9E3779B9) % 2 ^ 32, (k1 + 0xBB67AE85) % 2 ^ 32)

/-- Word 0 of the Philox4x32-10 output for destination sub-element i of a seat (R65). -/
def philoxWord (seed stepCount : Word) (seat i : Nat) : Nat :=
  let r := (List.range 10).foldl (fun c _ => philoxRound c)
    (i + 8 * seat, stepCount.toNat % 2 ^ 32, stepCount.toNat / 2 ^ 32, 1, seed.toNat % 2 ^ 32, seed.toNat / 2 ^ 32)
  r.1

end Sys2Proof.Machine
end

