-- ==== Sys2Proof/Machine/Special.lean ====
section
/-!
DEFINITION. The special functions (R85). `frcp` and `fsqrt` are correctly rounded. The others are only bounded: the
exact value is computed far past binary32 precision, the result is the free value `Config.special` where that lies
within the bound of R85, and otherwise the nearest binary32 value.
-/
namespace Sys2Proof.Machine

/-- Fraction bits of the fixed-point numbers below. -/
def specP : Nat := 320

/-- π/2, to 600 fraction bits. -/
def halfPi600 : Nat :=
  0x1921fb54442d18469898cc51701b839a252049c1114cf98e804177d4c76273644a29410f31c6809bbdf2a33679a748636605614dbe4be286e9fc26adadaa3848bc90b6aeecc4bcfd8de8895

/-- ln 2, to 320 fraction bits. -/
def ln2Fix : Int := 0xb17217f7d1cf79abc9e3b39803f2f6af40f343267298b62d8a0d175b8baafa2be7b876206debac98

/-- man · 2^exp as a fixed-point number of p fraction bits, truncated. -/
def toFix (p : Nat) (neg : Bool) (man : Nat) (exp : Int) : Int :=
  let e := exp + p
  let x : Int := if 0 ≤ e then Int.ofNat (man * 2 ^ e.toNat) else Int.ofNat (man / 2 ^ (-e).toNat)
  if neg then -x else x

/-- The product of two fixed-point numbers. -/
def fixMul (a b : Int) : Int := a * b / 2 ^ specP
/-- The quotient of two fixed-point numbers. -/
def fixDiv (a b : Int) : Int := a * 2 ^ specP / b

/-- Σ term · y^k / (j+1)…(j+k), k from 0: the tail of the series of e^y − 1. -/
def expSeries : Nat → Nat → Int → Int → Int
  | 0, _, _, _ => 0
  | fuel + 1, j, y, term => term + expSeries fuel (j + 1) y (fixMul term y / (j + 1))

/-- e^y − 1 for 0 ≤ y ≤ 1. -/
def expm1Small (y : Int) : Int := expSeries 80 1 y y

/-- Σ of the alternating series of sin (j = 1, term = y) and cos (j = 0, term = 1); s is y². -/
def trigSeries : Nat → Nat → Int → Int → Int
  | 0, _, _, _ => 0
  | fuel + 1, j, s, term => term + trigSeries fuel (j + 2) s (-(fixMul term s / ((j + 1) * (j + 2))))

/-- Σ z^(2k+1)/(2k+1); s is z². -/
def atanhSeries : Nat → Nat → Int → Int → Int
  | 0, _, _, _ => 0
  | fuel + 1, j, s, term => term / j + atanhSeries fuel (j + 2) s (fixMul term s)

/-- A fixed-point number as a value, scaled by 2^k. -/
def fixV (x : Int) (k : Int) : FVal := .fin (decide (x < 0)) x.natAbs (k - specP)

/-- 2^x for a fixed-point x, as a value. The exponent is cut at ±600, beyond which binary32 rounds alike. -/
def exp2V (x : Int) : FVal :=
  let n := x / 2 ^ specP
  let f := x % 2 ^ specP
  fixV (2 ^ specP + expm1Small (fixMul f ln2Fix)) (max (-600) (min 600 n))

/-- log₂ of man · 2^exp, man ≠ 0. -/
def log2V (man : Nat) (exp : Int) : FVal :=
  let l := Nat.log2 man
  let m : Int := Int.ofNat (man * 2 ^ specP / 2 ^ l)
  let z := fixDiv (m - 2 ^ specP) (m + 2 ^ specP)
  let ln := 2 * atanhSeries 110 1 (fixMul z z) z
  fixV ((exp + l) * 2 ^ specP + fixDiv ln ln2Fix) 0

/-- tanh of a fixed-point x that is not negative, cut at 64. -/
def tanhFix (x : Int) : FVal :=
  let y := 2 * min (64 * 2 ^ specP) x
  let n := (y / ln2Fix).toNat
  let g := expm1Small (y % ln2Fix)
  let em1 := (2 ^ n - 1) * 2 ^ specP + 2 ^ n * g
  fixV (fixDiv em1 (em1 + 2 * 2 ^ specP)) 0
/-- tanh of the magnitude man · 2^exp, man ≠ 0: below 2^-100 it is less than the magnitude by less than 2^-200 of it. -/
def tanhV (man : Nat) (exp : Int) : FVal :=
  if (Nat.log2 man : Int) + exp < -100 then .fin false (man * 2 ^ 200 - 1) (exp - 200) else tanhFix (toFix specP false man exp)

/-- sin (or cos) of man · 2^exp radians. -/
def trigV (cosine neg : Bool) (man : Nat) (exp : Int) : FVal :=
  let x := toFix 600 neg man exp
  let n := x / halfPi600
  let r := (x % halfPi600) / 2 ^ (600 - specP)
  let quad := (n + cosine.toNat) % 4
  let s := fixMul r r
  let v := if quad % 2 = 0 then trigSeries 50 1 s r else trigSeries 50 0 s (2 ^ specP)
  fixV (if 2 ≤ quad then -v else v) 0

/-- 1/√(man · 2^exp), man ≠ 0. -/
def rsqrtV (man : Nat) (exp : Int) : FVal :=
  fixV (Int.ofNat (Nat.sqrt (2 ^ (2 * specP - exp).toNat / man))) 0

/-- The spacing of binary32 values at a finite value, as an exponent of 2 (R57). -/
def ulpExp32 (v : FVal) : Int :=
  match v with
  | .fin _ man exp => if man = 0 then -149 else max (-149) (Nat.log2 man + exp - 23)
  | _ => -149

/-- A binary32 pattern as a bound check reads it: infinity counts as 2^128. -/
def special32Value (c : Nat) : FVal :=
  match fdecode fmt32 c with
  | .inf s => .fin s 1 128
  | v => v

/-- The free binary32 pattern c where it lies within `tol` of the value v, else the nearest pattern (R85). -/
def withinBound (v tol : FVal) (c : Nat) : Nat :=
  let x := special32Value c
  let lo := faddV false v (fnegV tol)
  let hi := faddV false v tol
  if x != .nan && !fltV x lo && !fltV hi x then c else frne fmt32 v

/-- A bound of k units in the last place of v. Where the function's value is a dyadic number, v is that value itself; elsewhere no
binary32 number lies at the bound, and v is off by less than 2^-250 of it. -/
def ulpTol (k : Nat) (v : FVal) : FVal := .fin false k (ulpExp32 v)

/-- An absolute bound of 2^-k. -/
def absTol (k : Nat) : FVal := .fin false 1 (-(k : Int))

/-- The free pattern for a function and an input. -/
def specialFree (fn : SpecialFn) (x : Nat) : Nat := (Config.special fn (BitVec.ofNat 32 x)).toNat

/-- 1/x rounded once (R85). -/
def frcp32 (x : Nat) : Nat :=
  match fdecode fmt32 x with
  | .nan => fmtNaN fmt32
  | .inf s => fsigned fmt32 s 0
  | .fin s m e =>
    if m = 0 then fsigned fmt32 s (fmtTop fmt32)
    else
      let q := 2 ^ 64 / m
      froundFin fmt32 .rne s (2 * q + (if 2 ^ 64 % m = 0 then 0 else 1)) (-e - 65)

/-- √x rounded once (R85). -/
def fsqrt32 (x : Nat) : Nat :=
  match fdecode fmt32 x with
  | .nan => fmtNaN fmt32
  | .inf s => if s then fmtNaN fmt32 else x
  | .fin s m e =>
    if m = 0 then x
    else if s then fmtNaN fmt32
    else
      let k := (e + 200) / 2
      let n := m * 2 ^ (64 + (e + 200) % 2).toNat
      let r := Nat.sqrt n
      froundFin fmt32 .rne false (2 * r + (if r * r = n then 0 else 1)) (k - 100 - 33)

/-- 1/√x (R85). -/
def frsq32 (x : Nat) : Nat :=
  match fdecode fmt32 x with
  | .nan => fmtNaN fmt32
  | .inf s => if s then fmtNaN fmt32 else 0
  | .fin s m e =>
    if m = 0 then fsigned fmt32 s (fmtTop fmt32)
    else if s then fmtNaN fmt32
    else withinBound (rsqrtV m e) (ulpTol 1 (rsqrtV m e)) (specialFree .frsq x)

/-- 2^x (R85). -/
def fexp232 (x : Nat) : Nat :=
  match fdecode fmt32 x with
  | .nan => fmtNaN fmt32
  | .inf s => if s then 0 else x
  | .fin s m e =>
    let v := exp2V (toFix specP s m e)
    withinBound v (ulpTol 2 v) (specialFree .fexp2 x)

/-- log₂ x (R85). -/
def flog232 (x : Nat) : Nat :=
  match fdecode fmt32 x with
  | .nan => fmtNaN fmt32
  | .inf s => if s then fmtNaN fmt32 else x
  | .fin s m e =>
    if m = 0 then fsigned fmt32 true (fmtTop fmt32)
    else if s then fmtNaN fmt32
    else if feqV (.fin s m e) (.fin false 1 0) then 0
    else
      let v := log2V m e
      let near := !fltV (.fin s m e) (.fin false 1 (-1)) && !fltV (.fin false 1 1) (.fin s m e)
      withinBound v (if near then absTol 22 else ulpTol 2 v) (specialFree .flog2 x)

/-- sin x (R85). -/
def fsin32 (x : Nat) : Nat :=
  match fdecode fmt32 x with
  | .nan => fmtNaN fmt32
  | .inf _ => fmtNaN fmt32
  | .fin s m e => if m = 0 then x else withinBound (trigV false s m e) (absTol 21) (specialFree .fsin x)

/-- cos x (R85). -/
def fcos32 (x : Nat) : Nat :=
  match fdecode fmt32 x with
  | .nan => fmtNaN fmt32
  | .inf _ => fmtNaN fmt32
  | .fin s m e => if m = 0 then frne fmt32 (.fin false 1 0)
    else withinBound (trigV true s m e) (absTol 21) (specialFree .fcos x)

/-- tanh x (R85). -/
def ftanh32 (x : Nat) : Nat :=
  match fdecode fmt32 x with
  | .nan => fmtNaN fmt32
  | .inf s => frne fmt32 (.fin s 1 0)
  | .fin s m e =>
    if m = 0 then x
    else
      let v := if s then fnegV (tanhV m e) else tanhV m e
      withinBound v (ulpTol 2 v) (specialFree .ftanh x)

/-- A binary32 function on an element of a narrower format (R85): widened exactly, applied, rounded by RNE. -/
def viaF32 (f : FWidth) (g : Nat → Nat) (x : Nat) : Nat :=
  match f with
  | .f16 => frne fmt16 (fdecode fmt32 (g (frne fmt32 (fdecode fmt16 x))))
  | .bf16 => frne fmtBf16 (fdecode fmt32 (g (frne fmt32 (fdecode fmtBf16 x))))
  | _ => g x

end Sys2Proof.Machine
end

