-- ==== Sys2Proof/Machine/Lanes.lean ====
section
/-!
DEFINITION. What the lane instructions compute from whole register values (R69 to R85, R274, R275): pure functions of
the old destination and the sources. The meanings in LaneInt.lean and LaneFloat.lean apply them to the issued seats.
-/
namespace Sys2Proof.Machine

/-! ## Integer elements (R69 to R71) -/

def addE (w a b : Nat) : Nat := (a + b) % 2 ^ w
def subE (w a b : Nat) : Nat := (a + 2 ^ w - b) % 2 ^ w
def mulE (w a b : Nat) : Nat := a * b % 2 ^ w
/-- The signed high half (R69). -/
def mulhE (w a b : Nat) : Nat := wrap w (sx w a * sx w b / 2 ^ w)
def minE (w a b : Nat) : Nat := if sx w a ≤ sx w b then a else b
def maxE (w a b : Nat) : Nat := if sx w a ≤ sx w b then b else a
def minuE (a b : Nat) : Nat := if a ≤ b then a else b
def maxuE (a b : Nat) : Nat := if a ≤ b then b else a
def absE (w a : Nat) : Nat := if 0 ≤ sx w a then a else subE w 0 a
def negE (w a : Nat) : Nat := subE w 0 a
def shlE (w a b : Nat) : Nat := a * 2 ^ (b % w) % 2 ^ w
def shrE (w a b : Nat) : Nat := a / 2 ^ (b % w)
def sarE (w a b : Nat) : Nat := wrap w (sx w a / 2 ^ (b % w))
def rotE (w a b : Nat) : Nat := rotl w a (b % w)

/-- The position and the length of a bit field (R71). -/
def fieldOf (w b : Nat) : Nat × Nat :=
  let k := Nat.log2 w
  (b % 2 ^ k, min (b / 2 ^ k % 2 ^ (k + 1)) (w - b % 2 ^ k))

def bfxE (w a b : Nat) : Nat := a / 2 ^ (fieldOf w b).1 % 2 ^ (fieldOf w b).2
def bfiE (w d a b : Nat) : Nat := putBits d (fieldOf w b).1 (fieldOf w b).2 a

/-- One width-split binary operation over a register (R53, R69). -/
def lane2 (op : Nat → Nat → Nat → Nat) (w : Width) (a b : Word) : Word :=
  lanes (widthBits w) fun i => op (widthBits w) (elem a i (widthBits w)) (elem b i (widthBits w))

/-- One width-split unary operation over a register (R53, R70). -/
def lane1 (op : Nat → Nat → Nat) (w : Width) (a : Word) : Word :=
  lanes (widthBits w) fun i => op (widthBits w) (elem a i (widthBits w))

/-- One accumulating operation over a register (R69, R71). -/
def lane3 (op : Nat → Nat → Nat → Nat → Nat) (w : Width) (d a b : Word) : Word :=
  lanes (widthBits w) fun i => op (widthBits w) (elem d i (widthBits w)) (elem a i (widthBits w)) (elem b i (widthBits w))

/-- `perm` (R72). -/
def permW (a b : Word) : Word :=
  lanes 8 fun j => if elem b j 8 / 128 % 2 = 1 then 0 else elem a (elem b j 8 % 8) 8

/-- `sel` (R73). -/
def selW (w : Width) (p : BitVec 8) (a b : Word) : Word :=
  lanes (widthBits w) fun i => if p.getLsbD i then elem a i (widthBits w) else elem b i (widthBits w)

/-- `cvt.i` (R74). -/
def cvtIW (u sat : Bool) (wd ws : Width) (a : Word) : Word :=
  let d := widthBits wd
  let s := widthBits ws
  ofElems (64 / max d s) d fun i =>
    let x : Int := if u then Int.ofNat (elem a i s) else sx s (elem a i s)
    let lo : Int := if u then 0 else -(2 ^ (d - 1))
    let hi : Int := if u then 2 ^ d - 1 else 2 ^ (d - 1) - 1
    wrap d (if sat && decide (d < s) then min (max x lo) hi else x)

/-- `pack` (R75). -/
def packW (w : Width) (a b : Word) : Word :=
  let s := widthBits w
  let n := 64 / s
  ofElems (2 * n) (s / 2) fun i => if i < n then elem a i s else elem b (i - n) s

/-- `unpack` (R75). -/
def unpackW (w : Width) (hi : Bool) (a : Word) : Word :=
  let d := widthBits w
  let n := 64 / d
  ofElems n d fun i => wrap d (sx (d / 2) (elem a (i + n * hi.toNat) (d / 2)))

/-- `li` (R76). -/
def liW (imm : BitVec 16) : Word := imm.signExtend 64

/-- `lih` (R76). -/
def lihW (q : Nat) (imm : BitVec 16) (d : Word) : Word := putWord d (16 * q) 16 imm.toNat

/-- An integer condition (R41, R78). -/
def condE (c : ICond) (w a b : Nat) : Bool :=
  match c with
  | .eq => a == b
  | .ne => a != b
  | .lt => decide (sx w a < sx w b)
  | .le => decide (sx w a ≤ sx w b)
  | .gt => decide (sx w b < sx w a)
  | .ge => decide (sx w b ≤ sx w a)
  | .ltu => decide (a < b)
  | .leu => decide (a ≤ b)

/-- `cmp` (R78). -/
def cmpP (c : ICond) (w : Width) (a b : Word) : BitVec 8 :=
  predOf (64 / widthBits w) fun i => condE c (widthBits w) (elem a i (widthBits w)) (elem b i (widthBits w))

/-- `cmpi` (R78). -/
def cmpiP (c : ICond) (w : Width) (a : Word) (imm : BitVec 8) : BitVec 8 :=
  predOf (64 / widthBits w) fun i => condE c (widthBits w) (elem a i (widthBits w)) (wrap (widthBits w) imm.toInt)

/-- `fcmp` (R79). -/
def fcmpP (c : FCond) (f : FWidth) (a b : Word) : BitVec 8 :=
  predOf (64 / fwBits f) fun i => fcmp1 c (fwFmt f) (elem a i (fwBits f)) (elem b i (fwBits f))

/-! ## Float elements (R81 to R85) -/

def flane1 (op : FFmt → Nat → Nat) (f : FWidth) (a : Word) : Word :=
  lanes (fwBits f) fun i => op (fwFmt f) (elem a i (fwBits f))

def flane2 (op : FFmt → Nat → Nat → Nat) (f : FWidth) (a b : Word) : Word :=
  lanes (fwBits f) fun i => op (fwFmt f) (elem a i (fwBits f)) (elem b i (fwBits f))

/-- An accumulating float operation: op a b d. -/
def flane3 (op : FFmt → Nat → Nat → Nat → Nat) (f : FWidth) (d a b : Word) : Word :=
  lanes (fwBits f) fun i => op (fwFmt f) (elem a i (fwBits f)) (elem b i (fwBits f)) (elem d i (fwBits f))

/-- A special function over a register (R85). -/
def specialW (g : Nat → Nat) (f : FWidth) (a : Word) : Word :=
  lanes (fwBits f) fun i => viaF32 f g (elem a i (fwBits f))

/-- The rounding of a code (R63); stochastic rounding takes its draw by sub-element. -/
def rmodeOf (r : Rnd) (draw : Nat) : RMode :=
  match r with
  | .rtz => .rtz
  | .rup => .rup
  | .rdn => .rdn
  | .sr => .sr draw
  | _ => .rne

/-- `fcvt` for one seat (R84, R65). -/
def fcvtW (dst src : CFmt) (r : Rnd) (seed stepCount : Word) (seat : Nat) (a : Word) : Word :=
  ofElems (64 / max (cfmtBits dst) (cfmtBits src)) (cfmtBits dst) fun i =>
    fcvt1 dst src (rmodeOf r (philoxWord seed stepCount seat i)) (elem a i (cfmtBits src))

/-! ## The 16-bit forms' widths (R86) -/

/-- The integer width of a header's W. -/
def clauseIw : ClauseW → Width
  | .d => .d | .w => .w | .h => .h | .bf => .h
/-- The float width of a header's W. -/
def clauseFw : ClauseW → FWidth
  | .d => .f64 | .w => .f32 | .h => .f16 | .bf => .bf16

end Sys2Proof.Machine
end

