-- ==== Sys2Proof/Machine/Regs.lean ====
section
/-!
DEFINITION. Access to benches and their registers: rows and renaming (R134 to R138), poison (R139, R140), uniform
registers and predicates (R6, R7, R54), flags (R31), seats and their advance (R35, R36, R130).
-/
namespace Sys2Proof.Machine

/-! ## Cores and benches -/

def getCore (s : State) (k : Nat) : Core := (lookupKey s.cores k).getD Core.reset
def putCore (s : State) (k : Nat) (c : Core) : State := { s with cores := putKey s.cores k c }

def coreBench (c : Core) (slot : Nat) : Bench := (lookupKey c.benches slot).getD Bench.reset
def getBench (s : State) (k slot : Nat) : Bench := coreBench (getCore s k) slot
def putBench (s : State) (k slot : Nat) (b : Bench) : State :=
  let c := getCore s k
  putCore s k { c with benches := putKey c.benches slot b }

/-- The bench that the selection names. -/
def cur (s : State) : Bench := getBench s s.sel.core s.sel.slot
/-- Replace the selected bench. -/
def putCur (s : State) (b : Bench) : State := putBench s s.sel.core s.sel.slot b
/-- The seats that the pass issues, in ascending order (R128). -/
def issued (s : State) : List Nat := seatsOf s.sel.seats
/-- Is the selected bench the monitor bench (R334)? -/
def onMonitor (s : State) : Bool := s.sel.slot == 64

def getSeat (b : Bench) (k : Nat) : Seat := nth b.seats k Seat.reset
def putSeat (b : Bench) (k : Nat) (x : Seat) : Bench := { b with seats := setNth b.seats k x }

/-! ## Rows (R135, R136) -/

def findRow {α : Type} (rows : List (Row α)) (r : Nat) : Option (Row α) := rows.find? fun x => x.reg == r

/-- The element of a seat; a seat whose live bit is clear reads the default (R136). -/
def rowRead {α : Type} (rows : List (Row α)) (r seat : Nat) (dflt : α) : α :=
  match findRow rows r with
  | some x => if x.live.getLsbD seat then nth x.elems seat dflt else dflt
  | none => dflt

/-- The cause of a row's poison for a seat. -/
def rowCause {α : Type} (x : Row α) (seat : Nat) : Nat := x.cause.toNat / 2 ^ (2 * seat) % 4

/-- The poison of a seat's element (R139): an element that is not live is never poisoned (R140). -/
def rowPoison {α : Type} (rows : List (Row α)) (r seat : Nat) : Option Nat :=
  match findRow rows r with
  | some x => if x.live.getLsbD seat && x.poison.getLsbD seat then some (rowCause x seat) else none
  | none => none

/-- Write one seat's element: live bit, element, poison (R136). -/
def rowSet {α : Type} (x : Row α) (seat : Nat) (v : α) (p : Option Nat) : Row α :=
  { x with
    live := x.live ||| seatBit seat
    poison := if p.isSome then x.poison ||| seatBit seat else x.poison &&& ~~~ seatBit seat
    cause := BitVec.ofNat 64 (putBits x.cause.toNat (2 * seat) 2 (p.getD 0))
    elems := setNth x.elems seat v }

def freshRow {α : Type} (r : Nat) (dflt : α) : Row α := ⟨r, 0, 0, 0, List.replicate 32 dflt⟩

/-- Write a register's elements for the given seats, allocating its row if it has none (R136). -/
def writeRows {α : Type} (rows : List (Row α)) (r : Nat) (dflt : α) (vals : List (Nat × α × Option Nat)) :
    List (Row α) :=
  let upd := fun (x : Row α) => vals.foldl (fun y v => rowSet y v.1 v.2.1 v.2.2) x
  if rows.any fun x => x.reg == r then rows.map fun x => if x.reg == r then upd x else x
  else rows ++ [upd (freshRow r dflt)]

/-- Clear the live bits of seats of a register (R137). -/
def clearLive {α : Type} (rows : List (Row α)) (r : Nat) (m : SeatMask) : List (Row α) :=
  rows.map fun x => if x.reg == r then { x with live := x.live &&& ~~~ m } else x

/-! ## Data registers -/

def readD (b : Bench) (r : DReg) (seat : Nat) : Word :=
  match r with
  | .v n => rowRead b.vrows n.val seat 0
  | .s n => (nth b.sregs n.val ⟨0, none⟩).val

def poisonD (b : Bench) (r : DReg) (seat : Nat) : Option Nat :=
  match r with
  | .v n => rowPoison b.vrows n.val seat
  | .s n => (nth b.sregs n.val ⟨0, none⟩).poison

/-- Write D (R7, R136): a v register for every seat given, an s register from the lowest of them, which come in
ascending order. -/
def writeD (b : Bench) (r : DReg) (vals : List SeatVal) : Bench :=
  match r with
  | .v n => { b with vrows := writeRows b.vrows n.val 0 vals }
  | .s n =>
    match vals with
    | [] => b
    | (_, v, p) :: _ => { b with sregs := setNth b.sregs n.val ⟨v, p⟩ }

/-! ## Capability registers -/

def readC (b : Bench) (r : CReg) (seat : Nat) : Cap :=
  if r = 0 then Cap.null else rowRead b.crows r.val seat Cap.null

def poisonC (b : Bench) (r : CReg) (seat : Nat) : Option Nat :=
  if r = 0 then none else rowPoison b.crows r.val seat

/-- Write a capability register; a write to c0 is discarded (R6). -/
def writeC (b : Bench) (r : CReg) (vals : List SeatCap) : Bench :=
  if r = 0 then b else { b with crows := writeRows b.crows r.val Cap.null vals }

/-! ## Predicates (R6, R54) -/

def readP (b : Bench) (p : PReg) (seat : Nat) : BitVec 8 :=
  if p = 0 then 0xFF else nth (nth b.preds p.val []) seat 0

def writeP (b : Bench) (p : PReg) (vals : List (Nat × BitVec 8)) : Bench :=
  if p = 0 then b
  else { b with preds := setNth b.preds p.val (vals.foldl (fun l v => setNth l v.1 v.2) (nth b.preds p.val [])) }

/-! ## Flags (R31) -/

def flagOf (b : Bench) (k : Nat) : Nat := nth b.flags k 0
def raiseFlag (b : Bench) (k : Option Nat) (n : Nat) : Bench :=
  match k with
  | some f => { b with flags := setNth b.flags f (flagOf b f + n) }
  | none => b
def lowerFlag (b : Bench) (k : Option Nat) : Bench :=
  match k with
  | some f => { b with flags := setNth b.flags f (flagOf b f - 1) }
  | none => b

/-! ## The clause header (R29) -/

/-- The header word of the clause that the issued seats are in. -/
def curHeader (s : State) : Nat := (getSeat (cur s) (lowestSeat s.sel.seats)).hdrWord.toNat
/-- W of the clause (R33). -/
def headerW (w : Nat) : ClauseW := ClauseW.ofCode (fld w 27 2)
/-- SETA or SETB of the clause; 15 is none (R29). -/
def headerFlag (w : Nat) (fb : Bool) : Option Nat :=
  let f := if fb then fld w 23 4 else fld w 19 4
  if f = 15 then none else some f
/-- N of the clause (R34). -/
def headerN (w : Nat) : Bool := fld w 29 1 == 1
/-- The flag that a long-latency instruction of the pass raises (R31). -/
def passFlag (s : State) (fb : Bool) : Option Nat := headerFlag (curHeader s) fb

/-! ## Freeing rows (R137) -/

/-- The number of the first instruction in flight that a bench awaits for a register: with the register it names the row. -/
def firstTo (s : State) (k slot : Nat) (p : Flight → Bool) : Nat :=
  match s.flights.find? fun f => f.core == k && f.slot == slot && p f with
  | some f => f.id
  | none => 0
/-- The registers of a bench that have lost their row: a load still pending to one of them keeps its row counted, but no
longer writes the register (R137). -/
def loseRows (s : State) (k slot : Nat) (vs cs : List Nat) : State :=
  { s with flights := s.flights.map fun f =>
      if f.core == k && f.slot == slot then
        { f with
          vdests := f.vdests.filter fun d => !(d.isV && vs.contains d.code)
          vlost := f.vlost ++ (f.vdests.filter fun d => d.isV && vs.contains d.code).map fun d =>
            (d, firstTo s k slot fun g => g.vdests.contains d)
          cdests := f.cdests.filter fun c => !cs.contains c.val
          clost := f.clost ++ (f.cdests.filter fun c => cs.contains c.val).map fun c =>
            (c, firstTo s k slot fun g => g.cdests.contains c) }
      else f }

/-- Free the rows whose live mask is 0 (R137). -/
def freeRows (s : State) (k slot : Nat) : State :=
  let b := getBench s k slot
  let vs := (b.vrows.filter fun x => x.live == 0).map (·.reg)
  let cs := (b.crows.filter fun x => x.live == 0).map (·.reg)
  if vs.isEmpty && cs.isEmpty then s
  else
    loseRows (putBench s k slot
      { b with
        vrows := b.vrows.filter fun x => !(x.live == 0)
        crows := b.crows.filter fun x => !(x.live == 0)
        opCache := b.opCache.filter fun r => !vs.contains r }) k slot vs cs

/-- Rows of freed registers that wait for a load (R137): each still counts once against the budget. -/
def lostV (s : State) (k slot : Nat) : Nat :=
  ((s.flights.filter fun f => f.core == k && f.slot == slot).flatMap fun f => f.vlost).eraseDups.length
def lostC (s : State) (k slot : Nat) : Nat :=
  ((s.flights.filter fun f => f.core == k && f.slot == slot).flatMap fun f => f.clost).eraseDups.length

/-! ## Advance and retirement -/

/-- A seat past an instruction of `len` bytes (R35, R36, R130); `closes` for a clause-closing instruction. -/
def pastSeat (x : Seat) (len : Nat) (closes : Bool) : Seat :=
  let pc := x.pc + BitVec.ofNat 64 len
  { x with
    pc := pc
    idx := x.idx + 1
    must := if closes then 2 else if 16 ≤ x.idx + 1 then 1 else 0
    skip := 0
    wake := none }

/-- A seat at a transfer target (R35, R90). -/
def jumpSeat (x : Seat) (target : Word) : Seat :=
  { x with pc := target, hdr := target, idx := 0, must := 3, skip := 0, wake := none }

/-- Change each issued seat. -/
def mapIssued (s : State) (b : Bench) (f : Nat → Seat → Seat) : Bench :=
  (issued s).foldl (fun b k => putSeat b k (f k (getSeat b k))) b

/-- Every issued seat moves past the instruction. -/
def advance (s : State) (closes : Bool) : State :=
  putCur s (mapIssued s (cur s) fun _ x => pastSeat x s.sel.len closes)

/-- The operand cache after a read of a register (R141). -/
def cacheUse (c : List Nat) (a : Src) : List Nat :=
  match a.reg with
  | .s _ => c
  | .v n =>
    match a.use with
    | .keep => (n.val :: c.filter (· != n.val)).take 4
    | .last => c.filter (· != n.val)
    | _ => if c.contains n.val then n.val :: c.filter (· != n.val) else c

/-- The last reads of a retiring instruction clear the live bits of the issued seats (R137). -/
def lastReads (b : Bench) (m : SeatMask) (srcs : List Src) : Bench :=
  srcs.foldl (fun b a =>
    match a.reg, a.use with
    | .v n, .last => { b with vrows := clearLive b.vrows n.val m, opCache := cacheUse b.opCache a }
    | _, _ => { b with opCache := cacheUse b.opCache a }) b

/-- The v registers that an instruction reads last. -/
def lastVs (srcs : List Src) : List Nat :=
  srcs.filterMap fun a =>
    match a.reg, a.use with
    | .v n, .last => some n.val
    | _, _ => none
/-- A blocked seat goes on past its instruction, which retires for it now (R129, R137). -/
def unblockSeat (b : Bench) (k len : Nat) (closes : Bool) : Bench :=
  let x := getSeat b k
  let b := x.due.foldl (fun b r => { b with vrows := clearLive b.vrows r (seatBit k) }) b
  putSeat b k { pastSeat x len closes with state := .eligible, due := [] }
/-- Block a seat at its instruction. -/
def blockSeat (srcs : List Src) (w : Wait) (x : Seat) : Seat :=
  { x with state := .blocked w, skip := 0, wake := none, due := lastVs srcs }
/-- Retire a pass of class W: the seats that have no wait go on, the others are blocked and retire later. -/
def retireBlocking (s : State) (srcs : List Src) (waits : Nat → Option Wait) : State :=
  let go := maskOf fun k => s.sel.seats.getLsbD k && (waits k).isNone
  let b := lastReads (cur s) go srcs
  freeRows (putCur s (mapIssued s b fun k x =>
    match waits k with
    | none => pastSeat x s.sel.len false
    | some w => blockSeat srcs w x)) s.sel.core s.sel.slot
/-- Retire a pass: last reads, the effect on the bench, the advance, and the rows that became free (R87, R137). -/
def retireWith (s : State) (srcs : List Src) (closes : Bool) (eff : Bench → Bench) : State :=
  let b := eff (lastReads (cur s) s.sel.seats srcs)
  freeRows (putCur s (mapIssued s b fun _ x => pastSeat x s.sel.len closes)) s.sel.core s.sel.slot

/-! ## Instructions in flight that end -/

/-- Values that land in a register that is still mapped: seats whose live bit has been cleared meanwhile discard theirs
(R96, R137). -/
def landRow {α : Type} (rows : List (Row α)) (r : Nat) (vals : List (Nat × α × Option Nat)) : List (Row α) :=
  rows.map fun x =>
    if x.reg == r then vals.foldl (fun y v => if y.live.getLsbD v.1 then rowSet y v.1 v.2.1 v.2.2 else y) x else x

def landD (b : Bench) (d : DReg) (vals : List SeatVal) : Bench :=
  match d with
  | .v n => { b with vrows := landRow b.vrows n.val vals }
  | .s _ => writeD b d vals

def landC (b : Bench) (c : CReg) (vals : List SeatCap) : Bench :=
  if c = 0 then b else { b with crows := landRow b.crows c.val vals }

def findFlight (s : State) (id : Nat) : Option Flight := s.flights.find? fun f => f.id == id
def dropFlight (s : State) (id : Nat) : State := { s with flights := s.flights.filter fun f => !(f.id == id) }
def putFlight (s : State) (f : Flight) : State :=
  { s with flights := s.flights.map fun x => if x.id == f.id then f else x }

/-- Change the bench of a flight, if the task that issued it still has that bench. -/
def onFlightBench (s : State) (f : Flight) (g : Bench → Bench) : State :=
  let b := getBench s f.core f.slot
  if b.task == f.task then putBench s f.core f.slot (g b) else s

/-- A flight completes: it is gone, and its flag falls by 1 if no other part of its pass is in flight (R31). -/
def endFlight (s : State) (f : Flight) : State :=
  let t := dropFlight s f.id
  if t.flights.any fun x => x.mate == f.mate then t else onFlightBench t f fun b => lowerFlag b f.flag

/-- Write data values of a flight into the registers that are still its own (R137). -/
def landData (s : State) (f : Flight) (vals : List (DReg × List SeatVal)) : State :=
  onFlightBench s f fun b =>
    vals.foldl (fun b v => if f.vdests.contains v.1 then landD b v.1 v.2 else b) b

def landCaps (s : State) (f : Flight) (vals : List (CReg × List SeatCap)) : State :=
  onFlightBench s f fun b =>
    vals.foldl (fun b v => if f.cdests.contains v.1 then landC b v.1 v.2 else b) b

end Sys2Proof.Machine
end

