-- ==== Sys2Proof/Machine/Memory.lean ====
section
/-!
DEFINITION. Storage: bytes, tags and poison (R104, R107, R246); the task's hold (R189, R202, R226); the team window
(R105, R147, R152); the objects that give a task its address space.
-/
namespace Sys2Proof.Machine

/-! ## Canonical lists -/

/-- Put a byte at an address of a rising list without zero bytes. -/
def cellPut : List Host.Cell → Nat → Byte → List Host.Cell
  | [], a, b => if b = 0 then [] else [(a, b)]
  | (x, v) :: r, a, b =>
    if a < x then (if b = 0 then (x, v) :: r else (a, b) :: (x, v) :: r)
    else if a = x then (if b = 0 then r else (a, b) :: r)
    else (x, v) :: cellPut r a b

/-- The byte at an address; an unlisted address reads as 0. -/
def cellGet : List Host.Cell → Nat → Byte
  | [], _ => 0
  | (x, v) :: r, a => if a < x then 0 else if a = x then v else cellGet r a

/-- Put a number into a rising list, or take it out. -/
def natPut : List Nat → Nat → Bool → List Nat
  | [], a, b => if b then [a] else []
  | x :: r, a, b =>
    if a < x then (if b then a :: x :: r else x :: r)
    else if a = x then (if b then x :: r else r)
    else x :: natPut r a b

/-- Put the identifiers of a line into a rising list; identifier 0 alone is not listed. -/
def viewPut : List (Nat × List Nat) → Nat → List Nat → List (Nat × List Nat)
  | [], a, b => if b = [0] then [] else [(a, b)]
  | (x, v) :: r, a, b =>
    if a < x then (if b = [0] then (x, v) :: r else (a, b) :: (x, v) :: r)
    else if a = x then (if b = [0] then r else (a, b) :: r)
    else (x, v) :: viewPut r a b

/-- Is a list of lines rising, and is none of them under identifier 0 alone? -/
def viewsWf : List (Nat × List Nat) → Bool
  | [] => true
  | [(_, v)] => v != [0]
  | (x, v) :: (y, u) :: r => v != [0] && decide (x < y) && viewsWf ((y, u) :: r)

/-- Is a list of cells rising, and is no byte of it 0? -/
def cellsWf : List Host.Cell → Bool
  | [] => true
  | [(_, v)] => v != 0
  | (x, v) :: (y, u) :: r => v != 0 && decide (x < y) && cellsWf ((y, u) :: r)

/-- Is a list of numbers rising? -/
def natsWf : List Nat → Bool
  | [] => true
  | [_] => true
  | x :: y :: r => decide (x < y) && natsWf (y :: r)

/-- The canonical form of a memory. -/
def Mem.wf (m : Mem) : Bool := cellsWf m.cells && natsWf m.tags && natsWf m.poison && viewsWf m.views

/-! ## Key identifiers (R244, R422) -/

/-- The key identifier in an address: of HBM in bits 51 to 40, of a place of a pool library above its place; elsewhere nothing is
encrypted. -/
def addrKid (a : Nat) : Nat := if a < 2 ^ 52 then a / 2 ^ 40 else if a < 2 ^ 56 then 0 else (a - 2 ^ 56) / 2 ^ 66
/-- The same storage under another key identifier. -/
def underKid (a kid : Nat) : Nat :=
  if a < 2 ^ 52 then kid * 2 ^ 40 + a % 2 ^ 40 else if a < 2 ^ 56 then a else 2 ^ 56 + kid * 2 ^ 66 + (a - 2 ^ 56) % 2 ^ 66
/-- The line of storage that holds an address, whatever its key identifier. -/
def lineKey (a : Nat) : Nat := underKid a 0 / 64
/-- The identifiers under which the line of an address stands. -/
def viewsOf (m : Mem) (a : Nat) : List Nat := ((m.views.find? fun e => e.1 == lineKey a).map (·.2)).getD [0]
/-- Does the line of an address stand under its own identifier? -/
def viewed (m : Mem) (a : Nat) : Bool := (viewsOf m a).contains (addrKid a)
/-- The line of an address stands under its own identifier alone: it is written. -/
def viewOnly (l : List (Nat × List Nat)) (a : Nat) : List (Nat × List Nat) := viewPut l (lineKey a) [addrKid a]
/-- No line stands under an identifier any more: its key is another one from now on (R244, R450). -/
def forgetKid (m : Mem) (kid : Nat) : Mem :=
  { m with views := (m.views.filter fun e => e.2.contains kid).foldl (fun l e => viewPut l e.1 (e.2.filter (· != kid))) m.views }
/-- The lines of a range stand under its identifier alone. -/
def viewRange (l : List (Nat × List Nat)) (a n : Nat) : List (Nat × List Nat) :=
  if addrKid a = 0 then l.filter fun e => decide (e.1 < a / 64) || decide ((a + n + 63) / 64 ≤ e.1)
  else (List.range ((a + n + 63) / 64 - a / 64)).foldl (fun l k => viewOnly l (a + 64 * k)) l

/-! ## Bytes, tags, poison -/

def memByte (m : Mem) (a : Nat) : Byte := cellGet m.cells a
/-- Write a byte. What stood under other identifiers in its line is lost (R244). -/
def memSetByte (m : Mem) (a : Nat) (b : Byte) : Mem := { m with cells := cellPut m.cells a b, views := viewOnly m.views a }
/-- The tag of the granule that holds an address. -/
def memTag (m : Mem) (a : Nat) : Bool := m.tags.contains (a / 16)
def memSetTag (m : Mem) (a : Nat) (t : Bool) : Mem := { m with tags := natPut m.tags (a / 16) t }
/-- The poison of the granule that holds an address. -/
def memPoison (m : Mem) (a : Nat) : Bool := m.poison.contains (a / 16)
def memSetPoison (m : Mem) (a : Nat) (p : Bool) : Mem := { m with poison := natPut m.poison (a / 16) p }

def memBytes (m : Mem) (a n : Nat) : List Byte := (List.range n).map fun k => memByte m (a + k)
def memValue (m : Mem) (a n : Nat) : Nat := valueLE (memBytes m a n)
/-- Does any byte of a range lie in a poisoned granule? -/
def memAnyPoison (m : Mem) (a n : Nat) : Bool := (List.range n).any fun k => memPoison m (a + k)

/-- The granules that a range touches, as their first addresses. -/
def granulesOf (a n : Nat) : List Nat :=
  if n = 0 then [] else (List.range ((a + n - 1) / 16 - a / 16 + 1)).map fun k => (a / 16 + k) * 16

/-- Does a range cover the whole granule at g? -/
def coversGranule (a n g : Nat) : Bool := decide (a ≤ g) && decide (g + 16 ≤ a + n)

/-- Write bytes at consecutive addresses, without a change of tags or poison. -/
def memPutBytes (m : Mem) (a : Nat) (bs : List Byte) : Mem :=
  (bs.foldl (fun (p : Mem × Nat) b => (memSetByte p.1 p.2 b, p.2 + 1)) (m, a)).1

/-- Clear the tags of the granules a store touches, and set their poison as R107 says. -/
def memTouch (m : Mem) (a n : Nat) (poisoned : Bool) : Mem :=
  (granulesOf a n).foldl (fun m g =>
    let m := memSetTag m g false
    if poisoned then memSetPoison m g true else if coversGranule a n g then memSetPoison m g false else m) m

/-- A store of data (R104, R107): a poisoned store poisons the granules and still writes no byte beyond its own. -/
def memStore (m : Mem) (a : Nat) (bs : List Byte) (poisoned : Bool) : Mem :=
  memTouch (memPutBytes m a bs) a bs.length poisoned

/-- A store of a capability to an aligned granule (R318). -/
def memStoreCap (m : Mem) (a : Nat) (c : Cap) (poisoned : Bool) : Mem :=
  memSetPoison (memSetTag (memPutBytes m a (capBytes c)) a (c.tag && !poisoned)) a poisoned

/-- The same bytes, tags and poison, cleared over a range (R149). -/
def memClear (m : Mem) (a n : Nat) : Mem :=
  { cells := m.cells.filter fun c => decide (c.1 < a) || decide (a + n ≤ c.1)
    tags := m.tags.filter fun g => decide (g * 16 < a) || decide (a + n ≤ g * 16)
    poison := m.poison.filter fun g => decide (g * 16 < a) || decide (a + n ≤ g * 16)
    views := viewRange m.views a n }

/-- The part of a memory in a range, moved to begin at 0. -/
def memSlice (m : Mem) (a n : Nat) : Mem :=
  { cells := (m.cells.filter fun c => decide (a ≤ c.1) && decide (c.1 < a + n)).map fun c => (c.1 - a, c.2)
    tags := (m.tags.filter fun g => decide (a ≤ g * 16) && decide (g * 16 < a + n)).map fun g => g - a / 16
    poison := (m.poison.filter fun g => decide (a ≤ g * 16) && decide (g * 16 < a + n)).map fun g => g - a / 16
    views := [] }

/-- Write a slice over the range that begins at a. -/
def memPaste (m : Mem) (a n : Nat) (x : Mem) : Mem :=
  let m := x.cells.foldl (fun m c => memSetByte m (a + c.1) c.2) (memClear m a n)
  let m := x.tags.foldl (fun m g => memSetTag m (a + g * 16) true) m
  x.poison.foldl (fun m g => memSetPoison m (a + g * 16) true) m

/-! ## Physical memory -/

/-- Is the address in the management space (R452) or in a hotness ring (R251), which only host harts reach? -/
def isMgmt (pa : Nat) : Bool :=
  (decide (0x00C0000000000000 ≤ pa) && decide (pa < 0x00C0000000010000)) ||
    (decide (0x00C0000100000000 ≤ pa) && decide (pa < 0x00C0000100400000))

/-- The number of the 4 KiB of storage that hold an address. -/
def frameNo (pa : Nat) : Nat := underKid pa 0 / 4096
/-- Set the tag summary bit of a 4 KiB frame (R364). -/
def summarise (s : State) (pa : Nat) : State := { s with tagSummary := natPut s.tagSummary (frameNo pa) true }
/-- A line of free bytes. -/
def freeLine (draws base : Nat) (l : List Host.Cell) : List Host.Cell :=
  (List.range 64).foldl (fun l j =>
    cellPut l (base + j) (BitVec.ofNat 8 ((Config.freeValue (draws + j / 8)).toNat / 2 ^ (8 * (j % 8))))) l
/-- The tags and poison of a line as another one has them. -/
def copyBits (m : Mem) (src dst : Nat) : Mem :=
  [0, 16, 32, 48].foldl (fun m g => memSetPoison (memSetTag m (dst + g) (memTag m (src + g))) (dst + g) (memPoison m (src + g))) m
/-- The line of an address is read under an identifier under which it was not written: its bytes are free values from then on, until it is
written under another one; tags and poison, which are not encrypted, are the line's own (R244, R245; log 119). -/
def openView (s : State) (a : Nat) : State :=
  if viewed s.mem a then s
  else
    let base := alignDown a 64
    let m := copyBits { s.mem with cells := freeLine s.draws base s.mem.cells } (underKid base ((viewsOf s.mem a).headD 0)) base
    { s with mem := { m with views := viewPut m.views (lineKey a) (viewsOf s.mem a ++ [addrKid a]) }, draws := s.draws + 8 }
/-- The same for the lines of several addresses. -/
def openViews (s : State) (pas : List Nat) : State := pas.foldl openView s

def physBytes (s : State) (pa n : Nat) : List Byte := if isMgmt pa then List.replicate n 0 else memBytes s.mem pa n
/-- A store of data to physical memory. The management space takes no store of a seat, a copy or a hub (R452). -/
def physStore (s : State) (pa : Nat) (bs : List Byte) (poisoned : Bool) : State :=
  if isMgmt pa then s else { s with mem := memStore s.mem pa bs poisoned }
def physStoreCap (s : State) (pa : Nat) (c : Cap) (poisoned : Bool) : State :=
  if isMgmt pa then s
  else
    let s := { s with mem := memStoreCap s.mem pa c poisoned }
    if c.tag && !poisoned then summarise s pa else s
def physValue (s : State) (pa n : Nat) : Nat := valueLE (physBytes s pa n)

/-! ## Objects -/

def findObj (s : State) (type num : Nat) : Option Obj := s.objs.find? fun o => o.type == type && o.num == num
def putObj (s : State) (o : Obj) : State :=
  { s with objs := s.objs.map fun x => if x.type == o.type && x.num == o.num then o else x }
def setObjData (s : State) (type num : Nat) (d : ObjData) : State :=
  match findObj s type num with
  | some o => putObj s { o with data := d }
  | none => s

def ASpace.none_ : ASpace := ⟨0, 0, 0, Cap.null, Cap.null, Cap.null, 0, 0, 0, 0, none⟩
def NodeObj.none_ : NodeObj :=
  ⟨0, 15, false, false, 0, 0, 16, 1, 0, 1, 1, 16, 0, Cap.null, List.replicate 16 Cap.null, 0, 0, 0, 1, 1, 1, 0, [], 0⟩
def GraphObj.none_ : GraphObj := ⟨0, [], [], Cap.null, Cap.null, 0, List.replicate 10 0, [], none⟩
def CodeObj.none_ : CodeObj := ⟨Cap.null, 0, 0, 0, 0, []⟩

def graphOf (s : State) (g : Nat) : GraphObj :=
  match findObj s 967 g with
  | some { data := .graph x, .. } => x
  | _ => GraphObj.none_
def nodeObjOf (s : State) (n : Nat) : NodeObj :=
  match findObj s 968 n with
  | some { data := .node x, .. } => x
  | _ => NodeObj.none_
def codeOf (s : State) (n : Nat) : CodeObj :=
  match findObj s 973 n with
  | some { data := .code x, .. } => x
  | _ => CodeObj.none_
def aspaceObj (s : State) (n : Nat) : ASpace :=
  match findObj s 962 n with
  | some { data := .aspace x, .. } => x
  | _ => ASpace.none_

/-! ## Tasks -/

def findTask (s : State) (id : Word) : Option Task := s.tasks.find? fun t => t.id == id
def putTask (s : State) (t : Task) : State := { s with tasks := s.tasks.map fun x => if x.id == t.id then t else x }
def dropTask (s : State) (id : Word) : State := { s with tasks := s.tasks.filter fun x => !(x.id == id) }

def Task.none_ : Task :=
  ⟨0, 0, 0, 0, 0, 0, 0, [], .pool, [], false, false, 0, [], [], [], [], [], 0, none, [], 0, [], [], [], 0, 0, [], [], [], [], [], [], none, false⟩

/-- The task of the selected bench. -/
def curTask (s : State) : Task := (findTask s (cur s).task).getD Task.none_
/-- The node of a task within its graph (R281). -/
def taskNode (s : State) (t : Task) : NodeObj := nodeObjOf s (nth (graphOf s t.graph).nodes t.node 0)
def taskCode (s : State) (t : Task) : CodeObj := codeOf s (taskNode s t).code
/-- The number of the address space object in which a task runs (R352). -/
def taskSpaceNum (s : State) (t : Task) : Nat := (taskCode s t).aspace
def taskSpace (s : State) (t : Task) : ASpace := aspaceObj s (taskSpaceNum s t)
/-- The number of cores of the team (R100). -/
def teamN (t : Task) : Nat := t.cores.length

def TaskCore.none_ : TaskCore := ⟨0, 0, [], 0, [], [], []⟩
def taskCore (t : Task) (k : Nat) : TaskCore := nth t.cores k TaskCore.none_
def putTaskCore (t : Task) (k : Nat) (c : TaskCore) : Task := { t with cores := setNth t.cores k c }
/-- The team core that a physical core was placed as. -/
def coreTOf (t : Task) (phys : Nat) : Nat := (t.cores.findIdx? fun c => c.phys == phys).getD 0
/-- CORE_T as a core's own team map gives it: the lowest entry that names the core (R339). DESIGN CHOICE (log 113): where no entry names
it, its number at placement. -/
def mapCoreT (t : Task) (phys : Nat) : Nat :=
  ((taskCore t (coreTOf t phys)).map.findIdx? fun e => e.1 == phys).getD (coreTOf t phys)
/-- The team core that the selected bench was placed as. -/
def curCoreT (s : State) : Nat := coreTOf (curTask s) s.sel.core
/-- The thread that a seat of the selected bench is (R123). -/
def threadOf (s : State) (seat : Nat) : Thread := ⟨curCoreT s, (cur s).benchT, seat⟩

/-- The bench of a thread: its core and slot, if its task is placed. -/
def benchOfThread (s : State) (t : Task) (th : Thread) : Option (Nat × Nat) :=
  let c := (taskCore t th.coreT).phys
  ((getCore s c).benches.find? fun e => decide (e.1 ≠ 64) && e.2.task == t.id && e.2.benchT == th.benchT).map
    fun e => (c, e.1)

/-! ## The hold (R189) -/

def HoldLine.fresh (line : Nat) : HoldLine :=
  ⟨line, 0, 0, List.replicate 4 none, List.replicate 4 none, 0⟩

/-- One held byte written into a line. -/
def lineByte (l : HoldLine) (k : Nat) (b : Byte) : HoldLine :=
  { l with
    mask := l.mask ||| BitVec.ofNat 64 (2 ^ k)
    data := BitVec.ofNat 512 (putBits l.data.toNat (8 * k) 8 b.toNat) }

/-- Change the line that holds an address, making it if it is not held. -/
def onLine (h : List HoldLine) (va : Nat) (f : HoldLine → HoldLine) : List HoldLine :=
  if h.any fun l => l.line == va / 64 then h.map fun l => if l.line == va / 64 then f l else l
  else h ++ [f (HoldLine.fresh (va / 64))]

/-- The held byte of an address. -/
def holdByte (h : List HoldLine) (va : Nat) : Option Byte :=
  match h.find? fun l => l.line == va / 64 with
  | some l => if l.mask.getLsbD (va % 64) then some (BitVec.ofNat 8 (l.data.toNat / 2 ^ (8 * (va % 64)))) else none
  | none => none

/-- The held tag of the granule of an address. -/
def holdTag (h : List HoldLine) (va : Nat) : Option Bool :=
  match h.find? fun l => l.line == va / 64 with
  | some l => nth l.tags (va / 16 % 4) none
  | none => none

/-- The held poison of the granule of an address. -/
def holdPoison (h : List HoldLine) (va : Nat) : Option Bool :=
  match h.find? fun l => l.line == va / 64 with
  | some l => nth l.poison (va / 16 % 4) none
  | none => none

/-- A store into the hold (R104, R107, R318): bytes, the tag of a whole granule, poison. -/
def holdStore (h : List HoldLine) (va : Nat) (bs : List Byte) (tag poisoned : Bool) (bell : Word) : List HoldLine :=
  let h := (bs.foldl (fun (p : List HoldLine × Nat) b => (onLine p.1 p.2 fun l => lineByte l (p.2 % 64) b, p.2 + 1))
    (h, va)).1
  (granulesOf va bs.length).foldl (fun h g =>
    onLine h g fun l =>
      { l with
        tags := setNth l.tags (g / 16 % 4) (some (tag && !poisoned))
        poison := if poisoned then setNth l.poison (g / 16 % 4) (some true)
          else if coversGranule va bs.length g then setNth l.poison (g / 16 % 4) (some false) else l.poison
        last := bell }) h

/-- The lines that a store touches. -/
def linesOf (va n : Nat) : List Nat :=
  if n = 0 then [] else (List.range ((va + n - 1) / 64 - va / 64 + 1)).map fun k => va / 64 + k

/-- Lay a newer line over an older one (R189, R192). -/
def mergeLine (old new : HoldLine) : HoldLine :=
  let l := (List.range 64).foldl (fun l k =>
    if new.mask.getLsbD k then lineByte l k (BitVec.ofNat 8 (new.data.toNat / 2 ^ (8 * k))) else l) old
  { l with
    tags := List.zipWith (fun (a b : Option Bool) => b.orElse fun _ => a) old.tags new.tags
    poison := List.zipWith (fun (a b : Option Bool) => b.orElse fun _ => a) old.poison new.poison
    last := new.last }

/-- Move a line from a core part to the die part (R189). -/
def drainLine (t : Task) (k line : Nat) : Task :=
  let c := taskCore t k
  match c.hold.find? fun l => l.line == line with
  | none => t
  | some l =>
    let die := if t.dieHold.any fun x => x.line == line then t.dieHold.map fun x => if x.line == line then mergeLine x l else x
      else t.dieHold ++ [l]
    putTaskCore { t with dieHold := die } k { c with hold := c.hold.filter fun x => !(x.line == line) }

/-- Drain a whole core part. -/
def drainCore (t : Task) (k : Nat) : Task := ((taskCore t k).hold.map (·.line)).foldl (fun t l => drainLine t k l) t
/-- Drain every core part (R202). -/
def drainAll (t : Task) : Task := (List.range t.cores.length).foldl drainCore t
/-- Drain one line from every core part (R191). -/
def drainLineAll (t : Task) (line : Nat) : Task :=
  (List.range t.cores.length).foldl (fun t k => drainLine t k line) t

/-- The distinct lines that a task holds (R310). -/
def heldLines (t : Task) : List Nat :=
  ((t.cores.flatMap fun c => c.hold.map (·.line)) ++ t.dieHold.map (·.line)).eraseDups
/-- The size of a task's hold in bytes (R310). -/
def holdSize (t : Task) : Nat :=
  64 * (heldLines t).length + t.heldRecs.foldl (fun n r => n + r.data.bytes.length) 0

/-- One byte of global memory as a thread on a team core sees it (R189): the core part, the die part, memory. -/
def viewByte (s : State) (t : Task) (k va pa : Nat) : Byte :=
  match holdByte (taskCore t k).hold va with
  | some b => b
  | none =>
    match holdByte t.dieHold va with
    | some b => b
    | none => if isMgmt pa then 0 else memByte s.mem pa

def viewPoison (s : State) (t : Task) (k va pa : Nat) : Bool :=
  match holdPoison (taskCore t k).hold va with
  | some b => b
  | none =>
    match holdPoison t.dieHold va with
    | some b => b
    | none => memPoison s.mem pa

def viewTag (s : State) (t : Task) (k va pa : Nat) : Bool :=
  match holdTag (taskCore t k).hold va with
  | some b => b
  | none =>
    match holdTag t.dieHold va with
    | some b => b
    | none => memTag s.mem pa

/-! ## The team window (R105, R147) -/

/-- The end of the team scratchpad window (R105). -/
def windowEnd : Nat := 0x2000000
/-- The allocation size of a task (R147). -/
def allocSize (s : State) (t : Task) : Nat := 2 ^ (taskNode s t).spadLog
/-- The team core that a window address names. -/
def winCore (a : Nat) : Nat := a / 0x80000
/-- The byte offset in that core's allocation. -/
def winOff (a : Nat) : Nat := a % 0x80000
/-- The physical core and scratchpad address of a window address, through the map of team core k (R152). -/
def winPlace (t : Task) (k a : Nat) : Nat × Nat :=
  let e := nth (taskCore t k).map (winCore a) (0, 0)
  (e.1, e.2 + winOff a)

def winByte (s : State) (t : Task) (k a : Nat) : Byte :=
  let p := winPlace t k a
  memByte (getCore s p.1).spad p.2
def winPoison (s : State) (t : Task) (k a : Nat) : Bool :=
  let p := winPlace t k a
  memPoison (getCore s p.1).spad p.2
def winTag (s : State) (t : Task) (k a : Nat) : Bool :=
  let p := winPlace t k a
  memTag (getCore s p.1).spad p.2
def winBytes (s : State) (t : Task) (k a n : Nat) : List Byte := (List.range n).map fun i => winByte s t k (a + i)

/-- Change the scratchpad of a core. -/
def onSpad (s : State) (c : Nat) (f : Mem → Mem) : State :=
  let x := getCore s c
  putCore s c { x with spad := f x.spad }

/-- A store of data to the window: each part goes to the core its address names (R105). -/
def winStore (s : State) (t : Task) (k a : Nat) (bs : List Byte) (poisoned : Bool) : State :=
  let first := min bs.length (0x80000 - winOff a)
  let p := winPlace t k a
  let s := onSpad s p.1 fun m => memStore m p.2 (bs.take first) poisoned
  if first < bs.length then
    let q := winPlace t k (a + first)
    onSpad s q.1 fun m => memStore m q.2 (bs.drop first) poisoned
  else s

/-- A store of a capability to the window (R318). -/
def winStoreCap (s : State) (t : Task) (k a : Nat) (c : Cap) (poisoned : Bool) : State :=
  let p := winPlace t k a
  onSpad s p.1 fun m => memStoreCap m p.2 c poisoned

/-- The staged granules, not yet landed, that a window range touches: team core and granule offset (R151). -/
def winWaiting (t : Task) (a n : Nat) : List (Nat × Nat) :=
  (granulesOf a n).filterMap fun g =>
    if (taskCore t (winCore g)).staging.any fun e => e.waiting.contains (winOff g) then some (winCore g, winOff g)
    else none

/-! ## What a thread sees -/

/-- What stands at a place: bytes, tag of its first granule, poison (R103, R107). -/
structure Seen where
  bytes : List Byte
  tag : Bool
  poison : Bool
  deriving DecidableEq, Repr

def seeWindow (s : State) (t : Task) (k a n : Nat) : Seen :=
  ⟨winBytes s t k a n, winTag s t k a, (List.range n).any fun i => winPoison s t k (a + i)⟩
def seeMem (s : State) (t : Task) (k a : Nat) (pas : List Nat) : Seen :=
  ⟨(List.range pas.length).map fun i => viewByte s t k (a + i) (nth pas i 0), viewTag s t k a (nth pas 0 0),
    (List.range pas.length).any fun i => viewPoison s t k (a + i) (nth pas i 0)⟩

/-- The task of a flight as it now stands. -/
def flightTask (s : State) (f : Flight) : Task := (findTask s f.task).getD Task.none_
/-- The team core of a flight. -/
def flightCoreT (s : State) (f : Flight) : Nat := coreTOf (flightTask s f) f.core

end Sys2Proof.Machine
end

