-- ==== Sys2Proof/Machine/Translate.lean ====
section
/-!
DEFINITION. From a virtual address to a byte (R220 to R229, R239 to R242, R422 to R423): the choice of the path, the
heap triple, the carve window, the Sv57 walk with its leases, and the translation structures.
-/
namespace Sys2Proof.Machine

/-! ## The choice of the path (R220) -/

/-- The paths of an access without REMOTE outside the team window (R220). -/
inductive Path where
  | window | carve | heap | paged
  deriving DecidableEq, Repr

def carveBase : Nat := 0x00FFF00000000000
def carveEnd : Nat := 0x00FFF00100000000

/-- The path of one address (R220). -/
def pathAt (sp : ASpace) (a : Nat) : Path :=
  if a < windowEnd then .window
  else if carveBase ≤ a ∧ a < carveEnd then .carve
  else if sp.hspan ≠ 0 ∧ sp.hbase.toNat ≤ a ∧ a < sp.hbase.toNat + sp.hspan.toNat then .heap
  else .paged

/-- The addresses at which the path can change (R220). -/
def pathEdges (sp : ASpace) : List Nat :=
  [windowEnd, carveBase, carveEnd] ++
    (if sp.hspan = 0 then [] else [sp.hbase.toNat, sp.hbase.toNat + sp.hspan.toNat])

/-- The one path of a range, or none if its bytes would take different paths (R220). -/
def pathOf (sp : ASpace) (a n : Nat) : Option Path :=
  if (pathEdges sp).any fun e => decide (a < e) && decide (e < a + n) && pathAt sp (e - 1) != pathAt sp e then none
  else some (pathAt sp a)

/-! ## Translation failures -/

/-- Why a translation fails: HEAP_LIMIT with its sub-code (R220, R221); PAGE_FAULT with its sub-code (R225); a fetch
from a page without X (R37); a carve way without a live owner (R242); a pool segment whose library has no live link
(R431); an access that stays pending: a store to a
page under migration (R216), or carve storage that a grow is taking (R240). -/
inductive TransErr where
  | heap (sub : Nat)
  | page (sub : Nat)
  | noexec
  | carve
  | poolDown (lib : Nat)
  | migrate
  deriving DecidableEq, Repr

/-! ## The Sv57 walk (R224, R225) -/

/-- A page table entry's fields. -/
def pteBit (p i : Nat) : Bool := p / 2 ^ i % 2 == 1
def ptePpn (p : Nat) : Nat := p / 2 ^ 10 % 2 ^ 44
/-- The lease class (R227). -/
def pteRsw (p : Nat) : Nat := p / 2 ^ 8 % 4

/-- Bits [63:57] copy bit 56 (R225). -/
def canonical (va : Nat) : Bool := va / 2 ^ 56 == 0 || va / 2 ^ 56 == 0xFF

/-- The virtual page number at a level. -/
def vpn (va level : Nat) : Nat := va / 2 ^ (12 + 9 * level) % 512

/-- Does a leaf forbid the access (R224, R225)? A fetch without X is NOEXEC before all else. The other sub-codes have no order in the
spec; DESIGN CHOICE (log 46): NO_USER, then NO_READ, then NO_WRITE. -/
def leafDenies (p : Nat) (acc : Access) : Option TransErr :=
  match acc with
  | .fetch => if !pteBit p 3 then some .noexec else if pteBit p 4 then none else some (.page 4)
  | .load => if !pteBit p 4 then some (.page 4) else if pteBit p 1 then none else some (.page 2)
  | .store => if !pteBit p 4 then some (.page 4) else if pteBit p 2 then none else some (.page 3)
  | .rmw =>
    if !pteBit p 4 then some (.page 4)
    else if !pteBit p 1 then some (.page 2) else if pteBit p 2 then none else some (.page 3)

/-- Is an entry malformed (R224, R225)? Reserved bits [60:54], PBMT [62:61] and Svnapot [63] set; W without R; D, A or U
in an entry that is no leaf; a leaf at level 4; a misaligned superpage. -/
def pteMalformed (p level : Nat) : Bool :=
  let leaf := pteBit p 1 || pteBit p 3
  p / 2 ^ 54 != 0 || (pteBit p 2 && !pteBit p 1) || (!leaf && (pteBit p 4 || pteBit p 6 || pteBit p 7)) ||
    (leaf && (level == 4 || ptePpn p % 2 ^ (9 * level) != 0))

/-- What a walk found: the leaf entry, its address and level, and the non-leaf entries passed. -/
structure WalkHit where
  pte : Nat
  at_ : Nat
  level : Nat
  passed : List (Nat × Nat)
  deriving DecidableEq, Repr

/-- The walk from a table at a level downward (R224); fuel is the level. `passed` collects level and entry. -/
def walkFrom (s : State) (va : Nat) (acc : Access) : Nat → Nat → List (Nat × Nat) → Except TransErr WalkHit
  | level, table, passed =>
    let a := table * 4096 + 8 * vpn va level
    let p := memValue s.mem a 8
    if memAnyPoison s.mem a 8 then .error (.page 7)
    else if !pteBit p 0 then .error (.page 1)
    else if pteMalformed p level then .error (.page 5)
    else if pteBit p 1 || pteBit p 3 then
      match leafDenies p acc with
      | some e => .error e
      | none => .ok ⟨p, a, level, passed⟩
    else
      match level with
      | 0 => .error (.page 1)
      | l + 1 => walkFrom s va acc l (ptePpn p) (passed ++ [(l + 1, p)])

/-- The lease of a class in nanoseconds (R227, R228). -/
def leaseOf (s : State) (cls : Nat) : Nat :=
  match cls with
  | 0 => s.mgmt.lease0.toNat
  | 1 => s.mgmt.lease1.toNat
  | 2 => s.mgmt.lease2.toNat
  | _ => 0

/-- Does an entry of a translation structure serve an address of a space now (R229)? -/
def tlbServes (s : State) (asn va : Nat) (e : TlbEntry) : Bool :=
  e.asn == asn && decide (e.base ≤ va) && decide (va < e.base + e.size) && decide (s.bell < e.expiry)

/-- Entries valid for an access: a write needs D, which the walker sets (R224). -/
def tlbAllows (e : TlbEntry) (acc : Access) : Bool :=
  match acc with
  | .store => pteBit e.flags 7 || !pteBit e.flags 2
  | .rmw => pteBit e.flags 7 || !pteBit e.flags 2
  | _ => true

/-- The die of a core. -/
def dieOf (core : Nat) : Nat := core / Config.coresPerDie

/-- A free choice between n things (R129, R223): the model's own draw. -/
def draw (s : State) (n : Nat) : Nat × State := (Config.pick s.draws % n, { s with draws := s.draws + 1 })

/-- The physical address that an entry gives. -/
def tlbPa (e : TlbEntry) (va : Nat) : Nat := e.frame + (va - e.base)

/-- An entry for a walked leaf (R227, R229); `cap` bounds the expiry by a walk cache entry. -/
def leafEntry (s : State) (asn va : Nat) (h : WalkHit) (cap : Option Word) : TlbEntry :=
  let size := 2 ^ (12 + 9 * h.level)
  let lease := leaseOf s (pteRsw h.pte)
  let e := s.bell + BitVec.ofNat 64 lease
  ⟨asn, alignDown va size, size, ptePpn h.pte * 4096, h.pte, match cap with
    | some c => if c.toNat < e.toNat then c else e
    | none => e⟩

/-- Is a unit discarding its entries (R233)? -/
def isSkewed (s : State) (u : TlbUnit) : Bool := s.skewed.contains u
/-- Does the result of a core's walk serve its access only (R233)? -/
def walksSkewed (s : State) (core : Nat) : Bool := isSkewed s (.core core) || isSkewed s (.die (dieOf core))

/-- Install an entry in the core's cache and the die's TLB (R223); what class 11 and skewed units walk nothing keeps (R227, R233). -/
def tlbInstall (s : State) (core : Nat) (e : TlbEntry) : State :=
  if pteRsw e.flags = 3 || walksSkewed s core then s
  else
    let c := getCore s core
    let s := putCore s core { c with tlb := (e :: c.tlb).take 128 }
    let d := dieOf core
    { s with dieTlb := putKey s.dieTlb d ((e :: (lookupKey s.dieTlb d).getD []).take 16384) }

/-- Set A, and D on a write, in the leaf entry in memory (R224). -/
def setAD (s : State) (h : WalkHit) (acc : Access) : State × WalkHit :=
  let dirty := match acc with
    | .store => true
    | .rmw => true
    | _ => false
  let p := Nat.lor (Nat.lor h.pte (2 ^ 6)) (if dirty then 2 ^ 7 else 0)
  if p = h.pte then (s, h)
  else ({ s with mem := memStore s.mem h.at_ (bytesLE 8 p) false }, { h with pte := p })

/-- The deepest walk cache entry that a free choice lets a core's walk start from (R223, R227). -/
def walkStart (s : State) (core : Nat) (sp : ASpace) (va : Nat) : (Nat × Nat × Option Word) × State :=
  let es := ((lookupKey s.walkCache (dieOf core)).getD []).filter fun e =>
    e.asn == sp.asn && e.prefixV == va / 2 ^ (12 + 9 * (e.level + 1)) && decide (s.bell < e.expiry)
  if es.isEmpty || walksSkewed s core then ((4, sp.root.toNat / 4096, none), s)
  else
    let (k, s) := draw s (es.length + 1)
    match es[k]? with
    | some e => ((e.level, e.table, some e.expiry), s)
    | none => ((4, sp.root.toNat / 4096, none), s)

/-- Keep the non-leaf entries of a core's walk (R223, R227). -/
def walkKeep (s : State) (core asn va : Nat) (passed : List (Nat × Nat)) : State :=
  let die := dieOf core
  if walksSkewed s core then s
  else
    let es := passed.filterMap fun x =>
      if pteRsw x.2 = 3 then none
      else some (⟨asn, pteRsw x.2, x.1 - 1, va / 2 ^ (12 + 9 * x.1), ptePpn x.2, s.bell + BitVec.ofNat 64 (leaseOf s (pteRsw x.2))⟩ : WalkEntry)
    { s with walkCache := putKey s.walkCache die ((es ++ (lookupKey s.walkCache die).getD []).take 2048) }

/-- A walk, with its effects on the table and the translation structures (R224 to R229). -/
def walk (s : State) (core : Nat) (sp : ASpace) (va : Nat) (acc : Access) : Except TransErr (TlbEntry × State) :=
  if !canonical va then .error (.page 6)
  else
    match walkStart s core sp va with
    | ((level, table, cap), s1) =>
      match walkFrom s1 va acc level table [] with
      | .error e => .error e
      | .ok h =>
        match setAD s1 h acc with
        | (s2, h') =>
          let e := leafEntry s2 sp.asn va h' cap
          .ok (e, tlbInstall (walkKeep s2 core sp.asn va h'.passed) core e)

/-- Does an access write? -/
def accWrites : Access → Bool
  | .store => true
  | .rmw => true
  | _ => false

/-- Is the page of an address under migration, with its permission to write withdrawn: does the agenda hold the migration of a
page that may be written otherwise (R216, R248)? -/
def migrating (s : State) (sp : ASpace) (va : Nat) : Bool :=
  s.agenda.any fun e =>
    match e with
    | .pageMigration asn a frame =>
      frame.writable && asn == sp.asn &&
        match walkFrom s va .load 4 (sp.root.toNat / 4096) [] with
        | .ok h => va / 2 ^ (12 + 9 * h.level) == a.toNat / 2 ^ (12 + 9 * h.level)
        | .error _ => false
    | _ => false

/-- The entries that serve an address for a core (R223, R229). A skewed core uses none, and a skewed die TLB gives none (R233). -/
def tlbFor (s : State) (core asn va : Nat) : List TlbEntry :=
  let own := if isSkewed s (.core core) then [] else (getCore s core).tlb
  let die := if walksSkewed s core then [] else (lookupKey s.dieTlb (dieOf core)).getD []
  (own ++ die).filter (tlbServes s asn va)
/-- Paged translation of one address (R223, R229): by an entry that a free choice takes, or by a walk. -/
def translatePaged (s : State) (core : Nat) (sp : ASpace) (va : Nat) (acc : Access) :
    Except TransErr (Nat × State) :=
  let es := (tlbFor s core sp.asn va).filter fun e => tlbAllows e acc
  let viaWalk := fun (s : State) =>
    match walk s core sp va acc with
    | .error e => Except.error e
    | .ok (e, s') => .ok (tlbPa e va, s')
  if accWrites acc && migrating s sp va then .error .migrate
  else if es.isEmpty then viaWalk s
  else
    let (k, s') := draw s (es.length + 1)
    match es[k]? with
    | some e =>
      match leafDenies e.flags acc with
      | some x => .error x
      | none => .ok (tlbPa e va, s')
    | none => viaWalk s'

/-! ## Carve and pool -/

/-- Is a way of a hub owned by a live carve object (R239, R242)? -/
def carveOwned (s : State) (hub way : Nat) : Bool :=
  s.objs.any fun o => !o.dead &&
    match o.data with
    | .carve h w0 n _ _ _ => h == hub && decide (w0 ≤ way) && decide (way < w0 + n)
    | _ => false

/-- Is a way being taken by a grow that has not completed (R240)? -/
def carveTaking (s : State) (hub way : Nat) : Bool :=
  s.objs.any fun o => !o.dead &&
    match o.data with
    | .carve h w0 n _ _ (some m) => h == hub && decide (w0 + n ≤ way) && decide (way < w0 + m)
    | _ => false

/-- The carve path (R220, R242); an access to storage that a grow is taking stalls (R240). -/
def translateCarve (s : State) (a : Nat) : Except TransErr Nat :=
  let o := a - carveBase
  if carveOwned s (o / 0x10000000) (o / 0x1000000 % 16) then .ok (0x0080000000000000 + o)
  else if carveTaking s (o / 0x10000000) (o / 0x1000000 % 16) then .error .migrate
  else .error .carve

/-- Is a library linked (R421)? -/
def libLinked (s : State) (lib : Nat) : Bool := s.links.any fun l => l.lib == lib && l.live

/-- Something waits for the link of a pool library (R431). -/
def poolWaitFor (s : State) (who : PoolWaiter) (lib : Nat) : State :=
  if s.poolWaits.any fun w => w.who == who && w.lib == lib then s
  else { s with poolWaits := s.poolWaits ++ [⟨s.nextId, who, lib, s.bell + 50000⟩], nextId := s.nextId + 1 }
/-- A task waits for it, on a core if one is known. -/
def poolWait (s : State) (task : Word) (core : Option Nat) (lib : Nat) : State := poolWaitFor s (.task task core) lib

/-- What a pool address meets (R423, R431); an address outside the pool window meets nothing. -/
def poolCheck (s : State) (pa : Nat) : Option TransErr :=
  if pa / 2 ^ 52 % 2 = 0 then none
  else
    let r := (nth s.mgmt.poolseg (pa / 2 ^ 34 % 64) 0).toNat
    if pa / 2 ^ 53 % 8 ≠ 0 ∨ r / 2 ^ 63 = 0 then some (.page 5)
    else if libLinked s (r / 2 ^ 36 % 4096) then none else some (.poolDown (r / 2 ^ 36 % 4096))

/-- Where an address of the pool window lies (R422, R423): at a place of its library, above every physical address, under its key
identifier; any other address is its own place. -/
def poolPlace (s : State) (pa : Nat) : Nat :=
  if pa / 2 ^ 52 % 2 = 0 then pa
  else
    let r := (nth s.mgmt.poolseg (pa / 2 ^ 34 % 64) 0).toNat
    2 ^ 56 + ((pa / 2 ^ 40 % 4096 * 4096 + r / 2 ^ 36 % 4096) * 2 ^ 20 + r % 2 ^ 20) * 2 ^ 34 + pa % 2 ^ 34

/-- The place of one address outside the team window (R220). `hlimit` is the bench's copy (R222). -/
def placeOf (s : State) (core : Nat) (sp : ASpace) (hlimit : Word) (a : Nat) (acc : Access) :
    Except TransErr (Nat × State) :=
  match pathAt sp a with
  | .heap =>
    if a < sp.hbase.toNat + hlimit.toNat then .ok ((a + sp.hoff.toNat) % 2 ^ 64, s) else .error (.heap 1)
  | .carve =>
    match translateCarve s a with
    | .ok pa => .ok (pa, s)
    | .error e => .error e
  | _ =>
    match translatePaged s core sp a acc with
    | .error e => .error e
    | .ok (pa, s') =>
      match poolCheck s' pa with
      | some e => .error e
      | none => .ok (poolPlace s' pa, s')
/-- Translate one address: its line stands under the key identifier of its place from then on (R244). -/
def translate1 (s : State) (core : Nat) (sp : ASpace) (hlimit : Word) (a : Nat) (acc : Access) :
    Except TransErr (Nat × State) :=
  match placeOf s core sp hlimit a acc with
  | .error e => .error e
  | .ok (pa, s) => .ok (pa, openView s pa)

/-- The path checks made at issue (R220, R221). -/
def pathChecks (sp : ASpace) (hlimit : Word) (a n : Nat) : Option TransErr :=
  match pathOf sp a n with
  | none => some (.heap 2)
  | some .heap => if a + n ≤ sp.hbase.toNat + hlimit.toNat then none else some (.heap 1)
  | some _ => none

/-- Translate each byte of a range, page by page: the physical address of every byte in order (R102, R220). The lines stand under the
key identifiers of the addresses from then on (R244). -/
def translateBytes (s : State) (core : Nat) (sp : ASpace) (hlimit : Word) (acc : Access) (a : Nat) :
    Nat → Except TransErr (List Nat × State)
  | 0 => .ok ([], s)
  | n + 1 =>
    match translateBytes s core sp hlimit acc a n with
    | .error e => .error e
    | .ok (pas, s1) =>
      -- A byte of the same 4 KiB page as the byte before it needs no translation of its own.
      match pas.getLast? with
      | some p =>
        if (a + n) % 4096 ≠ 0 then .ok (pas ++ [p + 1], openView s1 (p + 1))
        else
          match translate1 s1 core sp hlimit (a + n) acc with
          | .error e => .error e
          | .ok (pa, s2) => .ok (pas ++ [pa], s2)
      | none =>
        match translate1 s1 core sp hlimit (a + n) acc with
        | .error e => .error e
        | .ok (pa, s2) => .ok (pas ++ [pa], s2)

/-! ## Translations that wait for their access (R229) -/

/-- The expiries of the entries that may have served the pages of the first and the last byte of an access: those that give its
places. -/
def leasesOf (s : State) (core : Nat) (sp : ASpace) (a : Nat) (pas : List Nat) : List (List Word) :=
  [0, pas.length - 1].map fun k =>
    if pathAt sp (a + k) = .paged then
      ((tlbFor s core sp.asn (a + k)).filter fun e => poolPlace s (tlbPa e (a + k)) == nth pas k 0).map (·.expiry)
    else []
/-- Has the translation of an access expired: which of the entries served it, a free choice says. -/
def leaseOver (s : State) : List (List Word) → Bool × State
  | [] => (false, s)
  | [] :: rest => leaseOver s rest
  | (e :: es) :: rest =>
    match draw s (es.length + 1) with
    | (k, s) =>
      match leaseOver s rest with
      | (b, s) => (b || decide (nth (e :: es) k e ≤ s.bell), s)
/-- The places at which an access translated earlier is performed now (R229): its own, or after their expiry those that a fresh
translation gives. -/
def placesNow (s : State) (core : Nat) (sp : ASpace) (acc : Access) (a : Nat) (pas : List Nat) (leases : List (List Word)) :
    Except TransErr (List Nat × State) :=
  match leaseOver s leases with
  | (false, s) => .ok (pas, s)
  | (true, s) => translateBytes s core sp sp.hspan acc a pas.length

/-- Translate a range of a task's memory after the path checks. -/
def translateRange (s : State) (core : Nat) (sp : ASpace) (hlimit : Word) (acc : Access) (a n : Nat) :
    Except TransErr (List Nat × State) :=
  match pathChecks sp hlimit a n with
  | some e => .error e
  | none => translateBytes s core sp hlimit acc a n

end Sys2Proof.Machine
end

