-- ==== Sys2Proof/Machine/Image.lean ====
section
/-!
DEFINITION. The bench image (R367 to R370, R391 to R394): its layout, its bytes for a bench as it stands, and what a
restored bench takes from it. An image is a list of pieces; every byte between the pieces is 0.
-/
namespace Sys2Proof.Machine

/-! ## Layout (R367) -/

def imgSec3 (rows : Nat) : Nat := 0x80 + rows * 0x180
def imgSec4 (caprows : Nat) : Nat := 0x80 + caprows * 0x280
def imgSec5 (acc : Bool) : Nat := if acc then 0x22880 else 0x80
def imgSec7 (rows caprows : Nat) : Nat := 0x80 + (rows + caprows + 16) * 0x80

/-- The size of section k for a bench's budgets; `acc` when this image holds the accumulator file. -/
def imgSecSize (rows caprows : Nat) (acc : Bool) (k : Nat) : Nat :=
  match k with
  | 1 => 0x400
  | 2 => 0x180
  | 3 => imgSec3 rows
  | 4 => imgSec4 caprows
  | 5 => imgSec5 acc
  | 6 => 0x1380
  | 7 => imgSec7 rows caprows
  | _ => 0

/-- The offset of section k in a whole image; offset 8 is the size of the image. -/
def imgSecOff (rows caprows : Nat) (acc : Bool) (k : Nat) : Nat :=
  ((List.range k).map (imgSecSize rows caprows acc)).sum

def imgSize (rows caprows : Nat) (acc : Bool) : Nat := imgSecOff rows caprows acc 8

/-- Does the image of task bench b hold the accumulator file (R367)? -/
def imgAcc (n : NodeObj) (benchT : Nat) : Bool := n.acc && benchT == 0

/-- The bytes of the images of one core. -/
def coreImages (n : NodeObj) : Nat :=
  imgSize n.rows n.capRows n.acc + (n.benches - 1) * imgSize n.rows n.capRows false

/-- Where the image of a bench lies in the task's save space or in a checkpoint half: images stand by team core, then by
task bench. -/
def imgPlace (n : NodeObj) (coreT benchT : Nat) : Nat :=
  coreT * coreImages n +
    (if benchT = 0 then 0 else imgSize n.rows n.capRows n.acc + (benchT - 1) * imgSize n.rows n.capRows false)

/-- Bytes of one checkpoint image of a node (R309, R333): the bench images and the allocations of the team. -/
def ckptSize (n : NodeObj) : Nat := alignUp (n.team * (coreImages n + 2 ^ n.spadLog)) 128

/-- Bytes of a task's save space: its images, then its fault records (R390). -/
def saveSize (n : NodeObj) : Nat := alignUp (n.team * coreImages n + n.team * n.benches * 128 + 128) 4096

/-! ## Pieces -/

/-- Bytes at an offset, and whether they are a tagged granule. -/
structure Piece where
  off : Nat
  bytes : List Byte
  tag : Bool
  deriving DecidableEq, Repr

def pieceN (off n v : Nat) : Piece := ⟨off, bytesLE n v, false⟩
def pieceCap (off : Nat) (c : Cap) : Piece := ⟨off, capBytes c, c.tag⟩

def shiftPieces (d : Nat) (ps : List Piece) : List Piece := ps.map fun p => { p with off := p.off + d }

/-- Write an area of n bytes from pieces, past every hold (R371): zero, then the pieces. -/
def writePieces (s : State) (pa n : Nat) (ps : List Piece) : State :=
  if isMgmt pa then s
  else
    let m := ps.foldl (fun m p =>
      let m := memPutBytes m (pa + p.off) p.bytes
      if p.tag then memSetTag m (pa + p.off) true else m) (memClear s.mem pa n)
    ps.foldl (fun s p => if p.tag then summarise s (pa + p.off) else s) { s with mem := m }

/-! ## Section 1 (R368, R391) -/

/-- Which instruction a seat is blocked in, as block kind and ARG. -/
def waitKind (s : State) (t : Task) (coreT : Nat) (th : Nat × Nat) (w : Wait) : Nat × Nat :=
  let mail := (taskCore t coreT).mail
  let emitNum := fun (g e : Nat) => ((s.objs.find? fun o => o.data == ObjData.emit g e).map (·.num)).getD 0
  match w with
  | .pause u => (1, u.toNat)
  | .phase g => (2, g)
  | .fence _ _ => (3, 0)
  | .mbr m _ left =>
    (4, m * 2 ^ 60 + ((nth mail m ⟨0, false, false, 0, false, false, [], []⟩).readers.findIdx (· == th)) * 2 ^ 48 + left % 2 ^ 41)
  | .mbw m _ left =>
    (4, 2 ^ 63 + m * 2 ^ 60 + ((nth mail m ⟨0, false, false, 0, false, false, [], []⟩).writers.findIdx (· == th)) * 2 ^ 48 +
      left % 2 ^ 41)
  | .send ep => (5, ep % 2 ^ 38)
  | .recv _ num _ _ _ _ => (5, 1 * 2 ^ 61 + num % 2 ^ 38)
  | .xcall ep taken _ _ _ _ _ => (5, (if taken then 3 else 2) * 2 ^ 61 + ep % 2 ^ 38)
  | .sysc ring _ _ _ _ _ _ _ => (5, 4 * 2 ^ 61 + ring % 2 ^ 38)
  | .emit g e _ _ _ => (5, 5 * 2 ^ 61 + emitNum g e % 2 ^ 38)
  | .bpost k _ => (6, k)
  | .bwait k _ _ => (6, 256 + k)
  | .ckpt => (0, 0)
  | .none => (0, 0)

/-- STATE byte and ARG of a seat. -/
def seatCode (s : State) (t : Task) (coreT benchT seat : Nat) (x : Seat) : Nat × Nat :=
  match x.state with
  | .eligible => (0, 0)
  | .exited => (2, 0)
  | .blocked w =>
    match waitKind s t coreT (benchT, seat) w with
    | (0, _) => (0, 0)
    | (k, a) => (1 + 4 * k, a)

def secControl (s : State) (t : Task) (coreT : Nat) (b : Bench) : List Piece :=
  (List.range 32).flatMap (fun k =>
    let x := getSeat b k
    let c := seatCode s t coreT b.benchT k x
    [pieceN (8 * k) 8 x.pc.toNat, pieceN (0x100 + 8 * k) 8 x.hdr.toNat, pieceN (0x200 + k) 1 x.idx,
      pieceN (0x220 + k) 1 c.1, pieceN (0x240 + 4 * k) 4 x.batch.toNat, pieceN (0x300 + 8 * k) 8 c.2]) ++
  (List.range 12).map (fun k => pieceN (0x2C0 + k) 1 (flagOf b k)) ++
  [pieceN 0x2D0 8 b.seed.toNat, pieceN 0x2D8 8 b.stepCount.toNat, pieceCap 0x2E0 b.code]

/-! ## Sections 2 to 4 (R369) -/

def secUniform (b : Bench) : List Piece :=
  let sr := fun k => nth b.sregs k ⟨0, none⟩
  (List.range 16).map (fun k => pieceN (8 * k) 8 (sr k).val.toNat) ++
  (List.range 7).flatMap (fun p =>
    (List.range 32).map fun k => pieceN (0x80 + 32 * p + k) 1 (nth (nth b.preds (p + 1) []) k 0).toNat) ++
  [pieceN 0x160 4 (((List.range 16).map fun k => if (sr k).poison.isSome then 2 ^ k else 0).sum),
    pieceN 0x164 4 (((List.range 16).map fun k => (sr k).poison.getD 0 * 4 ^ k).sum)]

/-- Rows in ascending register number. -/
def rowsAscending {α : Type} (rows : List (Row α)) : List (Row α) :=
  (List.range 48).filterMap fun r => findRow rows r

def secRows (b : Bench) : List Piece :=
  let rows := rowsAscending b.vrows
  pieceN 0 8 rows.length ::
  (List.range rows.length).flatMap fun i =>
    match rows[i]? with
    | none => []
    | some r =>
      let o := 0x80 + 0x180 * i
      [pieceN o 8 r.reg, pieceN (o + 8) 4 r.live.toNat, pieceN (o + 0xC) 4 r.poison.toNat,
        pieceN (o + 0x10) 8 r.cause.toNat] ++
      (List.range 32).map fun k => pieceN (o + 0x80 + 8 * k) 8 (nth r.elems k 0).toNat

def secCaps (b : Bench) : List Piece :=
  let rows := rowsAscending b.crows
  pieceN 0 8 rows.length ::
  (List.range rows.length).flatMap fun i =>
    match rows[i]? with
    | none => []
    | some r =>
      let o := 0x80 + 0x280 * i
      [pieceN o 8 r.reg, pieceN (o + 8) 4 r.live.toNat, pieceN (o + 0xC) 4 r.poison.toNat,
        pieceN (o + 0x10) 8 r.cause.toNat,
        pieceN (o + 0x18) 4 (maskOf fun k => (nth r.elems k Cap.null).tag).toNat] ++
      (List.range 32).map fun k => pieceCap (o + 0x80 + 16 * k) (nth r.elems k Cap.null)

/-! ## Section 5 (R370, R392) -/

def Tile.zero : Tile := ⟨List.replicate 1024 0, [], false⟩

def getTile (s : State) (core k : Nat) : Tile := (lookupKey (getCore s core).tiles k).getD Tile.zero

/-- The saturation flags (R253). -/
def accSat (s : State) (core : Nat) : Nat :=
  ((List.range 16).map fun k => if (getTile s core k).sat then 2 ^ k else 0).sum

/-- The unfinished `tmma` commands of a task on a core, in tile order, with the flag each raised and its bench. -/
def tmmaOf (s : State) (core : Nat) (task : Word) : List (Flight × TmmaCmd) :=
  s.flights.filterMap fun f =>
    if f.core == core && f.task == task then
      match f.kind with
      | .tmma c => some (f, c)
      | _ => none
    else none

def secAcc (s : State) (t : Task) (core : Nat) (held : Bool) : List Piece :=
  if !held then []
  else
    let cs := tmmaOf s core t.id
    [pieceN 0 1 1, pieceN 8 8 (accSat s core), pieceN 0x10 4 cs.length] ++
    (List.range 16).flatMap (fun k =>
      let x := getTile s core k
      (List.range 1024).filterMap (fun e =>
        let v := (nth x.elems e 0).toNat
        if v = 0 then none else some (pieceN (0x80 + 0x2000 * k + 8 * e) 8 v)) ++
      [pieceN (0x20080 + 0x80 * k) 128 ((x.poison.map fun e => 2 ^ e).sum)]) ++
    (List.range cs.length).flatMap fun i =>
      match cs[i]? with
      | none => []
      | some (f, c) =>
        let o := 0x20880 + 64 * i
        [pieceN o 8 c.q0.toNat, pieceN (o + 8) 8 c.q1.toNat, pieceN (o + 0x10) 8 c.q2.toNat,
          pieceN (o + 0x18) 8 c.q3.toNat, pieceN (o + 0x20) 8 c.origin.toNat, pieceN (o + 0x28) 1 c.tile,
          pieceN (o + 0x29) 1 (if c.started then 1 else 0), pieceN (o + 0x2A) 1 (f.flag.getD 15),
          pieceN (o + 0x2B) 1 (getBench s core f.slot).benchT, pieceN (o + 0x2C) 4 c.nextChunk,
          pieceN (o + 0x30) 4 c.order]

/-! ## Section 6 (R370, R392, R394) -/

def Group.empty : Group := ⟨[], [], [], 0, 0, 0⟩
def getGroup (t : Task) (g : Nat) : Group := (lookupKey t.groups g).getD Group.empty
/-- An empty group keeps no record: its phase number is 0 (R113). -/
def putGroup (t : Task) (g : Nat) (x : Group) : Task :=
  if x.members.isEmpty && x.copies == 0 then { t with groups := dropKey t.groups g }
  else { t with groups := putKey t.groups g x }

def Mailbox.empty : Mailbox := ⟨0, false, false, 0, false, false, [], []⟩
def getMail (t : Task) (coreT m : Nat) : Mailbox := nth (taskCore t coreT).mail m Mailbox.empty
def putMail (t : Task) (coreT m : Nat) (x : Mailbox) : Task :=
  let c := taskCore t coreT
  putTaskCore t coreT { c with mail := setNth c.mail m x }

/-- The seats of one bench among a list of threads. -/
def benchMask (l : List Thread) (coreT benchT : Nat) : SeatMask := maskOf fun k => l.contains ⟨coreT, benchT, k⟩

def mapWord (e : Nat × Nat) : Nat := e.1 % 64 + e.2 / 0x8000 % 16 * 64

def secTeam (t : Task) (coreT benchT : Nat) : List Piece :=
  let c := taskCore t coreT
  [pieceN 0 8 c.gone.toNat, pieceN 8 1 (teamN t)] ++
  (List.range 64).flatMap (fun g =>
    match lookupKey t.groups g with
    | none => []
    | some x =>
      let o := 0x80 + 32 * g
      [pieceN o 4 x.phase.toNat, pieceN (o + 4) 4 (x.applied.length + x.copyArrived),
        pieceN (o + 8) 4 x.members.length, pieceN (o + 0xC) 4 x.copies,
        pieceN (o + 0x10) 4 (benchMask x.members coreT benchT).toNat,
        pieceN (o + 0x14) 4 (benchMask x.applied coreT benchT).toNat]) ++
  (List.range 8).flatMap (fun m =>
    let x := getMail t coreT m
    let o := 0x880 + 32 * m
    [pieceN o 8 x.value.toNat,
      pieceN (o + 8) 1 (x.full.toNat + 2 * x.bound.toNat + 4 * x.armed.toNat + 8 * x.abandoned.toNat),
      pieceN (o + 9) 1 x.group, pieceN (o + 0xA) 1 x.readers.length, pieceN (o + 0xB) 1 x.writers.length]) ++
  (List.range c.map.length).map (fun k => pieceN (0x980 + 8 * k) 8 (mapWord (nth c.map k (0, 0)))) ++
  (List.range c.staging.length).flatMap fun e =>
    match c.staging[e]? with
    | none => []
    | some x =>
      let o := 0xB80 + 32 * e
      [pieceN o 1 1, pieceN (o + 1) 1 x.region, pieceN (o + 4) 4 x.waiting.length, pieceN (o + 8) 8 e]

/-! ## Section 7 (R393) -/

/-- A pending destination: the register code (64 added for a capability register), the record kind, the waiting seats,
the deadline. -/
structure PendRec where
  reg : Nat
  kind : Nat
  waiting : SeatMask
  deadline : Word
  entry : Nat
  deriving DecidableEq, Repr

/-- The scoreboard entry that holds back a window access (R151, R393). -/
def stageEntryOf (t : Task) (i : WinItem) : Nat :=
  let a := i.addr.toNat
  ((taskCore t (winCore a)).staging.findIdx? fun e =>
    (granulesOf a i.size).any fun g => e.waiting.contains (winOff g)).getD 0

/-- The seats that a register waits for: for an s register the lowest issued seat of its pass (R7, R393). -/
def destSeats (d : DReg) (m : SeatMask) : SeatMask := if d.isV then m else seatBit (lowestSeat m)

/-- The pending destinations of one flight that a save records (R371, R393). -/
def flightRecs (t : Task) (f : Flight) : List PendRec :=
  match f.kind with
  | .remoteLoad _ _ _ _ =>
    (f.vdests.map fun d => ⟨d.code, 1, destSeats d f.seats, f.deadline, 0⟩) ++
      f.cdests.map fun c => ⟨64 + c.val, 2, f.seats, f.deadline, 0⟩
  | .stagedLoad _ _ items | .stagedAtom _ _ _ _ _ items =>
    let m := maskOf fun k => items.any fun i => i.seat == k
    let e := (items.head?.map (stageEntryOf t)).getD 0
    (f.vdests.map fun d => ⟨d.code, 3, destSeats d m, 0, e⟩) ++ f.cdests.map fun c => ⟨64 + c.val, 3, m, 0, e⟩
  | _ => []

/-- One record for each register with loads pending (R393). Where remote loads and loads held by R151 wait for one register, the record is
a remote one and counts the seats of both. -/
def pendRecs (s : State) (t : Task) (core slot : Nat) : List PendRec :=
  let all := (s.flights.filter fun f => f.core == core && f.slot == slot).flatMap (flightRecs t)
  all.foldl (fun acc r =>
    if acc.any fun x => x.reg == r.reg then
      acc.map fun x =>
        if x.reg == r.reg then
          { x with kind := min x.kind r.kind, entry := if min x.kind r.kind = 3 then x.entry else 0, waiting := x.waiting ||| r.waiting, deadline := if x.deadline.toNat < r.deadline.toNat then r.deadline else x.deadline }
        else x
    else acc ++ [r]) []

/-- The seats of a saved register that wait for a load held by R151. -/
def savedHeld (t : Task) (coreT benchT code : Nat) : SeatMask :=
  t.savedFlights.foldl (fun m e =>
    if e.1.coreT = coreT ∧ e.1.benchT = benchT then
      match e.2.kind with
      | .stagedLoad _ _ _ | .stagedAtom _ _ _ _ _ _ => (flightRecs t e.2).foldl (fun m r => if r.reg = code then m ||| r.waiting else m) m
      | _ => m
    else m) 0
/-- The seats that the record of section 7 at an address still waits for another package for (R396). -/
def pendWaiting (s : State) (t : Task) (coreT benchT a : Nat) : SeatMask :=
  BitVec.ofNat 32 (physValue s (a + 4) 4) &&& ~~~ savedHeld t coreT benchT (physValue s (a + 1) 1)

def secPending (recs : List PendRec) : List Piece :=
  pieceN 0 8 recs.length ::
  (List.range recs.length).flatMap fun i =>
    match recs[i]? with
    | none => []
    | some r =>
      let o := 0x80 + 0x80 * i
      [pieceN o 1 r.kind, pieceN (o + 1) 1 r.reg, pieceN (o + 4) 4 r.waiting.toNat, pieceN (o + 8) 4 0,
        pieceN (o + 0x10) 8 r.deadline.toNat, pieceN (o + 0x18) 8 r.entry]

/-! ## A bench's image -/

/-- The pieces of section k of a bench as it stands. -/
def imgSection (s : State) (t : Task) (core slot k : Nat) : List Piece :=
  let b := getBench s core slot
  let coreT := coreTOf t core
  match k with
  | 1 => secControl s t coreT b
  | 2 => secUniform b
  | 3 => secRows b
  | 4 => secCaps b
  | 5 => secAcc s t core (imgAcc (taskNode s t) b.benchT)
  | 6 => secTeam t coreT b.benchT
  | 7 => secPending (pendRecs s t core slot)
  | _ => []

/-- The pieces of a `bsave` of section k; 0 is the whole image. -/
def imgPieces (s : State) (t : Task) (core slot k : Nat) : List Piece :=
  let b := getBench s core slot
  if k = 0 then
    [1, 2, 3, 4, 5, 6, 7].flatMap fun j =>
      shiftPieces (imgSecOff b.rowBudget b.capBudget (imgAcc (taskNode s t) b.benchT) j) (imgSection s t core slot j)
  else imgSection s t core slot k

/-- The bytes that `bsave` of section k writes. -/
def imgBytes (s : State) (t : Task) (core slot k : Nat) : Nat :=
  let b := getBench s core slot
  let acc := imgAcc (taskNode s t) b.benchT
  if k = 0 then imgSize b.rowBudget b.capBudget acc else imgSecSize b.rowBudget b.capBudget acc k

/-! ## What a restored bench takes (R338, R372, R373) -/

/-- Is the count of a section of rows within a budget, and do its records name registers of a range, in rising order (R369)? -/
def imgRowsOk (s : State) (pa size budget first end_ : Nat) : Bool :=
  let n := physValue s pa 8
  let reg := fun i => physValue s (pa + 0x80 + size * i) 8
  decide (n ≤ budget) && (List.range n).all fun i =>
    decide (first ≤ reg i) && decide (reg i < end_) && (i == 0 || decide (reg (i - 1) < reg i))
/-- Is a record of a `tmma` command well formed (R392)? -/
def imgCmdOk (s : State) (o benches : Nat) : Bool :=
  let w := fun (off n : Nat) => physValue s (o + off) n
  decide (w 0x28 1 < 16) && decide (w 0x29 1 < 2) && (decide (w 0x2A 1 < 12) || w 0x2A 1 == 15) && decide (w 0x2B 1 < benches)
/-- Is a record of section 7 well formed (R393)? -/
def imgPendOk (s : State) (o : Nat) : Bool :=
  let reg := physValue s (o + 1) 1
  match physValue s o 1 with
  | 1 => decide (reg < 64)
  | 2 => decide (64 ≤ reg) && decide (reg < 80)
  | 3 => decide (reg < 80)
  | _ => false
/-- Do the bytes at an address keep the layout of section k (R338, R368 to R370, R392, R393)? `acc` says whether the image is the one that
holds the accumulator file. What a layout leaves zero is not tested, nor are the scoreboard records (R372). -/
def imgSectionOk (s : State) (pa rows caprows benches : Nat) (acc : Bool) (k : Nat) : Bool :=
  match k with
  | 1 => (List.range 32).all fun j =>
      let st := physValue s (pa + 0x220 + j) 1
      decide (st % 4 < 3) && decide (st / 4 < 7) && ((st % 4 == 1) == (st / 4 != 0)) && decide (physValue s (pa + 0x200 + j) 1 ≤ 16)
  | 2 => decide (physValue s (pa + 0x160) 4 < 2 ^ 16)
  | 3 => imgRowsOk s pa 0x180 rows 0 48
  | 4 => imgRowsOk s pa 0x280 caprows 1 16
  | 5 =>
    let n := physValue s (pa + 0x10) 4
    physValue s pa 1 == acc.toNat && (!acc || (decide (physValue s (pa + 8) 8 < 2 ^ 16) && decide (n ≤ 128) &&
      (List.range n).all fun i => imgCmdOk s (pa + 0x20880 + 64 * i) benches))
  | 6 =>
    let teamN := physValue s (pa + 8) 1
    decide (1 ≤ teamN) && decide (teamN ≤ 64) && (List.range 8).all fun m =>
      decide (physValue s (pa + 0x880 + 32 * m + 8) 1 < 16) && decide (physValue s (pa + 0x880 + 32 * m + 9) 1 < 64)
  | _ =>
    let n := physValue s pa 8
    decide (n ≤ rows + caprows + 16) && (List.range n).all fun i => imgPendOk s (pa + 0x80 + 0x80 * i)

/-- The wait of a seat that the image records as blocked (R368, R391): from the place kept at its object where there is
one; else a pause, a phase, a fence or a mailbox wait is rebuilt, and any other kind issues its instruction again. -/
def imgWait (kept : Option Wait) (kind arg : Nat) (d : DReg) (word : Word) : SeatState :=
  match kind with
  | 1 => .blocked (.pause (BitVec.ofNat 64 arg))
  | 2 => .blocked (.phase (arg % 64))
  | 3 => match kept with
    | some w => .blocked w
    | none => .eligible
  | 4 =>
    if arg / 2 ^ 63 = 1 then .blocked (.mbw (arg / 2 ^ 60 % 8) word (arg % 2 ^ 41))
    else .blocked (.mbr (arg / 2 ^ 60 % 8) d (arg % 2 ^ 41))
  | 6 => .eligible
  | _ => match kept with
    | some w => .blocked w
    | none => .eligible

/-- The rows of section 3 at an address. -/
def rowsFrom (s : State) (pa : Nat) : List (Row Word) :=
  (List.range (physValue s pa 8)).map fun i =>
    let o := pa + 0x80 + 0x180 * i
    ⟨physValue s o 8 % 64, BitVec.ofNat 32 (physValue s (o + 8) 4), BitVec.ofNat 32 (physValue s (o + 0xC) 4),
      BitVec.ofNat 64 (physValue s (o + 0x10) 8),
      (List.range 32).map fun k => BitVec.ofNat 64 (physValue s (o + 0x80 + 8 * k) 8)⟩

/-- The rows of section 4: an element keeps its tag when TAGS and the granule both hold it (R372); `move` is what the transfer leaves of a
capability (R362). -/
def capRowsFrom (s : State) (move : Cap → Cap) (pa : Nat) : List (Row Cap) :=
  (List.range (physValue s pa 8)).map fun i =>
    let o := pa + 0x80 + 0x280 * i
    let tags := physValue s (o + 0x18) 4
    ⟨physValue s o 8 % 16, BitVec.ofNat 32 (physValue s (o + 8) 4), BitVec.ofNat 32 (physValue s (o + 0xC) 4),
      BitVec.ofNat 64 (physValue s (o + 0x10) 8),
      (List.range 32).map fun k =>
        move (capOfBytes (physBytes s (o + 0x80 + 16 * k) 16)
          (tags / 2 ^ k % 2 == 1 && memTag s.mem (o + 0x80 + 16 * k)))⟩

/-- The seats, flags, SEED, STEP and code capability of section 1 put into a bench. `kept` gives the wait kept at an
object; `dest` the data register that a mailbox instruction names, and `hdrWord` the word of a recorded header. -/
def controlInto (s : State) (pa : Nat) (b : Bench) (kept : Nat → Option Wait) (dest : Nat → DReg) (src : Nat → Word)
    (hdrWord : Word → Word32) (right : Nat → Option ReplyRight) (wake : Nat → Option WakeFault)
    (due : Word → List Nat) (form : Nat → Word → Option Nat) : Bench :=
  { b with
    seats := (List.range 32).map fun k =>
      let pc : Word := BitVec.ofNat 64 (physValue s (pa + 8 * k) 8)
      let hdr : Word := BitVec.ofNat 64 (physValue s (pa + 0x100 + 8 * k) 8)
      let idx := physValue s (pa + 0x200 + k) 1
      let st := physValue s (pa + 0x220 + k) 1
      { pc := pc, hdr := hdr, hdrWord := hdrWord hdr, idx := idx,
        must := (form k pc).getD (if pc = hdr then 3 else if 16 ≤ idx then 1 else 0),
        state :=
          if st % 4 = 2 then .exited
          else if st % 4 = 0 then .eligible
          else imgWait (kept k) (st / 4) (physValue s (pa + 0x300 + 8 * k) 8) (dest k) (src k),
        skip := 0, batch := BitVec.ofNat 32 (physValue s (pa + 0x240 + 4 * k) 4), right := right k, wake := wake k
        due := if st % 4 = 1 then due pc else [] }
    flags := (List.range 12).map fun k => physValue s (pa + 0x2C0 + k) 1
    seed := BitVec.ofNat 64 (physValue s (pa + 0x2D0) 8)
    stepCount := BitVec.ofNat 64 (physValue s (pa + 0x2D8) 8)
    code := capOfBytes (physBytes s (pa + 0x2E0) 16) (memTag s.mem (pa + 0x2E0))
    lifted := 0, nfree := 0, opCache := [], timers := false }

/-- The uniform registers and predicates of section 2. -/
def uniformInto (s : State) (pa : Nat) (b : Bench) : Bench :=
  let pz := physValue s (pa + 0x160) 4
  let ca := physValue s (pa + 0x164) 4
  { b with
    sregs := (List.range 16).map fun k =>
      ⟨BitVec.ofNat 64 (physValue s (pa + 8 * k) 8), if pz / 2 ^ k % 2 = 1 then some (ca / 4 ^ k % 4) else none⟩
    preds := (List.range 8).map fun p =>
      if p = 0 then List.replicate 32 0
      else (List.range 32).map fun k => BitVec.ofNat 8 (physValue s (pa + 0x80 + 32 * (p - 1) + k) 1) }

/-- The tiles of section 5. -/
def tilesFrom (s : State) (pa : Nat) : List (Nat × Tile) :=
  let sat := physValue s (pa + 8) 8
  (List.range 16).map fun k =>
    let pz := physValue s (pa + 0x20080 + 0x80 * k) 128
    (k, ⟨(List.range 1024).map fun e => BitVec.ofNat 48 (physValue s (pa + 0x80 + 0x2000 * k + 8 * e) 8),
      (List.range 1024).filter fun e => pz / 2 ^ e % 2 == 1, sat / 2 ^ k % 2 == 1⟩)

/-- The `tmma` commands of section 5: the command, its flag and its task bench. Every one goes back to the copy queue (R272). -/
def tmmaFrom (s : State) (pa : Nat) (cap : Cap) : List (TmmaCmd × Nat × Nat) :=
  (List.range (physValue s (pa + 0x10) 4)).map fun i =>
    let o := pa + 0x20880 + 64 * i
    let w := fun k => (BitVec.ofNat 64 (physValue s (o + k) 8) : Word)
    (⟨w 0, w 8, w 0x10, w 0x18, w 0x20, cap, physValue s (o + 0x28) 1 % 16, false,
      physValue s (o + 0x2C) 4, physValue s (o + 0x30) 4⟩, physValue s (o + 0x2A) 1, physValue s (o + 0x2B) 1)

/-- The group records of section 6 (R394): the team-wide fields from the image of a core's lowest task bench; members and
marks are added by each bench's own masks. -/
def groupsFrom (s : State) (pa : Nat) (t : Task) : Task :=
  (List.range 64).foldl (fun t g =>
    let o := pa + 0x80 + 32 * g
    let x := getGroup t g
    let members := physValue s (o + 8) 4
    let copies := physValue s (o + 0xC) 4
    if members = 0 ∧ copies = 0 then t
    else
      let x := { x with
        phase := BitVec.ofNat 32 (physValue s o 4), copies := copies
        copyArrived := physValue s (o + 4) 4 - x.applied.length }
      { t with groups := putKey t.groups g x }) t

/-- The members and arrivals of one bench (R394): its member arrivals are taken out of the count of copy arrivals. -/
def groupSeatsFrom (s : State) (pa : Nat) (coreT benchT : Nat) (t : Task) : Task :=
  (List.range 64).foldl (fun t g =>
    let o := pa + 0x80 + 32 * g
    let add := fun (off : Nat) =>
      (seatsOf (BitVec.ofNat 32 (physValue s (o + off) 4))).map fun k => (⟨coreT, benchT, k⟩ : Thread)
    let ms := add 0x10
    let ar := add 0x14
    if ms.isEmpty then t
    else
      let x := getGroup t g
      let out := fun (l : List Thread) => l.filter fun u => !(u.coreT == coreT && u.benchT == benchT)
      let x := { x with
        members := out x.members ++ ms, marked := out x.marked ++ ar, applied := out x.applied ++ ar
        copyArrived := x.copyArrived - ar.length }
      { t with groups := putKey t.groups g x }) t

/-- The mailboxes of section 6; the queues fill as the waiters are restored. -/
def mailFrom (s : State) (pa : Nat) : List Mailbox :=
  (List.range 8).map fun m =>
    let o := pa + 0x880 + 32 * m
    let st := physValue s (o + 8) 1
    ⟨BitVec.ofNat 64 (physValue s o 8), st % 2 == 1, st / 2 % 2 == 1, physValue s (o + 9) 1 % 64, st / 4 % 2 == 1,
      st / 8 % 2 == 1, [], []⟩

/-! ## Writing into a saved image (R327, R396) -/

/-- The offset of the record of a register in section 3 or 4 of an image, if it has one. -/
def imgRow (s : State) (pa size reg : Nat) : Option Nat :=
  ((List.range (physValue s pa 8)).find? fun i => physValue s (pa + 0x80 + size * i) 8 == reg).map
    fun i => pa + 0x80 + size * i

/-- One seat's element of a data register in an image: its value, its live bit, its poison. -/
def imgWriteD (s : State) (img rows caprows : Nat) (acc : Bool) (r : DReg) (seat : Nat) (v : Word)
    (p : Option Nat) : State :=
  let w := fun (s : State) (a n x : Nat) => { s with mem := memStore s.mem a (bytesLE n x) false }
  match r with
  | .s k =>
    let o := img + imgSecOff rows caprows acc 2
    let s := w s (o + 8 * k.val) 8 v.toNat
    let s := w s (o + 0x160) 4 (putBits (physValue s (o + 0x160) 4) k.val 1 p.isSome.toNat)
    w s (o + 0x164) 4 (putBits (physValue s (o + 0x164) 4) (2 * k.val) 2 (p.getD 0))
  | .v k =>
    match imgRow s (img + imgSecOff rows caprows acc 3) 0x180 k.val with
    | none => s
    | some o =>
      let s := w s (o + 0x80 + 8 * seat) 8 v.toNat
      let s := w s (o + 8) 4 (putBits (physValue s (o + 8) 4) seat 1 1)
      let s := w s (o + 0xC) 4 (putBits (physValue s (o + 0xC) 4) seat 1 p.isSome.toNat)
      w s (o + 0x10) 8 (putBits (physValue s (o + 0x10) 8) (2 * seat) 2 (p.getD 0))

/-- One seat's element of a capability register in an image. -/
def imgWriteC (s : State) (img rows caprows : Nat) (acc : Bool) (r : CReg) (seat : Nat) (c : Cap)
    (p : Option Nat) : State :=
  let w := fun (s : State) (a n x : Nat) => { s with mem := memStore s.mem a (bytesLE n x) false }
  match imgRow s (img + imgSecOff rows caprows acc 4) 0x280 r.val with
  | none => s
  | some o =>
    let s := w s (o + 8) 4 (putBits (physValue s (o + 8) 4) seat 1 1)
    let s := w s (o + 0xC) 4 (putBits (physValue s (o + 0xC) 4) seat 1 p.isSome.toNat)
    let s := w s (o + 0x10) 8 (putBits (physValue s (o + 0x10) 8) (2 * seat) 2 (p.getD 0))
    let s := w s (o + 0x18) 4 (putBits (physValue s (o + 0x18) 4) seat 1 c.tag.toNat)
    physStoreCap s (o + 0x80 + 16 * seat) c false

/-- Clear the live bit of a seat in the record of a data register (R137). -/
def imgClearLive (s : State) (img rows caprows : Nat) (acc : Bool) (seat reg : Nat) : State :=
  match imgRow s (img + imgSecOff rows caprows acc 3) 0x180 reg with
  | none => s
  | some o =>
    { s with mem := memStore s.mem (o + 8) (bytesLE 4 (putBits (physValue s (o + 8) 4) seat 1 0)) false }

/-- Mark a seat of an image unblocked past its instruction, of four bytes (R327, R368). -/
def imgUnblock (s : State) (img seat : Nat) : State :=
  let w := fun (s : State) (a n x : Nat) => { s with mem := memStore s.mem a (bytesLE n x) false }
  let s := w s (img + 8 * seat) 8 (physValue s (img + 8 * seat) 8 + 4)
  let i := physValue s (img + 0x200 + seat) 1
  let s := w s (img + 0x200 + seat) 1 (min 16 (i + 1))
  let s := w s (img + 0x220 + seat) 1 0
  w s (img + 0x300 + 8 * seat) 8 0

end Sys2Proof.Machine
end

