-- ==== Sys2Proof/Machine/Endpoints.lean ====
section
/-!
DEFINITION. Endpoints, notifications and service rings (R323 to R329, R349, R353): queues, the rendezvous, and what is
written into a waiting seat, a parked seat's image or a host hart.
-/
namespace Sys2Proof.Machine

/-! ## Quarantine (R362, R363) -/

/-- Do the bounds of a capability lie wholly within a revoked region? -/
def capIn (r : Revocation) (c : Cap) : Bool :=
  r.target.isNone && decide (capE c < 48) && !isObjType (capSeal c) && decide (Int.ofNat r.base.toNat ≤ capBase c) &&
    decide (capTop c ≤ Int.ofNat (r.base.toNat + r.len))
/-- Does an address space quarantine a capability (R362)? A region of another package is quarantined for REMOTE capabilities
of every context (R439). -/
def quarantined (s : State) (space : Nat) (c : Cap) : Bool :=
  s.quarantine.any fun r => capIn r c && (if r.origin.isSome then hasPerm c .remote else r.aspace == space)

/-- Is a capability one that a destruction in progress clears (R363): to its object, or, for a sealer, sealed with its type? -/
def doomedBy (r : Revocation) (c : Cap) : Bool :=
  match r.target with
  | some (t, n) => (capSeal c == t && capNum c == n) || (t == 974 && capSeal c == n)
  | none => false
def doomed (s : State) (c : Cap) : Bool := s.quarantine.any fun r => doomedBy r c
/-- Does a transfer for the host on every address space take a capability's tag (R362: `hcld` and `hcst`; log 36)? -/
def quarantinedAny (s : State) (c : Cap) : Bool := (s.quarantine.any fun r => quarantined s r.aspace c) || doomed s c

/-- Is an object destroyed, being destroyed, or none (R363)? -/
def objGone (s : State) (type num : Nat) : Bool :=
  match findObj s type num with
  | some o => o.dead
  | none => true

/-- Is an address space's transfer of a capability to lose its tag (R362)? DEDUCED (log 36): as a region's quarantine does, that of
a destroyed object takes the tag of what is moved, so that nothing comes back behind the sweep. -/
def transferCap (s : State) (space : Nat) (c : Cap) : Cap := if quarantined s space c || doomed s c then withTag c false else c

/-! ## Parties -/

def getHart (s : State) (h : Nat) : Hart := (lookupKey s.harts h).getD Hart.reset
def putHart (s : State) (h : Nat) (x : Hart) : State := { s with harts := putKey s.harts h x }
def setX (h : Hart) (r : Nat) (v : Word) : Hart := if r = 0 then h else { h with x := setNth h.x r v }
def getX (h : Hart) (r : Nat) : Word := if r = 0 then 0 else nth h.x r 0
def getHc (h : Hart) (r : Nat) : Cap := if r = 0 then Cap.null else nth h.hc r Cap.null
def setHc (h : Hart) (r : Nat) (c : Cap) : Hart := if r = 0 then h else { h with hc := setNth h.hc r c }

/-- Change the wait of a seat of a resident bench. -/
def onSeat (s : State) (k slot seat : Nat) (f : Seat → Seat) : State :=
  let b := getBench s k slot
  putBench s k slot (putSeat b seat (f (getSeat b seat)))

/-- The bench of a thread, if it stands on a core and its image, if it has one, has been installed there. -/
def liveBench (s : State) (t : Task) (th : Thread) : Option (Nat × Nat) :=
  (benchOfThread s t th).filter fun e => !((getBench s e.1 e.2).mode == .placed)

/-- The wait of a thread, resident or saved. -/
def waitOf (s : State) (t : Task) (th : Thread) : Option Wait :=
  match liveBench s t th with
  | some (k, slot) =>
    match (getSeat (getBench s k slot) th.seat).state with
    | .blocked w => some w
    | _ => none
  | none => lookupKey t.savedWaits th

/-- Is a task being saved: is it halted for a request other than a checkpoint (R376)? -/
def beingSaved (t : Task) : Bool :=
  match t.phase with
  | .halted .checkpoint => t.haltQ.any (· != .checkpoint)
  | .halted _ => true
  | _ => false
/-- Does the image of a resident bench count beside the bench itself: its save run has opened, or the team is being
restored (R327, R456)? -/
def imageCounts (s : State) (t : Task) (core slot : Nat) : Bool :=
  (beingSaved t && !(getCore s core).saveQ.contains slot) || t.phase == .restoring
/-- The task with the wait of a saved thread. -/
def savedWait (t : Task) (th : Thread) (w : Wait) : Task := { t with savedWaits := putKey t.savedWaits th w }
/-- Change the wait of a thread, resident or saved. -/
def setWait (s : State) (t : Task) (th : Thread) (w : Wait) : State :=
  match liveBench s t th with
  | some (k, slot) =>
    let s := if imageCounts s t k slot then putTask s (savedWait t th w) else s
    onSeat s k slot th.seat fun x => { x with state := .blocked w }
  | none => putTask s (savedWait t th w)

/-! ## The instruction of a blocked seat -/

/-- The 32 bits of code at an address of a task's space. -/
def codeWord (s : State) (core : Nat) (t : Task) (a : Word) : Nat :=
  let sp := taskSpace s t
  match translateBytes s core sp sp.hspan .fetch a.toNat 4 with
  | .ok (pas, _) => valueLE (pas.map fun p => if isMgmt p then 0 else memByte s.mem p)
  | .error _ => 0
/-- The v registers that an instruction of class W reads last (R137). -/
def dueOf : Instr → List Nat
  | .pause a => lastVs [a]
  | .mbw _ a => lastVs [a]
  | .send _ a _ => lastVs ((List.range 4).map fun k => ⟨a.reg.plus k, a.use⟩)
  | .xcall _ a _ => lastVs ((List.range 4).map fun k => ⟨a.reg.plus k, a.use⟩)
  | .sysc _ a _ => lastVs ((List.range 4).map fun k => ⟨a.reg.plus k, a.use⟩)
  | .bpost a _ => lastVs ([0, 1, 2].map fun k => ⟨a.reg.plus k, a.use⟩)
  | .bwait a _ => lastVs [⟨a.reg.plus 3, a.use⟩]
  | .emit a _ => lastVs [a]
  | _ => []
/-- The same for the instruction at an address of a task's code. -/
def dueAt (s : State) (core : Nat) (t : Task) (pc : Word) : List Nat :=
  match decode32 (codeWord s core t pc) with
  | .ok i => dueOf i
  | .error _ => []

/-- Where a wait takes what arrives: quad, capability register, whether a capability keeps its tag (R321), whether s
registers are written, and whether the instruction closes its clause. -/
def waitDest : Wait → Option (DReg × CReg × Bool × Bool × Bool)
  | .recv _ _ q cb ldc _ => some (q, cb, ldc, true, false)
  | .xcall _ _ q cb stc ldc low => some (q, cb, stc && ldc, low, false)
  | .sysc _ _ _ q cb stc ldc low => some (q, cb, stc && ldc, low, true)
  | .bwait _ q _ => some (q, 0, false, true, false)
  | _ => none

/-- The words and the capability of a delivery (R322). -/
def deliveryWords : Delivery → Option (List Word × Cap)
  | .message m b => some ([m.w0, m.w1, m.w2, b], m.cap)
  | .reply m st => some ([m.w0, m.w1, m.w2, st], m.cap)
  | .word w b => some ([w, 0, 0, b], Cap.null)
  | .done => none

/-- Write a delivery into a resident seat and let it go on past its instruction (R323). -/
def deliverLive (s : State) (space k slot seat : Nat) (w : Wait) (d : Delivery) : State :=
  let b := getBench s k slot
  let closes := match w with
    | .sysc _ _ _ _ _ _ _ _ => true
    | _ => false
  let b := unblockSeat b seat 4 closes
  let b := match deliveryWords d, waitDest w with
    | some (ws, c), some (q, cb, keep, low, _) =>
      let b := if q.isV || low then
          (List.range 4).foldl (fun b i => writeD b (q.plus i) [(seat, nth ws i 0, none)]) b
        else b
      writeC b cb [(seat, transferCap s space (withTag c (c.tag && keep)), none)]
    | _, _ => b
  freeRows (putBench s k slot b) k slot

/-- Write a delivery into the image of a parked or pre-empted seat (R327). -/
def deliverSaved (s : State) (t : Task) (th : Thread) (w : Wait) (d : Delivery) : State :=
  let n := taskNode s t
  let acc := imgAcc n th.benchT
  let img := t.saveBase.toNat + imgPlace n th.coreT th.benchT
  let closes := match w with
    | .sysc _ _ _ _ _ _ _ _ => true
    | _ => false
  let pc : Word := BitVec.ofNat 64 (physValue s (img + 8 * th.seat) 8)
  let s := (dueAt s 0 t pc).foldl (fun s r => imgClearLive s img n.rows n.capRows acc th.seat r) s
  let s := match deliveryWords d, waitDest w with
    | some (ws, c), some (q, cb, keep, low, _) =>
      let s := if q.isV || low then
          (List.range 4).foldl (fun s i => imgWriteD s img n.rows n.capRows acc (q.plus i) th.seat (nth ws i 0) none) s
        else s
      if cb = 0 then s
      else imgWriteC s img n.rows n.capRows acc cb th.seat
        (transferCap s (taskSpaceNum s t) (withTag c (c.tag && keep))) none
    | _, _ => s
  let s := imgUnblock s img th.seat
  putTask s { t with
    savedWaits := dropKey t.savedWaits th
    -- Past `sysc`, which closes its clause, a header must stand (R35).
    savedForms := if closes then (th, pc + 4, 2) :: t.savedForms else t.savedForms
    conds := t.conds.filter fun c => !(c == ParkCond.blocked) }

/-- Write a delivery into a host hart (R357). -/
def deliverHart (s : State) (h : Nat) (d : Delivery) : State :=
  let x := getHart s h
  let dest := match x.wait with
    | .recv _ _ cb ldc _ => some (cb, ldc)
    | .xcall _ _ cb stc ldc => some (cb, stc && ldc)
    | _ => none
  let x := match deliveryWords d, dest with
    | some (ws, c), some (cb, keep) =>
      let c := withTag c (c.tag && keep)
      let x := (List.range 4).foldl (fun x i => setX x (10 + i) (nth ws i 0)) x
      setHc x cb (if quarantinedAny s c then withTag c false else c)
    | _, _ => x
  putHart s h { x with wait := .none, pc := x.pc + 4 }

/-- Let a party that waits go on with what has arrived (R323, R327, R357, R386). -/
def deliver (s : State) (p : Party) (d : Delivery) : State :=
  match p with
  | .hart h =>
    match (getHart s h).wait with
    | .none => s
    | _ => deliverHart s h d
  | .dean _ task pager =>
    match d with
    | .reply m st =>
      { s with agenda := s.agenda ++ [if pager then .pagerResident task
          else .faultDisposition task (if st = 5 then none else some m.w0)] }
    | _ => s
  | .seat task ct bt k =>
    match findTask s task with
    | none => s
    | some t =>
      match waitOf s t ⟨ct, bt, k⟩ with
      | none => s
      | some w =>
        match liveBench s t ⟨ct, bt, k⟩ with
        | some (c, slot) =>
          let s := if imageCounts s t c slot then deliverSaved s t ⟨ct, bt, k⟩ w d else s
          deliverLive s (taskSpaceNum s t) c slot k w d
        | none => deliverSaved s t ⟨ct, bt, k⟩ w d

/-- The reply of GONE (R325). -/
def goneReply : Delivery := .reply ⟨0, 0, 0, Cap.null⟩ 5

/-- Does a party wait for a reply to its `xcall`? -/
def awaitsReply (s : State) (p : Party) : Bool :=
  match p with
  | .hart h => match (getHart s h).wait with
    | .xcall _ true _ _ _ => true
    | _ => false
  | .dean _ _ _ => true
  | .seat task ct bt k =>
    match findTask s task with
    | none => false
    | some t => match waitOf s t ⟨ct, bt, k⟩ with
      | some (.xcall _ true _ _ _ _ _) => true
      | _ => false

def isHart (h : Nat) : Party → Bool
  | .hart k => k == h
  | _ => false
def isTaskSeat (id : Word) : Party → Bool
  | .seat task _ _ _ => task == id
  | _ => false
/-- A Registrar request whose caller no longer waits is performed, and its reply is discarded. -/
def orphanReq (gone : Party → Bool) (r : RegReq) : RegReq := if gone r.who then { r with heard := false } else r
def orphanEvent (gone : Party → Bool) : Event → Event
  | .create r => .create (orphanReq gone r)
  | .mint r => .mint (orphanReq gone r)
  | .destroy r => .destroy (orphanReq gone r)
  | .revoke r => .revoke (orphanReq gone r)
  | .memcap r => .memcap (orphanReq gone r)
  | .bind r => .bind (orphanReq gone r)
  | .unbind r => .unbind (orphanReq gone r)
  | .carve r => .carve (orphanReq gone r)
  | .carvecap r => .carvecap (orphanReq gone r)
  | .heap r => .heap (orphanReq gone r)
  | .inject r => .inject (orphanReq gone r)
  | .emitcap r => .emitcap (orphanReq gone r)
  | .exportSpace r => .exportSpace (orphanReq gone r)
  | .admitCap r => .admitCap (orphanReq gone r)
  | .preemptPark r => .preemptPark (orphanReq gone r)
  | .preemptRelease r => .preemptRelease (orphanReq gone r)
  | e => e
/-- A reply right of a caller that no longer waits. -/
def orphanRight (gone : Party → Bool) (r : Option ReplyRight) : Option ReplyRight := r.filter fun x => !gone x.caller
/-- Is a flight a reply that waits, to such a caller? -/
def replyTo (gone : Party → Bool) (f : Flight) : Bool :=
  match f.kind with
  | .reply r _ _ => gone r.caller
  | _ => false
/-- Exchanges that ended without a reply (R325, R357): the rights to reply in them, and the Registrar requests that they made, no
longer reach their callers, whatever those wait in later. -/
def forgetCallers (s : State) (gone : Party → Bool) : State :=
  { s with
    agenda := s.agenda.map (orphanEvent gone)
    objs := s.objs.map fun o => match o.data with
      | .graph g => { o with data := .graph { g with parking := g.parking.map fun p => (orphanReq gone p.1, p.2) } }
      | _ => o
    harts := s.harts.map fun e => (e.1, { e.2 with right := orphanRight gone e.2.right })
    flights := s.flights.filter fun f => !replyTo gone f
    tasks := s.tasks.map fun t =>
      { t with
        savedRights := t.savedRights.filter fun e => !gone e.2.caller
        savedFlights := t.savedFlights.filter fun e => !replyTo gone e.2 }
    cores := s.cores.map fun c => (c.1, { c.2 with benches := c.2.benches.map fun b =>
      (b.1, { b.2 with seats := b.2.seats.map fun x => { x with right := orphanRight gone x.right } }) }) }

/-- A reply right is dropped: its caller returns with GONE (R325). -/
def dropRight (s : State) (r : Option ReplyRight) : State :=
  match r with
  | some x => if awaitsReply s x.caller then deliver s x.caller goneReply else s
  | none => s

/-- The reply right that a party holds. -/
def rightOf (s : State) (p : Party) : Option ReplyRight :=
  match p with
  | .hart h => (getHart s h).right
  | .dean _ _ _ => none
  | .seat task ct bt k =>
    match findTask s task with
    | none => none
    | some t =>
      match liveBench s t ⟨ct, bt, k⟩ with
      | some (c, slot) => (getSeat (getBench s c slot) k).right
      | none => lookupKey t.savedRights ⟨ct, bt, k⟩

/-- The task with the reply right of a saved thread. -/
def savedRight (t : Task) (th : Thread) (r : Option ReplyRight) : Task :=
  { t with savedRights := match r with
    | some x => putKey t.savedRights th x
    | none => dropKey t.savedRights th }
def setRight (s : State) (p : Party) (r : Option ReplyRight) : State :=
  match p with
  | .hart h => putHart s h { getHart s h with right := r }
  | .dean _ _ _ => s
  | .seat task ct bt k =>
    match findTask s task with
    | none => s
    | some t =>
      match liveBench s t ⟨ct, bt, k⟩ with
      | some (c, slot) =>
        let s := if imageCounts s t c slot then putTask s (savedRight t ⟨ct, bt, k⟩ r) else s
        onSeat s c slot k fun x => { x with right := r }
      | none => putTask s (savedRight t ⟨ct, bt, k⟩ r)

/-- A party gains a reply right; one it already holds is dropped first (R323). -/
def giveRight (s : State) (p : Party) (r : ReplyRight) : State :=
  setRight (dropRight (setRight s p none) (rightOf s p)) p (some r)

/-! ## Endpoints (R323) -/

def epQueues (s : State) (ep : Nat) : List EpSender × List EpReceiver :=
  match findObj s 963 ep with
  | some { data := .endpoint a b, .. } => (a, b)
  | _ => ([], [])

/-- The message of an `xcall` is taken: its sender goes on waiting, for the reply. -/
def markTaken (s : State) (p : Party) : State :=
  match p with
  | .hart h =>
    match (getHart s h).wait with
    | .xcall ep _ cb stc ldc => putHart s h { getHart s h with wait := .xcall ep true cb stc ldc }
    | _ => s
  | .dean _ _ _ => s
  | .seat task ct bt k =>
    match findTask s task with
    | none => s
    | some t =>
      match waitOf s t ⟨ct, bt, k⟩ with
      | some (.xcall ep _ q cb stc ldc low) => setWait s t ⟨ct, bt, k⟩ (.xcall ep true q cb stc ldc low)
      | _ => s

/-- The Registrar operation that a request names (R349, R350); none is answered FORMAT. -/
def regOp (r : RegReq) (w0 : Word) : Option Event :=
  match w0.toNat with
  | 0x01 => some (.create r)
  | 0x02 => some (.mint r)
  | 0x03 => some (.destroy r)
  | 0x04 => some (.revoke r)
  | 0x05 => some (.memcap r)
  | 0x06 => some (.bind r)
  | 0x07 => some (.unbind r)
  | 0x08 => some (.carve r)
  | 0x09 => some (.carvecap r)
  | 0x0A => some (.heap r)
  | 0x0B => some (.inject r)
  | 0x0C => some (.emitcap r)
  | 0x0D => some (.exportSpace r)
  | 0x0E => some (.admitCap r)
  | 0x0F => some (.preemptPark r)
  | _ => none

/-- Operation 0x0F is PARK for W1 = 0 and RELEASE for W1 = 1 (R378). -/
def regOpW (r : RegReq) (w0 : Word) : Option Event :=
  match regOp r w0 with
  | some (.preemptPark r) => if r.w1 = 1 then some (.preemptRelease r) else some (.preemptPark r)
  | x => x

/-- A Registrar takes a request (R349), with its capability's tag where the sender's carries STC (R321): it becomes due as the operation it names. A `send` asks for no reply and is
taken without effect. -/
def registrarTake (s : State) (x : EpSender) : State :=
  if x.xcall then
    let s := markTaken s x.who
    match regOpW ⟨x.who, withTag x.msg.cap (x.msg.cap.tag && x.stc), x.msg.w1, x.msg.w2, true⟩ x.msg.w0 with
    | some i => { s with agenda := s.agenda ++ [i] }
    | none => deliver s x.who (.reply ⟨0, 0, 0, Cap.null⟩ 3)
  else deliver s x.who .done

/-- Hand the first waiting sender's message to the first waiting receiver (R323). -/
def epMatch (s : State) (ep : Nat) : State :=
  match epQueues s ep with
  | (x :: xs, rs) =>
    if ep < 10 then registrarTake (setObjData s 963 ep (.endpoint xs rs)) x
    else
      match rs with
      | [] => s
      | r :: rs' =>
        let s := setObjData s 963 ep (.endpoint xs rs')
        let s := deliver s r.who (.message { x.msg with cap := withTag x.msg.cap (x.msg.cap.tag && x.stc) } x.badge)
        if x.xcall then giveRight (markTaken s x.who) r.who ⟨x.who, x.stc⟩ else deliver s x.who .done
  | ([], _) => s

/-- A sender arrives at an endpoint; it already waits there (R323). -/
def epSend (s : State) (ep : Nat) (x : EpSender) : State :=
  let q := epQueues s ep
  epMatch (setObjData s 963 ep (.endpoint (q.1 ++ [x]) q.2)) ep

/-- A receiver arrives at an endpoint; it already waits there (R323). -/
def epRecv (s : State) (ep : Nat) (r : EpReceiver) : State :=
  let q := epQueues s ep
  epMatch (setObjData s 963 ep (.endpoint q.1 (q.2 ++ [r]))) ep

/-- Does a `poll` find a message at an endpoint? -/
def epHasSender (s : State) (ep : Nat) : Bool := !(epQueues s ep).1.isEmpty && decide (10 ≤ ep)

/-! ## Notifications (R324) -/

def ntState (s : State) (n : Nat) : Word × List EpReceiver :=
  match findObj s 964 n with
  | some { data := .notification w r, .. } => (w, r)
  | _ => (0, [])

/-- The badge that a receiver of a notification takes: cursor[62:0] of its own capability, kept in its wait (R322). -/
def recvBadge (s : State) (p : Party) : Word :=
  match p with
  | .seat task ct bt k =>
    match findTask s task with
    | none => 0
    | some t =>
      match waitOf s t ⟨ct, bt, k⟩ with
      | some (.recv _ _ _ _ _ badge) => badge
      | _ => 0
  | .hart h =>
    match (getHart s h).wait with
    | .recv _ _ _ _ badge => badge
    | _ => 0
  | .dean _ _ _ => 0

/-- The first waiting receiver takes a nonzero word (R324). -/
def ntMatch (s : State) (n : Nat) : State :=
  match ntState s n with
  | (w, r :: rs) =>
    if w = 0 then s
    else deliver (setObjData s 964 n (.notification 0 rs)) r.who (.word w (recvBadge s r.who))
  | (_, []) => s

/-- OR bits into a notification word (R324). -/
def notifyBits (s : State) (n : Nat) (w : Word) : State :=
  let x := ntState s n
  ntMatch (setObjData s 964 n (.notification (x.1 ||| w) x.2)) n

def ntRecv (s : State) (n : Nat) (r : EpReceiver) : State :=
  let x := ntState s n
  ntMatch (setObjData s 964 n (.notification x.1 (x.2 ++ [r]))) n

/-! ## Service rings (R328, R329, R353) -/

/-- A ring object's fields: log, base of its control block, notification, waiters, replies delivered. -/
def ringOf (s : State) (n : Nat) : Option (Nat × Nat × Nat × Nat × List RingWaiter × Word32) :=
  match findObj s 971 n with
  | some { data := .ring hub log base bellN ws d, .. } => some (hub, log, base, bellN, ws, d)
  | _ => none

def ringReq (s : State) (base : Nat) : Nat := memValue s.mem base 4
def ringDone (s : State) (base : Nat) : Nat := memValue s.mem (base + 8) 4

/-- The next sequence number of a core's stream on a ring (R13). -/
def ringSeq (s : State) (core ring : Nat) : Word32 × State :=
  let c := getCore s core
  let q := (lookupKey c.seqRing ring).getD 0
  (q, putCore s core { c with seqRing := putKey c.seqRing ring (q + 1) })

/-- Write a request entry (R329). -/
def ringEntry (s : State) (a : Nat) (seq : Word32) (seat : Nat) (bell tag : Word) (m : Message) : State :=
  let bytes := bytesLE 4 seq.toNat ++ bytesLE 1 seat ++ bytesLE 3 0 ++ bytesLE 8 bell.toNat ++ bytesLE 8 tag.toNat ++
    bytesLE 8 m.w0.toNat ++ bytesLE 8 m.w1.toNat ++ bytesLE 8 m.w2.toNat
  physStoreCap { s with mem := memStore s.mem a bytes false } (a + 0x30) m.cap false

/-- The first seat that waits for an entry writes its request behind the k that have been written since REQ last advanced, if the
ring has room (R328, R353). -/
def ringPlace1 (n : Nat) (e : State × Nat) : State × Nat :=
  let (s, k) := e
  match ringOf s n with
  | none => e
  | some (hub, log, base, bellN, ws, d) =>
    let req := (ringReq s base + k) % 2 ^ 32
    if (req + 2 ^ 32 - ringDone s base) % 2 ^ 32 = 2 ^ log then e
    else
      match ws.findIdx? fun w => w.tag.isNone with
      | none => e
      | some i =>
        match ws[i]? with
        | none => e
        | some w =>
          let tag : Word := BitVec.ofNat 64 req
          let seat := match w.who with
            | .seat _ _ _ k => k
            | _ => 0
          let q := ringSeq s w.core n
          let a := base + 64 + 64 * (req % 2 ^ log)
          let s := ringEntry q.2 a q.1 seat w.bell tag { w.msg with cap := withTag w.msg.cap (w.msg.cap.tag && w.stc) }
          let s := setObjData s 971 n (.ring hub log base bellN (setNth ws i { w with tag := some tag }) d)
          let s := match w.who with
            | .seat task ct bt k =>
              match findTask s task with
              | some t =>
                match waitOf s t ⟨ct, bt, k⟩ with
                | some (.sysc r _ _ dq cb stc ldc low) => setWait s t ⟨ct, bt, k⟩ (.sysc r true tag dq cb stc ldc low)
                | _ => s
              | none => s
            | _ => s
          (s, k + 1)

/-- Place as many waiting requests as there are entries (R328): the entries, then REQ past them, then bit 0 of BELL (R353). -/
def ringPlace (s : State) (n : Nat) : State :=
  match ringOf s n with
  | none => s
  | some (_, _, base, bellN, ws, _) =>
    let (t, k) := ws.foldl (fun e _ => ringPlace1 n e) (s, 0)
    if k = 0 then s
    else notifyBits { t with mem := memStore t.mem base (bytesLE 4 (ringReq t base + k)) false } bellN 1

/-- Deliver the reply of one released request (R353, R329). A reply whose TAG names no waiting seat is discarded. -/
def ringReply1 (s : State) (n : Nat) (num : Nat) : State :=
  match ringOf s n with
  | none => s
  | some (hub, log, base, bellN, ws, d) =>
    let a := base + 64 + 64 * 2 ^ log + 64 * (num % 2 ^ log)
    let w := fun k => (BitVec.ofNat 64 (memValue s.mem (a + k) 8) : Word)
    match ws.find? fun x => x.tag == some (w 0) with
    | none => s
    | some x =>
      let s := setObjData s 971 n (.ring hub log base bellN (ws.filter fun y => !(y == x)) d)
      deliver s x.who (.reply ⟨w 0x10, w 0x18, w 0x20, capOfBytes (memBytes s.mem (a + 0x30) 16) (memTag s.mem (a + 0x30))⟩
        (w 8))

/-- A write of DONE (R353): every reply from the old DONE up to the new one is delivered in order, then waiting seats take
the entries that became free. A write that moves DONE backward or past REQ is ignored. -/
def ringDoneTo (s : State) (n : Nat) (done : Word32) : State :=
  match ringOf s n with
  | none => s
  | some (_, _, base, _, _, _) =>
    let old := ringDone s base
    let k := (done.toNat + 2 ^ 32 - old) % 2 ^ 32
    if (ringReq s base + 2 ^ 32 - old) % 2 ^ 32 < k then s
    else
      let s := { s with mem := memStore s.mem (base + 8) (bytesLE 4 done.toNat) false }
      ringPlace ((List.range k).foldl (fun s i => ringReply1 s n (old + i)) s) n

/-! ## Waits that end without a delivery (R325) -/

/-- The task with a saved thread that is woken with a fault due. -/
def savedWake (t : Task) (th : Thread) (f : WakeFault) : Task :=
  { t with
    savedWaits := dropKey t.savedWaits th
    savedWakes := putKey t.savedWakes th f
    conds := t.conds.filter fun c => !(c == ParkCond.blocked) }
/-- Wake a waiting party with a fault due when its instruction is issued again; a hart executes its instruction again. -/
def wakeParty (s : State) (p : Party) (f : WakeFault) : State :=
  match p with
  | .hart h => putHart s h { getHart s h with wait := .none }
  | .dean _ _ _ => s
  | .seat task ct bt k =>
    match findTask s task with
    | none => s
    | some t =>
      match liveBench s t ⟨ct, bt, k⟩ with
      | some (c, slot) =>
        let s := if imageCounts s t c slot then putTask s (savedWake t ⟨ct, bt, k⟩ f) else s
        onSeat s c slot k fun x => { x with state := .eligible, wake := some f, due := [] }
      | none => putTask s (savedWake t ⟨ct, bt, k⟩ f)

/-- Every party queued at an endpoint or a notification is woken with PEER_GONE, OBJECT (R325). -/
def wakeQueues (s : State) (type num : Nat) : State :=
  let f : WakeFault := ⟨0x30, 2, num⟩
  if type = 963 then
    let q := epQueues s num
    let s := setObjData s 963 num (.endpoint [] [])
    (q.1.map (·.who) ++ q.2.map (·.who)).foldl (fun s p => wakeParty s p f) s
  else if type = 964 then
    let x := ntState s num
    let s := setObjData s 964 num (.notification x.1 [])
    (x.2.map (·.who)).foldl (fun s p => wakeParty s p f) s
  else if type = 971 then
    match ringOf s num with
    | none => s
    | some (hub, log, base, bellN, ws, d) =>
      (ws.map (·.who)).foldl (fun s p => wakeParty s p f) (setObjData s 971 num (.ring hub log base bellN [] d))
  else s

/-- Does a party belong to a task? -/
def partyOf (task : Word) : Party → Bool
  | .seat t _ _ _ => t == task
  | _ => false

/-- Take every seat of a task out of every queue (R325). -/
def purgeQueues (s : State) (task : Word) : State :=
  { s with objs := s.objs.map fun o =>
      match o.data with
      | .endpoint a b =>
        { o with data := .endpoint (a.filter fun x => !partyOf task x.who) (b.filter fun x => !partyOf task x.who) }
      | .notification w b => { o with data := .notification w (b.filter fun x => !partyOf task x.who) }
      | .ring hub log base bellN ws d => { o with data := .ring hub log base bellN (ws.filter fun x => !partyOf task x.who) d }
      | _ => o }

/-- The right that a reply in flight has taken. -/
def flightRight (f : Flight) : Option ReplyRight :=
  match f.kind with
  | .reply r _ _ => some r
  | _ => none
/-- The reply rights that the seats of a task hold, resident or saved, and those of its replies in flight. -/
def rightsOf (s : State) (t : Task) : List ReplyRight :=
  (t.cores.flatMap fun c => (getCore s c.phys).benches.flatMap fun e =>
    if e.2.task == t.id && e.1 != 64 then e.2.seats.filterMap (·.right) else []) ++ t.savedRights.map (·.2) ++
    (s.flights.filter fun f => f.task == t.id).filterMap flightRight ++ t.savedFlights.filterMap fun e => flightRight e.2

end Sys2Proof.Machine
end

