-- ==== Sys2Proof/Machine/Tmma.lean ====
section
/-!
DEFINITION. Tiles and the arithmetic of the matrix unit (R252, R253, R257), and the work of a team tile product on its tiles
(R268, R271, R272).
-/
namespace Sys2Proof.Machine

/-! ## Tiles -/

def putTile (s : State) (core k : Nat) (t : Tile) : State :=
  let c := getCore s core
  putCore s core { c with tiles := putKey c.tiles k t }
/-- The place of element (i, j). -/
def tileAt (i j : Nat) : Nat := 32 * i + j
def tileElem (t : Tile) (i j : Nat) : Nat := (nth t.elems (tileAt i j) 0).toNat
/-- Change the elements (i, j) of a tile that a test selects; the second part of a result sets the saturation flag. -/
def updTile (t : Tile) (sel : Nat → Nat → Bool) (f : Nat → Nat → Nat → Nat × Bool) : Tile :=
  let rs := (List.range 1024).map fun e =>
    if sel (e / 32) (e % 32) then f (e / 32) (e % 32) (nth t.elems e 0).toNat else ((nth t.elems e 0).toNat, false)
  { t with elems := rs.map fun r => BitVec.ofNat 48 r.1, sat := t.sat || rs.any (·.2) }
/-- Are both seats of an element issued (R257)? -/
def bothIssued (m : SeatMask) (i j : Nat) : Bool := m.getLsbD i && m.getLsbD j

/-! ## Chunks (R257) -/

/-- The element formats of the operands. -/
inductive MatElem where
  | flt (f : FFmt) (bits : Nat)
  | int8
  deriving DecidableEq, Repr

def matBits : MatElem → Nat
  | .flt _ b => b
  | .int8 => 8
def mmaElem : MmaFmt → MatElem
  | .e4m3 => .flt fmtE4M3 8
  | .e5m2 => .flt fmtE5M2 8
  | .bf16 => .flt fmtBf16 16
  | .f16 => .flt fmt16 16
  | .b => .int8
def mmasElem : MmasFmt → MatElem
  | .e4m3 => .flt fmtE4M3 8
  | .e5m2 => .flt fmtE5M2 8
  | .e3m2 => .flt fmtE3M2 6
  | .e2m3 => .flt fmtE2M3 6
  | .e2m1 => .flt fmtE2M1 4
/-- An E8M0 scale (R59). -/
def scaleV (b : Nat) : FVal := if b % 256 = 255 then .nan else .fin false 1 (Int.ofNat (b % 256) - 127)
/-- One unit scale. -/
def unitV : FVal := .fin false 1 0
/-- One chunk on an accumulator element: the sum is exact and rounded once; integers saturate (R56, R257). -/
def chunkUpdate (e : MatElem) (acc : Nat) (ab : List (Nat × Nat)) (sc : FVal) : Nat × Bool :=
  match e with
  | .flt f _ =>
    let ps := ab.map fun p => fmulV (fmulV (fdecode f p.1) (fdecode f p.2)) sc
    (fencode fmt48 .rne (ps.foldl (faddV false) (fdecode fmt48 acc)), false)
  | .int8 =>
    let x := ab.foldl (fun a p => a + sx 8 p.1 * sx 8 p.2) (sx 48 acc)
    let top : Int := 2 ^ 47 - 1
    if top < x then (wrap 48 top, true) else if x < -top then (wrap 48 (-top), true) else (wrap 48 x, false)
/-- Chunks of 8 consecutive k in ascending order. -/
def chunksUpdate (e : MatElem) (acc : Nat) (chunks : List (List (Nat × Nat))) (sc : FVal) : Nat × Bool :=
  chunks.foldl (fun a ab =>
    let r := chunkUpdate e a.1 ab sc
    (r.1, a.2 || r.2)) (acc, false)
/-- Element m of a fragment held in one or two registers (R255). -/
def fragElem (e : MatElem) (lo hi : Word) (m : Nat) : Nat :=
  match matBits e with
  | 16 => elem (if m < 4 then lo else hi) (m % 4) 16
  | w => lo.toNat / 2 ^ (w * m) % 2 ^ w
/-- The number of k of a fragment. -/
def fragK (e : MatElem) : Nat := if matBits e = 4 then 16 else 8

/-! ## Team tile products: the descriptor (R268) -/

def tmAStride (c : TmmaCmd) : Nat := bitsOf c.q0 63 32
def tmAAddr (c : TmmaCmd) : Nat := bitsOf c.q0 24 0
def tmBStride (c : TmmaCmd) : Nat := bitsOf c.q1 63 32
def tmBAddr (c : TmmaCmd) : Nat := bitsOf c.q1 24 0
def tmSC (c : TmmaCmd) : Bool := bitOf c.q2 41
def tmFmt (c : TmmaCmd) : Nat := bitsOf c.q2 40 38
def tmACC (c : TmmaCmd) : Bool := bitOf c.q2 37
def tmARR (c : TmmaCmd) : Bool := bitOf c.q2 36
def tmGroup (c : TmmaCmd) : Nat := bitsOf c.q2 35 30
def tmK (c : TmmaCmd) : Nat := bitsOf c.q2 16 0
def tmBScale (c : TmmaCmd) : Nat := bitsOf c.q3 56 32
def tmAScale (c : TmmaCmd) : Nat := bitsOf c.q3 24 0
/-- The element format of a command (R268). -/
def tmElem (c : TmmaCmd) : MatElem :=
  match tmFmt c with
  | 0 => .flt fmtE4M3 8
  | 1 => .flt fmtE5M2 8
  | 2 => .flt fmtBf16 16
  | 3 => .flt fmt16 16
  | 4 => .int8
  | 5 => .flt fmtE2M1 4
  | 6 => .flt fmtE3M2 6
  | _ => .flt fmtE2M3 6
/-! ## Team tile products: chunks (R271, R272) -/

/-- Element n of a row of packed elements in the window, with its poison (R59, R268). -/
def packedElem (s : State) (t : Task) (k a w n : Nat) : Nat × Bool :=
  let bit := w * n
  let x := seeWindow s t k (a + bit / 8) ((w + bit % 8 + 7) / 8)
  (valueLE x.bytes / 2 ^ (bit % 8) % 2 ^ w, x.poison)
/-- One output element of a command over some chunks: its value, saturation and poison (R271). -/
def tmmaElem (s : State) (t : Task) (k : Nat) (c : TmmaCmd) (chunks : List Nat) (r j acc : Nat) : Nat × Bool × Bool :=
  let e := tmElem c
  let w := matBits e
  let o := c.origin.toNat
  let a := fun (n : Nat) => packedElem s t k (o + tmAAddr c + r * tmAStride c) w n
  let b := fun (n : Nat) => packedElem s t k (o + tmBAddr c + n * tmBStride c) w j
  let sa := fun (n : Nat) => packedElem s t k (o + tmAScale c + r * (tmK c / 32)) 8 (n / 32)
  let sb := fun (n : Nat) => packedElem s t k (o + tmBScale c + j * (tmK c / 32)) 8 (n / 32)
  chunks.foldl (fun v ch =>
    let ks := (List.range 8).map fun m => 8 * ch + m
    let sc := if tmSC c then fmulV (scaleV (sa (8 * ch)).1) (scaleV (sb (8 * ch)).1) else unitV
    let u := chunkUpdate e v.1 (ks.map fun n => ((a n).1, (b n).1)) sc
    let bad := (ks.any fun n => (a n).2 || (b n).2) || (tmSC c && ((sa (8 * ch)).2 || (sb (8 * ch)).2))
    (u.1, v.2.1 || u.2, v.2.2 || bad)) (acc, false, false)
/-- The chunks of a command from its next one to a bound. -/
def chunksTo (c : TmmaCmd) (bound : Nat) : List Nat := (List.range (min bound (tmK c / 8))).drop c.nextChunk
/-- Some chunks of the command performed on one of its four tiles. -/
def tmmaTile (s : State) (f : Flight) (c : TmmaCmd) (chunks : List Nat) (q : Nat) : State :=
  let t := flightTask s f
  let k := flightCoreT s f
  let x := getTile s f.core (c.tile + q)
  let res := (List.range 1024).map fun e =>
    tmmaElem s t k c chunks (e / 32 + 32 * (q / 2)) (e % 32 + 32 * (q % 2)) (nth x.elems e 0).toNat
  putTile s f.core (c.tile + q)
    { elems := res.map fun r => BitVec.ofNat 48 r.1
      poison := (x.poison ++ (List.range 1024).filter fun e => (nth res e (0, false, false)).2.2).eraseDups
      sat := x.sat || res.any fun r => r.2.1 }
/-- Some chunks of the command performed on its four tiles. -/
def tmmaChunks (s : State) (f : Flight) (c : TmmaCmd) (chunks : List Nat) : State :=
  (List.range 4).foldl (fun s q => tmmaTile s f c chunks q) s
/-- A command in progress stops at a chunk boundary (R272): how far it has come is free. -/
def tmmaStop (s : State) (f : Flight) : State :=
  match f.kind with
  | .tmma c =>
    if !c.started then s
    else
      let (n, s) := draw s (tmK c / 8 + 1)
      let n := max c.nextChunk n
      putFlight (tmmaChunks s f c (chunksTo c n)) { f with kind := .tmma { c with nextChunk := n } }
  | _ => s

end Sys2Proof.Machine
end

