-- ==== Sys2Proof/Machine/Dean.lean ====
section
/-!
DEFINITION. What the Dean does with a task that is stopped: fault records (R383 to R385), bins and launches (R288 to
R290), the release of its resources, the abort for requeue and the end of a task (R307, R308), publication (R202, R226),
and the halt and resumption of its benches (R376, R377).
-/
namespace Sys2Proof.Machine

/-! ## Records (R383, R384) -/

/-- The 128 bytes of a fault record (R383). -/
def recordBytes (t : Task) (r : FaultRec) : List Byte :=
  bytesLE 4 r.seq.toNat ++ bytesLE 1 r.code ++ bytesLE 1 r.sub ++ bytesLE 1 r.seat ++ bytesLE 1 r.benchT ++
  bytesLE 8 r.bell.toNat ++ bytesLE 8 t.id.toNat ++ bytesLE 8 r.ifa.toNat ++ bytesLE 8 r.addr.toNat ++
  bytesLE 4 r.mask.toNat ++ bytesLE 1 r.named ++ bytesLE 1 (r.past.toNat + 2 * r.auxTag.toNat) ++ bytesLE 2 t.node ++
  bytesLE 8 r.resume.toNat ++ bytesLE 1 r.index ++ bytesLE 7 0 ++ bytesLE 16 r.aux.toNat ++ bytesLE 8 t.graph ++
  bytesLE 8 r.requeues ++ bytesLE 32 0

/-- W0 of a record's message (R384). -/
def recordWord (r : FaultRec) (reason : Nat) : Word :=
  BitVec.ofNat 64 (r.code + r.sub % 256 * 2 ^ 8 + r.seat % 32 * 2 ^ 16 + r.benchT % 64 * 2 ^ 21 +
    r.named % 64 * 2 ^ 27 + reason * 2 ^ 40)

/-- Source identifiers (R354). A compute core stands here under die × 64 + core; the service cores follow the 96 host harts
in the list of harts. -/
def coreSource (core : Nat) : Nat := core
def hartSource (h : Nat) : Nat := if h < Config.hostHarts then 0x400 + h else 0x500 + (h - Config.hostHarts)
def deanSource (die : Nat) : Nat := 0x600 + die

/-- A record that reports no fault (R14, R384). The Dean makes it: no core's stream numbers it (R13). -/
def FaultRec.empty (bell : Word) (requeues : Nat) : FaultRec :=
  ⟨0, 0, 0, 0, 0, 0, 0, 0, 0, 0, 0, false, 0, false, bell, requeues, false, none, deanSource 0, 0, false⟩

/-- The next sequence number of a core's fault records (R13). -/
def faultSeq (s : State) (core : Nat) : Word32 × State :=
  let c := getCore s core
  (c.seqFault, putCore s core { c with seqFault := c.seqFault + 1 })

/-- Where a task's records stand in its save space: after the images, one place for each bench, one for the others. -/
def recordPlace (s : State) (t : Task) (r : FaultRec) : Nat :=
  let n := taskNode s t
  t.saveBase.toNat + n.team * coreImages n + 128 * (r.coreT * n.benches + r.benchT)

/-- The endpoint that a capability names, if it names a live one. -/
def epOfCap (s : State) (c : Cap) : Option Nat :=
  if c.tag && capSeal c == 963 && !objGone s 963 (capNum c) then some (capNum c) else none

/-- Write a record and send its message on the task's behalf (R384): `call` for an `xcall`, else a `send`. A record for
an endpoint that is gone is answered GONE at once where an answer is awaited. -/
def sendRecord (s : State) (t : Task) (r : FaultRec) (c : Cap) (reason : Nat) (call pager : Bool) (w2 : Word) : State :=
  let a := recordPlace s t r
  let s := physStore s a (recordBytes t r) false
  let cap := boundedCap (BitVec.ofNat 64 a) 0x200 0 a (a + 128) true
  match epOfCap s c with
  | some ep =>
    epSend s ep ⟨.dean t.die t.id pager, ⟨recordWord r reason, t.id, w2, cap⟩,
      capCursor c &&& 0x7FFFFFFFFFFFFFFF, call, hasPerm c .stc⟩
  | none => if call && !pager then { s with agenda := s.agenda ++ [.faultDisposition t.id none] } else s

/-- A record for the graph's ERREP: no reply is awaited (R384). -/
def sendErr (s : State) (t : Task) (r : FaultRec) (reason : Nat) : State :=
  sendRecord s t r (graphOf s t.graph).errep reason false false r.addr

/-- A record for the pager (R307): it carries the requeues since the last checkpoint. -/
def sendPager (s : State) (t : Task) (r : FaultRec) : State :=
  sendRecord s t r (taskSpace s t).pager 0 true true r.addr

/-- Send the first of a task's records that waits, unless one is unanswered (R385): ordered by bell, then source. -/
def sendNextFault (s : State) (id : Word) : State :=
  match findTask s id with
  | none => s
  | some t =>
    if t.faults.any fun r => r.sent && r.answer.isNone then s
    else
      match t.faults.find? fun r => !r.sent with
      | none => s
      | some r =>
        let t' := { t with faults := t.faults.map fun x => if x == r then { x with sent := true } else x }
        sendRecord (putTask s t') t' r (taskSpace s t).faultep 0 true false r.addr

/-- Does a record stand before another: by bell, then by source identifier, then by the source's own numbers (R13, R385)? -/
def FaultRec.before (x y : FaultRec) : Bool :=
  decide (x.bell.toNat < y.bell.toNat) ||
    (x.bell == y.bell && (decide (x.source < y.source) || (x.source == y.source && decide ((y.seq - x.seq).toNat < 2 ^ 31))))

/-- Insert a record in that order (R385). -/
def insertFault (l : List FaultRec) (r : FaultRec) : List FaultRec :=
  (l.filter fun x => x.before r) ++ [r] ++ l.filter fun x => !x.before r

/-! ## Bins and launches (R288 to R290) -/

def Bin.empty : Bin := ⟨0, [], none⟩

def binOf (s : State) (g n : Nat) : Bin := (lookupKey (graphOf s g).bins n).getD Bin.empty
def putBin (s : State) (g n : Nat) (b : Bin) : State :=
  let x := graphOf s g
  setObjData s 967 g (.graph { x with bins := putKey x.bins n b })
def binNode (s : State) (g n : Nat) : NodeObj := nodeObjOf s (nth (graphOf s g).nodes n 0)
/-- Free places of a bin (R288). -/
def binFree (s : State) (g n : Nat) : Nat :=
  let b := binOf s g n
  (binNode s g n).binCap - b.reserved - b.delivered.length

/-- Launch a task with records (R290). Its save space lies under its address space's KID (R390). -/
def launchTask (s : State) (g n : Nat) (recs : List BinRec) : State :=
  let node := binNode s g n
  let kid := (aspaceObj s (codeOf s node.code).aspace).kid
  let t : Task := { Task.none_ with
    id := s.nextTask, graph := g, node := n, readySeq := s.nextSeq, since := s.bell, launched := s.bell, records := recs,
    phase := .pool, saveBase := BitVec.ofNat 64 (kid * 2 ^ 40) + s.saveNext }
  { s with
    tasks := s.tasks ++ [t], nextTask := s.nextTask + 1, nextSeq := s.nextSeq + 1
    saveNext := s.saveNext + BitVec.ofNat 64 (saveSize node) }

/-- Launch by count as often as the delivered records allow (R290); fuel is their number. -/
def launchFull (s : State) (g n : Nat) : Nat → State
  | 0 => s
  | fuel + 1 =>
    let b := binOf s g n
    let c := (binNode s g n).count
    if b.delivered.length < c ∨ c = 0 then s
    else launchFull (launchTask (putBin s g n { b with delivered := b.delivered.drop c }) g n (b.delivered.take c)) g n fuel

/-- The timer of a bin, started now (R290). -/
def startTimer (s : State) (g n : Nat) : Option Word :=
  let t := (binNode s g n).timer
  if t = 0 then none else some (s.bell + BitVec.ofNat 64 t)

/-- One delivery of records into a bin, with the launches that follow (R289, R290). `fromReserved` places become
delivered. -/
def deliverRecs (s : State) (g n : Nat) (recs : List BinRec) (fromReserved : Nat) : State :=
  let b := binOf s g n
  let started := if b.delivered.isEmpty then startTimer s g n else b.timer
  let full := (binNode s g n).count ≤ b.delivered.length + recs.length
  let s := putBin s g n
    { b with reserved := b.reserved - fromReserved, delivered := b.delivered ++ recs, timer := started }
  if full then
    let s := launchFull s g n (b.delivered.length + recs.length)
    let b := binOf s g n
    putBin s g n { b with timer := if b.delivered.isEmpty then none else startTimer s g n }
  else s

/-- The distinct bins that a task's held records go to. -/
def heldBins (t : Task) : List (Nat × Nat) := (t.heldRecs.map fun r => (r.graph, r.node)).eraseDups

/-- Deliver a task's held records, bin by bin, each as one delivery in emit order (R288, R289). -/
def deliverHeld (s : State) (t : Task) : State :=
  (heldBins t).foldl (fun s b =>
    let rs := (t.heldRecs.filter fun r => r.graph == b.1 && r.node == b.2).map (·.data)
    deliverRecs s b.1 b.2 rs rs.length) s

/-- Release a task's reservations in bins (R288). -/
def releaseReserved (s : State) (t : Task) : State :=
  t.reserved.foldl (fun s b => putBin s b.1 b.2 { binOf s b.1 b.2 with reserved := (binOf s b.1 b.2).reserved - 1 }) s

/-! ## Placement -/

/-- The benches of a task: core and slot. -/
def taskBenches (s : State) (t : Task) : List (Nat × Nat) :=
  t.cores.flatMap fun c =>
    ((getCore s c.phys).benches.filter fun e => e.1 != 64 && e.2.task == t.id).map fun e => (c.phys, e.1)

/-- The target of a core's open run: the bench that TBENCH names. -/
def runTarget (s : State) (core : Nat) : Nat := (getCore s core).tregs.tbench.toNat

/-- The open run of a core ends and its monitor bench stops (R337). -/
def closeRun (s : State) (core : Nat) : State :=
  let c := getCore s core
  putCore { s with flights := s.flights.filter fun f => !(f.core == core && f.slot == 64) } core
    { c with run := none, tregs := TRegs.reset, benches := dropKey c.benches 64 }

/-- Is the open run of a core for a bench of a task? -/
def runOf (s : State) (core : Nat) (task : Word) : Bool :=
  (getCore s core).run.isSome && (getBench s core (runTarget s core)).task == task && runTarget s core != 0x7F

/-- Take a task off its cores (R307, R305): benches, queued faults and runs, file, copies and instructions in flight. -/
def unplace (s : State) (t : Task) : State :=
  let s := t.cores.foldl (fun s c => if runOf s c.phys t.id then closeRun s c.phys else s) s
  let s := t.cores.foldl (fun s c =>
    let x := getCore s c.phys
    let slots := (x.benches.filter fun e => e.1 != 64 && e.2.task == t.id).map (·.1)
    putCore s c.phys { x with
      benches := x.benches.filter fun e => !slots.contains e.1
      faultQ := x.faultQ.filter fun f => !slots.contains f.slot
      saveQ := x.saveQ.filter fun k => !slots.contains k
      restoreQ := x.restoreQ.filter fun k => !slots.contains k
      accTask := if x.accTask == some t.id then none else x.accTask
      tiles := if x.accTask == some t.id then [] else x.tiles }) s
  { s with
    flights := s.flights.filter fun f => !(f.task == t.id)
    remote := s.remote.filter fun o => o.lib.isSome || !(s.stageReqs.any fun x => x.task == t.id && x.id == o.flight)
    stageReqs := s.stageReqs.filter fun x => !(x.task == t.id) }

/-- What a placed task leaves behind when it is taken off its cores. -/
def Task.offCore (t : Task) : Task := { t with cores := [], groups := [], dieHold := [], heldRecs := [], reserved := [] }

/-! ## Halt (R160, R377) -/

/-- A mailbox wait holds its deadline while its bench runs and the time left while it is halted (R160). -/
def freezeSeat (bell : Word) (x : Seat) : Seat :=
  match x.state with
  | .blocked (.mbr m d left) => { x with state := .blocked (.mbr m d (left - bell.toNat)) }
  | .blocked (.mbw m w left) => { x with state := .blocked (.mbw m w (left - bell.toNat)) }
  | _ => x

/-- Halt a running bench (R377): N holds end, since only a running bench holds its pipe; N itself is loaded again from the recorded
header when the bench goes on (R36); lift holds end, and the operand cache empties (R141). -/
def haltBench (bell : Word) (b : Bench) : Bench :=
  match b.mode with
  | .running =>
    { b with
      mode := .halted, seats := if b.timers then b.seats.map (freezeSeat bell) else b.seats, lifted := 0, nfree := 0
      opCache := [], timers := false }
  | _ => b

/-- Change every bench of a task. -/
def onBenches (s : State) (t : Task) (f : Bench → Bench) : State :=
  (taskBenches s t).foldl (fun s e => putBench s e.1 e.2 (f (getBench s e.1 e.2))) s

/-! ## Abort and end (R307, R308) -/

/-- Is a push's grant on its way: it crosses a withdrawal, and wins (R409)? -/
def grantComes (s : State) (f : Flight) : Bool :=
  s.agenda.any fun e => match e with
    | .pushGrant id _ _ => id == f.id
    | _ => false
/-- A halt withdraws a push that is not granted: its register takes BUSY and its flag falls (R409). -/
def withdrawPush (s : State) (f : Flight) : State :=
  match f.kind with
  | .push req pkg d none _ _ _ =>
    if grantComes s f then s
    else
      let s := { s with outbox := s.outbox ++ [.withdraw pkg req], remote := s.remote.filter fun o => o.flight != f.id }
      endFlight (landData s f [(d, [(lowestSeat f.seats, 0x8000000000000001, none)])]) f
  | _ => s

/-- Undo what an abort undoes (R205, R306, R307, R325): reply rights, queue places, reservations, hold, everything on the
cores, requests not yet sent. It waits for nothing any more but its owner's RELEASE (R378) and a placement (R389). Answers the task as it then
stands. -/
def discardTask (s : State) (t : Task) : State × Task :=
  let rights := rightsOf s t
  let s := forgetCallers (rights.foldl (fun s r => dropRight s (some r)) s) (isTaskSeat t.id)
  let s := releaseReserved (purgeQueues s t.id) t
  let s := (s.flights.filter fun f => f.task == t.id).foldl withdrawPush s
  let gone := ((s.flights.filter fun f => f.task == t.id).map (·.id)) ++ t.savedFlights.map fun e => e.2.id
  let s := unplace s t
  ({ s with
      board := s.board.map fun b => (b.1, { b.2 with queue := b.2.queue.filter fun q => !(q.task == t.id && q.sent.isNone) })
      remote := s.remote.filter fun o => o.lib.isSome || !gone.contains o.flight
      aborts := s.aborts.filter fun a => !(a.1 == t.id)
      poolWaits := s.poolWaits.filter fun w => match w.who with
        | .task id _ => !(id == t.id)
        | _ => true
      agenda := s.agenda.filter fun e => match e with
        | .faultDisposition k _ => !(k == t.id)
        | _ => true },
    { t.offCore with
      conds := t.conds.filter fun c => c == ParkCond.owner || c == ParkCond.placement
      saved := false, savedCores := [], savedWaits := [], savedRights := [], savedWakes := [], savedFlights := [], savedMisses := [], savedForms := []
      faults := [], haltQ := [], ckptSeats := [], fromCkpt := false })

/-- End a task (R308): its records are discarded and ERREP receives the record. -/
def endTask (s : State) (id : Word) (r : FaultRec) (reason : Nat) : State :=
  match findTask s id with
  | none => s
  | some t =>
    match discardTask s t with
    | (s, t) => dropTask (sendErr (putTask s t) t r reason) id

/-- A task that restarts from its checkpoint has its images back in its save space (R309). -/
def restartFrom (s : State) (t : Task) : State × Task :=
  match t.restart with
  | none => (s, t)
  | some c =>
    let n := taskNode s t
    ({ s with mem := memPaste s.mem t.saveBase.toNat (n.team * coreImages n) c.images },
      { t with saved := true, fromCkpt := true, savedCores := c.cores, savedFlights := c.flights })

/-- Abort for requeue (R307, R308). `r` is the record of the cause. -/
def abortNow (s : State) (id : Word) (cause : AbortCause) (r : FaultRec) : State :=
  match findTask s id with
  | none => s
  | some t0 =>
    let n := t0.requeues + 1
    let r := { r with requeues := n }
    if 64 ≤ n then endTask s id r 4
    else
      match discardTask s t0 with
      | (s, t) =>
        match restartFrom s t with
        | (s, t) =>
          let t := { t with phase := .pool, requeues := n, since := s.bell, poolTime := 0 }
          match cause with
          | .pageFault _ _ =>
            let t := { t with conds := t.conds ++ [.page] }
            sendPager (putTask s t) t r
          | .requeue => putTask s t
          | .remoteLost =>
            let t := { t with conds := t.conds ++ [.leasemax (s.bell + s.mgmt.leasemax)] }
            sendErr (putTask s t) t r 2
          | .machineCheck _ => sendErr (putTask s t) t r 3

/-- Has a task a push that is granted and not complete? -/
def pushesOut (s : State) (id : Word) : Bool :=
  s.flights.any fun f => f.task == id && match f.kind with
    | .push _ _ _ _ _ _ _ => true
    | _ => false
/-- Abort for requeue: the task's benches stop, pushes that are not granted are withdrawn, and granted ones complete before the hold
is discarded (R307, R409). An abort that waits for them is not begun again. -/
def abortWith (s : State) (id : Word) (cause : AbortCause) (r : FaultRec) : State :=
  match findTask s id with
  | none => s
  | some t =>
    if s.aborts.any fun a => a.1 == id then s
    else
      let u := (s.flights.filter fun f => f.task == id).foldl withdrawPush s
      if pushesOut u id then { onBenches u t (haltBench s.bell) with aborts := u.aborts ++ [(id, cause, r)] }
      else abortNow u id cause r
/-- The aborts that have waited for granted pushes go on (R409). -/
def finishAborts (s : State) : State :=
  s.aborts.foldl (fun s a =>
    if pushesOut s a.1 then s
    else abortNow { s with aborts := s.aborts.filter fun x => !(x.1 == a.1) } a.1 a.2.1 a.2.2) s

/-- The record of an abort's cause, where neither a fault of a pass nor a core carries one. DESIGN CHOICE (log 111): an abort without a
fault of its own has no last faulting address (R308), and the record gives 0. -/
def abortRec (s : State) (cause : AbortCause) : FaultRec :=
  let r := FaultRec.empty s.bell 0
  match cause with
  | .pageFault va sub => { r with code := 0x20, sub := sub, addr := va }
  | .requeue => r
  | .remoteLost => { r with code := 0x40, sub := 1 }
  | .machineCheck sub => { r with code := 0x70, sub := sub }

def abortTask (s : State) (id : Word) (cause : AbortCause) : State := abortWith s id cause (abortRec s cause)

/-- The record of an abort by what a core met, with the next number of that core's stream (R13, R383). -/
def coreRec (s : State) (t : Task) (core : Nat) (r : FaultRec) : FaultRec × State :=
  let q := faultSeq s core
  ({ r with seq := q.1, coreT := coreTOf t core, named := mapCoreT t core, source := coreSource core }, q.2)

/-- A task is aborted by what a core met, if one is known (R13, R388, R431). -/
def abortOn (s : State) (id : Word) (core : Option Nat) (cause : AbortCause) : State :=
  match core, findTask s id with
  | some c, some t =>
    match coreRec s t c (abortRec s cause) with
    | (r, s) => abortWith s id cause r
  | _, _ => abortTask s id cause

/-- The record of an abort by an instruction in flight: its core, bench and seats; for a lost path AUX is the remote address
(R387). -/
def flightRec (s : State) (f : Flight) (cause : AbortCause) (va : Word) : FaultRec × State :=
  match findTask s f.task with
  | none => (abortRec s cause, s)
  | some t =>
    let r := abortRec s cause
    coreRec s t f.core
      { r with
        addr := va, mask := f.seats, seat := lowestSeat f.seats, benchT := (getBench s f.core f.slot).benchT
        aux := if cause = .remoteLost then va.setWidth 128 else r.aux }

/-- An instruction in flight aborts its task (R225, R234, R388). -/
def abortFlight (s : State) (f : Flight) (cause : AbortCause) (va : Word) : State :=
  let q := flightRec s f cause va
  abortWith q.2 f.task cause q.1

/-- An access of a saved task aborts it (R388, R396, R403): its bench stands on no core, whose numbers it could take. -/
def abortSaved (s : State) (t : Task) (th : Thread) (f : Flight) (cause : AbortCause) (va : Word) : State :=
  abortWith s t.id cause
    { abortRec s cause with
      addr := va, mask := f.seats, seat := lowestSeat f.seats, benchT := th.benchT, coreT := th.coreT, named := th.coreT
      aux := if cause = .remoteLost then va.setWidth 128 else 0 }

/-! ## Publication (R202, R226) -/

/-- Translate one held line for a store, without the heap's limit, which the issue has tested (R226). -/
def publishLine (s : State) (core : Nat) (sp : ASpace) (l : HoldLine) : Except TransErr (Nat × State) :=
  translate1 s core sp sp.hspan (l.line * 64) .store

/-- Translate every held line before any byte is written (R226). -/
def publishPlan (s : State) (core : Nat) (sp : ASpace) : List HoldLine → Except (Word × TransErr) (List (HoldLine × Nat) × State)
  | [] => .ok ([], s)
  | l :: ls =>
    match publishLine s core sp l with
    | .error e => .error (BitVec.ofNat 64 (l.line * 64), e)
    | .ok (pa, s) =>
      match publishPlan s core sp ls with
      | .error e => .error e
      | .ok (ps, s) => .ok ((l, pa) :: ps, s)

/-- Write the held bytes, tags and poison of a line to its location. -/
def publishWrite (s : State) (l : HoldLine) (pa : Nat) : State :=
  if isMgmt pa then s
  else
    let m := (List.range 64).foldl (fun m k =>
      if l.mask.getLsbD k then memSetByte m (pa + k) (BitVec.ofNat 8 (l.data.toNat / 2 ^ (8 * k))) else m) s.mem
    let m := (List.range 4).foldl (fun m g =>
      let m := match nth l.tags g none with
        | some b => memSetTag m (pa + 16 * g) b
        | none => m
      match nth l.poison g none with
      | some b => memSetPoison m (pa + 16 * g) b
      | none => m) m
    let s := { s with mem := m }
    if l.tags.any fun x => x == some true then summarise s pa else s

/-- The hold of a task after every core part has drained. -/
def drained (t : Task) : Task := drainAll t

/-- The core through which the Dean translates for a task: its first, or the first of its die while it stands on none. -/
def homeCore (t : Task) : Nat := if t.cores.isEmpty then 64 * t.die else (taskCore t 0).phys
/-- Publish a task's hold (R202): drained, translated as a whole, written. Nothing is written when a translation fails. -/
def publishHold (s : State) (t : Task) : Except (Word × TransErr) (State × Task) :=
  let t := drained t
  match publishPlan s (homeCore t) (taskSpace s t) t.dieHold with
  | .error e => .error e
  | .ok (ps, s) => .ok (ps.foldl (fun s p => publishWrite s p.1 p.2) s, { t with dieHold := [] })

/-- The page-fault sub-code of a translation failure; the others do not arise on a path without a heap limit. -/
def transSub : TransErr → Nat
  | .page k => k
  | .heap k => k
  | _ => 1

/-! ## Halt and resumption (R160, R376, R377) -/

/-- The time left of a mailbox wait counts again from the bell (R160). -/
def thawSeat (bell : Word) (x : Seat) : Seat :=
  match x.state with
  | .blocked (.mbr m d left) => { x with state := .blocked (.mbr m d (left + bell.toNat)) }
  | .blocked (.mbw m w left) => { x with state := .blocked (.mbw m w (left + bell.toNat)) }
  | _ => x

/-- Let a halted bench run again: every skip count is 0 (R130), and the mailbox timeouts wait for its first pass (R160). -/
def resumeBench (b : Bench) : Bench :=
  match b.mode with
  | .running => b
  | _ => { b with mode := .running, timers := false, seats := b.seats.map fun x => { x with skip := 0 } }
/-- The seats of a bench whose `pause` has ended go on (R98). -/
def wakePauses (bell : Word) (b : Bench) : Bench :=
  (List.range 32).foldl (fun b k =>
    match (getSeat b k).state with
    | .blocked (.pause u) => if u.toNat ≤ bell.toNat then unblockSeat b k 4 false else b
    | _ => b) b
/-- A halted bench runs again, and what it waited for while it stood still is there from its first pass on (R98). -/
def resumeAt (s : State) (core slot : Nat) (b : Bench) : State :=
  freeRows (putBench s core slot (wakePauses s.bell (resumeBench b))) core slot
/-- The mailbox timeouts of a bench run again from what was left of them (R160). -/
def startTimers (bell : Word) (b : Bench) : Bench :=
  if b.timers then b else { b with timers := true, seats := b.seats.map (thawSeat bell) }

/-- A halt withdraws the posts of a task that have not been transmitted (R414). -/
def withdrawPosts (s : State) (id : Word) : State :=
  { s with board := s.board.map fun b => (b.1, { b.2 with queue := b.2.queue.filter fun q => !(q.task == id && q.sent.isNone) }) }

/-- Does a post of a thread stand queued on a board group? -/
def postQueued (s : State) (id : Word) (k : Nat) (th : Thread) : Bool :=
  match lookupKey s.board k with
  | some b => b.queue.any fun q => q.task == id && q.thread == th
  | none => false

/-- Every bench of a team waits for a save run, in ascending task bench on each core (R366, R380). -/
def queueSaves (s : State) (t : Task) : State :=
  let slots := fun (c : TaskCore) => (List.range 64).filterMap fun n =>
    ((getCore s c.phys).benches.find? fun e => e.1 != 64 && e.2.task == t.id && e.2.benchT == n).map (·.1)
  t.cores.foldl (fun s c =>
    let x := getCore s c.phys
    putCore s c.phys { x with saveQ := x.saveQ ++ (slots c).filter fun k => !x.saveQ.contains k }) s

/-- The team halts whole (R377). A request that meets a halted team joins it (R379), and one that meets a team being restored waits
until the team runs. Every request but a checkpoint's has
the team saved (R376). -/
def haltTask (s : State) (t : Task) (why : HaltWhy) : State :=
  let queue := fun (s : State) => if why = .checkpoint then s else queueSaves s t
  match t.phase with
  | .running =>
    let own := s.flights.filter fun f => f.task == t.id
    let s := own.foldl tmmaStop (own.foldl withdrawPush (onBenches s t (haltBench s.bell)))
    queue (putTask (withdrawPosts s t.id) { t with phase := .halted why })
  | .restoring => putTask s { t with haltQ := t.haltQ ++ [why] }
  | .halted w =>
    -- The first request that has the team saved queues its save runs; a later one joins it.
    let s := putTask s { t with haltQ := t.haltQ ++ [why] }
    if (w :: t.haltQ).all (· == HaltWhy.checkpoint) then queue s else s
  | _ => s

/-- A seat whose post was withdrawn issues its `bpost` again (R414). -/
def reissuePosts (s : State) (t : Task) (coreT : Nat) (b : Bench) : Bench :=
  { b with seats := (List.range 32).map fun k =>
      let x := getSeat b k
      match x.state with
      | .blocked (.bpost g _) => if postQueued s t.id g ⟨coreT, b.benchT, k⟩ then x else { x with state := .eligible, due := [] }
      | _ => x }

/-- Does a bench run on a pipe? -/
def pipeRuns (s : State) (core pipe : Nat) : Bool :=
  (getCore s core).benches.any fun e => decide (e.1 < 64) && e.1 / 2 == pipe && e.2.mode == .running
/-- The pointer of a pipe that has had no running bench has gone on every 32 clocks (R314), which the model does not count: its
place is free when a bench runs there again (log 27). `s` is the state before the team runs and `u` the one after. -/
def freePointers (s : State) (t : Task) (u : State) : State :=
  let pipes := ((taskBenches s t).map fun e => (e.1, e.2 / 2)).eraseDups
  (pipes.filter fun e => !pipeRuns s e.1 e.2).foldl (fun u e =>
    let (p, u) := draw u 64
    let (n, u) := draw u 32
    let c := getCore u e.1
    putCore u e.1 { c with ttPos := putKey c.ttPos e.2 p, ttIdle := putKey c.ttIdle e.2 n }) u
/-- Every bench of a halted team runs again (R331). A bench that has faulted stays stopped. -/
def resumeTask (s : State) (t : Task) : State :=
  let s := freePointers s t <| (taskBenches s t).foldl (fun s e =>
    let b := getBench s e.1 e.2
    match b.mode with
    | .halted => resumeAt s e.1 e.2 (reissuePosts s t (coreTOf t e.1) b)
    | _ => s) s
  putTask s { t with phase := .running }

end Sys2Proof.Machine
end

