-- ==== Sys2Proof/Machine/Placement.lean ====
section
/-!
DEFINITION. The road of a task (R291 to R311): order of dispatch, teams, admission and its checks, clear, launch area
and staging, dispatch, saving and placing again, checkpoint, retirement.
-/
namespace Sys2Proof.Machine

/-! ## Resources (R124, R148, R296) -/

/-- May a bench with these budgets take a slot: is it free, and does the pair on its pipe fit (R124)? -/
def slotFits (bs : List (Nat × Bench)) (slot rows caprows : Nat) : Bool :=
  let other := if slot % 2 = 0 then slot + 1 else slot - 1
  !(bs.any fun e => e.1 == slot) &&
    match bs.find? fun e => e.1 == other with
    | some e => decide (e.2.rowBudget + rows ≤ 48) && decide (e.2.capBudget + caprows ≤ 8)
    | none => true

/-- Slots for n benches of one node on a core, lowest first, or none. -/
def pickSlots (bs : List (Nat × Bench)) (rows caprows : Nat) : Nat → Option (List Nat)
  | 0 => some []
  | n + 1 =>
    match (List.range Config.benchSlots).find? fun k => slotFits bs k rows caprows with
    | none => none
    | some k =>
      let b := { Bench.reset with rowBudget := rows, capBudget := caprows }
      match pickSlots (bs ++ [(k, b)]) rows caprows n with
      | none => none
      | some ks => some (k :: ks)

/-- The allocations on a core: base and size (R148). -/
def coreAllocs (s : State) (core : Nat) : List (Nat × Nat) :=
  s.tasks.flatMap fun t => (t.cores.filter fun c => c.phys == core).map fun c => (c.base, allocSize s t)

/-- A free aligned allocation of a size on a core (R148). Of those that do not overlap another the spec names none; DESIGN CHOICE
(log 40): the lowest. -/
def freeAlloc (s : State) (core size : Nat) : Option Nat :=
  ((List.range (0x80000 / size)).map (· * size)).find? fun b =>
    (coreAllocs s core).all fun a => decide (b + size ≤ a.1) || decide (a.1 + a.2 ≤ b)

/-- Scoreboard entries in use on a core. -/
def scoreUsed (s : State) (core : Nat) : Nat :=
  (s.tasks.flatMap fun t => (t.cores.filter fun c => c.phys == core).map fun c => c.staging.length).sum

/-- The scheduling context object of a task's graph: its number and the cores it is bound on (R313). -/
def boundOn (s : State) (t : Task) (core : Nat) : Bool :=
  match findObj s 965 (graphOf s t.graph).sched with
  | some { data := .sched _ _ _ bound, .. } => bound.any fun b => b.1 == core
  | _ => false

/-- Regions that are staged: `rd` and `rw` (R298); and stored: `wr` and `rw` (R305). -/
def stagedRegions (n : NodeObj) : List RegionDesc := n.regions.filter fun r => r.mode % 2 == 1
def storedRegions (n : NodeObj) : List RegionDesc := n.regions.filter fun r => r.mode / 2 % 2 == 1

/-- Does FEAT of a core cover a task's declared mask (R50, R389)? -/
def featCovers (s : State) (t : Task) (core : Nat) : Bool :=
  let m := (taskCode s t).feat
  m &&& (getCore s core).feat == m && !(getCore s core).outOfService

/-- Is a core of the graph's PLACE (R281)? -/
def inPlace (s : State) (t : Task) (core : Nat) : Bool :=
  (nth (graphOf s t.graph).place (dieOf core) 0).getLsbD (core % Config.coresPerDie)

/-- Can a core host the task now (R296)? -/
def coreFits (s : State) (t : Task) (core : Nat) : Bool :=
  let n := taskNode s t
  inPlace s t core && featCovers s t core && boundOn s t core &&
    (pickSlots (getCore s core).benches n.rows n.capRows n.benches).isSome &&
    (freeAlloc s core (2 ^ n.spadLog)).isSome && (!n.acc || (getCore s core).accTask.isNone) &&
    decide (scoreUsed s core + (stagedRegions n).length ≤ 64)

/-- The hold budget in use on a die (R296). -/
def holdUsed (s : State) (die : Nat) : Nat :=
  ((s.tasks.filter fun t => !t.cores.isEmpty && t.die == die).map fun t => 2 ^ (taskNode s t).holdLog).sum

/-! ## Order of dispatch (R292 to R294) -/

/-- The policy that applies to a graph (R293): true for code affinity. -/
def affinity (g : GraphObj) : Bool :=
  match g.policy with
  | 0 => decide ((g.place.map fun m => popN 64 m.toNat).sum ≤ 128)
  | 1 => true
  | _ => false

/-- The score of one core under code affinity (R293): 2 for the line of the entry, 1 for each pipe that homes one bench
and would home one of the task's. -/
def coreScore (s : State) (t : Task) (core : Nat) : Nat :=
  let n := taskNode s t
  let c := getCore s core
  let a := ((taskCode s t).text.toNat + n.entry) / 128 * 128
  let one := (pickSlots c.benches n.rows n.capRows n.benches).getD []
  (if c.icache.any fun l => l.asn == (taskSpace s t).asn && l.va == a then 2 else 0) +
    (one.filter fun k => c.benches.any fun e => e.1 == (if k % 2 = 0 then k + 1 else k - 1)).length

/-- Free bench slots of a core. -/
def freeSlots (s : State) (core : Nat) : Nat :=
  Config.benchSlots - ((getCore s core).benches.filter fun e => e.1 != 64).length

/-- The preference among cores (R294): larger first, then the lower core. -/
def corePref (s : State) (t : Task) (core : Nat) : Nat :=
  if affinity (graphOf s t.graph) then coreScore s t core else freeSlots s core

/-- Insert a core by preference. -/
def insertCore (f : Nat → Nat) (l : List Nat) (k : Nat) : List Nat :=
  (l.filter fun x => decide (f k ≤ f x)) ++ [k] ++ l.filter fun x => decide (f x < f k)

/-- The team that the die agent forms, if the die has room (R294, R296). -/
def formTeam (s : State) (t : Task) (die : Nat) : Option (List Nat) :=
  let n := taskNode s t
  let fit := ((List.range Config.coresPerDie).map (· + die * Config.coresPerDie)).filter (coreFits s t)
  let best := (fit.foldl (insertCore (corePref s t)) []).take n.team
  if best.length = n.team && decide (holdUsed s die + 2 ^ n.holdLog ≤ 0x2000000) then some best else none

/-- The remaining path of a node (R293): the largest sum of weights to a sink over forward edges; fuel is the number of
nodes. -/
def remainingPath (s : State) (g : GraphObj) : Nat → Nat → Nat
  | 0, _ => 0
  | fuel + 1, n =>
    (nodeObjOf s (nth g.nodes n 0)).weight +
      ((g.edges.filter fun e => e.1 == n && !e.2.2).map fun e => remainingPath s g fuel e.2.1).foldl max 0

/-- Is a task in the ready pool (R292)? A saved task waits until no remote reply is pending in its images (R396). -/
def inPool (t : Task) : Bool := t.phase == .pool && t.conds.isEmpty

/-- Has a task been in the pool for 1,000,000 ns without a break (R292)? -/
def aged (s : State) (t : Task) : Bool :=
  decide (1000000 ≤ t.poolTime.toNat) || (inPool t && decide (t.since.toNat + 1000000 ≤ s.bell.toNat))

/-- The effective class (R292). -/
def effClass (s : State) (t : Task) : Nat := if aged s t then 0 else (taskNode s t).prio

/-- Records of section 7 that still wait for a remote reply (R396). -/
def imagesWaiting (s : State) (t : Task) : Bool :=
  let n := taskNode s t
  t.saved && (List.range n.team).any fun c => (List.range n.benches).any fun b =>
    let o := t.saveBase.toNat + imgPlace n c b + imgSecOff n.rows n.capRows (imgAcc n b) 7
    (List.range (physValue s o 8)).any fun k =>
      let a := o + 0x80 + 0x80 * k
      physValue s a 1 != 3 && pendWaiting s t c b a != 0

/-- The score of a task on a die by its graph's policy (R293). -/
def policyScore (s : State) (t : Task) (die : Nat) : Nat :=
  let g := graphOf s t.graph
  if affinity g then (((formTeam s t die).getD []).map (coreScore s t)).sum
  else remainingPath s g g.nodes.length t.node

/-- The tasks that the Dean could take onto a die now. -/
def admissible (s : State) (die : Nat) : List Task :=
  s.tasks.filter fun t => inPool t && !imagesWaiting s t && (formTeam s t die).isSome

/-- The better of two tasks (R292): class, policy within one graph, ready sequence number. -/
def betterTask (s : State) (die : Nat) (a b : Task) : Bool :=
  let ca := effClass s a
  let cb := effClass s b
  if ca ≠ cb then decide (ca < cb)
  else if a.graph = b.graph ∧ policyScore s a die ≠ policyScore s b die then
    decide (policyScore s b die < policyScore s a die)
  else decide (a.readySeq < b.readySeq)

/-- The task that the Dean admits next to a die (R292). DESIGN CHOICE (log 109): tasks are compared in pairs, in the order of their
launch, where policy within a graph and sequence between graphs give no total order. -/
def nextTaskFor (s : State) (die : Nat) : Option Task :=
  match admissible s die with
  | [] => none
  | t :: ts => some (ts.foldl (fun best x => if betterTask s die x best then x else best) t)

/-- Free cores of PLACE on a die (R294). DESIGN CHOICE (log 110): a core is free if it can host the task now. -/
def freeCores (s : State) (t : Task) (die : Nat) : Nat :=
  (((List.range Config.coresPerDie).map (· + die * Config.coresPerDie)).filter (coreFits s t)).length

/-- The die that the Dean takes for a task (R294): the most free cores, then the lower number. -/
def bestDie (s : State) (t : Task) : Option Nat :=
  ((List.range Config.dies).filter fun d => (formTeam s t d).isSome).foldl (fun b d =>
    match b with
    | none => some d
    | some x => if freeCores s t x < freeCores s t d then some d else some x) none

/-- The admissions that the Dean makes now: each die's next task goes to the die that is best for it (R294); one for which that is the
die itself goes first. -/
def nextAdmissions (s : State) : List (Word × Nat) :=
  if s.tasks.any inPool then
    let all := (List.range Config.dies).filterMap fun d =>
      (nextTaskFor s d).bind fun t => (bestDie s t).map fun b => (d, t.id, b)
    let own := all.filter fun x => x.1 == x.2.2
    ((if own.isEmpty then all else own).map (·.2)).eraseDups
  else []

/-- Could a feature mask ever be placed (R389): do TEAM cores of some die in PLACE cover it? -/
def featPlaceable (s : State) (t : Task) : Bool :=
  (List.range Config.dies).any fun d =>
    decide ((taskNode s t).team ≤
      (((List.range Config.coresPerDie).map (· + d * Config.coresPerDie)).filter fun c =>
        inPlace s t c && featCovers s t c).length)

/-- The union of FEAT over the cores of PLACE (R389). -/
def featUnion (s : State) (t : Task) : Word :=
  ((List.range (Config.dies * Config.coresPerDie)).filter (inPlace s t)).foldl (fun w c => w ||| (getCore s c).feat) 0

/-- The record of R389. -/
def placementRec (s : State) (t : Task) : FaultRec :=
  { FaultRec.empty s.bell t.requeues with
    code := 0x50, sub := 3
    aux := (taskCode s t).feat.setWidth 128 ||| (featUnion s t).setWidth 128 <<< 64 }

/-! ## Regions (R277, R278, R297) -/

/-- The memory address of byte 0 of row r of a region for a team core (R277, R278). -/
def regionRow (n : NodeObj) (x : RegionDesc) (coreT r : Nat) : Int :=
  Int.ofNat (capCursor (nth n.args x.arg Cap.null)).toNat + x.offA +
    x.offB * Int.ofNat (coreT / (x.offD + 1)) + x.offC * Int.ofNat (coreT % (x.offD + 1)) + x.stride * Int.ofNat r

/-- Does a range on the carve path meet a way that no live carve object owns (R242)? -/
def carveGone (s : State) (sp : ASpace) (a n : Nat) : Bool :=
  pathAt sp a == .carve && [a, a + n - 1].any fun x =>
    match translateCarve s x with
    | .error .carve => true
    | _ => false
/-- The checks of R102 and R220 on a row's range (R297): code and sub-code of the failure. A row behind REMOTE meets neither the
window nor a local path (R105, R220). -/
def rowFault (s : State) (space : Nat) (c : Cap) (ld st : Bool) (a : Int) (n : Nat) : Option (Nat × Nat) :=
  if !c.tag then some (0x10, 1)
  else if 48 ≤ capE c then some (0x15, 1)
  else if capSeal c ≠ 0 then some (0x13, 1)
  else if (ld && !hasPerm c .ld) || (st && !hasPerm c .st) then some (0x12, 1)
  else if quarantined s space c then some (0x14, 1)
  else if a < capBase c ∨ capTop c < a + Int.ofNat n then some (0x11, 1)
  else if hasPerm c .remote then none
  else if a < Int.ofNat windowEnd then some (0x11, 2)
  else
    match pathChecks (aspaceObj s space) (aspaceObj s space).hlimit a.toNat n with
    | some (.heap k) => some (0x22, k)
    | _ => if carveGone s (aspaceObj s space) a.toNat n then some (0x14, 3) else none

/-- The first region check that fails (R297): core, region, code, sub-code, address. -/
def regionsFault (s : State) (t : Task) : Option (Nat × RegionDesc × Nat × Nat × Int) :=
  let n := taskNode s t
  (List.range n.team).findSome? fun k => n.regions.findSome? fun x => (List.range x.rows).findSome? fun r =>
    let a := regionRow n x k r
    (rowFault s (taskSpaceNum s t) (nth n.args x.arg Cap.null) (x.mode % 2 == 1) (x.mode / 2 % 2 == 1) a x.rowBytes).map
      fun f => (k, x, f.1, f.2, a)

/-- The record of a failed admission (R297). -/
def admissionRec (s : State) (t : Task) (f : Nat × RegionDesc × Nat × Nat × Int) : FaultRec :=
  let c := nth (taskNode s t).args f.2.1.arg Cap.null
  { FaultRec.empty s.bell t.requeues with
    code := f.2.2.1, sub := f.2.2.2.1, coreT := f.1, index := f.2.1.k, addr := BitVec.ofInt 64 f.2.2.2.2
    aux := c.bits, auxTag := c.tag }

/-! ## Benches of a task (R119, R122, R126) -/

/-- The code capability of a code object: EX over its text. -/
def codeCap (c : CodeObj) : Cap := boundedCap c.text 0x20 0 c.text.toNat (c.text.toNat + c.size.toNat) true

/-- A row that holds one capability for every seat. -/
def fullRow (r : Nat) (c : Cap) : Row Cap := ⟨r, 0xFFFFFFFF, 0, 0, List.replicate 32 c⟩

/-- The capability rows at task start (R119, R126); `move` is what the transfer leaves of an argument (R362). -/
def launchCaps (n : NodeObj) (move : Cap → Cap) : List (Row Cap) :=
  fullRow 1 (scratchCap n.team) ::
    ((List.range 3).filterMap fun k =>
      let c := nth n.args k Cap.null
      if c.tag then some (fullRow (k + 2) (move c)) else none)

/-- A bench at task start (R66, R119). -/
def startBench (s : State) (t : Task) (benchT : Nat) : Bench :=
  let n := taskNode s t
  let code := taskCode s t
  let pc := code.text + BitVec.ofNat 64 n.entry
  { Bench.reset with
    task := t.id, benchT := benchT, mode := .halted, rowBudget := n.rows, capBudget := n.capRows
    crows := launchCaps n (transferCap s (taskSpaceNum s t))
    seed := n.seed ^^^ (t.id * 0x9E3779B97F4A7C15) ^^^ BitVec.ofNat 64 benchT
    code := codeCap code
    seats := List.replicate 32 { Seat.reset with pc := pc, hdr := pc, must := 4, state := .eligible }
    hlimit := (taskSpace s t).hlimit }

/-- Every thread of a team (R122). -/
def allThreads (n : NodeObj) : List Thread :=
  (List.range n.team).flatMap fun c => (List.range n.benches).flatMap fun b => (List.range 32).map fun k => ⟨c, b, k⟩

/-! ## Admission and staging (R149, R287, R298) -/

/-- Place the benches of a task on a core. -/
def placeBenches (s : State) (t : Task) (core : Nat) : State :=
  let n := taskNode s t
  let c := getCore s core
  let slots := (pickSlots c.benches n.rows n.capRows n.benches).getD []
  putCore s core { c with
    benches := c.benches ++ (List.range slots.length).map fun b => (nth slots b 0, startBench s t b)
    accTask := if n.acc then some t.id else c.accTask
    tiles := if n.acc then [] else c.tiles }

/-- The granules of a region within an allocation. -/
def regionGranules (x : RegionDesc) : List Nat := (List.range (x.rows * x.rowBytes / 16)).map fun k => x.spad + 16 * k

/-- The launch area of one allocation (R287); `move` is what the transfer leaves of an argument (R362). -/
def launchArea (n : NodeObj) (recs : List BinRec) (move : Cap → Cap) (m : Mem) (base : Nat) : Mem :=
  let top := base + 2 ^ n.spadLog
  let args := decide (3 < n.argN)
  let m := if args then
      (List.range 16).foldl (fun m k => memStoreCap m (top - 256 + 16 * k) (move (nth n.args k Cap.null)) false) m
    else m
  if !n.recIn then m
  else
    let below := (if args then top - 256 else top) - recs.length * n.recSize
    (List.range recs.length).foldl (fun m k =>
      match recs[k]? with
      | none => m
      | some r =>
        let a := below + k * n.recSize
        let m := memStore m a r.bytes false
        r.poison.foldl (fun m g => memSetPoison m (a + 16 * g) true) m) m

/-- A task's place on a core before it starts. -/
def newTaskCore (n : NodeObj) (core base : Nat) : TaskCore :=
  { phys := core, base := base, map := [], gone := 0, mail := List.replicate 8 Mailbox.empty, hold := []
    staging := (stagedRegions n).map fun x => ⟨x.k, regionGranules x⟩ }

/-- Take the cores: allocation, benches, maps (R152, R296). -/
def takeCores (s : State) (t : Task) (die : Nat) (team : List Nat) : State × Task :=
  let n := taskNode s t
  let cores := team.map fun c => newTaskCore n c ((freeAlloc s c (2 ^ n.spadLog)).getD 0)
  let map := cores.map fun c => (c.phys, c.base)
  let t := { t with die := die, cores := cores.map fun c => { c with map := map }, groups := [] }
  (team.foldl (fun s c => placeBenches s t c) (putTask s t), t)

/-- A saved allocation as it comes back: a capability within a quarantined region loses its tag (R362, R364). -/
def movedTags (s : State) (space : Nat) (m : Mem) : Mem :=
  { m with tags := m.tags.filter fun g => (transferCap s space (capOfBytes (memBytes m (16 * g) 16) true)).tag }

/-- Clear every allocation and write the launch area (R149, R287). -/
def prepareAllocs (s : State) (t : Task) : State :=
  let n := taskNode s t
  t.cores.foldl (fun s c =>
    onSpad s c.phys fun m => launchArea n t.records (transferCap s (taskSpaceNum s t)) (memClear m c.base (2 ^ n.spadLog)) c.base) s

/-- Admit a task that starts from its beginning: placed, cleared, its staging begun (R296, R298). -/
def admitFresh (s : State) (t : Task) (die : Nat) (team : List Nat) : State :=
  match takeCores s t die team with
  | (s, t) =>
    let t := { t with
      phase := .staging s.bell, groups := [(0, { Group.empty with members := allThreads (taskNode s t) })] }
    putTask (prepareAllocs s t) t

/-- Is the flight a `tmma`? While its task is saved the command stands in its image (R272) and comes back with section 5; the flight
keeps its place in the issuing seat's order meanwhile (R273). -/
def isTmma (f : Flight) : Bool :=
  match f.kind with
  | .tmma _ => true
  | _ => false
/-- Place a saved task again (R149, R152, R304, R366): allocations and staging records back, benches to be restored. -/
def admitSaved (s : State) (t : Task) (die : Nat) (team : List Nat) : State :=
  match takeCores s t die team with
  | (s, t) =>
    let size := allocSize s t
    let t := { t with
      phase := .restoring
      cores := (List.range t.cores.length).map fun k =>
        { taskCore t k with staging := (nth t.savedCores k ⟨Mem.empty, []⟩).stage } }
    let s := (List.range t.cores.length).foldl (fun s k =>
      let c := taskCore t k
      onSpad s c.phys fun m => memPaste m c.base size (movedTags s (taskSpaceNum s t) (nth t.savedCores k ⟨Mem.empty, []⟩).alloc)) s
    -- Loads and stores held by R151 are in flight again, and so are pending arrivals (R304).
    let flights := (t.savedFlights.filter fun x => !isTmma x.2).filterMap fun x =>
      (benchOfThread s t x.1).map fun p => { x.2 with core := p.1, slot := p.2 }
    let s := { s with flights := s.flights ++ flights }
    let s := t.cores.foldl (fun s c =>
      let x := getCore s c.phys
      putCore s c.phys { x with
        restoreQ := x.restoreQ ++ (x.benches.filter fun e => e.1 != 64 && e.2.task == t.id).map (·.1) }) s
    -- Misses that were held meanwhile are delivered after the resume (R181).
    let s := (taskBenches s t).foldl (fun s e =>
      let b := getBench s e.1 e.2
      putBench s e.1 e.2 { b with
        misses := (t.savedMisses.filter fun x => x.1.coreT == coreTOf t e.1 && x.1.benchT == b.benchT).map (·.2) }) s
    putTask (onBenches s t fun b => { b with mode := .placed }) { t with savedFlights := t.savedFlights.filter fun x => isTmma x.2 }

/-- Admit a task that restarts from its checkpoint: as at task start, then restored once everything has landed (R309). -/
def admitCkpt (s : State) (t : Task) (die : Nat) (team : List Nat) : State :=
  match takeCores s t die team with
  | (s, t) =>
    putTask (prepareAllocs s t) { t with phase := .staging s.bell }

/-- Admission of a task to a die (R296, R297). -/
def admitTask (s : State) (t : Task) (die : Nat) (team : List Nat) : State :=
  match regionsFault s t with
  | some f => endTask s t.id (admissionRec s t f) 7
  | none =>
    if !t.saved then admitFresh s t die team
    else if t.fromCkpt then admitCkpt s t die team
    else admitSaved s t die team

/-- Has every staged granule of a task landed? -/
def stagingDone (t : Task) : Bool := t.cores.all fun c => c.staging.isEmpty

/-- The staging lead of a task (R285, R302). -/
def leadOf (s : State) (t : Task) : Nat :=
  if (taskNode s t).lead = 0 then s.mgmt.leaddef.toNat else (taskNode s t).lead

/-- May the Dean dispatch a staged task (R301, R309)? -/
def dispatchDue (s : State) (t : Task) : Bool :=
  match t.phase with
  | .staging since =>
    stagingDone t || (!t.fromCkpt && decide (since.toNat + leadOf s t ≤ s.bell.toNat))
  | _ => false

/-- The captured contents over a freshly staged allocation, but for the granules that the capture had not yet received;
then the stores held against those (R309). -/
def overlayCapture (s : State) (t : Task) (k : Nat) : State :=
  let c := taskCore t k
  let x := nth t.savedCores k ⟨Mem.empty, []⟩
  let size := allocSize s t
  let skip := x.stage.flatMap (·.waiting)
  onSpad s c.phys fun m =>
    let kept := skip.map fun g => (g, memSlice m (c.base + g) 16)
    kept.foldl (fun m e => memPaste m (c.base + e.1) 16 e.2) (memPaste m c.base size (movedTags s (taskSpaceNum s t) x.alloc))

/-- A held access that a restart from a checkpoint brings back (R309): it is performed before the team's first pass, which its deadline
of 1 says. -/
def firstDone (f : Flight) : Flight :=
  match f.kind with
  | .stagedLoad _ _ _ | .stagedStore _ | .stagedAtom _ _ _ _ _ _ | .stagedRows _ _ _ _ => { f with deadline := 1 }
  | _ => f

/-- Dispatch (R122, R301): the benches run; a restart from a checkpoint is restored first (R309). -/
def dispatchTask (s : State) (t : Task) : State :=
  if t.fromCkpt then
    let s := (List.range t.cores.length).foldl (fun s k => overlayCapture s t k) s
    let flights := (t.savedFlights.filter fun x => !isTmma x.2).filterMap fun x =>
      (benchOfThread s t x.1).map fun p => { firstDone x.2 with core := p.1, slot := p.2 }
    let s := { s with flights := s.flights ++ flights }
    let s := t.cores.foldl (fun s c =>
      let x := getCore s c.phys
      putCore s c.phys { x with
        restoreQ := x.restoreQ ++ (x.benches.filter fun e => e.1 != 64 && e.2.task == t.id).map (·.1) }) s
    putTask (onBenches s t fun b => { b with mode := .placed })
      { t with phase := .restoring, fromCkpt := false, savedFlights := t.savedFlights.filter fun x => isTmma x.2, dispatchSeq := s.nextDispatch }
  else
    let s := freePointers s t (onBenches s t fun b => { b with mode := .running })
    putTask { s with nextDispatch := s.nextDispatch + 1 } { t with phase := .running, dispatchSeq := s.nextDispatch }

/-- The region and memory address of an allocation granule of a task core. -/
def granuleSource (n : NodeObj) (coreT region g : Nat) : Option (RegionDesc × Int) :=
  (n.regions.find? fun x => x.k == region).map fun x =>
    (x, regionRow n x coreT ((g - x.spad) / x.rowBytes) + Int.ofNat ((g - x.spad) % x.rowBytes))

/-- The next scoreboard state when a granule has landed; a region without waiting granules releases its entry (R151). -/
def landed (c : TaskCore) (region g : Nat) : TaskCore :=
  { c with staging := (c.staging.map fun e =>
      if e.region == region then { e with waiting := e.waiting.filter (· != g) } else e).filter fun e => !e.waiting.isEmpty }

/-! ## Saving (R304, R327, R376) -/

/-- Is the flight one that the Dean keeps while the task is saved (R304, R395)? -/
def keptFlight (f : Flight) : Bool :=
  match f.kind with
  | .image _ _ _ => false
  | _ => true

/-- The threads of a resident task with their seats. -/
def taskSeats (s : State) (t : Task) : List (Thread × Seat) :=
  (List.range t.cores.length).flatMap fun k =>
    ((getCore s (taskCore t k).phys).benches.filter fun e => e.1 != 64 && e.2.task == t.id).flatMap fun e =>
      (List.range 32).map fun j => (⟨k, e.2.benchT, j⟩, getSeat e.2 j)

/-- A thread that an instruction in flight belongs to. -/
def flightThread (s : State) (t : Task) (f : Flight) : Thread :=
  ⟨coreTOf t f.core, (getBench s f.core f.slot).benchT, 0⟩

/-- The missed promises of a resident task that have not been delivered (R181). -/
def missesOf (s : State) (t : Task) : List (Thread × Miss) :=
  (taskBenches s t).flatMap fun e =>
    let b := getBench s e.1 e.2
    b.misses.map fun m => (⟨coreTOf t e.1, b.benchT, m.seat⟩, m)

/-- Why a saved task stays out of the ready pool. -/
def saveConds : HaltWhy → List ParkCond
  | .parkBlocked => [.blocked]
  | .ownerPreempt => [.owner]
  | .faultPark => [.records]
  | _ => []

/-- What the Dean takes from the cores when every bench of a team has been saved, and the release of its resources. -/
def saveDone (s : State) (t : Task) (whys : List HaltWhy) : State :=
  let size := allocSize s t
  let seats := taskSeats s t
  let cores := t.cores.map fun c => (⟨memSlice (getCore s c.phys).spad c.base size, c.staging⟩ : SavedCore)
  let waits := seats.filterMap fun x => match x.2.state with
    | .blocked w => some (x.1, w)
    | _ => none
  let flights := (s.flights.filter fun f => f.task == t.id && keptFlight f).map fun f => (flightThread s t f, f)
  let t' := { t with
    phase := .pool, saved := true, savedCores := cores, savedWaits := waits
    savedRights := seats.filterMap fun (x : Thread × Seat) => x.2.right.map fun r => (x.1, r)
    savedWakes := seats.filterMap fun (x : Thread × Seat) => x.2.wake.map fun r => (x.1, r)
    savedFlights := flights
    savedMisses := missesOf s t
    savedForms := seats.filterMap fun (x : Thread × Seat) => if x.2.must = 0 then none else some (x.1, x.2.pc, x.2.must)
    conds := ((t.conds ++ whys.flatMap saveConds).eraseDups).filter fun c =>
      c != ParkCond.blocked || !(seats.any fun x => x.2.state == SeatState.eligible)
    preempted := true, since := s.bell, poolTime := 0, haltQ := [] }
  -- The hold and the held records stay with the task; only its place on the cores is given up.
  putTask (unplace s t) { t' with cores := [], dieHold := (drained t).dieHold }

/-! ## Checkpoints (R309, R331) -/

/-- The failure of the checks that R331 makes of CKPTAREA: code and sub-code. -/
def ckptFault (s : State) (space : Nat) (n : NodeObj) : Option (Nat × Nat) :=
  let c := n.ckptArea
  if !c.tag then some (0x10, 1)
  else if 48 ≤ capE c then some (0x15, 1)
  else if capSeal c ≠ 0 then some (0x13, 1)
  else if !hasPerm c .ld || !hasPerm c .st then some (0x12, 1)
  else if quarantined s space c then some (0x14, 1)
  else if capLen c < 2 * n.ckptSz then some (0x11, 1)
  else none

/-- The bench images of a resident task, as they would stand from offset 0. -/
def imagesOf (s : State) (t : Task) : List Piece :=
  let n := taskNode s t
  (taskBenches s t).flatMap fun e =>
    shiftPieces (imgPlace n (coreTOf t e.1) (getBench s e.1 e.2).benchT) (imgPieces s t e.1 e.2 0)

def piecesMem (ps : List Piece) : Mem :=
  ps.foldl (fun m p =>
    let m := memPutBytes m p.off p.bytes
    if p.tag then memSetTag m p.off true else m) Mem.empty

/-- Translate an area page by page for a write. -/
def areaPages (s : State) (core : Nat) (sp : ASpace) (a : Nat) : Nat → Except (Word × TransErr) (List Nat × State)
  | 0 => .ok ([], s)
  | n + 1 =>
    match areaPages s core sp a n with
    | .error e => .error e
    | .ok (ps, s) =>
      let va := if n = 0 then a else alignDown a 4096 + n * 4096
      match translate1 s core sp sp.hspan va .store with
      | .error e => .error (BitVec.ofNat 64 va, e)
      | .ok (pa, s) => .ok (ps ++ [pa], s)

/-- The physical address of a byte of an area, by its pages. -/
def areaByte (pages : List Nat) (a off : Nat) : Nat :=
  let k := (a + off) / 4096 - a / 4096
  if k = 0 then nth pages 0 0 + off else nth pages k 0 + (a + off) % 4096

/-- Write a memory's listed bytes and tags into an area, past the hold. -/
def areaWrite (s : State) (pages : List Nat) (a : Nat) (m : Mem) : State :=
  let mem := m.cells.foldl (fun x c => memSetByte x (areaByte pages a c.1) c.2) s.mem
  let mem := m.tags.foldl (fun x g => memSetTag x (areaByte pages a (16 * g)) true) mem
  { s with mem := m.poison.foldl (fun x g => memSetPoison x (areaByte pages a (16 * g)) true) mem }

/-- Clear an area before it is written. -/
def areaClear (s : State) (pages : List Nat) (a n : Nat) : State :=
  { s with mem := (List.range pages.length).foldl (fun m k =>
      let lo := if k = 0 then a else alignDown a 4096 + k * 4096
      let hi := min (a + n) (alignDown a 4096 + (k + 1) * 4096)
      memClear m (nth pages k 0) (hi - lo)) s.mem }

/-- Does a checkpoint take the flight along? A reply that waits goes with its right, which a restart has lost (R325). -/
def capturedFlight (f : Flight) : Bool :=
  keptFlight f && match f.kind with
    | .reply _ _ _ => false
    | _ => true
/-- What a checkpoint captures of a task (R309): its bench images, its allocations with their staging, and the instructions in
flight that the Dean keeps. Of a saved task they stand in its save space and with the Dean. -/
def captured (s : State) (t : Task) : Mem × List SavedCore × List (Thread × Flight) :=
  let n := taskNode s t
  if t.saved then (memSlice s.mem t.saveBase.toNat (n.team * coreImages n), t.savedCores, t.savedFlights.filter fun e => capturedFlight e.2)
  else
    (piecesMem (imagesOf s t),
      t.cores.map fun c => ⟨memSlice (getCore s c.phys).spad c.base (allocSize s t), c.staging⟩,
      (s.flights.filter fun f => f.task == t.id && capturedFlight f).map fun f => (flightThread s t f, f))

/-- Steps 2 to 5 of R331 on a halted or saved task: capture into the other half, translate the hold, make the half the restart
point, publish and deliver. -/
def takeCheckpoint (s : State) (t : Task) : Except (Word × TransErr) (State × Task) :=
  let n := taskNode s t
  let size := allocSize s t
  let half := match t.restart with
    | some c => 1 - c.half
    | none => 0
  let area := (capCursor n.ckptArea).toNat + half * n.ckptSz
  let (images, allocs, flights) := captured s t
  match areaPages s (homeCore t) (taskSpace s t) area ((area + n.ckptSz + 4095) / 4096 - area / 4096) with
  | .error e => .error e
  | .ok (pages, s) =>
    let s := areaWrite (areaClear s pages area n.ckptSz) pages area images
    let s := (List.range allocs.length).foldl (fun s k =>
      let m := (nth allocs k ⟨Mem.empty, []⟩).alloc
      let off := n.team * coreImages n + k * size
      areaWrite s pages area
        ⟨m.cells.map fun c => (c.1 + off, c.2), m.tags.map (· + off / 16), m.poison.map (· + off / 16), []⟩) s
    match publishHold s t with
    | .error e => .error e
    | .ok (s, t) =>
      let s := deliverHeld s t
      .ok (s, { t with restart := some ⟨half, allocs, images, flights⟩, requeues := 0, heldRecs := [], reserved := [] })

/-! ## Retirement (R204, R305) -/

/-- Has every thread of a resident task exited? -/
def allExited (s : State) (t : Task) : Bool :=
  !t.cores.isEmpty && (taskBenches s t).all fun e => (getBench s e.1 e.2).seats.all fun x => x.state == .exited

/-- The completion message of a sink node (R305). -/
def sendDone (s : State) (t : Task) : State :=
  let g := graphOf s t.graph
  let sink := !(g.edges.any fun e => e.1 == t.node && !e.2.2)
  match epOfCap s g.doneep with
  | some ep =>
    if sink then
      epSend s ep ⟨.dean t.die t.id false, ⟨t.id, BitVec.ofNat 64 t.node, s.bell, Cap.null⟩,
        capCursor g.doneep &&& 0x7FFFFFFFFFFFFFFF, false, hasPerm g.doneep .stc⟩
    else s
  | none => s

end Sys2Proof.Machine
end

