-- ==== Sys2Proof/Machine/Ops.lean ====
section
/-!
DEFINITION. The operations that every family shares: operand faults of a pass and their order (R43, R88, R89, R140), the
checks of an access (R102, R105, R147, R154), taking a fault (R382 to R388), machine checks (R397, R398), and the end of
a run of the monitor bench (R36, R373, R456).
-/
namespace Sys2Proof.Machine

/-! ## Operand faults -/

/-- A fault of one seat: code and sub-code (R14, R89), the data address, AUX and its tag (R387). `pool` marks an access
that waits: to a pool library without a live link (R431), or, with code 0, a store to a page under migration (R216). -/
structure OpFault where
  code : Nat
  sub : Nat
  addr : Word
  aux : BitVec 128
  auxTag : Bool
  pool : Bool
  deriving DecidableEq, Repr

def plainFault (code sub : Nat) : OpFault := ⟨code, sub, 0, 0, false, false⟩
def auxFault (code sub aux : Nat) : OpFault := ⟨code, sub, 0, BitVec.ofNat 128 aux, false, false⟩
/-- A capability fault: AUX is the failing capability (R387). -/
def capFault (code sub : Nat) (c : Cap) (addr : Word) : OpFault := ⟨code, sub, addr, c.bits, c.tag, false⟩

/-- The fault of consuming poison of a cause (R139, R140). -/
def poisonFault (reg cause : Nat) : OpFault :=
  match cause with
  | 0 => auxFault 0x42 1 reg
  | 1 => auxFault 0x41 1 reg
  | _ => auxFault 0x40 1 reg

/-- Poison of the data registers that a seat reads, in order (R140). -/
def poisonIn (b : Bench) (rs : List DReg) (seat : Nat) : Option OpFault :=
  rs.findSome? fun r => (poisonD b r seat).map (poisonFault r.code)

/-- Poison of the capability registers that a seat reads (R140). -/
def poisonInC (b : Bench) (rs : List CReg) (seat : Nat) : Option OpFault :=
  rs.findSome? fun r => (poisonC b r seat).map (poisonFault r.val)

/-- Rows that a write to these registers would allocate (R136, R138). -/
def newRows {α : Type} (rows : List (Row α)) (rs : List Nat) : Nat :=
  (rs.eraseDups.filter fun r => !(rows.any fun x => x.reg == r)).length

/-- ROW_OVERRUN of a pass that writes these registers (R138). -/
def rowFault? (s : State) (ds : List DReg) (cs : List CReg) : Option OpFault :=
  let b := cur s
  let nv := newRows b.vrows ((ds.filter DReg.isV).map DReg.code)
  let nc := newRows b.crows ((cs.filter fun c => c != 0).map (·.val))
  if 0 < nv ∧ b.rowBudget < b.vrows.length + lostV s s.sel.core s.sel.slot + nv then some (auxFault 0x32 1 b.rowBudget)
  else if 0 < nc ∧ b.capBudget < b.crows.length + lostC s s.sel.core s.sel.slot + nc then
    some (auxFault 0x32 2 b.capBudget)
  else none

/-- The registers that a pass reads and writes, for its operand faults. -/
structure Uses where
  reads : List DReg
  creads : List CReg
  writes : List DReg
  cwrites : List CReg
  deriving DecidableEq, Repr

/-- POISON_CONSUMED, then ROW_OVERRUN (R138, R140). -/
def useFault (s : State) (u : Uses) (seat : Nat) : Option OpFault :=
  match poisonIn (cur s) u.reads seat with
  | some f => some f
  | none =>
    match poisonInC (cur s) u.creads seat with
    | some f => some f
    | none => rowFault? s u.writes u.cwrites

/-- The faults of a pass, by seat in ascending order. -/
def faultsOf (s : State) (f : Nat → Option OpFault) : List (Nat × OpFault) :=
  (issued s).filterMap fun k => (f k).map fun x => (k, x)

/-- Run a check that changes the state for each issued seat in order; collect its values, or the faults. -/
def runSeats {α : Type} (s : State) (f : State → Nat → Except OpFault (α × State)) :
    List Nat → Except (List (Nat × OpFault)) (List (Nat × α) × State)
  | [] => .ok ([], s)
  | k :: ks =>
    match f s k with
    | .ok (v, s1) =>
      match runSeats s1 f ks with
      | .ok (vs, s2) => .ok ((k, v) :: vs, s2)
      | .error e => .error e
    | .error x =>
      match runSeats s f ks with
      | .ok _ => .error [(k, x)]
      | .error e => .error ((k, x) :: e)

/-! ## Machine checks (R397, R398) -/

/-- Fire every interrupt line of a source (R352). -/
def fireIrq (s : State) (source : Nat) : State :=
  (s.objs.filter fun o => !o.dead).foldl (fun s o =>
    match o.data with
    | .irq src bit notif => if src = source then notifyBits s notif (BitVec.ofNat 64 (2 ^ bit)) else s
    | _ => s) s

def addLog (s : State) (k : LogKind) (data : Word) : State :=
  { s with log := s.log ++ [⟨k, s.seqLog, s.bell, data⟩], seqLog := s.seqLog + 1 }

/-- Every machine check is logged, counted and fires the lines of source 256 (R397, R398). -/
def noteMachineCheck (s : State) (sub : Nat) : State :=
  let s := addLog s .machineCheck (BitVec.ofNat 64 sub)
  fireIrq { s with mgmt := { s.mgmt with mcEvents := s.mgmt.mcEvents + 1 } } 256

/-- Abort a task by a machine check of a core (R398), which concerns a task bench where one is known. -/
def machineAbort (s : State) (id : Word) (core benchT sub : Nat) (aux : Word) : State :=
  let q := coreRec s ((findTask s id).getD Task.none_) core
    { abortRec s (.machineCheck sub) with aux := aux.setWidth 128, benchT := benchT }
  abortWith q.2 id (.machineCheck sub) q.1

/-- MONITOR: an instruction of a monitor run faults (R381, R398). The run ends and the target's task is aborted. -/
def monitorCheck (s : State) (core : Nat) : State :=
  let target := getBench s core (runTarget s core)
  machineAbort (closeRun (noteMachineCheck s 3) core) target.task core target.benchT 3 0

/-! ## Taking a fault (R382, R387) -/

/-- A bench stops for a fault, which waits for a run of the core's monitor bench (R380, R382). -/
def stopBench (s : State) (core : Nat) (f : FaultInfo) : State :=
  let b := getBench s core f.slot
  let s := putBench s core f.slot
    { haltBench s.bell b with mode := .faulted }
  let c := getCore s core
  putCore s core { c with faultQ := c.faultQ ++ [f] }

/-- The record of a pass's fault. -/
def recOf (t : Task) (core : Nat) (b : Bench) (seq : Word32) (f : FaultInfo) : FaultRec :=
  ⟨seq, f.code, f.sub, f.seat, b.benchT, coreTOf t core, f.mask, f.ifa, f.addr, f.resume, f.index, f.past, f.aux,
    f.auxTag, f.bell, t.requeues, false, none, coreSource core, mapCoreT t core, false⟩

/-- What a fault of the selected bench leads to: a machine check on the monitor bench (R381), an abort (R225, R388), a
wait (R216, R431), or a fault run (R382). -/
def raiseFault (s : State) (f : FaultInfo) (pool : Bool) : State :=
  if onMonitor s then monitorCheck s s.sel.core
  else if pool then (if f.code = 0 then s else poolWait s (cur s).task (some s.sel.core) f.aux.toNat)
  else if f.code = 0x20 then
    let q := faultSeq s s.sel.core
    abortWith q.2 (cur s).task (.pageFault f.addr f.sub) (recOf (curTask s) s.sel.core (cur s) q.1 f)
  else if f.code = 0x40 ∧ f.sub = 1 then
    let q := faultSeq s s.sel.core
    abortWith q.2 (cur s).task .remoteLost (recOf (curTask s) s.sel.core (cur s) q.1 f)
  else stopBench s s.sel.core f

/-- The fault that a woken seat was due has been taken: its instruction, issued again, does not take it once more (DEDUCED, log
26). -/
def endWakes (s : State) (m : SeatMask) (f : OpFault) : State :=
  let due := fun (j : Nat) => m.getLsbD j && (getSeat (cur s) j).wake.any fun w => w.code == f.code && w.sub == f.sub
  if ((List.range 32).any due) = false then s
  else
    let clear := fun (j : Nat) (x : Seat) => if due j then { x with wake := none } else x
    putCur s { cur s with seats := (List.range 32).map fun j => clear j (getSeat (cur s) j) }
/-- The fault of a pass: the lowest faulting seat decides, and nothing retires (R88, R387). -/
def takeFaults (s : State) (fs : List (Nat × OpFault)) : State :=
  match fs with
  | [] => s
  | (k, f) :: _ =>
    let x := getSeat (cur s) k
    let m := maskOf fun j => fs.any fun e => e.1 == j
    raiseFault (endWakes s m f)
      { slot := s.sel.slot, code := f.code, sub := f.sub, ifa := s.sel.pc, addr := f.addr
        mask := m, seat := k, resume := x.hdr, index := x.idx, past := false
        aux := f.aux, auxTag := f.auxTag, bell := s.bell } f.pool

/-- The pass faults if any issued seat does; otherwise it goes on. -/
def guardPass (s : State) (f : Nat → Option OpFault) (go : State) : Host.Outcome State Fault Refusal :=
  match faultsOf s f with
  | [] => .next go
  | x :: xs => .next (takeFaults s (x :: xs))

/-- A fault of the instruction as a whole: every issued seat has it (R43). -/
def passFault (s : State) (f : OpFault) : Host.Outcome State Fault Refusal :=
  .next (takeFaults s ((issued s).map fun k => (k, f)))

/-- A check of the instruction as a whole, before its operands (R43). -/
def demand (s : State) (f : Option OpFault) (go : Host.Outcome State Fault Refusal) :
    Host.Outcome State Fault Refusal :=
  match f with
  | some x => passFault s x
  | none => go

/-! ## Features and privilege (R44, R51, R334) -/

/-- The feature mask that R44 checks; the monitor code has every feature of the core. -/
def declaredMask (s : State) : Word :=
  if onMonitor s then (getCore s s.sel.core).feat else (taskCode s (curTask s)).feat

/-- FEATURE_ABSENT, MASK for a feature bit (R44, R387). -/
def featureFault (s : State) (bit : Nat) : Option OpFault :=
  if (declaredMask s).getLsbD bit then none
  else some (auxFault 0x50 1 (2 ^ bit + (declaredMask s).toNat * 2 ^ 64))

/-- ILLEGAL_INSTRUCTION with a sub-code; AUX is the instruction word (R43, R334, R337, R387). -/
def illegalFault (i : Instr) (sub : Nat) : OpFault := auxFault 0x01 sub (((encode i).map (fun p => p.2)).getD 0)

/-- Only the monitor bench may (R334). -/
def monitorOnly (s : State) (i : Instr) : Option OpFault := if onMonitor s then none else some (illegalFault i 2)

/-- A handler run must be open (R337). -/
def runOpen (s : State) (i : Instr) : Option OpFault :=
  if !onMonitor s then some (illegalFault i 2)
  else if (getCore s s.sel.core).run.isNone then some (illegalFault i 3)
  else none

/-- Does the task hold the core's accumulator file (R252)? -/
def accFault (s : State) : Option OpFault :=
  if (getCore s s.sel.core).accTask == some (cur s).task then none else some (plainFault 0x50 2)

/-! ## The checks of an access (R102) -/

/-- The address space of the selected bench. The monitor bench addresses physical memory. -/
def benchSpace (s : State) : ASpace :=
  if onMonitor s then { ASpace.none_ with hspan := 0xFFFFFFFFFFFFFFFF, hlimit := 0xFFFFFFFFFFFFFFFF }
  else taskSpace s (curTask s)

def benchLimit (s : State) : Word := if onMonitor s then 0xFFFFFFFFFFFFFFFF else (cur s).hlimit

/-- Does the address space of the selected bench quarantine a capability (R102, R362)? -/
def benchQuarantine (s : State) (c : Cap) : Bool := quarantined s (taskSpaceNum s (curTask s)) c

/-- What instructions may reach: global memory, the team window, or either (R105, R220). -/
inductive Reach where
  | glob | window | any
  deriving DecidableEq, Repr

/-- Where an access goes (R220): a window address, the physical addresses of its bytes, or another package. -/
inductive Place where
  | win (a : Nat)
  | mem (a : Nat) (pas : List Nat)
  | remote (a : Word)
  deriving DecidableEq, Repr

/-- The window check of one byte (R105, R147, R154). -/
def winByteFault (s : State) (t : Task) (k : Nat) (a : Nat) : Option OpFault :=
  if windowEnd ≤ a ∨ teamN t ≤ winCore a ∨ allocSize s t ≤ winOff a then some (plainFault 0x11 2)
  else if (taskCore t k).gone.getLsbD (winCore a) then some (auxFault 0x30 1 (winCore a))
  else none

/-- The window check of a range: the first byte that fails decides (R105). -/
def winFault (s : State) (a n : Nat) : Option OpFault :=
  (List.range n).findSome? fun i => winByteFault s (curTask s) (curCoreT s) (a + i)

/-- The data address and AUX of a window fault: WINDOW shows the capability (R387). -/
def winFaultAt (c : Cap) (a : Word) (f : OpFault) : OpFault :=
  if f.code = 0x11 then capFault 0x11 2 c a else { f with addr := a }

/-- From tag to quarantine, and REMOTE (R102, R400): the failing code and sub-code. -/
def capChecks (s : State) (c : Cap) (need : List Perm) (addr : Word) : Option OpFault :=
  if !c.tag then some (capFault 0x10 1 c addr)
  else if 48 ≤ capE c then some (capFault 0x15 1 c addr)
  else if capSeal c ≠ 0 then some (capFault 0x13 1 c addr)
  else if need.any fun p => !hasPerm c p then some (capFault 0x12 1 c addr)
  else if benchQuarantine s c then some (capFault 0x14 1 c addr)
  else if hasPerm c .remote then (featureFault s 3).map fun f => { f with addr := addr }
  else none

/-- Do n bytes at an exact address lie within the bounds (R102)? -/
def inBounds (c : Cap) (a : Int) (n : Nat) : Bool := decide (capBase c ≤ a) && decide (a + Int.ofNat n ≤ capTop c)

/-- A failed translation as a fault. -/
def transFault (s : State) (c : Cap) (a : Word) : TransErr → OpFault
  | .heap k => ⟨0x22, k, a, (benchLimit s).setWidth 128, false, false⟩
  | .page k => ⟨0x20, k, a, 0, false, false⟩
  | .noexec => ⟨0x04, 4, a, 0, false, false⟩
  | .carve => capFault 0x14 3 c a
  | .poolDown k => ⟨0x40, 1, a, BitVec.ofNat 128 k, false, true⟩
  | .migrate => ⟨0, 0, a, 0, false, true⟩

/-- What an access asks. `align` is the alignment its instruction demands after BOUNDS with the sub-code (R146, R318); 1 for
none. `extra` is a check that stands after the window checks. -/
structure Ask where
  need : List Perm
  n : Nat
  reach : Reach
  align : Nat
  alignSub : Nat
  acc : Access
  deriving DecidableEq, Repr

/-- The checks of R102 from the tag to translation for one seat's access at an exact address. -/
def checkAccess (s : State) (c : Cap) (a : Int) (k : Ask) (extra : Bool → Option OpFault) :
    Except OpFault (Place × State) :=
  let va : Word := BitVec.ofInt 64 a
  match capChecks s c k.need va with
  | some f => .error f
  | none =>
    if !inBounds c a k.n then .error (capFault 0x11 1 c va)
    else if va.toNat % k.align ≠ 0 then .error (capFault 0x11 k.alignSub c va)
    else if hasPerm c .remote then
      if k.reach = .window then .error (capFault 0x11 2 c va)
      else
        match extra false with
        | some f => .error f
        | none => .ok (.remote va, s)
    else if k.reach = .window ∨ (k.reach = .any ∧ va.toNat < windowEnd) then
      match winFault s va.toNat k.n with
      | some f => .error (winFaultAt c va f)
      | none =>
        match extra true with
        | some f => .error f
        | none => .ok (.win va.toNat, s)
    else if va.toNat < windowEnd then .error (capFault 0x11 2 c va)
    else
      match extra false with
      | some f => .error f
      | none =>
        match translateRange s s.sel.core (benchSpace s) (benchLimit s) k.acc va.toNat k.n with
        | .error e => .error (transFault s c va e)
        | .ok (pas, s') => .ok (.mem va.toNat pas, s')

/-! ## Objects (R321, R330) -/

/-- The checks of R102 through quarantine on an object capability, with its type and right (R321): a destroyed object is
CAP_REVOKED, OBJECT (R363). -/
def objFault (s : State) (c : Cap) (types : List Nat) (need : Perm) : Option OpFault :=
  if !c.tag then some (capFault 0x10 1 c 0)
  else if 48 ≤ capE c then some (capFault 0x15 1 c 0)
  else if !types.contains (capSeal c) then some (capFault 0x13 2 c 0)
  else if !hasPerm c need then some (capFault 0x12 1 c 0)
  else if objGone s (capSeal c) (capNum c) then some (capFault 0x14 2 c 0)
  else if hasPerm c .remote then some (capFault 0x12 4 c 0)
  else none

/-! ## The end of a run (R36, R308, R373, R456) -/

/-- Lengths of the instructions after a header, by half-words at an address (R18). -/
def instrAt (s : State) (core : Nat) (t : Task) (a : Word) : Nat → Word
  | 0 => a
  | k + 1 =>
    let p := instrAt s core t a k
    let sp := taskSpace s t
    match translateBytes s core sp sp.hspan .fetch p.toNat 1 with
    | .ok (pas, _) =>
      let b := match pas with
        | pa :: _ => memByte s.mem pa
        | [] => 0
      p + (if b.toNat % 2 = 0 then 2 else 4)
    | .error _ => p + 4

/-- The header word at an address of a task's code. -/
def headerWordAt (s : State) (core : Nat) (t : Task) (a : Word) : Word32 := BitVec.ofNat 32 (codeWord s core t a)

/-- A seat that stands at an address, where it needs a header (R35); `why` is the sub-code of CLAUSE_FORM if there is none. -/
def standAt (x : Seat) (a : Word) (why : Nat) : Seat := { x with pc := a, hdr := a, idx := 0, must := why, skip := 0 }
/-- A seat put at a resume point (R36, R373): in the clause whose header stands there, at its instruction of that index, without
its WAIT; where no header stands there, at the address itself. -/
def seatResume (s : State) (core : Nat) (t : Task) (x : Seat) (resume : Word) (index : Nat) : Seat :=
  let w := headerWordAt s core t resume
  if w.toNat % 128 ≠ 1 then standAt x resume 3
  else
    { x with
      pc := instrAt s core t (resume + 4) index, hdr := resume, hdrWord := w, idx := index
      must := if 16 ≤ index then 1 else 0, skip := 0 }
/-- A seat of TMASK when its fault run ends by `tret` (R36, R373, R387). Where the handler has left TRESUME and TINDEX as they
were, a `trap` goes on at the header after it, which its clause's end demands (R35), and every other seat where it stands: nothing
of its instruction has retired, and a missed promise is no fault of an instruction (DEDUCED, log 25: its seat is not moved to the
place of another). -/
def faultResume (s : State) (core : Nat) (t : Task) (f : FaultInfo) (x : Seat) (resume : Word) (index : Nat) : Seat :=
  if f.resume ≠ resume ∨ min 16 f.index ≠ index then seatResume s core t x resume index
  else if f.code = 0x60 ∧ f.sub = 2 then standAt x resume 2
  else x

/-- The register that a `pause` at an address reads. -/
def pauseReg (s : State) (core : Nat) (t : Task) (pc : Word) : Option DReg :=
  match decode32 (codeWord s core t pc) with
  | .ok (.pause a) => some a.reg
  | _ => none
/-- Each seat blocked in a `pause` reads its register again (R98, R373). -/
def rereadPauses (s : State) (core : Nat) (t : Task) (b : Bench) : Bench :=
  { b with seats := (List.range 32).map fun k =>
      let x := getSeat b k
      match x.state, pauseReg s core t x.pc with
      | .blocked (.pause _), some r => { x with state := .blocked (.pause (readD b r k)) }
      | _, _ => x }
/-- The target of the open run goes on (R373): in a fault run, the seats of TMASK at TRESUME and TINDEX. -/
def resumeTarget (s : State) (core : Nat) (r : Run) : State :=
  let slot := runTarget s core
  let b := getBench s core slot
  let tr := (getCore s core).tregs
  match findTask s b.task with
  | none => s
  | some t =>
    let seats := (List.range 32).map fun k =>
      let x := getSeat b k
      if !tr.tmask.getLsbD k then x
      else
        match r.fault with
        | some f => faultResume s core t f x tr.tresume tr.tindex.toNat
        | none => seatResume s core t x tr.tresume tr.tindex.toNat
    let s := putBench s core slot (rereadPauses s core t { b with seats := seats, mode := .halted })
    match t.phase with
    | .halted _ => s
    | .restoring =>
      -- The team runs once every bench of it has been restored.
      if t.cores.all fun c =>
          let x := getCore s c.phys
          (x.restoreQ.all fun k => !((taskBenches s t).contains (c.phys, k))) && (c.phys == core || !runOf s c.phys t.id)
      then
        let run := (taskBenches s t).foldl (fun s e => resumeAt s e.1 e.2 (getBench s e.1 e.2)) s
        let s := putTask { freePointers s t run with nextDispatch := s.nextDispatch + 1 }
          { t with haltQ := [], phase := .running, saved := false, dispatchSeq := s.nextDispatch, conds := [], savedCores := []
                   savedWaits := [], savedRights := [], savedWakes := [], savedFlights := [], savedMisses := [], savedForms := [] }
        -- Requests that met the team while it was restored halt it now.
        t.haltQ.foldl (fun s w => match findTask s t.id with
          | some t => haltTask s t w
          | none => s) s
      else s
    | _ => resumeAt s core slot (getBench s core slot)

/-- Form the fault record of the open fault run from the handler registers and the task (R382, R383). -/
def formRecord (s : State) (core : Nat) (t : Task) (f : FaultInfo) : FaultRec × State :=
  let tr := (getCore s core).tregs
  let q := faultSeq s core
  ({ recOf t core (getBench s core f.slot) q.1 f with
      resume := tr.tresume, index := tr.tindex.toNat, moved := f.resume != tr.tresume || min 16 f.index != tr.tindex.toNat }, q.2)

/-- Are all benches of a halted team saved: no save run is open or waits on its cores? -/
def savesDone (s : State) (t : Task) : Bool :=
  t.cores.all fun c =>
    let x := getCore s c.phys
    x.saveQ.all (fun k => !((taskBenches s t).contains (c.phys, k))) &&
      !(runOf s c.phys t.id && match x.run with
        | some r => r.kind == .save
        | none => false)

/-- The reasons for which a team stands halted (R379). -/
def haltReasons (t : Task) : List HaltWhy :=
  match t.phase with
  | .halted w => w :: t.haltQ
  | _ => t.haltQ

/-- Is a checkpoint of a halted task to be taken first (R331, R332)? -/
def ckptPending (t : Task) : Bool :=
  match t.phase with
  | .halted _ => !t.ckptSeats.isEmpty || (haltReasons t).contains .checkpoint
  | _ => false

/-- A save run, or a checkpoint before the saves, has ended (R456): when every bench is saved, the task leaves its cores and its
records go out (R384). -/
def saveRunEnded (s : State) (id : Word) : State :=
  match findTask s id with
  | none => s
  | some t =>
    if savesDone s t && !ckptPending t then sendNextFault (saveDone s t (haltReasons t)) id else s

/-- End the open run of the selected core by `tret` or one of the forms of `halt` (R456). -/
inductive RunEnd where
  | tret | park | fail | requeue
  deriving DecidableEq, Repr

def endRun (s : State) (e : RunEnd) : State :=
  let core := s.sel.core
  match (getCore s core).run with
  | none => s
  | some r =>
    let id := (getBench s core (runTarget s core)).task
    let empty := FaultRec.empty s.bell ((findTask s id).getD Task.none_).requeues
    match r.kind, e with
    | .machineCheck, _ => closeRun s core
    | .fault, .tret => closeRun (resumeTarget s core r) core
    | .fault, .park =>
      match findTask s id, r.fault with
      | some t, some f =>
        let q := formRecord s core t f
        let t := { t with faults := insertFault t.faults q.1 }
        let s := putBench q.2 core f.slot { getBench q.2 core f.slot with mode := .halted }
        closeRun (haltTask (putTask s t) t .faultPark) core
      | _, _ => closeRun s core
    | .fault, .fail =>
      match findTask s id, r.fault with
      | some t, some f =>
        let q := formRecord s core t f
        endTask (closeRun q.2 core) id q.1 1
      | _, _ => closeRun s core
    | .fault, .requeue =>
      match findTask s id, r.fault with
      | some t, some f =>
        let q := formRecord s core t f
        abortWith (closeRun q.2 core) id .requeue q.1
      | _, _ => closeRun s core
    | .save, .fail => endTask (closeRun s core) id empty 1
    | .save, .requeue => abortTask (closeRun s core) id .requeue
    | .save, _ => saveRunEnded (closeRun s core) id
    | .restore, .tret => closeRun (resumeTarget s core r) core
    | .restore, .park =>
      -- The placement is released; the images stay as they were (R456).
      match findTask s id with
      | some t =>
        let flights := (s.flights.filter fun f => f.task == t.id && keptFlight f).map fun f => (flightThread s t f, f)
        putTask (unplace s t)
          { t with
            cores := [], groups := [], phase := .pool, saved := true, since := s.bell, poolTime := 0
            savedFlights := flights ++ t.savedFlights, savedMisses := missesOf s t }
      | none => closeRun s core
    | .restore, .fail => endTask (closeRun s core) id empty 1
    | .restore, .requeue => abortTask (closeRun s core) id .requeue

end Sys2Proof.Machine
end

