-- ==== Sys2Proof/Machine/Fetch.lean ====
section
/-!
DEFINITION. Instruction fetch (R37 to R39): the code capability, translation, poison, and the instruction cache.
-/
namespace Sys2Proof.Machine

/-! ## The instruction cache (R39) -/

/-- Lines of an instruction cache that the model keeps. DESIGN CHOICE (log 104): the spec gives neither this number nor when a line is
filled; here only an issue's own fetch fills one. -/
def icacheLines : Nat := 512

/-- The line of 128 bytes at a virtual and a physical address of a space, as a fetch reads it: the cached line, all old, or
memory, all new, by a free choice where they differ (R39). -/
def fetchLine (s : State) (core asn va pa : Nat) : List Byte × State :=
  let v := alignDown va 128
  let a := alignDown pa 128
  let now := physBytes s a 128
  let same := fun (l : ILine) => l.asn == asn && l.va == v && l.pa == a
  let keep := fun (s : State) =>
    let c := getCore s core
    putCore s core { c with icache := (⟨asn, v, a, now⟩ :: c.icache.filter fun l => !same l).take icacheLines }
  match (getCore s core).icache.find? same with
  | none => (now, keep s)
  | some l =>
    if l.bytes == now then (now, s)
    else
      let (k, s) := draw s 2
      if k = 0 then (l.bytes, s) else (now, keep s)

/-- The number under which the monitor code's lines are cached: no address space has it. -/
def monitorAsn : Nat := 2 ^ 20

/-! ## One half-word (R37, R38) -/

/-- FETCH_FAULT with a sub-code; the data address of the record is FFA (R38, R387). -/
def fetchFault (sub : Nat) (ffa : Word) : OpFault := ⟨0x04, sub, ffa, 0, false, false⟩

/-- The lowest byte of a half-word that lies outside the code capability's bounds. -/
def fetchBounds (c : Cap) (a : Nat) : Option Word :=
  if !inBounds c a 1 then some (BitVec.ofNat 64 a)
  else if !inBounds c (a + 1) 1 then some (BitVec.ofNat 64 (a + 1))
  else none

/-- Fetch the half-word at an even address for the selected bench (R37), with the line that it stands in. `prev` is the virtual
address and the bytes of the line that the first half of the same instruction was read from: a line is read once for an
instruction (R39). DESIGN CHOICE (log 28): where several checks fail, the order tag, permission, bounds, translation with
execute permission, poison decides the sub-code, and the first half-word comes before the second; the rule gives no order. -/
def fetchHalf (s : State) (pc : Word) (prev : Option (Nat × List Byte)) : Except OpFault (Nat × (Nat × List Byte) × State) :=
  let c := (cur s).code
  let core := s.sel.core
  if !c.tag then .error (fetchFault 3 pc)
  else if capSeal c ≠ 0 ∨ !hasPerm c .ex then .error (fetchFault 2 pc)
  else
    match fetchBounds c pc.toNat with
    | some ffa => .error (fetchFault 1 ffa)
    | none =>
      let read := fun (s : State) (pa : Nat) =>
        if memPoison s.mem pa || memPoison s.mem (pa + 1) then Except.error (fetchFault 5 pc)
        else
          let v := alignDown pc.toNat 128
          let (l, s) := match prev with
            | some (a, l) =>
              if a = v then (l, s) else fetchLine s core (if onMonitor s then monitorAsn else (benchSpace s).asn) pc.toNat pa
            | none => fetchLine s core (if onMonitor s then monitorAsn else (benchSpace s).asn) pc.toNat pa
          Except.ok ((nth l (pa % 128) 0).toNat + 256 * (nth l (pa % 128 + 1) 0).toNat, (v, l), s)
      if onMonitor s then read s pc.toNat
      else
        match translateRange s core (benchSpace s) (benchLimit s) .fetch pc.toNat 2 with
        | .error e => .error (transFault s c pc e)
        | .ok (pas, s) => read s (nth pas 0 0)

/-- A fetched instruction word and its length in bytes (R18). -/
structure Fetched where
  word : Nat
  len : Nat
  deriving DecidableEq, Repr

/-- Fetch the instruction at an address (R18, R37). An odd address is no place of an instruction (R19). -/
def fetchAt (s : State) (pc : Word) : Except OpFault (Fetched × State) :=
  if pc.toNat % 2 = 1 then .error (fetchFault 6 pc)
  else
    match fetchHalf s pc none with
    | .error e => .error e
    | .ok (lo, l, s) =>
      if lo % 2 = 0 then .ok (⟨lo, 2⟩, s)
      else
        match fetchHalf s (pc + 2) (some l) with
        | .error e => .error e
        | .ok (hi, _, s) => .ok (⟨lo + 65536 * hi, 4⟩, s)

/-- Is a fetched word a clause header (R29)? -/
def Fetched.isHeader (f : Fetched) : Bool := f.len == 4 && fld f.word 1 6 == 0

end Sys2Proof.Machine
end

