-- ==== Sys2Proof/Machine/Operands.lean ====
section
/-!
DEFINITION. The operand forms: which registers each instruction reads and writes (R26, R132, R140), the addresses of the
memory forms (R102), quads and pairs, and the shared shapes of a pass that writes registers.
-/
namespace Sys2Proof.Machine

/-! ## Registers of an instruction -/

/-- Pair and quad registers. -/
def pair (d : DReg) : List DReg := [d, d.succ]
def quad (q : DReg) : List DReg := [q, q.plus 1, q.plus 2, q.plus 3]
def triple (q : DReg) : List DReg := [q, q.plus 1, q.plus 2]
/-- The v register that a 16-bit form names (R20). -/
def lowV (n : Fin 32) : DReg := .v ⟨n.val, by omega⟩
/-- s12, s13 and s15, which some forms read (R259, R86). -/
def sReg (n : Fin 16) : DReg := .s n

def Uses.none : Uses := ⟨[], [], [], []⟩
/-- Sources that fault when poisoned, and one destination. -/
def usesD (rs : List DReg) (d : DReg) : Uses := ⟨rs, [], [d], []⟩
def usesR (rs : List DReg) : Uses := ⟨rs, [], [], []⟩
/-- Memory forms: index, capability, destinations. -/
def usesM (rs : List DReg) (c : CReg) (ds : List DReg) : Uses := ⟨rs, [c], ds, []⟩

/-- The registers that an instruction reads, so that poison in them faults (R140), and writes. What a store, `mov` and
`sel` carry onward stands in `carriedOf`. -/
def usesOf : Instr → Uses
  | .clause _ _ _ _ _ => .none
  | .mov16 _ _ d => ⟨[], [], [lowV d], []⟩
  | .add16 _ a d | .sub16 _ a d | .mul16 _ a d | .and16 _ a d | .or16 _ a d | .xor16 _ a d | .shl16 _ a d
  | .shr16 _ a d | .sar16 _ a d | .min16 _ a d | .max16 _ a d | .fadd16 _ a d | .fsub16 _ a d | .fmul16 _ a d =>
    usesD [lowV d, lowV a] (lowV d)
  | .fma16 _ a d => usesD [lowV a, sReg 15, lowV d] (lowV d)
  | .add _ b a d | .sub _ b a d | .mul _ b a d | .mulh _ b a d | .min _ b a d | .max _ b a d | .minu _ b a d
  | .maxu _ b a d | .shl _ b a d | .shr _ b a d | .sar _ b a d | .rot _ b a d | .bfx _ b a d => usesD [a.reg, b.reg] d
  | .mad _ b a d | .bfi _ b a d => usesD [a.reg, b.reg, d] d
  | .abs _ a d | .neg _ a d | .clz _ a d | .ctz _ a d | .popc _ a d | .brev _ a d => usesD [a.reg] d
  | .sel _ _ _ _ d => usesD [] d
  | .cvtI _ _ _ _ a d => usesD [a.reg] d
  | .and b a d | .or b a d | .xor b a d | .andn b a d | .perm b a d => usesD [a.reg, b.reg] d
  | .not a d => usesD [a.reg] d
  | .mov _ d => usesD [] d
  | .pack _ b a d => usesD [a.reg, b.reg] d
  | .unpack _ _ a d => usesD [a.reg] d
  | .fadd _ b a d | .fsub _ b a d | .fmul _ b a d | .fscale _ b a d | .fmin _ b a d | .fmax _ b a d =>
    usesD [a.reg, b.reg] d
  | .fma _ b a d | .fnma _ b a d => usesD [a.reg, b.reg, d] d
  | .fabs _ a d | .fneg _ a d | .fclass _ a d | .fround _ _ a d | .fcvt _ _ _ a d => usesD [a.reg] d
  | .frcp _ a d | .frsq _ a d | .fsqrt _ a d | .fexp2 _ a d | .flog2 _ a d | .fsin _ a d | .fcos _ a d | .ftanh _ a d =>
    usesD [a.reg] d
  | .modadd b a d | .modsub b a d | .modmul b a d | .mred b a d => usesD [a.reg, b.reg, sReg 12, sReg 13] d
  | .nttbf a d | .inttbf a d => ⟨[a.reg, d, d.succ, sReg 12, sReg 13], [], pair d, []⟩
  | .shfl b _ d | .shflx b _ d => usesD [b.reg] d
  | .bcast _ _ d => usesD [] d
  | .ballot _ d => usesD [] d
  | .voteAny _ _ _ | .voteAll _ _ _ => .none
  | .matchSeats a d => usesD [a.reg] d
  | .scan _ _ _ _ a d | .red _ _ _ a d => usesD [a.reg] d
  | .li _ d => usesD [] d
  | .lih1 _ d | .lih2 _ d | .lih3 _ d | .lih0 _ d => usesD [d] d
  | .addi _ _ a d => usesD [a] d
  | .bra _ => .none
  | .call _ d => usesD [] d
  | .brP _ _ _ => .none
  | .brx ca cd => ⟨[], [ca], [], [cd]⟩
  | .ret a => usesR [a.reg]
  | .exit | .yield | .brk _ _ => .none
  | .pause a => usesR [a.reg]
  | .cmp _ b a _ _ => usesR [a.reg, b.reg]
  | .cmpi _ _ a _ _ => usesR [a.reg]
  | .fcmp _ b a _ _ => usesR [a.reg, b.reg]
  | .pand _ _ _ | .por _ _ _ | .pxor _ _ _ | .pnot _ _ => .none
  | .ldIndex x _ c d | .ldsIndex x _ c d => usesM [x.reg] c [d]
  | .ldImm _ _ c d | .ldsImm _ _ c d => usesM [] c [d]
  | .stIndex x _ c _ | .stsIndex x _ c _ => usesM [x.reg] c []
  | .stImm _ _ c _ | .stsImm _ _ c _ => usesM [] c []
  | .ldpIndex x c d => usesM [x.reg] c (pair d)
  | .ldpImm _ c d => usesM [] c (pair d)
  | .stpIndex x c _ => usesM [x.reg] c []
  | .stpImm _ c _ => usesM [] c []
  | .ldfRIndex x c d | .ldfCIndex x c d => usesM [x.reg] c [d]
  | .ldfRImm _ c d | .ldfCImm _ c d => usesM [] c [d]
  | .stfRIndex x c _ | .stfCIndex x c _ => usesM [x.reg] c []
  | .stfRImm _ c _ | .stfCImm _ c _ => usesM [] c []
  | .ldcIndex x c cd => ⟨[x.reg], [c], [], [cd]⟩
  | .ldcImm _ c cd => ⟨[], [c], [], [cd]⟩
  | .stcIndex x c _ => usesM [x.reg] c []
  | .stcImm _ c _ => usesM [] c []
  | .prefIndex x _ _ => usesR [x.reg]
  | .prefImm _ _ _ => .none
  | .fence _ _ => .none
  | .atomRelaxed op b _ _ c d | .atomAcquire op b _ _ c d | .atomRelease op b _ _ c d | .atomAcqRel op b _ _ c d =>
    usesM (b :: if op = .cas then pair d else [d]) c [d]
  | .atoms op b _ _ c d => usesM (b :: if op = .cas then pair d else [d]) c [d]
  | .cinc b _ ca cd | .cset b ca cd | .cbnd b ca cd | .cperm b ca cd => ⟨[b.reg], [ca], [], [cd]⟩
  | .cseal cb ca cd | .cunseal cb ca cd => ⟨[], [ca, cb], [], [cd]⟩
  | .cmov ca cd | .cclr ca cd => ⟨[], [ca], [], [cd]⟩
  | .cget _ ca d => ⟨[], [ca], [d], []⟩
  | .ctest b ca _ _ => ⟨[b.reg], [ca], [], []⟩
  | .ceq cb ca _ _ => ⟨[], [ca, cb], [], []⟩
  | .join _ | .leave _ | .arrive _ | .waitb _ | .bar _ => .none
  | .mbw _ a => usesR [a.reg]
  | .mbr _ d => usesD [] d
  | .mbtry _ _ d => usesD [] d
  | .mbind _ _ => .none
  | .cpyT q _ ca _ _ cd | .cpyG q _ ca _ _ cd | .cpyS q _ ca _ _ cd | .cpySc q _ ca _ _ cd =>
    ⟨quad q.reg, [ca, cd], [], []⟩
  | .cpyP q _ _ _ cd => ⟨quad q.reg, [cd], [], []⟩
  | .seal d => usesD [] d
  | .mma fmt b a _ =>
    usesR (if fmt = .bf16 ∨ fmt = .f16 then pair a.reg ++ pair b.reg else [a.reg, b.reg])
  | .mmas _ b a _ _ => usesR (a.reg :: pair b.reg)
  | .mmod b a _ => usesR [a.reg, b.reg, sReg 12, sReg 13]
  | .aclr _ => .none
  | .ald _ c a _ => usesM [a.reg] c []
  | .ast _ _ c a _ => usesM [a.reg] c []
  | .tmma c q _ => usesM (quad q.reg) c []
  | .send cb a ce => ⟨triple a.reg, [cb, ce], [], []⟩
  | .recv cb a ce => ⟨[], [ce], quad a.reg, [cb]⟩
  | .xcall cb a ce => ⟨triple a.reg, [cb, ce], quad a.reg, [cb]⟩
  | .reply cb a => ⟨triple a.reg, [cb], [], []⟩
  | .notify a ce => ⟨[a.reg], [ce], [], []⟩
  | .poll cb a ce => ⟨[], [ce], quad a.reg, [cb]⟩
  | .sysc cb a ce => ⟨triple a.reg, [cb, ce], quad a.reg, [cb]⟩
  | .push cb _ d ce => ⟨[d], [ce, cb], [d], []⟩
  | .sret a ce => ⟨[a.reg], [ce], [], []⟩
  | .mark ce => ⟨[], [ce], [], []⟩
  | .bpost a _ => ⟨triple a.reg, [], [a.reg.plus 3], []⟩
  | .bwait a _ => ⟨[a.reg.plus 3], [], quad a.reg, []⟩
  | .emit a ce => ⟨[a.reg], [ce], [], []⟩
  | .ckpt => .none
  | .rd _ d => usesD [] d
  | .srd _ d => usesD [] d
  | .swr _ d => usesR [d]
  | .trap _ | .tret | .haltPark | .haltFail | .haltRequeue => .none
  | .bsave _ c | .brest _ c => ⟨[], [c], [], []⟩
  | .rmap b a d => usesD [a.reg, b] d
  | _ => .none

/-- Registers that an instruction reads and whose poison it carries onward (R140, R318). -/
def carriedOf : Instr → List DReg × List CReg
  | .mov16 _ a _ => ([lowV a], [])
  | .mov a _ => ([a.reg], [])
  | .sel _ _ b a _ => ([a.reg, b], [])
  | .stIndex _ _ _ d | .stsIndex _ _ _ d | .stImm _ _ _ d | .stsImm _ _ _ d => ([d], [])
  | .stpIndex _ _ d | .stpImm _ _ d => (pair d, [])
  | .stfRIndex _ _ d | .stfRImm _ _ d | .stfCIndex _ _ d | .stfCImm _ _ d => ([d], [])
  | .stcIndex _ _ cd | .stcImm _ _ cd => ([], [cd])
  | .prefIndex _ c _ | .prefImm _ c _ => ([], [c])
  | _ => ([], [])

/-- The register whose element of every seat of the bench must be ready (R162). -/
def benchRead : Instr → List DReg
  | .shfl _ a _ | .shflx _ a _ | .bcast _ a _ => [a.reg]
  | _ => []

/-- Is the instruction performed once per pass, by its lowest issued seat (R132, R267, R337)? -/
def lowestOnly : Instr → Bool
  | .tmma _ _ _ | .bsave _ _ | .brest _ _ | .tret | .haltPark | .haltFail | .haltRequeue | .rmap _ _ _ => true
  | _ => false

/-- Does the instruction close its clause (R35)? -/
def closesClause : Instr → Bool
  | .bra _ | .call _ _ | .brP _ _ _ | .brx _ _ | .ret _ | .exit | .trap _ | .tret | .sysc _ _ _ | .haltPark | .haltFail
  | .haltRequeue => true
  | _ => false

/-- Long-latency instructions (R31, R40): whether FB chooses SETB, and how often one pass of n seats raises the flag. -/
def longOf (i : Instr) (n : Nat) : Option (Bool × Nat) :=
  match i with
  | .ldIndex _ _ _ _ | .ldImm _ _ _ _ | .stIndex _ _ _ _ | .stImm _ _ _ _ | .ldpIndex _ _ _ | .ldpImm _ _ _
  | .stpIndex _ _ _ | .stpImm _ _ _ | .ldsIndex _ _ _ _ | .ldsImm _ _ _ _ | .stsIndex _ _ _ _ | .stsImm _ _ _ _
  | .ldfRIndex _ _ _ | .ldfRImm _ _ _ | .ldfCIndex _ _ _ | .ldfCImm _ _ _ | .stfRIndex _ _ _ | .stfRImm _ _ _
  | .stfCIndex _ _ _ | .stfCImm _ _ _ | .ldcIndex _ _ _ | .ldcImm _ _ _ | .stcIndex _ _ _ | .stcImm _ _ _
  | .atomRelaxed _ _ _ _ _ _ | .atomAcquire _ _ _ _ _ _ | .atomRelease _ _ _ _ _ _ | .atomAcqRel _ _ _ _ _ _
  | .atoms _ _ _ _ _ _ | .mma _ _ _ _ | .mmas _ _ _ _ _ | .mmod _ _ _ | .ald _ _ _ _ | .ast _ _ _ _ _
  | .tmma _ _ _ | .push _ _ _ _ | .mark _ | .bsave _ _ | .brest _ _ => some (false, 1)
  | .cpyT _ _ _ _ fb _ | .cpyG _ _ _ _ fb _ | .cpyS _ _ _ _ fb _ | .cpySc _ _ _ _ fb _ | .cpyP _ _ _ fb _ => some (fb, n)
  | _ => none

/-- The clocks of the datapath that an instruction takes for each seat that it issues (R68, R86, R118, R184, R276, R340, R417); for
the whole pass where only the lowest seat issues it. `w` is the header's width, which a 16-bit form takes. -/
def issueCost (w : ClauseW) : Instr → Nat
  | .mul16 _ _ _ => if w = .d then 2 else 1
  | .mul w _ _ _ | .mulh w _ _ _ | .mad w _ _ _ => if w = .d then 2 else 1
  | .frcp _ _ _ | .frsq _ _ _ | .fsqrt _ _ _ | .fexp2 _ _ _ | .flog2 _ _ _ | .fsin _ _ _ | .fcos _ _ _ | .ftanh _ _ _ => 2
  | .ldpIndex _ _ _ | .ldpImm _ _ _ | .stpIndex _ _ _ | .stpImm _ _ _ => 2
  | .cinc _ _ _ _ | .cset _ _ _ | .cbnd _ _ _ | .cperm _ _ _ | .cmov _ _ | .cclr _ _ | .ceq _ _ _ _ => 2
  | .cpyT _ _ _ _ _ _ | .cpyG _ _ _ _ _ _ | .cpyS _ _ _ _ _ _ | .cpySc _ _ _ _ _ _ | .cpyP _ _ _ _ _ => 2
  | .modmul _ _ _ | .mred _ _ _ | .nttbf _ _ | .inttbf _ _ => 2
  | .mma f _ _ _ => if f = .bf16 ∨ f = .f16 then 2 else 1
  | .cseal _ _ _ | .cunseal _ _ _ | .ldcIndex _ _ _ | .ldcImm _ _ _ | .stcIndex _ _ _ | .stcImm _ _ _ => 2
  | .send _ _ _ | .recv _ _ _ | .xcall _ _ _ | .sysc _ _ _ | .emit _ _ | .reply _ _ | .notify _ _ | .poll _ _ _ => 2
  | .push _ _ _ _ | .bpost _ _ | .bwait _ _ => 2
  | _ => 1

/-- Copies and `tmma` commands that a pass of n seats puts into the core's copy queue (R178, R270). -/
def queuePlaces (i : Instr) (n : Nat) : Nat :=
  match i with
  | .cpyT _ _ _ _ _ _ | .cpyG _ _ _ _ _ _ | .cpyS _ _ _ _ _ _ | .cpySc _ _ _ _ _ _ | .cpyP _ _ _ _ _ => n
  | .tmma _ _ _ => 1
  | _ => 0

/-- The tiles for which a pass waits until an earlier `tmma` on them has completed (R254). -/
def tilesOf : Instr → List Nat
  | .mma _ _ _ t | .mmas _ _ _ _ t | .aclr t | .ald _ _ _ t | .ast _ _ _ _ t => [t.val]
  | .mmod _ _ t => [t.val, t.val + 1]
  | _ => []

/-! ## Values -/

/-- The value of a source for a seat of the selected bench. -/
def srcV (s : State) (a : Src) (seat : Nat) : Word := readD (cur s) a.reg seat
/-- Sources that carry the use bits of a pair or a quad (R25). -/
def srcAll (a : Src) (rs : List DReg) : List Src := rs.map fun r => ⟨r, a.use⟩
/-- A plain source. -/
def plainSrc (r : DReg) : Src := ⟨r, .plain⟩

/-- The offset of a memory form (R102): the index register, or the scaled immediate. -/
def indexOff (s : State) (x : Src) (seat : Nat) : Int := (srcV s x seat).toInt
def immOff (i : BitVec 9) (size : Nat) : Int := i.toInt * Int.ofNat size
/-- The exact address of an access (R102). -/
def addrOf (s : State) (c : CReg) (off : Int) (seat : Nat) : Int :=
  Int.ofNat (capCursor (readC (cur s) c seat)).toNat + off

/-! ## Passes that write registers -/

/-- A pass whose only operand faults are those of its registers, and whose effect is on the bench (R88). -/
def benchPass (s : State) (i : Instr) (srcs : List Src) (eff : Bench → Bench) : Host.Outcome State Fault Refusal :=
  guardPass s (useFault s (usesOf i)) (retireWith s srcs (closesClause i) eff)

/-- A pass that computes D for each issued seat from the state before it. -/
def lanePass (s : State) (i : Instr) (srcs : List Src) (d : DReg) (val : Nat → Word) :
    Host.Outcome State Fault Refusal :=
  benchPass s i srcs fun b => writeD b d ((issued s).map fun k => (k, val k, none))

/-- A pass that writes a predicate. -/
def predPass (s : State) (i : Instr) (srcs : List Src) (p : PReg) (val : Nat → BitVec 8) :
    Host.Outcome State Fault Refusal :=
  benchPass s i srcs fun b => writeP b p ((issued s).map fun k => (k, val k))

/-- A pass that writes a capability register. -/
def capPass (s : State) (i : Instr) (srcs : List Src) (cd : CReg) (val : Nat → Cap) : Host.Outcome State Fault Refusal :=
  benchPass s i srcs fun b => writeC b cd ((issued s).map fun k => (k, val k, none))

end Sys2Proof.Machine
end

