-- ==== Sys2Proof/Machine/Flags.lean ====
section
/-!
DEFINITION. Completion flags and pending destinations (R31, R32, R132, R133, R136): the machine's only flags are the
counters f0–f11 and the predicates, whose values are computed in Lanes.lean. An instruction in flight raises its flag when
it issues, holds its destinations pending, and lowers the flag when it completes.
-/
namespace Sys2Proof.Machine

/-! ## Flags -/

/-- Are the flags that a header's WAIT names all clear (R32)? -/
def waitClear (b : Bench) (w : Nat) : Bool := (List.range 12).all fun k => fld w (7 + k) 1 == 0 || flagOf b k == 0

/-- May the flag take n more (R31)? -/
def flagFits (b : Bench) (f : Option Nat) (n : Nat) : Bool :=
  match f with
  | some k => decide (flagOf b k + n ≤ 255)
  | none => true

/-! ## Pending destinations (R136) -/

/-- The seats' rows of a pending register: allocated, and live from the issue on; an element that was dead reads as the
default until the value lands. -/
def markRow {α : Type} (rows : List (Row α)) (r : Nat) (dflt : α) (seats : List Nat) : List (Row α) :=
  writeRows rows r dflt (seats.map fun k => (k, rowRead rows r k dflt, rowPoison rows r k))

def markD (b : Bench) (seats : List Nat) (d : DReg) : Bench :=
  match d with
  | .v n => { b with vrows := markRow b.vrows n.val 0 seats }
  | .s _ => b

def markC (b : Bench) (seats : List Nat) (c : CReg) : Bench :=
  if c = 0 then b else { b with crows := markRow b.crows c.val Cap.null seats }

/-! ## Instructions in flight -/

/-- One part of a pass in flight: its seats, pending destinations, what it has to do and its deadline. -/
structure FlightPart where
  seats : SeatMask
  vds : List DReg
  cds : List CReg
  kind : FlightKind
  deadline : Word
/-- Mark the destinations of a pass and raise its flag. -/
def markPass (seats : List Nat) (vds : List DReg) (cds : List CReg) (flag : Option Nat) (b : Bench) : Bench :=
  raiseFlag (cds.foldl (fun b c => markC b seats c) (vds.foldl (fun b d => markD b seats d) b)) flag 1
/-- Put the parts of one pass in flight (R31, R132). -/
def addParts (s : State) (flag : Option Nat) (ps : List FlightPart) : State :=
  let b := cur s
  { s with
    flights := s.flights ++ (List.range ps.length).filterMap fun j =>
      (ps[j]?).map fun (p : FlightPart) =>
        ⟨s.nextId + j, s.nextId, s.sel.core, s.sel.slot, b.task, flag, p.seats, p.vds, p.cds.filter (· != 0), [], [], p.kind,
          p.deadline, []⟩
    nextId := s.nextId + ps.length }
/-- Put a whole pass in flight after it has retired. -/
def addFlight (s : State) (flag : Option Nat) (seats : SeatMask) (kind : FlightKind) : State :=
  addParts s flag [⟨seats, [], [], kind, 0⟩]
/-! ## Readiness (R132, R133) -/

/-- Is a data register pending for one of the seats? A s register is pending as a whole. -/
def pendingD (s : State) (core slot : Nat) (m : SeatMask) (r : DReg) : Bool :=
  s.flights.any (fun f => f.core == core && f.slot == slot && f.vdests.contains r &&
    (!r.isV || f.seats &&& m != 0)) ||
  (getBench s core slot).seats.any fun x =>
    match x.state with
    | .blocked w =>
      match waitDest w with
      | some (q, _, _, low, _) => !r.isV && low && (quad q).contains r
      | none => false
    | _ => false

def pendingC (s : State) (core slot : Nat) (m : SeatMask) (r : CReg) : Bool :=
  s.flights.any fun f => f.core == core && f.slot == slot && f.cdests.contains r && f.seats &&& m != 0

/-- A register that blocked seats of the bench wait to receive (R162). -/
def blockedOn (b : Bench) (r : DReg) : Bool :=
  b.seats.any fun x =>
    match x.state with
    | .blocked (.mbr _ d _) => d == r
    | .blocked w =>
      match w, waitDest w with
      | .bpost _ q, _ => q.plus 3 == r
      | _, some (q, _, _, _, _) => (quad q).contains r
      | _, none => false
    | _ => false

/-- Does every register that the pass reads or writes stand ready (R132, R162)? DESIGN CHOICE (log 107): the filler half-word, whose
fields name v0 (R22), waits for a pending v0 like any form that names it. -/
def regsReady (s : State) (core slot : Nat) (m : SeatMask) (i : Instr) : Bool :=
  let u := usesOf i
  let m := if lowestOnly i then seatBit (lowestSeat m) else m
  let rs := u.reads ++ u.writes ++ (carriedOf i).1
  let cs := u.creads ++ u.cwrites ++ (carriedOf i).2
  (rs.all fun r => !pendingD s core slot m r) && (cs.all fun c => !pendingC s core slot m c) &&
    (benchRead i).all fun r => !pendingD s core slot 0xFFFFFFFF r && !blockedOn (getBench s core slot) r

/-- Room in the core's copy queue (R178). -/
def queueUsed (s : State) (core : Nat) : Nat :=
  (s.flights.filter fun f => f.core == core &&
    match f.kind with
    | .copy _ => true
    | .tmma _ => true
    | _ => false).length

/-- Does an unfinished `tmma` on the core stand on one of the tiles (R254), or an `ald` with rows that have not landed (R151)? -/
def tileBusy (s : State) (core : Nat) (ts : List Nat) : Bool :=
  s.flights.any fun f => f.core == core &&
    match f.kind with
    | .tmma c => ts.any fun t => decide (c.tile ≤ t) && decide (t < c.tile + 4)
    | .stagedRows true _ t _ => ts.contains t
    | _ => false

end Sys2Proof.Machine
end

