-- ==== Sys2Proof/Machine/Select.lean ====
section
/-!
DEFINITION. Which seats a pass takes (R129, R130), and the timetable (R312 to R314).
-/
namespace Sys2Proof.Machine

/-! ## Which seats (R129, R130) -/

def eligible (x : Seat) : Bool := x.state == .eligible
def eligibleSeats (b : Bench) : List Nat := (List.range 32).filter fun k => eligible (getSeat b k)

/-- The lowest value of a list of addresses. -/
def lowestWord (l : List Word) : Word :=
  match l with
  | [] => 0
  | x :: xs => xs.foldl (fun a b => if b.toNat < a.toNat then b else a) x

/-- The seats among which the pass selects: the lifted set while one holds, else every eligible seat (R130). -/
def baseSeats (b : Bench) : List Nat :=
  let l := (eligibleSeats b).filter fun k => b.lifted.getLsbD k
  if l.isEmpty then eligibleSeats b else l

/-- The eligible seat that a lift takes (R130): the greatest skip count, then the lowest PC. DESIGN CHOICE (log 20): of seats
at that PC with different recorded headers, the lowest-numbered seat's header is lifted; the rule names none. -/
def liftSeat (b : Bench) : Option Nat :=
  ((eligibleSeats b).filter fun k => 527 ≤ (getSeat b k).skip).foldl (fun best k =>
    match best with
    | none => some k
    | some j =>
      let x := getSeat b k
      let y := getSeat b j
      if y.skip < x.skip ∨ (x.skip = y.skip ∧ x.pc.toNat < y.pc.toNat) then some k else some j) none

/-- Is a lift due: an eligible seat has been skipped 527 times and no lifted set holds the bench (R130)? -/
def liftDue (b : Bench) : Bool :=
  b.mode == .running && ((eligibleSeats b).all fun k => !b.lifted.getLsbD k) && (liftSeat b).isSome

/-! ## The timetable (R313, R314) -/

/-- The context slot of a task on a core. -/
def contextSlot (s : State) (t : Task) (core : Nat) : Option Nat :=
  match findObj s 965 (graphOf s t.graph).sched with
  | some { data := .sched _ _ _ bound, .. } => (bound.find? fun b => b.1 == core).map (·.2)
  | _ => none

/-- Timetable entry e of a core: VALID, STRICT, SLOT (R312). -/
def ttEntry (c : Core) (e : Nat) : Bool × Bool × Nat :=
  let x := (nth c.tt (e / 8) 0).toNat / 2 ^ (8 * (e % 8)) % 256
  (x / 128 == 1, x / 64 % 2 == 1, x % 8)

/-- May a bench of a context begin a clause on a pipe now (R314)? `ownerCould` tells whether a bench of a context on this
pipe could begin apart from the timetable. -/
def ttAdmits (s : State) (core pipe : Nat) (t : Task) (ownerCould : Nat → Bool) : Bool :=
  let c := getCore s core
  match ttEntry c ((lookupKey c.ttPos pipe).getD 0) with
  | (valid, strict, slot) =>
    !valid || contextSlot s t core == some slot || (!strict && !ownerCould slot)

/-- The pointer of a pipe moves to the next entry (R314); `left` clocks without a beginning clause count on. -/
def ttAdvance (c : Core) (pipe left : Nat) : Core :=
  { c with
    ttPos := putKey c.ttPos pipe (((lookupKey c.ttPos pipe).getD 0 + 1) % 64), ttIdle := putKey c.ttIdle pipe left }
/-- The pointer of a pipe and its count of clocks in which no clause began (R314), after a pass or an idle time of some clocks.
A clause begins in the first clock of its pass. -/
def ttAfter (c : Core) (pipe : Nat) (start : Bool) (clocks : Nat) : Core :=
  if start then ttAdvance c pipe (clocks - 1)
  else { c with ttIdle := putKey c.ttIdle pipe ((lookupKey c.ttIdle pipe).getD 0 + clocks) }

/-- A seat that stands at a header enters its clause (R32, R36). -/
def enterSeat (hdr : Word) (word : Word32) (x : Seat) : Seat :=
  { x with pc := hdr + 4, hdr := hdr, hdrWord := word, idx := 0, must := 0 }

/-- The selected bench with the seats and the address of the pass. -/
def selectPass (s : State) (core slot : Nat) (seats : SeatMask) (pc : Word) (len : Nat) : State :=
  { s with sel := { s.sel with core := core, slot := slot, seats := seats, pc := pc, len := len, late := false } }

end Sys2Proof.Machine
end

