-- ==== Sys2Proof/Machine/Remote.lean ====
section
/-!
DEFINITION. Requests to other packages (R213, R359, R400, R401, R424 to R426): the split of a remote address, the paths,
and the sending of a request.
-/
namespace Sys2Proof.Machine

/-! ## Remote addresses (R359, R400) -/

def remotePkg (va : Word) : Nat := bitsOf va 63 53
def remoteSlot (va : Word) : Nat := bitsOf va 52 45
def remoteVa (va : Word) : Word := BitVec.ofNat 64 (bitsOf va 44 0)

/-! ## Paths (R424, R425) -/

def PathSet.none_ (target : Nat) : PathSet := ⟨target, [], [], none, none, [], 0, [], []⟩
def pathSetOf (s : State) (target : Nat) : PathSet :=
  (s.paths.find? fun p => p.target == target).getD (PathSet.none_ target)
def putPathSet (s : State) (p : PathSet) : State :=
  { s with paths :=
      if s.paths.any fun x => x.target == p.target then s.paths.map fun x => if x.target == p.target then p else x
      else s.paths ++ [p] }
/-- The paths in use, in ascending library number: this package's own link lives and no failure toward the target stands;
none while the target refuses (R424, R430). -/
def livePaths (s : State) (p : PathSet) : List Nat :=
  if p.refusing.isSome then [] else p.libs.filter fun l => libLinked s l && !p.failed.contains l
/-- The hash of a line (R425). -/
def pathHash (va : Word) : Nat :=
  let l := bitsOf va 44 6
  Nat.xor (Nat.xor (l % 2 ^ 16) (l / 2 ^ 16 % 2 ^ 16)) (l / 2 ^ 32)
/-- The library that carries an access (R425). -/
def pathFor (s : State) (target : Nat) (va : Word) : Option Nat :=
  let ps := livePaths s (pathSetOf s target)
  if ps.isEmpty then none else ps[pathHash va % ps.length]?
/-- A target without a path starts the 50 µs of R430, once something waits for it. -/
def noteNoPath (s : State) (target : Nat) : State :=
  let p := pathSetOf s target
  if (livePaths s p).isEmpty && p.noneSince.isNone then putPathSet s { p with noneSince := some s.bell } else s

/-- Does an access sent before a change of the path set still travel on a library? -/
def stillOn (before : List RemoteOut) (target lib epoch : Nat) : Bool :=
  before.any fun o => o.target == target && o.lib == some lib && decide (o.epoch ≤ epoch) && !o.sure
/-- Take note of a change of the paths in use: the set before it stays while accesses travel under it. -/
def noteEpoch (s : State) (target : Nat) : State :=
  let p := pathSetOf s target
  let l := livePaths s p
  if l = p.live then s
  else
    let olds := (p.olds ++ [(p.epoch, p.live)]).filter fun e => e.2.any fun lib => stillOn s.remote target lib e.1
    putPathSet s { p with live := l, epoch := p.epoch + 1, olds := olds }

/-! ## Grants (R223, R229, R235) -/

/-- The kind of access that an operation makes. -/
def remoteAcc : RemoteOp → Access
  | .load _ => .load
  | .store _ _ _ => .store
  | .atomic _ _ _ => .rmw
  | .combine _ _ _ => .rmw
  | .sret _ => .rmw
  | .exported _ => .load
  | .reserve _ => .rmw
/-- The bytes that an operation touches. -/
def remoteSize : RemoteOp → Nat
  | .load n => n
  | .store d _ _ => d.length
  | .atomic _ w32 _ => if w32 then 4 else 8
  | .combine _ size _ => size
  | .sret _ => 64
  | .exported _ => 0
  | .reserve _ => 0
/-- Does a grant permit an access (R224)? -/
def grantAllows (g : Grant) : Access → Bool
  | .load => Nat.testBit g.perms 0
  | .store => Nat.testBit g.perms 1
  | .rmw => Nat.testBit g.perms 0 && Nat.testBit g.perms 1
  | .fetch => false
/-- Is a grant used for a byte of a target now: while the bell is below its expiry minus 512 ns? -/
def grantServes (s : State) (target slot va : Nat) (acc : Access) (g : Grant) : Bool :=
  g.target == target && g.slot == slot && decide (g.page ≤ va) && decide (va < g.page + g.size) && grantAllows g acc &&
    match g.expiry with
    | some e => decide (s.bell.toNat + 512 < e.toNat)
    | none => true
/-- The grants that a die uses: none while the bell is not locked, or the die's structures have drifted (R233, R235). -/
def cachedGrants (s : State) (die : Nat) : List Grant :=
  if s.lock.locked && !isSkewed s (.die die) then (lookupKey s.grantCache die).getD [] else []
/-- The grant for a byte of a request: one given for it, or a cached one. -/
def grantOf (s : State) (o : RemoteOut) (va : Nat) : Option Grant :=
  (o.own ++ cachedGrants s o.die).find? (grantServes s o.target o.body.slot va (remoteAcc o.body.op))
/-- The earlier of two expiries. -/
def earlier : Option Word → Option Word → Option Word
  | some a, some b => some (if a.toNat < b.toNat then a else b)
  | some a, none => some a
  | none, b => b
/-- The addresses of the bytes of a request. -/
def reqBytes (o : RemoteOut) : List Nat := (List.range (remoteSize o.body.op)).map (o.body.va.toNat + ·)
/-- A request translated by the grants at hand, if they cover it. -/
def granted (s : State) (o : RemoteOut) : Option RemoteReq :=
  ((reqBytes o).mapM fun a => (grantOf s o a).map fun g => (g.frame + (a - g.page), g.expiry)).map fun ps =>
    { o.body with pas := ps.map (·.1), expiry := (ps.map (·.2)).foldl earlier none }
/-- The first byte of a request without a grant. -/
def ungranted (s : State) (o : RemoteOut) : Word :=
  BitVec.ofNat 64 (((reqBytes o).find? fun a => (grantOf s o a).isNone).getD o.body.va.toNat)
/-- Keep a grant in the remote translation cache of a die, of 4,096 entries (R223); one of lease 0, or of class 11, serves its
access only (R227). -/
def keepGrant (s : State) (die : Nat) (g : Grant) : State :=
  if g.expiry.isNone || g.cls == 3 || !s.lock.locked || isSkewed s (.die die) then s
  else { s with grantCache := putKey s.grantCache die ((g :: (lookupKey s.grantCache die).getD []).take 4096) }

/-! ## Completion of earlier accesses (R117, R208) -/

/-- Is the flight an access of the seat that a release of it covers, batches aside (R117, R208)? A product of register
fragments reaches no memory (R273). -/
def accessFlight (f : Flight) : Bool :=
  match f.kind with
  | .copy _ => false
  | .arrival _ _ _ _ => false
  | .notify _ _ _ => false
  | .reply _ _ _ => false
  | .matrix _ => false
  | .image _ _ _ => false
  | _ => true
/-- The flights of a seat of a bench. -/
def seatFlights (s : State) (core slot seat : Nat) : List Flight :=
  s.flights.filter fun f => f.core == core && f.slot == slot && f.seats.getLsbD seat
/-- A copy in a batch that was sealed when the seat's open batch was `batch` (R180, R208). -/
def sealedCopy (batch : Word32) (f : Flight) : Bool :=
  match f.kind with
  | .copy c => c.batch != batch
  | _ => false
/-- Have the accesses that a seat made before a flight completed, its copies in batches sealed by then among them (R115, R208,
R210)? -/
def accessesBefore (s : State) (core slot seat id : Nat) (batch : Word32) : Bool :=
  (seatFlights s core slot seat).all fun f => decide (id ≤ f.id) || (!accessFlight f && !sealedCopy batch f)
/-- Has every earlier access of a seat completed? -/
def accessesDone (s : State) (core slot seat : Nat) : Bool :=
  let x := getSeat (getBench s core slot) seat
  (seatFlights s core slot seat).all fun f => !accessFlight f && !sealedCopy x.batch f
/-- Has what a request's seats made before it completed, if it is a release (R170, R208)? -/
def releaseMet (s : State) (o : RemoteOut) : Bool :=
  o.after.isEmpty ||
    match findFlight s o.flight with
    | some f => o.after.all fun e => accessesBefore s f.core f.slot e.1 f.id e.2
    | none => false

/-! ## Sending (R213, R401, R426, R429) -/

/-- Does a mark to a target, issued before a flight, still wait to be sent? -/
def unsentMark (s : State) (target flight : Nat) : Bool :=
  s.flights.any fun f => match f.kind with
    | .mark _ t 0 _ _ => t == target && decide (f.id < flight)
    | _ => false
/-- May a request go on a library? No earlier one to its line waits, travels on another path, or travels under another grant
(R213, R229); nothing sent before a change of the path set travels on the path that its line had then (R213, R426); no mark
before it waits (R214); and what a release covers has completed (R208). -/
def mayGo (s : State) (before : List RemoteOut) (o : RemoteOut) (lib : Nat) (expiry : Option Word) : Bool :=
  !(before.any fun x => x.target == o.target && x.line == o.line && !x.sure &&
      (x.lib != some lib || x.body.expiry != expiry)) &&
    ((pathSetOf s o.target).olds.all fun e =>
      match e.2[pathHash o.body.va % e.2.length]? with
      | some l => l == lib || !stillOn before o.target l e.1
      | none => true) &&
    !unsentMark s o.target o.flight && releaseMet s o
/-- The latest mark to a target that is under way (R429). -/
def lastMark (s : State) (target : Nat) : Option Nat :=
  (s.flights.filterMap fun f => match f.kind with
    | .mark num t n _ _ => if t == target && n != 0 then some num else none
    | _ => none).getLast?
/-- Does a request carry bytes of a push's payload? DEDUCED (log 115): its push was granted before any mark that is under way, so that
it goes ahead of the mark. -/
def isPayload (s : State) (o : RemoteOut) : Bool :=
  match findFlight s o.flight with
  | some { kind := .push _ _ _ (some _) _ _ _, .. } => true
  | _ => false
/-- The mark behind which a request is sent: that of its first sending (R426, R429). -/
def sentBehind (s : State) (o : RemoteOut) : Option Nat :=
  if o.sent.isSome then o.body.behind else if isPayload s o then none else lastMark s o.target
/-- Does a request store bytes? -/
def carriesBytes (o : RemoteOut) : Bool :=
  match o.body.op with
  | .store _ _ _ => true
  | _ => false
/-- A request on a library path. -/
def outOf (target lib : Nat) (r : RemoteReq) : OutMsg :=
  match r.op with
  | .reserve n => .reserve target lib ⟨r.src, r.reqId, r.slot, r.va, r.base, r.top, n, false, r.behind⟩
  | _ => .request target lib r
/-- Send a request that waits, if it may go; ask, on its path, for the grant that it lacks (R425). `before` are the requests that come
first. -/
def goOut (s : State) (before : List RemoteOut) (o : RemoteOut) : State × RemoteOut :=
  if o.lib.isSome then (s, o)
  else
    match pathFor s o.target o.body.va, granted s o with
    | none, _ => (s, o)
    | some l, some r =>
      if mayGo s before o l r.expiry then
        let r := { r with behind := sentBehind s o }
        ({ s with outbox := s.outbox ++ [outOf o.target l r] },
          { o with lib := some l, body := r, own := [], asked := none, sent := some s.bell, epoch := (pathSetOf s o.target).epoch })
      else (s, o)
    | some l, none =>
      if o.asked.isSome then (s, o)
      else ({ s with outbox := s.outbox ++ [.grantAsk o.target l o.req o.body.slot (ungranted s o) (remoteAcc o.body.op)] },
        { o with asked := some (l, s.bell) })
/-- Send a request for a flight of a core, or hold it; a release names what it waits for (R208). -/
def sendAfter (s : State) (core flight : Nat) (seats : SeatMask) (target : Nat) (r : RemoteReq) (after : List (Nat × Word32)) : State :=
  let s := noteEpoch s target
  match goOut s s.remote ⟨r.reqId, flight, seats, target, bitsOf r.va 44 6, none, r, false, 0, dieOf core, [], none, none, after⟩ with
  | (s, o) => noteNoPath { s with remote := s.remote ++ [o], nextReq := s.nextReq + 1 } target
/-- Send a request that is no release. -/
def sendRemote (s : State) (core flight : Nat) (seats : SeatMask) (target : Nat) (r : RemoteReq) : State :=
  sendAfter s core flight seats target r []
/-- The request that an access through a REMOTE capability makes (R362, R400): it carries the capability's bounds. -/
def remoteReq (s : State) (c : Cap) (va : Word) (op : RemoteOp) : RemoteReq :=
  let base := BitVec.ofInt 64 (capBase c)
  ⟨s.pkg, s.nextReq, remoteSlot va, remoteVa va, remoteVa base, remoteVa base + BitVec.ofNat 64 (capLen c), op, [], none, none⟩
/-- The deadline of replies and acknowledgements (R395, R401). -/
def replyDeadline (s : State) : Word := s.bell + 200000

/-! ## Requests that wait for a path or for their line (R213, R426) -/

/-- Send the held requests that may go, in order. -/
def sendHeldFrom (s : State) (done : List RemoteOut) : List RemoteOut → State
  | [] => { s with remote := done }
  | o :: rest =>
    match goOut s done o with
    | (s, o) => sendHeldFrom s (done ++ [o]) rest
def sendHeld (s : State) : State := sendHeldFrom s [] s.remote
/-- An access that was not sent waits to be sent on the new path, translated again. -/
def unsent (o : RemoteOut) : RemoteOut :=
  { o with lib := none, sure := false, own := [], asked := none, body := { o.body with pas := [], expiry := none } }
/-- The requests of a flight for these seats are answered. -/
def answered (s : State) (id : Nat) (m : SeatMask) : State :=
  let left := fun (o : RemoteOut) =>
    if o.flight == id then
      (if o.seats &&& ~~~ m == 0 then none else some { o with seats := o.seats &&& ~~~ m })
    else some o
  sendHeld { s with remote := s.remote.filterMap left }
/-- One request of a flight is answered. -/
def answeredOne (s : State) (id : Nat) (p : RemoteOut → Bool) : State :=
  match s.remote.findIdx? fun o => o.flight == id && p o with
  | some i => sendHeld { s with remote := s.remote.eraseIdx i }
  | none => s

/-! ## Travel (R360) -/

/-- The export slot of an address space. -/
def exportSlotOf (s : State) (space : Nat) : Option Nat := (aspaceObj s space).exportSlot
/-- Record a crossing in the export set, unit by unit of 2 MiB (R360). -/
def noteExport (s : State) (space : Nat) (base len target : Nat) : State :=
  let first := base / 0x200000
  let n := if len = 0 then 1 else (base + len - 1) / 0x200000 - first + 1
  let units := (List.range n).map (· + first)
  { s with exportUnits := units.foldl (fun us u =>
      if us.any fun x => x.aspace == space && x.unit == u then
        us.map fun x =>
          if x.aspace == space && x.unit == u then
            if x.all || x.pkgs.contains target then x
            else if 64 ≤ x.pkgs.length then { x with all := true }
            else { x with pkgs := x.pkgs ++ [target] }
          else x
      else us ++ [⟨space, u, [target], false⟩]) s.exportUnits }
/-- The crossing of a capability that carries REMOTE goes into the export set of the package that its address names (R360). DEDUCED
(log 102): that package is the origin, and where it is another one it is told through the fabric. -/
def noteRemote (s : State) (c : Cap) (target : Nat) : State :=
  let base := BitVec.ofInt 64 (capBase c)
  let origin := remotePkg base
  if origin = s.pkg then
    match lookupKey s.exportSlots (remoteSlot base) with
    | some space => noteExport s space (remoteVa base).toNat (capLen c) target
    | none => s
  else { s with outbox := s.outbox ++ [.exportNote origin (remoteReq s c base (.exported target))] }
/-- A tagged capability that crosses to another package (R360): what arrives, and the export set after it. -/
def travel (s : State) (space : Nat) (c : Cap) (target : Nat) : Cap × State :=
  if !c.tag then (c, s)
  else if hasPerm c .remote ∧ (capSeal c = 1009 ∨ !isObjType (capSeal c)) then (withSeal c 1009 true, noteRemote s c target)
  else
    match exportSlotOf s space with
    | none => (withTag c false, s)
    | some k =>
      if capSeal c = 0 ∧ capE c ≤ 26 ∧ 0 ≤ capBase c ∧ capTop c ≤ Int.ofNat (2 ^ 45) ∧ !isObjType (capSeal c) then
        let pre := s.pkg * 2 ^ 53 + k * 2 ^ 45
        let cur : Word := BitVec.ofNat 64 pre + capCursor c
        let e := capE c
        let b := pre + (capBase c).toNat
        let t := pre + (capTop c).toNat
        (mkCap cur (capPerms c ||| 2) 1009 e (b / 2 ^ e % 2 ^ 19) (t / 2 ^ e % 2 ^ 19) true,
          noteExport s space (capBase c).toNat (capLen c) target)
      else (withTag c false, s)

end Sys2Proof.Machine
end

