-- ==== Sys2Proof/Machine/Access.lean ====
section
/-!
DEFINITION. Loads and stores (R101 to R107, R146, R151, R188 to R191, R317 to R319, R362, R400, R401), prefetch and fence
(R117). A load reads when it issues or at any later time until it completes, in ascending seat order; the stores of a pass enter the
hold or the bank when it issues, or together at any later time until it completes.
-/
namespace Sys2Proof.Machine

/-! ## Accesses made later than their issue (R151, R193) -/

/-- The accesses that a flight still has to make. -/
def itemsOf (f : Flight) : List WinItem :=
  match f.kind with
  | .stagedLoad _ _ is => is
  | .stagedStore is => is
  | .stagedAtom _ _ _ _ _ is => is
  | .stagedRows _ _ _ is => is
  | _ => []
/-- The accesses that flights of the selected bench still have to make for a seat. -/
def heldItems (s : State) (seat : Nat) : List WinItem :=
  (s.flights.filter fun f => f.core == s.sel.core && f.slot == s.sel.slot).flatMap fun f =>
    (itemsOf f).filter fun i => i.seat == seat

/-- Is a window access held: it touches a granule that has not landed, or bytes of an earlier access of its seat that has not been
made (R104, R151)? -/
def winHeld (s : State) (seat a n : Nat) : Bool :=
  !(winWaiting (curTask s) a n).isEmpty ||
    (heldItems s seat).any fun i => decide (i.addr.toNat < a + n) && decide (a < i.addr.toNat + i.size)

def itemsMeet (i j : WinItem) : Bool :=
  decide (i.addr.toNat < j.addr.toNat + j.size) && decide (j.addr.toNat < i.addr.toNat + i.size)
/-- May an access be made: its granules have landed, and no earlier one of its seat on the same bytes waits? -/
def itemReady (s : State) (f : Flight) (i : WinItem) : Bool :=
  (winWaiting (flightTask s f) i.addr.toNat i.size).isEmpty &&
    !(s.flights.any fun g => g.task == f.task && g.core == f.core && g.slot == f.slot && decide (g.id < f.id) &&
      (itemsOf g).any fun j => j.seat == i.seat && itemsMeet i j)
/-- Those of a pass that may be made, where the seats' accesses to the same bytes are made in ascending order (R104, R169); `wait` are
lower seats' that wait. -/
def inOrder (ready : WinItem → Bool) : List WinItem → List WinItem → List WinItem
  | _, [] => []
  | wait, i :: is =>
    if ready i && !(wait.any (itemsMeet i)) then i :: inOrder ready wait is else inOrder ready (wait ++ [i]) is
/-- Those of a pass whose seats on one location are one access (R169). -/
def together (ready : WinItem → Bool) (is : List WinItem) : List WinItem :=
  is.filter fun i => is.all fun j => !itemsMeet i j || ready j
/-- Is the operation one whose set is one indivisible access (R169)? -/
def combines : AtomOp → Bool
  | .cas => false
  | .fadd => false
  | _ => true
def isAcquire : MemOrd → Bool
  | .acquire => true
  | .acqRel => true
  | _ => false
def isRelease : MemOrd → Bool
  | .release => true
  | .acqRel => true
  | _ => false
/-- The accesses of a flight that may be made now. -/
def readyItems (s : State) (f : Flight) : List WinItem :=
  match f.kind with
  | .stagedLoad _ _ is => is.filter (itemReady s f)
  | .stagedRows true _ _ is => is.filter (itemReady s f)
  | .stagedRows false _ _ is => inOrder (itemReady s f) [] is
  | .stagedStore is => inOrder (itemReady s f) [] is
  | .stagedAtom _ op _ ord _ is =>
    let ready := fun (i : WinItem) =>
      itemReady s f i && (!isRelease ord || accessesBefore s f.core f.slot i.seat f.id i.batch)
    if combines op then together ready is else inOrder ready [] is
  | _ => []
/-- What is left of a list of accesses once some have been made. -/
def itemsLeft (ready items : List WinItem) : List WinItem := items.filter fun i => !ready.contains i
/-- The lines outside the window that accesses of a task still have to bring into its hold (R310). -/
def lateLines (s : State) (id : Word) : List Nat :=
  ((s.flights.filter fun f => f.task == id).flatMap fun f =>
    let lines := fun (is : List WinItem) => (is.filter fun i => decide (windowEnd ≤ i.addr.toNat)).flatMap fun i => linesOf i.addr.toNat i.size
    match f.kind with
    | .stagedStore is => lines is
    | .stagedAtom .core _ _ _ _ is => lines is
    | .stagedAtom .die _ _ _ _ is => lines is
    | _ => []).eraseDups
/-- The lines that a task holds or that its late stores will bring into its hold (R310). -/
def takenLines (s : State) (t : Task) : List Nat := (heldLines t ++ lateLines s t.id).eraseDups
/-- The size that the hold has with them (R310). -/
def takenSize (s : State) (t : Task) : Nat :=
  64 * (takenLines s t).length + t.heldRecs.foldl (fun n r => n + r.data.bytes.length) 0

/-! ## Reading and writing a place -/

/-- What a thread of the selected bench sees at a place; another package answers later. -/
def seePlace (s : State) (p : Place) (n : Nat) : Seen :=
  match p with
  | .win a => seeWindow s (curTask s) (curCoreT s) a n
  | .mem a pas => seeMem s (curTask s) (curCoreT s) a pas
  | .remote _ => ⟨[], false, false⟩

/-- Change the core part of the selected bench's task on its core. -/
def onCoreHold (s : State) (f : List HoldLine → List HoldLine) : State :=
  let t := curTask s
  let c := taskCore t (curCoreT s)
  putTask s (putTaskCore t (curCoreT s) { c with hold := f c.hold })
/-- Store data at a place (R104, R106, R107): the bank or the hold accepts it. The monitor bench's stores have no hold. -/
def storeAt (s : State) (p : Place) (bs : List Byte) (poisoned : Bool) : State :=
  match p with
  | .win a => winStore s (curTask s) (curCoreT s) a bs poisoned
  | .mem a pas =>
    if onMonitor s then physStore s (nth pas 0 0) bs poisoned
    else onCoreHold s fun h => holdStore h a bs false poisoned s.bell
  | .remote _ => s
/-- Store a capability at a place (R318). -/
def storeCapAt (s : State) (p : Place) (c : Cap) (poisoned : Bool) : State :=
  match p with
  | .win a => winStoreCap s (curTask s) (curCoreT s) a c poisoned
  | .mem a pas =>
    if onMonitor s then physStoreCap s (nth pas 0 0) c poisoned
    else onCoreHold s fun h => holdStore h a (capBytes c) c.tag poisoned s.bell
  | .remote _ => s

/-! ## The checks of a pass -/

/-- Every issued seat's operand faults and access checks, in ascending seat order (R88, R102). -/
def accessChecks (s : State) (i : Instr) (c : CReg) (addr : Nat → Int) (k : Ask) (extra : Nat → Bool → Option OpFault) :
    Except (List (Nat × OpFault)) (List (Nat × Place) × State) :=
  runSeats s (fun s1 seat =>
    match useFault s (usesOf i) seat with
    | some f => .error f
    | none => checkAccess s1 (readC (cur s) c seat) (addr seat) k (extra seat)) (issued s)

/-- The seats of a list of accesses. -/
def seatsIn (l : List (Nat × Place)) : SeatMask := maskOf fun k => l.any fun p => p.1 == k
/-- Does a pass of stores or atomics make its accesses later than its issue: by choice (R193), or because a seat's is held (R104,
R151, R169)? -/
def madeLate (s : State) (n : Nat) (ps : List (Nat × Place)) : Bool :=
  s.sel.late || ps.any fun p => match p.2 with
    | .win a => winHeld s p.1 a n
    | _ => false
/-- The accesses of a pass to other packages, and the others. -/
def farPlaces (ps : List (Nat × Place)) : List (Nat × Word) :=
  ps.filterMap fun p => match p.2 with
    | .remote va => some (p.1, va)
    | _ => none
def nearPlaces (ps : List (Nat × Place)) : List (Nat × Place) :=
  ps.filter fun p => match p.2 with
    | .remote _ => false
    | _ => true
/-- Split the accesses of a pass of loads: those held by R151, those to other packages, and the rest. -/
def splitPlaces (s : State) (n : Nat) (ps : List (Nat × Place)) :
    List (Nat × Place) × List (Nat × Word) × List (Nat × Place) :=
  (ps.filter fun p => match p.2 with
      | .win a => winHeld s p.1 a n
      | _ => false,
    ps.filterMap fun p => match p.2 with
      | .remote va => some (p.1, va)
      | _ => none,
    ps.filter fun p => match p.2 with
      | .win a => !winHeld s p.1 a n
      | .mem _ _ => true
      | .remote _ => false)

/-! ## Loads -/

/-- The words that a load writes to its one or two registers (R103). -/
def loadWords (bs : List Byte) : List Word :=
  [BitVec.ofNat 64 (valueLE (bs.take 8)), BitVec.ofNat 64 (valueLE (bs.drop 8))]
/-- The value of each register of a load for the seats that take it: a v register every seat, an s register the lowest
issued seat (R7). -/
def destVals (low : Nat) (ds : List DReg) (seen : List (Nat × Seen)) : List (DReg × List SeatVal) :=
  (List.range ds.length).filterMap fun j =>
    (ds[j]?).map fun d =>
      (d, (seen.filter fun e => d.isV || e.1 == low).map fun e =>
        (e.1, nth (loadWords e.2.bytes) j 0, if e.2.poison then some 0 else none))
/-- The capability that an `ldc` delivers (R318, R362). -/
def loadedCap (s : State) (space : Nat) (window ldc : Bool) (x : Seen) : Cap :=
  transferCap s space (capOfBytes x.bytes (x.tag && !x.poison && (window || ldc)))
/-- Registers of a part of a pass: an s register belongs to the part of the lowest issued seat. -/
def partDests (low : Nat) (seats : SeatMask) (ds : List DReg) : List DReg :=
  ds.filter fun d => d.isV || seats.getLsbD low

/-- The items of accesses held by R151. -/
def loadItems (n : Nat) (ps : List (Nat × Place)) : List WinItem :=
  ps.filterMap fun p => match p.2 with
    | .win a => some ⟨p.1, BitVec.ofNat 64 a, n, 0, false, false, 0, 0, [], []⟩
    | _ => none

/-! ## Reads that are performed late (R190, R193) -/

/-- The reads of a load that need not be performed at its issue. The monitor bench's are. -/
def lateReads (s : State) (c : CReg) (n : Nat) (near : List (Nat × Place)) : List LateRead :=
  if onMonitor s then []
  else near.filterMap fun p => match p.2 with
    | .win a => some ⟨p.1, a, [], n, hasPerm (readC (cur s) c p.1) .ldc, []⟩
    | .mem a pas =>
      some ⟨p.1, a, pas, n, hasPerm (readC (cur s) c p.1) .ldc, leasesOf s s.sel.core (benchSpace s) a pas⟩
    | .remote _ => none
/-- Does an access touch a location that a late read reads (R104, R188)? One through a REMOTE capability may touch any in memory. -/
def LateRead.meets (l : LateRead) (p : Place) (n : Nat) : Bool :=
  match p with
  | .win a => l.pas.isEmpty && decide (l.addr < a + n) && decide (a < l.addr + l.size)
  | .mem _ pas => l.pas.any fun q => pas.contains q
  | .remote _ => !l.pas.isEmpty
/-- The late reads of the selected bench for which `hit` holds have been performed, when their loads were issued. -/
def settleReads (s : State) (hit : LateRead → Bool) : State :=
  { s with
    flights := s.flights.map fun f =>
      if f.core = s.sel.core ∧ f.slot = s.sel.slot then { f with late := f.late.filter fun l => !hit l } else f }
/-- A seat's accesses to overlapping locations are performed in its program order (R104, R193): those of a pass of loads or stores
come after its earlier reads of what they touch. -/
def settleOver (s : State) (n : Nat) (ps : List (Nat × Place)) : State :=
  settleReads s fun l => ps.any fun p => p.1 == l.seat && l.meets p.2 n
/-- Give a load in flight its late reads. -/
def putLate (s : State) (id : Nat) (ls : List LateRead) : State :=
  { s with flights := s.flights.map fun f => if f.id = id then { f with late := ls } else f }

/-- Send one request for each seat of a flight. -/
def sendEach (s : State) (id : Nat) (c : CReg) (b : Bench) (op : Nat → RemoteOp) (far : List (Nat × Word)) : State :=
  far.foldl (fun s e => sendRemote s s.sel.core id (seatBit e.1) (remotePkg e.2) (remoteReq s (readC b c e.1) e.2 (op e.1))) s

/-- The effect of a pass of loads whose checks are done: what the seats see now is what they read, unless the reads are performed
later (R104, R190, R193), and the parts of the pass are in flight. -/
def issueLoad (s : State) (i : Instr) (srcs : List Src) (c : CReg) (n : Nat) (ds : List DReg) (cd : Option CReg)
    (ps : List (Nat × Place)) : State :=
  let b := cur s
  let low := lowestSeat s.sel.seats
  let flag := passFlag s false
  let cds := cd.toList
  match splitPlaces s n ps with
  | (held, far, near) =>
    let seen := near.map fun p => (p.1, seePlace s p.2 n)
    let caps := cds.map fun r => (r, near.map fun p =>
      let x := seePlace s p.2 n
      let win := match p.2 with
        | .win _ => true
        | _ => false
      (p.1, loadedCap s (taskSpaceNum s (curTask s)) win (hasPerm (readC b c p.1) .ldc) x, if x.poison then some 0 else none))
    let nearM := seatsIn near
    let heldM := seatsIn held
    let farM := maskOf fun k => far.any fun e => e.1 == k
    let ldcM := maskOf fun k => far.any fun e => e.1 == k && hasPerm (readC b c k) .ldc
    let t := retireWith (settleOver s n ps) srcs false (markPass (issued s) ds cds flag)
    let parts :=
      (if near.isEmpty then [] else
        [(⟨nearM, partDests low nearM ds, cds, .load (destVals low ds seen) caps false, 0⟩ : FlightPart)]) ++
      (if held.isEmpty then [] else
        [(⟨heldM, partDests low heldM ds, cds, .stagedLoad ds.head? cd (loadItems n held), 0⟩ : FlightPart)]) ++
      (if far.isEmpty then [] else
        [(⟨farM, partDests low farM ds, cds, .remoteLoad s.nextReq n ldcM false, replyDeadline s⟩ : FlightPart)])
    let t := addParts t flag parts
    let t := if near.isEmpty then t else putLate t s.nextId (lateReads s c n near)
    sendEach t (t.nextId - 1) c b (fun _ => .load n) far

/-- A pass of loads (R102, R103, R106). -/
def loadPass (s : State) (i : Instr) (srcs : List Src) (c : CReg) (addr : Nat → Int) (k : Ask) (ds : List DReg)
    (cd : Option CReg) : Host.Outcome State Fault Refusal :=
  match accessChecks s i c addr k fun _ _ => none with
  | .error fs => .next (takeFaults s fs)
  | .ok (ps, t) => .next (issueLoad t i srcs c k.n ds cd ps)

/-! ## Stores -/

/-- What one seat stores: its bytes, the capability if it stores one, and whether the register is poisoned. -/
structure Stored where
  bytes : List Byte
  cap : Option Cap
  poison : Bool
  deriving DecidableEq, Repr

/-- Perform one seat's store. -/
def storeOne (s : State) (p : Place) (x : Stored) : State :=
  match x.cap with
  | some c => storeCapAt s p c x.poison
  | none => storeAt s p x.bytes x.poison

/-- Stores that are made later. -/
def storeItems (n : Nat) (val : Nat → Stored) (ps : List (Nat × Place)) : List WinItem :=
  let item := fun (k a : Nat) =>
    let x := val k
    (⟨k, BitVec.ofNat 64 a, n, valueLE x.bytes, (x.cap.map (·.tag)).getD false, x.poison, 0, 0, [], []⟩ : WinItem)
  ps.filterMap fun p => match p.2 with
    | .win a => some (item p.1 a)
    | .mem a _ => some (item p.1 a)
    | .remote _ => none

/-- Send a remote store: a capability is rewritten at the fabric interface (R360). -/
def sendStore (s : State) (id seat : Nat) (c : Cap) (va : Word) (space : Nat) (x : Stored) : State :=
  match x.cap with
  | some y =>
    match travel s space y (remotePkg va) with
    | (y', t) => sendRemote t t.sel.core id (seatBit seat) (remotePkg va)
        (remoteReq t c va (.store (capBytes y') (y'.tag && !x.poison) x.poison))
  | none => sendRemote s s.sel.core id (seatBit seat) (remotePkg va) (remoteReq s c va (.store x.bytes false x.poison))

/-- The effect of a pass of stores whose checks are done, in ascending seat order (R104): now, or together later. -/
def issueStore (s : State) (srcs : List Src) (c : CReg) (n : Nat) (val : Nat → Stored) (ps : List (Nat × Place)) :
    State :=
  let b := cur s
  let flag := passFlag s false
  let space := taskSpaceNum s (curTask s)
  let near := nearPlaces ps
  let far := farPlaces ps
  let late := madeLate s n ps
  let t := settleOver s n ps
  let t := if late then t else near.foldl (fun t p => storeOne t p.2 (val p.1)) t
  let t := retireWith t srcs false fun b => raiseFlag b flag 1
  let parts :=
    if near.isEmpty then [] else
      [(⟨seatsIn near, [], [], if late then .stagedStore (storeItems n val near) else .store, 0⟩ : FlightPart)]
  let first := t.nextId + parts.length
  let parts := parts ++ (List.range far.length).map fun j =>
    let e := nth far j (0, 0)
    (⟨seatBit e.1, [], [], .remoteStore (s.nextReq + j) (remotePkg e.2), replyDeadline s⟩ : FlightPart)
  let t := addParts t flag parts
  (List.range far.length).foldl (fun t j =>
    let e := nth far j (0, 0)
    sendStore t (first + j) e.1 (readC b c e.1) e.2 space (val e.1)) t

/-- A pass of stores (R102, R103, R106). -/
def storePass (s : State) (i : Instr) (srcs : List Src) (c : CReg) (addr : Nat → Int) (k : Ask)
    (extra : Nat → Bool → Option OpFault) (val : Nat → Stored) : Host.Outcome State Fault Refusal :=
  match accessChecks s i c addr k extra with
  | .error fs => .next (takeFaults s fs)
  | .ok (ps, t) => .next (issueStore t srcs c k.n val ps)

/-! ## The forms of the loads and stores -/

def askLoad (n : Nat) (r : Reach) : Ask := ⟨[.ld], n, r, 1, 1, .load⟩
def askStore (n : Nat) (r : Reach) : Ask := ⟨[.st], n, r, 1, 1, .store⟩
/-- Fragment elements are aligned to 8 bytes (R146). -/
def askFrag (p : Perm) (a : Access) : Ask := ⟨[p], 8, .window, 8, 3, a⟩
/-- Capabilities are aligned to 16 bytes (R318). -/
def askCap (p : Perm) (a : Access) : Ask := ⟨[p], 16, .any, 16, 4, a⟩
/-- The exact address of an element of a fragment (R146). -/
def fragAddr (s : State) (c : CReg) (off : Int) (stride : Nat) (seat : Nat) : Int :=
  addrOf s c off seat + Int.ofNat (stride * seat)
/-- The low n bytes of a register, with its poison (R103, R107). -/
def storedD (s : State) (d : DReg) (n seat : Nat) : Stored :=
  ⟨bytesLE n (readD (cur s) d seat).toNat, none, (poisonD (cur s) d seat).isSome⟩
/-- The 16 bytes of a register pair. -/
def storedPair (s : State) (d : DReg) (seat : Nat) : Stored :=
  ⟨bytesLE 8 (readD (cur s) d seat).toNat ++ bytesLE 8 (readD (cur s) d.succ seat).toNat, none,
    (poisonD (cur s) d seat).isSome || (poisonD (cur s) d.succ seat).isSome⟩
/-- A capability register that `stc` stores; quarantine takes its tag (R362). -/
def storedC (s : State) (cd : CReg) (seat : Nat) : Stored :=
  let x := transferCap s (taskSpaceNum s (curTask s)) (readC (cur s) cd seat)
  ⟨capBytes x, some x, (poisonC (cur s) cd seat).isSome⟩
/-- The checks that `stc` adds outside the window (R318). -/
def stcExtra (s : State) (c cd : CReg) (addr : Nat → Int) (seat : Nat) (window : Bool) : Option OpFault :=
  let x := readC (cur s) cd seat
  let a : Word := BitVec.ofInt 64 (addr seat)
  if window || !x.tag then none
  else if !hasPerm x .global then some (capFault 0x12 3 x a)
  else if !hasPerm (readC (cur s) c seat) .stc then some (capFault 0x12 1 (readC (cur s) c seat) a)
  else none

/-! ## Global memory (R101 to R104) -/

/-- `ld` with an index register (R101). -/
def execLdIndex (x : Src) (sz : Width) (c : CReg) (d : DReg) (s : State) : Host.Outcome State Fault Refusal :=
  loadPass s (.ldIndex x sz c d) [x] c (fun k => addrOf s c (indexOff s x k) k) (askLoad (widthBytes sz) .glob) [d] none
/-- `ld` with an immediate offset (R101). -/
def execLdImm (i : BitVec 9) (sz : Width) (c : CReg) (d : DReg) (s : State) : Host.Outcome State Fault Refusal :=
  loadPass s (.ldImm i sz c d) [] c (addrOf s c (immOff i (widthBytes sz))) (askLoad (widthBytes sz) .glob) [d] none
/-- `st` with an index register (R101). -/
def execStIndex (x : Src) (sz : Width) (c : CReg) (d : DReg) (s : State) : Host.Outcome State Fault Refusal :=
  storePass s (.stIndex x sz c d) [x] c (fun k => addrOf s c (indexOff s x k) k) (askStore (widthBytes sz) .glob)
    (fun _ _ => none) (storedD s d (widthBytes sz))
/-- `st` with an immediate offset (R101). -/
def execStImm (i : BitVec 9) (sz : Width) (c : CReg) (d : DReg) (s : State) : Host.Outcome State Fault Refusal :=
  storePass s (.stImm i sz c d) [] c (addrOf s c (immOff i (widthBytes sz))) (askStore (widthBytes sz) .glob)
    (fun _ _ => none) (storedD s d (widthBytes sz))
/-- `ldp` with an index register (R101, R103). -/
def execLdpIndex (x : Src) (c : CReg) (d : DReg) (s : State) : Host.Outcome State Fault Refusal :=
  loadPass s (.ldpIndex x c d) [x] c (fun k => addrOf s c (indexOff s x k) k) (askLoad 16 .glob) (pair d) none
/-- `ldp` with an immediate offset (R101, R103). -/
def execLdpImm (i : BitVec 9) (c : CReg) (d : DReg) (s : State) : Host.Outcome State Fault Refusal :=
  loadPass s (.ldpImm i c d) [] c (addrOf s c (immOff i 8)) (askLoad 16 .glob) (pair d) none
/-- `stp` with an index register (R101, R103). -/
def execStpIndex (x : Src) (c : CReg) (d : DReg) (s : State) : Host.Outcome State Fault Refusal :=
  storePass s (.stpIndex x c d) [x] c (fun k => addrOf s c (indexOff s x k) k) (askStore 16 .glob) (fun _ _ => none)
    (storedPair s d)
/-- `stp` with an immediate offset (R101, R103). -/
def execStpImm (i : BitVec 9) (c : CReg) (d : DReg) (s : State) : Host.Outcome State Fault Refusal :=
  storePass s (.stpImm i c d) [] c (addrOf s c (immOff i 8)) (askStore 16 .glob) (fun _ _ => none) (storedPair s d)

/-! ## The team window (R105, R146) -/

/-- `lds` with an index register (R105). -/
def execLdsIndex (x : Src) (sz : Width) (c : CReg) (d : DReg) (s : State) : Host.Outcome State Fault Refusal :=
  loadPass s (.ldsIndex x sz c d) [x] c (fun k => addrOf s c (indexOff s x k) k) (askLoad (widthBytes sz) .window) [d] none
/-- `lds` with an immediate offset (R105). -/
def execLdsImm (i : BitVec 9) (sz : Width) (c : CReg) (d : DReg) (s : State) : Host.Outcome State Fault Refusal :=
  loadPass s (.ldsImm i sz c d) [] c (addrOf s c (immOff i (widthBytes sz))) (askLoad (widthBytes sz) .window) [d] none
/-- `sts` with an index register (R105). -/
def execStsIndex (x : Src) (sz : Width) (c : CReg) (d : DReg) (s : State) : Host.Outcome State Fault Refusal :=
  storePass s (.stsIndex x sz c d) [x] c (fun k => addrOf s c (indexOff s x k) k) (askStore (widthBytes sz) .window)
    (fun _ _ => none) (storedD s d (widthBytes sz))
/-- `sts` with an immediate offset (R105). -/
def execStsImm (i : BitVec 9) (sz : Width) (c : CReg) (d : DReg) (s : State) : Host.Outcome State Fault Refusal :=
  storePass s (.stsImm i sz c d) [] c (addrOf s c (immOff i (widthBytes sz))) (askStore (widthBytes sz) .window)
    (fun _ _ => none) (storedD s d (widthBytes sz))
/-- `ldf.r` with an index register (R146). -/
def execLdfRIndex (x : Src) (c : CReg) (d : DReg) (s : State) : Host.Outcome State Fault Refusal :=
  loadPass s (.ldfRIndex x c d) [x] c (fun k => fragAddr s c (indexOff s x k) 8 k) (askFrag .ld .load) [d] none
/-- `ldf.r` with an immediate offset (R146). -/
def execLdfRImm (i : BitVec 9) (c : CReg) (d : DReg) (s : State) : Host.Outcome State Fault Refusal :=
  loadPass s (.ldfRImm i c d) [] c (fragAddr s c (immOff i 8) 8) (askFrag .ld .load) [d] none
/-- `ldf.c` with an index register (R146). -/
def execLdfCIndex (x : Src) (c : CReg) (d : DReg) (s : State) : Host.Outcome State Fault Refusal :=
  loadPass s (.ldfCIndex x c d) [x] c (fun k => fragAddr s c (indexOff s x k) 512 k) (askFrag .ld .load) [d] none
/-- `ldf.c` with an immediate offset (R146). -/
def execLdfCImm (i : BitVec 9) (c : CReg) (d : DReg) (s : State) : Host.Outcome State Fault Refusal :=
  loadPass s (.ldfCImm i c d) [] c (fragAddr s c (immOff i 8) 512) (askFrag .ld .load) [d] none
/-- `stf.r` with an index register (R146). -/
def execStfRIndex (x : Src) (c : CReg) (d : DReg) (s : State) : Host.Outcome State Fault Refusal :=
  storePass s (.stfRIndex x c d) [x] c (fun k => fragAddr s c (indexOff s x k) 8 k) (askFrag .st .store)
    (fun _ _ => none) (storedD s d 8)
/-- `stf.r` with an immediate offset (R146). -/
def execStfRImm (i : BitVec 9) (c : CReg) (d : DReg) (s : State) : Host.Outcome State Fault Refusal :=
  storePass s (.stfRImm i c d) [] c (fragAddr s c (immOff i 8) 8) (askFrag .st .store) (fun _ _ => none) (storedD s d 8)
/-- `stf.c` with an index register (R146). -/
def execStfCIndex (x : Src) (c : CReg) (d : DReg) (s : State) : Host.Outcome State Fault Refusal :=
  storePass s (.stfCIndex x c d) [x] c (fun k => fragAddr s c (indexOff s x k) 512 k) (askFrag .st .store)
    (fun _ _ => none) (storedD s d 8)
/-- `stf.c` with an immediate offset (R146). -/
def execStfCImm (i : BitVec 9) (c : CReg) (d : DReg) (s : State) : Host.Outcome State Fault Refusal :=
  storePass s (.stfCImm i c d) [] c (fragAddr s c (immOff i 8) 512) (askFrag .st .store) (fun _ _ => none) (storedD s d 8)

/-! ## Capabilities (R317, R318) -/

/-- `ldc` with an index register (R317). -/
def execLdcIndex (x : Src) (c cd : CReg) (s : State) : Host.Outcome State Fault Refusal :=
  loadPass s (.ldcIndex x c cd) [x] c (fun k => addrOf s c (indexOff s x k) k) (askCap .ld .load) [] (some cd)
/-- `ldc` with an immediate offset (R317). -/
def execLdcImm (i : BitVec 9) (c cd : CReg) (s : State) : Host.Outcome State Fault Refusal :=
  loadPass s (.ldcImm i c cd) [] c (addrOf s c (immOff i 16)) (askCap .ld .load) [] (some cd)
/-- `stc` with an index register (R317). -/
def execStcIndex (x : Src) (c cd : CReg) (s : State) : Host.Outcome State Fault Refusal :=
  let addr := fun k => addrOf s c (indexOff s x k) k
  storePass s (.stcIndex x c cd) [x] c addr (askCap .st .store) (stcExtra s c cd addr) (storedC s cd)
/-- `stc` with an immediate offset (R317). -/
def execStcImm (i : BitVec 9) (c cd : CReg) (s : State) : Host.Outcome State Fault Refusal :=
  let addr := addrOf s c (immOff i 16)
  storePass s (.stcImm i c cd) [] c addr (askCap .st .store) (stcExtra s c cd addr) (storedC s cd)

/-! ## Prefetch (R319) -/

/-- What a prefetch asks: the line of the address (R319). DESIGN CHOICE (log 35): its access is of one byte. -/
def askPref : Ask := ⟨[.ld], 1, .glob, 1, 1, .load⟩
/-- The silent translations of a pass of prefetches: a check or a translation that fails does nothing (R319). -/
def prefWalks (s : State) (c : CReg) (addr : Nat → Int) : State :=
  (issued s).foldl (fun t k =>
    match checkAccess t (readC (cur s) c k) (addr k) askPref fun _ => none with
    | .ok (_, t) => t
    | .error _ => t) s
/-- A pass of prefetches: it changes no value; what caches hold no program reads (R319). -/
def prefPass (s : State) (i : Instr) (srcs : List Src) (c : CReg) (addr : Nat → Int) : Host.Outcome State Fault Refusal :=
  guardPass s (useFault s (usesOf i)) (retireWith (prefWalks s c addr) srcs false id)
/-- `pref` with an index register (R319). -/
def execPrefIndex (x : Src) (c : CReg) (llc : Bool) (s : State) : Host.Outcome State Fault Refusal :=
  prefPass s (.prefIndex x c llc) [x] c fun k => addrOf s c (indexOff s x k) k
/-- `pref` with an immediate offset (R319). -/
def execPrefImm (i : BitVec 9) (c : CReg) (llc : Bool) (s : State) : Host.Outcome State Fault Refusal :=
  prefPass s (.prefImm i c llc) [] c (addrOf s c (immOff i 8))

/-! ## Completion of earlier accesses (R117, R208) -/

/-- Is it a load or an atomic that has not returned its value (R117)? -/
def valueFlight (f : Flight) : Bool :=
  match f.kind with
  | .load _ _ _ => true
  | .stagedLoad _ _ _ => true
  | .stagedAtom _ _ _ _ _ _ => true
  | .remoteLoad _ _ _ _ => true
  | _ => false
/-- The condition of a fence (R117): a fence touches no copy. -/
def fenceMet (s : State) (core slot seat : Nat) (o : FenceOrd) : Bool :=
  (seatFlights s core slot seat).all fun f =>
    match o with
    | .acquire => !valueFlight f
    | _ => !accessFlight f

/-! ## Fence (R117, R195, R203) -/

/-- Is a scope team or wider? -/
def wideScope : Scope → Bool
  | .seat => false
  | .bench => false
  | .core => false
  | _ => true
/-- What a release at a scope demands of the hold: at team scope and wider the core part drains (R189, R190, R203). -/
def releaseDrain (s : State) (task : Word) (coreT : Nat) (sc : Scope) : State :=
  if wideScope sc then
    match findTask s task with
    | some t => putTask s (drainCore t coreT)
    | none => s
  else s
/-- The release at dom scope of an endpoint or service instruction (R194, R203): what the task holds in the issuing core's part
goes to the die part. -/
def releaseDom (s : State) : State := releaseDrain s (cur s).task (curCoreT s) .dom
/-- Does the order of a fence release? -/
def fenceReleases : FenceOrd → Bool
  | .acquire => false
  | _ => true
/-- A fence of a seat scope continues in its own pass (R117). -/
def fenceNow (s : State) (sc : Scope) (o : FenceOrd) (seat : Nat) : Bool :=
  sc == .seat || fenceMet s s.sel.core s.sel.slot seat o
/-- `fence` (R117): seats whose condition holds go on, the others are blocked. -/
def execFence (sc : Scope) (o : FenceOrd) (s : State) : Host.Outcome State Fault Refusal :=
  let t := retireBlocking s [] fun k => if fenceNow s sc o k then none else some (.fence sc o)
  .next (if fenceReleases o && (issued s).any (fenceNow s sc o) then releaseDrain t (cur s).task (curCoreT s) sc else t)

end Sys2Proof.Machine
end

