-- ==== Sys2Proof/Machine/Atomics.lean ====
section
/-!
DEFINITION. Atomics (R166 to R171, R190, R191, R201, R202): `atom` on global memory by scope and order, `atoms` on the
team window.
-/
namespace Sys2Proof.Machine

/-! ## Operations (R167) -/

/-- The new value of a location of w bits, or none where it is not written; x is the operand, e the compare value. -/
def atomNew (op : AtomOp) (w m x e : Nat) : Option Nat :=
  match op with
  | .add => some (addE w m x)
  | .and => some (Nat.land m x)
  | .or => some (Nat.lor m x)
  | .xor => some (Nat.xor m x)
  | .min => some (minE w m x)
  | .max => some (maxE w m x)
  | .minu => some (minuE m x)
  | .maxu => some (maxuE m x)
  | .swap => some x
  | .cas => if m = e then some x else none
  | .fadd => some (fadd1 (if w = 64 then fmt64 else fmt32) m x)

def atomBits (w32 : Bool) : Nat := if w32 then 32 else 64

/-- The operand and the compare value of a seat (R166, R167). -/
def atomOperands (s : State) (op : AtomOp) (w32 : Bool) (d : DReg) (seat : Nat) : Nat × Nat :=
  let w := atomBits w32
  let a := (readD (cur s) d seat).toNat % 2 ^ w
  match op with
  | .cas => ((readD (cur s) d.succ seat).toNat % 2 ^ w, a)
  | _ => (a, 0)

/-! ## Publication of one granule (R170, R202) -/

/-- The bytes of a granule leave a held line. -/
def dropGranule (l : HoldLine) (g : Nat) : HoldLine :=
  let k := g / 16 % 4
  { l with
    mask := l.mask &&& ~~~ (BitVec.ofNat 64 (0xFFFF * 2 ^ (16 * k)))
    tags := setNth l.tags k none
    poison := setNth l.poison k none }
/-- The held bytes of a granule of a line as they lie in memory from pa. -/
def publishGranuleLine (s : State) (l : HoldLine) (g pa : Nat) : State :=
  let k := g / 16 % 4
  let only : HoldLine := { l with
    mask := l.mask &&& BitVec.ofNat 64 (0xFFFF * 2 ^ (16 * k))
    tags := (List.range 4).map fun j => if j = k then nth l.tags j none else none
    poison := (List.range 4).map fun j => if j = k then nth l.poison j none else none }
  publishWrite s only (pa - 16 * k)
/-- Publish the held bytes of a task in the granule of an address, whose line is drained; `pa` is the granule's physical
address. -/
def publishGranule (s : State) (t : Task) (g pa : Nat) : State :=
  let t := drainLineAll t (g / 64)
  match t.dieHold.find? fun l => l.line == g / 64 with
  | none => putTask s t
  | some l =>
    let s := publishGranuleLine s l g pa
    let l' := dropGranule l g
    let rest := t.dieHold.filter fun x => !(x.line == g / 64)
    putTask s { t with
      dieHold := if l'.mask = 0 && l'.tags.all (·.isNone) && l'.poison.all (·.isNone) then rest
        else t.dieHold.map fun x => if x.line == g / 64 then l' else x }

/-! ## Where an atom is performed (R170, R190) -/

/-- The place of performance by scope. -/
def atomAt : Scope → AtomAt
  | .seat => .core
  | .bench => .core
  | .core => .core
  | .team => .die
  | _ => .loc

/-- Before an access at team scope or wider, its line leaves every core part; before one past the hold, its granule is
published (R170, R191). -/
def atomPrepare (s : State) (w : AtomAt) (a pa : Nat) : State :=
  if onMonitor s then s
  else
    let t := curTask s
    match w with
    | .core => s
    | .die => putTask s (drainLineAll t (a / 64))
    | .loc => publishGranule s t (alignDown a 16) (pa - a % 16)
/-- The write of an atom. -/
def atomWrite (s : State) (w : AtomAt) (a pa : Nat) (bs : List Byte) : State :=
  if onMonitor s then physStore s pa bs false
  else
    match w with
    | .core => onCoreHold s fun h => holdStore h a bs false false s.bell
    | .die =>
      let t := curTask s
      putTask s { t with dieHold := holdStore t.dieHold a bs false false s.bell }
    | .loc => physStore s pa bs false
/-- One seat's atom on a local location: the value returned, its poison, and the state after it. -/
def atomOne (s : State) (w : AtomAt) (op : AtomOp) (w32 : Bool) (a : Nat) (pas : List Nat) (x e : Nat) :
    Word × Bool × State :=
  let n := atomBits w32
  let s := atomPrepare s w a (nth pas 0 0)
  let seen := seeMem s (curTask s) (curCoreT s) a pas
  let m := valueLE seen.bytes
  let g := alignDown a 16
  let poisoned := viewPoison s (curTask s) (curCoreT s) g (nth pas 0 0 - (a - g))
  if poisoned then (0, true, s)
  else
    (BitVec.ofNat 64 m, false,
      match atomNew op n m x e with
      | some v => atomWrite s w a (nth pas 0 0) (bytesLE (n / 8) v)
      | none => s)
/-- One seat's atom at a scratchpad bank (R170), through the map of team core k. -/
def atomBank (s : State) (t : Task) (k : Nat) (op : AtomOp) (w32 : Bool) (a x e : Nat) : Word × Bool × State :=
  let n := atomBits w32
  let seen := seeWindow s t k a (n / 8)
  let m := valueLE seen.bytes
  if seen.poison then (0, true, s)
  else
    (BitVec.ofNat 64 m, false,
      match atomNew op n m x e with
      | some v => winStore s t k a (bytesLE (n / 8) v) false
      | none => s)
def atomWin (s : State) (op : AtomOp) (w32 : Bool) (a x e : Nat) : Word × Bool × State :=
  atomBank s (curTask s) (curCoreT s) op w32 a x e

/-- The local seats of a pass in ascending order, one operation after another (R169). -/
def atomSeats (s : State) (w : AtomAt) (op : AtomOp) (w32 : Bool) (opd : Nat → Nat × Nat) :
    List (Nat × Place) → List SeatVal × State
  | [] => ([], s)
  | (k, p) :: ps =>
    match p with
    | .remote _ => atomSeats s w op w32 opd ps
    | .win a =>
      match atomWin s op w32 a (opd k).1 (opd k).2 with
      | (v, q, s1) =>
        match atomSeats s1 w op w32 opd ps with
        | (vs, s2) => ((k, v, if q then some 0 else none) :: vs, s2)
    | .mem a pas =>
      match atomOne s w op w32 a pas (opd k).1 (opd k).2 with
      | (v, q, s1) =>
        match atomSeats s1 w op w32 opd ps with
        | (vs, s2) => ((k, v, if q then some 0 else none) :: vs, s2)

/-! ## Passes -/

/-- The sets of a pass among its remote seats: seats that name one location (R169). -/
def remoteSets (far : List (Nat × Word)) : List (Word × List Nat) :=
  (far.map (·.2)).eraseDups.map fun va => (va, (far.filter fun e => e.2 == va).map (·.1))
/-- Send one request for each set. DESIGN CHOICE (log 108): a set of `cas` or `fadd`, between whose seats other accesses may fall, is
performed at once here too. A release goes out once what it covers has completed (R208). -/
def sendSets (s : State) (id : Nat) (c : CReg) (b : Bench) (op : AtomOp) (w32 : Bool) (ord : MemOrd) (opd : Nat → Nat × Nat)
    (far : List (Nat × Word)) : State :=
  (remoteSets far).foldl (fun s e =>
    sendAfter s s.sel.core id (maskOf fun k => e.2.contains k) (remotePkg e.1)
      (remoteReq s (readC b c (e.2.headD 0)) e.1
        (.atomic op w32 (e.2.map fun k => (BitVec.ofNat 64 (opd k).1, BitVec.ofNat 64 (opd k).2))))
      (if isRelease ord then e.2.map fun k => (k, (getSeat b k).batch) else [])) s
/-- The drain that the order of an atom of the selected bench demands before it is performed: a release at team scope and wider
drains its own core part (R203), an acquire drains the others as well (R201). -/
def atomOrder (s : State) (ord : MemOrd) (wide : Bool) : State :=
  if !wide || onMonitor s then s
  else
    let t := curTask s
    let t := if isRelease ord then drainCore t (curCoreT s) else t
    putTask s (if isAcquire ord then drainAll t else t)
/-- The values that D takes: an s register that of the lowest issued seat (R7). -/
def atomVals (low : Nat) (d : DReg) (vals : List SeatVal) : List (DReg × List SeatVal) :=
  [(d, vals.filter fun v => d.isV || v.1 == low)]
/-- The atomics of a pass that are made later. -/
def atomItems (s : State) (w32 : Bool) (opd : Nat → Nat × Nat) (ps : List (Nat × Place)) : List WinItem :=
  let item := fun (k a : Nat) (pas : List Nat) (leases : List (List Word)) =>
    (⟨k, BitVec.ofNat 64 a, atomBits w32 / 8, (opd k).1, false, false, (opd k).2, (getSeat (cur s) k).batch, pas, leases⟩ : WinItem)
  ps.filterMap fun p => match p.2 with
    | .win a => some (item p.1 a [] [])
    | .mem a pas => some (item p.1 a pas (leasesOf s s.sel.core (benchSpace s) a pas))
    | .remote _ => none
/-- Is a release made before what it covers has completed (R170, R208)? -/
def releaseEarly (s : State) (ord : MemOrd) (ps : List (Nat × Place)) : Bool :=
  isRelease ord && !onMonitor s && ps.any fun p => !accessesDone s s.sel.core s.sel.slot p.1
/-- The effect of a pass of atomics whose checks are done: now, or together later. Through a REMOTE capability the scope is dom
(R170). -/
def issueAtom (s : State) (op : AtomOp) (b : DReg) (w : AtomAt) (ord : MemOrd) (wide w32 : Bool) (c : CReg) (d : DReg)
    (ps : List (Nat × Place)) : State :=
  let bench := cur s
  let flag := passFlag s false
  let opd := atomOperands s op w32 d
  let low := lowestSeat s.sel.seats
  let near := nearPlaces ps
  let far := farPlaces ps
  let late := madeLate s (atomBits w32 / 8) ps || releaseEarly s ord near
  let s1 := settleOver s (atomBits w32 / 8) ps
  match atomSeats (atomOrder s1 ord (wide || !far.isEmpty)) w op w32 opd (if late then [] else near) with
  | (vals, t) =>
    let t := retireWith t [plainSrc b] false (markPass (issued s) [d] [] flag)
    let farM := maskOf fun k => far.any fun e => e.1 == k
    let kind := if late then FlightKind.stagedAtom w op w32 ord wide (atomItems s w32 opd near) else .load (atomVals low d vals) [] true
    let parts :=
      (if near.isEmpty then [] else [(⟨seatsIn near, partDests low (seatsIn near) [d], [], kind, 0⟩ : FlightPart)]) ++
      (if far.isEmpty then [] else
        [(⟨farM, partDests low farM [d], [], .remoteLoad s.nextReq (atomBits w32 / 8) 0 (isAcquire ord), replyDeadline s⟩ : FlightPart)])
    let t := addParts t flag parts
    sendSets t (t.nextId - 1) c bench op w32 ord opd far

/-- What an atomic asks of its access (R168). -/
def askAtom (w32 : Bool) (r : Reach) : Ask := ⟨[.ld, .st], atomBits w32 / 8, r, atomBits w32 / 8, 4, .rmw⟩
/-- A pass of `atom` (R168, R170, R171). -/
def atomPass (s : State) (i : Instr) (op : AtomOp) (b : DReg) (sc : Scope) (ord : MemOrd) (w32 : Bool) (c : CReg)
    (d : DReg) : Host.Outcome State Fault Refusal :=
  match accessChecks s i c (fun k => addrOf s c (indexOff s (plainSrc b) k) k) (askAtom w32 .glob) fun _ _ => none with
  | .error fs => .next (takeFaults s fs)
  | .ok (ps, t) => .next (issueAtom t op b (atomAt sc) ord (wideScope sc) w32 c d ps)

/-- `atom`, relaxed (R166). -/
def execAtomRelaxed (op : AtomOp) (b : DReg) (sc : Scope) (w32 : Bool) (c : CReg) (d : DReg) (s : State) :
    Host.Outcome State Fault Refusal :=
  atomPass s (.atomRelaxed op b sc w32 c d) op b sc .relaxed w32 c d
/-- `atom.acq` (R166). -/
def execAtomAcquire (op : AtomOp) (b : DReg) (sc : Scope) (w32 : Bool) (c : CReg) (d : DReg) (s : State) :
    Host.Outcome State Fault Refusal :=
  atomPass s (.atomAcquire op b sc w32 c d) op b sc .acquire w32 c d
/-- `atom.rel` (R166). -/
def execAtomRelease (op : AtomOp) (b : DReg) (sc : Scope) (w32 : Bool) (c : CReg) (d : DReg) (s : State) :
    Host.Outcome State Fault Refusal :=
  atomPass s (.atomRelease op b sc w32 c d) op b sc .release w32 c d
/-- `atom.ar` (R166). -/
def execAtomAcqRel (op : AtomOp) (b : DReg) (sc : Scope) (w32 : Bool) (c : CReg) (d : DReg) (s : State) :
    Host.Outcome State Fault Refusal :=
  atomPass s (.atomAcqRel op b sc w32 c d) op b sc .acqRel w32 c d
/-- `atoms` (R166, R170): at the bank, indivisible at team scope. -/
def execAtoms (op : AtomOp) (b : DReg) (o : MemOrd) (w32 : Bool) (c : CReg) (d : DReg) (s : State) :
    Host.Outcome State Fault Refusal :=
  match accessChecks s (.atoms op b o w32 c d) c (fun k => addrOf s c (indexOff s (plainSrc b) k) k)
      (askAtom w32 .window) fun _ _ => none with
  | .error fs => .next (takeFaults s fs)
  | .ok (ps, t) => .next (issueAtom t op b .core o true w32 c d ps)

end Sys2Proof.Machine
end

