-- ==== Sys2Proof/Machine/Groups.lean ====
section
/-!
DEFINITION. Groups (R113 to R116), and what their membership does to mailboxes (R158).
-/
namespace Sys2Proof.Machine

/-! ## Phases (R113) -/

/-- Do the arrivals of the open phase equal the expected count, and is that nonzero (R113)? -/
def phaseDone (x : Group) : Bool :=
  x.members.length + x.copies != 0 && x.applied.length + x.copyArrived == x.members.length + x.copies
/-- Every thread blocked on a phase goes on at its next instruction (R113, R116). -/
def wakePhase (s : State) (t : Task) (g : Nat) : State :=
  (taskBenches s t).foldl (fun s e =>
    let b := getBench s e.1 e.2
    putBench s e.1 e.2 ((List.range 32).foldl (fun b k =>
      match (getSeat b k).state with
      | .blocked (.phase h) => if h = g then unblockSeat b k 4 false else b
      | _ => b) b)) s
/-- Complete the open phase if it is full (R113). -/
def settleGroup (s : State) (id : Word) (g : Nat) : State :=
  match findTask s id with
  | none => s
  | some t =>
    let x := getGroup t g
    if phaseDone x then
      let x' := { x with marked := [], applied := [], copies := 0, copyArrived := 0, phase := x.phase + 1 }
      wakePhase (putTask s (putGroup t g x')) t g
    else s

/-! ## Mailboxes bound to a group (R158) -/

/-- The mailboxes of a task with their cores and numbers, changed where they are bound to a group. -/
def onBound (t : Task) (g : Nat) (f : Mailbox → Mailbox) : Task :=
  { t with cores := t.cores.map fun c =>
      { c with mail := c.mail.map fun m => if m.bound && m.group == g then f m else m } }
/-- The group gains a member: its mailboxes are armed. -/
def armMail (t : Task) (g : Nat) : Task := onBound t g fun m => { m with armed := true }
/-- The readers that abandonment wakes: core, mailbox number, bench and seat. -/
def abandonedReaders (t : Task) (g : Nat) : List (Nat × Nat × Nat × Nat) :=
  (List.range t.cores.length).flatMap fun k => (List.range 8).flatMap fun m =>
    let x := getMail t k m
    if x.bound && x.group == g && x.armed then x.readers.map fun r => (k, m, r.1, r.2) else []
/-- The member set of an armed group has become empty: the mailboxes bound to it are abandoned and their readers wake with
MBX_ABANDONED, EMPTY_GROUP. -/
def abandonMail (s : State) (id : Word) (g : Nat) : State :=
  match findTask s id with
  | none => s
  | some t =>
    let readers := abandonedReaders t g
    let s := putTask s (onBound t g fun m => if m.armed then { m with abandoned := true, readers := [] } else m)
    readers.foldl (fun s r => wakeParty s (.seat id r.1 r.2.2.1 r.2.2.2) ⟨0x31, 1, r.2.1⟩) s

/-! ## Joining, leaving, arriving (R114, R115) -/

def groupJoin (s : State) (id : Word) (th : Thread) (g : Nat) : State :=
  match findTask s id with
  | none => s
  | some t =>
    let x := getGroup t g
    if x.members.contains th then s
    else putTask s (armMail (putGroup t g { x with members := x.members ++ [th] }) g)
/-- Is the flight a pending arrival of a thread at a group? -/
def arrivalOf (id : Word) (th : Thread) (g : Nat) (f : Flight) : Bool :=
  f.task == id &&
    match f.kind with
    | .arrival u h _ _ => u == th && h == g
    | _ => false
/-- A member leaves (R114): its arrival is withdrawn; as a release its core's held lines drain (R194). -/
def groupLeave (s : State) (id : Word) (th : Thread) (g : Nat) : State :=
  match findTask s id with
  | none => s
  | some t =>
    let x := getGroup t g
    if !x.members.contains th then s
    else
      let no := fun (l : List Thread) => l.filter fun u => !(u == th)
      let x' := { x with members := no x.members, marked := no x.marked, applied := no x.applied }
      let s := { s with flights := s.flights.filter fun f => !arrivalOf id th g f }
      let s := settleGroup (putTask s (putGroup (drainCore t th.coreT) g x')) id g
      if x'.members.isEmpty then abandonMail s id g else s
/-- An arrival is applied (R115). -/
def groupApply (s : State) (id : Word) (th : Thread) (g : Nat) : State :=
  match findTask s id with
  | none => s
  | some t =>
    let x := getGroup t g
    if x.members.contains th && x.marked.contains th && !x.applied.contains th then
      settleGroup (putTask s (putGroup (drainCore t th.coreT) g { x with applied := x.applied ++ [th] })) id g
    else s
/-- A flight for an arrival or a departure that waits for the seat's earlier accesses. -/
def addArrival (s : State) (id : Word) (core slot : Nat) (th : Thread) (g : Nat) (leaves : Bool) : State :=
  { s with
    flights := s.flights ++
      [⟨s.nextId, s.nextId, core, slot, id, none, seatBit th.seat, [], [], [], [], .arrival th g leaves
        (getSeat (getBench s core slot) th.seat).batch, 0, []⟩]
    nextId := s.nextId + 1 }
/-- A departure (R114): at once where the seat's earlier accesses have completed, else when they have (R96, R194, R208). -/
def leaveSeat (s : State) (g k : Nat) : State :=
  let id := (cur s).task
  let th := threadOf s k
  if accessesDone s s.sel.core s.sel.slot k then groupLeave s id th g
  else if (getGroup (curTask s) g).members.contains th then addArrival s id s.sel.core s.sel.slot th g true
  else s
/-- `arrive` for one seat of the selected bench (R114, R115): applied at once where nothing is outstanding. -/
def arriveSeat (s : State) (g k : Nat) : State :=
  let id := (cur s).task
  let th := threadOf s k
  match findTask s id with
  | none => s
  | some t =>
    let x := getGroup t g
    if x.members.contains th && !x.marked.contains th then
      let s' := putTask s (putGroup t g { x with marked := x.marked ++ [th] })
      if accessesDone s s.sel.core s.sel.slot k then groupApply s' id th g
      else addArrival s' id s.sel.core s.sel.slot th g false
    else s
/-- `waitb` for one seat (R114): blocked if it has arrived in the open phase, else past the instruction. -/
def waitSeat (s : State) (g k : Nat) : State :=
  let x := getGroup (curTask s) g
  let th := threadOf s k
  onSeat s s.sel.core s.sel.slot k fun y =>
    if x.members.contains th && x.marked.contains th then blockSeat [] (.phase g) y else pastSeat y s.sel.len false
/-- Each issued seat in ascending order. -/
def eachSeat (s : State) (f : State → Nat → State) : State := (issued s).foldl f s

/-! ## Instructions (R114) -/

def execJoin (g : Fin 64) (s : State) : Host.Outcome State Fault Refusal :=
  .next (advance (eachSeat s fun s k => groupJoin s (cur s).task (threadOf s k) g.val) false)
def execLeave (g : Fin 64) (s : State) : Host.Outcome State Fault Refusal :=
  .next (advance (eachSeat s fun s k => leaveSeat s g.val k) false)
def execArrive (g : Fin 64) (s : State) : Host.Outcome State Fault Refusal :=
  .next (advance (eachSeat s fun s k => arriveSeat s g.val k) false)
def execWaitb (g : Fin 64) (s : State) : Host.Outcome State Fault Refusal :=
  .next (eachSeat s fun s k => waitSeat s g.val k)
def execBar (g : Fin 64) (s : State) : Host.Outcome State Fault Refusal :=
  .next (eachSeat s fun s k => waitSeat (arriveSeat s g.val k) g.val k)

end Sys2Proof.Machine
end

