-- ==== Sys2Proof/Machine/Mailbox.lean ====
section
/-!
DEFINITION. Mailboxes (R155 to R161, R172, R173).
-/
namespace Sys2Proof.Machine

/-- The mailbox timeout of a task's context (R160). -/
def mailTimeout (s : State) (t : Task) : Nat :=
  match findObj s 965 (graphOf s t.graph).sched with
  | some { data := .sched _ _ tmo _, .. } => tmo
  | _ => 10000000
/-- The mailbox of the selected bench's core. -/
def curMail (s : State) (m : Nat) : Mailbox := getMail (curTask s) (curCoreT s) m
def putCurMail (s : State) (m : Nat) (x : Mailbox) : State := putTask s (putMail (curTask s) (curCoreT s) m x)
/-- The absolute deadline of a wait that begins now. -/
def mailDeadline (s : State) : Nat := s.bell.toNat + mailTimeout s (curTask s)
/-- The bench of the selected task on the selected core that a queue entry names. -/
def queueSlot (s : State) (benchT : Nat) : Nat :=
  ((benchOfThread s (curTask s) ⟨curCoreT s, benchT, 0⟩).map (·.2)).getD s.sel.slot
/-- Let a queued reader go on with a word (R156). -/
def mailToReader (s : State) (r : Nat × Nat) (w : Word) : State :=
  let slot := queueSlot s r.1
  let b := getBench s s.sel.core slot
  let d := match (getSeat b r.2).state with
    | .blocked (.mbr _ d _) => some d
    | _ => none
  let b := unblockSeat b r.2 4 false
  putBench s s.sel.core slot (match d with
    | some d => writeD b d [(r.2, w, none)]
    | none => b)
/-- The word of a queued writer. -/
def writerWord (s : State) (r : Nat × Nat) : Word :=
  match (getSeat (getBench s s.sel.core (queueSlot s r.1)) r.2).state with
  | .blocked (.mbw _ w _) => w
  | _ => 0
/-- Let a queued writer go on (R156). -/
def mailFromWriter (s : State) (r : Nat × Nat) : State :=
  let slot := queueSlot s r.1
  freeRows (putBench s s.sel.core slot (unblockSeat (getBench s s.sel.core slot) r.2 4 false)) s.sel.core slot
/-- Change one seat of the selected bench. -/
def onCurSeat (s : State) (k : Nat) (f : Seat → Seat) : State := onSeat s s.sel.core s.sel.slot k f
/-- The operand cache takes the reads of an issued pass, whether or not its seats block (R141). -/
def cacheReads (s : State) (srcs : List Src) : State := putCur s { cur s with opCache := srcs.foldl cacheUse (cur s).opCache }
/-- The last reads of one seat that goes on. -/
def seatPast (s : State) (srcs : List Src) (k : Nat) : State :=
  putCur s (putSeat (lastReads (cur s) (seatBit k) srcs) k (pastSeat (getSeat (cur s) k) s.sel.len false))
/-- A write by one seat (R156). -/
def mailWrite (s : State) (a : Src) (m k : Nat) : State :=
  let x := curMail s m
  let w := srcV s a k
  match x.readers with
  | r :: rs => seatPast (mailToReader (putCurMail s m { x with readers := rs }) r w) [a] k
  | [] =>
    if !x.full then seatPast (putCurMail s m { x with value := w, full := true }) [a] k
    else
      onCurSeat (putCurMail s m { x with writers := x.writers ++ [((cur s).benchT, k)] }) k
        (blockSeat [a] (.mbw m w (mailDeadline s)))
/-- Take the word of a full mailbox (R156). -/
def mailTake (s : State) (m : Nat) : Word × State :=
  let x := curMail s m
  match x.writers with
  | r :: rs =>
    let w := writerWord s r
    (x.value, mailFromWriter (putCurMail s m { x with value := w, writers := rs }) r)
  | [] => (x.value, putCurMail s m { x with full := false })
/-- A read by one seat (R156): it takes the word, or is queued with D pending. -/
def mailRead (s : State) (m : Nat) (d : DReg) (k : Nat) : State :=
  let x := curMail s m
  if x.full then
    let q := mailTake s m
    seatPast (putCur q.2 (writeD (cur q.2) d [(k, q.1, none)])) [] k
  else
    let s := putCurMail s m { x with readers := x.readers ++ [((cur s).benchT, k)] }
    onCurSeat (putCur s (markD (cur s) [k] d)) k (blockSeat [] (.mbr m d (mailDeadline s)))
/-- The fault due at the re-issue of a woken seat (R158, R160, R325, R416). -/
def wakeFault (s : State) (k : Nat) : Option OpFault := (getSeat (cur s) k).wake.map fun w => auxFault w.code w.sub w.aux
/-- The operand faults of an instruction that a woken seat may issue again: the wake's fault comes before every other
except poison (R325). -/
def useWake (s : State) (u : Uses) (k : Nat) : Option OpFault :=
  (((poisonIn (cur s) u.reads k).orElse fun _ => poisonInC (cur s) u.creads k).orElse fun _ => wakeFault s k).orElse
    fun _ => rowFault? s u.writes u.cwrites
/-- The words that a pass of reads finds: the one held and those of the queued writers. -/
def mailWords (x : Mailbox) : Nat := if x.full then 1 + x.writers.length else 0
/-- MBX_ABANDONED, EMPTY_GROUP of a read beyond the words that are there (R156). -/
def emptyFault (s : State) (m k : Nat) : Option OpFault :=
  let x := curMail s m
  let before := ((issued s).filter fun j => decide (j < k)).length
  if x.abandoned && decide (mailWords x ≤ before) then some (auxFault 0x31 1 m) else none

/-- `mbw` (R156, R172). -/
def execMbw (m : Fin 8) (a : Src) (s : State) : Host.Outcome State Fault Refusal :=
  let t := eachSeat (cacheReads s [a]) fun s k => mailWrite s a m.val k
  guardPass s (useWake s (usesOf (.mbw m a)))
    (freeRows t s.sel.core s.sel.slot)
/-- `mbr` (R156, R172). -/
def execMbr (m : Fin 8) (d : DReg) (s : State) : Host.Outcome State Fault Refusal :=
  guardPass s (fun k => (useWake s (usesOf (.mbr m d)) k).orElse fun _ => emptyFault s m.val k)
    (eachSeat s fun s k => mailRead s m.val d k)
/-- `mbtry` for one seat (R173). -/
def mailTry (s : State) (m : Nat) (p : PReg) (d : DReg) (k : Nat) : State :=
  let x := curMail s m
  let q := if x.full then mailTake s m else (if x.abandoned then 1 else 0, s)
  let b := writeP (writeD (cur q.2) d [(k, q.1, none)]) p [(k, if x.full then 0xFF else 0)]
  seatPast (putCur q.2 b) [] k
/-- `mbtry` (R173). -/
def execMbtry (m : Fin 8) (p : PReg) (d : DReg) (s : State) : Host.Outcome State Fault Refusal :=
  guardPass s (useFault s (usesOf (.mbtry m p d))) (eachSeat s fun s k => mailTry s m.val p d k)
/-- `mbind` (R158). -/
def execMbind (m : Fin 8) (g : Fin 64) (s : State) : Host.Outcome State Fault Refusal :=
  let x := curMail s m.val
  let armed := !(getGroup (curTask s) g.val).members.isEmpty
  .next (advance (putCurMail s m.val { x with bound := true, group := g.val, armed := armed, abandoned := false }) false)

end Sys2Proof.Machine
end

