-- ==== Sys2Proof/Machine/Board.lean ====
section
/-!
DEFINITION. The board: `bpost` and `bwait` (R413 to R416), the hall pass, posts and membership (R432 to R437), and the
bell on the board (R438).
-/
namespace Sys2Proof.Machine

/-! ## Frames (R434) -/

def crcBit (c : Word32) : Word32 := if c.getLsbD 0 then (c >>> 1) ^^^ 0xEDB88320 else c >>> 1
def crcByte (c : Word32) (b : Byte) : Word32 := (List.range 8).foldl (fun c _ => crcBit c) (c ^^^ b.setWidth 32)
/-- CRC-32 of IEEE 802.3. -/
def crc32 (bs : List Byte) : Word32 := ~~~ (bs.foldl crcByte 0xFFFFFFFF)
/-- Bytes 0x00 to 0x3B of a frame. -/
def frameBytes (f : Frame) : List Byte :=
  bytesLE 8 f.number ++ bytesLE 2 f.source ++ bytesLE 1 f.kind ++ bytesLE 1 f.member ++ bytesLE 4 f.seq.toNat ++ bytesLE 8 f.bell.toNat ++
    bytesLE 8 f.w0.toNat ++ bytesLE 8 f.w1.toNat ++ bytesLE 8 f.w2.toNat ++ bytesLE 4 f.gen.toNat ++ bytesLE 8 0
/-- Is CHECK correct? -/
def frameOk (f : Frame) : Bool := f.check == crc32 (frameBytes f)
/-- A frame with its CHECK. -/
def sealFrame (f : Frame) : Frame := { f with check := crc32 (frameBytes f) }

/-! ## Groups -/

def boardOf (s : State) (k : Nat) : Option BoardGroup := lookupKey s.board k
def putBoard (s : State) (k : Nat) (b : BoardGroup) : State := { s with board := putKey s.board k b }
/-- Is a group index assigned to an address space number (R413, R453)? -/
def boardAssigned (s : State) (k asn : Nat) : Bool :=
  let r := nth s.mgmt.bgassign k 0
  r.getLsbD 63 && r.toNat % 2 ^ 20 == asn
/-- PRIVILEGE of a board instruction (R413). -/
def boardPrivilege (s : State) (i : Instr) (k : Nat) : Option OpFault :=
  let named := match boardOf s k with
    | some b => b.named
    | none => false
  if named && boardAssigned s k (taskSpace s (curTask s)).asn then none else some (illegalFault i 2)
/-- BOARD_LOST of an issue on a group that the package has left (R416). -/
def boardLost (s : State) (k : Nat) : Option OpFault :=
  match boardOf s k with
  | some b => if b.isMember then none else some (auxFault 0x40 2 k)
  | none => some (auxFault 0x40 2 k)
/-- The operand faults of a board instruction. -/
def boardFault (s : State) (i : Instr) (k seat : Nat) : Option OpFault :=
  (useWake s (usesOf i) seat).orElse fun _ => boardLost s k

/-! ## Instructions (R414, R415) -/

/-- `bpost` (R414): every seat is blocked until its own package has received its post. -/
def execBpost (a : Src) (k : Fin 16) (s : State) : Host.Outcome State Fault Refusal :=
  let i := Instr.bpost a k
  let b := cur s
  let q := a.reg
  let post := fun j => (⟨b.task, threadOf s j, s.passNum, readD b q j, readD b (q.plus 1) j, readD b (q.plus 2) j, none⟩ : QueuedPost)
  demand s (featureFault s 4) <|
    demand s (boardPrivilege s i k.val) <|
      guardPass s (boardFault s i k.val)
        (let t := retireBlocking (putCur s (markPass (issued s) [q.plus 3] [] none b)) (srcAll a (triple q))
           fun _ => some (.bpost k.val q)
         let t := releaseDrain t b.task (curCoreT s) .dom
         match boardOf t k.val with
         | some g => putBoard t k.val { g with queue := g.queue ++ (issued s).map post }
         | none => t)

/-- What a `bwait` for post n finds (R415): the words at once, and q + 3 where it changes; or a wait for a number, 0 for
the next. -/
inductive Found where
  | now (w0 w1 w2 : Word) (last : Option Word)
  | wait (num : Word)
  deriving DecidableEq, Repr
/-- The log's horizon (R415). -/
def horizonOf (g : BoardGroup) : Nat := max (g.last - 4096) g.horizon
/-- The oldest number still held, or the number that the next post will take (R415). -/
def oldestHeld (g : BoardGroup) : Nat :=
  match g.log with
  | p :: _ => p.number
  | [] => g.last + 1
def findPost (g : BoardGroup) (n : Word) : Found :=
  if n = 0 then .wait 0
  else if n.toNat ≤ horizonOf g then .now 0 0 0 (some (BitVec.ofNat 64 (2 ^ 63 + oldestHeld g)))
  else
    match g.log.find? fun p => p.number == n.toNat with
    | some p => .now p.w0 p.w1 p.w2 none
    | none => .wait n
/-- Write what a `bwait` receives. -/
def writePost (b : Bench) (q : DReg) (seat : Nat) (w0 w1 w2 : Word) (last : Option Word) : Bench :=
  let b := writeD (writeD (writeD b q [(seat, w0, none)]) (q.plus 1) [(seat, w1, none)]) (q.plus 2) [(seat, w2, none)]
  match last with
  | some v => writeD b (q.plus 3) [(seat, v, none)]
  | none => b
/-- `bwait` (R415): seats whose post is there go on with it, the others are blocked. What a seat will receive has its row from the
issue on (R136): q + 3 where it waits for the next post. -/
def execBwait (a : Src) (k : Fin 16) (s : State) : Host.Outcome State Fault Refusal :=
  let i := Instr.bwait a k
  let q := a.reg
  let g := boardOf s k.val
  let found := fun j => match g with
    | some g => findPost g (srcV s ⟨q.plus 3, a.use⟩ j)
    | none => .wait 0
  demand s (featureFault s 4) <|
    demand s (boardPrivilege s i k.val) <|
      guardPass s (boardFault s i k.val)
        (let marked := markD (markPass (issued s) (triple q) [] none (cur s)) ((issued s).filter fun j => found j == .wait 0) (q.plus 3)
         let t := retireBlocking (putCur s marked) [⟨q.plus 3, a.use⟩] fun j =>
           match found j with
           | .wait n => some (.bwait k.val q n)
           | .now _ _ _ _ => none
         freeRows (putCur t ((issued s).foldl (fun b j =>
           match found j with
           | .now w0 w1 w2 l => writePost b q j w0 w1 w2 l
           | .wait _ => b) (cur t))) s.sel.core s.sel.slot)

/-! ## Delivery and loss (R415, R416) -/

/-- Change every seat of every resident bench: core, slot, bench and seat number are given. -/
def onEverySeat (s : State) (f : Nat → Nat → Bench → Nat → Bench) : State :=
  s.cores.foldl (fun s c =>
    ((getCore s c.1).benches.filter fun e => e.1 != 64).foldl (fun s e =>
      freeRows (putBench s c.1 e.1 ((List.range 32).foldl (fun b j => f c.1 e.1 b j) (getBench s c.1 e.1))) c.1 e.1) s) s
/-- Deliver an accepted post to the seats that wait for it (R415). -/
def deliverPost (s : State) (k : Nat) (p : Frame) : State :=
  onEverySeat s fun _ _ b j =>
    match (getSeat b j).state with
    | .blocked (.bwait g q n) =>
      if g = k ∧ (n = 0 ∨ n.toNat = p.number) then
        writePost (unblockSeat b j 4 false) q j p.w0 p.w1 p.w2 (if n = 0 then some (BitVec.ofNat 64 p.number) else none)
      else b
    | _ => b
/-- A seat's own post has come back: it receives the post's number (R414). -/
def deliverOwn (s : State) (x : QueuedPost) (num : Nat) : State :=
  match findTask s x.task with
  | none => s
  | some t =>
    match liveBench s t x.thread with
    | none => s
    | some (c, slot) =>
      let b := getBench s c slot
      let j := x.thread.seat
      match (getSeat b j).state with
      | .blocked (.bpost _ q) =>
        freeRows (putBench s c slot
          (writeD (unblockSeat b j 4 false) (q.plus 3) [(j, BitVec.ofNat 64 num, none)])) c slot
      | _ => s
/-- The package leaves a group: its blocked seats take BOARD_LOST when they issue again (R416, R436). -/
def leaveBoard (s : State) (k : Nat) : State :=
  match boardOf s k with
  | none => s
  | some g =>
    let s := putBoard s k { g with isMember := false, holds := false, aside := [], queue := [], service := [], rejoin := false }
    onEverySeat s fun _ _ b j =>
      let x := getSeat b j
      let lost := match x.state with
        | .blocked (.bwait n _ _) => n == k
        | .blocked (.bpost n _) => n == k
        | _ => false
      if lost then putSeat b j { x with state := .eligible, wake := some ⟨0x40, 2, k⟩, due := [] } else b

/-! ## The hall pass (R433) -/

/-- A frame that this package sends on a group. -/
def sendFrame (s : State) (k : Nat) (kind : Nat) (number : Nat) (w0 w1 w2 : Word) : State :=
  match boardOf s k with
  | none => s
  | some g =>
    let f : Frame := ⟨number, s.pkg, kind, g.me, g.seq, s.bell, w0, w1, w2, g.gen, 0⟩
    putBoard { s with outbox := s.outbox ++ [.frame k (sealFrame f)] } k { g with seq := g.seq + 1 }
/-- Hand on the pass to the next member (R433). -/
def handOn (s : State) (k : Nat) : State :=
  match boardOf s k with
  | none => s
  | some g =>
    let next := if g.members.length = 0 then 0 else (g.me + 1) % g.members.length
    let s := sendFrame s k 5 g.last (BitVec.ofNat 64 g.last) (BitVec.ofNat 64 next) 0
    match boardOf s k with
    | some g => putBoard s k { g with holds := false }
    | none => s
/-- May the post of a seat be transmitted (R210)? -/
def postReady (s : State) (x : QueuedPost) : Bool :=
  match findTask s x.task with
  | none => false
  | some t =>
    match liveBench s t x.thread with
    | some (c, slot) => accessesDone s c slot x.thread.seat
    | none => false
/-- The queued posts by pass: those of the passes whose every post may go, up to 64 posts (R414, R433). -/
def postsToSend (s : State) (g : BoardGroup) : List QueuedPost :=
  let fresh := g.queue.filter fun x => x.sent.isNone
  ((fresh.map (·.pass)).eraseDups).foldl (fun acc p =>
    let ps := fresh.filter fun x => x.pass == p
    if ps.all (postReady s) && decide (acc.length + ps.length ≤ 64) then acc ++ ps else acc) []
/-- What a post releases stands in the die part when it is transmitted: its seat's stores, and the element writes of the copies
that have completed since it was issued (R203, R210). -/
def releasePost (s : State) (p : QueuedPost) : State :=
  match findTask s p.task with
  | some t => putTask s (drainCore t p.thread.coreT)
  | none => s
/-- Transmit posts with the numbers that follow the last one. -/
def transmit (s : State) (k : Nat) (ps : List QueuedPost) : State :=
  let first := ((boardOf s k).map (·.last)).getD 0 + 1
  (List.range ps.length).foldl (fun s j =>
    match ps[j]? with
    | none => s
    | some p =>
      let s := sendFrame (releasePost s p) k 0 (first + j) p.w0 p.w1 p.w2
      match boardOf s k with
      | some g =>
        putBoard s k { g with queue := g.queue.map fun x => if x == p then { x with sent := some (first + j) } else x }
      | none => s) s
/-- Queue a service frame on a group: only the holder of the pass transmits (R433). -/
def queueFrame (s : State) (k : Nat) (f : ServiceFrame) : State :=
  match boardOf s k with
  | some g => putBoard s k { g with service := g.service ++ [f] }
  | none => s
/-- Transmit the service frames of a group. A beacon carries the bell of its transmission, and the announcement of a join the number of
the last post before it (R434, R435). -/
def transmitService (s : State) (k : Nat) (fs : List ServiceFrame) : State :=
  fs.foldl (fun s f =>
    let last := ((boardOf s k).map (·.last)).getD 0
    sendFrame s k f.kind last (if f.kind = 1 then s.bell else f.w0) f.w1 (if f.kind = 4 then BitVec.ofNat 64 last else f.w2)) s
/-- HALL_PASS_RECEIVE (R433): the holder transmits its service frames and what is queued; with nothing to send it hands on at once, else when it
has received its own posts (R436). -/
def execHallPassReceive (grp : Nat) (s : State) : Host.Outcome State Fault Refusal :=
  match boardOf s grp with
  | none => .next s
  | some g =>
    if !g.holds then .next s
    else
      let s := transmitService (putBoard s grp { g with service := [] }) grp g.service
      match postsToSend s g with
      | [] => .next (handOn s grp)
      | ps => .next (transmit s grp ps)

/-! ## Frames received (R434 to R437) -/

/-- A post is accepted: last, log, delivery (R436). -/
def acceptPost (s : State) (k : Nat) (g : BoardGroup) (f : Frame) : State :=
  let g := { g with last := f.number, log := (g.log ++ [f]).filter fun x => decide (f.number - 4096 < x.number), lastHeard := s.bell }
  let own := g.queue.find? fun x => x.sent == some f.number
  let s := deliverPost (putBoard s k g) k f
  if f.source = s.pkg then
    match own with
    | none => s
    | some x =>
      let rest := g.queue.filter fun y => !(y == x)
      let s := deliverOwn (putBoard s k { g with queue := rest }) x f.number
      if g.holds && rest.all fun y => y.sent.isNone then handOn s k else s
  else s
/-- PROGRAM_POST (R436). A frame of another generation is discarded; the holder's own post, so discarded, is sent again. -/
def execProgramPost (grp : Nat) (f : Frame) (s : State) : Host.Outcome State Fault Refusal :=
  match boardOf s grp with
  | none => .next s
  | some g =>
    if !g.isMember || !frameOk f then .next s
    else if f.gen ≠ g.gen then
      if f.source = s.pkg then
        .next (putBoard s grp { g with
          queue := g.queue.map fun x => if x.sent == some f.number then { x with sent := none } else x })
      else .next s
    else if f.number = g.last + 1 then .next (acceptPost s grp g f)
    else if g.last + 1 < f.number then .next (leaveBoard s grp)
    else .next (putBoard s grp { g with lastHeard := s.bell })
/-- PASS_FRAME (R433, R436, R437): generation, damaged frames set aside, and the pass itself. A pass frame handed to its own
sender is a regeneration. -/
def execPassFrame (grp : Nat) (f : Frame) (s : State) : Host.Outcome State Fault Refusal :=
  match boardOf s grp with
  | none => .next s
  | some g =>
    let to_ := bitsOf f.w1 5 0
    let regenerated := to_ == f.member
    if !g.isMember || !frameOk f || decide (f.gen.toNat < g.gen.toNat) then .next s
    else if regenerated && f.gen == g.gen && g.adopted == some f.gen && f.source != s.pkg then .next (leaveBoard s grp)
    else
      let last := f.w0.toNat
      if !g.aside.isEmpty && decide (g.last < last) then .next (leaveBoard s grp)
      else
        let higher := decide (g.gen.toNat < f.gen.toNat)
        .next (putBoard s grp { g with
          gen := f.gen, aside := [], lastHeard := s.bell
          adopted := if higher then some f.gen else g.adopted
          holds := if to_ = g.me then true else if higher then false else g.holds })
/-- FRAME_CHECK_FAIL (R436): set aside; a holder that does not receive its own post intact leaves. -/
def execFrameCheckFail (grp : Nat) (f : Frame) (s : State) : Host.Outcome State Fault Refusal :=
  match boardOf s grp with
  | none => .next s
  | some g =>
    if !g.isMember then .next s
    else if g.holds && f.source == s.pkg && f.kind == 0 then .next (leaveBoard s grp)
    else .next (putBoard s grp { g with aside := g.aside ++ [f], lastHeard := s.bell })
/-- The silence after which a member regenerates the pass (R433, R437). -/
def silenceBound (g : BoardGroup) : Nat := max (2 * (g.members.length * 376)) 10000 + 2000 * g.me
/-- HALL_PASS_REGENERATE (R437). -/
def execHallPassRegenerate (grp : Nat) (s : State) : Host.Outcome State Fault Refusal :=
  match boardOf s grp with
  | none => .next s
  | some g =>
    if !g.isMember then .next s
    else
      let s := putBoard s grp
        { g with gen := g.gen + 1, adopted := some (g.gen + 1), holds := true, lastHeard := s.bell }
      .next (sendFrame s grp 5 g.last (BitVec.ofNat 64 g.last) (BitVec.ofNat 64 g.me) 0)
/-- Is a frame one that a member accepts: CHECK correct, and of the current generation (R436)? -/
def frameAccepted (g : BoardGroup) (f : Frame) : Bool := g.isMember && frameOk f && f.gen == g.gen
/-- A frame has been heard on a group. -/
def heard (s : State) (k : Nat) (g : BoardGroup) : State := putBoard s k { g with lastHeard := s.bell }
/-- MEMBERSHIP (R435, R437): the announced join of this package, which it has asked for, begins its log anew. A join that is asked for
here is announced by a kind-4 frame (DEDUCED, log 116: the request comes to the lowest-numbered member). -/
def execMembership (grp : Nat) (m : JoinMsg) (s : State) : Host.Outcome State Fault Refusal :=
  match boardOf s grp with
  | none => .next s
  | some g =>
    match m with
    | .asked member pkg =>
      .next (if g.isMember && g.members[member]? == some pkg then queueFrame s grp ⟨4, BitVec.ofNat 64 member, BitVec.ofNat 64 pkg, 0⟩ else s)
    | .frame f =>
      if frameOk f ∧ bitsOf f.w1 10 0 = s.pkg ∧ bitsOf f.w0 5 0 = g.me ∧ g.rejoin then
        .next (putBoard s grp { g with
          isMember := true, rejoin := false, last := f.w2.toNat, horizon := f.w2.toNat, log := [], aside := [], gen := f.gen
          holds := false, queue := [], lastHeard := s.bell })
      else .next (if frameAccepted g f then heard s grp g else s)
/-- BOARD_FIBRE_LOSS (R416). -/
def execBoardFibreLoss (grp : Nat) (s : State) : Host.Outcome State Fault Refusal := .next (leaveBoard s grp)
/-- BGCTL (R437, R453): bits 31 to 16 ask to rejoin groups that the package has left. -/
def bgctlSet (v : Word) (s : State) : State :=
  let asks := fun (e : Nat × BoardGroup) => v.getLsbD (16 + e.1) && e.2.named && !e.2.isMember
  { s with
    board := s.board.map fun e => if asks e then (e.1, { e.2 with rejoin := true }) else e
    outbox := s.outbox ++ (s.board.filter asks).map fun e => .joinAsk e.1 e.2.me }
/-- BGCTL_WRITE (R437, R453). -/
def execBgctlWrite (v : Word) (s : State) : Host.Outcome State Fault Refusal := .next (bgctlSet v s)

/-! ## The bell on the board (R438) -/

/-- Does this package send the beacons of a group: no member has a lower stratum, and of those that tie it has the lowest
number? -/
def sendsBeacon (s : State) (g : BoardGroup) : Bool :=
  g.isMember && g.strata.all fun m =>
    m.1 == g.me || decide (s.lock.stratum < m.2) || (m.2 == s.lock.stratum && decide (g.me < m.1))
/-- BELL_BEACON_SEND (R435, R438): the beacons go out when the package next holds each pass. -/
def execBellBeaconSend (s : State) : Host.Outcome State Fault Refusal :=
  if !s.lock.locked then .next s
  else
    let w1 := BitVec.ofNat 64 (s.lock.stratum % 256 + s.lock.reference % 2 ^ 11 * 2 ^ 16)
    let ks := (s.board.filter fun e => sendsBeacon s e.2).map (·.1)
    let s := ks.foldl (fun s k => queueFrame s k ⟨1, 0, w1, 0⟩) s
    .next { s with lock := { s.lock with lastSent := s.bell } }
/-- BELL_BEACON (R438): the offset from the sender's bell, corrected for the fixed delay; the lowest stratum heard plus 1,
up to 4. The bell steps forward only before the first task, never once a host kernel has named a reference (R447), and never
backward; from then on it is slewed (`slewBell`). -/
def execBellBeacon (grp : Nat) (f : Frame) (s : State) : Host.Outcome State Fault Refusal :=
  match boardOf s grp with
  | none => .next s
  | some g =>
    if !frameAccepted g f then .next s
    else
      let st := bitsOf f.w1 7 0
      let s := putBoard s grp { g with strata := putKey g.strata f.member st, lastHeard := s.bell }
      if s.lock.stratum = 0 ∨ 4 < st + 1 ∨ (s.lock.locked = true ∧ s.lock.stratum < st + 1) then .next s
      else
        let bell : Word := f.w0 + BitVec.ofNat 64 (Config.beaconDelay grp f.member)
        let step := s.nextTask == 1 && !s.lock.named && decide (s.bell.toNat < bell.toNat)
        let s := if step then { s with bell := bell } else s
        let off := Int.ofNat bell.toNat - Int.ofNat s.bell.toNat
        .next { s with lock :=
          { s.lock with
            locked := decide (off.natAbs ≤ 150), stratum := st + 1, reference := bitsOf f.w1 26 16, offset := off
            lastBeacon := s.bell } }
/-- While d nanoseconds pass, the bell of a package that follows a beacon source is slewed toward it by at most 200 parts per million, how
much a free choice says; it is locked once it is within 150 ns of it (R438). -/
def slewBell (s : State) (d : Nat) : State :=
  if s.lock.stratum = 0 ∨ 4 < s.lock.stratum then s
  else
    match draw s (min s.lock.offset.natAbs (d / 5000) + 1) with
    | (k, s) =>
      let off := if s.lock.offset < 0 then s.lock.offset + Int.ofNat k else s.lock.offset - Int.ofNat k
      let near := decide (off.natAbs ≤ 150) && decide (s.bell.toNat < s.lock.lastBeacon.toNat + 100000)
      { s with lock := { s.lock with offset := off, locked := s.lock.locked || near } }
/-- BELL_UNLOCK (R438). -/
def execBellUnlock (s : State) : Host.Outcome State Fault Refusal :=
  .next (addLog { s with lock := { s.lock with locked := false, stratum := 5 } } .bellUnlock
    (BitVec.ofNat 64 s.lock.reference))

end Sys2Proof.Machine
end

