-- ==== Sys2Proof/Machine/Copy.lean ====
section
/-!
DEFINITION. Copies and `seal` (R174 to R183): the descriptor, the checks at issue, and what a copy does when it is
performed.
-/
namespace Sys2Proof.Machine

/-! ## The descriptor (R175) -/

def cpPromise (c : CopyCmd) : Nat := bitsOf c.q0 63 42
def cpEdge (c : CopyCmd) : Nat := bitsOf c.q0 40 39
def cpTrans (c : CopyCmd) : Bool := bitOf c.q0 38
def cpGroup (c : CopyCmd) : Nat := bitsOf c.q0 37 32
def cpY (c : CopyCmd) : Nat := bitsOf c.q0 31 16
def cpX (c : CopyCmd) : Nat := bitsOf c.q0 15 0
def cpDStride (c : CopyCmd) : Int := sx 32 (bitsOf c.q1 63 32)
def cpSStride (c : CopyCmd) : Int := sx 32 (bitsOf c.q1 31 0)
def cpSH (c : CopyCmd) : Nat := bitsOf c.q2 63 48
def cpSW (c : CopyCmd) : Nat := bitsOf c.q2 47 32
def cpOY (c : CopyCmd) : Int := sx 16 (bitsOf c.q2 31 16)
def cpOX (c : CopyCmd) : Int := sx 16 (bitsOf c.q2 15 0)
def cpFill (c : CopyCmd) : Nat := bitsOf c.q3 63 32
def cpIndex (c : CopyCmd) : Nat := bitsOf c.q3 31 0
/-- Does the kind read an index list (R176)? -/
def cpIndexed (c : CopyCmd) : Bool := c.kind == 1 || c.kind == 2 || c.kind == 3
/-- Has the copy no extent (R177, R179)? -/
def cpEmpty (c : CopyCmd) : Bool := cpX c == 0 || cpY c == 0

/-- Is a combine code valid for an element size (R176)? -/
def combineOk (code size : Nat) : Bool :=
  match code with
  | 0 => true
  | 1 => size == 8 || size == 4 || size == 2
  | 2 => size == 2
  | 3 => true
  | 4 => true
  | _ => false
/-- The combination of two elements (R176). -/
def combineE (code size m x : Nat) : Nat :=
  let w := 8 * size
  match code with
  | 0 => addE w m x
  | 1 => fadd1 (if size = 8 then fmt64 else if size = 4 then fmt32 else fmt16) m x
  | 2 => fadd1 fmtBf16 m x
  | 3 => maxE w m x
  | _ => minE w m x

/-- Does the descriptor break a constraint (R177, 2)? -/
def descriptorBad (c : CopyCmd) : Bool :=
  bitOf c.q0 41 || cpEdge c == 3 || (cpEdge c == 0 && cpIndexed c) || (cpTrans c && c.kind != 0) ||
    (cpOY c != 0 && cpIndexed c) || (cpIndex c != 0 && !cpIndexed c) || (c.q2 != 0 && c.kind == 4) ||
    (cpEdge c == 1 && (cpSW c == 0 || cpSH c == 0)) || (c.kind == 3 && !combineOk (cpFill c) c.size)

/-! ## Footprints (R177, 4) -/

/-- Rows of an array: start and length. -/
def rowsOf (cur : Int) (stride : Int) (rows len : Nat) : List (Int × Nat) :=
  if len = 0 then [] else (List.range rows).map fun r => (cur + stride * Int.ofNat r, len)
def imageRows (c : CopyCmd) (cap : Cap) (stride : Int) : List (Int × Nat) :=
  let cur := Int.ofNat (capCursor cap).toNat
  if c.kind = 0 ∧ cpEdge c = 0 then
    rowsOf (cur + cpOY c * stride + cpOX c * Int.ofNat c.size) stride (cpY c) (cpX c * c.size)
  else rowsOf cur stride (cpSH c) (cpSW c * c.size)
def boxRows (c : CopyCmd) (cap : Cap) (stride : Int) : List (Int × Nat) :=
  let cur := Int.ofNat (capCursor cap).toNat
  if cpTrans c then rowsOf cur stride (cpX c) (cpY c * c.size) else rowsOf cur stride (cpY c) (cpX c * c.size)
def srcRows (c : CopyCmd) : List (Int × Nat) :=
  match c.kind with
  | 0 => imageRows c c.src (cpSStride c)
  | 1 => imageRows c c.src (cpSStride c)
  | 2 => boxRows c c.src (cpSStride c)
  | 3 => boxRows c c.src (cpSStride c)
  | _ => []
def dstRows (c : CopyCmd) : List (Int × Nat) :=
  match c.kind with
  | 2 => imageRows c c.dst (cpDStride c)
  | 3 => imageRows c c.dst (cpDStride c)
  | _ => boxRows c c.dst (cpDStride c)

/-- BOUNDS of a footprint (R177, 4). -/
def boundsFault (cap : Cap) (rows : List (Int × Nat)) : Option OpFault :=
  rows.findSome? fun r => if inBounds cap r.1 r.2 then none else some (capFault 0x11 1 cap (BitVec.ofInt 64 r.1))
/-- The window checks of a footprint (R177, 5). -/
def footWindow (s : State) (cap : Cap) (rows : List (Int × Nat)) : Option OpFault :=
  if hasPerm cap .remote then none
  else
    match rows.find? fun r => decide (r.1 < Int.ofNat windowEnd) with
    | none => none
    | some r0 =>
      if rows.any fun r => decide (Int.ofNat windowEnd ≤ r.1) then some (capFault 0x11 2 cap (BitVec.ofInt 64 r0.1))
      else rows.findSome? fun r =>
        (winFault s r.1.toNat r.2).map (winFaultAt cap (BitVec.ofInt 64 r.1))
/-- The path checks of a footprint outside the window (R177, 6). -/
def footPath (s : State) (cap : Cap) (rows : List (Int × Nat)) : Option OpFault :=
  match rows with
  | [] => none
  | r0 :: _ =>
    if hasPerm cap .remote ∨ r0.1 < Int.ofNat windowEnd then none
    else
      let sp := benchSpace s
      let p0 := pathAt sp r0.1.toNat
      if rows.any fun r => pathOf sp r.1.toNat r.2 != some p0 then
        some (transFault s cap (BitVec.ofInt 64 r0.1) (.heap 2))
      else
        rows.findSome? fun r =>
          match pathChecks sp (benchLimit s) r.1.toNat r.2 with
          | some e => some (transFault s cap (BitVec.ofInt 64 r.1) e)
          | none =>
            if p0 = .carve then
              match translateCarve s r.1.toNat with
              | .error e => some (transFault s cap (BitVec.ofInt 64 r.1) e)
              | .ok _ => none
            else none
/-- The window checks of an index list (R177, 5). -/
def indexFault (s : State) (c : CopyCmd) : Option OpFault :=
  if !cpIndexed c then none
  else if cpIndex c % 4 ≠ 0 then some { plainFault 0x11 4 with addr := BitVec.ofNat 64 (cpIndex c) }
  else (winFault s (cpIndex c) (4 * cpY c)).map fun f => { f with addr := BitVec.ofNat 64 (cpIndex c) }

/-- The checks of one copy after its operands (R177). -/
def copyFault (s : State) (c : CopyCmd) : Option OpFault :=
  if descriptorBad c then some (plainFault 0x15 2)
  else
    match (if c.kind = 4 then none else capChecks s c.src [.ld] (capCursor c.src)) with
    | some f => some f
    | none =>
      match capChecks s c.dst (if c.kind = 3 then [.ld, .st] else [.st]) (capCursor c.dst) with
      | some f => some f
      | none =>
        if cpEmpty c then none
        else
          [boundsFault c.src (srcRows c), boundsFault c.dst (dstRows c), footWindow s c.src (srcRows c),
            footWindow s c.dst (dstRows c), indexFault s c, footPath s c.src (srcRows c),
            footPath s c.dst (dstRows c)].findSome? id

/-! ## Issue (R178 to R181) -/

/-- The copy that a seat issues. -/
def copyOf (s : State) (kind : Nat) (q : Src) (ca : CReg) (sz : Width) (arr : Bool) (cd : CReg) (seat : Nat) : CopyCmd :=
  let b := cur s
  let w := fun (k : Nat) => readD b (q.reg.plus k) seat
  let c : CopyCmd := ⟨kind, widthBytes sz, w 0, w 1, w 2, w 3, readC b ca seat, readC b cd seat, arr,
    (getSeat b seat).batch, none, 0, 0, 0, [], []⟩
  { c with deadline := if cpPromise c = 0 then none else some (s.bell + BitVec.ofNat 64 (64 * cpPromise c)) }
/-- A copy registers with the open phase of its group (R179). -/
def registerCopy (s : State) (id : Word) (g : Nat) : State :=
  match findTask s id with
  | none => s
  | some t => putTask s (putGroup t g { getGroup t g with copies := (getGroup t g).copies + 1 })
/-- A copy or a `tmma` arrives (R179, R271), as a release at team scope. -/
def arriveCopy (s : State) (id : Word) (coreT g : Nat) : State :=
  match findTask s id with
  | none => s
  | some t =>
    let t := drainCore t coreT
    settleGroup (putTask s (putGroup t g { getGroup t g with copyArrived := (getGroup t g).copyArrived + 1 })) id g
/-- One seat's copy enters the queue; one without extent completes in its issue clock (R178, R179). -/
def queueCopy (flag : Option Nat) (s : State) (e : Nat × CopyCmd) : State :=
  let id := (cur s).task
  let s := if e.2.arr then registerCopy s id (cpGroup e.2) else s
  if cpEmpty e.2 then (if e.2.arr then arriveCopy s id (curCoreT s) (cpGroup e.2) else s)
  else addFlight (putCur s (raiseFlag (cur s) flag 1)) flag (seatBit e.1) (.copy e.2)
/-- A pass of copies (R177, R178). -/
def copyPass (s : State) (i : Instr) (kind : Nat) (q : Src) (ca : CReg) (sz : Width) (arr fb : Bool) (cd : CReg) :
    Host.Outcome State Fault Refusal :=
  let cmd := fun k => copyOf s kind q ca sz arr cd k
  let flag := passFlag s fb
  guardPass s (fun k => (useFault s (usesOf i) k).orElse fun _ => copyFault s (cmd k))
    (retireWith (((issued s).map fun k => (k, cmd k)).foldl (queueCopy flag) s) (srcAll q (quad q.reg)) false id)

def execCpyT (q : Src) (sz : Width) (ca : CReg) (arr fb : Bool) (cd : CReg) (s : State) : Host.Outcome State Fault Refusal :=
  copyPass s (.cpyT q sz ca arr fb cd) 0 q ca sz arr fb cd
def execCpyG (q : Src) (sz : Width) (ca : CReg) (arr fb : Bool) (cd : CReg) (s : State) : Host.Outcome State Fault Refusal :=
  copyPass s (.cpyG q sz ca arr fb cd) 1 q ca sz arr fb cd
def execCpyS (q : Src) (sz : Width) (ca : CReg) (arr fb : Bool) (cd : CReg) (s : State) : Host.Outcome State Fault Refusal :=
  copyPass s (.cpyS q sz ca arr fb cd) 2 q ca sz arr fb cd
def execCpySc (q : Src) (sz : Width) (ca : CReg) (arr fb : Bool) (cd : CReg) (s : State) : Host.Outcome State Fault Refusal :=
  copyPass s (.cpySc q sz ca arr fb cd) 3 q ca sz arr fb cd
def execCpyP (q : Src) (sz : Width) (arr fb : Bool) (cd : CReg) (s : State) : Host.Outcome State Fault Refusal :=
  copyPass s (.cpyP q sz arr fb cd) 4 q 0 sz arr fb cd
/-- `seal` (R180): D takes BATCH, which advances; after 0xFFFF_FFFF comes 1. -/
def execSeal (d : DReg) (s : State) : Host.Outcome State Fault Refusal :=
  guardPass s (useFault s (usesOf (.seal d)))
    (retireWith s [] false fun b =>
      let b' := writeD b d ((issued s).map fun k => (k, (getSeat b k).batch.setWidth 64, none))
      mapIssued s b' fun _ x => { x with batch := if x.batch = 0xFFFFFFFF then 1 else x.batch + 1 })

/-! ## Elements (R176) -/

/-- Where an element comes from, and whether its row's index entry is poisoned (R182). -/
inductive CopySrc where
  | mem (a : Int) (poisoned : Bool)
  | fill (poisoned : Bool)
  deriving DecidableEq, Repr
/-- The image address of an element, or none for FILL and DROP. -/
def imgAddr (c : CopyCmd) (cap : Cap) (stride : Int) (ix iy : Int) : Option Int :=
  let w := Int.ofNat (cpSW c)
  let h := Int.ofNat (cpSH c)
  let cl := fun (x n : Int) => if x < 0 then 0 else if n ≤ x then n - 1 else x
  let ix' := if cpEdge c = 1 then cl ix w else ix
  let iy' := if cpEdge c = 1 then cl iy h else iy
  if cpEdge c = 2 ∧ (ix' < 0 ∨ w ≤ ix' ∨ iy' < 0 ∨ h ≤ iy') then none
  else some (Int.ofNat (capCursor cap).toNat + iy' * stride + ix' * Int.ofNat c.size)
def boxAddr (c : CopyCmd) (cap : Cap) (stride : Int) (x y : Nat) : Int :=
  let p := if cpTrans c then (y, x) else (x, y)
  Int.ofNat (capCursor cap).toNat + Int.ofNat p.2 * stride + Int.ofNat (p.1 * c.size)
/-- An entry of the index list with its poison, read through the core's window (R176). -/
def indexEntry (s : State) (t : Task) (k : Nat) (c : CopyCmd) (y : Nat) : Nat × Bool :=
  let x := seeWindow s t k (cpIndex c + 4 * y) 4
  (valueLE x.bytes, x.poison)
/-- The command with its index list, which is read once (R176). -/
def withIndex (s : State) (f : Flight) (c : CopyCmd) : CopyCmd :=
  if cpIndexed c && c.stage == 0 then
    { c with idx := (List.range (cpY c)).map (indexEntry s (flightTask s f) (flightCoreT s f) c) }
  else c
/-- The elements of a copy in ascending (y, x) order: number, source, destination; dropped elements are left out. -/
def copyElems (c : CopyCmd) : List (Nat × CopySrc × Int) :=
  (List.range (cpY c)).flatMap fun y =>
    let idx := nth c.idx y (0, false)
    (List.range (cpX c)).filterMap fun x =>
      let n := y * cpX c + x
      let ix := cpOX c + Int.ofNat x
      match c.kind with
      | 0 =>
        let src := match imgAddr c c.src (cpSStride c) ix (cpOY c + Int.ofNat y) with
          | some a => CopySrc.mem a false
          | none => .fill false
        some (n, src, boxAddr c c.dst (cpDStride c) x y)
      | 1 =>
        let src := match imgAddr c c.src (cpSStride c) ix (Int.ofNat idx.1) with
          | some a => CopySrc.mem a idx.2
          | none => .fill idx.2
        some (n, src, boxAddr c c.dst (cpDStride c) x y)
      | 4 => some (n, .fill false, boxAddr c c.dst (cpDStride c) x y)
      | _ =>
        if idx.2 then none
        else (imgAddr c c.dst (cpDStride c) ix (Int.ofNat idx.1)).map fun a =>
          (n, CopySrc.mem (boxAddr c c.src (cpSStride c) x y) false, a)
/-- The fill element (R175). -/
def fillBytes (c : CopyCmd) : List Byte := (bytesLE 4 (cpFill c) ++ bytesLE 4 (cpFill c)).take c.size

/-! ## Performing (R178, R182) -/

/-- Why a copy cannot go on: a translation failure at an address. -/
abbrev CopyErr := Word × TransErr
/-- The bytes of an element of this package, seen by the flight's core. -/
def engineRead (s : State) (f : Flight) (a : Int) (n : Nat) : Except CopyErr (Seen × State) :=
  let t := flightTask s f
  let va : Word := BitVec.ofInt 64 a
  if va.toNat < windowEnd then .ok (seeWindow s t (flightCoreT s f) va.toNat n, s)
  else
    let sp := taskSpace s t
    match translateBytes s f.core sp sp.hspan .load va.toNat n with
    | .error e => .error (va, e)
    | .ok (pas, s) => .ok (seeMem s t (flightCoreT s f) va.toNat pas, s)
/-- The line of a hold that was written longest ago. -/
def oldestLine : List HoldLine → Option HoldLine
  | [] => none
  | l :: ls => some (ls.foldl (fun x y => if y.last < x.last then y else x) l)
/-- Make room in a core part of 256 lines for a line that the copy engine writes: the oldest line leaves it (R189). -/
def makeRoom (k : Nat) (t : Task) (line : Nat) : Task :=
  let h := (taskCore t k).hold
  if h.length < 256 || h.any fun l => l.line == line then t
  else
    match oldestLine h with
    | some l => drainLine t k l.line
    | none => t
/-- Write an element in this package: the bank or the core part accepts it. With `tag` it is a whole tagged granule. -/
def engineWrite (s : State) (f : Flight) (a : Int) (bs : List Byte) (tag poisoned : Bool) : Except CopyErr State :=
  let t := flightTask s f
  let k := flightCoreT s f
  let va : Word := BitVec.ofInt 64 a
  if va.toNat < windowEnd then
    .ok (if tag then winStoreCap s t k va.toNat (capOfBytes bs true) poisoned else winStore s t k va.toNat bs poisoned)
  else
    let sp := taskSpace s t
    match translateBytes s f.core sp sp.hspan .store va.toNat bs.length with
    | .error e => .error (va, e)
    | .ok (_, s) =>
      let t := (linesOf va.toNat bs.length).foldl (makeRoom k) (flightTask s f)
      let c := taskCore t k
      .ok (putTask s (putTaskCore t k { c with hold := holdStore c.hold va.toNat bs tag poisoned s.bell }))
/-- Does the copy carry tags (R182)? -/
def carriesTags (c : CopyCmd) : Bool :=
  c.kind == 0 && c.size == 8 && !cpTrans c && cpEdge c == 0 && hasPerm c.src .ldc && hasPerm c.dst .stc
/-- A granule that a copy moves whole: the numbers of the elements of its low and its high half, source and destination address. -/
structure WholeGranule where
  lo : Nat
  hi : Nat
  src : Int
  dst : Int
/-- The whole granules among a copy's elements (R182): both halves of an aligned granule, by whichever elements. -/
def wholeGranules (es : List (Nat × CopySrc × Int)) : List WholeGranule :=
  es.filterMap fun e =>
    match e.2.1 with
    | .mem a _ =>
      if a % 16 = 0 ∧ e.2.2 % 16 = 0 then
        (es.find? fun x => x.2.1 == .mem (a + 8) false && x.2.2 == e.2.2 + 8).map fun x => ⟨e.1, x.1, a, e.2.2⟩
      else none
    | .fill _ => none
/-- The granules of which a copy carries the tags. -/
def tagGranules (c : CopyCmd) : List WholeGranule := if carriesTags c then wholeGranules (copyElems c) else []
/-- What another package has answered for an element; the high half of a whole granule comes with its low half. -/
def elemReply (c : CopyCmd) (n : Nat) : Option (Word × Bool) :=
  match (tagGranules c).find? fun g => g.hi == n with
  | some g => (c.got.find? fun r => r.seat == g.lo).map fun r => (r.hi, r.poison)
  | none => (c.got.find? fun r => r.seat == n).map fun r => (r.lo, r.poison)
/-- The bytes and poison of an element: from this package, from what another has answered, or the fill pattern. -/
def elemValue (s : State) (f : Flight) (c : CopyCmd) (n : Nat) : CopySrc → Except CopyErr (List Byte × Bool × State)
  | .fill p => .ok (fillBytes c, p, s)
  | .mem a p =>
    if hasPerm c.src .remote then
      match elemReply c n with
      | some r => .ok (bytesLE c.size r.1.toNat, p || r.2, s)
      | none => .ok (bytesLE c.size 0, true, s)
    else
      match engineRead s f a c.size with
      | .error e => .error e
      | .ok (x, s) => .ok (x.bytes, p || x.poison, s)
/-- Write one element in this package, or combine it (R176). -/
def elemWrite (s : State) (f : Flight) (c : CopyCmd) (a : Int) (bs : List Byte) (poisoned : Bool) : Except CopyErr State :=
  if c.kind = 3 then
    match engineRead s f a c.size with
    | .error e => .error e
    | .ok (x, s) =>
      engineWrite s f a (bytesLE c.size (combineE (cpFill c) c.size (valueLE x.bytes) (valueLE bs))) false
        (poisoned || x.poison)
  else engineWrite s f a bs false poisoned
/-- An element as it has been moved: number, address, bytes, poison. -/
structure Moved where
  num : Nat
  addr : Int
  bytes : List Byte
  poison : Bool
/-- Perform a list of elements in order, and tell what was moved. What goes to another package is sent afterwards. -/
def performElems (s : State) (f : Flight) (c : CopyCmd) : List (Nat × CopySrc × Int) → Except CopyErr (List Moved × State)
  | [] => .ok ([], s)
  | (n, src, a) :: es =>
    match elemValue s f c n src with
    | .error e => .error e
    | .ok (bs, p, s) =>
      match (if hasPerm c.dst .remote then .ok s else elemWrite s f c a bs p) with
      | .error e => .error e
      | .ok s =>
        match performElems s f c es with
        | .error e => .error e
        | .ok (ms, s) => .ok (⟨n, a, bs, p⟩ :: ms, s)
/-- A source granule: read here, or as another package has answered it. -/
def sourceGranule (s : State) (f : Flight) (c : CopyCmd) (g : WholeGranule) : Except CopyErr (Seen × State) :=
  if hasPerm c.src .remote then
    let r := (c.got.find? fun r => r.seat == g.lo).getD ⟨g.lo, 0, 0, false, true⟩
    .ok (⟨bytesLE 8 r.lo.toNat ++ bytesLE 8 r.hi.toNat, r.tag, r.poison⟩, s)
  else engineRead s f g.src 16
/-- The tagged granules among them as they stood before the copy; quarantine takes a tag (R362). -/
def taggedGranules (s : State) (f : Flight) (c : CopyCmd) :
    List WholeGranule → Except CopyErr (List (Cap × Int) × State)
  | [] => .ok ([], s)
  | g :: gs =>
    match sourceGranule s f c g with
    | .error e => .error e
    | .ok (x, s) =>
      match taggedGranules s f c gs with
      | .error e => .error e
      | .ok (ts, s) =>
        let cap := transferCap s (taskSpaceNum s (flightTask s f)) (capOfBytes x.bytes (x.tag && !x.poison))
        .ok (if cap.tag then (cap, g.dst) :: ts else ts, s)
/-- Does a moved element write a byte? -/
def Moved.covers (m : Moved) (a : Int) : Bool := decide (m.addr ≤ a) && decide (a < m.addr + Int.ofNat m.bytes.length)
/-- Is a granule written whole by clean elements, and by no poisoned one? -/
def cleanWhole (ms : List Moved) (g : Int) : Bool :=
  (List.range 16).all fun j =>
    let own := ms.filter fun m => m.covers (g + Int.ofNat j)
    !own.isEmpty && own.all fun m => !m.poison
/-- The granules that a copy writes whole and clean. As one writer it clears their poison (R107, R182; DEDUCED, log 39). -/
def cleanGranules (c : CopyCmd) (ms : List Moved) : List Int :=
  if c.kind = 3 then []
  else ((ms.map fun m => m.addr - m.addr % 16).eraseDups).filter (cleanWhole ms)
/-- Write the tagged granules whole, and those that lose their poison. -/
def writeTagged (s : State) (f : Flight) : List (Cap × Int) → Except CopyErr State
  | [] => .ok s
  | (cap, d) :: ts =>
    match engineWrite s f d (capBytes cap) true false with
    | .error e => .error e
    | .ok s => writeTagged s f ts
def writeClean (s : State) (f : Flight) : List Int → Except CopyErr State
  | [] => .ok s
  | g :: gs =>
    match engineRead s f g 16 with
    | .error e => .error e
    | .ok (x, s) =>
      if !x.poison then writeClean s f gs
      else
        match engineWrite s f g x.bytes false false with
        | .error e => .error e
        | .ok s => writeClean s f gs

/-! ## Elements for another package -/

/-- The bytes of a granule that elements cover once each, as one write; none where bytes are written twice. -/
def granuleBytes (ms : List Moved) (g : Int) : Option (List Byte) :=
  (List.range 16).mapM fun j =>
    match ms.filter fun m => m.covers (g + Int.ofNat j) with
    | [m] => some (nth m.bytes (g + Int.ofNat j - m.addr).toNat 0)
    | _ => none
/-- One request of a copy to another package. -/
def sendElem (s : State) (f : Flight) (c : CopyCmd) (a : Int) (op : RemoteOp) : State :=
  let va : Word := BitVec.ofInt 64 a
  sendRemote s f.core f.id f.seats (remotePkg va) (remoteReq s c.dst va op)
/-- The writes of a copy into another package. An aligned granule that its elements make up whole and clean goes as one write,
with its tag, rewritten where it crosses (R182, R360); every other element goes by itself. -/
def sendElems (f : Flight) (c : CopyCmd) (ts : List (Cap × Int)) (all : List Moved) (s : State) : List Moved → State
  | [] => s
  | m :: ms =>
    let g := m.addr - m.addr % 16
    let whole := if c.kind ≠ 3 && cleanWhole all g && (all.all fun x => !(x.covers g) || x.addr == g) then granuleBytes all g
      else none
    match whole with
    | some bs =>
      if m.addr ≠ g then sendElems f c ts all s ms
      else
        match ts.find? fun e => e.2 == g with
        | some e =>
          match travel s (taskSpaceNum s (flightTask s f)) e.1 (remotePkg (BitVec.ofInt 64 g)) with
          | (y, s) => sendElems f c ts all (sendElem s f c g (.store (capBytes y) y.tag false)) ms
        | none => sendElems f c ts all (sendElem s f c g (.store bs false false)) ms
    | none =>
      let op := if c.kind = 3 && !m.poison then RemoteOp.combine (cpFill c) c.size (BitVec.ofNat 64 (valueLE m.bytes))
        else .store m.bytes false m.poison
      sendElems f c ts all (sendElem s f c m.addr op) ms
/-- All writes of a copy whose elements are at hand. -/
def performCopy (s : State) (f : Flight) (c : CopyCmd) : Except CopyErr State :=
  let es := copyElems c
  match taggedGranules s f c (tagGranules c) with
  | .error e => .error e
  | .ok (ts, s) =>
    match performElems s f c es with
    | .error e => .error e
    | .ok (ms, s) =>
      if hasPerm c.dst .remote then .ok (sendElems f c ts ms s ms)
      else
        match writeTagged s f ts with
        | .error e => .error e
        | .ok s => writeClean s f (cleanGranules c ms)
/-- The elements that a copy reads from other packages, in the order of their requests, with their addresses and sizes: a granule
whose tag the copy carries is asked for whole (R182). -/
def remoteElems (c : CopyCmd) : List (Nat × Word × Nat) :=
  let gs := tagGranules c
  (copyElems c).filterMap fun e =>
    match e.2.1 with
    | .mem a _ =>
      if gs.any fun g => g.hi == e.1 then none
      else some (e.1, BitVec.ofInt 64 a, if gs.any fun g => g.lo == e.1 then 16 else c.size)
    | .fill _ => none
/-- Ask other packages for the elements that the copy reads there. -/
def requestElems (s : State) (f : Flight) (c : CopyCmd) : State :=
  (remoteElems c).foldl (fun s e =>
    sendRemote s f.core f.id f.seats (remotePkg e.2.1) (remoteReq s c.src e.2.1 (.load e.2.2))) s
/-- Insert a miss in order of deadline (R181). -/
def insertMiss (l : List Miss) (m : Miss) : List Miss :=
  (l.filter fun x => decide (x.deadline.toNat ≤ m.deadline.toNat)) ++ [m] ++
    l.filter fun x => decide (m.deadline.toNat < x.deadline.toNat)
/-- A deadline that has passed becomes a miss of the copy's bench (R181). -/
def noteMiss (s : State) (f : Flight) (c : CopyCmd) : State :=
  match c.deadline with
  | some d =>
    if d.toNat < s.bell.toNat then
      onFlightBench s f fun b => { b with misses := insertMiss b.misses ⟨lowestSeat f.seats, c.batch, d⟩ }
    else s
  | none => s
/-- A copy has completed, perhaps late: its flag falls and it arrives (R178, R179, R181). -/
def finishCopy (s : State) (f : Flight) (c : CopyCmd) : State :=
  let s := endFlight (noteMiss s f c) f
  if c.arr then arriveCopy s f.task (flightCoreT s f) (cpGroup c) else s

end Sys2Proof.Machine
end

