-- ==== Sys2Proof/Machine/Fabric.lean ====
section
/-!
DEFINITION. The instructions toward other packages, `push`, `sret` and `mark` (R404 to R412), and what this package does
for requests of others: translation grants (R235), remote accesses (R401, R402), slot buffers (R404 to R411) and the
replicas of marks (R429).
-/
namespace Sys2Proof.Machine

/-! ## Checks (R405, R410, R412) -/

/-- NOT_REMOTE (R405). -/
def notRemote (c : Cap) (a : Word) : Option OpFault := if hasPerm c .remote then none else some (capFault 0x12 5 c a)
/-- ALIGN of a slot buffer header (R404). -/
def headerAlign (c : Cap) : Option OpFault :=
  if (capCursor c).toNat % 64 ≠ 0 then some (capFault 0x11 4 c (capCursor c)) else none
/-- BOUNDS of the 64 header bytes. -/
def headerBounds (c : Cap) : Option OpFault :=
  if inBounds c (Int.ofNat (capCursor c).toNat) 64 then none else some (capFault 0x11 1 c (capCursor c))

/-- The length of a push (R405). -/
def pushLen (v : Word) : Nat := bitsOf v 31 0
/-- The first of a list of checks that fails. -/
def firstFault (l : List (Option OpFault)) : Option OpFault := l.findSome? id
/-- The checks of one seat's `push` (R405). -/
def pushFault (s : State) (i : Instr) (cb ce : CReg) (d : DReg) (k : Nat) : Option OpFault :=
  let b := cur s
  let r := readC b ce k
  let x := readC b cb k
  let v := readD b d k
  let n := pushLen v
  let row := [(Int.ofNat (capCursor x).toNat, n)]
  firstFault
    [useFault s (usesOf i) k, capChecks s r [.ld, .st] (capCursor r), notRemote r (capCursor r), headerAlign r,
      headerBounds r, capChecks s x [.ld] (capCursor x),
      if hasPerm x .remote then some (capFault 0x12 4 x (capCursor x)) else none,
      boundsFault x row, footWindow s x row, footPath s x row,
      if bitsOf v 63 32 ≠ 0 ∨ n < 16 ∨ 2 ^ 24 < n ∨ n % 16 ≠ 0 then some (plainFault 0x15 2) else none]

/-! ## push (R405 to R407) -/

/-- The reservation that a seat's push sends (R406), on the path of its header's line (R425). -/
def sendReserve (s : State) (f : Flight) : State :=
  match f.kind with
  | .push _ pkg _ none _ dst len => sendRemote s f.core f.id f.seats pkg (remoteReq s dst (capCursor dst) (.reserve len))
  | _ => s
/-- `push` (R405). -/
def execPush (cb : CReg) (keep : Bool) (d : DReg) (ce : CReg) (s : State) : Host.Outcome State Fault Refusal :=
  let i := Instr.push cb keep d ce
  let b := cur s
  let flag := passFlag s false
  let seats := issued s
  demand s (featureFault s 3) <|
    guardPass s (pushFault s i cb ce d)
      (let t := retireWith s [⟨d, if keep then .keep else .plain⟩] false (markPass seats [d] [] flag)
       let t := addParts t flag ((List.range seats.length).map fun j =>
         let k := nth seats j 0
         ⟨seatBit k, [d], [],
           .push (s.nextReq + j) (remotePkg (capCursor (readC b ce k))) d none (readC b cb k) (readC b ce k)
             (pushLen (readD b d k)), 0⟩)
       (t.flights.filter fun f => decide (s.nextId ≤ f.id)).foldl sendReserve t)

/-- The granules of a push's payload, read when it is granted (R406): bytes, tag and poison. A tag needs LDC of the source
and STC of the buffer, and is rewritten where it crosses (R360). -/
def pushPayload (s : State) (f : Flight) (src dst : Cap) (target : Nat) : Nat →
    Except CopyErr (List (List Byte × Bool × Bool) × State)
  | 0 => .ok ([], s)
  | n + 1 =>
    match pushPayload s f src dst target n with
    | .error e => .error e
    | .ok (gs, s) =>
      let a := Int.ofNat (capCursor src).toNat + 16 * Int.ofNat n
      match engineRead s f a 16 with
      | .error e => .error e
      | .ok (x, s) =>
        let tag := x.tag && !x.poison && a % 16 == 0 && hasPerm src .ldc && hasPerm dst .stc
        let space := taskSpaceNum s (flightTask s f)
        match travel s space (transferCap s space (capOfBytes x.bytes tag)) target with
        | (y, s) => .ok (gs ++ [(if y.tag then capBytes y else x.bytes, y.tag, x.poison)], s)
/-- Have the window granules of rows landed (R151)? -/
def rowsLanded (s : State) (f : Flight) (rows : List (Int × Nat)) : Bool :=
  rows.all fun r =>
    decide (r.1 < 0) || decide (Int.ofNat windowEnd ≤ r.1) || (winWaiting (flightTask s f) r.1.toNat r.2).isEmpty
/-- Have the stores that the seats of a flight made before it been performed (R206)? Those held for a granule that has not landed, or
sent to another package, have not. -/
def storesBefore (s : State) (f : Flight) : Bool :=
  s.flights.all fun g => !(g.core == f.core && g.slot == f.slot && g.task == f.task && decide (g.id < f.id)) ||
    match g.kind with
    | .stagedStore is => is.all fun i => !f.seats.getLsbD i.seat
    | .stagedAtom _ _ _ _ _ is => is.all fun i => !f.seats.getLsbD i.seat
    | .stagedRows false _ _ _ => false
    | .remoteStore _ _ => g.seats &&& f.seats == 0
    | _ => true
/-- May the source of a push be read: its granules have landed, and the seat's earlier stores have been performed (R206, R209)? -/
def pushReadable (s : State) (f : Flight) (src : Cap) (len : Nat) : Bool :=
  rowsLanded s f [(Int.ofNat (capCursor src).toNat, len)] && storesBefore s f
/-- May a grant be taken: it is new, or the payload that it asks for may be read? -/
def grantTaken (s : State) (id : Nat) : Bool :=
  match findFlight s id with
  | some f =>
    match f.kind with
    | .push _ _ _ (some _) src _ len => pushReadable s f src len
    | _ => true
  | none => true
/-- A payload goes to its slot, granule by granule, each on the path of its line (R406, R425). -/
def sendPayload (s : State) (f : Flight) (pkg : Nat) (dst : Cap) (pos : Word) (gs : List (List Byte × Bool × Bool)) : State :=
  (List.range gs.length).foldl (fun s j =>
    let g := nth gs j ([], false, false)
    sendRemote s f.core f.id f.seats pkg
      { remoteReq s dst (capCursor dst) (.store g.1 g.2.1 g.2.2) with va := pos + BitVec.ofNat 64 (16 * j) }) s
/-- PUSH_GRANT (R406, R407): the reply's deadline begins; the payload is read and sent, once it may be read. -/
def execPushGrant (id : Nat) (k pos : Word) (s : State) : Host.Outcome State Fault Refusal :=
  match findFlight s id with
  | none => .next s
  | some f =>
    match f.kind with
    | .push req pkg d slot src dst len =>
      let f' : Flight := if slot.isSome then f else { f with kind := .push req pkg d (some k) src dst len, deadline := replyDeadline s }
      let s := if slot.isSome then s else putFlight (answeredOne s id fun o => o.req == req) f'
      let again : State := { s with agenda := s.agenda ++ [.pushGrant id k pos] }
      if src = Cap.null then .next s
      else if !pushReadable s f' src len then .next again
      else
        match pushPayload s f' src dst pkg (len / 16) with
        | .ok (gs, s) => .next (sendPayload (putFlight s { f' with kind := .push req pkg d (some k) Cap.null dst len }) f' pkg dst pos gs)
        | .error (_, .poolDown lib) => .next (poolWait again f.task (some f.core) lib)
        | .error (va, e) => .next (abortFlight s f' (.pageFault va (transSub e)) va)
    | _ => .next s
/-- The end of a push: its register takes the reply, and its flag falls (R407). -/
def endPush (s : State) (f : Flight) (d : DReg) (v : Word) (p : Option Nat) : State :=
  let s := answered s f.id f.seats
  endFlight (landData s f [(d, [(lowestSeat f.seats, v, p)])]) f
/-- PUSH_REPLY (R407, R408): the slot or a status, or poison of cause 0. -/
def execPushReply (id : Nat) (v : Option Word) (s : State) : Host.Outcome State Fault Refusal :=
  match findFlight s id with
  | none => .next s
  | some f =>
    match f.kind with
    | .push _ _ d _ _ _ _ => .next (endPush s f d (v.getD 0) (if v.isNone then some 0 else none))
    | _ => .next s
/-- PUSH_REPLY_DEADLINE (R407): the register takes poison of cause 1. -/
def execPushReplyDeadline (id : Nat) (s : State) : Host.Outcome State Fault Refusal :=
  match findFlight s id with
  | none => .next s
  | some f =>
    match f.kind with
    | .push _ _ d (some _) _ _ _ => .next (endPush s f d 0 (some 1))
    | _ => .next s

/-! ## Translation for other packages (R235) -/

/-- Translate an address of a space at the hub, by a walk that no structure keeps: the physical address, the walked leaf
where there is one, and the state with A and D set. -/
def hubWalk (s : State) (sp : ASpace) (va : Nat) (acc : Access) : Except TransErr (Nat × Option WalkHit × State) :=
  match pathAt sp va with
  | .window => .error (.page 1)
  | .heap =>
    if va < sp.hbase.toNat + sp.hlimit.toNat then .ok ((va + sp.hoff.toNat) % 2 ^ 64, none, s) else .error (.heap 1)
  | .carve =>
    match translateCarve s va with
    | .ok pa => .ok (pa, none, s)
    | .error e => .error e
  | .paged =>
    if !canonical va then .error (.page 6)
    else if accWrites acc && migrating s sp va then .error .migrate
    else
      match walkFrom s va acc 4 (sp.root.toNat / 4096) [] with
      | .error e => .error e
      | .ok h =>
        match setAD s h acc with
        | (s, h) =>
          .ok (ptePpn h.pte * 4096 + va % 2 ^ (12 + 9 * h.level), some h, s)
/-- The same, on to the place of the address: in the pool, through its segment (R422, R423). Its line stands under the key identifier of
the place from then on (R244). -/
def hubTranslate (s : State) (sp : ASpace) (va : Nat) (acc : Access) : Except TransErr (Nat × Option WalkHit × State) :=
  match hubWalk s sp va acc with
  | .error e => .error e
  | .ok (pa, h, s) =>
    match poolCheck s pa with
    | some e => .error e
    | none => .ok (poolPlace s pa, h, openView s (poolPlace s pa))
/-- The same for the bytes of a short range. -/
def hubBytes (s : State) (sp : ASpace) (va : Nat) (acc : Access) : Nat → Except TransErr (List Nat × State)
  | 0 => .ok ([], s)
  | n + 1 =>
    match hubBytes s sp va acc n with
    | .error e => .error e
    | .ok (pas, s) =>
      match hubTranslate s sp (va + n) acc with
      | .error e => .error e
      | .ok (pa, _, s) => .ok (pas ++ [pa], s)
/-- The address space behind an export slot (R359). -/
def slotSpace (s : State) (slot : Nat) : Option Nat := lookupKey s.exportSlots slot
/-- Does a package still refuse requests after its reset (R236)? How long still, in nanoseconds. -/
def resetRefusal (s : State) : Option Word :=
  let stop := s.boot.since.toNat + s.mgmt.leasemax.toNat
  if s.bell.toNat < stop then some (BitVec.ofNat 64 (stop - s.bell.toNat)) else none
/-- Is a package fenced (R365)? -/
def isFenced (s : State) (pkg : Nat) : Bool := s.fenced.any fun x => x.pkg == pkg
/-- The requests that this package refuses (R236, R365). -/
def refuses (s : State) (src : Nat) : Option Word := if isFenced s src then some 0 else resetRefusal s
/-- A refusal; the first one of a fence carries the notices along (R439). -/
def refusalOf (s : State) (src : Nat) (what : RefusedId) (ns : Word) : State :=
  let again := s.fenced.filter fun x => x.pkg == src && !x.told
  { s with
    fenced := s.fenced.map fun x => if x.pkg == src then { x with told := true } else x
    outbox := s.outbox ++ [.refusal src what ns] ++ again.map fun x => .notice src x.w0 x.w1 (BitVec.ofNat 64 (x.num % 2 ^ 32)) }
/-- Live grant records. -/
def liveGrants (s : State) : Nat := (s.grants.filter fun g => decide (s.bell < g.expiry)).length
/-- The permissions of a leaf for a grant: R, W and X, where W asks for D, which the walker sets on a write (R224). -/
def leafPerms (h : Option WalkHit) : Nat :=
  match h with
  | some x => if pteBit x.pte 7 then x.pte / 2 % 8 else Nat.land (x.pte / 2 % 8) 5
  | none => 3
/-- The lease of a grant (R235): that of the leaf, or the standard one where the heap or a carve gives the address, in pages of
4 KiB (DESIGN CHOICE, log 41); 0 of an unlocked package, or of one with 65,536 live records. -/
def grantLease (s : State) (h : Option WalkHit) : Nat :=
  if !s.lock.locked || decide (65536 ≤ liveGrants s) then 0
  else match h with
    | some x => leaseOf s (pteRsw x.pte)
    | none => s.mgmt.lease0.toNat
/-- The later of two expiries. -/
def later (a b : Word) : Word := if a.toNat < b.toNat then b else a
/-- Record a grant: for its page, the latest expiry of all (R235). -/
def recordGrant (s : State) (g : Grant) : State :=
  match g.expiry with
  | none => s
  | some e =>
    let same := fun (x : GrantRec) => x.asn == g.asn && x.page == g.page && x.size == g.size
    { s with grants := (s.grants.filter fun x => !same x) ++
        [⟨g.asn, g.page, g.size, ((s.grants.filter same).map (·.expiry)).foldl later e⟩] }
/-- The grant for an address that a walk has translated. An access under a lease of 0 has no expiry to pass, so that it is
performed (R227; DEDUCED, log 42). -/
def grantFrom (s : State) (slot space : Nat) (va : Word) (pa : Nat) (h : Option WalkHit) : Grant :=
  let size := match h with
    | some x => 2 ^ (12 + 9 * x.level)
    | none => 4096
  let lease := grantLease s h
  ⟨s.pkg, slot, (aspaceObj s space).asn, alignDown va.toNat size, size, (h.map fun x => pteRsw x.pte).getD 0,
    alignDown pa size, leafPerms h, if lease = 0 then none else some (s.bell + BitVec.ofNat 64 lease)⟩
/-- A grant is asked for here (R235): walk, answer and record. The frame of a pool page is its address in the pool window, of which each
access is tested and placed when it is performed (R422, R423). -/
def answerGrant (src reqId slot : Nat) (va : Word) (acc : Access) (s : State) : State :=
  match refuses s src with
  | some ns => refusalOf s src (.request reqId) ns
  | none =>
    match slotSpace s slot with
    | none => { s with outbox := s.outbox ++ [.grantFault src reqId 1] }
    | some space =>
      match hubWalk s (aspaceObj s space) va.toNat acc with
      | .error .migrate => { s with agenda := .grantRequest (.ask src reqId) slot va acc :: s.agenda }
      | .error e => { s with outbox := s.outbox ++ [.grantFault src reqId (transSub e)] }
      | .ok (pa, h, s) =>
        let g := grantFrom s slot space va pa h
        let s := recordGrant s g
        { s with outbox := s.outbox ++ [.grant src reqId g] }

/-! ## Slot buffers at their home hub (R404, R406, R408, R411) -/

/-- The fields of a header at its physical address. -/
def hdResv (s : State) (pa : Nat) : Nat := memValue s.mem pa 8
def hdHead (s : State) (pa : Nat) : Nat := memValue s.mem (pa + 8) 8
def hdTail (s : State) (pa : Nat) : Nat := memValue s.mem (pa + 0x10) 8
def hdNslot (s : State) (pa : Nat) : Nat := memValue s.mem (pa + 0x18) 4
def hdSize (s : State) (pa : Nat) : Nat := memValue s.mem (pa + 0x1C) 4
def hdErr (s : State) (pa : Nat) : Bool := memValue s.mem (pa + 0x20) 4 % 2 == 1
/-- A write of the hub. -/
def hubWrite (s : State) (pa n v : Nat) : State := physStore s pa (bytesLE n v) false
def hdPut (s : State) (pa off : Nat) (v : Nat) : State := hubWrite s (pa + off) 8 v
/-- (RESV − TAIL) mod 2^64. -/
def hdUsed (s : State) (pa : Nat) : Nat := (hdResv s pa + 2 ^ 64 - hdTail s pa) % 2 ^ 64

def findBuf (s : State) (slot : Nat) (va : Word) : PushBuf :=
  (s.pushBufs.find? fun b => b.slot == slot && b.va == va).getD ⟨slot, va, [], []⟩
def putBuf (s : State) (b : PushBuf) : State :=
  { s with pushBufs := (s.pushBufs.filter fun x => !(x.slot == b.slot && x.va == b.va)) ++
      (if b.queue.isEmpty && b.slots.isEmpty then [] else [b]) }

/-- FORMAT of a reservation (R406). -/
def reserveBad (s : State) (pa len : Nat) : Bool :=
  hdErr s pa || hdNslot s pa == 0 || decide (65536 < hdNslot s pa) || hdSize s pa % 64 != 0 || hdSize s pa == 0 ||
    decide (2 ^ 24 < hdSize s pa) || decide (hdSize s pa < len) || decide (2 ^ 63 ≤ hdResv s pa)
/-- The answer FORMAT (R407). -/
def formatReply (s : State) (r : PushReq) : State :=
  { s with outbox := s.outbox ++ [.pushReply r.src r.reqId 0x8000000000000003 false] }
/-- Do the bounds of a request lie in a region quarantined here (R362)? -/
def requestQuarantined (s : State) (space : Nat) (base top : Word) : Bool :=
  s.quarantine.any fun q => q.origin.isNone && q.target.isNone && q.aspace == space && decide (q.base.toNat ≤ base.toNat) &&
    decide (top.toNat ≤ q.base.toNat + q.len)
/-- Grant one reservation (R406), or answer FORMAT where its slot lies outside the bounds that it carries. -/
def grantOne (s : State) (pa : Nat) (b : PushBuf) (r : PushReq) : State × PushBuf :=
  let k := hdResv s pa
  let pos := b.va.toNat + 0x40 + k % hdNslot s pa * hdSize s pa
  if pos < r.base.toNat ∨ r.top.toNat < pos + r.len then (formatReply s r, b)
  else
    let bad := match slotSpace s b.slot with
      | some space => requestQuarantined s space r.base r.top
      | none => true
    let x : PushSlot := ⟨k, BitVec.ofNat 64 pos, r.len, (List.range (r.len / 16)).map fun j => pos + 16 * j, false,
      s.bell + 200000, r.src, r.reqId, bad⟩
    let s := hdPut s pa 0 (k + 1)
    ({ s with outbox := s.outbox ++ [.granted r.src r.reqId (BitVec.ofNat 64 k) (BitVec.ofNat 64 pos)] },
      { b with slots := b.slots ++ [x] })
/-- Grant queued reservations in order while the buffer has room; fuel is the length of the queue. -/
def grantLoop (pa : Nat) : Nat → State → PushBuf → State × PushBuf
  | 0, s, b => (s, b)
  | fuel + 1, s, b =>
    match b.queue with
    | [] => (s, b)
    | r :: rs =>
      if hdUsed s pa < hdNslot s pa then
        match grantOne s pa { b with queue := rs } r with
        | (s, b) => grantLoop pa fuel s b
      else (s, b)
def grantQueued (s : State) (pa : Nat) (b : PushBuf) : State :=
  match grantLoop pa b.queue.length s b with
  | (s, b) => putBuf s b
/-- A reservation that still queues leaves the queue; one that has been granted wins over its withdrawal (R409). -/
def withdrawReserve (req : PushReq) (s : State) : State :=
  { s with pushBufs := (s.pushBufs.map fun b =>
      { b with queue := b.queue.filter fun r => !(r.src == req.src && r.reqId == req.reqId) }).filter fun b =>
        !(b.queue.isEmpty && b.slots.isEmpty) }
/-- PUSH_RESERVE (R406, R409, R431): a reservation reaches the hub, or its withdrawal; one that finds the queue full is refused. -/
def execPushReserve (req : PushReq) (s : State) : Host.Outcome State Fault Refusal :=
  if req.withdraw then .next (withdrawReserve req s)
  else
  match refuses s req.src with
  | some ns => .next (refusalOf s req.src (.request req.reqId) ns)
  | none =>
    match slotSpace s req.slot with
    | none => .next { s with outbox := s.outbox ++ [.grantFault req.src req.reqId 1] }
    | some space =>
      match hubTranslate s (aspaceObj s space) req.va.toNat .rmw with
      | .error .migrate => .next { s with agenda := .pushReserve req :: s.agenda }
      | .error (.poolDown lib) => .next (poolWaitFor s (.reserve req) lib)
      | .error e => .next { s with outbox := s.outbox ++ [.grantFault req.src req.reqId (transSub e)] }
      | .ok (pa, _, s) =>
        let b := findBuf s req.slot req.va
        if reserveBad s pa req.len then .next (formatReply s req)
        else if 256 ≤ b.queue.length then .next (refusalOf s req.src (.queueFull req.reqId) 0)
        else .next (grantQueued s pa { b with queue := b.queue ++ [req] })

/-- HEAD passes complete slots, one after another (R406). Fuel is the number of slots. -/
def publishHead (pa : Nat) : Nat → State → PushBuf → State × PushBuf
  | 0, s, b => (s, b)
  | fuel + 1, s, b =>
    match b.slots.find? fun x => x.k == hdHead s pa && x.complete with
    | none => (s, b)
    | some x =>
      let s := hdPut s pa 8 (hdHead s pa + 1)
      publishHead pa fuel s { b with slots := b.slots.filter fun y => !(y.k == x.k) }
/-- A slot is complete (R406): its number is passed by HEAD when its turn comes, and its producer is answered, in quarantine with
poison (R408). -/
def completeSlot (s : State) (buf k : Nat) : State :=
  match s.pushBufs[buf]? with
  | none => s
  | some b =>
    match slotSpace s b.slot with
    | none => s
    | some space =>
      match hubTranslate s (aspaceObj s space) b.va.toNat .rmw with
      | .error _ => s
      | .ok (pa, _, s) =>
        let b := { b with slots := b.slots.map fun x => if x.k == k then { x with complete := true, missing := [] } else x }
        let replies := (b.slots.filter fun x => x.k == k).map fun x => OutMsg.pushReply x.src x.reqId (BitVec.ofNat 64 x.k) x.quarantined
        match publishHead pa b.slots.length s b with
        | (s, b) => putBuf { s with outbox := s.outbox ++ replies } b
/-- Poison the granules of a space that the hub could not fill (R408). -/
def poisonGranules (s : State) (sp : ASpace) (gs : List Nat) : State :=
  gs.foldl (fun s a =>
    match hubTranslate s sp a .store with
    | .ok (pa, _, s) => if isMgmt pa then s else { s with mem := memSetPoison (memSetTag s.mem pa false) pa true }
    | .error _ => s) s
/-- The space behind a buffer. -/
def bufSpace (s : State) (b : PushBuf) : ASpace :=
  match slotSpace s b.slot with
  | some n => aspaceObj s n
  | none => ASpace.none_
/-- The granules of a slot's range. -/
def slotGranules (x : PushSlot) : List Nat := (List.range (x.len / 16)).map fun j => x.va.toNat + 16 * j
/-- PUSH_PUBLISH (R406, R408): a slot's payload is complete; under quarantine the whole range is poisoned first. -/
def execPushPublish (buf k : Nat) (s : State) : Host.Outcome State Fault Refusal :=
  match s.pushBufs[buf]? with
  | none => .next s
  | some b =>
    match b.slots.find? fun x => x.k == k with
    | none => .next s
    | some x =>
      .next (if x.complete then s else completeSlot (if x.quarantined then poisonGranules s (bufSpace s b) (slotGranules x) else s) buf k)
/-- PUSH_SLOT_TIMEOUT (R408): the unwritten granules are poisoned, in quarantine all of them, and the slot is complete. -/
def execPushSlotTimeout (buf k : Nat) (s : State) : Host.Outcome State Fault Refusal :=
  match s.pushBufs[buf]? with
  | none => .next s
  | some b =>
    match b.slots.find? fun x => x.k == k && !x.complete with
    | none => .next s
    | some x => .next (completeSlot (poisonGranules s (bufSpace s b) (if x.quarantined then slotGranules x else x.missing)) buf k)

/-- The return of n slots at the header's hub (R411). -/
def returnSlots (s : State) (pa slot : Nat) (va n : Word) : State :=
  if n = 0 then s
  else if (hdHead s pa + 2 ^ 64 - hdTail s pa) % 2 ^ 64 < n.toNat then
    hubWrite s (pa + 0x20) 4 (putBits (memValue s.mem (pa + 0x20) 4) 0 1 1)
  else
    let s := hdPut s pa 0x10 ((hdTail s pa + n.toNat) % 2 ^ 64)
    grantQueued s pa (findBuf s slot va)

/-! ## sret (R410, R411) -/

/-- The checks of one seat's `sret` (R410). -/
def sretCheck (i : Instr) (ce : CReg) (s : State) (k : Nat) : Except OpFault (Place × State) :=
  let c := readC (cur s) ce k
  match firstFault [useFault s (usesOf i) k, capChecks s c [.ld, .st] (capCursor c), headerAlign c] with
  | some f => .error f
  | none => checkAccess s c (Int.ofNat (capCursor c).toNat) ⟨[.ld, .st], 64, .glob, 1, 4, .rmw⟩ fun _ => none
/-- `sret` (R410): the seats go on; each return is performed once its seat's earlier accesses have been, and one to another package has
its deadline from here (R401). -/
def execSret (a : Src) (ce : CReg) (s : State) : Host.Outcome State Fault Refusal :=
  let i := Instr.sret a ce
  demand s (featureFault s 3) <|
    match runSeats s (sretCheck i ce) (issued s) with
    | .error fs => .next (takeFaults s fs)
    | .ok (_, t) =>
      .next (addParts (retireWith t [a] false id) none ((issued s).map fun k =>
        ⟨seatBit k, [], [], .sret (readC (cur s) ce k) (srcV s a k) false (getSeat (cur s) k).batch,
          if hasPerm (readC (cur s) ce k) .remote then replyDeadline s else 0⟩))
/-- The held bytes of a header's granules are published (R411). -/
def publishHeader (s : State) (t : Task) (va pa : Nat) : State :=
  [0, 16, 32, 48].foldl (fun s o =>
    match findTask s t.id with
    | some t => publishGranule s t (va + o) (pa + o)
    | none => s) s
/-- SRET_PERFORM (R411): at this package's hub, or sent to the target, which acknowledges it (R401). -/
def execSretPerform (id : Nat) (s : State) : Host.Outcome State Fault Refusal :=
  match findFlight s id with
  | none => .next s
  | some f =>
    match f.kind with
    | .sret c n false batch =>
      let va := capCursor c
      let s := releaseDrain s f.task (flightCoreT s f) .dom
      if hasPerm c .remote then
        .next (sendRemote (putFlight s { f with kind := .sret c n true batch }) f.core f.id f.seats
          (remotePkg va) (remoteReq s c va (.sret n)))
      else
        let t := flightTask s f
        let sp := taskSpace s t
        match translate1 s f.core sp sp.hspan va.toNat .rmw with
        | .error .migrate => .next s
        | .error (.poolDown lib) => .next (poolWait s f.task (some f.core) lib)
        | .error e => .next (abortFlight s f (.pageFault va (transSub e)) va)
        | .ok (pa, s) =>
          let s := publishHeader s t va.toNat pa
          .next (endFlight (returnSlots s pa ((exportSlotOf s (taskSpaceNum s t)).getD 256) va n) f)
    | _ => .next s

/-! ## mark (R412, R429) -/

/-- The checks of one seat's `mark` (R412). -/
def markFault (s : State) (i : Instr) (ce : CReg) (k : Nat) : Option OpFault :=
  let c := readC (cur s) ce k
  firstFault [useFault s (usesOf i) k, capChecks s c [] (capCursor c), notRemote c (capCursor c)]
/-- The replicas of a mark, one on each path (R429). -/
def sendReplicas (s : State) (target num : Nat) : State :=
  let ps := livePaths s (pathSetOf s target)
  let ms := (List.range ps.length).map fun j => OutMsg.markReplica target num j ps.length (nth ps j 0)
  noteNoPath { s with outbox := s.outbox ++ ms } target
/-- Is a flight of a seat one that a mark to a target goes after: a return to it that waits (R411), or a copy in a batch sealed before the
mark (R208)? -/
def unsentBefore (target : Nat) (batch : Word32) (g : Flight) : Bool :=
  match g.kind with
  | .sret c _ false _ => hasPerm c .remote && remotePkg (capCursor c) == target
  | _ => sealedCopy batch g
/-- May a mark go: a path is there, no earlier request or mark to its target waits, and of its seats neither a return nor a sealed copy
(R208, R214, R411, R429)? -/
def markFree (s : State) (f : Flight) (target : Nat) (batches : List (Nat × Word32)) : Bool :=
  !(livePaths s (pathSetOf s target)).isEmpty && !unsentMark s target f.id &&
    !(s.remote.any fun o => o.target == target && o.lib.isNone && decide (o.flight < f.id)) &&
    batches.all fun e => (seatFlights s f.core f.slot e.1).all fun g => decide (f.id ≤ g.id) || !unsentBefore target e.2 g
/-- The replicas that a mark sent now awaits: each path index with its library (R429). -/
def replicasOf (s : State) (target : Nat) : List Replica :=
  let ps := livePaths s (pathSetOf s target)
  (List.range ps.length).map fun j => ⟨j, nth ps j 0, false, s.bell⟩
/-- The mark of a flight goes out, if it waits to and may. -/
def sendMark (s : State) (f : Flight) : State :=
  match f.kind with
  | .mark num target 0 _ bs =>
    if markFree s f target bs then
      let rs := replicasOf s target
      putFlight (sendReplicas s target num) { f with kind := .mark num target rs.length rs bs }
    else noteNoPath s target
  | _ => s
/-- `mark` (R412): one for each target that the pass names. -/
def execMark (ce : CReg) (s : State) : Host.Outcome State Fault Refusal :=
  let b := cur s
  let flag := passFlag s false
  let target := fun k => remotePkg (capCursor (readC b ce k))
  let seats := issued s
  let ts := (seats.map target).eraseDups
  demand s (featureFault s 3) <|
    guardPass s (markFault s (.mark ce) ce)
      (let t := retireWith s [] false fun b => raiseFlag b flag 1
       let t := addParts t flag ((List.range ts.length).map fun j =>
         let z := nth ts j 0
         ⟨maskOf fun k => s.sel.seats.getLsbD k && target k == z, [], [],
           .mark ((s.nextMark + j) % 2 ^ 32) z 0 []
             ((seats.filter fun k => target k == z).map fun k => (k, (getSeat b k).batch)), replyDeadline s⟩)
       t.flights.foldl sendMark { t with nextMark := s.nextMark + ts.length })
/-- MARK_DONE (R412, R429): the target's completion has arrived, and the flag falls. -/
def execMarkDone (id : Nat) (s : State) : Host.Outcome State Fault Refusal :=
  match findFlight s id with
  | none => .next s
  | some f =>
    match f.kind with
    | .mark _ _ _ _ _ => .next (endFlight s f)
    | _ => .next s
/-- MARK_TIMEOUT (R412): it ends as no path left does (R388). -/
def execMarkTimeout (id : Nat) (s : State) : Host.Outcome State Fault Refusal :=
  match findFlight s id with
  | none => .next s
  | some f =>
    match f.kind with
    | .mark _ pkg _ _ _ => .next (abortFlight s f .remoteLost (BitVec.ofNat 64 (pkg * 2 ^ 53)))
    | _ => .next s

/-! ## Remote accesses performed here (R401, R402, R428) -/

def answer (s : State) (r : RemoteReq) (vs : List (Word × Word × Bool × Bool)) : State :=
  { s with outbox := s.outbox ++ [.answer r.src r.reqId vs] }
/-- How many values an operation returns. -/
def remoteValues : RemoteOp → Nat
  | .load _ => 1
  | .atomic _ _ xs => xs.length
  | _ => 0
/-- The parts of a set performed on one location, one after another (R169, R428): what each returns, and the last value written,
if any part writes (R167). -/
def atomParts (op : AtomOp) (w : Nat) : Nat → List (Word × Word) → List Word × Option Nat
  | _, [] => ([], none)
  | m, x :: xs =>
    let new := atomNew op w m x.1.toNat x.2.toNat
    let r := atomParts op w (new.getD m) xs
    (BitVec.ofNat 64 m :: r.1, r.2.orElse fun _ => new)
/-- A store byte by byte where its bytes need not be neighbours, else as one. -/
def storeBytes (s : State) (pas : List Nat) (bs : List Byte) (poison : Bool) : State :=
  let p0 := nth pas 0 0
  if nth pas (pas.length - 1) 0 = p0 + (pas.length - 1) then physStore s p0 bs poison
  else (List.range bs.length).foldl (fun s j => physStore s (nth pas j 0) [nth bs j 0] poison) s
/-- A payload granule written into a granted slot is no longer missing (R406). -/
def noteSlotWrite (s : State) (r : RemoteReq) (n : Nat) : State :=
  let inside := fun (g : Nat) => decide (r.va.toNat ≤ g) && decide (g + 16 ≤ r.va.toNat + n)
  let slot := fun (x : PushSlot) => if x.src == r.src then { x with missing := x.missing.filter fun g => !inside g } else x
  { s with pushBufs := s.pushBufs.map fun b => if b.slot == r.slot then { b with slots := b.slots.map slot } else b }
/-- Is a store part of a payload that quarantine discards (R408)? -/
def slotDiscards (s : State) (r : RemoteReq) : Bool :=
  s.pushBufs.any fun b => b.slot == r.slot && b.slots.any fun x =>
    x.src == r.src && x.quarantined && decide (x.va.toNat ≤ r.va.toNat) && decide (r.va.toNat < x.va.toNat + x.len)
/-- The effect of a remote access at its translated bytes, with its answer. -/
def remoteEffect (s : State) (r : RemoteReq) (pas : List Nat) : State :=
  let p0 := nth pas 0 0
  let bs := pas.map fun p => if isMgmt p then 0 else memByte s.mem p
  let poisoned := pas.any fun p => memPoison s.mem p
  match r.op with
  | .load _ =>
    answer s r [(BitVec.ofNat 64 (valueLE (bs.take 8)), BitVec.ofNat 64 (valueLE (bs.drop 8)),
      pas.length == 16 && memTag s.mem p0 && !poisoned, poisoned)]
  | .store d tag poison =>
    let s := if slotDiscards s r then s
      else if tag then physStoreCap s p0 (capOfBytes d true) poison else storeBytes s pas d poison
    answer (noteSlotWrite s r d.length) r []
  | .atomic op w32 xs =>
    let w := atomBits w32
    if poisoned then answer s r (xs.map fun _ => (0, 0, false, true))
    else
      let q := atomParts op w (valueLE bs) xs
      answer (match q.2 with
          | some v => physStore s p0 (bytesLE (w / 8) v) false
          | none => s) r
        (q.1.map fun v => (v, 0, false, false))
  | .combine code size v =>
    answer (storeBytes s pas (bytesLE size (combineE code size (valueLE bs) v.toNat)) poisoned) r []
  | .sret n => answer (returnSlots s p0 r.slot r.va n) r []
  | .exported _ => s
  | .reserve _ => s
/-- Has the translation of an access expired here (R229, R235)? -/
def reqExpired (s : State) (r : RemoteReq) : Bool :=
  match r.expiry with
  | some e => decide (e.toNat ≤ s.bell.toNat)
  | none => false
/-- A remote access that no mark holds: at the frame that its grant gave, back to its issuer (R229), or, in a pool, through its segment
as it stands now (R423), for whose link it may wait (R431). -/
def performRemote (s : State) (r : RemoteReq) : State :=
  match slotSpace s r.slot, r.op with
  | none, .exported _ => s
  | some space, .exported p => noteExport s space r.base.toNat (r.top - r.base).toNat p
  | none, _ => { s with outbox := s.outbox ++ [.grantFault r.src r.reqId 1] }
  | some space, _ =>
    if requestQuarantined s space r.base r.top && !slotDiscards s r then
      answer s r (List.replicate (remoteValues r.op) (0, 0, false, true))
    else if reqExpired s r then
      { s with outbox := s.outbox ++ [.returned r.src r.reqId], returned := s.returned ++ [(r.src, r.reqId, s.bell)] }
    else
      match r.pas.findSome? (poolCheck s) with
      | some (.poolDown lib) => poolWaitFor s (.access r) lib
      | some e => { s with outbox := s.outbox ++ [.grantFault r.src r.reqId (transSub e)] }
      | none => remoteEffect (openViews s (r.pas.map (poolPlace s))) r (r.pas.map (poolPlace s))
/-- Is a mark of a package complete here? Marks to one target complete in issue order, and their numbers have 32 bits (R429). -/
def markComplete (s : State) (src num : Nat) : Bool :=
  match lookupKey s.marksDone src with
  | some last => decide ((last + 2 ^ 32 - num) % 2 ^ 32 < 2 ^ 31)
  | none => false
/-- Was what a package sends sent behind a mark that is not complete here (R429)? -/
def markHolds (s : State) (src : Nat) (behind : Option Nat) : Bool := behind.any fun n => !markComplete s src n
/-- Is an access held behind a mark? -/
def behindMark (s : State) (r : RemoteReq) : Bool := markHolds s r.src r.behind
/-- The accesses that this package has returned and that have not come again (R229); after 200,000 ns their issuer sends them no more
(R401). -/
def stillReturned (s : State) (src : Nat) : List Nat :=
  s.returned.filterMap fun e => if e.1 = src ∧ s.bell.toNat < e.2.2.toNat + 200000 then some e.2.1 else none
/-- Put a mark into the list of those being gathered, which keeps the order in which they came. -/
def putMark (l : List MarkIn) (m : MarkIn) : List MarkIn :=
  if l.any fun x => x.src == m.src && x.num == m.num then l.map fun x => if x.src == m.src && x.num == m.num then m else x
  else l ++ [m]
/-- Perform what was held behind a mark, in order. -/
def releaseHeld (s : State) : State :=
  let go := s.heldIn.filter fun r => !behindMark s r
  go.foldl performRemote { s with heldIn := s.heldIn.filter (behindMark s) }
/-- Does something of a package wait for the link of a pool library (R431)? -/
def waitsForPool (src : Nat) (w : PoolWait) : Bool :=
  match w.who with
  | .task _ _ => false
  | .access r => r.src == src
  | .reserve p => p.src == src
/-- Is everything ahead of a mark performed: no earlier mark of its package is being gathered, no access of it has been returned that
has not come again or waits for a link, and its package's pushes are published, those that queue among them (R229, R412, R429)? What
travels ahead of a replica arrives before it. -/
def aheadDone (s : State) (src num : Nat) : Bool :=
  ((s.marksIn.filter fun m => m.src == src).head?.map (·.num)).all (· == num) && (stillReturned s src).isEmpty && !s.poolWaits.any (waitsForPool src) &&
    s.pushBufs.all fun b => (b.queue.all fun r => r.src != src) && b.slots.all fun x => x.src != src
/-- An access is performed; it is no longer one that has been returned. -/
def performAgain (s : State) (r : RemoteReq) : State :=
  performRemote { s with returned := s.returned.filter fun e => !(e.1 == r.src && e.2.1 == r.reqId) } r

/-- An access arrives (R236, R365, R401, R429): it is refused, held behind a mark, or performed. -/
def arriveAccess (s : State) (r : RemoteReq) : State :=
  match refuses s r.src with
  | some ns => refusalOf s r.src (.request r.reqId) ns
  | none => if behindMark s r then { s with heldIn := s.heldIn ++ [r] } else performAgain s r
/-- REMOTE_ACCESS_PERFORM (R401). -/
def execRemoteAccessPerform (req : RemoteReq) (s : State) : Host.Outcome State Fault Refusal := .next (arriveAccess s req)

/-- The operations that a library combines (R428). -/
def combines? : AtomOp → Bool
  | .add | .and | .or | .xor | .min | .max | .minu | .maxu | .swap => true
  | _ => false
/-- The operation, width and operands of an atomic. -/
def atomicOf (r : RemoteReq) : Option (AtomOp × Bool × List (Word × Word)) :=
  match r.op with
  | .atomic op w32 xs => some (op, w32, xs)
  | _ => none
/-- Are requests a combined set (R428): atomics of one operation and width on one location, each of another package? -/
def combinable (reqs : List RemoteReq) : Bool :=
  match reqs with
  | [] => false
  | r :: _ =>
    match atomicOf r with
    | none => false
    | some (op, w32, _) => combines? op && decide (reqs.map (·.src)).Nodup && reqs.all fun x =>
        x.slot == r.slot && x.va == r.va && x.pas == r.pas && (atomicOf x).any fun a => a.1 == op && a.2.1 == w32
/-- Does nothing stand against performing a request here now? -/
def accessFree (s : State) (r : RemoteReq) : Bool :=
  (refuses s r.src).isNone && !behindMark s r && !reqExpired s r && (r.pas.findSome? (poolCheck s)).isNone &&
    match slotSpace s r.slot with
    | some space => !requestQuarantined s space r.base r.top
    | none => false
/-- The answers of a combined set, part by part (R428). -/
def answerParts (s : State) : List RemoteReq → List (Word × Word × Bool × Bool) → State
  | [], _ => s
  | r :: rs, vs =>
    let n := remoteValues r.op
    answerParts (answer s r (vs.take n)) rs (vs.drop n)
/-- A combined set performed as one access (R428): the location is read once, the parts follow one another, the last value is written,
and each part is answered by the prefix rule of R169. -/
def combinedEffect (s : State) (op : AtomOp) (w32 : Bool) (pas : List Nat) (reqs : List RemoteReq) : State :=
  let w := atomBits w32
  let p0 := nth pas 0 0
  let xs := reqs.flatMap fun r => ((atomicOf r).map (·.2.2)).getD []
  if pas.any fun p => memPoison s.mem p then answerParts s reqs (xs.map fun _ => (0, 0, false, true))
  else
    let q := atomParts op w (valueLE (pas.map fun p => if isMgmt p then 0 else memByte s.mem p)) xs
    answerParts (match q.2 with
      | some v => physStore s p0 (bytesLE (w / 8) v) false
      | none => s) reqs (q.1.map fun v => (v, 0, false, false))
/-- LIBRARY_ATOM_COMBINE (R428): the parts in the order in which they reached the crossbar. A set behind a mark waits whole; one of which
a part cannot be performed here goes as separate accesses, as its parts might have. -/
def execLibraryAtomCombine (reqs : List RemoteReq) (s : State) : Host.Outcome State Fault Refusal :=
  if reqs.any (behindMark s) then .next { s with agenda := s.agenda ++ [.libraryAtomCombine reqs] }
  else if combinable reqs && reqs.all (accessFree s) then
    match reqs.head?.bind fun r => (atomicOf r).map fun a => (r, a) with
    | some (r, op, w32, _) => .next (combinedEffect (openViews s (r.pas.map (poolPlace s))) op w32 (r.pas.map (poolPlace s)) reqs)
    | none => .next s
  else .next (reqs.foldl arriveAccess s)

/-- MARK_REPLICA_ARRIVE (R412, R429): a mark is complete when its last replica has arrived and all that came ahead is performed;
one completion answers it. A replica of a complete mark was sent twice. -/
def execMarkReplicaArrive (src mark path n : Nat) (s : State) : Host.Outcome State Fault Refusal :=
  match refuses s src with
  | some ns => .next (refusalOf s src (.replica mark path) ns)
  | none =>
    if markComplete s src mark then .next s
    else
    let m := (s.marksIn.find? fun m => m.src == src && m.num == mark).getD ⟨src, mark, n, []⟩
    let m := { m with arrived := if m.arrived.contains path then m.arrived else m.arrived ++ [path] }
    let s := { s with marksIn := putMark s.marksIn m }
    if m.n ≤ m.arrived.length && aheadDone s src mark then
      .next (releaseHeld { s with
        marksIn := s.marksIn.filter fun x => !(x.src == src && x.num == mark)
        marksDone := putKey s.marksDone src mark
        outbox := s.outbox ++ [.markComplete src mark] })
    else .next s

end Sys2Proof.Machine
end

