-- ==== Sys2Proof/Machine/LaneInt.lean ====
section
/-!
DEFINITION. The integer lane instructions, their 16-bit forms, the predicate instructions and the modular arithmetic of
the pipes (R69 to R80, R86, R87, R266, R274, R275).
-/
namespace Sys2Proof.Machine

/-! ## Shapes -/

/-- A width-split operation of two sources (R69). -/
def lane2Pass (s : State) (i : Instr) (w : Width) (b a : Src) (d : DReg) (op : Nat → Nat → Nat → Nat) :
    Host.Outcome State Fault Refusal :=
  lanePass s i [a, b] d fun k => lane2 op w (srcV s a k) (srcV s b k)

/-- A width-split operation of one source (R70). -/
def lane1Pass (s : State) (i : Instr) (w : Width) (a : Src) (d : DReg) (op : Nat → Nat → Nat) :
    Host.Outcome State Fault Refusal :=
  lanePass s i [a] d fun k => lane1 op w (srcV s a k)

/-- An accumulating width-split operation (R69, R71). -/
def lane3Pass (s : State) (i : Instr) (w : Width) (b a : Src) (d : DReg) (op : Nat → Nat → Nat → Nat → Nat) :
    Host.Outcome State Fault Refusal :=
  lanePass s i [a, b] d fun k => lane3 op w (readD (cur s) d k) (srcV s a k) (srcV s b k)

/-- An operation on whole registers (R72). -/
def word2Pass (s : State) (i : Instr) (b a : Src) (d : DReg) (op : Word → Word → Word) :
    Host.Outcome State Fault Refusal :=
  lanePass s i [a, b] d fun k => op (srcV s a k) (srcV s b k)

/-- The sources of a 16-bit form: D read plain, A with `.l` when L = 1 (R86). -/
def halfSrcs (l : Bool) (a d : Fin 32) : List Src := [plainSrc (lowV d), ⟨lowV a, if l then .last else .plain⟩]
/-- The widths that the clause gives its 16-bit forms (R33, R86). -/
def halfIw (s : State) : Width := clauseIw (headerW (curHeader s))
def halfFw (s : State) : FWidth := clauseFw (headerW (curHeader s))

/-- A 16-bit form of two operands (R86): D and A to D. -/
def halfPass (s : State) (i : Instr) (l : Bool) (a d : Fin 32) (op : Word → Word → Word) :
    Host.Outcome State Fault Refusal :=
  lanePass s i (halfSrcs l a d) (lowV d) fun k => op (readD (cur s) (lowV d) k) (readD (cur s) (lowV a) k)

/-- `mov` copies poison with the value (R140). -/
def movPass (s : State) (i : Instr) (a : Src) (d : DReg) : Host.Outcome State Fault Refusal :=
  benchPass s i [a] fun b => writeD b d ((issued s).map fun k => (k, srcV s a k, poisonD (cur s) a.reg k))

/-! ## 16-bit forms -/

/-- `mov` (R86); the half-word 0x0000 has no effect (R22, R87). -/
def execMov16 (l : Bool) (a d : Fin 32) (s : State) : Host.Outcome State Fault Refusal :=
  if !l ∧ a = 0 ∧ d = 0 then .next (advance s false)
  else movPass s (.mov16 l a d) ⟨lowV a, if l then .last else .plain⟩ (lowV d)

/-- 16-bit `add` (R86). -/
def execAdd16 (l : Bool) (a d : Fin 32) (s : State) : Host.Outcome State Fault Refusal :=
  halfPass s (.add16 l a d) l a d (lane2 addE (halfIw s))

/-- 16-bit `sub` (R86). -/
def execSub16 (l : Bool) (a d : Fin 32) (s : State) : Host.Outcome State Fault Refusal :=
  halfPass s (.sub16 l a d) l a d (lane2 subE (halfIw s))

/-- 16-bit `mul` (R86). -/
def execMul16 (l : Bool) (a d : Fin 32) (s : State) : Host.Outcome State Fault Refusal :=
  halfPass s (.mul16 l a d) l a d (lane2 mulE (halfIw s))

/-- 16-bit `and` (R86). -/
def execAnd16 (l : Bool) (a d : Fin 32) (s : State) : Host.Outcome State Fault Refusal :=
  halfPass s (.and16 l a d) l a d fun x y => x &&& y

/-- 16-bit `or` (R86). -/
def execOr16 (l : Bool) (a d : Fin 32) (s : State) : Host.Outcome State Fault Refusal :=
  halfPass s (.or16 l a d) l a d fun x y => x ||| y

/-- 16-bit `xor` (R86). -/
def execXor16 (l : Bool) (a d : Fin 32) (s : State) : Host.Outcome State Fault Refusal :=
  halfPass s (.xor16 l a d) l a d fun x y => x ^^^ y

/-- 16-bit `shl` (R86). -/
def execShl16 (l : Bool) (a d : Fin 32) (s : State) : Host.Outcome State Fault Refusal :=
  halfPass s (.shl16 l a d) l a d (lane2 shlE (halfIw s))

/-- 16-bit `shr` (R86). -/
def execShr16 (l : Bool) (a d : Fin 32) (s : State) : Host.Outcome State Fault Refusal :=
  halfPass s (.shr16 l a d) l a d (lane2 shrE (halfIw s))

/-- 16-bit `sar` (R86). -/
def execSar16 (l : Bool) (a d : Fin 32) (s : State) : Host.Outcome State Fault Refusal :=
  halfPass s (.sar16 l a d) l a d (lane2 sarE (halfIw s))

/-- 16-bit `min` (R86). -/
def execMin16 (l : Bool) (a d : Fin 32) (s : State) : Host.Outcome State Fault Refusal :=
  halfPass s (.min16 l a d) l a d (lane2 minE (halfIw s))

/-- 16-bit `max` (R86). -/
def execMax16 (l : Bool) (a d : Fin 32) (s : State) : Host.Outcome State Fault Refusal :=
  halfPass s (.max16 l a d) l a d (lane2 maxE (halfIw s))

/-- 16-bit `fadd` (R86). -/
def execFadd16 (l : Bool) (a d : Fin 32) (s : State) : Host.Outcome State Fault Refusal :=
  halfPass s (.fadd16 l a d) l a d (flane2 fadd1 (halfFw s))

/-- 16-bit `fsub` (R86). -/
def execFsub16 (l : Bool) (a d : Fin 32) (s : State) : Host.Outcome State Fault Refusal :=
  halfPass s (.fsub16 l a d) l a d (flane2 fsub1 (halfFw s))

/-- 16-bit `fmul` (R86). -/
def execFmul16 (l : Bool) (a d : Fin 32) (s : State) : Host.Outcome State Fault Refusal :=
  halfPass s (.fmul16 l a d) l a d (flane2 fmul1 (halfFw s))

/-- 16-bit `fma`: D ← A × s15 + D (R86). -/
def execFma16 (l : Bool) (a d : Fin 32) (s : State) : Host.Outcome State Fault Refusal :=
  lanePass s (.fma16 l a d) [⟨lowV a, if l then .last else .plain⟩, plainSrc (sReg 15)] (lowV d) fun k =>
    flane3 fma1 (halfFw s) (readD (cur s) (lowV d) k) (readD (cur s) (lowV a) k) (readD (cur s) (sReg 15) k)

/-! ## Integer lanes -/

/-- `add` (R69). -/
def execAdd (w : Width) (b a : Src) (d : DReg) (s : State) : Host.Outcome State Fault Refusal :=
  lane2Pass s (.add w b a d) w b a d addE

/-- `sub` (R69). -/
def execSub (w : Width) (b a : Src) (d : DReg) (s : State) : Host.Outcome State Fault Refusal :=
  lane2Pass s (.sub w b a d) w b a d subE

/-- `mul` (R69). -/
def execMul (w : Width) (b a : Src) (d : DReg) (s : State) : Host.Outcome State Fault Refusal :=
  lane2Pass s (.mul w b a d) w b a d mulE

/-- `mulh` (R69). -/
def execMulh (w : Width) (b a : Src) (d : DReg) (s : State) : Host.Outcome State Fault Refusal :=
  lane2Pass s (.mulh w b a d) w b a d mulhE

/-- `min` (R69). -/
def execMin (w : Width) (b a : Src) (d : DReg) (s : State) : Host.Outcome State Fault Refusal :=
  lane2Pass s (.min w b a d) w b a d minE

/-- `max` (R69). -/
def execMax (w : Width) (b a : Src) (d : DReg) (s : State) : Host.Outcome State Fault Refusal :=
  lane2Pass s (.max w b a d) w b a d maxE

/-- `minu` (R69). -/
def execMinu (w : Width) (b a : Src) (d : DReg) (s : State) : Host.Outcome State Fault Refusal :=
  lane2Pass s (.minu w b a d) w b a d (fun _ => minuE)

/-- `maxu` (R69). -/
def execMaxu (w : Width) (b a : Src) (d : DReg) (s : State) : Host.Outcome State Fault Refusal :=
  lane2Pass s (.maxu w b a d) w b a d (fun _ => maxuE)

/-- `shl` (R69). -/
def execShl (w : Width) (b a : Src) (d : DReg) (s : State) : Host.Outcome State Fault Refusal :=
  lane2Pass s (.shl w b a d) w b a d shlE

/-- `shr` (R69). -/
def execShr (w : Width) (b a : Src) (d : DReg) (s : State) : Host.Outcome State Fault Refusal :=
  lane2Pass s (.shr w b a d) w b a d shrE

/-- `sar` (R69). -/
def execSar (w : Width) (b a : Src) (d : DReg) (s : State) : Host.Outcome State Fault Refusal :=
  lane2Pass s (.sar w b a d) w b a d sarE

/-- `rot` (R69). -/
def execRot (w : Width) (b a : Src) (d : DReg) (s : State) : Host.Outcome State Fault Refusal :=
  lane2Pass s (.rot w b a d) w b a d rotE

/-- `bfx` (R71). -/
def execBfx (w : Width) (b a : Src) (d : DReg) (s : State) : Host.Outcome State Fault Refusal :=
  lane2Pass s (.bfx w b a d) w b a d bfxE

/-- `mad`: D ← D + A × B (R69). -/
def execMad (w : Width) (b a : Src) (d : DReg) (s : State) : Host.Outcome State Fault Refusal :=
  lane3Pass s (.mad w b a d) w b a d fun w d a b => addE w d (mulE w a b)

/-- `bfi` (R71). -/
def execBfi (w : Width) (b a : Src) (d : DReg) (s : State) : Host.Outcome State Fault Refusal :=
  lane3Pass s (.bfi w b a d) w b a d bfiE

/-- `abs` (R69). -/
def execAbs (w : Width) (a : Src) (d : DReg) (s : State) : Host.Outcome State Fault Refusal :=
  lane1Pass s (.abs w a d) w a d absE

/-- `neg` (R69). -/
def execNeg (w : Width) (a : Src) (d : DReg) (s : State) : Host.Outcome State Fault Refusal :=
  lane1Pass s (.neg w a d) w a d negE

/-- `clz` (R70). -/
def execClz (w : Width) (a : Src) (d : DReg) (s : State) : Host.Outcome State Fault Refusal :=
  lane1Pass s (.clz w a d) w a d clzN

/-- `ctz` (R70). -/
def execCtz (w : Width) (a : Src) (d : DReg) (s : State) : Host.Outcome State Fault Refusal :=
  lane1Pass s (.ctz w a d) w a d ctzN

/-- `popc` (R70). -/
def execPopc (w : Width) (a : Src) (d : DReg) (s : State) : Host.Outcome State Fault Refusal :=
  lane1Pass s (.popc w a d) w a d popN

/-- `brev` (R70). -/
def execBrev (w : Width) (a : Src) (d : DReg) (s : State) : Host.Outcome State Fault Refusal :=
  lane1Pass s (.brev w a d) w a d revN

/-- The poison of a `sel` result (R140): from the operands that supply a selected sub-element. -/
def selPoison (s : State) (p : BitVec 8) (w : Width) (b : DReg) (a : Src) (k : Nat) : Option Nat :=
  let n := 64 / widthBits w
  let fromA := (List.range n).any fun i => p.getLsbD i
  let fromB := (List.range n).any fun i => !p.getLsbD i
  match poisonD (cur s) a.reg k, fromA with
  | some c, true => some c
  | _, _ => if fromB then poisonD (cur s) b k else none

/-- `sel` (R73, R140). -/
def execSel (p : PReg) (w : Width) (b : DReg) (a : Src) (d : DReg) (s : State) : Host.Outcome State Fault Refusal :=
  benchPass s (.sel p w b a d) [a] fun x => writeD x d ((issued s).map fun k =>
    (k, selW w (readP (cur s) p k) (srcV s a k) (readD (cur s) b k), selPoison s (readP (cur s) p k) w b a k))

/-- `cvt.i` (R74). -/
def execCvtI (u : Bool) (wd : Width) (sat : Bool) (ws : Width) (a : Src) (d : DReg) (s : State) :
    Host.Outcome State Fault Refusal :=
  lanePass s (.cvtI u wd sat ws a d) [a] d fun k => cvtIW u sat wd ws (srcV s a k)

/-- `and` (R72). -/
def execAnd (b a : Src) (d : DReg) (s : State) : Host.Outcome State Fault Refusal :=
  word2Pass s (.and b a d) b a d fun x y => x &&& y

/-- `or` (R72). -/
def execOr (b a : Src) (d : DReg) (s : State) : Host.Outcome State Fault Refusal :=
  word2Pass s (.or b a d) b a d fun x y => x ||| y

/-- `xor` (R72). -/
def execXor (b a : Src) (d : DReg) (s : State) : Host.Outcome State Fault Refusal :=
  word2Pass s (.xor b a d) b a d fun x y => x ^^^ y

/-- `andn` (R72). -/
def execAndn (b a : Src) (d : DReg) (s : State) : Host.Outcome State Fault Refusal :=
  word2Pass s (.andn b a d) b a d fun x y => x &&& ~~~y

/-- `perm` (R72). -/
def execPerm (b a : Src) (d : DReg) (s : State) : Host.Outcome State Fault Refusal :=
  word2Pass s (.perm b a d) b a d permW

/-- `not` (R72). -/
def execNot (a : Src) (d : DReg) (s : State) : Host.Outcome State Fault Refusal :=
  lanePass s (.not a d) [a] d fun k => ~~~ srcV s a k

/-- `mov` (R72, R140). -/
def execMov (a : Src) (d : DReg) (s : State) : Host.Outcome State Fault Refusal := movPass s (.mov a d) a d

/-- `pack` (R75). -/
def execPack (w : Width) (b a : Src) (d : DReg) (s : State) : Host.Outcome State Fault Refusal :=
  word2Pass s (.pack w b a d) b a d (packW w)

/-- `unpack` (R75). -/
def execUnpack (w : Width) (h : Bool) (a : Src) (d : DReg) (s : State) : Host.Outcome State Fault Refusal :=
  lanePass s (.unpack w h a d) [a] d fun k => unpackW w h (srcV s a k)

/-! ## Constants -/

/-- `li` (R76). -/
def execLi (i : BitVec 16) (d : DReg) (s : State) : Host.Outcome State Fault Refusal :=
  lanePass s (.li i d) [] d fun _ => liW i

/-- `lih` at position 1 (R76). -/
def execLih1 (i : BitVec 16) (d : DReg) (s : State) : Host.Outcome State Fault Refusal :=
  lanePass s (.lih1 i d) [] d fun k => lihW 1 i (readD (cur s) d k)

/-- `lih` at position 2 (R76). -/
def execLih2 (i : BitVec 16) (d : DReg) (s : State) : Host.Outcome State Fault Refusal :=
  lanePass s (.lih2 i d) [] d fun k => lihW 2 i (readD (cur s) d k)

/-- `lih` at position 3 (R76). -/
def execLih3 (i : BitVec 16) (d : DReg) (s : State) : Host.Outcome State Fault Refusal :=
  lanePass s (.lih3 i d) [] d fun k => lihW 3 i (readD (cur s) d k)

/-- `lih` at position 0 (R76). -/
def execLih0 (i : BitVec 16) (d : DReg) (s : State) : Host.Outcome State Fault Refusal :=
  lanePass s (.lih0 i d) [] d fun k => lihW 0 i (readD (cur s) d k)

/-- `addi` (R77). -/
def execAddi (w : Width) (i : BitVec 10) (a d : DReg) (s : State) : Host.Outcome State Fault Refusal :=
  lanePass s (.addi w i a d) [plainSrc a] d fun k =>
    lane1 (fun w x => addE w x (wrap w i.toInt)) w (readD (cur s) a k)

/-! ## Predicates -/

/-- `cmp` (R78). -/
def execCmp (c : ICond) (b a : Src) (w : Width) (p : PReg) (s : State) : Host.Outcome State Fault Refusal :=
  predPass s (.cmp c b a w p) [a, b] p fun k => cmpP c w (srcV s a k) (srcV s b k)

/-- `cmpi` (R78). -/
def execCmpi (c : ICond) (i : BitVec 8) (a : Src) (w : Width) (p : PReg) (s : State) : Host.Outcome State Fault Refusal :=
  predPass s (.cmpi c i a w p) [a] p fun k => cmpiP c w (srcV s a k) i

/-- `fcmp` (R79). -/
def execFcmp (c : FCond) (b a : Src) (f : FWidth) (p : PReg) (s : State) : Host.Outcome State Fault Refusal :=
  predPass s (.fcmp c b a f p) [a, b] p fun k => fcmpP c f (srcV s a k) (srcV s b k)

/-- `pand` (R80). -/
def execPand (b a d : PReg) (s : State) : Host.Outcome State Fault Refusal :=
  predPass s (.pand b a d) [] d fun k => readP (cur s) a k &&& readP (cur s) b k

/-- `por` (R80). -/
def execPor (b a d : PReg) (s : State) : Host.Outcome State Fault Refusal :=
  predPass s (.por b a d) [] d fun k => readP (cur s) a k ||| readP (cur s) b k

/-- `pxor` (R80). -/
def execPxor (b a d : PReg) (s : State) : Host.Outcome State Fault Refusal :=
  predPass s (.pxor b a d) [] d fun k => readP (cur s) a k ^^^ readP (cur s) b k

/-- `pnot` (R80). -/
def execPnot (a d : PReg) (s : State) : Host.Outcome State Fault Refusal :=
  predPass s (.pnot a d) [] d fun k => ~~~ readP (cur s) a k

/-! ## Modular arithmetic (R259, R266, R274, R275) -/

/-- The modulus s12 and the Montgomery constant s13 (R259). -/
def modQ (s : State) : Nat := (readD (cur s) (sReg 12) 0).toNat
def modQ' (s : State) : Nat := (readD (cur s) (sReg 13) 0).toNat

def addQ (q a b : Nat) : Nat := (if q ≤ a + b then a + b - q else a + b) % 2 ^ 64
def subQ (q a b : Nat) : Nat := (if b ≤ a then a - b else a + 2 ^ 64 - b + q) % 2 ^ 64
/-- The lazy Montgomery product, exact (R259). -/
def lazyQ (q q' a b : Nat) : Nat := (a * b + a * b % 2 ^ 64 * q' % 2 ^ 64 * q) / 2 ^ 64
def montQ (q q' a b : Nat) : Nat :=
  let u := lazyQ q q' a b
  (if q ≤ u then u - q else u) % 2 ^ 64
/-- `mred` (R266). -/
def mredQ (q a b : Nat) : Nat := if q = 0 then 0 else (b % 2 ^ 48 * 2 ^ 48 + a % 2 ^ 48) % q

/-- A modular operation on two sources; MODARITH is required (R44, R274). -/
def modPass (s : State) (i : Instr) (b a : Src) (d : DReg) (op : Nat → Nat → Nat) : Host.Outcome State Fault Refusal :=
  demand s (featureFault s 1)
    (word2Pass s i b a d fun x y => BitVec.ofNat 64 (op x.toNat y.toNat))

/-- `modadd` (R274). -/
def execModadd (b a : Src) (d : DReg) (s : State) : Host.Outcome State Fault Refusal :=
  modPass s (.modadd b a d) b a d (addQ (modQ s))

/-- `modsub` (R274). -/
def execModsub (b a : Src) (d : DReg) (s : State) : Host.Outcome State Fault Refusal :=
  modPass s (.modsub b a d) b a d (subQ (modQ s))

/-- `modmul` (R274). -/
def execModmul (b a : Src) (d : DReg) (s : State) : Host.Outcome State Fault Refusal :=
  modPass s (.modmul b a d) b a d (montQ (modQ s) (modQ' s))

/-- `mred` (R266). -/
def execMred (b a : Src) (d : DReg) (s : State) : Host.Outcome State Fault Refusal :=
  modPass s (.mred b a d) b a d (mredQ (modQ s))

/-- A butterfly on the pair D, D + 1 with the twiddle A (R275). -/
def butterflyPass (s : State) (i : Instr) (a : Src) (d : DReg) (op : Nat → Nat → Nat → Nat × Nat) :
    Host.Outcome State Fault Refusal :=
  demand s (featureFault s 1)
    (benchPass s i [a] fun b =>
      let r := fun k => op (readD (cur s) d k).toNat (readD (cur s) d.succ k).toNat (srcV s a k).toNat
      writeD (writeD b d ((issued s).map fun k => (k, BitVec.ofNat 64 (r k).1, none)))
        d.succ ((issued s).map fun k => (k, BitVec.ofNat 64 (r k).2, none)))

/-- `nttbf` (R275). -/
def execNttbf (a : Src) (d : DReg) (s : State) : Host.Outcome State Fault Refusal :=
  butterflyPass s (.nttbf a d) a d fun x y w =>
    let t := montQ (modQ s) (modQ' s) y w
    (addQ (modQ s) x t, subQ (modQ s) x t)

/-- `inttbf` (R275). -/
def execInttbf (a : Src) (d : DReg) (s : State) : Host.Outcome State Fault Refusal :=
  butterflyPass s (.inttbf a d) a d fun x y w =>
    (addQ (modQ s) x y, montQ (modQ s) (modQ' s) (subQ (modQ s) x y) w)

end Sys2Proof.Machine
end

