-- ==== Sys2Proof/Machine/Matrix.lean ====
section
/-!
DEFINITION. The matrix unit (R252 to R272, R276): products of register fragments, tiles to and from the window, and the
team tile product.
-/
namespace Sys2Proof.Machine

/-! ## Register products (R256 to R260) -/

/-- The product of the issued seats' fragments into a tile. -/
def fragProduct (s : State) (e : MatElem) (a b : Src) (sc : Nat → Nat → FVal) (t : Tile) : Tile :=
  let bench := cur s
  let x := fun (r : Src) (k : Nat) => (readD bench r.reg k, readD bench r.reg.succ k)
  updTile t (bothIssued s.sel.seats) fun i j acc =>
    chunksUpdate e acc ((List.range (fragK e / 8)).map fun c => (List.range 8).map fun m =>
      (fragElem e (x a i).1 (x a i).2 (8 * c + m), fragElem e (x b j).1 (x b j).2 (8 * c + m))) (sc i j)
/-- A pass that changes tiles and raises its flag until the unit has finished (R258, R276). -/
def matrixPass (s : State) (i : Instr) (srcs : List Src) (feature : Option Nat) (go : State → State) :
    Host.Outcome State Fault Refusal :=
  demand s (feature.bind (featureFault s)) <|
    demand s (accFault s) <|
      let flag := passFlag s false
      guardPass s (useFault s (usesOf i))
        (addFlight (retireWith (go s) srcs false fun b => raiseFlag b flag 1) flag s.sel.seats (.matrix false))
/-- Use bits of a pair (R256). -/
def pairSrc (e : MatElem) (a : Src) : List Src := if matBits e = 16 then srcAll a (pair a.reg) else [a]
/-- `mma` (R256, R257). -/
def execMma (fmt : MmaFmt) (b a : Src) (t : Fin 16) (s : State) : Host.Outcome State Fault Refusal :=
  let e := mmaElem fmt
  matrixPass s (.mma fmt b a t) (pairSrc e a ++ pairSrc e b) none fun s =>
    putTile s s.sel.core t.val (fragProduct s e a b (fun _ _ => unitV) (getTile s s.sel.core t.val))
/-- The scale byte of a seat (R255). -/
def fragScale (s : State) (b : Src) (k place : Nat) : FVal := scaleV (elem (readD (cur s) b.reg.succ k) place 8)
/-- `mmas` (R256, R257). -/
def execMmas (fmt : MmasFmt) (b a : Src) (p : BitVec 2) (t : Fin 16) (s : State) : Host.Outcome State Fault Refusal :=
  matrixPass s (.mmas fmt b a p t) [a, b] (some 2) fun s =>
    putTile s s.sel.core t.val
      (fragProduct s (mmasElem fmt) a b
        (fun i j => fmulV (fragScale s b i (2 * p.toNat)) (fragScale s b j (2 * p.toNat + 1)))
        (getTile s s.sel.core t.val))
/-- The modular pair of an element (R260). -/
def modPair (lo hi : Tile) (i j : Nat) : Nat := tileElem lo i j + tileElem hi i j * 2 ^ 48
/-- The poisoned elements of a pair of tiles among the updated ones reach both halves (R260). -/
def pairPoison (m : SeatMask) (lo hi : Tile) : List Nat :=
  (List.range 1024).filter fun e => bothIssued m (e / 32) (e % 32) && (lo.poison.contains e || hi.poison.contains e)
/-- `mmod` (R260). -/
def execMmod (b a : Src) (t : Fin 16) (s : State) : Host.Outcome State Fault Refusal :=
  matrixPass s (.mmod b a t) [a, b] (some 1) fun s =>
    let lo := getTile s s.sel.core t.val
    let hi := getTile s s.sel.core (t.val + 1)
    let m := s.sel.seats
    let v := fun (i j : Nat) =>
      (modPair lo hi i j + lazyQ (modQ s) (modQ' s) (srcV s a i).toNat (srcV s b j).toNat) % 2 ^ 96
    let ps := pairPoison m lo hi
    let lo' := updTile lo (bothIssued m) fun i j _ => (v i j % 2 ^ 48, false)
    let hi' := updTile hi (bothIssued m) fun i j _ => (v i j / 2 ^ 48, false)
    putTile (putTile s s.sel.core t.val { lo' with poison := (lo.poison ++ ps).eraseDups }) s.sel.core (t.val + 1)
      { hi' with poison := (hi.poison ++ ps).eraseDups }
/-- `aclr` (R261). -/
def execAclr (t : Fin 16) (s : State) : Host.Outcome State Fault Refusal :=
  demand s (accFault s) <| .next (retireWith (putTile s s.sel.core t.val Tile.zero) [] false id)

/-! ## Tiles and the window (R262 to R265) -/

/-- Bytes of an element in memory (R263). -/
def tileBytes : TileFmt → Nat
  | .raw => 8
  | .f32 => 4
  | .s32 => 4
  | .bf16 => 2
  | .f16 => 2
  | _ => 1
def tileFloat : TileFmt → Option FFmt
  | .f32 => some fmt32
  | .bf16 => some fmtBf16
  | .f16 => some fmt16
  | .e4m3 => some fmtE4M3
  | .e5m2 => some fmtE5M2
  | _ => none
/-- Conversion into a tile (R264). -/
def aldElem (fmt : TileFmt) (x : Nat) : Nat :=
  match tileFloat fmt with
  | some f => fencode fmt48 .rne (fdecode f x)
  | none => match fmt with
    | .s32 => wrap 48 (sx 32 x)
    | _ => x % 2 ^ 48
/-- Conversion out of a tile (R265). -/
def astElem (fmt : TileFmt) (m : RMode) (x : Nat) : Nat :=
  match tileFloat fmt with
  | some f => fencode f m (fdecode fmt48 x)
  | none => match fmt with
    | .s32 =>
      let v := sx 48 x
      wrap 32 (if 2 ^ 31 ≤ v then 2 ^ 31 - 1 else if v < -2 ^ 31 then -2 ^ 31 else v)
    | _ => x
/-- The draw of `ast .sr` for element (i, j) (R65, R265). -/
def astDraw (b : Bench) (i j : Nat) : Nat :=
  ((List.range 10).foldl (fun c _ => philoxRound c)
    (32 * i + j, b.stepCount.toNat % 2 ^ 32, b.stepCount.toNat / 2 ^ 32, 2, b.seed.toNat % 2 ^ 32,
      b.seed.toNat / 2 ^ 32)).1
/-- What a tile row asks (R263). -/
def askRow (fmt : TileFmt) (p : Perm) (a : Access) : Ask := ⟨[p], 32 * tileBytes fmt, .window, 8, 3, a⟩
/-- The rows of a pass of `ald` or `ast` after its checks. -/
def rowPlaces (s : State) (i : Instr) (fmt : TileFmt) (c : CReg) (a : Src) (p : Perm) (acc : Access) :
    Except (List (Nat × OpFault)) (List (Nat × Place) × State) :=
  accessChecks s i c (fun k => addrOf s c (indexOff s a k) k) (askRow fmt p acc) fun _ _ => none
/-- Window addresses of the rows. -/
def rowAddrs (ps : List (Nat × Place)) : List (Nat × Nat) :=
  ps.filterMap fun p => match p.2 with
    | .win a => some (p.1, a)
    | _ => none
/-- The rows at window addresses read into a tile (R264), through the map of team core k. -/
def loadRows (s : State) (task : Task) (k : Nat) (fmt : TileFmt) (rows : List (Nat × Nat)) (t : Tile) : Tile :=
  let n := tileBytes fmt
  let row := fun (i : Nat) => lookupKey rows i
  let bad := rows.flatMap fun r => (List.range 32).filterMap fun j =>
    if (seeWindow s task k (r.2 + n * j) n).poison then some (tileAt r.1 j) else none
  let t' := updTile t (fun i _ => (row i).isSome) fun i j _ =>
    (aldElem fmt (valueLE (winBytes s task k ((row i).getD 0 + n * j) n)), false)
  { t' with
    poison := (t.poison.filter fun e => (row (e / 32)).isNone) ++ bad
    sat := false }
/-- The rows of a pass that R151 holds, and those that it does not. -/
def rowsHeld (s : State) (fmt : TileFmt) (rows : List (Nat × Nat)) : List (Nat × Nat) :=
  rows.filter fun e => winHeld s e.1 e.2 (32 * tileBytes fmt)
def rowsNow (s : State) (fmt : TileFmt) (rows : List (Nat × Nat)) : List (Nat × Nat) :=
  rows.filter fun e => !winHeld s e.1 e.2 (32 * tileBytes fmt)
/-- The parts of a pass of tile rows: those moved now and those held. -/
def rowParts (near far : List (Nat × Nat)) (held : FlightKind) : List FlightPart :=
  let seats := fun (l : List (Nat × Nat)) => maskOf fun k => l.any fun e => e.1 == k
  (if near.isEmpty then [] else [⟨seats near, [], [], .tileRows, 0⟩]) ++ if far.isEmpty then [] else [⟨seats far, [], [], held, 0⟩]
/-- `ald` (R262 to R264). -/
def execAld (fmt : TileFmt) (c : CReg) (a : Src) (t : Fin 16) (s : State) : Host.Outcome State Fault Refusal :=
  demand s (accFault s) <|
    match rowPlaces s (.ald fmt c a t) fmt c a .ld .load with
    | .error fs => .next (takeFaults s fs)
    | .ok (ps, s1) =>
      let flag := passFlag s false
      let near := rowsNow s1 fmt (rowAddrs ps)
      let far := rowsHeld s1 fmt (rowAddrs ps)
      let s2 := putTile s1 s.sel.core t.val
        (loadRows s1 (curTask s1) (curCoreT s1) fmt near (getTile s1 s.sel.core t.val))
      .next (addParts (retireWith s2 [a] false fun b => raiseFlag b flag 1) flag
        (rowParts near far (.stagedRows true fmt t.val (far.map fun e => ⟨e.1, BitVec.ofNat 64 e.2, 32 * tileBytes fmt, 0, false, false, 0, 0, [], []⟩))))
/-- The bytes of row i of a tile as `ast` stores them (R265). -/
def rowBytes (fmt : TileFmt) (m : Nat → RMode) (t : Tile) (i : Nat) : List Byte :=
  (List.range 32).flatMap fun j => bytesLE (tileBytes fmt) (astElem fmt (m j) (tileElem t i j))
/-- Store one row: its bytes, then the poison of its elements (R265). -/
def storeRowBytes (s : State) (task : Task) (k : Nat) (fmt : TileFmt) (a : Nat) (bs : List Byte) (bad : Nat → Bool) : State :=
  let n := tileBytes fmt
  let s := winStore s task k a bs false
  (List.range 32).foldl (fun s j =>
    if bad j then
      (granulesOf (a + n * j) n).foldl (fun s g =>
        let p := winPlace task k g
        onSpad s p.1 fun x => memSetPoison x p.2 true) s
    else s) s
/-- `ast` (R262, R263, R265). -/
def execAst (fmt : TileFmt) (r : Rnd) (c : CReg) (a : Src) (t : Fin 16) (s : State) : Host.Outcome State Fault Refusal :=
  demand s (accFault s) <|
    match rowPlaces s (.ast fmt r c a t) fmt c a .st .store with
    | .error fs => .next (takeFaults s fs)
    | .ok (ps, s1) =>
      let flag := passFlag s false
      let b := cur s
      let tile := getTile s1 s.sel.core t.val
      -- The rows are stored in ascending seat order (R104): all wait if one is held.
      let held := !(rowsHeld s1 fmt (rowAddrs ps)).isEmpty
      let near := if held then [] else rowAddrs ps
      let far := if held then rowAddrs ps else []
      let s1 := settleOver s1 (32 * tileBytes fmt) ps
      let bytes := fun (i : Nat) => rowBytes fmt (fun j => rmodeOf r (astDraw b i j)) tile i
      let bad := fun (i j : Nat) => tile.poison.contains (tileAt i j)
      let s2 := near.foldl (fun s e => storeRowBytes s (curTask s1) (curCoreT s1) fmt e.2 (bytes e.1) (bad e.1)) s1
      let item := fun (e : Nat × Nat) => (⟨e.1, BitVec.ofNat 64 e.2, 32 * tileBytes fmt, valueLE (bytes e.1), false, false,
        ((List.range 32).map fun j => if bad e.1 j then 2 ^ j else 0).sum, 0, [], []⟩ : WinItem)
      .next (addParts
        (retireWith s2 [a] false fun b =>
          raiseFlag (if r = .sr then { b with stepCount := b.stepCount + 1 } else b) flag 1)
        flag (rowParts near far (.stagedRows false fmt t.val (far.map item))))

/-! ## Team tile products (R267 to R271) -/

/-- Does the descriptor break a constraint of R268? -/
def tmmaBad (c : TmmaCmd) : Bool :=
  let k := tmK c
  bitsOf c.q0 31 25 != 0 || bitsOf c.q1 31 25 != 0 || bitsOf c.q2 63 42 != 0 || bitsOf c.q2 29 17 != 0 ||
    bitsOf c.q3 63 57 != 0 || bitsOf c.q3 31 25 != 0 || decide (k < 8) || decide (65536 < k) || k % 8 != 0 ||
    (tmFmt c == 5 && k % 16 != 0) || (tmSC c && k % 32 != 0) || (decide (5 ≤ tmFmt c) && !tmSC c) ||
    (decide (2 ≤ tmFmt c) && decide (tmFmt c ≤ 4) && tmSC c) || (!tmSC c && (tmAScale c != 0 || tmBScale c != 0))
/-- The footprints of a command: start and length of each row, as exact addresses (R268, R269). -/
def tmmaRows (c : TmmaCmd) : List (Int × Nat) :=
  let o := Int.ofNat c.origin.toNat
  let w := matBits (tmElem c)
  let at_ := fun (a : Nat) => o + Int.ofNat a
  (List.range 64).map (fun r => (at_ (tmAAddr c + r * tmAStride c), tmK c * w / 8)) ++
    (List.range (tmK c)).map (fun k => (at_ (tmBAddr c + k * tmBStride c), 64 * w / 8)) ++
    if tmSC c then
      (List.range 64).map (fun r => (at_ (tmAScale c + r * (tmK c / 32)), tmK c / 32)) ++
        (List.range 64).map fun j => (at_ (tmBScale c + j * (tmK c / 32)), tmK c / 32)
    else []
/-- The checks of a command after its operands (R269). -/
def tmmaFault (s : State) (c : TmmaCmd) : Option OpFault :=
  if tmmaBad c then some (plainFault 0x15 2)
  else
    match (if tmSC c then featureFault s 2 else none) with
    | some f => some f
    | none =>
      match capChecks s c.cap [.ld] (capCursor c.cap) with
      | some f => some f
      | none =>
        match boundsFault c.cap (tmmaRows c) with
        | some f => some f
        | none =>
          (tmmaRows c).findSome? fun r =>
            let a : Word := BitVec.ofInt 64 r.1
            if hasPerm c.cap .remote then some (capFault 0x11 2 c.cap a)
            else (winFault s a.toNat r.2).map (winFaultAt c.cap a)
/-- The command that the lowest issued seat builds. -/
def tmmaCmdOf (s : State) (c : CReg) (q : Src) (t : Nat) : TmmaCmd :=
  let b := cur s
  let k := lowestSeat s.sel.seats
  let w := fun (i : Nat) => readD b (q.reg.plus i) k
  let cap := readC b c k
  let order := (tmmaOf s s.sel.core b.task).foldl (fun n e => max n (e.2.order + 1)) 0
  ⟨w 0, w 1, w 2, w 3, capCursor cap, cap, t, false, 0, order⟩
/-- `tmma` (R267, R269, R270): one command from the lowest issued seat; only that seat can fault. -/
def execTmma (c : CReg) (q : Src) (t : Fin 16) (s : State) : Host.Outcome State Fault Refusal :=
  demand s (featureFault s 5) <|
    demand s (accFault s) <|
      let low := lowestSeat s.sel.seats
      let cmd := tmmaCmdOf s c q t.val
      let flag := passFlag s false
      guardPass s (fun k =>
          if k = low then (useFault s (usesOf (.tmma c q t)) k).orElse fun _ => tmmaFault s cmd else none)
        (let s1 := if tmARR cmd then registerCopy s (cur s).task (tmGroup cmd) else s
         addFlight (retireWith s1 (srcAll q (quad q.reg)) false fun b => raiseFlag b flag 1) flag (seatBit low)
          (.tmma cmd))
end Sys2Proof.Machine
end

