-- ==== Sys2Proof/Machine/Plan.lean ====
section
/-!
DEFINITION. Passes: what a bench's next pass does, when it may begin, which bench a pipe takes, and the beginning of a pass (R31
to R37, R127 to R132, R178, R181, R189, R254, R310).
-/
namespace Sys2Proof.Machine

/-! ## A pass -/

/-- What the next pass of a bench does (R32, R35, R43). -/
inductive PassKind where
  /-- a clause without instructions (R32) -/
  | empty
  /-- CLAUSE_FORM with its sub-code and the word there (R35) -/
  | form (sub : Nat) (word : Nat)
  /-- the fetch fails -/
  | fetch (f : OpFault)
  /-- a word that is no instruction -/
  | illegal (word : Nat) (k : IllegalKind)
  | instr (i : Instr)
  /-- a missed promise is delivered (R181) -/
  | missed (m : Miss)
  deriving DecidableEq, Repr

/-- A pass that the bench could begin: its seats, whether it begins a clause, that clause's header word, the address and
length of the instruction, and the state after the fetch. -/
structure Pass where
  seats : SeatMask
  start : Bool
  hdr : Word
  hdrWord : Word32
  pc : Word
  len : Nat
  kind : PassKind
  st : State

/-- Does a pass read a header: its own clause's, or one whose fields are illegal (R43, R127)? -/
def Pass.readsHeader (p : Pass) : Bool :=
  p.start || match p.kind with
    | .illegal _ .header => true
    | _ => false

/-- What the choice of a bench finds. -/
inductive Plan where
  /-- no eligible seat, or the bench does not run -/
  | none
  /-- it must wait -/
  | wait
  /-- it waits for room in the task's hold (R310) -/
  | room
  | pass (p : Pass)

def illegalOf : DecodeErr → IllegalKind
  | .unassigned => .unassigned
  | .field => .field
  | .header => .header

/-! ## Room in the hold (R189, R310) -/

/-- The bytes that a load, a store or an atomic reaches for a seat: the capability, the exact address and the size. -/
def accessForm (s : State) (i : Instr) (seat : Nat) : Option (CReg × Int × Nat) :=
  let at_ := fun (c : CReg) (off : Int) (n : Nat) => some (c, addrOf s c off seat, n)
  match i with
  | .ldIndex x sz c _ => at_ c (indexOff s x seat) (widthBytes sz)
  | .ldImm k sz c _ => at_ c (immOff k (widthBytes sz)) (widthBytes sz)
  | .ldpIndex x c _ => at_ c (indexOff s x seat) 16
  | .ldpImm k c _ => at_ c (immOff k 8) 16
  | .ldcIndex x c _ => at_ c (indexOff s x seat) 16
  | .ldcImm k c _ => at_ c (immOff k 16) 16
  | .stIndex x sz c _ => at_ c (indexOff s x seat) (widthBytes sz)
  | .stImm k sz c _ => at_ c (immOff k (widthBytes sz)) (widthBytes sz)
  | .stpIndex x c _ => at_ c (indexOff s x seat) 16
  | .stpImm k c _ => at_ c (immOff k 8) 16
  | .stcIndex x c _ => at_ c (indexOff s x seat) 16
  | .stcImm k c _ => at_ c (immOff k 16) 16
  | .atomRelaxed _ b _ w c _ | .atomAcquire _ b _ w c _ | .atomRelease _ b _ w c _ | .atomAcqRel _ b _ w c _ =>
    at_ c (srcV s (plainSrc b) seat).toInt (if w then 4 else 8)
  | _ => none
/-- Does the instruction put what it writes into the hold (R106, R170)? -/
def intoHold (i : Instr) : Bool :=
  let narrow := fun (sc : Scope) => sc == .seat || sc == .bench || sc == .core || sc == .team
  match i with
  | .stIndex _ _ _ _ | .stImm _ _ _ _ | .stpIndex _ _ _ | .stpImm _ _ _ | .stcIndex _ _ _ | .stcImm _ _ _ => true
  | .atomRelaxed _ _ sc _ _ _ | .atomAcquire _ _ sc _ _ _ | .atomRelease _ _ sc _ _ _ | .atomAcqRel _ _ sc _ _ _ => narrow sc
  | _ => false
/-- The bytes that an instruction would put into the hold for a seat. -/
def storeForm (s : State) (i : Instr) (seat : Nat) : Option (CReg × Int × Nat) :=
  if intoHold i then accessForm s i seat else none

/-- The held lines that a pass's stores would touch. -/
def storeLines (s : State) (i : Instr) : List Nat :=
  ((issued s).flatMap fun k =>
    match storeForm s i k with
    | some (c, a, n) =>
      if hasPerm (readC (cur s) c k) .remote ∨ a < Int.ofNat windowEnd ∨ (2 ^ 64 : Int) ≤ a then [] else linesOf a.toNat n
    | none => []).eraseDups

/-- The bytes of held records that an `emit` pass would add (R310). -/
def emitBytes (s : State) (i : Instr) : Nat :=
  match i with
  | .emit _ ce =>
    ((issued s).map fun k =>
      let c := readC (cur s) ce k
      match findObj s 972 (capNum c) with
      | some { data := .emit g e, .. } =>
        match (graphOf s g).edges[e]? with
        | some x => (binNode s g x.2.1).recSize
        | none => 0
      | _ => 0).sum
  | _ => 0

/-- Does the whole hold have room (R310)? -/
def holdRoom (s : State) (i : Instr) : Bool :=
  let t := curTask s
  let fresh := (storeLines s i).filter fun l => !(takenLines s t).contains l
  let add := 64 * fresh.length + emitBytes s i
  add == 0 || decide (takenSize s t + add ≤ 2 ^ (taskNode s t).holdLog)

/-- Does the core part have room (R189)? -/
def coreRoom (s : State) (i : Instr) : Bool :=
  let own := { s with flights := s.flights.filter fun f => f.core == s.sel.core }
  let h := (((taskCore (curTask s) (curCoreT s)).hold.map (·.line)) ++ lateLines own (cur s).task).eraseDups
  let fresh := (storeLines s i).filter fun l => !h.contains l
  fresh.isEmpty || decide (h.length + fresh.length ≤ 256)
/-! ## The plan of a bench -/

/-! ## Waiting for earlier accesses (R151, R170, R194, R208) -/

/-- Is the instruction a release that blocks by its own description, so that its pass waits for what it covers (R194, R208)? The other
releases are performed once that has completed, and hold no seat. -/
def passReleases : Instr → Bool
  | .mbw _ _ => true
  | .send _ _ _ => true
  | .xcall _ _ _ => true
  | .sysc _ _ _ => true
  | _ => false
/-- Does the instruction reach memory or the window, so that an acquire holds it back (R170)? -/
def passAccesses (i : Instr) : Bool :=
  (longOf i 1).isSome || passReleases i || match i with
    | .emit _ _ => true
    | _ => false
/-- Must a seat's access wait for a store or an atomic of its own that is still to be made on the same bytes outside the window (R104,
R193)? One through a REMOTE capability may touch any of them. -/
def behindLate (s : State) (i : Instr) (k : Nat) : Bool :=
  let late := (heldItems s k).filter fun x => decide (windowEnd ≤ x.addr.toNat)
  !late.isEmpty && match accessForm s i k with
    | some (c, a, n) => hasPerm (readC (cur s) c k) .remote ||
        late.any fun x => decide (Int.ofNat x.addr.toNat < a + Int.ofNat n) && decide (a < Int.ofNat (x.addr.toNat + x.size))
    | none => false
/-- Must a seat's group instruction wait for its own departure from that group (R114, R208)? -/
def behindLeave (s : State) (i : Instr) (k : Nat) : Bool :=
  let group := match i with
    | .join g | .leave g | .arrive g | .waitb g | .bar g => some g.val
    | _ => none
  match group with
  | some g => (seatFlights s s.sel.core s.sel.slot k).any fun f => match f.kind with
      | .arrival _ h true _ => h == g
      | _ => false
  | none => false
/-- An atomic of acquire order that has not returned (R170). -/
def acquiring (f : Flight) : Bool :=
  match f.kind with
  | .remoteLoad _ _ _ acq => acq
  | .stagedAtom _ _ _ ord _ _ => isAcquire ord
  | _ => false
/-- The window bytes that a record touches, by issued seat: address and size. -/
def windowTouched (s : State) (i : Instr) : List (Int × Nat) :=
  match i with
  | .emit a ce => (issued s).map fun k => (Int.ofNat (srcV s a k).toNat, (emitBytes s (.emit a ce)) / (issued s).length)
  | _ => []
/-- Must the pass wait for accesses made before it? -/
def orderHeld (s : State) (i : Instr) : Bool :=
  let core := s.sel.core
  let slot := s.sel.slot
  (passReleases i && (issued s).any fun k => !accessesDone s core slot k) ||
  (passAccesses i && (issued s).any fun k => (seatFlights s core slot k).any acquiring) ||
  ((issued s).any fun k => behindLate s i k || behindLeave s i k) ||
  (windowTouched s i).any fun x =>
    decide (0 ≤ x.1) && decide (x.1 < Int.ofNat windowEnd) && (issued s).any fun k => winHeld s k x.1.toNat x.2

/-- May an instruction's pass begin (R31, R132, R151, R170, R178, R189, R208, R254, R310)? -/
def admission (s : State) (core slot : Nat) (p : Pass) (i : Instr) : Plan :=
  let b := getBench s core slot
  let n := (seatsOf p.seats).length
  let flag := (longOf i n).map fun x => (headerFlag p.hdrWord.toNat x.1, x.2)
  let fits := match flag with
    | some (f, k) => flagFits b f k
    | none => true
  let s' := selectPass s core slot p.seats p.pc p.len
  if !fits || !regsReady s core slot p.seats i || tileBusy s core (tilesOf i) then .wait
  else if queuePlaces i n ≠ 0 ∧ 128 < queueUsed s core + queuePlaces i n then .wait
  else if slot = 64 then .pass p
  else if orderHeld s' i then .wait
  else if !holdRoom s' i then .room
  else if !coreRoom s' i then .wait
  else .pass p

/-- What stands at the address after a header, or at the address where the seats stand. -/
def kindAt (f : Fetched) : PassKind :=
  if f.len = 2 then .instr (decode16 f.word)
  else
    match decode32 f.word with
    | .ok i => .instr i
    | .error e => .illegal f.word (illegalOf e)

/-- Finish a plan once the word at the instruction is known. -/
def planWord (s : State) (core slot : Nat) (p : Pass) (f : Fetched) : Plan :=
  let p := { p with len := f.len, kind := kindAt f }
  match p.kind with
  | .instr i => admission s core slot p i
  | _ => .pass p

/-- The plan at a header (R29, R32, R43): a header whose own fields are illegal waits for its flags too. -/
def planHeader (s : State) (core slot : Nat) (p : Pass) (f : Fetched) : Plan :=
  if !waitClear (getBench s core slot) f.word then .wait
  else
    match decode32 f.word with
    | .error _ => .pass { p with len := 4, kind := .illegal f.word .header }
    | .ok _ =>
      let p := { p with start := true, hdr := p.pc, hdrWord := BitVec.ofNat 32 f.word, pc := p.pc + 4 }
      match fetchAt p.st p.pc with
      | .error e => .pass { p with kind := .fetch e }
      | .ok (g, st) =>
        if g.isHeader then .pass { p with len := 0, kind := .empty, st := st }
        else planWord s core slot { p with st := st } g

/-- The seats of the base set at an address and, inside a clause, with the lowest recorded header (R129). -/
def seatsAt (b : Bench) (pc : Word) (atHeader : Bool) : List Nat :=
  let l := (baseSeats b).filter fun k => (getSeat b k).pc == pc
  if atHeader then l
  else
    let h := lowestWord (l.map fun k => (getSeat b k).hdr)
    let l := l.filter fun k => (getSeat b k).hdr == h
    let x := getSeat b (l.headD 0)
    l.filter fun k => (getSeat b k).must == x.must && (getSeat b k).idx == x.idx

/-! ## Lifts (R130) -/

/-- Does a header stand at an address, as a bench would fetch it? -/
def headerAt (s : State) (core slot : Nat) (pc : Word) : Bool :=
  match fetchAt (selectPass s core slot 0 pc 4) pc with
  | .ok (f, _) => f.isHeader
  | .error _ => false
/-- The lowest PC of the seats among which a bench selects. -/
def basePc (b : Bench) : Word := lowestWord ((baseSeats b).map fun k => (getSeat b k).pc)
/-- The seats that a lift takes: those at the PC and header of the seat skipped most (R130). -/
def liftSet (s : State) (core slot : Nat) : SeatMask :=
  let b := getBench s core slot
  match liftSeat b with
  | none => 0
  | some k =>
    let x := getSeat b k
    let atHeader := headerAt s core slot x.pc
    maskOf fun j =>
      let y := getSeat b j
      eligible y && y.pc == x.pc && (atHeader || (y.hdr == x.hdr && y.idx == x.idx && y.must == x.must))
/-- A lifted set that has come to a header has left its clause, and its hold is over (R35, R130). -/
def liftEnd (s : State) (core slot : Nat) : State :=
  let b := getBench s core slot
  if b.lifted != 0 && headerAt s core slot (basePc b) then putBench s core slot { b with lifted := 0 } else s
/-- A lift that is due is made (R130). -/
def liftStart (s : State) (core slot : Nat) : State :=
  let b := getBench s core slot
  if liftDue b then putBench s core slot { b with lifted := liftSet s core slot } else s
/-- The HLIMIT of a bench's address space, as it stands now (R222). -/
def spaceLimit (s : State) (b : Bench) : Word :=
  match findTask s b.task with
  | some t => (taskSpace s t).hlimit
  | none => b.hlimit
/-- At a pass boundary a bench applies its space's HLIMIT (R222). -/
def newLimit (s : State) (core slot : Nat) : State :=
  let b := getBench s core slot
  if slot = 64 ∨ spaceLimit s b = b.hlimit then s else putBench s core slot { b with hlimit := spaceLimit s b }
/-- The state in which a bench chooses its pass: HLIMIT is applied (R222), a lift that is over has ended and one that is due is
made (R130). -/
def choosing (s : State) (core slot : Nat) : State := liftStart (liftEnd (newLimit s core slot) core slot) core slot

/-! ## The plan -/

/-- The next pass of a bench, apart from the timetable and the choice of its pipe (R127). A bench without an eligible seat takes
none (R131). -/
def planBench (s : State) (core slot : Nat) : Plan :=
  let s := choosing s core slot
  let b := getBench s core slot
  if b.mode ≠ .running ∨ (eligibleSeats b).isEmpty then .none
  else
    match b.misses with
    | m :: _ => .pass ⟨seatBit m.seat, false, 0, 0, 0, 0, .missed m, s⟩
    | [] =>
        let pc := basePc b
        let s0 := selectPass s core slot 0 pc 4
        let all := seatsAt b pc true
        match fetchAt s0 pc with
        | .error e =>
          let l := seatsAt b pc false
          let x := getSeat b (l.headD 0)
          .pass ⟨maskOf fun k => l.contains k, false, x.hdr, x.hdrWord, pc, 4, .fetch e, s⟩
        | .ok (f, st) =>
          if f.isHeader then
            planHeader s core slot ⟨maskOf fun k => all.contains k, false, pc, 0, pc, 4, .empty, st⟩ f
          else
            let l := seatsAt b pc false
            let x := getSeat b (l.headD 0)
            let p : Pass := ⟨maskOf fun k => l.contains k, false, x.hdr, x.hdrWord, pc, f.len, .empty, st⟩
            if x.must ≠ 0 then .pass { p with kind := .form x.must f.word } else planWord s core slot p f

/-- Can the bench begin a pass, apart from the timetable? -/
def couldBegin (s : State) (core slot : Nat) : Bool :=
  match planBench s core slot with
  | .pass _ => true
  | _ => false

/-- Could a bench of a context slot on a pipe begin, apart from the timetable (R314)? -/
def ownerCould (s : State) (core pipe ctx : Nat) : Bool :=
  [2 * pipe, 2 * pipe + 1].any fun k =>
    let b := getBench s core k
    couldBegin s core k &&
      match findTask s b.task with
      | some t => contextSlot s t core == some ctx
      | none => false

/-- The pass that a bench can begin now, the timetable included (R127). -/
def canBegin (s : State) (core slot : Nat) : Option Pass :=
  match planBench s core slot with
  | .pass p =>
    if slot = 64 ∨ !p.readsHeader then some p
    else
      match findTask s (getBench s core slot).task with
      | some t => if ttAdmits s core (slot / 2) t (ownerCould s core (slot / 2)) then some p else none
      | none => none
  | _ => none

/-! ## Which bench (R127, R380) -/

/-- Is the bench inside a clause: the next PC of its selected seats is no header (R127)? -/
def insideClause (s : State) (core slot : Nat) : Bool :=
  match planBench s core slot with
  | .pass p => !p.readsHeader
  | .none => false
  | _ =>
    let s := choosing s core slot
    match fetchAt (selectPass s core slot 0 (basePc (getBench s core slot)) 4) (basePc (getBench s core slot)) with
    | .ok (f, _) => !f.isHeader
    | .error _ => false

/-- Does the bench hold its pipe by N (R34)? The clause is that of the seats that its next pass selects; `yield` has ended the
hold for the seats that issued it (R97). DEDUCED (log 21): where some of the selected seats have, it is ended. -/
def holdsPipe (s : State) (core slot : Nat) : Bool :=
  let b := getBench (choosing s core slot) core slot
  let l := seatsAt b (basePc b) false
  b.mode == .running && insideClause s core slot &&
    headerN (getSeat b (l.headD 0)).hdrWord.toNat && !(l.any fun k => b.nfree.getLsbD k)

/-- The pipe that the open run of a core borrows (R380). -/
def borrowed (s : State) (core : Nat) : Option Nat :=
  if (getCore s core).run.isSome then some (runTarget s core / 2) else none

/-- The bench and pass that a pipe takes next (R127). DESIGN CHOICE (log 106): the other bench also goes first where the current one
stands at a header without having just issued a clause's last instruction. -/
def pipeNext (s : State) (core pipe : Nat) : Option (Nat × Pass) :=
  let c := getCore s core
  let mon := if borrowed s core == some pipe then canBegin s core 64 else none
  match mon with
  | some p => some (64, p)
  | none =>
    let cur := (lookupKey c.pipeCur pipe).getD (2 * pipe)
    let other := if cur = 2 * pipe then 2 * pipe + 1 else 2 * pipe
    let take := fun k => (canBegin s core k).map fun p => (k, p)
    if holdsPipe s core cur then take cur
    else if insideClause s core cur && !c.pipeYield.contains pipe then (take cur).orElse fun _ => take other
    else (take other).orElse fun _ => take cur
/-! ## Beginning a pass -/

/-- Each seat's skip count after the choice of a pass (R130). DESIGN CHOICE (log 22): the pass of a clause without
instructions issues nothing (R32), and the counts of the seats that it takes return to 0 as if it did. -/
def skipCount (seats : SeatMask) (k : Nat) (x : Seat) : Seat :=
  { x with skip := if eligible x && !seats.getLsbD k then min 1023 (x.skip + 1) else 0 }

/-- The seats of a pass enter the clause that it begins (R32, R36). -/
def enterClause (p : Pass) (k : Nat) (x : Seat) : Seat :=
  if p.start && p.seats.getLsbD k then enterSeat p.hdr p.hdrWord x else x

/-- The v registers that an instruction reads outside the operand cache, each once (R141). -/
def vReads (b : Bench) (i : Instr) : List Nat :=
  (((usesOf i).reads ++ (carriedOf i).1).filterMap fun r => match r with
    | .v n => if b.opCache.contains n.val then none else some n.val
    | .s _ => none).eraseDups
/-- A plain read of a cached register makes it the one used last (R141): the fields without use bits too. -/
def refreshReads (b : Bench) (i : Instr) : List Nat :=
  ((usesOf i).reads ++ (carriedOf i).1).foldl (fun c r => cacheUse c (plainSrc r)) b.opCache
/-- The operand cache once a pass has read its plain operands (R141). -/
def cacheAfter (b : Bench) (k : PassKind) : List Nat :=
  match k with
  | .instr i => refreshReads b i
  | _ => b.opCache
/-- The clocks that a pass takes (R128): its seats by the issue cost of its instruction, and the extra clock of an instruction
that reads three or more v registers outside the operand cache (R141). DESIGN CHOICE (log 23): a pass without an instruction
takes one clock. -/
def passClocks (b : Bench) (p : Pass) : Nat :=
  match p.kind with
  | .instr i =>
    let c := issueCost (headerW p.hdrWord.toNat) i
    let whole := match i with
      | .tmma _ _ _ => true
      | .bsave _ _ => true
      | .brest _ _ => true
      | _ => false
    (if whole then c else c * (seatsOf p.seats).length) + if 3 ≤ (vReads b i).length then 1 else 0
  | _ => 1
/-- A bench begins a pass: what happens before the instruction's effect. Whether its stores and atomics are made later a free choice says
(R193). Its mailbox timeouts run (R160), and the clocks that
the pass takes count for its pipe (R128, R314). DESIGN CHOICE: the clocks of the monitor bench count for no pipe's pointer (log 112),
and a header with illegal fields counts as the beginning of its clause (log 114). -/
def beginPass (s : State) (core slot : Nat) (p : Pass) : State :=
  let s := { selectPass p.st core slot p.seats p.pc p.len with passNum := s.passNum + 1 }
  let s := if slot = 64 then s else
    match draw s 2 with
    | (k, s) => { s with sel := { s.sel with late := k == 1 } }
  let b := startTimers s.bell (getBench s core slot)
  let b := { b with
    seats := (List.range 32).map fun k => enterClause p k (skipCount p.seats k (getSeat b k))
    nfree := if p.start then b.nfree &&& ~~~ p.seats else b.nfree
    opCache := cacheAfter b p.kind }
  if slot = 64 then putBench s core slot b
  else
    let pipe := slot / 2
    let s := putBench s core slot b
    let c := ttAfter (getCore s core) pipe p.readsHeader (passClocks b p)
    putCore s core
      { c with pipeCur := putKey c.pipeCur pipe slot, pipeYield := c.pipeYield.filter (· != pipe) }

/-- The fault of a pass as a whole, outside the operand faults. -/
def passInfo (s : State) (p : Pass) (code sub : Nat) (ifa addr resume : Word) (index : Nat) (past : Bool)
    (aux : BitVec 128) : FaultInfo :=
  ⟨s.sel.slot, code, sub, ifa, addr, p.seats, lowestSeat p.seats, resume, index, past, aux, false, s.bell⟩

/-- CLAUSE_FORM (R35, R387): the seats stand at the offending address as if at a header. -/
def clauseFormFault (s : State) (p : Pass) (sub word : Nat) : State :=
  let b := cur s
  let stand := fun k => let x := getSeat b k; if p.seats.getLsbD k then { x with pc := p.pc, hdr := p.pc, idx := 0 } else x
  raiseFault (putCur s { b with seats := (List.range 32).map stand }) (passInfo s p 0x03 sub p.pc 0 p.pc 0 false (BitVec.ofNat 128 word)) false

/-- A fetch that fails (R37, R38, R387). -/
def fetchFailed (s : State) (p : Pass) (f : OpFault) : State :=
  let x := getSeat (cur s) (lowestSeat p.seats)
  raiseFault s
    { passInfo s p f.code f.sub p.pc f.addr x.hdr x.idx false f.aux with auxTag := f.auxTag } f.pool

/-- The header and index at which a bench's next pass stands (R36, R181). -/
def nextPoint (s : State) (core slot : Nat) : Word × Nat :=
  let b := getBench s core slot
  let pc := basePc b
  let x := getSeat b ((seatsAt b pc false).headD 0)
  if headerAt s core slot pc then (pc, 0) else (x.hdr, x.idx)
/-- PROMISE_MISSED (R181, R387): no instruction faulted; the resume point is the bench's next pass. -/
def promiseFault (s : State) (p : Pass) (m : Miss) : State :=
  let b := cur s
  let q := nextPoint s s.sel.core s.sel.slot
  let s := putCur s { b with misses := b.misses.drop 1 }
  raiseFault s
    (passInfo s p 0x33 1 0 0 q.1 q.2 true (m.deadline ++ (m.batch.setWidth 64 : BitVec 64))) false

/-- After a pass: the lifted set ends with its clause, or when no seat of it is eligible (R130). DESIGN CHOICE (log 24): a seat
of the set that blocks while others go on is no longer of it, whether or not it is unblocked during the hold. -/
def afterPass (s : State) (core slot : Nat) (closed : Bool) : State :=
  let b := getBench s core slot
  if b.lifted = 0 then s
  else
    let left := maskOf fun k => b.lifted.getLsbD k && eligible (getSeat b k)
    putBench s core slot { b with lifted := if closed then 0 else left }

end Sys2Proof.Machine
end

