-- ==== Sys2Proof/Machine/Staging.lean ====
section
/-!
DEFINITION. The hub loaders and storers (R278, R298, R299, R303, R305): what they copy between memory, of this package or, behind REMOTE, of
another one (R220, R400), and the allocations of a task, and what a failure of theirs leads to.
-/
namespace Sys2Proof.Machine

/-! ## Failures of the Dean's engines (R303) -/

/-- Staging ends before dispatch (R303): everything is released, the pager is told, the task is parked. -/
def stagingFault (s : State) (t : Task) (va : Word) (sub : Nat) : State :=
  match discardTask s t with
  | (s, t) =>
    match restartFrom s t with
    | (s, t) =>
      let t := { t with phase := .pool, since := s.bell, poolTime := 0, conds := t.conds ++ [.page] }
      sendPager (putTask s t) t { FaultRec.empty s.bell t.requeues with code := 0x20, sub := sub, addr := va }
/-- A loader's page fault: before dispatch as R303 says, afterwards an abort (R307). -/
def loaderFault (s : State) (t : Task) (va : Word) (sub : Nat) : State :=
  match t.phase with
  | .staging _ => stagingFault s t va sub
  | _ => abortTask s t.id (.pageFault va sub)
/-- What a failed translation of the Dean's engines leads to. -/
def engineFault (s : State) (t : Task) (va : Word) (e : TransErr) : State :=
  match e with
  | .poolDown k => poolWait s t.id none k
  | .migrate => s
  | e => loaderFault s t va (transSub e)

/-! ## Loaders (R298, R299) -/

/-- A granule that has been read comes into its allocation with its poison, and its tag if it is moved whole from a 16-byte boundary through
LDC (R299). -/
def putGranule (s : State) (t : Task) (coreT : Nat) (x : RegionDesc) (g : Nat) (va : Word) (bs : List Byte) (tag poisoned : Bool) : State :=
  let c := taskCore t coreT
  let arg := nth (taskNode s t).args x.arg Cap.null
  let cap := transferCap s (taskSpaceNum s t) (capOfBytes bs (va.toNat % 16 == 0 && tag && hasPerm arg .ldc))
  let s := onSpad s c.phys fun m =>
    let m := memStore m (c.base + g) bs poisoned
    if cap.tag && !poisoned then memSetTag m (c.base + g) true else m
  putTask s (putTaskCore t coreT (landed c x.k g))
/-- The loaders and storers of the Dean have asked another package for this (R278, R299, R305, R400). -/
def stageAsked (s : State) (task : Word) (coreT region g : Nat) (store : Bool) : Bool :=
  s.stageReqs.any fun x => x.task == task && x.coreT == coreT && x.region == region && x.granule == g && x.store == store
/-- A request of the Dean's loaders and storers goes to another package, from the die of a task core. -/
def askStage (s : State) (t : Task) (x : StageReq) : State :=
  let body := { x.body with reqId := s.nextReq }
  sendRemote { s with stageReqs := s.stageReqs ++ [{ x with body := body, sent := true }] } (taskCore t x.coreT).phys x.id 1
    (remotePkg x.va) body
/-- Copy one granule from memory into an allocation (R298, R299). A row behind REMOTE stands in another package's memory, which is asked
for it on the remote path (R220, R400). -/
def landGranule (s : State) (t : Task) (coreT region g : Nat) : Except (Word × TransErr) State :=
  let n := taskNode s t
  let c := taskCore t coreT
  match granuleSource n coreT region g with
  | none => .ok s
  | some (x, a) =>
    let va : Word := BitVec.ofInt 64 a
    let sp := taskSpace s t
    let arg := nth n.args x.arg Cap.null
    if hasPerm arg .remote then
      if stageAsked s t.id coreT region g false then .ok s
      else .ok (askStage { s with nextId := s.nextId + 1 } t ⟨s.nextId, t.id, coreT, region, g, va, remoteReq s arg va (.load 16), false, false⟩)
    else
      match translateBytes s c.phys sp sp.hlimit .load va.toNat 16 with
      | .error e => .error (va, e)
      | .ok (pas, s) =>
        .ok (putGranule s t coreT x g va (pas.map fun p => if isMgmt p then 0 else memByte s.mem p) (memTag s.mem (nth pas 0 0))
          (pas.any fun p => memPoison s.mem p))

/-! ## Storers (R305) -/

/-- A row stored across the granules of memory leaves those that it covers with clean bytes clean (R107, R246). -/
def clearCovered (spad : Mem) (pas : List Nat) (from_ va n : Nat) (s : State) : State :=
  if va % 16 = 0 then s
  else
    (List.range (n / 16 - 1)).foldl (fun s k =>
      let o := 16 * k + (16 - va % 16)
      let pa := nth pas o 0
      if isMgmt pa || memPoison spad (alignDown (from_ + o) 16) || memPoison spad (alignDown (from_ + o) 16 + 16) then s
      else { s with mem := memSetPoison s.mem pa false }) s
/-- The parts of n bytes from an address that each lie in one granule of memory: offset and length. -/
def granuleParts (va n : Nat) : List (Nat × Nat) :=
  let m := va % 16
  (List.range (n / 16 + 1)).filterMap fun k =>
    let lo := 16 * k - m
    let hi := min n (16 * (k + 1) - m)
    if lo < hi then some (lo, hi - lo) else none
/-- The request for one part of a row that stands in another package's memory (R305, R400): its bytes, with the poison of the granules that
they come from, or a whole clean granule with its tag, rewritten where it crosses (R360). -/
def storePart (s : State) (t : Task) (coreT : Nat) (x : RegionDesc) (arg : Cap) (from_ : Nat) (row : Word) (p : Nat × Nat) : State :=
  let spad := (getCore s (taskCore t coreT).phys).spad
  let a := from_ + p.1
  let va := row + BitVec.ofNat 64 p.1
  let bs := memBytes spad a p.2
  let poison := memPoison spad (alignDown a 16) || memPoison spad (alignDown (a + p.2 - 1) 16)
  let tag := p.2 == 16 && a % 16 == 0 && va.toNat % 16 == 0 && memTag spad a && hasPerm arg .stc && !poison
  let space := taskSpaceNum s t
  match travel s space (transferCap s space (capOfBytes bs tag)) (remotePkg va) with
  | (y, s) =>
    askStage { s with nextId := s.nextId + 1 } t
      ⟨s.nextId, t.id, coreT, x.k, a, va, remoteReq s arg va (.store (if y.tag then capBytes y else bs) y.tag poison), false, true⟩
/-- Copy one row of a region from an allocation into memory (R305): granule by granule, tags under R299 with STC. A row behind REMOTE
goes to another package on the remote path (R220, R400). -/
def storeRow (s : State) (t : Task) (coreT : Nat) (x : RegionDesc) (r : Nat) : Except (Word × TransErr) State :=
  let n := taskNode s t
  let c := taskCore t coreT
  let va : Word := BitVec.ofInt 64 (regionRow n x coreT r)
  let sp := taskSpace s t
  let arg := nth n.args x.arg Cap.null
  if hasPerm arg .remote then
    .ok ((granuleParts va.toNat x.rowBytes).foldl (fun s p => storePart s t coreT x arg (c.base + x.spad + r * x.rowBytes) va p) s)
  else
  match translateBytes s c.phys sp sp.hspan .store va.toNat x.rowBytes with
  | .error e => .error (va, e)
  | .ok (pas, s) =>
    let spad := (getCore s c.phys).spad
    .ok <| clearCovered spad pas (c.base + x.spad + r * x.rowBytes) va.toNat x.rowBytes <| (List.range (x.rowBytes / 16)).foldl (fun s k =>
      let a := c.base + x.spad + r * x.rowBytes + 16 * k
      let bs := memBytes spad a 16
      let tag := memTag spad a && hasPerm arg .stc && va.toNat % 16 == 0
      let p := memPoison spad a
      let pa := nth pas (16 * k) 0
      if va.toNat % 16 = 0 then
        if (transferCap s (taskSpaceNum s t) (capOfBytes bs tag)).tag && !p then physStoreCap s pa (capOfBytes bs true) false
        else physStore s pa bs p
      else
        -- The granule lies across two granules of memory, and perhaps across two pages.
        (List.range 16).foldl (fun s j => physStore s (nth pas (16 * k + j) 0) [nth bs j 0] p) s) s

/-- The storers' copies of a task, in ascending team core order (R305). -/
def storeRegions (s : State) (t : Task) : Except (Word × TransErr) State :=
  ((List.range t.cores.length).flatMap fun k =>
    (storedRegions (taskNode s t)).flatMap fun x => (List.range x.rows).map fun r => (k, x, r)).foldl
    (fun acc e =>
      match acc with
      | .error x => .error x
      | .ok s => storeRow s t e.1 e.2.1 e.2.2) (.ok s)
/-- A storer's write to an absent page: retirement waits for the pager (R305). -/
def storerWait (s : State) (t : Task) (va : Word) (e : TransErr) : State :=
  match e with
  | .poolDown k => poolWait s t.id none k
  | .migrate => s
  | e =>
    sendPager (putTask s { t with conds := t.conds ++ [.page] }) t
      { FaultRec.empty s.bell t.requeues with code := 0x20, sub := transSub e, addr := va }

/-! ## Completion (R305) -/

/-- Are writes of a task's storers under way to other packages? -/
def storersOut (s : State) (task : Word) : Bool := s.stageReqs.any fun x => x.task == task && x.store
/-- Every storer write has been performed: everything is released, the records are delivered, the completion message goes out (R305,
step 3). -/
def retireRelease (s : State) (t : Task) : State := sendDone (deliverHeld (dropTask (unplace s t) t.id) t) t
/-- The storers write, or send again what waited for a page; when no write is under way to another package, the task retires (R305). -/
def storeOut (s : State) (t : Task) : State :=
  if storersOut s t.id then
    let again := s.stageReqs.filter fun x => x.task == t.id && x.store && !x.sent
    again.foldl (fun s x => askStage { s with stageReqs := s.stageReqs.filter fun y => !(y.id == x.id) } t x) s
  else
    match storeRegions s t with
    | .error (va, e) => storerWait s t va e
    | .ok u => if storersOut u t.id then u else retireRelease u t

/-! ## Answers of other packages -/

def stageReqOf (s : State) (id : Nat) : Option StageReq := s.stageReqs.find? fun x => x.id == id
/-- A request of the loaders and storers is over. -/
def endStage (s : State) (id : Nat) : State := answered { s with stageReqs := s.stageReqs.filter fun x => !(x.id == id) } id 1
/-- A granule that a loader asked another package for lands. -/
def stageLands (s : State) (x : StageReq) (bs : List Byte) (tag poison : Bool) : State :=
  let s := endStage s x.id
  match findTask s x.task with
  | none => s
  | some t =>
    if (taskCore t x.coreT).staging.any fun e => e.region == x.region && e.waiting.contains x.granule then
      match (taskNode s t).regions.find? fun r => r.k == x.region with
      | some r => putGranule s t x.coreT r x.granule x.va bs tag poison
      | none => s
    else s
/-- A storer's write has been performed in another package; after the last one the task retires. -/
def stageStored (s : State) (x : StageReq) : State :=
  let s := endStage s x.id
  match findTask s x.task with
  | none => s
  | some t => if t.phase = .storing ∧ !storersOut s t.id then retireRelease s t else s
/-- A request of the loaders and storers fails: a lost path aborts the task (R388, R402); an absent page is met as one of this package is,
and a storer's write waits for it (R303, R305). -/
def stageFails (s : State) (x : StageReq) (cause : AbortCause) (va : Word) : State :=
  match findTask s x.task, cause with
  | none, _ => endStage s x.id
  | some t, .pageFault _ sub =>
    if x.store then
      let s := answered { s with stageReqs := s.stageReqs.map fun y => if y.id == x.id then { y with sent := false } else y } x.id 1
      if t.conds.contains .page then s else storerWait s t va (.page sub)
    else loaderFault (endStage s x.id) t va sub
  | some t, cause =>
    match coreRec (endStage s x.id) t (taskCore t x.coreT).phys { abortRec s cause with addr := va, aux := va.setWidth 128 } with
    | (r, s) => abortWith s t.id cause r

end Sys2Proof.Machine
end

