-- ==== Sys2Proof/Machine/Control.lean ====
section
/-!
DEFINITION. Clause headers and transfers of control (R29 to R36, R90 to R99): `bra`, `call`, `br.p`, `brx`, `ret`,
`exit`, `yield`, `brk`, `pause`.
-/
namespace Sys2Proof.Machine

/-! ## Headers (R29, R32) -/

/-- A header (R32): where WAIT names no busy flag, the seats that stand at it enter its clause; else they wait. -/
def execClause (n : Bool) (w : ClauseW) (setB setA : BitVec 4) (wait : BitVec 12) (s : State) :
    Host.Outcome State Fault Refusal :=
  let word := ((encode (.clause n w setB setA wait)).map (·.2)).getD 0
  if waitClear (cur s) word then
    let b := mapIssued s (cur s) fun _ x => enterSeat s.sel.pc (BitVec.ofNat 32 word) x
    .next (putCur s { b with nfree := b.nfree &&& ~~~ s.sel.seats })
  else .next s

/-! ## Transfers (R90 to R95) -/

/-- The target of a PC-relative transfer (R91). -/
def relTarget (s : State) (o : BitVec 16) : Word := addInt s.sel.pc (2 * o.toInt)
/-- Each issued seat goes to its own target, or past the instruction where it has none; the clause is closed (R35, R90). -/
def jumpWith (s : State) (srcs : List Src) (target : Nat → Option Word) (eff : Bench → Bench) : State :=
  let b := eff (lastReads (cur s) s.sel.seats srcs)
  freeRows (putCur s (mapIssued s b fun k x =>
    match target k with
    | some a => jumpSeat x a
    | none => pastSeat x s.sel.len true)) s.sel.core s.sel.slot
/-- The address after the instruction. -/
def linkOf (s : State) : Word := s.sel.pc + 4
/-- `bra` (R91). -/
def execBra (o : BitVec 16) (s : State) : Host.Outcome State Fault Refusal :=
  .next (jumpWith s [] (fun _ => some (relTarget s o)) id)
/-- `call` (R91). -/
def execCall (o : BitVec 16) (d : DReg) (s : State) : Host.Outcome State Fault Refusal :=
  guardPass s (useFault s (usesOf (.call o d)))
    (jumpWith s [] (fun _ => some (relTarget s o)) fun b => writeD b d ((issued s).map fun k => (k, linkOf s, none)))
/-- `br.p` (R91): on bit 0 of the predicate, inverted where the form says so. -/
def execBrP (o : BitVec 16) (inv : Bool) (k : PReg) (s : State) : Host.Outcome State Fault Refusal :=
  .next (jumpWith s []
    (fun t => if Bool.xor ((readP (cur s) k t).getLsbD 0) inv then some (relTarget s o) else none) id)
/-- FETCH_FAULT, MISALIGNED of a transfer (R19). -/
def oddTarget (a : Word) : Option OpFault := if a.getLsbD 0 then some (fetchFault 6 a) else none
/-- `ret` (R92). -/
def execRet (a : Src) (s : State) : Host.Outcome State Fault Refusal :=
  guardPass s (fun k => (useFault s (usesOf (.ret a)) k).orElse fun _ => oddTarget (srcV s a k))
    (jumpWith s [a] (fun k => some (srcV s a k)) id)
/-- Does a capability differ from the bench's code capability in more than its cursor (R94, R95)? -/
def crossObject (s : State) (c : Cap) : Bool := !sameButCursor c (cur s).code
/-- Is a cross-object transfer bench-wide (R95)? -/
def benchWide (s : State) (ca : CReg) : Bool :=
  let b := cur s
  ((List.range 32).all fun k => (getSeat b k).state == .exited || s.sel.seats.getLsbD k) &&
    (issued s).all fun k => sameButCursor (readC b ca k) (readC b ca (lowestSeat s.sel.seats))
/-- The checks of `brx` for one seat, after its operands (R93). -/
def brxFault (s : State) (ca : CReg) (seat : Nat) : Option OpFault :=
  let c := readC (cur s) ca seat
  if !c.tag then some (capFault 0x10 1 c 0)
  else if 48 ≤ capE c then some (capFault 0x15 1 c 0)
  else if capSeal c ≠ 0 then some (capFault 0x13 1 c 0)
  else if !hasPerm c .ex then some (capFault 0x12 1 c 0)
  else if benchQuarantine s c then some (capFault 0x14 1 c 0)
  else if ((issued s).any fun k => crossObject s (readC (cur s) ca k)) && !benchWide s ca then
    some (capFault 0x12 2 c 0)
  else oddTarget (capCursor c)
/-- `brx` (R93 to R95): the link is formed before any write; the code capability becomes ca where the transfer crosses, which
empties the operand cache (R141). -/
def execBrx (ca cd : CReg) (s : State) : Host.Outcome State Fault Refusal :=
  let b := cur s
  let link := withCursor b.code (linkOf s)
  let c := readC b ca (lowestSeat s.sel.seats)
  guardPass s (fun k => (useFault s (usesOf (.brx ca cd)) k).orElse fun _ => brxFault s ca k)
    (jumpWith s [] (fun k => some (capCursor (readC b ca k))) fun b =>
      { writeC b cd ((issued s).map fun k => (k, link, none)) with
          code := c, opCache := if sameButCursor c b.code then b.opCache else [] })

/-! ## The end of a thread (R96) -/

/-- A seat leaves its groups: at once where its earlier accesses have completed, else when they have (R96, R194). -/
def exitGroups (s : State) (k : Nat) : State :=
  let th := threadOf s k
  let gs := (curTask s).groups.filterMap fun e => if e.2.members.contains th then some e.1 else none
  gs.foldl (fun s g => leaveSeat s g k) s
/-- The reply right of a seat is dropped (R96, R325). -/
def exitRight (s : State) (k : Nat) : State :=
  let r := (getSeat (cur s) k).right
  dropRight (onSeat s s.sel.core s.sel.slot k fun x => { x with right := none }) r
/-- Every live bit of the seats of a mask is cleared (R137). -/
def clearSeats (b : Bench) (m : SeatMask) : Bench :=
  { b with
    vrows := b.vrows.map fun x => { x with live := x.live &&& ~~~ m }
    crows := b.crows.map fun x => { x with live := x.live &&& ~~~ m } }
/-- `exit` (R96). -/
def execExit (s : State) : Host.Outcome State Fault Refusal :=
  let t := eachSeat s fun s k => exitRight (exitGroups s k) k
  let b := clearSeats (mapIssued t (cur t) fun _ x => { pastSeat x s.sel.len true with state := .exited }) s.sel.seats
  .next (freeRows (putCur t b) s.sel.core s.sel.slot)

/-! ## Waiting and traps (R97 to R99) -/

/-- `yield` (R97): the pipe's next pass goes to the other bench, and the N hold of the issued seats' clause ends. -/
def execYield (s : State) : Host.Outcome State Fault Refusal :=
  let t := advance s false
  let t := putCur t { cur t with nfree := (cur t).nfree ||| s.sel.seats }
  let c := getCore t s.sel.core
  .next (if onMonitor s then t
    else putCore t s.sel.core { c with pipeYield := (s.sel.slot / 2) :: c.pipeYield.filter (· != s.sel.slot / 2) })
/-- `pause` (R98): seats whose time has come go on. -/
def execPause (a : Src) (s : State) : Host.Outcome State Fault Refusal :=
  guardPass s (useFault s (usesOf (.pause a)))
    (retireBlocking s [a] fun k =>
      if (srcV s a k).toNat ≤ s.bell.toNat then none else some (.pause (srcV s a k)))
/-- `brk` (R99): SOFTWARE_TRAP, BREAKPOINT in every issued seat; the record carries the code. -/
def execBrk (hi lo : BitVec 6) (s : State) : Host.Outcome State Fault Refusal :=
  passFault s (auxFault 0x60 1 (hi.toNat * 64 + lo.toNat))

end Sys2Proof.Machine
end

