-- ==== Sys2Proof/Machine/Endp.lean ====
section
/-!
DEFINITION. Endpoint instructions, service calls, records and checkpoints (R320 to R331, R288).
-/
namespace Sys2Proof.Machine

/-! ## Shared parts -/

/-- The party that a seat of the selected bench is. -/
def partyOfSeat (s : State) (k : Nat) : Party := .seat (cur s).task (curCoreT s) (cur s).benchT k
/-- The message of a seat: three words and the capability cB (R320). -/
def messageOf (s : State) (a : Src) (cb : CReg) (k : Nat) : Message :=
  let b := cur s
  ⟨readD b a.reg k, readD b (a.reg.plus 1) k, readD b (a.reg.plus 2) k, readC b cb k⟩
/-- A tagged capability without GLOBAL may not leave (R321, 3). -/
def localFault (s : State) (cb : CReg) (k : Nat) : Option OpFault :=
  let c := readC (cur s) cb k
  if c.tag && !hasPerm c .global then some (capFault 0x12 3 c 0) else none
/-- The badge that a capability to an endpoint or a notification gives (R322). -/
def badgeOf (c : Cap) : Word := capCursor c &&& 0x7FFFFFFFFFFFFFFF
/-- The faults of an instruction on an object (R321): operands, the object capability, the capability sent. -/
def endpFault (s : State) (i : Instr) (ce : CReg) (types : List Nat) (need : Perm) (sent : Option CReg) (k : Nat) :
    Option OpFault :=
  ((useWake s (usesOf i) k).orElse fun _ => objFault s (readC (cur s) ce k) types need).orElse fun _ =>
    sent.bind fun cb => localFault s cb k
/-- Block every issued seat, with its destinations pending. -/
def blockPass (s : State) (srcs : List Src) (ds : List DReg) (cs : List CReg) (w : Nat → Wait) : State :=
  retireBlocking (putCur s (markPass (issued s) ds cs none (cur s))) srcs fun k => some (w k)
/-- Does a seat stand for the pass's s registers (R7)? -/
def isLow (s : State) (k : Nat) : Bool := k == lowestSeat s.sel.seats

/-! ## Messages (R323, R324) -/

/-- `send`: every seat is queued as a sender in ascending order; a waiting receiver takes its message at once (R323). -/
def execSend (cb : CReg) (a : Src) (ce : CReg) (s : State) : Host.Outcome State Fault Refusal :=
  let c := fun k => readC (cur s) ce k
  guardPass s (endpFault s (.send cb a ce) ce [963] .invoke (some cb))
    ((issued s).foldl (fun t k =>
        epSend t (capNum (c k)) ⟨partyOfSeat s k, messageOf s a cb k, badgeOf (c k), false, hasPerm (c k) .stc⟩)
      (blockPass (releaseDom s) (srcAll a (quad a.reg)) [] [] fun k => .send (capNum (c k))))
/-- `recv` (R323, R324). -/
def execRecv (cb : CReg) (a : Src) (ce : CReg) (s : State) : Host.Outcome State Fault Refusal :=
  let c := fun k => readC (cur s) ce k
  guardPass s (endpFault s (.recv cb a ce) ce [963, 964] .ld none)
    ((issued s).foldl (fun t k =>
        let r : EpReceiver := ⟨partyOfSeat s k, hasPerm (c k) .ldc⟩
        if capSeal (c k) = 963 then epRecv t (capNum (c k)) r else ntRecv t (capNum (c k)) r)
      (blockPass s [] (quad a.reg) [cb] fun k =>
        .recv (capSeal (c k)) (capNum (c k)) a.reg cb (hasPerm (c k) .ldc) (badgeOf (c k))))
/-- `xcall`: as `send`, and the seat goes on waiting for a reply (R323). -/
def execXcall (cb : CReg) (a : Src) (ce : CReg) (s : State) : Host.Outcome State Fault Refusal :=
  let c := fun k => readC (cur s) ce k
  guardPass s (endpFault s (.xcall cb a ce) ce [963] .invoke (some cb))
    ((issued s).foldl (fun t k =>
        epSend t (capNum (c k)) ⟨partyOfSeat s k, messageOf s a cb k, badgeOf (c k), true, hasPerm (c k) .stc⟩)
      (blockPass (releaseDom s) (srcAll a (quad a.reg)) (quad a.reg) [cb] fun k =>
        .xcall (capNum (c k)) false a.reg cb (hasPerm (c k) .stc) (hasPerm (c k) .ldc) (isLow s k)))
/-- An instruction in flight of a seat of the selected bench that raises no flag. -/
def addWaiting (s : State) (seat : Nat) (k : FlightKind) : State :=
  { s with
    flights := s.flights ++ [⟨s.nextId, s.nextId, s.sel.core, s.sel.slot, (cur s).task, none, seatBit seat, [], [], [], [], k, 0, []⟩]
    nextId := s.nextId + 1 }
/-- A reply reaches its caller (R321, R323). -/
def sendReply (t : State) (r : ReplyRight) (m : Message) : State :=
  if awaitsReply t r.caller then deliver t r.caller (.reply { m with cap := withTag m.cap (m.cap.tag && r.stc) } 0) else t
/-- One seat's `reply`: it consumes the right; without one it has no effect (R323). A release, it is performed once what it covers has
completed (R208). -/
def replySeat (m : Message) (t : State) (k : Nat) : State :=
  let x := getSeat (cur t) k
  match x.right with
  | none => t
  | some r =>
    let t := onCurSeat t k fun x => { x with right := none }
    if accessesDone t t.sel.core t.sel.slot k then sendReply t r m else addWaiting t k (.reply r m x.batch)
/-- `reply` (R323). -/
def execReply (cb : CReg) (a : Src) (s : State) : Host.Outcome State Fault Refusal :=
  guardPass s (fun k => (useFault s (usesOf (.reply cb a)) k).orElse fun _ => localFault s cb k)
    ((issued s).foldl (fun t k => replySeat (messageOf s a cb k) t k) (retireWith (releaseDom s) (srcAll a (quad a.reg)) false id))
/-- One seat's `notify`: performed once what it covers has completed (R208, R324). -/
def notifySeat (num : Nat) (bits : Word) (t : State) (k : Nat) : State :=
  if accessesDone t t.sel.core t.sel.slot k then notifyBits t num bits
  else addWaiting t k (.notify num bits (getSeat (cur t) k).batch)
/-- `notify` (R324). -/
def execNotify (a : Src) (ce : CReg) (s : State) : Host.Outcome State Fault Refusal :=
  guardPass s (endpFault s (.notify a ce) ce [964] .invoke none)
    ((issued s).foldl (fun t k => notifySeat (capNum (readC (cur s) ce k)) (srcV s a k) t k) (retireWith (releaseDom s) [a] false id))
/-- Does a `poll` find a message or a word? -/
def pollFinds (t : State) (c : Cap) : Bool :=
  if capSeal c = 963 then epHasSender t (capNum c) else (ntState t (capNum c)).1 != 0
/-- One seat's `poll` (R322 to R324): it takes what is there as `recv` does, or finds nothing. -/
def pollSeat (s : State) (cb : CReg) (a : Src) (ce : CReg) (t : State) (k : Nat) : State :=
  let c := readC (cur s) ce k
  if pollFinds t c then
    let t := onCurSeat t k (blockSeat [] (.recv (capSeal c) (capNum c) a.reg cb (hasPerm c .ldc) (badgeOf c)))
    let r : EpReceiver := ⟨partyOfSeat s k, hasPerm c .ldc⟩
    if capSeal c = 963 then epRecv t (capNum c) r else ntRecv t (capNum c) r
  else
    let b := (List.range 4).foldl (fun b i =>
      writeD b (a.reg.plus i) [(k, if i = 3 then 0x8000000000000000 else 0, none)]) (cur t)
    seatPast (putCur t (writeC b cb [(k, Cap.null, none)])) [] k
/-- `poll` (R323). -/
def execPoll (cb : CReg) (a : Src) (ce : CReg) (s : State) : Host.Outcome State Fault Refusal :=
  guardPass s (endpFault s (.poll cb a ce) ce [963, 964] .ld none)
    ((issued s).foldl (pollSeat s cb a ce)
      (putCur s (markPass (issued s) (quad a.reg) [cb] none (cur s))))

/-! ## Service calls (R328) -/

/-- A seat takes its place among those that wait for an entry of a ring. -/
def ringJoin (t : State) (n : Nat) (w : RingWaiter) : State :=
  match ringOf t n with
  | none => t
  | some (hub, log, base, bellN, ws, d) => setObjData t 971 n (.ring hub log base bellN (ws ++ [w]) d)
/-- The bell at the issue clock of the j-th seat of a pass that issues a seat every two clocks of 0.7 GHz (R3, R329, R340). -/
def seatBell (s : State) (j : Nat) : Word := s.bell + BitVec.ofNat 64 (20 * j / 7)
/-- `sysc` (R328): each seat writes its own entry, or waits for one; it goes on with the reply. The pass advances REQ once on each
ring that it names (R353). -/
def execSysc (cb : CReg) (a : Src) (ce : CReg) (s : State) : Host.Outcome State Fault Refusal :=
  let c := fun k => readC (cur s) ce k
  let stamp := fun k => seatBell s ((issued s).findIdx (· == k))
  guardPass s (endpFault s (.sysc cb a ce) ce [971] .invoke (some cb))
    (((issued s).map fun k => capNum (c k)).eraseDups.foldl ringPlace <| (issued s).foldl (fun t k =>
        ringJoin t (capNum (c k))
          ⟨partyOfSeat s k, none, messageOf s a cb k, hasPerm (c k) .stc, hasPerm (c k) .ldc, stamp k, s.sel.core⟩)
      (blockPass (releaseDom { s with bell := seatBell s ((issued s).length - 1) }) (srcAll a (quad a.reg)) (quad a.reg) [cb] fun k =>
        .sysc (capNum (c k)) false 0 a.reg cb (hasPerm (c k) .stc) (hasPerm (c k) .ldc) (isLow s k)))

/-! ## Records (R288, R330) -/

/-- The graph, the edge and the target node of an emit capability (R282, R330). -/
def emitTarget (s : State) (num : Nat) : Option (Nat × Nat × Nat) :=
  match findObj s 972 num with
  | some { data := .emit g e, .. } => ((graphOf s g).edges[e]?).map fun x => (g, e, x.2.1)
  | _ => none
/-- The size of the record that an emit capability sends. -/
def emitSize (s : State) (num : Nat) : Nat :=
  match emitTarget s num with
  | some (g, _, n) => (binNode s g n).recSize
  | none => 0
/-- The checks of the record range (R330, 3). -/
def emitRange (s : State) (ce : CReg) (a : Src) (k : Nat) : Option OpFault :=
  let va := srcV s a k
  ((winFault s va.toNat (emitSize s (capNum (readC (cur s) ce k)))).map fun f => { f with addr := va }).orElse fun _ =>
    if va.toNat % 16 ≠ 0 then some { plainFault 0x11 4 with addr := va } else none
/-- The record at a window address of a task core: bytes and poisoned granules. -/
def recordAt (s : State) (t : Task) (coreT a n : Nat) : BinRec :=
  ⟨winBytes s t coreT a n, (List.range (n / 16)).filter fun g => winPoison s t coreT (a + 16 * g)⟩
/-- Does a record stand before another in emit order (R289): by the first issue clock of its pass, then by its seat? -/
def emitBefore (x y : HeldRec) : Bool := decide (x.pass < y.pass) || (x.pass == y.pass && decide (x.seat ≤ y.seat))
/-- Put a record in its place in emit order, after those of its own seat and pass. -/
def insertRec (r : HeldRec) : List HeldRec → List HeldRec
  | [] => [r]
  | x :: xs => if emitBefore x r then x :: insertRec r xs else r :: x :: xs
/-- Reserve a place in a bin and hold the record of a pass's seat with the task's stores (R288). -/
def reserveRecord (s : State) (id : Word) (coreT g n a pass seat : Nat) : State :=
  match findTask s id with
  | none => s
  | some t =>
    let x := recordAt s t coreT a (binNode s g n).recSize
    let b := binOf s g n
    putTask (putBin s g n { b with reserved := b.reserved + 1 })
      { t with heldRecs := insertRec ⟨g, n, x, pass, seat⟩ t.heldRecs, reserved := t.reserved ++ [(g, n)] }
/-- One seat's `emit`: it reserves a place, or is blocked while the bin is full (R288). -/
def emitSeat (s : State) (a : Src) (ce : CReg) (t : State) (k : Nat) : State :=
  let va := srcV s a k
  match emitTarget t (capNum (readC (cur s) ce k)) with
  | none => seatPast t [a] k
  | some (g, e, n) =>
    if 0 < binFree t g n then seatPast (reserveRecord t (cur s).task (curCoreT s) g n va.toNat s.passNum k) [a] k
    else onCurSeat t k (blockSeat [a] (.emit g e va s.bell s.passNum))
/-- `emit` (R330). -/
def execEmit (a : Src) (ce : CReg) (s : State) : Host.Outcome State Fault Refusal :=
  guardPass s (fun k => (endpFault s (.emit a ce) ce [972] .invoke none k).orElse fun _ => emitRange s ce a k)
    (freeRows ((issued s).foldl (emitSeat s a ce) (cacheReads s [a])) s.sel.core s.sel.slot)

/-! ## Checkpoint (R331) -/

/-- The check that each issued seat makes of CKPTAREA. -/
def ckptSeatFault (s : State) : Option OpFault :=
  let c := (taskNode s (curTask s)).ckptArea
  (ckptFault s (taskSpaceNum s (curTask s)) (taskNode s (curTask s))).map fun f => capFault f.1 f.2 c (capCursor c)
/-- `ckpt`: the seats stand past it and wait; the Dean takes the checkpoint (R331). -/
def execCkpt (s : State) : Host.Outcome State Fault Refusal :=
  guardPass s (fun _ => ckptSeatFault s)
    (let t := curTask s
     let t' := { t with ckptSeats := t.ckptSeats ++ (issued s).map (threadOf s) }
     let s := advance (putTask s t') false
     putCur s (mapIssued s (cur s) fun _ x => { x with state := .blocked .ckpt }))

end Sys2Proof.Machine
end

