-- ==== Sys2Proof/Machine/System.lean ====
section
/-!
DEFINITION. System values and registers, `trap`, and the instructions of the monitor bench (R100, R333 to R339), with the
save and the restore of an image (R371, R372, R394).
-/
namespace Sys2Proof.Machine

/-! ## The bench that registers name (R334) -/

/-- The slot of the bench that the per-bench registers name: on the monitor bench, the target of the open run. -/
def subjectSlot (s : State) : Nat := if onMonitor s then runTarget s s.sel.core else s.sel.slot
def subject (s : State) : Bench := getBench s s.sel.core (subjectSlot s)
def putSubject (s : State) (b : Bench) : State := putBench s s.sel.core (subjectSlot s) b
/-- The task of the bench that the registers name. -/
def subjectTask (s : State) : Task := (findTask s (subject s).task).getD Task.none_

/-! ## System values (R100, R333) -/

/-- The value of a selector of `rd` for a seat; none where the bench has no such value. -/
def rdValue (s : State) (slct : Nat) (seat : Nat) : Option Word :=
  let t := curTask s
  let task := fun (v : Word) => if onMonitor s then none else some v
  match slct with
  | 0 => some (BitVec.ofNat 64 seat)
  | 1 => some (BitVec.ofNat 64 s.sel.slot)
  | 2 => some (BitVec.ofNat 64 (subjectSlot s / 2))
  | 3 => task (BitVec.ofNat 64 (mapCoreT t s.sel.core))
  | 4 => task (BitVec.ofNat 64 (teamN t))
  | 5 => task t.id
  | 6 => some s.bell
  | 7 => some (getCore s s.sel.core).feat
  | 8 => task (BitVec.ofNat 64 t.node)
  | 9 => task (BitVec.ofNat 64 t.graph)
  | 10 => task (BitVec.ofNat 64 (cur s).benchT)
  | 11 => task (BitVec.ofNat 64 t.records.length)
  | 12 => some (BitVec.ofNat 64 (accSat s s.sel.core))
  | 13 => some ((getSeat (cur s) seat).batch.setWidth 64)
  | 14 => task (BitVec.ofNat 64 (taskNode s t).ckptSz)
  | 15 => some (BitVec.ofNat 64 (s.sel.core / Config.coresPerDie * 256 + s.sel.core % Config.coresPerDie))
  | _ => none
/-- PCORE may be read on the monitor bench only (R333). -/
def rdPrivilege (s : State) (i : Instr) (slct : Nat) : Option OpFault := if slct = 15 then monitorOnly s i else none
/-- `rd` (R100, R333); a value that the bench does not have is free. -/
def execRd (slct : BitVec 14) (d : DReg) (s : State) : Host.Outcome State Fault Refusal :=
  demand s (rdPrivilege s (.rd slct d) slct.toNat) <|
    lanePass { s with draws := s.draws + 1 } (.rd slct d) [] d fun k =>
      (rdValue s slct.toNat k).getD (Config.freeValue s.draws)

/-! ## System registers (R334, R335) -/

/-- The value of a system register, whether only the monitor bench may read it; none if it has no such register. -/
def sysRead (s : State) (slct : Nat) : Option (Bool × Word) :=
  let b := subject s
  let t := subjectTask s
  let sp := taskSpace s t
  let c := getCore s s.sel.core
  let tr := c.tregs
  match slct with
  | 0x100 => some (false, b.seed)
  | 0x101 => some (false, b.stepCount)
  | 0x110 => some (false, sp.hbase)
  | 0x111 => some (false, sp.hspan)
  | 0x112 => some (false, b.hlimit)
  | 0x113 => some (true, sp.hoff)
  | 0x118 => some (false, BitVec.ofNat 64 (mailTimeout s t % 2 ^ 41))
  | 0x200 => some (true, tr.tbench.setWidth 64)
  | 0x201 => some (true, tr.tcause.setWidth 64)
  | 0x202 => some (true, tr.tifa)
  | 0x203 => some (true, tr.taddr)
  | 0x204 => some (true, tr.tmask.setWidth 64)
  | 0x205 => some (true, tr.tresume)
  | 0x206 => some (true, tr.tindex.setWidth 64)
  | 0x207 => some (true, tr.tctx)
  | n => if 0x120 ≤ n ∧ n < 0x128 then some (true, nth c.tt (n - 0x120) 0) else none
/-- PRIVILEGE of a read (R334). -/
def srdFault (s : State) (i : Instr) (slct : Nat) : Option OpFault :=
  match sysRead s slct with
  | some (true, _) => monitorOnly s i
  | _ => none
/-- `srd` (R334). -/
def execSrd (slct : BitVec 14) (d : DReg) (s : State) : Host.Outcome State Fault Refusal :=
  demand s (srdFault s (.srd slct d) slct.toNat) <|
    lanePass s (.srd slct d) [] d fun _ => ((sysRead s slct.toNat).map (·.2)).getD 0

/-- PRIVILEGE of a write (R334): SEED is open to any bench, STEP, TRESUME and TINDEX to the monitor bench, and no
instruction writes the others. -/
def swrFault (s : State) (i : Instr) (slct : Nat) : Option OpFault :=
  if slct = 0x100 then none
  else if slct = 0x101 ∨ slct = 0x205 ∨ slct = 0x206 then monitorOnly s i
  else some (illegalFault i 2)
/-- Change the handler registers of the selected core. -/
def onTregs (s : State) (f : TRegs → TRegs) : State :=
  let c := getCore s s.sel.core
  putCore s s.sel.core { c with tregs := f c.tregs }
/-- The effect of a write (R335). -/
def sysWrite (s : State) (slct : Nat) (v : Word) : State :=
  match slct with
  | 0x100 => putSubject s { subject s with seed := v }
  | 0x101 => putSubject s { subject s with stepCount := v }
  | 0x205 => onTregs s fun r => { r with tresume := v }
  | 0x206 => onTregs s fun r => { r with tindex := BitVec.ofNat 5 (min 16 v.toNat) }
  | _ => s
/-- `swr` (R334): the value of the lowest issued seat. -/
def execSwr (slct : BitVec 14) (d : DReg) (s : State) : Host.Outcome State Fault Refusal :=
  let i := Instr.swr slct d
  demand s (swrFault s i slct.toNat) <|
    guardPass s (useFault s (usesOf i))
      (sysWrite (retireWith s [] false id) slct.toNat (readD (cur s) d (lowestSeat s.sel.seats)))

/-! ## Traps (R336) -/

/-- The fault of a `trap`: it resumes past the instruction (R336, R387). -/
def trapInfo (s : State) (code : Nat) : FaultInfo :=
  { slot := s.sel.slot, code := 0x60, sub := 2, ifa := s.sel.pc, addr := 0, mask := s.sel.seats
    seat := lowestSeat s.sel.seats, resume := s.sel.pc + 4, index := 0, past := true, aux := BitVec.ofNat 128 code
    auxTag := false, bell := s.bell }
/-- `trap` (R336): SOFTWARE_TRAP in every issued seat. -/
def execTrap (code : BitVec 14) (s : State) : Host.Outcome State Fault Refusal :=
  .next (raiseFault s (trapInfo s code.toNat) false)

/-! ## The end of a run (R337, R456) -/

/-- A `tret` whose target address is odd does not transfer (R19). -/
def tretFault (s : State) : Option OpFault :=
  let tr := (getCore s s.sel.core).tregs
  if tr.tmask = 0 then none else oddTarget tr.tresume
def execTret (s : State) : Host.Outcome State Fault Refusal :=
  demand s (runOpen s .tret) <| demand s (tretFault s) <| .next (endRun s .tret)
def execHaltPark (s : State) : Host.Outcome State Fault Refusal :=
  demand s (runOpen s .haltPark) <| .next (endRun s .park)
def execHaltFail (s : State) : Host.Outcome State Fault Refusal :=
  demand s (runOpen s .haltFail) <| .next (endRun s .fail)
def execHaltRequeue (s : State) : Host.Outcome State Fault Refusal :=
  demand s (runOpen s .haltRequeue) <| .next (endRun s .requeue)

/-! ## Images (R338) -/

/-- The address of section k in a whole image that begins at an address. -/
def sectionAt (s : State) (core slot : Nat) (pa k : Nat) : Nat :=
  let b := getBench s core slot
  let t := (findTask s b.task).getD Task.none_
  pa + imgSecOff b.rowBudget b.capBudget (imgAcc (taskNode s t) b.benchT) k
/-- Does what a `brest` would read keep the layout and the target's budgets (R338, R368)? -/
def imageOk (s : State) (core slot pa sec : Nat) : Bool :=
  let b := getBench s core slot
  let n := taskNode s ((findTask s b.task).getD Task.none_)
  let ok := fun (pa k : Nat) => imgSectionOk s pa b.rowBudget b.capBudget n.benches (imgAcc n b.benchT) k
  if sec = 0 then [1, 2, 3, 4, 5, 6, 7].all fun k => ok (sectionAt s core slot pa k) k else ok pa sec
/-- The checks of `bsave` and `brest` on cN (R338). -/
def imageFault (s : State) (restore : Bool) (sec : Nat) (c : Cap) : Option OpFault :=
  let a := capCursor c
  let n := imgBytes s (subjectTask s) s.sel.core (subjectSlot s) sec
  ((((capChecks s c (if restore then [.ld, .ldc] else [.st, .stc]) a).orElse fun _ =>
      if !inBounds c (Int.ofNat a.toNat) n then some (capFault 0x11 1 c a) else none).orElse fun _ =>
      if a.toNat % 128 ≠ 0 then some (capFault 0x11 4 c a) else none).orElse fun _ =>
      if a.toNat < windowEnd then some (capFault 0x11 2 c a) else none).orElse fun _ =>
      if restore && !imageOk s s.sel.core (subjectSlot s) a.toNat sec then some (capFault 0x15 3 c a) else none
/-- `bsave` and `brest`: once per pass, by the lowest issued seat; performed when the image section completes. -/
def imagePass (s : State) (i : Instr) (restore : Bool) (sec : Nat) (c : CReg) : Host.Outcome State Fault Refusal :=
  let low := lowestSeat s.sel.seats
  let cap := readC (cur s) c low
  let flag := passFlag s false
  demand s (runOpen s i) <|
    guardPass s (fun k =>
        if k = low then (useFault s (usesOf i) k).orElse fun _ => imageFault s restore sec cap else none)
      (addFlight (retireWith s [] false fun b => raiseFlag b flag 1) flag (seatBit low) (.image restore sec cap))
def execBsave (sec : BitVec 3) (c : CReg) (s : State) : Host.Outcome State Fault Refusal :=
  imagePass s (.bsave sec c) false sec.toNat c
def execBrest (sec : BitVec 3) (c : CReg) (s : State) : Host.Outcome State Fault Refusal :=
  imagePass s (.brest sec c) true sec.toNat c

/-! ## What a `bsave` waits for (R338, R371) -/

/-- Does a flight of the target hold back a `bsave` of a section? A store that waits for a granule to land is one of
R152, and one that does not is made first; a mark is drained as copies are, and so is a push, which the halt has withdrawn unless a grant has come or comes (R409, R412). -/
def savingWaits (s : State) (sec : Nat) (f : Flight) : Bool :=
  let whole := sec == 0 || sec == 1
  match f.kind with
  | .copy _ => whole || sec == 3 || sec == 5
  | .matrix _ => whole || sec == 3 || sec == 5
  | .tileRows => whole || sec == 3 || sec == 5
  | .stagedRows _ _ _ _ => whole || sec == 3 || sec == 5
  | .store => whole
  | .stagedStore _ => whole && !(readyItems s f).isEmpty
  | .stagedAtom _ _ _ _ _ _ =>
    (whole || (sec == 2 && f.vdests.any fun d => !d.isV) || (sec == 3 && f.vdests.any fun d => d.isV)) && !(readyItems s f).isEmpty
  | .push _ _ _ _ _ _ _ => whole || sec == 3 || sec == 5
  | .mark _ _ _ _ _ => whole || sec == 3 || sec == 5
  | .load data caps _ =>
    whole || (sec == 2 && data.any fun d => !d.1.isV) || (sec == 3 && data.any fun d => d.1.isV) ||
      (sec == 4 && !caps.isEmpty)
  | _ => false
/-- A copy that arrives in a group of its team when it completes (R179). -/
def isArrCopy (f : Flight) : Bool :=
  match f.kind with
  | .copy c => c.arr
  | _ => false
/-- May the `bsave` or `brest` of a flight be performed? Section 0 waits for the copies of the whole team that arrive in its
groups, so that every image records the same team-wide fields (R371, R394; DEDUCED, log 38). -/
def imageReady (s : State) (f : Flight) (restore : Bool) (sec : Nat) : Bool :=
  restore || s.flights.all fun x =>
    !((x.core == f.core && x.slot == runTarget s f.core && savingWaits s sec x) ||
      (sec == 0 && x.task == (getBench s f.core (runTarget s f.core)).task && isArrCopy x))

/-! ## The install of a section (R372, R394) -/

/-- The instruction of a blocked seat, if its word is one. -/
def blockedInstr (s : State) (core : Nat) (t : Task) (pc : Word) : Option Instr :=
  match decode32 (codeWord s core t pc) with
  | .ok i => some i
  | .error _ => none
/-- Section 1: what the image does not hold of a wait stands at its object, or in the instruction. -/
def installControl (s : State) (t : Task) (core slot pa : Nat) : State :=
  let b := getBench s core slot
  let th := fun (k : Nat) => (⟨coreTOf t core, b.benchT, k⟩ : Thread)
  let at_ := fun (k : Nat) => blockedInstr s core t (BitVec.ofNat 64 (physValue s (pa + 8 * k) 8))
  let kept := fun k => match at_ k with
    | some (.fence sc o) => some (.fence sc o)
    | _ => lookupKey t.savedWaits (th k)
  let dest := fun k => match at_ k with
    | some (.mbr _ d) => d
    | _ => .v 0
  let word := fun k => match at_ k with
    | some (.mbw _ a) => readD b a.reg k
    | _ => 0
  let b := controlInto s pa b kept dest word (headerWordAt s core t) (fun k => lookupKey t.savedRights (th k))
    (fun k => lookupKey t.savedWakes (th k)) (dueAt s core t)
    fun k pc => match lookupKey t.savedForms (th k) with
      | some (a, m) => if a = pc then some m else none
      | none => none
  putBench s core slot { b with mode := .halted }
/-- The waiters of a mailbox that the images of a core record (R391): direction, rank, bench and seat. -/
def imageWaiters (s : State) (t : Task) (coreT m : Nat) (writer : Bool) : List (Nat × Nat × Nat) :=
  let n := taskNode s t
  (List.range n.benches).flatMap fun b => (List.range 32).filterMap fun k =>
    let o := t.saveBase.toNat + imgPlace n coreT b
    let st := physValue s (o + 0x220 + k) 1
    let arg := physValue s (o + 0x300 + 8 * k) 8
    if st % 4 = 1 ∧ st / 4 = 4 ∧ arg / 2 ^ 60 % 8 = m ∧ (arg / 2 ^ 63 == 1) = writer then
      some (arg / 2 ^ 48 % 4096, b, k)
    else none
/-- The waiters in order of rank. -/
def byRank (l : List (Nat × Nat × Nat)) : List (Nat × Nat) :=
  (l.foldl (fun acc x =>
    (acc.filter fun y => decide (y.1 ≤ x.1)) ++ [x] ++ acc.filter fun y => decide (x.1 < y.1)) []).map (·.2)
/-- The mailboxes of section 6 with their queues. -/
def mailboxesFrom (s : State) (t : Task) (coreT pa : Nat) : List Mailbox :=
  (List.range 8).map fun m =>
    { nth (mailFrom s pa) m Mailbox.empty with
      readers := byRank (imageWaiters s t coreT m false), writers := byRank (imageWaiters s t coreT m true) }
/-- Arrivals still pending stand marked in their groups (R115, R304). -/
def pendingMarks (s : State) (t : Task) : Task :=
  (s.flights.filter fun f => f.task == t.id).foldl (fun t f =>
    match f.kind with
    | .arrival th g false _ =>
      let x := getGroup t g
      if x.members.contains th && !x.marked.contains th then putGroup t g { x with marked := x.marked ++ [th] } else t
    | _ => t) t
/-- Section 6 (R394): the team-wide fields from the image of the core's lowest task bench, the seats from each. -/
def installTeam (s : State) (t : Task) (core slot pa : Nat) : State :=
  let b := getBench s core slot
  let k := coreTOf t core
  let c := taskCore t k
  let t1 := if b.benchT = 0 then
      groupsFrom s pa (putTaskCore t k
        { c with gone := BitVec.ofNat 64 (physValue s pa 8), mail := mailboxesFrom s t k pa })
    else t
  putTask s (pendingMarks s (groupSeatsFrom s pa k b.benchT t1))
/-- Does a saved flight hold the `tmma` of a task core with a place in tile order? -/
def tmmaAt (coreT order : Nat) (x : Thread × Flight) : Bool :=
  x.1.coreT == coreT && match x.2.kind with
  | .tmma c => c.order == order
  | _ => false
/-- A `tmma` of section 5 stands in the copy queue again (R272). It is the access of the seat that issued it, in its place in that
seat's order (R273), where its flight was kept. -/
def installTmma (s : State) (task : Word) (core : Nat) (c : TmmaCmd × Nat × Nat) : State :=
  match findTask s task with
  | none => s
  | some t =>
    let slot := ((benchOfThread s t ⟨coreTOf t core, c.2.2, 0⟩).map (·.2)).getD 0
    let flag := if c.2.1 = 15 then none else some c.2.1
    match t.savedFlights.find? (tmmaAt (coreTOf t core) c.1.order) with
    | some x =>
      let cap := match x.2.kind with
        | .tmma o => o.cap
        | _ => Cap.null
      putTask { s with flights := s.flights ++ [{ x.2 with core := core, slot := slot, flag := flag, kind := .tmma { c.1 with cap := cap } }] }
        { t with savedFlights := t.savedFlights.filter fun y => !(tmmaAt (coreTOf t core) c.1.order y) }
    | none =>
      { s with
        flights := s.flights ++ [⟨s.nextId, s.nextId, core, slot, t.id, flag, 1, [], [], [], [], .tmma c.1, 0, []⟩]
        nextId := s.nextId + 1 }
/-- Section 5: the tiles, and the commands, which stand in the copy queue when the target resumes (R272). -/
def installTiles (s : State) (t : Task) (core pa : Nat) : State :=
  if physValue s pa 1 = 0 then s
  else
    (tmmaFrom s pa Cap.null).foldl (fun s c => installTmma s t.id core c)
      (putCore s core { getCore s core with tiles := tilesFrom s pa })
/-- Install section k from an address. Section 7 lists rows that no reply is awaited for any more (R396). -/
def installSection (s : State) (t : Task) (core slot pa k : Nat) : State :=
  let b := getBench s core slot
  match k with
  | 1 => installControl s t core slot pa
  | 2 => putBench s core slot (uniformInto s pa b)
  | 3 => putBench s core slot { b with vrows := rowsFrom s pa }
  | 4 => putBench s core slot { b with crows := capRowsFrom s (transferCap s (taskSpaceNum s t)) pa }
  | 5 => installTiles s t core pa
  | 6 => installTeam s t core slot pa
  | _ => s
/-- The install of `brest`: section 0 is every section, registers first. -/
def installImage (s : State) (core slot pa sec : Nat) : State :=
  (if sec = 0 then [2, 3, 4, 1, 5, 6] else [sec]).foldl (fun s k =>
    match findTask s (getBench s core slot).task with
    | some t => installSection s t core slot (if sec = 0 then sectionAt s core slot pa k else pa) k
    | none => s) s

/-- IMAGE_SECTION_COMPLETE (R338, R371, R372): the section is written or installed, and the flag falls. -/
def execImageSectionComplete (id : Nat) (s : State) : Host.Outcome State Fault Refusal :=
  match findFlight s id with
  | none => .next s
  | some f =>
    match f.kind with
    | .image restore sec c =>
      let slot := runTarget s f.core
      match findTask s (getBench s f.core slot).task with
      | none => .next (endFlight s f)
      | some t =>
        let pa := (capCursor c).toNat
        .next (endFlight
          (if restore then installImage s f.core slot pa sec
           else writePieces s pa (imgBytes s t f.core slot sec) (imgPieces s t f.core slot sec)) f)
    | _ => .next s

/-! ## Team maps (R339) -/

/-- The status of an `rmap` that writes nothing (R339, R328). -/
def rmapStatus (s : State) (t : Task) (a b : Word) : Option Nat :=
  let size := allocSize s t
  let base := b.toNat / 64 % 16 * 0x8000
  if (getCore s s.sel.core).benches.any fun e => e.1 != 64 && e.2.task == t.id && e.2.mode == .running then some 1
  else if teamN t ≤ a.toNat ∨ 64 ≤ a.toNat then some 3
  else if 2 ^ 10 ≤ b.toNat then some 3
  else if base % size ≠ 0 ∨ 0x80000 < base + size then some 3
  else none
/-- The entry that a B value names, on the selected core's die (R339). -/
def rmapEntry (s : State) (b : Word) : Nat × Nat :=
  (s.sel.core / Config.coresPerDie * Config.coresPerDie + b.toNat % 64, b.toNat / 64 % 16 * 0x8000)
/-- The write of an entry, with the old one. -/
def rmapWrite (s : State) (t : Task) (a b : Word) : Word × State :=
  match rmapStatus s t a b with
  | some st => (BitVec.ofNat 64 (2 ^ 63 + st), s)
  | none =>
    let k := coreTOf t s.sel.core
    let c := taskCore t k
    (BitVec.ofNat 64 (mapWord (nth c.map a.toNat (0, 0))),
      putTask s (putTaskCore t k { c with map := setNth c.map a.toNat (rmapEntry s b) }))
/-- `rmap` (R339). -/
def execRmap (b : DReg) (a : Src) (d : DReg) (s : State) : Host.Outcome State Fault Refusal :=
  let i := Instr.rmap b a d
  let low := lowestSeat s.sel.seats
  let r := rmapWrite s (subjectTask s) (srcV s a low) (readD (cur s) b low)
  demand s (runOpen s i) <|
    guardPass s (fun k => if k = low then useFault s (usesOf i) k else none)
      (retireWith r.2 [a] false fun x => writeD x d [(low, r.1, none)])

end Sys2Proof.Machine
end

