-- ==== Sys2Proof/Machine/Complete.lean ====
section
/-!
DEFINITION. How instructions in flight and waits end: loads, stores and atomics (R106, R151, R171, R395, R396, R401), held
lines (R189), arrivals (R115), pauses, fences and mailbox timeouts (R98, R117, R160), copies (R178, R181), matrix
instructions (R258, R263, R270, R271, R276); lifts and idle clocks (R127, R130, R314); illegal words (R40).
-/
namespace Sys2Proof.Machine

/-! ## Loads (R106, R151, R395, R401) -/

/-- The values of some seats of a flight land; the flight ends with its last seat. An s register takes the value of the
lowest seat of its pass (R7). -/
def landSeats (s : State) (f : Flight) (ks : List Nat) (val : DReg → Nat → Word) (cap : Nat → Cap)
    (poison : Nat → Option Nat) : State :=
  let low := lowestSeat f.seats
  let data := f.vdests.map fun d => (d, (ks.filter fun k => d.isV || k == low).map fun k => (k, val d k, poison k))
  let caps := f.cdests.map fun c => (c, ks.map fun k => (k, cap k, poison k))
  let t := landCaps (landData s f data) f caps
  let left := f.seats &&& ~~~ maskOf fun k => ks.contains k
  if left = 0 then endFlight t f
  else putFlight t { f with seats := left, vdests := f.vdests.filter fun d => d.isV || !ks.contains low }
/-- The word of a reply for a register: of a pair, whose first register is even, the second takes the high bytes. -/
def replyWord (bytes : Nat) (d : DReg) (r : SeatReply) : Word :=
  if 8 < bytes ∧ d.isEven = false then r.hi else if bytes < 8 then BitVec.ofNat 64 (r.lo.toNat % 2 ^ (8 * bytes)) else r.lo
/-- The capability of a reply (R318, R362). -/
def replyCap (s : State) (f : Flight) (ldc : SeatMask) (r : SeatReply) : Cap :=
  transferCap s (taskSpaceNum s (flightTask s f)) ⟨r.hi ++ r.lo, r.tag && !r.poison && ldc.getLsbD r.seat⟩
def SeatReply.none_ : SeatReply := ⟨0, 0, 0, false, true⟩
def replyOf (rs : List SeatReply) (k : Nat) : SeatReply := (rs.find? fun r => r.seat == k).getD SeatReply.none_
/-- The acquire of a remote atomic has read: what the task's other cores released before lies in their parts (R201). -/
def acquireDrain (s : State) (id : Word) : State :=
  match findTask s id with
  | some t => putTask s (drainAll t)
  | none => s
/-- Replies to a remote load or atomic of a resident bench. -/
def landReply (s : State) (f : Flight) (bytes : Nat) (ldc : SeatMask) (acq : Bool) (rs : List SeatReply) : State :=
  let ks := (seatsOf f.seats).filter fun k => rs.any fun r => r.seat == k
  let s := answered (if acq then acquireDrain s f.task else s) f.id (maskOf fun k => ks.contains k)
  landSeats s f ks (fun d k => replyWord bytes d (replyOf rs k)) (fun k => replyCap s f ldc (replyOf rs k))
    fun k => if (replyOf rs k).poison then some 0 else none

/-- The held loads that may be performed read their granules now. -/
def landStaged (s : State) (f : Flight) (d : Option DReg) (cd : Option CReg) (items : List WinItem) : State :=
  let ready := readyItems s f
  let t := flightTask s f
  let space := taskSpaceNum s t
  let seen := fun k =>
    match ready.find? fun i => i.seat == k with
    | some i => seeWindow s t (flightCoreT s f) i.addr.toNat i.size
    | none => ⟨[], false, false⟩
  if ready.isEmpty then s
  else
    landSeats s { f with kind := .stagedLoad d cd (itemsLeft ready items) } (ready.map (·.seat))
      (fun r k => nth (loadWords (seen k).bytes) (if d == some r then 0 else 1) 0)
      (fun k => loadedCap s space true true (seen k))
      fun k => if (seen k).poison then some 0 else none
/-- A store that waited is made: the bank or the hold accepts it (R106). -/
def makeStore (s : State) (f : Flight) (i : WinItem) : State :=
  let t := flightTask s f
  let k := flightCoreT s f
  let bs := bytesLE i.size i.value
  if i.addr.toNat < windowEnd then
    if i.tag then winStoreCap s t k i.addr.toNat (capOfBytes bs true) i.poison else winStore s t k i.addr.toNat bs i.poison
  else
    let c := taskCore t k
    putTask s (putTaskCore t k { c with hold := holdStore c.hold i.addr.toNat bs i.tag i.poison s.bell })
/-- The stores of a flight that may be made. -/
def performStaged (s : State) (f : Flight) (items : List WinItem) : State :=
  let ready := readyItems s f
  let rest := itemsLeft ready items
  let s := ready.foldl (fun s i => makeStore s f i) s
  if rest.isEmpty then endFlight s f
  else if ready.isEmpty then s
  else putFlight s { f with kind := .stagedStore rest, seats := maskOf fun j => rest.any fun i => i.seat == j }

/-- A translation that fails in flight (R178, R225, R229, R431): the task is aborted, or the access waits. -/
def copyFail (s : State) (f : Flight) (va : Word) (e : TransErr) : State :=
  match e with
  | .poolDown k => poolWait s f.task (some f.core) k
  | .migrate => s
  | e => abortFlight s f (.pageFault va (transSub e)) va
/-- An atomic that waited is performed (R170): what its seat receives. -/
def makeAtom (s : State) (f : Flight) (w : AtomAt) (op : AtomOp) (w32 : Bool) (i : WinItem) :
    Except TransErr (Word × Bool × State) :=
  if i.addr.toNat < windowEnd then .ok (atomBank s (flightTask s f) (flightCoreT s f) op w32 i.addr.toNat i.value i.extra)
  else
    match placesNow s f.core (taskSpace s (flightTask s f)) .rmw i.addr.toNat i.pas i.leases with
    | .error e => .error e
    | .ok (pas, s) => .ok (atomOne s w op w32 i.addr.toNat pas i.value i.extra)
/-- Atomics that waited, one after another (R169): what each seat receives, and the first whose translation fails. -/
def makeAtoms (s : State) (f : Flight) (w : AtomAt) (op : AtomOp) (w32 : Bool) :
    List WinItem → List (Nat × Word × Bool) × Option (Word × TransErr) × State
  | [] => ([], none, s)
  | i :: is =>
    match makeAtom s f w op w32 i with
    | .error e => ([], some (i.addr, e), s)
    | .ok (v, p, s) =>
      match makeAtoms s f w op w32 is with
      | (vs, e, s) => ((i.seat, v, p) :: vs, e, s)
/-- The atomics of a flight that may be performed. -/
def landAtoms (s : State) (f : Flight) (w : AtomAt) (op : AtomOp) (w32 : Bool) (ord : MemOrd) (wide : Bool) (items : List WinItem) :
    State :=
  let ready := readyItems s f
  if ready.isEmpty then s
  else
    -- The atomics act for the bench that issued them.
    match makeAtoms (atomOrder { s with sel := { s.sel with core := f.core, slot := f.slot } } ord wide) f w op w32 ready with
    | (vs, e, t) =>
      let t := { t with sel := s.sel }
      let done := ready.filter fun i => vs.any fun v => v.1 == i.seat
      let f' := { f with kind := .stagedAtom w op w32 ord wide (itemsLeft done items) }
      let t := if vs.isEmpty then t else
        landSeats t f' (done.map (·.seat)) (fun _ k => ((lookupKey vs k).getD (0, false)).1) (fun _ => Cap.null)
          fun k => if ((lookupKey vs k).getD (0, false)).2 then some 0 else none
      match e with
      | some (va, e) => copyFail t f' va e
      | none => t
/-- The held rows of an `ald` or `ast` that may be moved (R263). -/
def landRows (s : State) (f : Flight) (load : Bool) (fmt : TileFmt) (tile : Nat) (items : List WinItem) : State :=
  let ready := readyItems s f
  let rest := itemsLeft ready items
  let t := flightTask s f
  let k := flightCoreT s f
  let s :=
    if load then putTile s f.core tile (loadRows s t k fmt (ready.map fun i => (i.seat, i.addr.toNat)) (getTile s f.core tile))
    else ready.foldl (fun s i => storeRowBytes s t k fmt i.addr.toNat (bytesLE i.size i.value) fun j => Nat.testBit i.extra j) s
  if rest.isEmpty then endFlight s f
  else if ready.isEmpty then s
  else putFlight s { f with kind := .stagedRows load fmt tile rest, seats := maskOf fun j => rest.any fun i => i.seat == j }

/-! ## Copies with another package -/

/-- Elements of another package arrive for a copy. -/
def copyReply (s : State) (f : Flight) (c : CopyCmd) (rs : List SeatReply) : State :=
  let es := (remoteElems c).map (·.1)
  let new := rs.filter fun r => es.contains r.seat && !(c.got.any fun g => g.seat == r.seat)
  let s := new.foldl (fun s r => answeredOne s f.id fun o => o.req == c.req0 + es.idxOf r.seat) s
  putFlight s { f with kind := .copy { c with got := c.got ++ new } }
/-- The bytes of memory and of the window that a copy writes, as rows. A scatter writes where its index list sends it. -/
def copyTargets (s : State) (f : Flight) (c : CopyCmd) : List (Int × Nat) :=
  if c.kind = 2 ∨ c.kind = 3 then (copyElems (withIndex s f c)).map fun e => (e.2.2, c.size) else dstRows c
/-- The reads of earlier loads of a copy's seat of what the copy writes have been performed when their loads were issued (R104, R193). -/
def settleCopy (s : State) (f : Flight) (c : CopyCmd) : State :=
  let rows := copyTargets s f c
  let hit := fun (l : LateRead) => f.seats.getLsbD l.seat &&
    (hasPerm c.dst .remote && !l.pas.isEmpty ||
      rows.any fun r => decide (r.1 < Int.ofNat (l.addr + l.size)) && decide (Int.ofNat l.addr < r.1 + Int.ofNat r.2))
  { s with flights := s.flights.map fun g =>
      if g.core = f.core ∧ g.slot = f.slot ∧ g.id < f.id ∧ g.late ≠ [] then { g with late := g.late.filter fun l => !hit l } else g }
/-- The elements are written; a copy into another package goes on waiting for the acknowledgements. -/
def copyWrite (s : State) (f : Flight) (c : CopyCmd) : State :=
  match performCopy (settleCopy s f c) f c with
  | .error (va, e) => copyFail s f va e
  | .ok t =>
    let n := (t.remote.filter fun o => o.flight == f.id).length
    if n = 0 then finishCopy t f c else putFlight t { f with kind := .copy { c with stage := 2, want := n } }
/-- One acknowledgement of a copy. -/
def copyAck (s : State) (f : Flight) (c : CopyCmd) : State :=
  let s := answeredOne s f.id fun _ => true
  if c.want ≤ 1 then finishCopy s f c else putFlight s { f with kind := .copy { c with want := c.want - 1 } }

/-! ## The flights of a saved task (R396) -/

/-- The task and the thread of an instruction in flight of a saved task. -/
def savedFlight (s : State) (id : Nat) : Option (Task × Thread × Flight) :=
  s.tasks.findSome? fun t => (t.savedFlights.find? fun e => e.2.id == id).map fun e => (t, e.1, e.2)
/-- An instruction of a saved task has completed: its flag falls in the image. -/
def endSaved (s : State) (t : Task) (th : Thread) (f : Flight) : State :=
  let rest := t.savedFlights.filter fun e => !(e.2.id == f.id)
  let s := putTask s { t with savedFlights := rest }
  match f.flag with
  | none => s
  | some k =>
    if rest.any fun e => e.2.mate == f.mate then s
    else
      let a := t.saveBase.toNat + imgPlace (taskNode s t) th.coreT th.benchT + 0x2C0 + k
      { s with mem := memStore s.mem a (bytesLE 1 (physValue s a 1 - 1)) false }

/-! ## Replies to a saved task (R396) -/

/-- The fields of a record of section 7 (R393). -/
def pendAt (s : State) (t : Task) (coreT benchT record : Nat) : Nat :=
  let n := taskNode s t
  t.saveBase.toNat + imgPlace n coreT benchT + imgSecOff n.rows n.capRows (imgAcc n benchT) 7 + 0x80 + 0x80 * record
def pendReg (code : Nat) : DReg :=
  if h : code < 48 then .v ⟨code, h⟩ else .s ⟨(code - 48) % 16, Nat.mod_lt _ (by decide)⟩
/-- Write one seat's element of a pending register into an image. -/
def savedWrite (s : State) (t : Task) (coreT benchT code seat : Nat) (v : Word) (c : Cap) (p : Option Nat) : State :=
  let n := taskNode s t
  let img := t.saveBase.toNat + imgPlace n coreT benchT
  let acc := imgAcc n benchT
  if code < 64 then imgWriteD s img n.rows n.capRows acc (pendReg code) seat v p
  else imgWriteC s img n.rows n.capRows acc ⟨code % 16, Nat.mod_lt _ (by decide)⟩ seat c p
/-- The registers that a flight's loads go to, as records of section 7 name them. -/
def flightCodes (f : Flight) : List Nat := f.vdests.map DReg.code ++ f.cdests.map fun c => 64 + c.val
/-- The saved remote loads whose register a record names. -/
def savedLoads (t : Task) (coreT benchT code : Nat) : List (Thread × Flight) :=
  t.savedFlights.filter fun e => e.1.coreT == coreT && e.1.benchT == benchT &&
    match e.2.kind with
    | .remoteLoad _ _ _ _ => (flightCodes e.2).contains code
    | _ => false
/-- The bytes of the saved remote load that a seat of a register waits for, and whether its capability carries LDC. -/
def savedLoadOf (t : Task) (coreT benchT code seat : Nat) : Nat × Bool :=
  match (savedLoads t coreT benchT code).find? fun e => e.2.seats.getLsbD seat with
  | some (_, { kind := .remoteLoad _ n m _, .. }) => (n, m.getLsbD seat)
  | _ => (8, false)
/-- The seats that a record of an image still waits for. -/
def savedWaiting (s : State) (t : Task) (coreT benchT : Nat) (codes : List Nat) : SeatMask :=
  let n := taskNode s t
  let o := t.saveBase.toNat + imgPlace n coreT benchT + imgSecOff n.rows n.capRows (imgAcc n benchT) 7
  (List.range (physValue s o 8)).foldl (fun m k =>
    let a := pendAt s t coreT benchT k
    if codes.contains (physValue s (a + 1) 1) then m ||| BitVec.ofNat 32 (physValue s (a + 4) 4) else m) 0
/-- A saved load whose registers wait no more for its seats is done. -/
def savedSettleOne (s : State) (id : Word) (th : Thread) (f : Flight) : State :=
  match findTask s id with
  | none => s
  | some t =>
    let m := f.seats &&& savedWaiting s t th.coreT th.benchT (flightCodes f)
    let s := answered s f.id (f.seats &&& ~~~ m)
    if m = 0 then endSaved s t th f
    else putTask s { t with savedFlights := t.savedFlights.map fun e => if e.2.id == f.id then (th, { f with seats := m }) else e }
/-- The saved loads of a register after values or a deadline (R396). -/
def savedSettle (s : State) (id : Word) (coreT benchT code : Nat) : State :=
  match findTask s id with
  | none => s
  | some t => (savedLoads t coreT benchT code).foldl (fun s e => savedSettleOne s id e.1 e.2) s
/-- The seats that a record of section 7 waits for end with poison of cause 1 (R395, R396). -/
def savedLate (s : State) (t : Task) (coreT benchT record : Nat) : State :=
  let a := pendAt s t coreT benchT record
  let code := physValue s (a + 1) 1
  let all : SeatMask := BitVec.ofNat 32 (physValue s (a + 4) 4)
  let waiting := pendWaiting s t coreT benchT a
  let put := fun (s : State) (off v : Nat) => ({ s with mem := memStore s.mem (a + off) (bytesLE 4 v) false } : State)
  let s1 := (seatsOf waiting).foldl (fun s k => savedWrite s t coreT benchT code k 0 Cap.null (some 1)) s
  let s2 := put (put s1 8 (Nat.lor (physValue s (a + 8) 4) waiting.toNat)) 4 (all &&& ~~~ waiting).toNat
  savedSettle s2 t.id coreT benchT code
/-- Replies for a record of section 7 are written into the image (R396). -/
def savedLand (s : State) (t : Task) (coreT benchT record : Nat) (reply : List SeatReply) : State :=
  let a := pendAt s t coreT benchT record
  let code := physValue s (a + 1) 1
  let all : SeatMask := BitVec.ofNat 32 (physValue s (a + 4) 4)
  let ks := (seatsOf (pendWaiting s t coreT benchT a)).filter fun k => reply.any fun r => r.seat == k
  let s1 := ks.foldl (fun s k =>
    let r := replyOf reply k
    let x := savedLoadOf t coreT benchT code k
    let c := transferCap s (taskSpaceNum s t) ⟨r.hi ++ r.lo, r.tag && !r.poison && x.2⟩
    savedWrite s t coreT benchT code k (replyWord x.1 (pendReg code) r) c (if r.poison then some 0 else none)) s
  let s2 := { s1 with mem := memStore s1.mem (a + 4) (bytesLE 4 (all &&& ~~~ maskOf fun k => ks.contains k).toNat) false }
  savedSettle s2 t.id coreT benchT code
/-- Replies to a remote load or atomic of a saved task: every record of section 7 for its registers takes them (R395, R396). -/
def savedReply (s : State) (t : Task) (th : Thread) (f : Flight) (reply : List SeatReply) : State :=
  let n := taskNode s t
  let o := t.saveBase.toNat + imgPlace n th.coreT th.benchT + imgSecOff n.rows n.capRows (imgAcc n th.benchT) 7
  (List.range (physValue s o 8)).foldl (fun s k =>
    match findTask s t.id with
    | some t =>
      if (flightCodes f).contains (physValue s (pendAt s t th.coreT th.benchT k + 1) 1) then savedLand s t th.coreT th.benchT k reply
      else s
    | none => s) s
/-- What an answer to an instruction in flight that no core holds does: it lands in the images of its saved task, or is late. -/
def awayReply (s : State) (id : Nat) (reply : List SeatReply) : State :=
  match savedFlight s id with
  | some (t, th, f) => if t.saved then savedReply s t th f reply else s
  | none =>
    match stageReqOf s id with
    | some x =>
      let r := replyOf reply 0
      if x.store then s else stageLands s x (bytesLE 8 r.lo.toNat ++ bytesLE 8 r.hi.toNat) r.tag r.poison
    | none => answered s id 0xFFFFFFFF

/-- SAVED_REPLY_APPLY (R396): replies, or with none the deadline, for a record of section 7. -/
def execSavedReplyApply (task : Word) (coreT benchT record : Nat) (reply : List SeatReply) (s : State) :
    Host.Outcome State Fault Refusal :=
  match findTask s task with
  | none => .next s
  | some t =>
    if !t.saved ∨ physValue s (pendAt s t coreT benchT record) 1 = 3 then .next s
    else .next (if reply.isEmpty then savedLate s t coreT benchT record else savedLand s t coreT benchT record reply)

/-! ## Events -/

/-- What a late read sees now (R190, R193), through its translation while that has not expired, and then through a fresh one (R229); a
window read whose place is no longer that of its issue was performed before. -/
def lateSeen (s : State) (f : Flight) (l : LateRead) : Except TransErr (Option Seen × State) :=
  let t := flightTask s f
  let k := flightCoreT s f
  if l.pas.isEmpty then
    .ok (if (List.range l.size).all fun i => (winByteFault s t k (l.addr + i)).isNone then some (seeWindow s t k l.addr l.size) else none, s)
  else
    match placesNow s f.core (taskSpace s t) .load l.addr l.pas l.leases with
    | .ok (pas, s) => .ok (some (seeMem s t k l.addr pas), s)
    | .error e => .error e
/-- What late reads see now (R104: the seats of a pass are performed in ascending order), or the address whose translation fails. -/
def lateVals (s : State) (f : Flight) : List LateRead → Except (Word × TransErr) (List (LateRead × Seen) × State)
  | [] => .ok ([], s)
  | l :: ls =>
    match lateSeen s f l with
    | .error e => .error (BitVec.ofNat 64 l.addr, e)
    | .ok (x, s) =>
      match lateVals s f ls with
      | .error e => .error e
      | .ok (vs, s) => .ok ((x.toList.map fun y => (l, y)) ++ vs, s)
/-- The values of a load with its late reads performed now. -/
def lateData (vs : List (LateRead × Seen)) (data : List (DReg × List SeatVal)) : List (DReg × List SeatVal) :=
  (List.range data.length).filterMap fun j =>
    (data[j]?).map fun d => (d.1, d.2.map fun v =>
      match vs.find? fun x => x.1.seat == v.1 with
      | some x => (v.1, nth (loadWords x.2.bytes) j 0, if x.2.poison then some 0 else none)
      | none => v)
def lateCaps (s : State) (f : Flight) (vs : List (LateRead × Seen)) (caps : List (CReg × List SeatCap)) : List (CReg × List SeatCap) :=
  caps.map fun d => (d.1, d.2.map fun v =>
    match vs.find? fun x => x.1.seat == v.1 with
    | some x => (v.1, loadedCap s (taskSpaceNum s (flightTask s f)) x.1.pas.isEmpty x.1.ldc x.2, if x.2.poison then some 0 else none)
    | none => v)
/-- A load of this package completes: each of its reads was performed at its issue, or is performed now, from a free seat on. -/
def landLoad (s : State) (f : Flight) (data : List (DReg × List SeatVal)) (caps : List (CReg × List SeatCap)) : State :=
  if f.late.isEmpty then endFlight (landCaps (landData s f data) f caps) f
  else
    match draw s 33 with
    | (first, t) =>
      match lateVals t f (f.late.filter fun l => decide (first ≤ l.seat)) with
      | .ok (vs, t) => endFlight (landCaps (landData t f (lateData vs data)) f (lateCaps t f vs caps)) f
      | .error (va, e) => copyFail t f va e

/-- LOAD_COMPLETE (R106). -/
def execLoadComplete (id : Nat) (reply : List SeatReply) (s : State) : Host.Outcome State Fault Refusal :=
  match findFlight s id with
  | none => .next (awayReply s id reply)
  | some f =>
    match f.kind with
    | .load data caps false => .next (landLoad s f data caps)
    | .stagedLoad d cd items => .next (landStaged s f d cd items)
    | .remoteLoad _ bytes ldc acq => .next (landReply s f bytes ldc acq reply)
    | .copy c => .next (copyReply s f c reply)
    | _ => .next s
/-- STORE_ACCEPTED (R106): a store of this package, or the acknowledgement of a remote store, of an element of a copy, of a remote
`sret` (R401), or of some bytes of a payload (R406). -/
def execStoreAccepted (id : Nat) (s : State) : Host.Outcome State Fault Refusal :=
  match findFlight s id with
  | none =>
    match savedFlight s id with
    | some (t, th, f) => .next (endSaved (answered s id f.seats) t th f)
    | none =>
      match stageReqOf s id with
      | some x => .next (if x.store then stageStored s x else s)
      | none => .next (answered s id 0xFFFFFFFF)
  | some f =>
    match f.kind with
    | .store => .next (endFlight s f)
    | .stagedStore items => .next (performStaged s f items)
    | .remoteStore _ _ => .next (endFlight (answered s id f.seats) f)
    | .copy c => .next (if c.stage = 2 then copyAck s f c else s)
    | .sret _ _ true _ => .next (endFlight (answered s id f.seats) f)
    | .push _ _ _ _ _ _ _ => .next (answeredOne s id carriesBytes)
    | _ => .next s
/-- ATOMIC_COMPLETE (R171). -/
def execAtomicComplete (id : Nat) (reply : List SeatReply) (s : State) : Host.Outcome State Fault Refusal :=
  match findFlight s id with
  | none => .next (awayReply s id reply)
  | some f =>
    match f.kind with
    | .load data _ true => .next (endFlight (landData s f data) f)
    | .remoteLoad _ bytes _ acq => .next (landReply s f bytes 0 acq reply)
    | .stagedAtom w op w32 ord wide items => .next (landAtoms s f w op w32 ord wide items)
    | _ => .next s
/-- HOLD_LINE_DRAIN (R189). -/
def execHoldLineDrain (task : Word) (coreT line : Nat) (s : State) : Host.Outcome State Fault Refusal :=
  match findTask s task with
  | some t => .next (putTask s (drainLine t coreT line))
  | none => .next s
/-- The release at dom scope of a flight that has waited (R194, R203): what its task holds in its core's part goes to the die part. -/
def releaseFlight (s : State) (f : Flight) : State := releaseDrain (dropFlight s f.id) f.task (flightCoreT s f) .dom
/-- GROUP_ARRIVAL_APPLY (R115): once the seat's earlier accesses have completed; so too a `notify` or a `reply` that has waited
(R208). -/
def execGroupArrivalApply (id : Nat) (s : State) : Host.Outcome State Fault Refusal :=
  match findFlight s id with
  | none => .next s
  | some f =>
    match f.kind with
    | .arrival th g leaves batch =>
      if accessesBefore s f.core f.slot th.seat id batch then
        .next (if leaves then groupLeave (dropFlight s id) f.task th g else groupApply (dropFlight s id) f.task th g)
      else .next s
    | .notify num bits batch =>
      .next (if accessesBefore s f.core f.slot (lowestSeat f.seats) id batch then notifyBits (releaseFlight s f) num bits else s)
    | .reply r m batch =>
      .next (if accessesBefore s f.core f.slot (lowestSeat f.seats) id batch then sendReply (releaseFlight s f) r m else s)
    | _ => .next s

/-! ## Waits that the clock or a condition ends -/

/-- A seat that waited goes on past its instruction. -/
def goOn (s : State) (core slot seat : Nat) : State :=
  freeRows (putBench s core slot (unblockSeat (getBench s core slot) seat 4 false)) core slot
/-- PAUSE_WAKE (R98). -/
def execPauseWake (core slot seat : Nat) (s : State) : Host.Outcome State Fault Refusal :=
  match (getSeat (getBench s core slot) seat).state with
  | .blocked (.pause u) => .next (if u.toNat ≤ s.bell.toNat then goOn s core slot seat else s)
  | _ => .next s
/-- FENCE_CONTINUE (R117). -/
def execFenceContinue (core slot seat : Nat) (s : State) : Host.Outcome State Fault Refusal :=
  let b := getBench s core slot
  match (getSeat b seat).state with
  | .blocked (.fence sc o) =>
    if fenceMet s core slot seat o then
      let t := goOn s core slot seat
      .next (if fenceReleases o then releaseDrain t b.task (coreTOf ((findTask s b.task).getD Task.none_) core) sc else t)
    else .next s
  | _ => .next s
/-- A mailbox waiter leaves its queue and is woken with MBX_ABANDONED, TIMEOUT (R160). -/
def mailTimedOut (s : State) (core slot seat m : Nat) : State :=
  let b := getBench s core slot
  match findTask s b.task with
  | none => s
  | some t =>
    let k := coreTOf t core
    let x := getMail t k m
    let no := fun (l : List (Nat × Nat)) => l.filter fun e => !(e == (b.benchT, seat))
    onSeat (putTask s (putMail t k m { x with readers := no x.readers, writers := no x.writers })) core slot seat
      fun y => { y with state := .eligible, wake := some ⟨0x31, 2, m⟩, due := [] }
/-- MBX_TIMEOUT (R160): the timeout runs only while the bench runs. -/
def execMbxTimeout (core slot seat : Nat) (s : State) : Host.Outcome State Fault Refusal :=
  let b := getBench s core slot
  if b.mode ≠ .running then .next s
  else
    match (getSeat b seat).state with
    | .blocked (.mbr m _ left) => .next (if left ≤ s.bell.toNat then mailTimedOut s core slot seat m else s)
    | .blocked (.mbw m _ left) => .next (if left ≤ s.bell.toNat then mailTimedOut s core slot seat m else s)
    | _ => .next s
/-- Have all threads of a task on a team core exited? -/
def coreExited (s : State) (t : Task) (coreT : Nat) : Bool :=
  let l := ((taskBenches s t).filter fun e => coreTOf t e.1 == coreT)
  !l.isEmpty && l.all fun e => (getBench s e.1 e.2).seats.all fun x => x.state == .exited
/-- GONE_MASK_SET (R154). -/
def execGoneMaskSet (task : Word) (coreT : Nat) (s : State) : Host.Outcome State Fault Refusal :=
  match findTask s task with
  | none => .next s
  | some t =>
    if coreExited s t coreT then
      .next (putTask s { t with cores := t.cores.map fun c => { c with gone := c.gone ||| BitVec.ofNat 64 (2 ^ coreT) } })
    else .next s

/-! ## Copies and matrix instructions -/

/-- COPY_COMPLETE (R178): elements of another package are asked for first, then every element is written. -/
def execCopyComplete (id : Nat) (s : State) : Host.Outcome State Fault Refusal :=
  match findFlight s id with
  | none => .next s
  | some f =>
    match f.kind with
    | .copy c =>
      if c.stage = 0 then
        let c := withIndex s f c
        let es := remoteElems c
        if hasPerm c.src .remote ∧ es ≠ [] then
          .next (requestElems
            (putFlight s { f with kind := .copy { c with stage := 1, req0 := s.nextReq, want := es.length } }) f c)
        else .next (copyWrite s f c)
      else if c.stage = 1 then (if c.want ≤ c.got.length then .next (copyWrite s f c) else .next s)
      else .next s
    | _ => .next s
/-- PROMISE_MISSED (R181): the copy goes on, and the miss waits for its bench's next pass boundary. -/
def execPromiseMissed (id : Nat) (s : State) : Host.Outcome State Fault Refusal :=
  match findFlight s id with
  | none => .next s
  | some f =>
    match f.kind with
    | .copy c =>
      match c.deadline with
      | some d =>
        .next (if d.toNat < s.bell.toNat then putFlight (noteMiss s f c) { f with kind := .copy { c with deadline := none } } else s)
      | none => .next s
    | _ => .next s
/-- MATRIX_UNIT_DONE (R258). -/
def execMatrixUnitDone (id : Nat) (s : State) : Host.Outcome State Fault Refusal :=
  match findFlight s id with
  | none => .next s
  | some f =>
    match f.kind with
    | .matrix false => .next (putFlight s { f with kind := .matrix true })
    | _ => .next s
/-- Do rows of bytes overlap? -/
def rowsMeet (xs ys : List (Int × Nat)) : Bool :=
  xs.any fun x => ys.any fun y => decide (x.1 < y.1 + Int.ofNat y.2) && decide (y.1 < x.1 + Int.ofNat x.2)
/-- May a queued `tmma` be handed over: its granules have landed, the earlier copies and held stores onto them are
done (R270), and no `tmma` before it in the order of one of its four tiles is unfinished (R254)? -/
def handoverOk (s : State) (f : Flight) (c : TmmaCmd) : Bool :=
  let rows := tmmaRows c
  let t := flightTask s f
  let held := fun (g : Flight) => rowsMeet ((itemsOf g).map fun i => (Int.ofNat i.addr.toNat, i.size)) rows
  (rows.all fun r => (winWaiting t r.1.toNat r.2).isEmpty) &&
    !(s.flights.any fun g => g.core == f.core && g.task == f.task &&
      match g.kind with
      | .copy x => decide (g.id < f.id) && rowsMeet (dstRows x) rows
      | .stagedStore _ => decide (g.id < f.id) && held g
      | .stagedAtom _ _ _ _ _ _ => decide (g.id < f.id) && held g
      | .stagedRows false _ _ _ => decide (g.id < f.id) && held g
      | .stagedRows true _ k _ => decide (g.id < f.id) && decide (c.tile ≤ k) && decide (k < c.tile + 4)
      | .tmma x => decide (x.order < c.order) && decide (x.tile < c.tile + 4) && decide (c.tile < x.tile + 4)
      | _ => false)
/-- TMMA_HANDOVER (R270): without ACC the tiles begin at zero. -/
def execTmmaHandover (id : Nat) (s : State) : Host.Outcome State Fault Refusal :=
  match findFlight s id with
  | none => .next s
  | some f =>
    match f.kind with
    | .tmma c =>
      if !c.started && handoverOk s f c then
        let s := putFlight s { f with kind := .tmma { c with started := true } }
        .next (if tmACC c || decide (c.nextChunk ≠ 0) then s
          else (List.range 4).foldl (fun s q => putTile s f.core (c.tile + q) Tile.zero) s)
      else .next s
    | _ => .next s
/-- TMMA_COMPLETE (R271). -/
def execTmmaComplete (id : Nat) (s : State) : Host.Outcome State Fault Refusal :=
  match findFlight s id with
  | none => .next s
  | some f =>
    match f.kind with
    | .tmma c =>
      if c.started then
        let s := tmmaChunks s f c (chunksTo c (tmK c / 8))
        let s := putFlight s { f with kind := .matrix true }
        .next (if tmARR c then arriveCopy s f.task (flightCoreT s f) (tmGroup c) else s)
      else .next s
    | _ => .next s
/-- MATRIX_FLAG_FALL (R276). -/
def execMatrixFlagFall (id : Nat) (s : State) : Host.Outcome State Fault Refusal :=
  match findFlight s id with
  | none => .next s
  | some f =>
    match f.kind with
    | .matrix true => .next (endFlight s f)
    | _ => .next s
/-- TILE_ROWS_DONE (R263). -/
def execTileRowsDone (id : Nat) (s : State) : Host.Outcome State Fault Refusal :=
  match findFlight s id with
  | none => .next s
  | some f =>
    match f.kind with
    | .tileRows => .next (endFlight s f)
    | .stagedRows load fmt tile items => .next (landRows s f load fmt tile items)
    | _ => .next s

/-! ## Lifts, idle clocks, the timetable (R127, R130, R314) -/

/-- LIFT_PASS (R130): it is part of the choice of a pass, before which no other event can come. -/
def execLiftPass (core slot : Nat) (s : State) : Host.Outcome State Fault Refusal := .next (liftStart s core slot)
/-- PIPE_IDLE_CLOCK (R127): one more clock without a clause. -/
def execPipeIdleClock (core pipe : Nat) (s : State) : Host.Outcome State Fault Refusal :=
  .next (putCore s core (ttAfter (getCore s core) pipe false 1))
/-- TIMETABLE_IDLE_ADVANCE (R314). -/
def execTimetableIdleAdvance (core pipe : Nat) (s : State) : Host.Outcome State Fault Refusal :=
  let c := getCore s core
  let n := (lookupKey c.ttIdle pipe).getD 0
  .next (if n < 32 then s else putCore s core (ttAdvance c pipe (n - 32)))

/-! ## Deadlines of remote accesses (R395, R401, R402) -/

/-- REMOTE_REPLY_DEADLINE (R395): every seat that still waits has its element poisoned with cause 1. -/
def execRemoteReplyDeadline (id : Nat) (s : State) : Host.Outcome State Fault Refusal :=
  match findFlight s id with
  | none => .next s
  | some f =>
    match f.kind with
    | .remoteLoad _ _ _ _ =>
      .next (landSeats (answered s id f.seats) f (seatsOf f.seats) (fun _ _ => 0) (fun _ => Cap.null) fun _ => some 1)
    | _ => .next s
/-- The remote address that an instruction in flight still awaits, for the record of its abort (R387). -/
def awaitedAddr (s : State) (id : Nat) : Word :=
  match s.remote.find? fun o => o.flight == id with
  | some o => o.addr
  | none =>
    match findFlight s id with
    | some { kind := .sret c _ _ _, .. } => capCursor c
    | _ => 0
/-- A remote access of an instruction in flight aborts its task, on its core or in the save space. -/
def remoteAbort (s : State) (id : Nat) (cause : AbortCause) (va : Word) : State :=
  match findFlight s id with
  | some f => abortFlight (answered s id f.seats) f cause va
  | none =>
    match savedFlight s id with
    | some (t, th, f) => abortSaved (answered s id f.seats) t th f cause va
    | none =>
      match stageReqOf s id with
      | some x => stageFails s x cause va
      | none => s
/-- An instruction in flight ends as no path left does (R388). -/
def pathLost (s : State) (id : Nat) (va : Word) : State := remoteAbort s id .remoteLost va
/-- REMOTE_ACK_DEADLINE (R401, R402): the task is aborted. -/
def execRemoteAckDeadline (id : Nat) (s : State) : Host.Outcome State Fault Refusal := .next (pathLost s id (awaitedAddr s id))

/-! ## Words that are no instruction (R40, R43) -/

/-- ILLEGAL_INSTRUCTION_WORD: ILLEGAL_INSTRUCTION, or ILLEGAL_ENCODING; AUX is the word (R387). A header's own resumes at
the header. -/
def execIllegalWord (word : Word32) (kind : IllegalKind) (s : State) : Host.Outcome State Fault Refusal :=
  match kind with
  | .unassigned => passFault s (auxFault 0x01 1 word.toNat)
  | .field => passFault s (auxFault 0x02 1 word.toNat)
  | .header =>
    .next (raiseFault s
      { slot := s.sel.slot, code := 0x02, sub := 2, ifa := s.sel.pc, addr := 0, mask := s.sel.seats
        seat := lowestSeat s.sel.seats, resume := s.sel.pc, index := 0, past := false
        aux := word.setWidth 128, auxTag := false, bell := s.bell } false)

end Sys2Proof.Machine
end

