-- ==== Sys2Proof/Machine/Hubs.lean ====
section
/-!
DEFINITION. Translation structures, shootdowns and leases (R223 to R235, R358), carve changes (R239 to R242), soft errors
(R247), hotness sampling (R249 to R251), page migration (R248), pool segments (R423).
-/
namespace Sys2Proof.Machine

/-! ## Walks and leases (R224, R229, R233, R234) -/

/-- PAGE_WALK (R224, R225): a walk for a task, whose failure aborts it. A walk for a fetch that finds no X aborts nothing:
the fetch faults (R37). -/
def execPageWalk (task : Word) (core : Nat) (va : Word) (acc : Access) (s : State) : Host.Outcome State Fault Refusal :=
  match findTask s task with
  | none => .next s
  | some t =>
    let sp := taskSpace s t
    if pathAt sp va.toNat ≠ .paged then .next s
    else
      match walk s core sp va.toNat acc with
      | .ok (_, s) => .next s
      | .error (.page k) => .next (abortOn s task (some core) (.pageFault va k))
      | .error _ => .next s
/-- Entries of a unit that have expired are gone (R229). -/
def dropExpired (s : State) (u : TlbUnit) : State :=
  match u with
  | .core k =>
    let c := getCore s k
    putCore s k { c with tlb := c.tlb.filter fun e => decide (s.bell < e.expiry) }
  | .die d =>
    { s with
      dieTlb := s.dieTlb.map fun e => if e.1 = d then (d, e.2.filter fun x => decide (s.bell < x.expiry)) else e
      walkCache := s.walkCache.map fun e => if e.1 = d then (d, e.2.filter fun x => decide (s.bell < x.expiry)) else e
      grantCache := s.grantCache.map fun e => if e.1 = d then (d, e.2.filter fun g => g.expiry.all fun u => decide (s.bell < u)) else e }
/-- LEASE_EXPIRE (R229). -/
def execLeaseExpire (unit : TlbUnit) (s : State) : Host.Outcome State Fault Refusal := .next (dropExpired s unit)
/-- The grant of a returned access is not used again. -/
def dropGrant (s : State) (o : RemoteOut) : State :=
  { s with grantCache := s.grantCache.map fun e =>
      if e.1 = o.die then (e.1, e.2.filter fun g => !(g.target == o.target && g.slot == o.body.slot && g.expiry == o.body.expiry)) else e }
/-- HUB_RETURN_EXPIRED (R229): a request to another package comes back, and is translated again and sent once more; later ones to
its line are held behind it. An access inside this package whose translation has expired is walked again where it is performed
(`placesNow`). -/
def execHubReturnExpired (id : Nat) (s : State) : Host.Outcome State Fault Refusal :=
  match s.remote.find? fun o => o.req == id with
  | none => .next s
  | some o =>
    let s := dropGrant s o
    .next (sendHeld { s with remote := s.remote.map fun x => if x.req == id then unsent x else x })
/-- Every entry of a unit is gone (R233). -/
def dropAll (s : State) (u : TlbUnit) : State :=
  match u with
  | .core k => putCore s k { getCore s k with tlb := [] }
  | .die d => { s with dieTlb := dropKey s.dieTlb d, walkCache := dropKey s.walkCache d, grantCache := dropKey s.grantCache d }
/-- BELL_SKEW_DETECT (R233): the unit's bell differs from its die's reference by more than 100 ns. It discards its entries and uses
none; the event is logged and counted. -/
def execBellSkewDetect (r : SkewReport) (s : State) : Host.Outcome State Fault Refusal :=
  if isSkewed s r.unit || decide (r.diff ≤ 100) then .next s
  else
    let s := dropAll { s with skewed := s.skewed ++ [r.unit] } r.unit
    let s := { s with mgmt := { s.mgmt with skewEvents := s.mgmt.skewEvents + 1 } }
    .next (addLog s .leaseSkew (match r.unit with
      | .core k => BitVec.ofNat 64 k
      | .die d => BitVec.ofNat 64 (2 ^ 32 + d)))
/-- SKEW_RECOVERY (R233): the difference has been 50 ns or less since a bell 10 µs ago. -/
def execSkewRecovery (r : SkewReport) (s : State) : Host.Outcome State Fault Refusal :=
  if r.diff ≤ 50 ∧ r.since.toNat + 10000 ≤ s.bell.toNat then .next { s with skewed := s.skewed.filter fun u => !(u == r.unit) }
  else .next s
/-- How a transfer uses the page of an address. -/
def flightAccess (f : Flight) (va : Word) : Access :=
  match f.kind with
  | .copy c =>
    if (dstRows c).any fun r => decide (r.1 / 4096 ≤ Int.ofNat (va.toNat / 4096)) &&
        decide (Int.ofNat (va.toNat / 4096) ≤ (r.1 + Int.ofNat r.2 - 1) / 4096) then .store else .load
  | _ => .load
/-- TRANSLATION_RENEWAL (R234): a fresh walk; a page that is no longer present aborts the task. -/
def execTranslationRenewal (id : Nat) (va : Word) (s : State) : Host.Outcome State Fault Refusal :=
  match findFlight s id with
  | none => .next s
  | some f =>
    let sp := taskSpace s (flightTask s f)
    if pathAt sp va.toNat ≠ .paged then .next s
    else
      match walk s f.core sp va.toNat (flightAccess f va) with
      | .ok (_, s) => .next s
      | .error e => .next (copyFail s f va e)

/-! ## Shootdowns (R230, R231, R358, R455) -/

/-- SDQTAIL (R455): requests written into a full ring are remembered. -/
def sdqtailSet (v : Word32) (s : State) : State :=
  let m := s.mgmt
  let n := (v - m.sdqtail).toNat
  let late := ((List.range n).map fun k => (m.sdqtail.toNat + k) % 2 ^ 32).filter fun i =>
    2 ^ m.sdqlog.toNat ≤ (i + 2 ^ 32 - m.sdqdone.toNat) % 2 ^ 32
  { s with mgmt := { m with sdqtail := v, sdqover := m.sdqover ++ late } }
/-- SDQTAIL_WRITE (R455). -/
def execSdqtailWrite (v : Word32) (s : State) : Host.Outcome State Fault Refusal := .next (sdqtailSet v s)
/-- Does [base, base + size) meet a range, of which length 0 is everything? -/
def rangeMeets (va len base size : Nat) : Bool := len == 0 || (decide (base < va + len) && decide (va < base + size))
/-- The expiries of every live entry and grant for a range of an address space, or of every one (R231). -/
def liveExpiries (s : State) (asn : Option Nat) (va len : Nat) : List Word :=
  let mine := fun (a : Nat) => match asn with
    | some x => a == x
    | none => true
  let tlb := (s.cores.flatMap fun c => c.2.tlb) ++ s.dieTlb.flatMap fun d => d.2
  ((tlb.filter fun e => mine e.asn && rangeMeets va len e.base e.size).map (·.expiry) ++
    ((s.walkCache.flatMap fun d => d.2).filter fun e =>
      let size := 2 ^ (12 + 9 * (e.level + 1))
      mine e.asn && rangeMeets va len (e.prefixV * size) size).map (·.expiry) ++
    (s.grants.filter fun g => mine g.asn && rangeMeets va len g.page g.size).map (·.expiry)).filter
      fun e => decide (s.bell < e)
/-- EXPIRY of an acknowledgement (R231). -/
def ackExpiry (s : State) (asn : Option Nat) (va len : Nat) : Word :=
  match liveExpiries s asn va len with
  | [] => 0
  | e :: es => es.foldl (fun a b => if a.toNat < b.toNat then b else a) e + 128
/-- SHOOTDOWN_REQUEST (R231, R455): the next request is read and acknowledged. Walks take one step here, so that none is
in flight on the range. -/
def execShootdownRequest (s : State) : Host.Outcome State Fault Refusal :=
  let m := s.mgmt
  if m.sdqdone = m.sdqtail then .next s
  else
    let n := 2 ^ m.sdqlog.toNat
    let i := m.sdqdone.toNat
    let a := m.sdqbase.toNat + 32 * (i % n)
    let flags := memValue s.mem (a + 4) 4
    let asn := if flags % 2 = 1 then none else some (memValue s.mem (a + 8) 4)
    let va := memValue s.mem (a + 0x10) 8
    let len := memValue s.mem (a + 0x18) 8
    let bad := decide (4 ≤ flags) || memValue s.mem (a + 0xC) 4 != 0 || m.sdqover.contains i
    let expiry := if bad then 0 else ackExpiry s asn va len
    let b := m.sdqbase.toNat + 32 * n + 16 * (i % n)
    let bytes := bytesLE 4 (memValue s.mem a 4) ++ bytesLE 4 bad.toNat ++ bytesLE 8 expiry.toNat
    .next { s with
      mem := memStore s.mem b bytes false
      mgmt := { m with sdqdone := m.sdqdone + 1, sdqover := m.sdqover.filter (· != i) }
      agenda := s.agenda ++ (if bad then [] else [.icacheInvalidate expiry asn (BitVec.ofNat 64 va) len]) }
/-- ICACHE_INVALIDATE (R358): once the bell has passed the expiry, no instruction cache holds a line of the range. -/
def execIcacheInvalidate (due : Word) (asn : Option Nat) (va : Word) (len : Nat) (s : State) :
    Host.Outcome State Fault Refusal :=
  if s.bell < due then .next s
  else
    let hit := fun (l : ILine) => rangeMeets va.toNat len l.va 128 &&
      match asn with
      | some a => l.asn == a
      | none => l.asn != monitorAsn
    .next { s with cores := s.cores.map fun c => (c.1, { c.2 with icache := c.2.icache.filter fun l => !hit l }) }

/-! ## Carve changes (R239 to R242) -/

/-- The physical address of a way of a hub. -/
def wayAddr (hub way : Nat) : Nat := 0x0080000000000000 + hub * 0x10000000 + way * 0x1000000
/-- The ways [a, b) of a hub cleared, with tags and poison. -/
def clearWays (s : State) (hub a b : Nat) : State := { s with mem := memClear s.mem (wayAddr hub a) ((b - a) * 0x1000000) }
/-- Does another live carve object own a way of [a, b)? -/
def wayTaken (s : State) (num hub a b : Nat) : Bool :=
  s.objs.any fun o => !o.dead && !(o.num == num) &&
    match o.data with
    | .carve h w0 n _ _ _ => h == hub && decide (w0 < b) && decide (a < w0 + n)
    | _ => false
/-- The notification of a carve object takes the status of its change: bit 2^status. -/
def carveSignal (s : State) (notif st : Nat) : State := if objGone s 964 notif then s else notifyBits s notif (BitVec.ofNat 64 (2 ^ st))
/-- CARVE_COMPLETE (R240, R241): the change is made, or fails and changes nothing; the status is signalled. -/
def execCarveComplete (carve : Nat) (s : State) : Host.Outcome State Fault Refusal :=
  match findObj s 969 carve with
  | some o =>
    match o.data with
    | .carve hub w0 n notif live (some m) =>
      let done := fun (s : State) (n' : Nat) (st : Nat) =>
        carveSignal (putObj s { o with busy := false, data := .carve hub w0 n' notif live none }) notif st
      if n < m then
        if wayTaken s carve hub (w0 + n) (w0 + m) || decide (16 < w0 + m) then .next (done s n 2)
        else .next (done (clearWays s hub (w0 + n) (w0 + m)) m 0)
      else if live.any fun w => decide (w0 + m ≤ w) && decide (w < w0 + n) then .next (done s n 1)
      else .next (done (clearWays s hub (w0 + m) (w0 + n)) m 0)
    | _ => .next s
  | none => .next s

/-! ## Soft errors (R247) -/

/-- What the line of an address holds under other identifiers is read anew: a soft error meets the storage. -/
def aloneIn (m : Mem) (a : Nat) : Mem := if viewed m a then { m with views := viewOnly m.views a } else m
/-- SOFT_ERROR. -/
def execSoftError (e : SoftErr) (s : State) : Host.Outcome State Fault Refusal :=
  match e with
  | .corrected => .next (addLog s .corrected 0)
  | .hbmLine pa =>
    let a := alignDown pa 64
    .next (addLog { s with mem := [0, 16, 32, 48].foldl (fun m k => memSetPoison m (a + k) true) (aloneIn s.mem a) } .poisoning
      (BitVec.ofNat 64 a))
  | .held task va =>
    match findTask s task with
    | none => .next s
    | some t =>
      let a := alignDown va.toNat 16
      if t.dieHold.any fun l => l.line == a / 64 then
        .next (addLog (putTask s { t with dieHold := t.dieHold.map fun l =>
          if l.line = a / 64 then
            { l with tags := setNth l.tags (a / 16 % 4) (some false), poison := setNth l.poison (a / 16 % 4) (some true) }
          else l }) .poisoning (BitVec.ofNat 64 a))
      else .next s
  | .granule pa =>
    let a := alignDown pa 16
    .next (addLog { s with mem := memSetPoison (memSetTag (aloneIn s.mem a) a false) a true } .poisoning (BitVec.ofNat 64 a))

/-! ## Hotness (R249 to R251) -/

def getHot (s : State) (h : Nat) : HotCtl := nth s.hot h HotCtl.reset
def putHot (s : State) (h : Nat) (c : HotCtl) : State := { s with hot := setNth s.hot h c }
/-- The ring of a hub. -/
def hotBase (h : Nat) : Nat := 0x00C0000100000000 + h * 0x40000
/-- The hub that serves an address (R237, R238): its home hub, or that of the way of a carve. -/
def homeHub (pa : Word) : Nat :=
  if bitsOf pa 55 52 == 8 then bitsOf pa 31 28 else Nat.xor (Nat.xor (bitsOf pa 15 12) (bitsOf pa 19 16)) (bitsOf pa 23 20)
/-- How many accesses make one sample (R249). -/
def hotPeriod (c : HotCtl) : Nat := 2 ^ max 4 c.period
/-- HOTNESS_SAMPLE (R249 to R251): a hub serves an access, whose requester, flags, line and address space the event gives; the
2^PERIOD-th since the last sample is sampled. Which accesses reach a hub the caches decide. DIE is one of 0 to 12; ASN is 0 for the host, the
engines and other packages, which have no address space here (DEDUCED for 12, log 118); the flag of a carve is that of its address. -/
def execHotnessSample (hub die : Nat) (flags : BitVec 16) (pa : Word) (asn : Word32) (s : State) :
    Host.Outcome State Fault Refusal :=
  let c := getHot s hub
  if !c.en || hub != homeHub pa || decide (12 < die) then .next s
  else if c.count + 1 < hotPeriod c then .next (putHot s hub { c with count := c.count + 1 })
  else
  let c := { c with count := 0 }
  if (c.head - c.tail).toNat = 8192 then
    let t := putHot s hub { c with dropped := c.dropped + 1, full := true }
    .next (if c.full then t else fireIrq t 257)
  else
    let bytes := bytesLE 8 s.bell.toNat ++ bytesLE 4 c.seq.toNat ++ bytesLE 1 hub ++ bytesLE 1 die ++
      bytesLE 2 (flags.toNat % 4 + if bitsOf pa 55 52 = 8 then 4 else 0) ++ bytesLE 8 (alignDown pa.toNat 64) ++
      bytesLE 4 (if die < 10 then asn.toNat else 0) ++ bytesLE 4 c.dropped.toNat
    .next (putHot { s with mem := memStore s.mem (hotBase hub + 32 * (c.head.toNat % 8192)) bytes false } hub
      { c with head := c.head + 1, dropped := 0, full := false, seq := c.seq + 1 })
/-- HOTCTL (R249, R251). -/
def hotctlSet (hub : Nat) (v : Word) (s : State) : State :=
  let c := getHot s hub
  let c' := { c with en := bitOf v 5, period := bitsOf v 4 0 }
  putHot s hub (if bitOf v 5 && !c.en then { c' with head := 0, tail := 0, full := false, count := 0 } else c')
/-- HOTCTL_WRITE (R249, R251). -/
def execHotctlWrite (hub : Nat) (v : Word) (s : State) : Host.Outcome State Fault Refusal := .next (hotctlSet hub v s)
/-- HOTTAIL (R251). -/
def hottailSet (hub : Nat) (v : Word32) (s : State) : State :=
  let c := getHot s hub
  if (v - c.tail).toNat ≤ (c.head - c.tail).toNat then
    putHot s hub { c with tail := v, full := c.full && v == c.tail } else s
/-- HOTTAIL_WRITE (R251). -/
def execHottailWrite (hub : Nat) (v : Word32) (s : State) : Host.Outcome State Fault Refusal := .next (hottailSet hub v s)

/-! ## Page migration (R216, R248) -/

/-- The address space with a number (R223). -/
def spaceOfAsn (s : State) (asn : Nat) : Option ASpace :=
  s.objs.findSome? fun o => match o.data with
    | .aspace a => if a.asn == asn then some a else none
    | _ => none
/-- May a cached translation of a page still be used (R216, 2)? -/
def pageCached (s : State) (asn base size : Nat) : Bool := !(liveExpiries s (some asn) base size).isEmpty
/-- PAGE_MIGRATION (R216, R248). The page's permission to write is withdrawn and a shootdown is posted, which is acknowledged with its
EXPIRY (R231) and ends what instruction caches hold of the page (R358). Once the bell has passed that EXPIRY (R232) and no cached translation
is left, so that every location keeps its coherence order, the frame is copied with tags and poison and the new mapping is installed, with
that permission. Until then it stays due. Heap and carve addresses never migrate. -/
def execPageMigration (asn : Nat) (va : Word) (frame : NewFrame) (s : State) : Host.Outcome State Fault Refusal :=
  match spaceOfAsn s asn with
  | none => .next s
  | some sp =>
    if pathAt sp va.toNat ≠ .paged then .next s
    else
    match walkFrom s va.toNat .load 4 (sp.root.toNat / 4096) [] with
    | .error _ => .next s
    | .ok h =>
      let size := 2 ^ (12 + 9 * h.level)
      let base := alignDown va.toNat size
      match frame.expiry with
      | none =>
        let e := ackExpiry s (some asn) base size
        .next { s with
          mem := if pteBit h.pte 2 then memStore s.mem h.at_ (bytesLE 8 (h.pte - 4)) false else s.mem
          agenda := s.agenda ++ [.icacheInvalidate e (some asn) (BitVec.ofNat 64 base) size, .pageMigration asn va { frame with expiry := some e }] }
      | some e =>
      if s.bell < e ∨ pageCached s asn base size then
        .next { s with agenda := s.agenda ++ [.pageMigration asn va frame] }
      else
        let old := memSlice s.mem (poolPlace s (ptePpn h.pte * 4096)) size
        let pa := alignDown frame.pa size
        let dst := poolPlace s pa
        let pte := putBits (if frame.writable then Nat.lor h.pte 4 else h.pte) 10 44 (pa / 4096)
        let src := poolPlace s (ptePpn h.pte * 4096)
        let blank := (List.range (size / 64)).filter fun k => !viewed s.mem (src + 64 * k)
        let pasted := memPaste s.mem dst size old
        let m := memStore { pasted with views := blank.foldl (fun l k => viewPut l (lineKey (dst + 64 * k)) []) pasted.views } h.at_
          (bytesLE 8 pte) false
        .next (old.tags.foldl (fun s g => summarise s (dst + 16 * g)) { s with mem := m })

/-! ## Pool segments (R423) -/

/-- POOLSEG (R423): clearing VALID starts the write-back, and the register reads valid until it ends. -/
def poolsegSet (i : Nat) (v : Word) (s : State) : State :=
  let old := nth s.mgmt.poolseg i 0
  let new : Word := BitVec.ofNat 64 ((bitOf v 63).toNat * 2 ^ 63 + bitsOf v 47 36 * 2 ^ 36 + bitsOf v 19 0)
  let put := fun (w : Word) => { s with mgmt := { s.mgmt with poolseg := setNth s.mgmt.poolseg i w } }
  if !bitOf old 63 then put new
  else if !bitOf new 63 then
    { s with mgmt := { s.mgmt with poolUnmapping := s.mgmt.poolUnmapping.filter (· != i) ++ [i] } }
  else s
/-- POOLSEG_WRITE (R423). -/
def execPoolsegWrite (i : Nat) (v : Word) (s : State) : Host.Outcome State Fault Refusal := .next (poolsegSet i v s)
/-- POOLSEG_UNMAP_DONE (R423). -/
def execPoolsegUnmapDone (i : Nat) (s : State) : Host.Outcome State Fault Refusal :=
  let m := s.mgmt
  if m.poolUnmapping.contains i then
    .next { s with mgmt :=
      { m with poolUnmapping := m.poolUnmapping.filter (· != i), poolseg := setNth m.poolseg i (nth m.poolseg i 0 &&& 0x7FFFFFFFFFFFFFFF) } }
  else .next s

end Sys2Proof.Machine
end

