-- ==== Sys2Proof/Machine/Tasks.lean ====
section
/-!
DEFINITION. The events of the Dean: bins (R290, R291), the ready pool (R292, R295), admission, staging, dispatch and
retirement (R296 to R305), aborts (R307), checkpoints (R309, R311, R331), parking (R327), the runs of the monitor bench (R366,
R380, R382), dispositions (R386), placement (R389), machine checks (R398).
-/
namespace Sys2Proof.Machine

/-! ## Bins (R290, R291) -/

/-- The graph that a node belongs to, with the node's place in it. -/
def graphOfNode (s : State) (node : Nat) : Option (Nat × Nat) :=
  s.objs.findSome? fun o => match o.data with
    | .graph g => (g.nodes.findIdx? (· == node)).map fun n => (o.num, n)
    | _ => none
/-- BIN_TIMER_EXPIRE (R290): every delivered record is launched. -/
def execBinTimerExpire (node : Nat) (s : State) : Host.Outcome State Fault Refusal :=
  match graphOfNode s node with
  | none => .next s
  | some (g, n) =>
    let b := binOf s g n
    match b.timer with
    | some u =>
      if u.toNat ≤ s.bell.toNat ∧ b.delivered ≠ [] then
        .next (launchTask (putBin s g n { b with delivered := [], timer := none }) g n b.delivered)
      else .next s
    | none => .next s
/-- The checkpoint of a task that stands saved: nothing of it runs, so steps 2 to 5 of R331 follow at once, from what was saved. -/
def savedCkpt (s : State) (t : Task) : State :=
  match takeCheckpoint s t with
  | .error (va, e) => engineFault s t va e
  | .ok (s, t) => putTask s t
/-- An implicit checkpoint (R311): the task halts for it, once it runs if it is being restored, or ends where CKPTAREA fails a check of
R331. A task that stores its regions has no pass left, and delivers its records as it retires. -/
def implicitCkpt (s : State) (t : Task) (bin : Bool) : State :=
  let n := taskNode s t
  match ckptFault s (taskSpaceNum s t) n with
  | some f =>
    let aux := if n.ckptArea = Cap.null then 0 else f.1 + 256 * f.2
    endTask s t.id { FaultRec.empty s.bell t.requeues with aux := BitVec.ofNat 128 aux } (if bin then 6 else 5)
  | none =>
    match t.phase, t.saved with
    | .running, _ | .halted _, _ | .restoring, _ => haltTask s t .checkpoint
    | .pool, true => savedCkpt s t
    | _, _ => s
/-- The places that a task holds in a bin. -/
def placesHeld (t : Task) (g n : Nat) : Nat := (t.reserved.filter fun b => b.1 == g && b.2 == n).length
/-- The task that holds the most reserved places of a bin, then the lowest TASK_ID (R291). -/
def mostPlaces (s : State) (g n : Nat) : Option Task :=
  (s.tasks.filter fun t => placesHeld t g n != 0).foldl (fun best t =>
    match best with
    | none => some t
    | some b =>
      if placesHeld b g n < placesHeld t g n ∨ (placesHeld b g n = placesHeld t g n ∧ t.id.toNat < b.id.toNat) then some t
      else some b) none
/-- EMIT_STALL_TIMEOUT (R291). The wait is counted anew from here. -/
def execEmitStallTimeout (core slot seat : Nat) (s : State) : Host.Outcome State Fault Refusal :=
  match (getSeat (getBench s core slot) seat).state with
  | .blocked (.emit g e addr since pass) =>
    if s.bell.toNat < since.toNat + 20000 then .next s
    else
      let s := onSeat s core slot seat fun x => { x with state := .blocked (.emit g e addr s.bell pass) }
      match (graphOf s g).edges[e]? with
      | none => .next s
      | some x =>
        match mostPlaces s g x.2.1 with
        | some t => .next (implicitCkpt s t true)
        | none => .next s
  | _ => .next s
/-- IMPLICIT_CHECKPOINT (R310, R311). -/
def execImplicitCheckpoint (task : Word) (bin : Bool) (s : State) : Host.Outcome State Fault Refusal :=
  match findTask s task with
  | some t => .next (implicitCkpt s t bin)
  | none => .next s

/-! ## The ready pool (R292, R295) -/

/-- PRIORITY_AGING (R292): a task 1,000,000 ns in the pool without a break takes class 0. -/
def execPriorityAging (task : Word) (s : State) : Host.Outcome State Fault Refusal :=
  match findTask s task with
  | none => .next s
  | some t =>
    if t.phase = .pool ∧ t.conds = [] ∧ t.since.toNat + 1000000 ≤ s.bell.toNat then
      .next (putTask s { t with poolTime := 1000000 })
    else .next s
/-- The teams on a die that may be pre-empted for class c, the most recently dispatched first (R295). -/
def victims (s : State) (die c : Nat) : List Task :=
  (s.tasks.filter fun t => t.phase == .running && t.die == die && decide (c < (taskNode s t).prio)).foldl
    (fun acc t => (acc.filter fun x => decide (t.dispatchSeq < x.dispatchSeq)) ++ [t] ++
      acc.filter fun x => decide (x.dispatchSeq ≤ t.dispatchSeq)) []
/-- The package without a task on its cores. -/
def without (s : State) (v : Task) : State := putTask (unplace s v) v.offCore
/-- The victims, in order, until the task fits on the die; none if it never does. -/
def enoughVictims (t : Task) (die : Nat) : State → List Task → Option (List Task)
  | s, [] => if (formTeam s t die).isSome then some [] else none
  | s, v :: vs =>
    if (formTeam s t die).isSome then some [] else (enoughVictims t die (without s v) vs).map fun l => v :: l
/-- The package once the teams already halted are off their cores. -/
def afterHalts (s : State) : State :=
  (s.tasks.filter fun t => match t.phase with
    | .halted _ => true
    | _ => false).foldl without s
/-- Has a task had no die for 50,000 ns (R295)? -/
def starved (s : State) (t : Task) : Bool :=
  (bestDie s t).isNone && match t.noDie with
    | some u => decide (u.toNat + 50000 ≤ s.bell.toNat)
    | none => false
/-- DEAN_PREEMPT (R295): the lowest die where it helps. -/
def execDeanPreempt (task : Word) (s : State) : Host.Outcome State Fault Refusal :=
  match findTask s task with
  | none => .next s
  | some t =>
    if !inPool t || !starved s t then .next s
    else
      let later := afterHalts s
      match (List.range Config.dies).findSome? fun d => enoughVictims t d later (victims s d (effClass s t)) with
      | none => .next s
      | some vs => .next (vs.foldl (fun s v =>
          match findTask s v.id with
          | some v => haltTask s v .deanPreempt
          | none => s) s)

/-! ## Placement (R296, R389) -/

/-- A task that no die can host is parked with a record to FAULTEP (R389). -/
def placementFail (s : State) (t : Task) : State :=
  let q := placementRec s t
  sendNextFault (putTask s { t with conds := t.conds ++ [.placement], faults := insertFault t.faults q }) t.id
/-- TASK_ADMIT (R296, R389). -/
def execTaskAdmit (task : Word) (die : Nat) (s : State) : Host.Outcome State Fault Refusal :=
  match findTask s task with
  | none => .next s
  | some t =>
    if !inPool t || imagesWaiting s t then .next s
    else if !featPlaceable s t then .next (placementFail s t)
    else
      match formTeam s t die with
      | some team => .next (admitTask s t die team)
      | none => .next s
/-- A task back in the ready pool from now on (R292). -/
def toPool (s : State) (t : Task) : State := putTask s { t with since := s.bell, poolTime := 0 }
/-- Is a record that of R389? -/
def isPlacement (r : FaultRec) : Bool := r.code == 0x50 && r.sub == 3
/-- FEAT_CHANGE_RETEST (R389). -/
def execFeatChangeRetest (task : Word) (s : State) : Host.Outcome State Fault Refusal :=
  match findTask s task with
  | none => .next s
  | some t =>
    if t.conds.contains .placement && featPlaceable s t then
      .next (toPool s { t with
        conds := t.conds.filter fun c => !(c == ParkCond.placement), faults := t.faults.filter fun r => !isPlacement r })
    else .next s
/-- LEASEMAX_REQUEUE_WAIT (R388). -/
def execLeasemaxRequeueWait (task : Word) (s : State) : Host.Outcome State Fault Refusal :=
  match findTask s task with
  | none => .next s
  | some t =>
    let late := fun (c : ParkCond) => match c with
      | .leasemax u => decide (u.toNat ≤ s.bell.toNat)
      | _ => false
    if t.conds.any late then .next (toPool s { t with conds := t.conds.filter fun c => !late c }) else .next s
/-- PAGER_RESIDENT (R303, R305, R307). -/
def execPagerResident (task : Word) (s : State) : Host.Outcome State Fault Refusal :=
  match findTask s task with
  | none => .next s
  | some t =>
    if t.conds.contains .page then .next (toPool s { t with conds := t.conds.filter fun c => !(c == ParkCond.page) })
    else .next s

/-! ## Staging and dispatch (R151, R301, R303) -/

/-- STAGING_GRANULE_LAND (R151). -/
def execStagingGranuleLand (task : Word) (coreT region granule : Nat) (s : State) : Host.Outcome State Fault Refusal :=
  match findTask s task with
  | none => .next s
  | some t =>
    if (taskCore t coreT).staging.any fun e => e.region == region && e.waiting.contains granule then
      match landGranule s t coreT region granule with
      | .ok s => .next s
      | .error (va, e) => .next (engineFault s t va e)
    else .next s
/-- STAGING_PAGE_FAULT (R303). -/
def execStagingPageFault (task : Word) (va : Word) (sub : Nat) (s : State) : Host.Outcome State Fault Refusal :=
  match findTask s task with
  | none => .next s
  | some t => if t.cores = [] then .next s else .next (loaderFault s t va sub)
/-- TASK_DISPATCH (R301, R309). -/
def execTaskDispatch (task : Word) (s : State) : Host.Outcome State Fault Refusal :=
  match findTask s task with
  | none => .next s
  | some t => .next (if dispatchDue s t then dispatchTask s t else s)

/-! ## Retirement (R204, R305) -/

/-- Has a running task nothing left to do, its staging landed, since the storers read what the loaders wrote (R209, R278)? -/
def retireDue (s : State) (t : Task) : Bool :=
  t.phase == .running && allExited s t && stagingDone t && !(s.flights.any fun f => f.task == t.id)
/-- TASK_RETIRE (R305, 1 and 2): the hold is published. -/
def execTaskRetire (task : Word) (s : State) : Host.Outcome State Fault Refusal :=
  match findTask s task with
  | none => .next s
  | some t =>
    if retireDue s t then
      match publishHold s t with
      | .ok (s, t) => .next (putTask s { t with phase := .storing })
      | .error (va, e) => .next (engineFault s t va e)
    else .next s
/-- TASK_RETIRE_RELEASE (R305, 2 and 3): the storers write, everything is released, the records are delivered. -/
def execTaskRetireRelease (task : Word) (s : State) : Host.Outcome State Fault Refusal :=
  match findTask s task with
  | none => .next s
  | some t =>
    if t.phase ≠ .storing ∨ t.conds.contains .page then .next s else .next (storeOut s t)

/-! ## Aborts, checkpoints, halts (R307, R331, R376 to R379) -/

/-- TASK_ABORT (R307). -/
def execTaskAbort (task : Word) (cause : AbortCause) (s : State) : Host.Outcome State Fault Refusal :=
  .next (abortTask s task cause)
/-- TEAM_HALT (R376, R377). -/
def execTeamHalt (task : Word) (why : HaltWhy) (s : State) : Host.Outcome State Fault Refusal :=
  match findTask s task with
  | none => .next s
  | some t =>
    match why with
    | .abort => .next (abortTask s task .requeue)
    | .machineCheck => .next (machineAbort s task (taskCore t 0).phys 0 1 0)
    | why => .next (haltTask s t why)
/-- Are the waits of R338 over for every bench of a halted task: loads (but remote and held ones), copies and matrix
instructions have completed, stores have been accepted here and acknowledged elsewhere, so that the publication covers them
(R202), and posts already sent have come back (R414)? -/
def ckptClear (s : State) (t : Task) : Bool :=
  (s.flights.all fun f => f.task != t.id ||
    match f.kind with
    | .remoteStore _ _ => false
    | _ => !savingWaits s 0 f) &&
  !(s.board.any fun b => b.2.queue.any fun q => q.task == t.id && q.sent.isSome) &&
  t.cores.all fun c => !runOf s c.phys t.id
/-- The seats that wait for the checkpoint go on. -/
def freeCkptSeats (b : Bench) : Bench :=
  { b with seats := b.seats.map fun x => match x.state with
      | .blocked .ckpt => { x with state := .eligible }
      | _ => x }
/-- CHECKPOINT_COMPLETE (R331, steps 2 to 6; R332): the image is written and becomes the restart image, the hold is
published, the records are delivered; then the benches resume, or the halt takes its course. -/
def execCheckpointComplete (task : Word) (s : State) : Host.Outcome State Fault Refusal :=
  match findTask s task with
  | none => .next s
  | some t =>
    if !ckptPending t || !ckptClear s t then .next s
    else
      match takeCheckpoint s t with
      | .error (va, e) => .next (engineFault s t va e)
      | .ok (s, t) =>
        let rest := (haltReasons t).filter fun w => !(w == HaltWhy.checkpoint)
        let s := onBenches s t freeCkptSeats
        match rest with
        | [] => .next (resumeTask s { t with ckptSeats := [], haltQ := [] })
        | w :: ws => .next (saveRunEnded (putTask s { t with ckptSeats := [], phase := .halted w, haltQ := ws }) task)
/-- Is a task blocked as R327 says: a live seat, and every live seat in `send`, `recv`, `xcall` or `sysc`? -/
def endpointBlocked (s : State) (t : Task) : Bool :=
  let live := ((taskSeats s t).map (·.2)).filter fun x => !(x.state == .exited)
  t.phase == .running && !live.isEmpty && live.all fun x =>
    match x.state with
    | .blocked (.send _) => true
    | .blocked (.recv _ _ _ _ _ _) => true
    | .blocked (.xcall _ _ _ _ _ _ _) => true
    | .blocked (.sysc _ _ _ _ _ _ _ _) => true
    | _ => false
/-- PARK_BLOCKED_TASK (R327). -/
def execParkBlockedTask (task : Word) (s : State) : Host.Outcome State Fault Refusal :=
  match findTask s task with
  | none => .next s
  | some t =>
    if endpointBlocked s t && t.blockedSince != 0 && decide (t.blockedSince.toNat + 4000 ≤ s.bell.toNat) then
      .next (haltTask s t .parkBlocked)
    else .next s
/-- PARKED_DELIVERY (R327): what reaches a parked seat is written into its image. -/
def execParkedDelivery (task : Word) (coreT benchT seat : Nat) (d : Delivery) (s : State) :
    Host.Outcome State Fault Refusal :=
  match findTask s task with
  | none => .next s
  | some t =>
    match lookupKey t.savedWaits ⟨coreT, benchT, seat⟩ with
    | some w => if t.saved then .next (deliverSaved s t ⟨coreT, benchT, seat⟩ w d) else .next s
    | none => .next s

/-! ## Runs of the monitor bench (R366, R380, R382) -/

/-- The monitor bench at the entry of a run. -/
def monitorBench (s : State) (entry : Word) (c1 : Option Cap) : Bench :=
  let pc := capCursor s.monitorCode + entry
  { Bench.reset with
    mode := .running, rowBudget := 8, capBudget := 4
    crows := match c1 with
      | some c => [rowSet (freshRow 1 Cap.null) 0 c none]
      | none => []
    code := s.monitorCode
    seats := { Seat.reset with pc := pc, hdr := pc, state := .eligible } :: List.replicate 31 Seat.reset
    hlimit := 0xFFFFFFFFFFFFFFFF }
/-- Open a run with its handler registers. -/
def openRun (s : State) (core : Nat) (kind : RunKind) (fault : Option FaultInfo) (r : TRegs) (entry : Word)
    (c1 : Option Cap) : State :=
  let c := getCore s core
  putCore s core { c with
    run := some ⟨kind, fault⟩, tregs := r, benches := putKey c.benches 64 (monitorBench s entry c1) }
/-- CTX of a bench: the number of its graph (R352). -/
def benchCtx (s : State) (b : Bench) : Word := BitVec.ofNat 64 ((findTask s b.task).getD Task.none_).graph
/-- The save area of a bench. -/
def saveArea (s : State) (t : Task) (coreT benchT : Nat) : Cap :=
  let n := taskNode s t
  let a := t.saveBase.toNat + imgPlace n coreT benchT
  boundedCap (BitVec.ofNat 64 a) 0x3C0 0 a (a + imgSize n.rows n.capRows (imgAcc n benchT)) true
/-- Is a core's monitor bench free? -/
def runFree (s : State) (core : Nat) : Bool := (getCore s core).run.isNone
/-- Fault runs that come first (R380): those whose task does not wait for a checkpoint (R332). -/
def faultReady (s : State) (core : Nat) : Option FaultInfo :=
  (getCore s core).faultQ.find? fun f =>
    match findTask s (getBench s core f.slot).task with
    | some t => !ckptPending t
    | none => true
/-- Has a bench nothing to wait for before its save run (R366, R379)? -/
def saveFree (s : State) (core slot : Nat) : Bool :=
  match findTask s (getBench s core slot).task with
  | some t =>
    !ckptPending t && (match t.phase with
      | .halted _ => true
      | _ => false) &&
    (t.cores.all fun k =>
      ((getCore s k.phys).faultQ.all fun f => (getBench s k.phys f.slot).task != t.id) &&
        !(runOf s k.phys t.id && (getCore s k.phys).run.any fun r => r.kind == .fault)) &&
    !(s.board.any fun b => b.2.queue.any fun q => q.task == t.id && q.sent.isSome)
  | none => false
/-- May a save run open for a bench: after the fault runs, the lowest TBENCH first (R366, R380)? -/
def saveReady (s : State) (core slot : Nat) : Bool :=
  let q := (getCore s core).saveQ.filter (saveFree s core)
  runFree s core && (faultReady s core).isNone && q.contains slot && q.all fun k => decide (slot ≤ k)
/-- SAVE_RUN_OPEN (R366). -/
def execSaveRunOpen (core slot : Nat) (s : State) : Host.Outcome State Fault Refusal :=
  if !saveReady s core slot then .next s
  else
    let b := getBench s core slot
    match findTask s b.task with
    | none => .next s
    | some t =>
      let x := (b.seats.find? fun y => !(y.state == .exited)).getD (getSeat b 0)
      let c := getCore s core
      let s := putCore s core { c with saveQ := c.saveQ.filter (· != slot) }
      .next (openRun s core .save none
        ⟨BitVec.ofNat 7 slot, 0x0100, 0, 0, 0, x.hdr, BitVec.ofNat 5 (min 16 x.idx), benchCtx s b⟩ 0
        (some (saveArea s t (coreTOf t core) b.benchT)))
/-- The recorded header and index of the lowest live seat of an image (R366). -/
def imageResume (s : State) (img : Nat) : Word × Nat :=
  let k := ((List.range 32).find? fun k => physValue s (img + 0x220 + k) 1 % 4 != 2).getD 0
  (BitVec.ofNat 64 (physValue s (img + 0x100 + 8 * k) 8), physValue s (img + 0x200 + k) 1)
/-- May a restore run open: after the save runs, the lowest TBENCH first (R366, R380)? -/
def restoreReady (s : State) (core slot : Nat) : Bool :=
  let c := getCore s core
  runFree s core && (faultReady s core).isNone && c.saveQ.isEmpty && c.restoreQ.contains slot && c.restoreQ.all fun k => decide (slot ≤ k)
/-- RESTORE_RUN_OPEN (R366). -/
def execRestoreRunOpen (core slot : Nat) (s : State) : Host.Outcome State Fault Refusal :=
  if !restoreReady s core slot then .next s
  else
    let b := getBench s core slot
    match findTask s b.task with
    | none => .next s
    | some t =>
      let img := t.saveBase.toNat + imgPlace (taskNode s t) (coreTOf t core) b.benchT
      let x := imageResume s img
      let c := getCore s core
      let s := putCore s core { c with restoreQ := c.restoreQ.filter (· != slot) }
      .next (openRun s core .restore none
        ⟨BitVec.ofNat 7 slot, 0x0200, 0, 0, 0, x.1, BitVec.ofNat 5 (min 16 x.2), benchCtx s b⟩ 0x10
        (some (saveArea s t (coreTOf t core) b.benchT)))
/-- FAULT_RUN_OPEN (R382). -/
def execFaultRunOpen (core : Nat) (s : State) : Host.Outcome State Fault Refusal :=
  if !runFree s core then .next s
  else
    match faultReady s core with
    | none => .next s
    | some f =>
      let c := getCore s core
      let s := putCore s core { c with faultQ := c.faultQ.erase f }
      .next (openRun s core .fault (some f)
        ⟨BitVec.ofNat 7 f.slot, BitVec.ofNat 16 (f.code + 256 * f.sub), f.ifa, f.addr, f.mask, f.resume,
          BitVec.ofNat 5 (min 16 f.index), benchCtx s (getBench s core f.slot)⟩ 0x24 none)

/-! ## Dispositions (R386, R389) -/

/-- The length of the instruction at an address of a task's code (R18). -/
def codeLen (s : State) (t : Task) (a : Word) : Nat := if codeWord s 0 t a % 2 = 0 then 2 else 4
/-- Write PC, HDR and INDEX of the seats of a mask in section 1 of an image. -/
def imgSeats (s : State) (img : Nat) (m : SeatMask) (pc : Word) (hdr : Option Word) (idx : Nat → Nat) : State :=
  let w := fun (s : State) (a n x : Nat) => ({ s with mem := memStore s.mem a (bytesLE n x) false } : State)
  (seatsOf m).foldl (fun s k =>
    let s := w s (img + 8 * k) 8 pc.toNat
    let s := match hdr with
      | some h => w s (img + 0x100 + 8 * k) 8 h.toNat
      | none => s
    w s (img + 0x200 + k) 1 (idx (physValue s (img + 0x200 + k) 1))) s
/-- RESUME of a record: the seats stand where the image has them; at the recorded resume point where the record lies past its
instruction, or where the handler has rewritten that point of a missed promise or of a CLAUSE_FORM (R386, R387). Left as it was, a missed
promise's moves no seat (DEDUCED, log 25). -/
def applyResume (s : State) (t : Task) (r : FaultRec) : State :=
  let img := t.saveBase.toNat + imgPlace (taskNode s t) r.coreT r.benchT
  if !((r.past && r.code != 0x33) || ((r.code == 0x33 || r.code == 0x03) && r.moved)) then s
  else if r.index = 0 then imgSeats s img r.mask r.resume (some r.resume) fun _ => 0
  else imgSeats s img r.mask (instrAt s 0 t (r.resume + 4) r.index) (some r.resume) fun _ => r.index
/-- SKIP of a record: the seats stand past the instruction. -/
def applySkip (s : State) (t : Task) (r : FaultRec) : State :=
  let img := t.saveBase.toNat + imgPlace (taskNode s t) r.coreT r.benchT
  if r.past || r.code == 0x03 then applyResume s t r
  else
    let pc := r.ifa + BitVec.ofNat 64 (codeLen s t r.ifa)
    let w := codeWord s 0 t pc
    if w % 128 = 1 then imgSeats s img r.mask pc (some pc) fun _ => 0
    else imgSeats s img r.mask pc none fun i => min 16 (i + 1)
/-- FAIL: the task ends and ERREP receives the record; W2 is FORMAT where the disposition was none of the four. -/
def failTask (s : State) (t : Task) (r : FaultRec) (invalid : Bool) : State :=
  if !invalid then endTask s t.id r 1
  else
    match discardTask s t with
    | (s, t) =>
      let s := putTask s t
      dropTask (sendRecord s t r (graphOf s t.graph).errep 1 false false 3) t.id
/-- What the image does not say of the seats that a RESUME or a SKIP places (R35): past a `trap`, or past an instruction that
closes its clause, a header must stand. -/
def formsOf (s : State) (t : Task) (r : FaultRec) : List (Thread × Word × Nat) :=
  let skipped := r.answer == some 1 && !r.past && r.code != 0x03
  let closed := skipped && match decode32 (codeWord s 0 t r.ifa) with
    | .ok i => closesClause i
    | .error _ => false
  let mark := fun (a : Word) => (seatsOf r.mask).map fun k => (((⟨r.coreT, r.benchT, k⟩ : Thread), a, 2) : Thread × Word × Nat)
  if r.code = 0x60 ∧ r.sub = 2 then mark r.resume
  else if closed then mark (r.ifa + BitVec.ofNat 64 (codeLen s t r.ifa))
  else []
/-- Every record has its answer: the disposition of the task. -/
def disposeTask (s : State) (t : Task) : State :=
  let rs := t.faults
  match rs.find? fun r => r.answer == some 3 || r.answer == some 4 with
  | some r => failTask s t r (r.answer == some 4)
  | none =>
    match rs.find? fun r => r.answer == some 2 with
    | some r => abortWith s t.id .requeue r
    | none =>
      let s := rs.foldl (fun s r => if r.answer == some 1 then applySkip s t r else applyResume s t r) s
      toPool s { t with faults := [], savedForms := rs.flatMap (formsOf s t) ++ t.savedForms, conds := t.conds.filter fun c => !(c == ParkCond.records) }
/-- The reply to the record of R389: the task goes on waiting, waits to restart from its start or its checkpoint, or ends. -/
def disposePlacement (s : State) (t : Task) (r : FaultRec) (a : Nat) : State :=
  let t' := { t with faults := t.faults.filter fun x => !(x == r) }
  if a = 3 ∨ a = 4 then failTask s t r (a == 4)
  else if a = 2 then
    match discardTask (putTask s t') t' with
    | (s, t) =>
      match restartFrom s t with
      | (s, t) => putTask s t
  else putTask s t'
/-- FAULT_DISPOSITION (R385, R386): none is the status GONE. -/
def execFaultDisposition (task : Word) (w0 : Option Word) (s : State) : Host.Outcome State Fault Refusal :=
  match findTask s task with
  | none => .next s
  | some t =>
    match t.faults.find? fun r => r.sent && r.answer.isNone with
    | none => .next s
    | some r =>
      let a := match w0 with
        | some w => if w.toNat ≤ 3 then w.toNat else 4
        | none => 3
      if isPlacement r then .next (disposePlacement s t r a)
      else
        let t := { t with faults := t.faults.map fun x => if x == r then { x with answer := some a } else x }
        let s := putTask s t
        .next (if t.faults.all fun x => x.answer.isSome then disposeTask s t else sendNextFault s task)

/-! ## Machine checks (R397, R398) -/

/-- The tasks with a bench on a core. -/
def tasksOn (s : State) (core : Nat) : List Word :=
  (s.tasks.filter fun t => t.cores.any fun c => c.phys == core).map (·.id)
/-- The package stops (R398): nothing is requeued and no record is sent. -/
def packageStop (s : State) : State := { noteMachineCheck s 4 with stopped := true }
/-- MACHINE_CHECK (R398). -/
def execMachineCheck (sub core : Nat) (task : Word) (aux : Word) (s : State) : Host.Outcome State Fault Refusal :=
  match sub with
  | 1 => .next (machineAbort (noteMachineCheck s 1) task core 0 1 aux)
  | 2 =>
    let s := (tasksOn s core).foldl (fun s id => machineAbort s id core 0 2 aux) (noteMachineCheck s 2)
    .next (putCore s core { getCore s core with outOfService := true, run := none, tregs := TRegs.reset
                                                benches := dropKey (getCore s core).benches 64 })
  | 3 => .next (if (getCore s core).run.isSome then monitorCheck s core else s)
  | 4 => .next (packageStop s)
  | _ => .next s

end Sys2Proof.Machine
end

