-- ==== Sys2Proof/Machine/Links.lean ====
section
/-!
DEFINITION. Links to libraries and paths to other packages: failure, recovery, reports and silence (R421, R424, R426, R429,
R430), pool links (R431), refusals (R236, R406).
-/
namespace Sys2Proof.Machine

/-! ## Replicas to be sent again (R429) -/

/-- Was a request sent behind a mark with a number, or behind a later one (R429)? -/
def sentAfter (o : RemoteOut) (num : Nat) : Bool := o.body.behind.any fun n => decide ((n + 2 ^ 32 - num) % 2 ^ 32 < 2 ^ 31)
/-- Has every access sent on a library's path to a target before a mark been performed or reported NOT_SENT? -/
def pathQuiet (s : State) (num target lib : Nat) : Bool :=
  !(s.remote.any fun o => o.target == target && o.lib == some lib && !sentAfter o num)
/-- The replicas of a mark that must be sent again go out on the lowest-numbered path, with their own indices. -/
def resendOne (s : State) (f : Flight) : State :=
  match f.kind with
  | .mark num target n paths bs =>
    match livePaths s (pathSetOf s target) with
    | [] => s
    | l :: _ =>
      if n = 0 then sendMark s f
      else
        let go := fun (r : Replica) => r.again && pathQuiet s num target r.lib
        let s := { s with outbox := s.outbox ++ (paths.filter go).map fun r => OutMsg.markReplica target num r.path n l }
        putFlight s { f with kind := .mark num target n (paths.map fun r => if go r then ⟨r.path, l, false, s.bell⟩ else r) bs }
  | _ => s
def resendMarks (s : State) (target : Nat) : State :=
  (s.flights.filter fun f => match f.kind with
    | .mark _ t _ _ _ => t == target
    | _ => false).foldl resendOne s
/-- Change the replicas of a mark that match. -/
def markReplicas (s : State) (num : Nat) (change : List Replica → List Replica) : State :=
  { s with flights := s.flights.map fun f => match f.kind with
      | .mark m t n ps bs => if m == num then { f with kind := .mark m t n (change ps) bs } else f
      | _ => f }
/-- A replica of a mark must be sent again. -/
def sendAgain (s : State) (num path : Nat) : State :=
  markReplicas s num fun ps => ps.map fun p => if p.path == path then { p with again := true } else p

/-! ## The path set (R424, R426, R430) -/

/-- Bring the 50 µs of R430 up to date: they begin when the last path fails and end with the first that returns. -/
def noteClock (s : State) (target : Nat) : State :=
  let p := pathSetOf s target
  if (livePaths s p).isEmpty then noteNoPath s target else putPathSet s { p with noneSince := none }
/-- What follows a change of the path set: refusals that have ended are forgotten, held accesses go where they may, and
replicas are sent again. -/
def refreshPaths (s : State) (target : Nat) : State :=
  let p := pathSetOf s target
  let over_ := match p.refusing with
    | some u => decide (u.toNat ≤ s.bell.toNat)
    | none => false
  let s := if over_ then putPathSet s { p with refusing := none } else s
  sendHeld (resendMarks (sendHeld (noteEpoch (noteClock s target) target)) target)
/-- The targets whose paths run through a library. -/
def targetsVia (s : State) (lib : Nat) : List Nat := (s.paths.filter fun p => p.libs.contains lib).map (·.target)
/-- The state of a link; which links there are was fixed at boot (R421). -/
def setLink (s : State) (lib : Nat) (live : Bool) : State :=
  { s with links := s.links.map fun l => if l.lib == lib then { l with live := live } else l }
/-- Bring-up fails for a reason (R440, R454). -/
def failBoot (s : State) (reason : Nat) : State := { s with boot := { s.boot with state := .failed, reason := reason, timer := none } }
/-- BOOTLIB (R453). -/
def bootLib (s : State) : Nat := bitsOf s.mgmt.bootcfg 47 36
/-- Does bring-up need the boot word and the image store (R443, R446)? -/
def needsStore (s : State) : Bool := s.boot.state == .elect || s.boot.state == .load
/-- LINK_FAIL (R421, R430): every path through the library fails at once, toward every target. Bring-up without a link to BOOTLIB fails
with STORE (R454). -/
def execLinkFail (lib : Nat) (s : State) : Host.Outcome State Fault Refusal :=
  let s := addLog (setLink s lib false) .linkDown (BitVec.ofNat 64 lib)
  let s := (targetsVia s lib).foldl refreshPaths s
  .next (if needsStore s && !libLinked s (bootLib s) then failBoot s 7 else s)
/-- What waited for the link of a pool library goes on: a task issues again, what came from another package is performed (R431). -/
def poolResume (s : State) (w : PoolWait) : State :=
  match w.who with
  | .task _ _ => s
  | .access r => arriveAccess s r
  | .reserve p => { s with agenda := .pushReserve p :: s.agenda }
/-- LINK_RETRAIN_DONE (R421, R431): the link counts as live; what waited for it goes on. -/
def execLinkRetrainDone (lib : Nat) (s : State) : Host.Outcome State Fault Refusal :=
  if !s.links.any fun l => l.lib == lib then .next s
  else
    let s := addLog (setLink s lib true) .linkUp (BitVec.ofNat 64 lib)
    let ws := s.poolWaits.filter fun w => w.lib == lib
    let s := ws.foldl poolResume { s with poolWaits := s.poolWaits.filter fun w => !(w.lib == lib) }
    .next ((targetsVia s lib).foldl refreshPaths s)
/-- PATH_SET_CHANGE (R424, R426): lines whose path changes are held until their old path is clear, then sent on the new
one. -/
def execPathSetChange (target : Nat) (s : State) : Host.Outcome State Fault Refusal := .next (refreshPaths s target)

/-- A path fails toward one target. -/
def failPath (s : State) (target lib : Nat) : State :=
  let p := pathSetOf s target
  if p.libs.contains lib && !p.failed.contains lib then
    noteClock (putPathSet s { p with failed := p.failed ++ [lib], probed := putKey p.probed lib s.bell }) target
  else s
/-- A failed path comes back. -/
def restorePath (s : State) (target lib : Nat) : State :=
  let p := pathSetOf s target
  putPathSet s { p with failed := p.failed.filter (· != lib), probed := dropKey p.probed lib }

/-! ## Reports (R426, R430) -/

/-- LIBRARY_REPORT (R426, R430): UNREACHABLE fails the library's path toward one target. DELIVERED lets later accesses of the
line go; a replica counts as arrived. NOT_SENT sends again on the new path, a question for a grant too. -/
def execLibraryReport (lib id : Nat) (r : LibReport) (s : State) : Host.Outcome State Fault Refusal :=
  match r with
  | .unreachable => .next (refreshPaths (failPath s id lib) id)
  | .delivered => .next (sendHeld { s with remote := s.remote.map fun o => if o.req == id then { o with sure := true } else o })
  | .notSent =>
    let s : State := { s with remote := s.remote.map fun (o : RemoteOut) =>
        if o.req == id && (o.lib == some lib || o.asked.map (·.1) == some lib) then unsent o else o }
    .next ((s.paths.map (·.target)).foldl resendMarks (sendHeld s))
  | .replicaDelivered path => .next (markReplicas s id fun ps => ps.filter fun p => !(p.path == path))
  | .replicaNotSent path => .next ((s.paths.map (·.target)).foldl resendMarks (sendAgain s id path))

/-! ## Silence and probes (R426) -/

/-- What silence does to an access of one flight (R426, R402, R407): a push and an `atom` end with poison of cause 1, a store
aborts. -/
def silentEnd (s : State) (o : RemoteOut) : State :=
  match findFlight s o.flight, o.body.op with
  | some { kind := .push _ _ d _ _ _ _, .. }, _ =>
    match findFlight s o.flight with
    | some f => endPush s f d 0 (some 1)
    | none => s
  | _, .load _ => s
  | _, .atomic _ _ _ =>
    match findFlight s o.flight with
    | some f =>
      let ks := (seatsOf f.seats).filter fun k => o.seats.getLsbD k
      landSeats (answered s f.id o.seats) f ks (fun _ _ => 0) (fun _ => Cap.null) fun _ => some 1
    | none =>
      match savedFlight s o.flight with
      | some (t, th, f) =>
        let codes := f.vdests.map DReg.code
        let n := taskNode s t
        let at_ := t.saveBase.toNat + imgPlace n th.coreT th.benchT + imgSecOff n.rows n.capRows (imgAcc n th.benchT) 7
        (List.range (physValue s at_ 8)).foldl (fun s k =>
          if codes.contains (physValue s (pendAt s t th.coreT th.benchT k + 1) 1) then
            match findTask s t.id with
            | some t => savedLate s t th.coreT th.benchT k
            | none => s
          else s) s
      | none => s
  | _, _ => pathLost s o.flight o.addr
/-- Has a request of a path been outstanding for 10 µs without an answer (R426)? -/
def pathSilent (s : State) (target lib : Nat) : Bool :=
  let old := fun (u : Word) => decide (u.toNat + 10000 ≤ s.bell.toNat)
  (s.remote.any fun o => o.target == target &&
    ((o.lib == some lib && !o.sure && o.sent.any old) || o.asked.any fun a => a.1 == lib && old a.2)) ||
  s.flights.any fun f => match f.kind with
    | .mark _ t _ ps _ => t == target && ps.any fun p => p.lib == lib && !p.again && old p.sent
    | _ => false
/-- PATH_SILENCE_TIMEOUT (R426): the path fails; loads, grant requests and replicas are sent again, the rest end as their deadlines
do. -/
def execPathSilenceTimeout (target lib : Nat) (s : State) : Host.Outcome State Fault Refusal :=
  if !pathSilent s target lib then .next s
  else
  let on := fun (o : RemoteOut) => o.target == target && o.lib == some lib && !o.sure
  let isLoad := fun (o : RemoteOut) => match o.body.op with
    | .load _ => true
    | _ => false
  let gone := s.remote.filter fun o => on o && !isLoad o
  let asks := fun (o : RemoteOut) => o.target == target && o.asked.map (·.1) == some lib
  let s1 := failPath
    { s with remote := s.remote.map fun o => if (on o && isLoad o) || asks o then unsent o else o } target lib
  let s2 := gone.foldl silentEnd s1
  let s3 := { s2 with flights := s2.flights.map fun f => match f.kind with
      | .mark m t n ps bs =>
        if t == target then { f with kind := .mark m t n (ps.map fun p => if p.lib == lib then { p with again := true } else p) bs }
        else f
      | _ => f }
  .next (refreshPaths s3 target)
/-- Is a failed path due for a probe: every 5 µs (R426)? -/
def probeDue (s : State) (p : PathSet) (lib : Nat) : Bool :=
  p.failed.contains lib && libLinked s lib && match lookupKey p.probed lib with
    | some u => decide (u.toNat + 5000 ≤ s.bell.toNat)
    | none => true
/-- PATH_PROBE (R426): a failed path is probed; it is added back when a probe is answered. -/
def execPathProbe (target lib : Nat) (answered : Bool) (s : State) : Host.Outcome State Fault Refusal :=
  let p := pathSetOf s target
  if answered then .next (if p.failed.contains lib then refreshPaths (restorePath s target lib) target else s)
  else if probeDue s p lib then
    .next (putPathSet { s with outbox := s.outbox ++ [.probe target lib] } { p with probed := putKey p.probed lib s.bell })
  else .next s

/-! ## Refusals and the end of waiting (R236, R402, R406, R430, R431) -/

/-- A reservation that found its queue full is sent again, with the seat's later ones to the same buffer, in issue order (R406). -/
def resendReservations (s : State) (id : Nat) : State :=
  match s.remote.find? fun o => o.req == id with
  | none => s
  | some r =>
    let isReserve := fun (o : RemoteOut) => match o.body.op with
      | .reserve _ => true
      | _ => false
    let same := fun (o : RemoteOut) => isReserve o && decide (id ≤ o.req) && o.target == r.target && o.body.slot == r.body.slot &&
      o.body.va == r.body.va && match findFlight s o.flight, findFlight s r.flight with
        | some g, some f => g.core == f.core && g.slot == f.slot && g.seats &&& f.seats != 0
        | _, _ => false
    sendHeld { s with remote := s.remote.map fun o => if same o then unsent o else o }
/-- The request or mark that a refusal answers: its target, and the library on which it travelled (R402, R430). -/
def refusedPath (s : State) (what : RefusedId) : Option (Nat × Option Nat) :=
  match what with
  | .replica mark path =>
    s.flights.findSome? fun f => match f.kind with
      | .mark m t _ ps _ => if m == mark then some (t, (ps.find? fun p => p.path == path).map (·.lib)) else none
      | _ => none
  | .request id | .queueFull id | .poolLost id =>
    (s.remote.find? fun o => o.req == id).map fun o => (o.target, o.lib.orElse fun _ => o.asked.map (·.1))
/-- The refused message waits to be sent again. -/
def takeBack (s : State) (what : RefusedId) : State :=
  match what with
  | .replica mark path => sendAgain s mark path
  | .request id | .queueFull id | .poolLost id => { s with remote := s.remote.map fun o => if o.req == id then unsent o else o }
/-- REMOTE_REFUSAL (R236, R402, R406, R430, R431): with nanoseconds still to run, every path to the target has failed until then;
without, the message's own path has. A reservation whose queue was full is sent again; an access that the target's pool could not serve
ends as with no path left. -/
def execRemoteRefusal (what : RefusedId) (ns : Word) (s : State) : Host.Outcome State Fault Refusal :=
  match what with
  | .queueFull id => .next (resendReservations s id)
  | .poolLost id =>
    match s.remote.find? fun o => o.req == id with
    | some o => .next (pathLost s o.flight o.addr)
    | none => .next s
  | what =>
    match refusedPath s what with
    | none => .next s
    | some (target, lib) =>
      let s := takeBack s what
      let s := if ns ≠ 0 then
          let p := pathSetOf s target
          noteClock (putPathSet s { p with refusing := some (s.bell + ns) }) target
        else
          match lib with
          | some l => failPath s target l
          | none => s
      .next (refreshPaths s target)
/-- The instructions that wait for a path to a target, each with the remote address it names: accesses held, marks and pushes
under way. -/
def pathWaiters (s : State) (target : Nat) : List (Nat × Word) :=
  let held := (s.remote.filter fun o => o.target == target && o.lib.isNone).map fun o => (o.flight, o.addr)
  let marks := s.flights.filterMap fun f => match f.kind with
    | .mark _ t _ _ _ => if t == target then some (f.id, BitVec.ofNat 64 (t * 2 ^ 53)) else none
    | .push _ t _ _ _ dst _ => if t == target then some (f.id, capCursor dst) else none
    | _ => none
  held ++ marks
/-- Has a target been without a path for 50 µs (R430)? -/
def noPathDue (s : State) (target : Nat) : Bool :=
  match (pathSetOf s target).noneSince with
  | some u => (livePaths s (pathSetOf s target)).isEmpty && decide (u.toNat + 50000 ≤ s.bell.toNat)
  | none => false
/-- NO_PATH_TIMEOUT (R388, R402, R430): what still waits ends with REMOTE_DOWN. The loads' poison of cause 2 is discarded with
the registers of the task, which is aborted at once. -/
def execNoPathTimeout (target : Nat) (s : State) : Host.Outcome State Fault Refusal :=
  if noPathDue s target then .next ((pathWaiters s target).foldl (fun s w => pathLost s w.1 w.2) s) else .next s
/-- GRANT_REQUEST (R235, R403): another package asks; or an answer has come, which serves the access that asked and is kept; or a
refusal, which raises PAGE_FAULT in the issuing task. -/
def execGrantRequest (m : GrantMsg) (slot : Nat) (va : Word) (acc : Access) (s : State) : Host.Outcome State Fault Refusal :=
  match m with
  | .ask src reqId => .next (answerGrant src reqId slot va acc s)
  | .answer reqId g =>
    match s.remote.find? fun o => o.req == reqId with
    | none => .next s
    | some o =>
      .next (sendHeld { keepGrant s o.die g with
        remote := s.remote.map fun x => if x.req == reqId then { x with own := x.own ++ [g], asked := none } else x })
  | .refused reqId sub =>
    match s.remote.find? fun o => o.req == reqId with
    | some o => .next (remoteAbort s o.flight (.pageFault o.addr sub) o.addr)
    | none => .next s
/-- POOL_LINK_TIMEOUT (R431): a task is aborted as with no path left; another package's access is told so. -/
def execPoolLinkTimeout (id : Nat) (s : State) : Host.Outcome State Fault Refusal :=
  match s.poolWaits.find? fun w => w.id == id with
  | none => .next s
  | some w =>
    let s := { s with poolWaits := s.poolWaits.filter fun x => !(x.id == id) }
    if libLinked s w.lib then .next (poolResume s w)
    else
      match w.who with
      | .task t core => .next (abortOn s t core .remoteLost)
      | .access r => .next (refusalOf s r.src (.poolLost r.reqId) 0)
      | .reserve p => .next (refusalOf s p.src (.poolLost p.reqId) 0)

end Sys2Proof.Machine
end

