-- ==== Sys2Proof/Machine/Revoke.lean ====
section
/-!
DEFINITION. Revocation and destruction: notices, acknowledgements, fences (R365, R439), the Eraser's sweep (R364), and the
completions (R363, R365).
-/
namespace Sys2Proof.Machine

/-! ## What a sweep clears (R363, R364) -/

/-- The revocations and destructions that the running sweep serves. -/
def inSweep (s : State) : List Revocation := s.quarantine.filter fun r => r.joined && !r.swept
/-- Does a revocation clear a capability held in a place whose address spaces are given? A destruction clears every capability
to its object, and for a sealer every one sealed with its type (R363). -/
def dooms (mine : Nat → Bool) (c : Cap) (r : Revocation) : Bool :=
  c.tag && match r.target with
    | some _ => doomedBy r c
    | none => capIn r c && (if r.origin.isSome then hasPerm c .remote else mine r.aspace)
/-- A capability as the sweep leaves it. -/
def purge (s : State) (mine : Nat → Bool) (c : Cap) : Cap := if (inSweep s).any (dooms mine c) then withTag c false else c
/-- The address space of a task, by its number. -/
def taskMine (s : State) (task : Word) (space : Nat) : Bool :=
  match findTask s task with
  | some t => taskSpaceNum s t == space
  | none => false
/-- The tagged granules of a storage of one address space that the sweep clears. -/
def purgeMem (s : State) (mine : Nat → Bool) (m : Mem) : Mem :=
  { m with tags := m.tags.filter fun g => (purge s mine (capOfBytes (memBytes m (16 * g) 16) true)).tag }

/-! ## The steps of a sweep (R364) -/

def purgeRows (s : State) (mine : Nat → Bool) (rows : List (Row Cap)) : List (Row Cap) :=
  rows.map fun r => { r with elems := r.elems.map (purge s mine) }
/-- The values that an instruction in flight has still to write are registers too. -/
def purgeFlight (s : State) (mine : Nat → Bool) (f : Flight) : Flight :=
  match f.kind with
  | .load d cs a => { f with kind := .load d (cs.map fun e => (e.1, e.2.map fun v => (v.1, purge s mine v.2.1, v.2.2))) a }
  | .stagedStore is =>
    { f with kind := .stagedStore (is.map fun i =>
        { i with tag := i.tag && (purge s mine (capOfBytes (bytesLE 16 i.value) true)).tag }) }
  | _ => f
/-- The party whose capability a queued message holds. -/
def partyMine (s : State) (p : Party) (space : Nat) : Bool :=
  match p with
  | .seat task _ _ _ => taskMine s task space
  | .hart _ => true
  | .dean _ _ _ => false
/-- Messages that wait at endpoints and rings: the registers of the parties that sent them. -/
def purgeQueued (s : State) (harts : Bool) (d : ObjData) : ObjData :=
  let mine := fun (p : Party) => match p with
    | .hart _ => harts
    | _ => !harts
  match d with
  | .endpoint a b =>
    .endpoint (a.map fun x => if mine x.who then { x with msg := { x.msg with cap := purge s (partyMine s x.who) x.msg.cap } } else x) b
  | .ring hub log base bellN ws k =>
    .ring hub log base bellN (ws.map fun w =>
      if mine w.who then { w with msg := { w.msg with cap := purge s (partyMine s w.who) w.msg.cap } } else w) k
  | d => d
/-- Step 1: the registers of resident benches. -/
def sweepRegs (s : State) : State :=
  { s with
    cores := s.cores.map fun c => (c.1, { c.2 with
      benches := c.2.benches.map fun e => (e.1, { e.2 with
        crows := purgeRows s (taskMine s e.2.task) e.2.crows, code := purge s (taskMine s e.2.task) e.2.code }) })
    flights := s.flights.map fun f => purgeFlight s (taskMine s f.task) f
    objs := s.objs.map fun o => { o with data := purgeQueued s false o.data } }
/-- The granules of a line that lie within a region. -/
def regionGranulesOf (r : Revocation) (line : Nat) : List Nat :=
  ((List.range 4).map fun k => 64 * line + 16 * k).filter fun g =>
    decide (r.base.toNat ≤ g) && decide (g + 16 ≤ r.base.toNat + r.len)
/-- The held bytes of a task within a region are published (R202, R364). A granule whose translation fails stays held. -/
def publishRegion (s : State) (r : Revocation) (task : Word) : State :=
  match findTask s task with
  | none => s
  | some t =>
    ((heldLines t).flatMap (regionGranulesOf r)).foldl (fun s g =>
      match findTask s task with
      | none => s
      | some t =>
        let sp := taskSpace s t
        match translate1 s (taskCore t 0).phys sp sp.hspan g .store with
        | .ok (pa, s) => publishGranule s t g pa
        | .error _ => s) s
def purgeLine (s : State) (mine : Nat → Bool) (l : HoldLine) : HoldLine :=
  { l with tags := (List.range 4).map fun k =>
      if nth l.tags k none == some true then
        some (purge s mine ⟨BitVec.ofNat 128 (l.data.toNat / 2 ^ (128 * k)), true⟩).tag
      else nth l.tags k none }
/-- Step 2: the holds. -/
def sweepHolds (s : State) : State :=
  let s := (inSweep s).foldl (fun s r =>
    if r.origin.isSome || r.target.isSome then s
    else ((s.tasks.filter fun t => taskSpaceNum s t == r.aspace).map (·.id)).foldl (fun s id => publishRegion s r id) s) s
  { s with tasks := s.tasks.map fun t =>
      let mine := taskMine s t.id
      { t with
        dieHold := t.dieHold.map (purgeLine s mine)
        cores := t.cores.map fun c => { c with hold := c.hold.map (purgeLine s mine) } } }
/-- The address space of the allocation that holds a scratchpad address. -/
def spadMine (s : State) (core a : Nat) (space : Nat) : Bool :=
  s.tasks.any fun t => taskSpaceNum s t == space && t.cores.any fun c =>
    c.phys == core && decide (c.base ≤ a) && decide (a < c.base + allocSize s t)
/-- Step 3: the allocations. -/
def sweepAllocs (s : State) : State :=
  { s with cores := s.cores.map fun c => (c.1, { c.2 with spad :=
      { c.2.spad with tags := c.2.spad.tags.filter fun g =>
          (purge s (spadMine s c.1 (16 * g)) (capOfBytes (memBytes c.2.spad (16 * g) 16) true)).tag } }) }
/-- Step 4: the hc registers of every hart. -/
def sweepHarts (s : State) : State :=
  { s with
    harts := s.harts.map fun h => (h.1, { h.2 with hc := h.2.hc.map (purge s fun _ => true) })
    objs := s.objs.map fun o => { o with data := purgeQueued s true o.data } }

/-- The virtual addresses at which a table maps a physical address (R223, R224). `pre` is the part of the address above the
table's. -/
def leafVas (m : Mem) (pa : Nat) : Nat → Nat → Nat → List Nat
  | 0, table, pre => (List.range 512).flatMap fun i =>
    let pte := memValue m (4096 * table + 8 * i) 8
    if pte % 2 = 1 ∧ ptePpn pte = pa / 4096 then [(512 * pre + i) * 4096 + pa % 4096] else []
  | l + 1, table, pre => (List.range 512).flatMap fun i =>
    let pte := memValue m (4096 * table + 8 * i) 8
    let size := 2 ^ (12 + 9 * (l + 1))
    if pte % 2 = 0 then []
    else if pte / 2 % 8 = 0 then leafVas m pa l (ptePpn pte) (512 * pre + i)
    else if 4096 * ptePpn pte / size = pa / size then [(512 * pre + i) * size + pa % size]
    else []
/-- The physical addresses of a place: itself, or those of the pool window whose segments name the place (R422, R423). -/
def placeAddrs (s : State) (a : Nat) : List Nat :=
  if a < 2 ^ 56 then [a]
  else ((List.range 64).map fun i => 2 ^ 52 + (a - 2 ^ 56) / 2 ^ 66 * 2 ^ 40 + i * 2 ^ 34 + a % 2 ^ 34).filter fun pa => poolPlace s pa == a
/-- The virtual addresses of a place in an address space: heap, carve window and page tables (R221, R223, R242). -/
def spaceVas (s : State) (sp : ASpace) (pa : Nat) : List Nat :=
  let h := (pa + 2 ^ 64 - sp.hoff.toNat) % 2 ^ 64
  (if sp.hbase.toNat ≤ h ∧ h < sp.hbase.toNat + sp.hlimit.toNat then [h] else []) ++
    (if 0x0080000000000000 ≤ pa ∧ pa < 0x0080000000000000 + (carveEnd - carveBase) then [carveBase + (pa - 0x0080000000000000)]
     else []) ++
    (((placeAddrs s pa).flatMap fun p => leafVas s.mem p 4 (sp.root.toNat / 4096) 0).map fun v => if v < 2 ^ 56 then v else v + (2 ^ 64 - 2 ^ 57))
/-- Does a frame belong to an address space: mapped by it, in a saved image of its tasks, or in a service ring (R364)? -/
def frameMine (s : State) (pa : Nat) (space : Nat) : Bool :=
  !(spaceVas s (aspaceObj s space) pa).isEmpty ||
    (s.tasks.any fun t => taskSpaceNum s t == space && decide (t.saveBase.toNat ≤ pa) &&
      decide (pa < t.saveBase.toNat + saveSize (taskNode s t))) ||
    s.objs.any fun o => match o.data with
      | .ring _ log base _ _ _ => decide (base ≤ pa) && decide (pa < base + 64 * (2 ^ (log + 1) + 1))
      | _ => false
/-- Does a granule belong to the region itself? -/
def regionBytes (s : State) (pa : Nat) (r : Revocation) : Bool :=
  r.origin.isNone && r.target.isNone && (spaceVas s (aspaceObj s r.aspace) pa).any fun v =>
    decide (r.base.toNat ≤ v) && decide (v < r.base.toNat + r.len)
/-- The capabilities that an object of an address space holds for its tasks. -/
def purgeObj (s : State) (d : ObjData) : ObjData :=
  match d with
  | .node n =>
    let mine := fun (space : Nat) => (codeOf s n.code).aspace == space
    .node { n with args := n.args.map (purge s mine), ckptArea := purge s mine n.ckptArea }
  | d => d
/-- The checkpoint and the saved parts of a task that its Dean keeps. -/
def purgeTask (s : State) (t : Task) : Task :=
  let mine := taskMine s t.id
  let core := fun (c : SavedCore) => { c with alloc := purgeMem s mine c.alloc }
  let fl := fun (e : Thread × Flight) => (e.1, purgeFlight s mine e.2)
  { t with
    savedCores := t.savedCores.map core
    savedFlights := t.savedFlights.map fl
    restart := t.restart.map fun c => { c with cores := c.cores.map core, images := purgeMem s mine c.images, flights := c.flights.map fl } }
/-- Step 5: the frames; a frame found free of tags loses its summary bit. The sweep ends; what other packages asked for is
acknowledged (R439). -/
def sweepFrames (s : State) : State :=
  let rs := inSweep s
  let keep := fun (g : Nat) =>
    (purge s (frameMine s (16 * g)) (capOfBytes (memBytes s.mem (16 * g) 16) true)).tag && !rs.any (regionBytes s (16 * g))
  let tags := s.mem.tags.filter keep
  let acks := rs.filterMap fun r => r.origin.map fun p => OutMsg.ack p r.num
  { s with
    mem := { s.mem with tags := tags }
    tasks := s.tasks.map (purgeTask s)
    objs := s.objs.map fun o => { o with data := purgeObj s o.data }
    tagSummary := s.tagSummary.filter fun f => tags.any fun g => frameNo (16 * g) == f
    outbox := s.outbox ++ acks
    quarantine := (s.quarantine.map fun r => if r.joined then { r with swept := true } else r).filter fun r =>
      !(r.joined && r.origin.isSome) }
/-- ERASER_SWEEP (R364): the next step of the sweep; what has been accepted meanwhile joins the next one. -/
def execEraserSweep (s : State) : Host.Outcome State Fault Refusal :=
  match s.sweepStep with
  | 0 =>
    if s.quarantine.all (·.joined) then .next s
    else .next (sweepRegs { s with quarantine := s.quarantine.map fun r => { r with joined := true }, sweepStep := 1 })
  | 1 => .next { sweepHolds s with sweepStep := 2 }
  | 2 => .next { sweepAllocs s with sweepStep := 3 }
  | 3 => .next { sweepHarts s with sweepStep := 4 }
  | _ => .next { sweepFrames s with sweepStep := 0 }

/-! ## Completion (R363, R365) -/

/-- The capabilities under which an engine still works. -/
def flightCaps (f : Flight) : List Cap :=
  match f.kind with
  | .copy c => [c.src, c.dst]
  | .tmma c => [c.cap]
  | .push _ _ _ _ a b _ => [a, b]
  | .sret c _ _ _ => [c]
  | _ => []
/-- Does a task hold bytes of a region? -/
def holdsBytes (t : Task) (r : Revocation) : Bool :=
  ((t.cores.flatMap fun c => c.hold) ++ t.dieHold).any fun l =>
    (List.range 64).any fun k => l.mask.getLsbD k && decide (r.base.toNat ≤ 64 * l.line + k) && decide (64 * l.line + k < r.base.toNat + r.len)
/-- Has every access under a capability of the region been performed or cancelled (R365)? DEDUCED (log 37): what a task of the
address space holds of the region counts as such an access, whatever capability stored it, and so does a load of the region that
need not have been performed. -/
def revokeQuiet (s : State) (r : Revocation) : Bool :=
  !(s.flights.any fun f => taskMine s f.task r.aspace &&
      ((flightCaps f).any (capIn r) || (r.len != 0 && f.late.any fun l => rangeMeets r.base.toNat r.len l.addr l.size))) &&
    (r.origin.isSome || r.target.isSome || !(s.tasks.any fun t => taskSpaceNum s t == r.aspace && holdsBytes t r))
/-- May a revocation or destruction complete? -/
def revokeDone (s : State) (r : Revocation) : Bool := r.swept && r.waitFor.isEmpty && revokeQuiet s r
/-- OR bits into the REVN notification of an address space. -/
def signalRevn (s : State) (space : Nat) (bits : Word) : State :=
  let n := capNum (aspaceObj s space).revn
  if objGone s 964 n then s else notifyBits s n bits
def isRevoke (num : Nat) (r : Revocation) : Bool := r.num == num && r.origin.isNone && r.target.isNone
/-- The carve ways whose region has been revoked are live no longer (R241). -/
def retireWays (s : State) (r : Revocation) : State :=
  { s with objs := s.objs.map fun o =>
      match o.data with
      | .carve h w0 n nt live p =>
        { o with data := .carve h w0 n nt (live.filter fun w =>
            let a := carveBase + h * 0x10000000 + w * 0x1000000
            !(decide (r.base.toNat ≤ a) && decide (a + 0x1000000 ≤ r.base.toNat + r.len))) p }
      | _ => o }
/-- Operations on an address space are taken again (R351). -/
def spaceFree (s : State) (space : Nat) : State :=
  match findObj s 962 space with
  | some o => if o.dead then s else putObj s { o with busy := false }
  | none => s
/-- REVOCATION_COMPLETE (R365): the quarantine is lifted and 2^(n mod 63) goes into REVN. -/
def execRevocationComplete (num : Nat) (s : State) : Host.Outcome State Fault Refusal :=
  match s.quarantine.find? (isRevoke num) with
  | none => .next s
  | some r =>
    if revokeDone s r then
      .next (signalRevn (spaceFree (retireWays { s with quarantine := s.quarantine.filter fun x => !(isRevoke num x) } r) r.aspace) r.aspace
        (BitVec.ofNat 64 (2 ^ (num % 63))))
    else .next s
/-- An object whose destruction has completed: its memory is free again (R348); a sealer's type may be given anew. -/
def buryObj (s : State) (type num : Nat) : State :=
  if type = 974 then { s with objs := s.objs.filter fun o => !(o.type == type && o.num == num) }
  else
    match findObj s type num with
    | some o => putObj s { o with dead := true, busy := false }
    | none => s
/-- DESTROY_COMPLETE (R350, R363): the sweep has ended, and bit 63 of REVN is set. -/
def execDestroyComplete (type num : Nat) (s : State) : Host.Outcome State Fault Refusal :=
  let mine := fun (r : Revocation) => r.target == some (type, num)
  match s.quarantine.find? mine with
  | none => .next s
  | some r =>
    if r.swept then
      .next (signalRevn (buryObj { s with quarantine := s.quarantine.filter fun x => !(mine x) } type num) r.aspace
        0x8000000000000000)
    else .next s

/-! ## Across packages (R365, R439) -/

/-- A notice: origin, export slot, region base, length and number, through the fabric as given, or from the words of a frame (R435). -/
def noticeOf (via : NoticeVia) (slot : Nat) (base len : Word) (num : Word32) : Nat × Nat × Word × Word × Word32 :=
  match via with
  | .fabric origin => (origin, slot, base, len, num)
  | .board _ f => (bitsOf f.w0 63 53, bitsOf f.w0 52 45, BitVec.ofNat 64 (bitsOf f.w0 44 0), f.w1, BitVec.ofNat 32 (bitsOf f.w2 31 0))
/-- Is a notice accepted: through the fabric it is, and on a board group as its frame is (R436)? -/
def noticeTaken (s : State) (via : NoticeVia) : Bool :=
  match via with
  | .fabric _ => true
  | .board grp f => f.kind == 2 && ((boardOf s grp).map fun g => frameAccepted g f).getD false
/-- A frame of a notice has been heard. -/
def noticeHeard (s : State) (via : NoticeVia) : State :=
  match via with
  | .fabric _ => s
  | .board grp _ =>
    match boardOf s grp with
    | some g => heard s grp g
    | none => s
/-- REVOCATION_NOTICE (R439): the remote region is quarantined and waits for the next sweep, which acknowledges. -/
def execRevocationNotice (via : NoticeVia) (slot : Nat) (base len : Word) (num : Word32) (s : State) :
    Host.Outcome State Fault Refusal :=
  if !noticeTaken s via then .next s
  else
  let s := noticeHeard s via
  let (origin, slot, base, len, num) := noticeOf via slot base len num
  if origin = s.pkg ∨ (s.quarantine.any fun r => r.origin == some origin && r.num == num.toNat) then .next s
  else
    let b : Word := BitVec.ofNat 64 (origin * 2 ^ 53 + slot % 256 * 2 ^ 45 + base.toNat % 2 ^ 45)
    .next { s with quarantine :=
      s.quarantine ++ [⟨num.toNat, 2 ^ 38, b, len.toNat, false, false, [], 0, some origin, none⟩] }
/-- REVOCATION_ACK (R365, R439). A package that acknowledges is fenced no longer. -/
def execRevocationAck (src num : Nat) (s : State) : Host.Outcome State Fault Refusal :=
  .next { s with
    quarantine := s.quarantine.map fun r =>
      if isRevoke num r then { r with waitFor := r.waitFor.filter (· != src) } else r
    fenced := s.fenced.filter fun x => !(x.pkg == src && x.num == num) }
/-- The words 0 and 1 of a notice (R439). -/
def noticeWords (s : State) (r : Revocation) : Word × Word :=
  let slot := (aspaceObj s r.aspace).exportSlot.getD 0
  (BitVec.ofNat 64 (s.pkg * 2 ^ 53 + slot * 2 ^ 45 + r.base.toNat % 2 ^ 45), BitVec.ofNat 64 r.len)
/-- REVOCATION_FENCE (R365, R439): 1 s without an acknowledgement fences a package; the notice goes to it once more through
the fabric. -/
def execRevocationFence (src num : Nat) (s : State) : Host.Outcome State Fault Refusal :=
  match s.quarantine.find? (isRevoke num) with
  | none => .next s
  | some r =>
    if r.waitFor.contains src && decide (r.deadline.toNat ≤ s.bell.toNat) then
      let w := noticeWords s r
      .next { s with
        quarantine := s.quarantine.map fun x => if isRevoke num x then { x with waitFor := x.waitFor.filter (· != src) } else x
        fenced := s.fenced ++ [⟨src, num, w.1, w.2, false⟩]
        outbox := s.outbox ++ [.notice src w.1 w.2 (BitVec.ofNat 64 (num % 2 ^ 32))] }
    else .next s

end Sys2Proof.Machine
end

