-- ==== Sys2Proof/Machine/HostMem.lean ====
section
/-!
DEFINITION. Memory as a host hart sees it: translation through satp by the Sv39, Sv48 and Sv57 rules of the RISC-V privileged
architecture, and the parameter blocks of Registrar operations (R349).
-/
namespace Sys2Proof.Machine

/-! ## Translation through satp -/

/-- The entry of a table at an index, where the table's own address maps: `phys` is the next stage of translation. -/
def hostEntry (m : Mem) (phys : Nat → Option Nat) (table k : Nat) : Nat :=
  match phys (table * 4096 + 8 * k) with
  | some pa => memValue m pa 8
  | none => 0
/-- The walk of a hart. A supervisor access may reach user pages. -/
def hostWalk (m : Mem) (phys : Nat → Option Nat) (va : Nat) (store : Bool) : Nat → Nat → Option Nat
  | level, table =>
    let p := hostEntry m phys table (vpn va level)
    if !pteBit p 0 || (pteBit p 2 && !pteBit p 1) then none
    else if pteBit p 1 || pteBit p 3 then
      if ptePpn p % 2 ^ (9 * level) ≠ 0 || !(if store then pteBit p 2 else pteBit p 1) then none
      else some (ptePpn p * 4096 + va % 2 ^ (12 + 9 * level))
    else
      match level with
      | 0 => none
      | l + 1 => hostWalk m phys va store l (ptePpn p)
/-- Do the upper bits of an address copy bit n - 1? -/
def hostCanonical (va n : Nat) : Bool := va / 2 ^ (n - 1) == 0 || va / 2 ^ (n - 1) == 2 ^ (65 - n) - 1
/-- One stage of translation under a register of satp's layout. -/
def hostStage (m : Mem) (phys : Nat → Option Nat) (reg : Word) (va : Nat) (store : Bool) : Option Nat :=
  let mode := bitsOf reg 63 60
  if mode = 0 then phys va
  else if mode = 8 ∨ mode = 9 ∨ mode = 10 then
    if hostCanonical va (39 + 9 * (mode - 8)) then (hostWalk m phys va store (mode - 6) (bitsOf reg 43 0)).bind phys else none
  else none
/-- Translation of a guest physical address through hgatp (PRESUMED, log 32): a root table of 2,048 entries above the Sv39, Sv48
or Sv57 levels. -/
def hostGuest (m : Mem) (hgatp : Word) (gpa : Nat) (store : Bool) : Option Nat :=
  let mode := bitsOf hgatp 63 60
  let bits := 39 + 9 * (mode - 8)
  if mode = 0 then some gpa
  else if (mode = 8 ∨ mode = 9 ∨ mode = 10) ∧ gpa < 2 ^ (bits + 2) then
    hostWalk m some (gpa % 2 ^ bits) store (mode - 6) (bitsOf hgatp 43 0 + gpa / 2 ^ bits)
  else none
/-- The physical address of a hart's access: as it stands in machine mode and without translation; in the virtual modes through
vsatp and then hgatp. -/
def hostTranslate (s : State) (x : Hart) (va : Nat) (store : Bool) : Option Nat :=
  match x.mode with
  | .machine => some va
  | .virtualUser => hostStage s.mem (fun a => hostGuest s.mem x.hgatp a store) x.vsatp va store
  | .virtualSupervisor => hostStage s.mem (fun a => hostGuest s.mem x.hgatp a store) x.vsatp va store
  | _ => hostStage s.mem some x.satp va store

/-- May a hart not reach a physical address? Pool memory is reached only through the paged path of the device (R422).
DESIGN CHOICE (log 52): a hart's access there is an access fault. -/
def outOfReach (pa : Nat) : Bool := pa / 2 ^ 52 % 2 == 1 || decide (2 ^ 56 ≤ pa)

/-! ## The management space and the hotness rings (R251, R452, R453) -/

/-- STATE of BOOTSTAT (R440). -/
def bootCode : BootState → Nat
  | .rom => 1
  | .elect => 2
  | .load => 4
  | .verify => 5
  | .run => 6
  | .failed => 7
/-- BOOTSTAT (R453). -/
def bootStat (s : State) : Word :=
  BitVec.ofNat 64 (s.boot.round * 2 ^ 48 + s.boot.leader.getD 0 % 2 ^ 11 * 2 ^ 32 + s.boot.reason * 16 + bootCode s.boot.state)
/-- MEMBER of BGCTL (R453). -/
def memberBits (s : State) : Nat :=
  (List.range 16).foldl (fun n k => if ((boardOf s k).map (·.isMember)).getD false then n + 2 ^ k else n) 0
/-- The bytes of PATHN from a target on (R453). -/
def pathBytes (s : State) (t : Nat) : Word :=
  BitVec.ofNat 64 (valueLE ((List.range 8).map fun k => BitVec.ofNat 8 (livePaths s (pathSetOf s (t + k))).length))
/-- A read of 8 bytes (R453); an unlisted offset reads as zero (R452). -/
def mgmtRead (s : State) (offset : Nat) : Word :=
  let m := s.mgmt
  match offset with
  | 0x0000 => m.bootcfg
  | 0x0008 => bootStat s
  | 0x0010 => m.boottmo
  | 0x0018 => BitVec.ofNat 64 (bitsOf m.svnmin 15 0)
  | 0x0020 => m.bootctl
  | 0x0100 => m.lease0
  | 0x0108 => m.lease1
  | 0x0110 => m.lease2
  | 0x0120 => m.leasemax
  | 0x0130 => m.leaddef
  | 0x0200 => m.sdqbase
  | 0x0208 => m.sdqlog
  | 0x0210 => m.sdqtail.setWidth 64
  | 0x0218 => m.sdqdone.setWidth 64
  | 0x0380 => BitVec.ofNat 64 (memberBits s)
  | 0x3000 => m.pwrlim
  | 0x3008 => m.pwr
  | 0x3010 => m.temp
  | 0x3018 => m.tthrot
  | 0x3020 => m.skewEvents ++ m.mcEvents
  | n =>
    if 0x300 ≤ n ∧ n < 0x380 ∧ n % 8 = 0 then nth m.bgassign ((n - 0x300) / 8) 0
    else if 0x1000 ≤ n ∧ n < 0x1200 ∧ n % 8 = 0 then nth m.poolseg ((n - 0x1000) / 8) 0
    else if 0x2000 ≤ n ∧ n < 0x3000 then
      let c := getHot s ((n - 0x2000) / 0x100)
      match n % 0x100 with
      | 0 => BitVec.ofNat 64 (c.en.toNat * 32 + c.period)
      | 8 => c.head.setWidth 64
      | 0x10 => c.tail.setWidth 64
      | _ => 0
    else if 0x4000 ≤ n ∧ n < 0x4800 then pathBytes s (n - 0x4000)
    else 0
/-- Is an address in the registers of the management space (R452)? -/
def isRegSpace (pa : Nat) : Bool := decide (0x00C0000000000000 ≤ pa) && decide (pa < 0x00C0000000010000)
/-- Is an address in the hotness rings (R251)? -/
def isHotSpace (pa : Nat) : Bool := decide (0x00C0000100000000 ≤ pa) && decide (pa < 0x00C0000100000000 + Config.hubs * 0x40000)
/-- Service cores have the numbers after those of the host harts (R354). -/
def isService (h : Nat) : Bool := decide (Config.hostHarts ≤ h)
/-- May a hart read a register of the management space: in S-mode or HS-mode any (R452); a service core, in any mode, those of the
hotness rings (R251)? -/
def reachesReg (h : Nat) (super : Bool) (pa : Nat) : Bool := super || (isService h && decide (0x2000 ≤ pa % 0x10000) && decide (pa % 0x10000 < 0x3000))
/-- May a hart write a register: in S-mode or HS-mode (R452); a service core, in any mode, HOTTAIL (R251)? -/
def writesReg (h : Nat) (super : Bool) (pa : Nat) : Bool :=
  super || (isService h && decide (0x2000 ≤ pa % 0x10000) && decide (pa % 0x10000 < 0x3000) && pa % 0x100 == 0x10)
/-- A granule as a hart's capability load finds it, as a supervisor or not. Registers and rings hold no tags. -/
def granuleFor (s : State) (h : Nat) (super : Bool) (pa : Nat) : List Byte × Bool :=
  if isRegSpace pa then
    (if reachesReg h super pa then bytesLE 8 (mgmtRead s (pa % 0x10000)).toNat ++ bytesLE 8 (mgmtRead s (pa % 0x10000 + 8)).toNat
      else List.replicate 16 0, false)
  else if isHotSpace pa then (if super || isService h then memBytes s.mem pa 16 else List.replicate 16 0, false)
  else (memBytes s.mem pa 16, memTag s.mem pa)
/-- The same in the hart's mode. -/
def hartGranule (s : State) (h pa : Nat) : List Byte × Bool := granuleFor s h ((getHart s h).mode == .supervisor) pa

/-! ## Parameter blocks (R349) -/

/-- A block: its granules with their tags. -/
abbrev Block := List (List Byte × Bool)
/-- A granule of a storage, unless it is poisoned. -/
def blockGranule (m : Mem) (a : Nat) : Option (List Byte × Bool) :=
  if memPoison m a then none else some (memBytes m a 16, memTag m a)
/-- The storage and the offset of a requester's own allocation, resident or saved. -/
def ownAlloc (s : State) (t : Task) (coreT : Nat) : Option (Mem × Nat) :=
  if t.cores.isEmpty then (t.savedCores[coreT]?).map fun c => (c.alloc, 0)
  else some ((getCore s (taskCore t coreT).phys).spad, (taskCore t coreT).base)
/-- Quarantine takes tags on the way (R362). -/
def blockTags (f : Cap → Cap) (b : Block) : Block := b.map fun g => (g.1, (f (capOfBytes g.1 g.2)).tag)
/-- Every entry of a list, or none. -/
def allSome {α : Type} : List (Option α) → Option (List α)
  | [] => some []
  | x :: xs => match x, allSome xs with
    | some y, some ys => some (y :: ys)
    | _, _ => none
/-- The regions that a requester's own allocation still waits for (R151), resident or saved. -/
def ownStaging (t : Task) (coreT : Nat) : List StageEntry :=
  if t.cores.isEmpty then ((t.savedCores[coreT]?).map (·.stage)).getD [] else (taskCore t coreT).staging
/-- Does a range of a requester's own allocation touch a granule that has not landed? -/
def ownWaiting (t : Task) (coreT addr n : Nat) : Bool :=
  (granulesOf addr n).any fun g => (ownStaging t coreT).any fun e => e.waiting.contains (winOff g)
/-- Does the block of a resident requester wait for a staged granule, as `ldc` would (R318, R349)? -/
def blockWaits (s : State) (who : Party) (addr n : Nat) : Bool :=
  match who with
  | .seat task coreT _ _ =>
    match findTask s task with
    | some t => !t.cores.isEmpty && ownWaiting t coreT addr n
    | none => false
  | _ => false
/-- The parameter block of a request: n bytes from an address of the requester; none where it cannot be read in full. Of a saved
task, nothing lands until it is placed again: a granule that waits cannot be read (DESIGN CHOICE, log 49). -/
def readBlock (s : State) (who : Party) (addr n : Nat) : Option Block :=
  let ks := List.range ((n + 15) / 16)
  match who with
  | .seat task coreT _ _ =>
    match findTask s task with
    | none => none
    | some t =>
      match ownAlloc s t coreT with
      | none => none
      | some (m, base) =>
        if addr % 16 ≠ 0 ∨ windowEnd ≤ addr ∨ winCore addr ≠ coreT ∨ allocSize s t < winOff addr + n ∨ ownWaiting t coreT addr n then none
        else
          (allSome (ks.map fun k => blockGranule m (base + winOff addr + 16 * k))).map
            (blockTags (transferCap s (taskSpaceNum s t)))
  | .hart h =>
    if addr % 16 ≠ 0 then none
    else
      (allSome (ks.map fun k =>
        (hostTranslate s { getHart s h with mode := .supervisor } (addr + 16 * k) false).bind fun pa =>
          if outOfReach pa || memPoison s.mem pa then none else some (granuleFor s h true pa))).map
        (blockTags fun c => if quarantinedAny s c then withTag c false else c)
  | .dean _ _ _ => none
/-- A field of a block. -/
def blkN (b : Block) (off n : Nat) : Nat := valueLE (((b.flatMap (·.1)).drop off).take n)
def blkCap (b : Block) (off : Nat) : Cap :=
  match b[off / 16]? with
  | some g => capOfBytes g.1 g.2
  | none => Cap.null
/-- A field of a list of bytes. -/
def fieldN (bs : List Byte) (off n : Nat) : Nat := valueLE ((bs.drop off).take n)
def fieldI (bs : List Byte) (off n : Nat) : Int := (BitVec.ofNat (8 * n) (fieldN bs off n)).toInt

end Sys2Proof.Machine
end

