-- ==== Sys2Proof/Machine/Registrar.lean ====
section
/-!
DEFINITION. The Registrar's operations (R222, R239 to R241, R281 to R286, R313, R347 to R352, R359, R361 to R363, R378), the
release of ring entries (R353) and the allocation service (R341, R342).
-/
namespace Sys2Proof.Machine

/-! ## Requests and replies (R328, R349 to R351) -/

/-- Statuses of R328: BUSY, EXHAUSTED, FORMAT, DENIED, GONE. -/
def stBusy : Nat := 1
def stExhausted : Nat := 2
def stFormat : Nat := 3
def stDenied : Nat := 4
def stGone : Nat := 5
/-- What an operation answers: a status, or a state with W0 and a capability. -/
abbrev RegAns := Except Nat (State × Word × Cap)
/-- The reply to a request; a caller that no longer waits gets none. -/
def regReply (s : State) (r : RegReq) (st : Nat) (w0 : Word) (c : Cap) : State :=
  if r.heard then deliver s r.who (.reply ⟨w0, 0, 0, c⟩ (BitVec.ofNat 64 st)) else s
def regAnswer (s : State) (r : RegReq) (a : RegAns) : Host.Outcome State Fault Refusal :=
  match a with
  | .ok (s, w0, c) => .next (regReply s r 0 w0 c)
  | .error st => .next (regReply s r st 0 Cap.null)
/-- The object that a request names: DENIED for a capability of another type or without INVOKE, GONE for a destroyed object,
BUSY while an asynchronous operation is pending (R350, R351). -/
def regObj (s : State) (r : RegReq) (types : List Nat) : Except Nat Obj :=
  if !r.cap.tag || !types.contains (capSeal r.cap) || !hasPerm r.cap .invoke then .error stDenied
  else
    match findObj s (capSeal r.cap) (capNum r.cap) with
    | none => .error stGone
    | some o => if o.dead then .error stGone else if o.busy then .error stBusy else .ok o
def withObj (s : State) (r : RegReq) (types : List Nat) (k : Obj → RegAns) : Host.Outcome State Fault Refusal :=
  regAnswer s r (match regObj s r types with
    | .error st => .error st
    | .ok o => k o)
/-- A condition that a request must meet. -/
def need (c : Bool) (st : Nat) (k : RegAns) : RegAns := if c then k else .error st
/-- A capability field of a block that must name a live object of a type (R352), with no asynchronous operation pending (R351). -/
def blkObj (s : State) (c : Cap) (type : Nat) (k : Nat → RegAns) : RegAns :=
  if !c.tag || capSeal c != type then .error stDenied
  else
    match findObj s type (capNum c) with
    | none => .error stGone
    | some o => if o.dead then .error stGone else if o.busy then .error stBusy else k (capNum c)
/-- The same of a field that may be null. -/
def blkObjOrNull (s : State) (c : Cap) (type : Nat) (k : RegAns) : RegAns := if c == Cap.null then k else blkObj s c type fun _ => k

/-! ## Storage of an untyped (R348, R352) -/

/-- An address without its key identifier (R244). -/
def noKid (pa : Nat) : Nat := pa / 2 ^ 52 * 2 ^ 52 + pa % 2 ^ 40
/-- Has an object's destruction completed (R363)? -/
def buried (o : Obj) : Bool := o.dead && !o.busy
/-- The runs of an untyped that are taken: children, frames, records. -/
def takenRuns (s : State) (num : Nat) : List (Nat × Nat) :=
  (s.objs.filter fun o => o.parent == num && o.type != 972 && !buried o).flatMap fun o =>
    (o.record, 64) :: match o.data with
      | .untyped base size => [(base, size)]
      | .frame pa size _ => [(noKid pa, size)]
      | _ => []
/-- The lowest free run of a length and alignment within [lo, hi). -/
def lowestRun (taken : List (Nat × Nat)) (lo hi len align : Nat) : Option Nat :=
  let fits := fun (a : Nat) => decide (a + len ≤ hi) && taken.all fun t => decide (a + len ≤ t.1) || decide (t.1 + t.2 ≤ a)
  ((lo :: taken.map fun t => t.1 + t.2).map fun a => alignUp (max a lo) align).foldl (fun best a =>
    if fits a then
      match best with
      | some b => if a < b then some a else best
      | none => some a
    else best) none
/-- An object created from an untyped: its record takes the lowest free 64 bytes (R348). -/
def newObj (s : State) (u : Obj) (base size : Nat) (extra : List (Nat × Nat)) (type num : Nat) (busy : Bool) (d : ObjData)
    (w0 : Word) : RegAns :=
  match lowestRun (takenRuns s u.num ++ extra) base (base + size) 64 64 with
  | none => .error stExhausted
  | some a =>
    let o : Obj := ⟨type, num, u.num, a, false, busy, d⟩
    .ok ({ s with objs := s.objs ++ [o], nextObj := if type = 974 then s.nextObj else s.nextObj + 1 }, w0, objCap type num)

/-! ## Code, nodes and graphs (R52, R281 to R286) -/

/-- Bytes of an address space, read for the Registrar, which reaches neither registers nor hotness rings (R251, R452). -/
def spaceBytes (s : State) (space va n : Nat) : Option (List Byte × State) :=
  let sp := aspaceObj s space
  match translateBytes s 0 sp sp.hspan .load va n with
  | .ok (pas, s) => if pas.any fun p => memPoison s.mem p then none else some (pas.map fun p => if isMgmt p then 0 else memByte s.mem p, s)
  | .error _ => none
/-- The constraints of the QOF header (R51, R52), and of the sizes that it states, on an image of a length. DESIGN CHOICE (log 105): a
part that would run past the image's length is FORMAT. -/
def qofOk (h : List Byte) (len : Nat) : Bool :=
  let n := fieldN h
  let feat := n 8 8
  n 0 4 == 0x39464F51 && n 4 2 == 1 && n 6 2 == 0x40 && decide (feat < 64) && feat % 2 == 1 && n 0x10 8 % 2 == 0 &&
    n 0x18 4 % 128 == 0 && decide (1 ≤ n 0x1C 1) && decide (n 0x1C 1 ≤ 48) && decide (n 0x1D 1 ≤ 8) && n 0x1E 2 == 0 &&
    n 0x20 4 % 64 == 0 && decide (n 0x24 4 ≤ 4096) && n 0x28 4 % 128 == 0 && n 0x34 12 == 0 &&
    decide (n 0x18 4 + n 0x10 8 ≤ len) && decide (n 0x20 4 + 0x240 * n 0x24 4 ≤ len) && decide (n 0x28 4 + n 0x2C 4 ≤ len)
/-- ROWS and CAPROWS are the largest of any node (R52). -/
def qofRows (h : List Byte) (nodes : List (List Byte)) : Bool :=
  nodes.isEmpty ||
    (fieldN h 0x1C 1 == (nodes.map fun n => fieldN n 6 1).foldl max 0 && fieldN h 0x1D 1 == (nodes.map fun n => fieldN n 7 1).foldl max 0)
/-- Measurement 5 of the keys that an address space is bound to runs on over a new code object (R449). -/
def measureCode (s : State) (space : Nat) (image : List Byte) : State :=
  let kid := (aspaceObj s space).kid
  { s with objs := s.objs.map fun o => match o.data with
      | .key k => if k.kid == kid && !o.dead then { o with data := .key { k with codeHash := Config.sha384 (k.codeHash ++ Config.sha384 image) } } else o
      | _ => o }
/-- CREATE of a code object (R52, R352). -/
def createCode (s : State) (u : Obj) (base size : Nat) (b : Block) : RegAns :=
  let img := blkCap b 0
  blkObj s (blkCap b 0x10) 962 fun space =>
    need (img.tag && decide (capE img < 48) && capSeal img == 0) stDenied <|
      need (hasPerm img .ld) stFormat <|
        let a := (capBase img).toNat
        match spaceBytes s space a 64 with
        | none => .error stFormat
        | some (h, s) =>
          need (decide (64 ≤ capLen img) && qofOk h (capLen img)) stFormat <|
            match spaceBytes s space (a + fieldN h 0x20 4) (0x240 * fieldN h 0x24 4) with
            | none => .error stFormat
            | some (t, s) =>
              let nodes := (List.range (fieldN h 0x24 4)).map fun k => (t.drop (0x240 * k)).take 0x240
              need (qofRows h nodes) stFormat <|
                newObj (measureCode s space (((spaceBytes s space a (capLen img)).map (·.1)).getD [])) u base size [] 973 s.nextObj false
                  (.code ⟨img, space, BitVec.ofNat 64 (fieldN h 8 8), BitVec.ofNat 64 (a + fieldN h 0x18 4),
                    BitVec.ofNat 64 (fieldN h 0x10 8), nodes⟩) 0

/-- Region k of a node table entry (R284). -/
def regionOf (e : List Byte) (k : Nat) : RegionDesc :=
  let d := (e.drop (0x40 + 32 * k)).take 32
  let w := fieldN d 0x1C 4
  ⟨k, fieldI d 0 8, fieldI d 8 4, fieldI d 0xC 4, w / 2 ^ 19 % 64, fieldI d 0x10 4, fieldN d 0x14 4, fieldN d 0x18 4,
    w / 2 ^ 28, w / 2 ^ 27 % 2 == 1, w / 2 ^ 25 % 4, w % 2 ^ 19⟩
/-- The allocation range of a region (R150, R286). -/
def spadRange (x : RegionDesc) : Nat × Nat := (x.spad, x.spad + x.rows * x.rowBytes)
def rangesMeet (a b : Nat × Nat) : Bool := decide (a.1 < b.2) && decide (b.1 < a.2)
/-- The launch area of a node (R287). -/
def launchRange (n : NodeObj) : Nat × Nat :=
  let top := 2 ^ n.spadLog
  (top - (if 3 < n.argN then 256 else 0) - (if n.recIn then n.count * n.recSize else 0), top)
/-- The constraints on a declared region (R284, R286). -/
def regionOk (n : NodeObj) (x : RegionDesc) : Bool :=
  let r := spadRange x
  decide (1 ≤ x.rows) && decide (x.rows ≤ 65536) && decide (16 ≤ x.rowBytes) && decide (x.rowBytes ≤ 524288) &&
    x.rowBytes % 16 == 0 && x.mode != 0 && x.spad % 16 == 0 && decide (x.arg < n.argN) && !(x.warm && x.mode == 2) &&
    !(x.mode / 2 == 1 && decide (1 < x.rows) && decide (x.stride.natAbs < x.rowBytes)) && decide (r.2 ≤ 2 ^ n.spadLog) &&
    !rangesMeet r (launchRange n) && n.regions.all fun y => y.k == x.k || !rangesMeet r (spadRange y)
/-- The null capability, or an unsealed one with LD and ST (R285). -/
def ckptCapOk (c : Cap) : Bool :=
  c == Cap.null || (c.tag && decide (capE c < 48) && capSeal c == 0 && hasPerm c .ld && hasPerm c .st)
/-- The capability rows that launch needs (R126). -/
def launchRows (n : NodeObj) : Nat := 1 + ((n.args.take 3).filter (·.tag)).length
/-- The node that a block and a node table entry describe (R283 to R285). -/
def nodeOf (b : Block) (e : List Byte) (code : Nat) : NodeObj :=
  let n := blkN b
  let x : NodeObj :=
    ⟨BitVec.ofNat 64 (n 0 8), n 8 1, n 9 1 % 2 == 1, n 9 1 / 2 % 2 == 1, n 0xA 1, n 0xB 1, n 0xC 2, n 0xE 2, n 0x10 4, n 0x14 4,
      n 0x18 2, n 0x1A 1, n 0x1C 4, blkCap b 0x20, (List.range 16).map fun k => blkCap b (0x40 + 16 * k), code, n 0x150 4,
      fieldN e 0 4, fieldN e 4 1, fieldN e 5 1, fieldN e 6 1, fieldN e 7 1,
      ((List.range 16).filter fun k => fieldN e 8 2 / 2 ^ k % 2 == 1).map (regionOf e), 0⟩
  { x with ckptSz := ckptSize x }
/-- The constraints of R126, R150, R283 to R286. -/
def nodeOk (b : Block) (e : List Byte) (x : NodeObj) (textSize : Nat) : Bool :=
  let n := blkN b
  decide (15 ≤ x.spadLog) && decide (x.spadLog ≤ 19) && decide (n 9 1 < 4) && decide (x.argN ≤ 16) && decide (x.prio ≤ 3) &&
    decide (16 ≤ x.recSize) && decide (x.recSize ≤ 256) && x.recSize % 16 == 0 && decide (1 ≤ x.count) && decide (x.count ≤ 4096) &&
    (x.timer == 0 || decide (1000 ≤ x.timer)) && decide (x.count ≤ x.binCap) && decide (x.binCap ≤ 65536) && decide (1 ≤ x.weight) &&
    decide (16 ≤ x.holdLog) && decide (x.holdLog ≤ 22) && n 0x1B 1 == 0 && decide (x.lead ≤ 1000000) && n 0x30 16 == 0 &&
    ckptCapOk x.ckptArea && (x.args.drop x.argN).all (fun c => c == Cap.null) &&
    x.entry % 2 == 0 && decide (x.entry + 4 ≤ textSize) && decide (1 ≤ x.team) && decide (x.team ≤ 64) && decide (1 ≤ x.benches) &&
    decide (x.benches ≤ 64) && decide (1 ≤ x.rows) && decide (x.rows ≤ 48) && decide (x.capRows ≤ 8) && fieldN e 0xA 6 == 0 &&
    fieldN e 0x20 32 == 0 &&
    (List.range 16).all (fun k => fieldN e 8 2 / 2 ^ k % 2 == 1 || fieldN e (0x40 + 32 * k) 32 == 0) &&
    x.regions.all (regionOk x) && !(x.recIn && decide (2 ^ x.spadLog < 2 * (x.count * x.recSize))) && decide (launchRows x ≤ x.capRows)
/-- Is a word a clause header (R29)? -/
def isHeaderWord (w : Nat) : Bool :=
  match decode32 w with
  | .ok (.clause _ _ _ _ _) => true
  | _ => false
/-- CREATE of a node (R285, R352). -/
def createNode (s : State) (u : Obj) (base size : Nat) (b : Block) : RegAns :=
  blkObj s (blkCap b 0x140) 973 fun code =>
    let c := codeOf s code
    match c.nodes[blkN b 0x150 4]? with
    | none => .error stFormat
    | some e =>
      let x := nodeOf b e code
      need (nodeOk b e x c.size.toNat) stFormat <|
        match spaceBytes s c.aspace (c.text.toNat + x.entry) 4 with
        | none => .error stFormat
        | some (w, s) =>
          need (isHeaderWord (valueLE w)) stFormat <|
            newObj s u base size [] 968 s.nextObj false (.node x) 0

/-- Edges left after those that no other edge enters have gone, again and again: none on an acyclic graph (R282). -/
def peelEdges : Nat → List (Nat × Nat) → List (Nat × Nat)
  | 0, es => es
  | n + 1, es => peelEdges n (es.filter fun e => es.any fun x => x.2 == e.1)
def acyclic (es : List (Nat × Nat)) : Bool := (peelEdges es.length es).isEmpty
/-- The edges of an edge list (R282), if every entry is well formed. -/
def edgesOf (nodes : Nat) (bs : List Byte) (n : Nat) : Option (List (Nat × Nat × Bool)) :=
  allSome ((List.range n).map fun k =>
    let w := fieldN bs (4 * k) 4
    if 2 ^ 25 ≤ w ∨ nodes ≤ w % 4096 ∨ nodes ≤ w / 4096 % 4096 then none
    else some (w % 4096, w / 4096 % 4096, w / 2 ^ 24 % 2 == 1))
/-- The node objects that no graph holds, in order of creation. -/
def freeNodes (s : State) : List Nat :=
  (s.objs.filter fun o => o.type == 968 && !o.dead && !(s.objs.any fun g => !g.dead && match g.data with
    | .graph x => x.nodes.contains o.num
    | _ => false)).map (·.num)
/-- CREATE of a graph (R281, R282, R352). Its nodes are the first of the node objects that no graph holds, in order of
creation. -/
def createGraph (s : State) (u : Obj) (base size : Nat) (b : Block) : RegAns :=
  let n := blkN b
  let nodes := (freeNodes s).take (n 2 2)
  let spaces := (nodes.map fun k => (codeOf s (nodeObjOf s k).code).aspace).eraseDups
  let list := blkCap b 0x30
  need (decide (n 0 1 ≤ 2) && n 1 1 == 0 && decide (1 ≤ n 2 2) && decide (n 2 2 ≤ 4096) && decide (n 4 4 ≤ 65536) && n 8 8 == 0 &&
      nodes.length == n 2 2 && spaces.length == 1 && (blkCap b 0x10).tag &&
      (blkCap b 0x20 == Cap.null || (blkCap b 0x20).tag) && (n 4 4 == 0 || list.tag)) stFormat <|
    blkObj s (blkCap b 0x10) 963 fun _ =>
      blkObj s (blkCap b 0x40) 965 fun sched =>
        blkObjOrNull s (blkCap b 0x20) 963 <|
          need (n 4 4 == 0 || (decide (capE list < 48) && capSeal list == 0)) stDenied <|
            need (n 4 4 == 0 || (hasPerm list .ld && decide (4 * n 4 4 ≤ capLen list))) stFormat <|
              match spaceBytes s (nth spaces 0 0) (capBase list).toNat (4 * n 4 4) with
              | none => .error stFormat
              | some (bs, s) =>
                match edgesOf (n 2 2) bs (n 4 4) with
                | none => .error stFormat
                | some es =>
                  need (acyclic ((es.filter fun e => !e.2.2).map fun e => (e.1, e.2.1))) stFormat <|
                    newObj s u base size [] 967 s.nextObj false
                      (.graph ⟨n 0 1, nodes, es, blkCap b 0x10, blkCap b 0x20, sched,
                        (List.range 10).map fun d => BitVec.ofNat 64 (n (0x50 + 8 * d) 8), [], none⟩) 0

/-! ## CREATE (R348, R352, R353) -/

/-- The bytes of each type's block (R352). -/
def blockSize (type : Nat) : Nat :=
  match type with
  | 960 => 1
  | 961 => 32
  | 962 => 80
  | 965 => 24
  | 966 => 32
  | 967 => 160
  | 968 => 340
  | 969 => 32
  | 971 => 32
  | 973 => 32
  | _ => 0
/-- The key identifier of a key object. -/
def kidOf (s : State) (key : Nat) : Nat :=
  match findObj s 970 key with
  | some { data := .key k, .. } => k.kid
  | _ => 0
/-- Is a key object LOADED (R450)? -/
def keyLoaded (s : State) (key : Nat) : Bool :=
  match findObj s 970 key with
  | some { data := .key k, .. } => k.released
  | _ => false
/-- The lowest key identifier that no key object holds (R348). -/
def freeKid (s : State) : Option Nat :=
  let used := s.objs.filterMap fun o => match o.data with
    | .key k => if buried o then none else some k.kid
    | _ => none
  ((List.range 4095).map (· + 1)).find? fun k => !used.contains k
/-- The lowest software seal type that no sealer holds (R348). -/
def freeSealType (s : State) : Option Nat :=
  ((List.range 959).map (· + 1)).find? fun k => !(s.objs.any fun o => o.type == 974 && o.num == k)
/-- The service-ring area of a hub and the runs taken in it (R353). -/
def ringArea (hub : Nat) : Nat := 0x00C0000200000000 + hub * 0x400000
def ringSize (log : Nat) : Nat := alignUp (64 * (2 ^ (log + 1) + 1)) 4096
def ringRuns (s : State) : List (Nat × Nat) :=
  s.objs.filterMap fun o => match o.data with
    | .ring _ log base _ _ _ => if buried o then none else some (base, ringSize log)
    | _ => none
/-- The heap of a new address space (R221): the Registrar writes HBASE, HSPAN and HOFF, while no context runs in it. Where it
puts the window is its own choice (DESIGN CHOICE, log 43); one that breaks a constraint is none. The window may be larger than
what can back it. -/
def heapTriple (h : Word × Nat × Nat) (kid : Nat) : Word × Word × Word :=
  let span := 2 ^ h.2.1
  if 21 ≤ h.2.1 && decide (h.2.1 ≤ 46) && h.1.toNat % span == 0 && canonical h.1.toNat && decide (h.2.2 < 2 ^ 40) then
    (h.1, BitVec.ofNat 64 span, BitVec.ofNat 64 (kid * 2 ^ 40 + h.2.2) - h.1)
  else (0, 0, 0)
/-- Do runs lie in a heap window, rising and apart, in whole granules? -/
def runsOk (sp : ASpace) : Nat → List (Nat × Nat) → Bool
  | _, [] => true
  | from_, r :: rs =>
    decide (from_ ≤ r.1) && r.1 % 16 == 0 && r.2 % 16 == 0 && decide (r.1 + r.2 ≤ sp.hbase.toNat + sp.hspan.toNat) &&
      runsOk sp (r.1 + r.2) rs
/-- The allocation service of a new address space (R341). Which runs are free at first the package decides (DESIGN CHOICE, log 44);
runs outside the heap window are none. -/
def openPool (s : State) (space : Nat) (sp : ASpace) : State :=
  { s with pools := s.pools ++ [⟨space, [], if runsOk sp sp.hbase.toNat (Config.allocPool space) then Config.allocPool space else []⟩] }
/-- A new ring is one through which the service of an address space is reached, if the package decides so (DESIGN CHOICE, log 44). -/
def joinPool (s : State) (ring : Nat) : State :=
  { s with pools := s.pools.map fun p => if Config.ringSpace ring = some p.aspace then { p with rings := p.rings ++ [ring] } else p }
/-- CREATE of a service ring (R353). -/
def createRing (s : State) (u : Obj) (base size : Nat) (b : Block) : RegAns :=
  let hub := blkN b 0 1
  let log := blkN b 1 1
  need (decide (hub < 16) && decide (3 ≤ log) && decide (log ≤ 12)) stFormat <|
    blkObj s (blkCap b 0x10) 964 fun bell =>
      match lowestRun (ringRuns s) (ringArea hub) (ringArea hub + 0x400000) (ringSize log) 4096 with
      | none => .error stExhausted
      | some a =>
        let s := { s with mem := memStore (memClear s.mem a (ringSize log)) (a + 0x10) (bytesLE 1 log) false }
        newObj (joinPool s s.nextObj) u base size [] 971 s.nextObj false (.ring hub log a bell [] 0) (BitVec.ofNat 64 a)
/-- CREATE of an untyped, a frame, an address space (R352). -/
def createUntyped (s : State) (u : Obj) (base size : Nat) (b : Block) : RegAns :=
  let n := blkN b 0 1
  need (decide (12 ≤ n) && decide (n ≤ 40)) stFormat <|
    match lowestRun (takenRuns s u.num) base (base + size) (2 ^ n) (2 ^ n) with
    | none => .error stExhausted
    | some a => newObj s u base size [(a, 2 ^ n)] 960 s.nextObj false (.untyped a (2 ^ n)) 0
/-- The storage of a new frame (R244, R245): no tag is left in it, its poison stays with it, and what was written under another key, or
under a former key of this identifier, stands under no identifier any more, so that its bytes are free values. -/
def eraseFrame (m : Mem) (pa n : Nat) : Mem :=
  let home := underKid pa 0
  let inside := fun (a : Nat) => decide (home ≤ underKid a 0) && decide (underKid a 0 < home + n)
  let lines := (((m.cells.map (·.1)).filter inside).map lineKey ++ (m.views.map (·.1)).filter fun l => inside (64 * l)).eraseDups
  { cells := m.cells.filter fun c => !inside c.1
    tags := m.tags.filter fun g => !inside (16 * g)
    poison := (m.poison.filter fun g => inside (16 * g)).foldl (fun l g => natPut l (underKid (16 * g) 0 / 16) true)
      (m.poison.filter fun g => !inside (16 * g))
    views := lines.foldl (fun l x => viewPut l x []) m.views }
def createFrame (s : State) (u : Obj) (base size : Nat) (b : Block) : RegAns :=
  let n := blkN b 0 1
  need ((n == 12 || n == 21 || n == 30) && decide (blkN b 1 1 < 2)) stFormat <|
    blkObj s (blkCap b 0x10) 970 fun key => need (keyLoaded s key) stBusy <|
      match lowestRun (takenRuns s u.num) base (base + size) (2 ^ n) (2 ^ n) with
      | none => .error stExhausted
      | some a =>
        newObj { s with mem := eraseFrame s.mem (kidOf s key * 2 ^ 40 + a) (2 ^ n) } u base size
          [(a, 2 ^ n)] 961 s.nextObj false
          (.frame (kidOf s key * 2 ^ 40 + a) (2 ^ n) (blkN b 1 1 == 1)) 0
def createSpace (s : State) (u : Obj) (base size : Nat) (b : Block) : RegAns :=
  let asn := blkN b 8 4
  need (blkN b 0 8 % 4096 == 0 && decide (1 ≤ asn) && decide (asn < 2 ^ 20)) stFormat <|
    blkObj s (blkCap b 0x10) 970 fun key => need (keyLoaded s key) stBusy <| blkObj s (blkCap b 0x20) 963 fun _ => blkObj s (blkCap b 0x30) 963 fun _ =>
      blkObj s (blkCap b 0x40) 964 fun _ =>
        need (!(s.objs.any fun o => !buried o && match o.data with
          | .aspace a => a.asn == asn
          | _ => false)) stBusy <|
          let h := heapTriple (Config.heap s.nextObj) (kidOf s key)
          let sp : ASpace := ⟨BitVec.ofNat 64 (blkN b 0 8), asn, kidOf s key, blkCap b 0x20, blkCap b 0x30, blkCap b 0x40,
            h.1, h.2.1, 0, h.2.2, none⟩
          newObj (openPool s s.nextObj sp) u base size [] 962 s.nextObj false (.aspace sp) 0
/-- CREATE of a scheduling context, an interrupt line, a carve object (R239, R240, R352). -/
def createSched (s : State) (u : Obj) (base size : Nat) (b : Block) : RegAns :=
  let tmo := blkN b 0x10 8
  need (decide (blkN b 8 1 ≤ 1) && decide (1000 ≤ tmo) && decide (tmo ≤ 2 ^ 40)) stFormat <|
    newObj s u base size [] 965 s.nextObj false (.sched (BitVec.ofNat 64 (blkN b 0 8)) (blkN b 8 1 == 1) tmo []) 0
def createIrq (s : State) (u : Obj) (base size : Nat) (b : Block) : RegAns :=
  need (decide (blkN b 0 2 ≤ 257) && decide (blkN b 2 1 ≤ 63)) stFormat <|
    blkObj s (blkCap b 0x10) 964 fun n => newObj s u base size [] 966 s.nextObj false (.irq (blkN b 0 2) (blkN b 2 1) n) 0
def createCarve (s : State) (u : Obj) (base size : Nat) (b : Block) : RegAns :=
  let w0 := blkN b 1 1
  let n := blkN b 2 1
  need (decide (blkN b 0 1 < 16) && decide (4 ≤ w0) && decide (w0 ≤ 15) && decide (1 ≤ n) && decide (n ≤ 12) &&
      decide (w0 + n ≤ 16)) stFormat <|
    blkObj s (blkCap b 0x10) 964 fun nt =>
      newObj { s with agenda := s.agenda ++ [.carveComplete s.nextObj] } u base size [] 969 s.nextObj true
        (.carve (blkN b 0 1) w0 0 nt [] (some n)) 0
/-- CREATE of the types without a block. -/
def createPlain (s : State) (u : Obj) (base size type : Nat) : RegAns :=
  match type with
  | 963 => newObj s u base size [] 963 s.nextObj false (.endpoint [] []) 0
  | 964 => newObj s u base size [] 964 s.nextObj false (.notification 0 []) 0
  | 970 =>
    match freeKid s with
    | some k => newObj s u base size [] 970 s.nextObj false (.key ⟨k, false, [], 0, none, false, []⟩) 0
    | none => .error stExhausted
  | _ =>
    match freeSealType s with
    | some k => newObj s u base size [] 974 k false .sealer 0
    | none => .error stExhausted
/-- CREATE (R350). -/
def execCreate (req : RegReq) (s : State) : Host.Outcome State Fault Refusal :=
  let type := req.w1.toNat
  withObj s req [960] fun u =>
    match u.data with
    | .untyped base size =>
      if type < 960 ∨ 974 < type ∨ type = 972 then .error stFormat
      else if blockSize type = 0 then createPlain s u base size type
      else
        match readBlock s req.who req.w2.toNat (blockSize type) with
        | none => .error stFormat
        | some b =>
          match type with
          | 960 => createUntyped s u base size b
          | 961 => createFrame s u base size b
          | 962 => createSpace s u base size b
          | 965 => createSched s u base size b
          | 966 => createIrq s u base size b
          | 967 => createGraph s u base size b
          | 968 => createNode s u base size b
          | 969 => createCarve s u base size b
          | 971 => createRing s u base size b
          | _ => createCode s u base size b
    | _ => .error stDenied

/-! ## MINT, DESTROY, REVOKE, MEMCAP (R348, R350, R362, R363) -/

/-- The hardware object types (R347). -/
def objTypes : List Nat := (List.range 15).map (· + 960)
/-- MINT (R348): a new badge and a subset of the permissions. -/
def execMint (req : RegReq) (s : State) : Host.Outcome State Fault Refusal :=
  withObj s req objTypes fun _ =>
    let c := withPerms req.cap (capPerms req.cap &&& req.w2.extractLsb' 0 10) true
    .ok (s, 0, ⟨(req.w1 &&& 0x7FFFFFFFFFFFFFFF) ++ c.bits.extractLsb' 0 64, true⟩)
/-- The address space that owns an object; for an object of none, the requester's. -/
def ownerSpace (s : State) (r : RegReq) (o : Obj) : Nat :=
  let ofNode := fun (n : NodeObj) => (codeOf s n.code).aspace
  let ofGraph := fun (g : GraphObj) => ofNode (nodeObjOf s (nth g.nodes 0 0))
  match o.data with
  | .aspace _ => o.num
  | .code c => c.aspace
  | .node n => ofNode n
  | .graph g => ofGraph g
  | .emit g _ => ofGraph (graphOf s g)
  | _ =>
    match r.who with
    | .seat task _ _ _ => taskSpaceNum s ((findTask s task).getD Task.none_)
    | _ => 2 ^ 38
/-- DESTROY (R350, R363): the object is quarantined, its waiting parties wake, and the sweep is asked for. -/
def execDestroy (req : RegReq) (s : State) : Host.Outcome State Fault Refusal :=
  withObj s req objTypes fun o =>
    let space := ownerSpace s req o
    let s := wakeQueues (putObj s { o with dead := true, busy := true }) o.type o.num
    .ok ({ s with quarantine := s.quarantine ++ [⟨0, space, 0, 0, false, false, [], 0, none, some (o.type, o.num)⟩] }, 0, Cap.null)
/-- The packages that have been sent capabilities into a region (R360); every one of the domain for a unit marked so. -/
def exportSet (s : State) (space base len : Nat) : List Nat :=
  let us := s.exportUnits.filter fun u =>
    u.aspace == space && decide (u.unit * 0x200000 < base + len) && decide (base < (u.unit + 1) * 0x200000)
  (us.flatMap fun u => if u.all then (s.paths.map (·.target)).filter (· != s.pkg) else u.pkgs).eraseDups
/-- The notice goes on every board group and, through the fabric, to the packages that share none (R365, R439). -/
def sendNotices (s : State) (r : Revocation) : State :=
  let w := noticeWords s r
  let on := s.board.filter fun b => b.2.isMember
  let near := on.flatMap fun b => b.2.members
  { s with
    board := s.board.map fun b =>
      if b.2.isMember then (b.1, { b.2 with service := b.2.service ++ [⟨2, w.1, w.2, BitVec.ofNat 64 (r.num % 2 ^ 32)⟩] }) else b
    outbox := s.outbox ++ (r.waitFor.filter fun p => !near.contains p).map fun p =>
      .notice p w.1 w.2 (BitVec.ofNat 64 (r.num % 2 ^ 32)) }
/-- REVOKE (R350, R362, R365). -/
def execRevoke (req : RegReq) (s : State) : Host.Outcome State Fault Refusal :=
  withObj s req [962] fun o =>
    let base := req.w1.toNat
    let len := req.w2.toNat
    need (base % 16 == 0 && len % 16 == 0 && decide (16 ≤ len) && decide (len ≤ 2 ^ 57)) stFormat <|
      need (decide ((s.quarantine.filter fun r => r.target.isNone).length < 256)) stExhausted <|
        let pkgs := exportSet s o.num base len
        let r : Revocation :=
          ⟨s.nextRevoke, o.num, req.w1, len, false, false, pkgs, s.bell + 1000000000, none, none⟩
        let s := { s with quarantine := s.quarantine ++ [r], nextRevoke := s.nextRevoke + 1 }
        let s := putObj s { o with busy := true }
        .ok (if pkgs.isEmpty then s else sendNotices s r, BitVec.ofNat 64 r.num, Cap.null)
/-- The ways of live carve objects that a capability over [lo, hi) reaches are live from then on (R241). -/
def markWays (s : State) (lo hi : Nat) : State :=
  { s with objs := s.objs.map fun o =>
      match o.data with
      | .carve h w0 n nt live p =>
        let reached := ((List.range n).map (· + w0)).filter fun w =>
          let a := carveBase + h * 0x10000000 + w * 0x1000000
          !live.contains w && decide (lo < a + 0x1000000) && decide (a < hi)
        if o.dead then o else { o with data := .carve h w0 n nt (live ++ reached) p }
      | _ => o }
/-- MEMCAP (R350): LD, ST, LDC, STC, GLOBAL and EX, over the bounds as `cbnd` rounds them (R110). Bounds that touch the team window
are answered FORMAT, since no capability into it is derived (R105; DESIGN CHOICE, log 48). -/
def execMemcap (req : RegReq) (s : State) : Host.Outcome State Fault Refusal :=
  withObj s req [962] fun _ =>
    let base := req.w1.toNat
    match boundsFor base (base + req.w2.toNat) with
    | (_, lo, hi) =>
      need (decide (windowEnd ≤ lo) && decide (hi ≤ 2 ^ 64)) stFormat <|
        .ok (markWays s lo hi, 0, boundedCap req.w1 0x3E4 0 base (base + req.w2.toNat) true)

/-! ## BIND and UNBIND (R312, R313) -/

/-- The core that an operand names. -/
def bindCore (w : Word) : Option Nat :=
  let die := bitsOf w 11 8
  if w.toNat / 4096 ≠ 0 ∨ bitsOf w 7 6 ≠ 0 ∨ Config.dies ≤ die then none else some (die * Config.coresPerDie + bitsOf w 5 0)
/-- The context slots taken on a core. -/
def slotsTaken (s : State) (core : Nat) : List Nat :=
  s.objs.flatMap fun o => match o.data with
    | .sched _ _ _ bound => (bound.filter fun b => b.1 == core).map (·.2)
    | _ => []
/-- Change the entries of a timetable. -/
def ttMap (tt : List Word) (f : Nat → Nat → Nat) : List Word :=
  (List.range 8).map fun i => BitVec.ofNat 64 (valueLE ((List.range 8).map fun j =>
    (BitVec.ofNat 8 (f (8 * i + j) ((nth tt i 0).toNat / 2 ^ (8 * j) % 256)) : Byte)))
/-- BIND (R313). -/
def execBind (req : RegReq) (s : State) : Host.Outcome State Fault Refusal :=
  withObj s req [965] fun o =>
    match o.data, bindCore req.w1 with
    | .sched mask strict tmo bound, some core =>
      let c := getCore s core
      need (!(bound.any fun b => b.1 == core) && (List.range 64).all fun e => !mask.getLsbD e || !(ttEntry c e).1) stBusy <|
        match (List.range 8).find? fun k => !(slotsTaken s core).contains k with
        | none => .error stExhausted
        | some slot =>
          let tt := ttMap c.tt fun e x => if mask.getLsbD e then 128 + (if strict then 64 else 0) + slot else x
          .ok (putObj (putCore s core { c with tt := tt }) { o with data := .sched mask strict tmo (bound ++ [(core, slot)]) }, 0,
            Cap.null)
    | _, _ => .error stFormat
/-- Is a bench of a scheduling context resident on a core? -/
def contextResident (s : State) (sched core : Nat) : Bool :=
  s.tasks.any fun t => (graphOf s t.graph).sched == sched && t.cores.any fun c => c.phys == core
/-- UNBIND (R313). -/
def execUnbind (req : RegReq) (s : State) : Host.Outcome State Fault Refusal :=
  withObj s req [965] fun o =>
    match o.data, bindCore req.w1 with
    | .sched mask strict tmo bound, some core =>
      match lookupKey bound core with
      | none => .error stFormat
      | some slot =>
        need (!contextResident s o.num core) stBusy <|
          let c := getCore s core
          let tt := ttMap c.tt fun _ x => if x / 128 = 1 ∧ x % 8 = slot then 0 else x
          .ok (putObj (putCore s core { c with tt := tt }) { o with data := .sched mask strict tmo (dropKey bound core) }, 0, Cap.null)
    | _, _ => .error stFormat

/-! ## Carve, heap, graphs, travel (R222, R240, R241, R289, R350, R359, R361) -/

/-- CARVE (R240, R241, R350): the change completes later. -/
def execCarve (req : RegReq) (s : State) : Host.Outcome State Fault Refusal :=
  withObj s req [969] fun o =>
    match o.data with
    | .carve hub w0 n nt live _ =>
      need (decide (req.w1.toNat ≤ 12)) stFormat <|
        .ok ({ putObj s { o with busy := true, data := .carve hub w0 n nt live (some req.w1.toNat) } with
          agenda := s.agenda ++ [.carveComplete o.num] }, 0, Cap.null)
    | _ => .error stDenied
/-- CARVECAP (R241, R350): LD, ST, LDC, STC and GLOBAL over the ways, which are live from then on. -/
def execCarvecap (req : RegReq) (s : State) : Host.Outcome State Fault Refusal :=
  withObj s req [969] fun o =>
    match o.data with
    | .carve hub w0 n _ _ _ =>
      let a := carveBase + hub * 0x10000000 + w0 * 0x1000000
      .ok (markWays s a (a + n * 0x1000000), 0, boundedCap (BitVec.ofNat 64 a) 0x3C4 0 a (a + n * 0x1000000) true)
    | _ => .error stDenied
/-- HEAP (R222): a lower limit needs every context of the space to be parked. -/
def execHeap (req : RegReq) (s : State) : Host.Outcome State Fault Refusal :=
  withObj s req [962] fun o =>
    match o.data with
    | .aspace a =>
      need (req.w1.toNat % 0x200000 == 0 && decide (req.w1.toNat ≤ a.hspan.toNat)) stFormat <|
        need (decide (a.hlimit.toNat ≤ req.w1.toNat) || s.tasks.all fun t => taskSpaceNum s t != o.num || t.cores.isEmpty) stBusy <|
          .ok (putObj s { o with data := .aspace { a with hlimit := req.w1 } }, 0, Cap.null)
    | _ => .error stDenied
/-- INJECT (R289, R350): one record, as one delivery. -/
def execInject (req : RegReq) (s : State) : Host.Outcome State Fault Refusal :=
  withObj s req [967] fun o =>
    let g := graphOf s o.num
    let n := req.w1.toNat
    need (decide (n < g.nodes.length)) stFormat <|
      match readBlock s req.who req.w2.toNat (binNode s o.num n).recSize with
      | none => .error stFormat
      | some b =>
        need (decide (0 < binFree s o.num n)) stExhausted <|
          .ok (deliverRecs s o.num n [⟨(b.flatMap (·.1)).take (binNode s o.num n).recSize, []⟩] 0, 0, Cap.null)
/-- EMITCAP (R282, R350): an emit capability for one declared edge. -/
def execEmitcap (req : RegReq) (s : State) : Host.Outcome State Fault Refusal :=
  withObj s req [967] fun o =>
    let edge := req.w1.toNat
    need (decide (edge < (graphOf s o.num).edges.length)) stFormat <|
      match s.objs.find? fun x => !x.dead && x.data == .emit o.num edge with
      | some x => .ok (s, 0, objCap 972 x.num)
      | none =>
        .ok ({ s with objs := s.objs ++ [⟨972, s.nextObj, o.parent, 0, false, false, .emit o.num edge⟩], nextObj := s.nextObj + 1 }, 0,
          objCap 972 s.nextObj)
/-- EXPORT (R350, R359). -/
def execExportSpace (req : RegReq) (s : State) : Host.Outcome State Fault Refusal :=
  withObj s req [962] fun o =>
    match o.data with
    | .aspace a =>
      match a.exportSlot with
      | some k => .ok (s, BitVec.ofNat 64 k, Cap.null)
      | none =>
        match (List.range 256).find? fun k => !(s.exportSlots.any fun e => e.1 == k) with
        | none => .error stExhausted
        | some k =>
          .ok ({ putObj s { o with data := .aspace { a with exportSlot := some k } } with
            exportSlots := s.exportSlots ++ [(k, o.num)] }, BitVec.ofNat 64 k, Cap.null)
    | _ => .error stDenied
/-- What the package named in a cursor answers to ADMIT (R361): a status, 0 for consent. This package, and a package whose notice
stands here, are answered for; another one's state lies outside. -/
def admitStatus (s : State) (c : Cap) : Nat × State :=
  let target := remotePkg (capCursor c)
  let base := remoteVa (BitVec.ofInt 64 (capBase c))
  if target = s.pkg then
    match slotSpace s (remoteSlot (capCursor c)) with
    | none => (stDenied, s)
    | some space => (if requestQuarantined s space base (base + BitVec.ofNat 64 (capLen c)) then stDenied else 0, s)
  else if (livePaths s (pathSetOf s target)).isEmpty then (stGone, s)
  else if s.quarantine.any fun r => r.origin.isSome && capIn r c then (stDenied, s)
  else (if Config.peerQuarantines s.draws then stDenied else 0, { s with draws := s.draws + 1 })
/-- ADMIT (R361): a travel-sealed capability comes back unsealed. DEDUCED (log 101): INVOKE is asked of the capabilities that name an
object; a memory capability has none (R350). -/
def execAdmitCap (req : RegReq) (s : State) : Host.Outcome State Fault Refusal :=
  regAnswer s req
    (if !req.cap.tag || capSeal req.cap != 1009 || decide (48 ≤ capE req.cap) then .error stDenied
    else
      match admitStatus s req.cap with
      | (0, s) => .ok (s, 0, withSeal req.cap 0 true)
      | (st, _) => .error st)

/-! ## PREEMPT (R378) -/

/-- PARK reaches one task. -/
def parkTask (s : State) (t : Task) : State :=
  let owned := fun (t : Task) => ({ t with conds := (t.conds ++ [ParkCond.owner]).eraseDups } : Task)
  match t.phase with
  | .running => haltTask s t .ownerPreempt
  | .halted _ => haltTask s t .ownerPreempt
  | .staging _ =>
    match discardTask s t with
    | (s, t) =>
      match restartFrom s t with
      | (s, t) => putTask s (owned { t with phase := .pool })
  | .pool => putTask s (owned t)
  | _ => s
/-- The tasks of a graph that PARK affects: those launched that have not retired (R378). One whose threads have all exited has nothing to
save; its regions are stored and it leaves its cores. -/
def parkSet (s : State) (g : Nat) : List Word := (s.tasks.filter fun t => t.graph == g).map (·.id)
/-- Does a task still stand on a core? -/
def onCore (s : State) (id : Word) : Bool :=
  match findTask s id with
  | some t => !t.cores.isEmpty
  | none => false
/-- PREEMPT with W1 = 0 or a W1 that is refused (R378): PARK replies once the last of its tasks has been saved; until then it
stays due. -/
def execPreemptPark (req : RegReq) (s : State) : Host.Outcome State Fault Refusal :=
  match regObj s req [967] with
  | .error st => regAnswer s req (.error st)
  | .ok o =>
    let g := graphOf s o.num
    let keep := fun (s : State) => ({ s with agenda := s.agenda ++ [.preemptPark req] } : State)
    let done := fun (s : State) (ids : List Word) => regReply s req 0 (BitVec.ofNat 64 ids.length) Cap.null
    match g.parking with
    | some (r, ids) =>
      if r == req && !ids.any (onCore s) then
        .next (done (setObjData s 967 o.num (.graph { g with parking := none })) ids)
      else .next (keep s)
    | none =>
      if req.w1 ≠ 0 then regAnswer s req (.error stFormat)
      else
        let ids := parkSet s o.num
        let s := ids.foldl (fun s id => match findTask s id with
          | some t => parkTask s t
          | none => s) s
        if ids.any (onCore s) then
          .next (keep (setObjData s 967 o.num (.graph { graphOf s o.num with parking := some (req, ids) })))
        else .next (done s ids)
/-- PREEMPT with W1 = 1 (R378): RELEASE. -/
def execPreemptRelease (req : RegReq) (s : State) : Host.Outcome State Fault Refusal :=
  withObj s req [967] fun o =>
    let ts := s.tasks.filter fun t => t.graph == o.num && t.conds.contains .owner
    .ok (ts.foldl (fun s t => putTask s { t with conds := t.conds.filter fun c => !(c == ParkCond.owner) }) s,
      BitVec.ofNat 64 ts.length, Cap.null)

/-! ## Service rings (R353) and the allocation service (R341, R342) -/

/-- RING_DONE_WRITE (R353). -/
def execRingDoneWrite (ring : Nat) (done : Word32) (s : State) : Host.Outcome State Fault Refusal :=
  .next (ringDoneTo s ring done)

/-- The exponent that a length needs (R342). -/
def allocExp (len : Nat) : Nat := ((List.range 48).find? fun e => decide (ceilPow len e ≤ 3 * 2 ^ (e + 17))).getD 47
/-- The lowest free run of a length and alignment, taken from a pool. DESIGN CHOICE (log 44): one that ends above the backed heap is not
granted. -/
def takeRun (runs : List (Nat × Nat)) (len align limit : Nat) : Option (Nat × List (Nat × Nat)) :=
  match runs.find? fun r => decide (alignUp r.1 align + len ≤ min (r.1 + r.2) limit) with
  | none => none
  | some r =>
    let a := alignUp r.1 align
    some (a, runs.flatMap fun x =>
      if x == r then ([(r.1, a - r.1), (a + len, r.1 + r.2 - (a + len))] : List (Nat × Nat)).filter fun y => decide (0 < y.2) else [x])
/-- Clear a run of a backed heap, page by page (R342). -/
def clearRun (s : State) (sp : ASpace) (a len : Nat) : State :=
  (List.range ((a + len - 1) / 4096 - a / 4096 + 1)).foldl (fun s k =>
    let lo := max a ((a / 4096 + k) * 4096)
    let hi := min (a + len) ((a / 4096 + k + 1) * 4096)
    match hubTranslate s sp lo .store with
    | .ok (pa, _, s) => { s with mem := memClear s.mem pa (hi - lo) }
    | .error _ => s) s
/-- Write a reply entry (R329). -/
def ringReplyEntry (s : State) (log base num : Nat) (st : Nat) (w0 : Nat) (c : Cap) : State :=
  let req := base + 64 + 64 * (num % 2 ^ log)
  let a := req + 64 * 2 ^ log
  let bytes := memBytes s.mem (req + 0x10) 8 ++ bytesLE 8 st ++ bytesLE 8 w0 ++ bytesLE 24 0
  { s with mem := memStoreCap (memStore s.mem a bytes false) (a + 0x30) c false }
/-- The permissions that an ALLOC may ask for: LD, ST, LDC, STC and GLOBAL (R341). -/
def allocPerms (w : Nat) : Bool := Nat.land w 0x3C4 == w
/-- SERVICE_ALLOC (R342): the next entry is answered, and released. -/
def execServiceAlloc (ring : Nat) (s : State) : Host.Outcome State Fault Refusal :=
  match ringOf s ring, s.pools.find? fun p => p.rings.contains ring with
  | some (_, log, base, _, _, _), some p =>
    let num := ringDone s base
    if num = ringReq s base then .next s
    else
      let a := base + 64 + 64 * (num % 2 ^ log)
      let w0 := memValue s.mem (a + 0x18) 8
      let len := memValue s.mem (a + 0x20) 8
      let w2 := memValue s.mem (a + 0x28) 8
      let done := fun (s : State) => ringDoneTo s ring (BitVec.ofNat 32 (num + 1))
      if w0 ≠ 1 ∨ len < 16 ∨ 2 ^ 32 < len ∨ len % 16 ≠ 0 ∨ !allocPerms w2 then
        .next (done (ringReplyEntry s log base num stFormat 0 Cap.null))
      else
        let e := allocExp len
        let n := ceilPow len e
        let sp := aspaceObj s p.aspace
        match takeRun p.runs n (2 ^ e) (sp.hbase.toNat + sp.hlimit.toNat) with
        | none => .next (done (ringReplyEntry s log base num stExhausted 0 Cap.null))
        | some (r, runs) =>
          let s := { s with pools := s.pools.map fun x => if x.rings.contains ring then { p with runs := runs } else x }
          let s := clearRun s sp r n
          .next (done (ringReplyEntry s log base num 0 n
            (boundedCap (BitVec.ofNat 64 r) (BitVec.ofNat 10 w2) 0 r (r + n) true)))
  | _, _ => .next s

end Sys2Proof.Machine
end

