-- ==== Sys2Proof/Machine/Bringup.lean ====
section
/-!
DEFINITION. Bring-up: reset, election, loading and checking of the image, entry into RUN (R440 to R447, R454).
-/
namespace Sys2Proof.Machine

/-! ## Reset (R440) -/

/-- A board group as domain boot forms it (R432, R433): member 0 holds the pass first. -/
def formedGroup (bell : Word) (number : Nat) (members : List Nat) (me : Nat) : BoardGroup :=
  ⟨number, members, me, true, true, 0, me == 0, 0, [], 0, [], [], bell, none, false, 0, [], []⟩
/-- ROM: everything but memory's bytes is as after reset; tags, poison and carve ways are cleared. The bell runs on. -/
def romState (s : State) : State :=
  let carve := 0x0080000000000000
  { State.reset with
    pkg := s.pkg, bell := s.bell, draws := s.draws, nextId := s.nextId
    mem := { s.mem with cells := s.mem.cells.filter fun c => decide (c.1 < carve) || decide (carve + 0x100000000 ≤ c.1)
                        tags := [], poison := [] }
    boot := { Boot.reset with since := s.bell } }
/-- Does a division of the 112 fibre pairs meet R421: at most 32 links, each of 1 to 28 pairs, to libraries of their own? -/
def linksOk (l : List (Nat × Nat)) : Bool :=
  decide (l.length ≤ 32) && decide (l.map (·.1)).Nodup && (l.all fun x => decide (x.1 < 4096) && decide (1 ≤ x.2) && decide (x.2 ≤ 28)) &&
    decide ((l.map (·.2)).foldl (· + ·) 0 ≤ 112)
/-- The links that have trained (R421); none where the division would not meet the rule. -/
def bootLinks : List Link := if linksOk Config.linkPairs then Config.linkPairs.map fun x => ⟨x.1, x.2, true⟩ else []
/-- Does a path set meet R424: 4 to 32 linked libraries, in ascending order? -/
def pathsOk (ls : List Link) (p : Nat × List Nat) : Bool :=
  decide (p.1 < 2048) && decide (4 ≤ p.2.length) && decide (p.2.length ≤ 32) && decide (p.2.Pairwise (· < ·)) &&
    p.2.all fun l => ls.any fun x => x.lib == l
/-- The path sets of domain boot, one for each target. -/
def bootPaths (ls : List Link) : List PathSet :=
  (Config.pathLibs.filter (pathsOk ls)).foldl (fun ps p =>
    if ps.any fun x => x.target == p.1 then ps else ps ++ [⟨p.1, p.2, [], none, none, [], 0, [], []⟩]) []
/-- Does a board group meet R432: index below 16, a 16-bit number, 2 to 64 members in ascending package number, this package in its
place? -/
def groupOk (pkg : Nat) (g : Nat × Nat × List Nat × Nat) : Bool :=
  decide (g.1 < 16) && decide (g.2.1 < 2 ^ 16) && decide (2 ≤ g.2.2.1.length) && decide (g.2.2.1.length ≤ 64) &&
    decide (g.2.2.1.Pairwise (· < ·)) && g.2.2.1.all (fun p => decide (p < 2048)) && g.2.2.1[g.2.2.2]? == some pkg
/-- The board groups of domain boot, one for each index. -/
def bootGroups (s : State) : List (Nat × BoardGroup) :=
  (Config.boardGroups.filter (groupOk s.pkg)).foldl (fun gs g =>
    if gs.any fun x => x.1 == g.1 then gs else gs ++ [(g.1, formedGroup s.bell g.2.1 g.2.2.1 g.2.2.2)]) []
/-- May a package claim (R443)? This one's CAND stands in BOOTCFG. -/
def candidate (s : State) (pkg : Nat) : Bool := if pkg = s.pkg then bitOf s.mgmt.bootcfg 63 else Config.candidates.contains pkg
/-- Is a candidate left that has led no round (R445)? -/
def candidateLeft (s : State) (past : List Nat) : Bool := (s.pkg :: Config.candidates).any fun c => candidate s c && !past.contains c
/-- A round opens (R444 to R446): what was copied is discarded; after round 15, or with no candidate left, the package fails with
NOLEADER. -/
def openRound (s : State) (r : Nat) : State :=
  let b := s.boot
  let past := b.past ++ b.leader.toList
  let s := { s with boot :=
    { b with state := .elect, round := r, leader := none, past := past, copied := [], asked := [], attempts := 0, timer := none } }
  if 15 < r ∨ !candidateLeft s past then failBoot s 5 else s
/-- ELECT: links and board groups are trained, and round 0 opens; without a link it fails with TRAIN, without one to BOOTLIB with STORE
(R440, R445, R454). -/
def electState (s : State) : State :=
  let s := { s with links := bootLinks, paths := bootPaths bootLinks, board := bootGroups s, boot := { s.boot with state := .elect } }
  if !Config.romTrained || bootLinks.isEmpty then failBoot s 6
  else if !libLinked s (bootLib s) then failBoot s 7
  else openRound s 0
/-- PACKAGE_RESET (R440): the package enters ROM. In ROM it is the end of the boot ROM's work, and the package enters ELECT with the
LEASEMAX that the port has written meanwhile (R228), or FAILED where it could not train (R454). -/
def execPackageReset (s : State) : Host.Outcome State Fault Refusal :=
  .next (if s.boot.state = .rom then
    electState { romState s with mgmt := s.mgmt, boot := { Boot.reset with since := s.boot.since } }
  else romState s)

/-! ## Election (R443 to R446) -/

/-- The group with domain group number 0, while the package belongs to it: the election uses the board (R443). -/
def electionGroup (s : State) : Option (Nat × BoardGroup) := s.board.find? fun g => g.2.number == 0 && g.2.isMember
/-- The boot word (R443): ROUND, STATE (0 NONE, 1 LOADING, 2 READY), LEADER. -/
def bootWord (r st p : Nat) : Word := BitVec.ofNat 64 (r % 2 ^ 16 * 2 ^ 48 + st % 4 * 2 ^ 46 + p % 2 ^ 11)
/-- The compare-and-swap of a type of message (R444): 0 CLAIM, 1 READY, 2 TIMEOUT; the value expected and the new one. -/
def swapWords (type r p : Nat) : Word × Word :=
  match type with
  | 0 => (bootWord r 0 0, bootWord r 1 p)
  | 1 => (bootWord r 1 p, bootWord r 2 p)
  | _ => (bootWord r 1 p, bootWord (r + 1) 0 0)
/-- An election message goes out (R443, R444): a kind-3 frame on group 0, or a swap on the boot word. -/
def sendElect (s : State) (type : Nat) (w1 w2 : Word) : State :=
  let r := s.boot.round
  match electionGroup s with
  | some g => queueFrame s g.1 ⟨3, BitVec.ofNat 64 (type % 4 * 2 ^ 62 + r % 2 ^ 16 * 2 ^ 32 + s.pkg % 2 ^ 11), w1, w2⟩
  | none =>
    let w := swapWords type r (if type = 2 then s.boot.leader.getD 0 else s.pkg)
    { s with outbox := s.outbox ++ [.bootSwap w.1 w.2] }
/-- The winner of a decision of the board writes it into the boot word (R443). -/
def noteDecision (s : State) (type round sender leader : Nat) : State :=
  let w := swapWords type round leader
  if sender = s.pkg ∧ (electionGroup s).isSome then { s with outbox := s.outbox ++ [.bootSwap w.1 w.2] } else s
/-- The fields of a kind-3 frame (R435, R444). -/
def electType (f : Frame) : Nat := bitsOf f.w0 63 62
def electRound (f : Frame) : Nat := bitsOf f.w0 47 32
def electPkg (f : Frame) : Nat := bitsOf f.w0 10 0
/-- Is a frame an election frame of a type that this package accepts (R436, R443, R444)? -/
def electFrame (s : State) (grp type : Nat) (f : Frame) : Bool :=
  match electionGroup s with
  | some (k, g) => k == grp && f.kind == 3 && frameAccepted g f && electType f == type
  | none => false
/-- An election frame has been heard. -/
def electHeard (s : State) (grp : Nat) : State :=
  match boardOf s grp with
  | some g => heard s grp g
  | none => s

/-- The package copies the image of a round's leader from the start. -/
def startLoad (s : State) (leader : Nat) : State :=
  { s with boot := { s.boot with
      state := .load, leader := some leader, copied := []
      timer := if leader = s.pkg then none else some (s.bell + s.mgmt.boottmo) } }
/-- A CLAIM is decided (R443, R444): the first of the round, by a candidate that led no earlier one, names the leader. -/
def decideClaim (s : State) (round pkg : Nat) : State :=
  let b := s.boot
  if b.state = .elect ∧ round = b.round ∧ b.leader.isNone ∧ !b.past.contains pkg ∧ candidate s pkg then
    startLoad (noteDecision s 0 round pkg pkg) pkg
  else s
/-- The bytes of an image: manifest and payload (R441). -/
def imageSize (image : List Byte) : Nat := 0xC0 + fieldN image 8 8
/-- Has an image been copied whole? -/
def copyDone (image : List Byte) : Bool := decide (0xC0 ≤ image.length) && decide (imageSize image ≤ image.length)
/-- The load of a closed round goes on to VERIFY once it is complete (R440, R446). -/
def loadEnds (s : State) : State :=
  if s.boot.state = .load ∧ s.boot.closed ∧ copyDone s.boot.copied then { s with boot := { s.boot with state := .verify } } else s
/-- A READY is decided (R444, R446): the leader's closes the round; every package completes its load, with the leader's LEASEMAX. DESIGN
CHOICE (log 45): a LEASE0, LEASE1 or LEASE2 above a smaller LEASEMAX keeps its value. -/
def decideReady (s : State) (round pkg : Nat) (hash : Word) (lib : Nat) (leasemax : Word) : State :=
  let b := s.boot
  if b.state = .load ∧ round = b.round ∧ b.leader = some pkg ∧ !b.closed then
    let m : Mgmt := { s.mgmt with leasemax := if pkg = s.pkg then s.mgmt.leasemax else BitVec.ofNat 64 (min (bitsOf leasemax 29 0) 1000000000) }
    loadEnds { noteDecision s 1 round pkg pkg with mgmt := m, boot := { b with closed := true, hash := hash, lib := lib, timer := none } }
  else s
/-- A TIMEOUT is decided (R444 to R446): the round closes, and the next one opens. -/
def decideTimeout (s : State) (round sender : Nat) : State :=
  let b := s.boot
  if (b.state = .load ∨ b.state = .elect) ∧ round = b.round ∧ !b.closed then
    openRound (noteDecision s 2 round sender (b.leader.getD 0)) (round + 1)
  else s
/-- A package follows a value of the boot word (R443, R444): a later round, its leader, its READY. -/
def followWord (s : State) (v : Word) (hash : Word) (lib : Nat) (leasemax : Word) : State :=
  if (electionGroup s).isSome then s
  else
    let r := bitsOf v 63 48
    let p := bitsOf v 10 0
    let s := if s.boot.round < r ∧ needsStore s ∧ !s.boot.closed then openRound s r else s
    match bitsOf v 47 46 with
    | 1 => decideClaim s r p
    | 2 => decideReady (decideClaim s r p) r p hash lib leasemax
    | _ => s
/-- Has this package's swap of a type succeeded: it was sent in this round, and found the value that it expected (R444)? -/
def swapWon (s : State) (type : Nat) (v : Word) : Bool :=
  (electionGroup s).isNone && s.boot.asked.contains type &&
    v == (swapWords type s.boot.round (if type = 2 then s.boot.leader.getD 0 else s.pkg)).1
/-- May this package claim now (R443, R444)? -/
def claimDue (s : State) : Bool :=
  s.boot.state == .elect && s.boot.leader.isNone && candidate s s.pkg && !s.boot.past.contains s.pkg && !s.boot.asked.contains 0
/-- Is the image that this package leads with written to the store (R446)? -/
def readyDue (s : State) : Bool :=
  s.boot.state == .load && !s.boot.closed && s.boot.leader == some s.pkg && copyDone s.boot.copied && !s.boot.asked.contains 1
def noteAsked (s : State) (type : Nat) : State := { s with boot := { s.boot with asked := s.boot.asked ++ [type] } }
/-- BOOT_CLAIM (R443, R444). -/
def execBootClaim (grp : Nat) (m : BootMsg) (s : State) : Host.Outcome State Fault Refusal :=
  match m with
  | .send => .next (if claimDue s then sendElect (noteAsked s 0) 0 0 0 else s)
  | .frame f => .next (if electFrame s grp 0 f then decideClaim (electHeard s grp) (electRound f) (electPkg f) else s)
  | .word v => .next (if swapWon s 0 v then decideClaim s s.boot.round s.pkg else followWord s v 0 0 0)
/-- BOOT_READY (R444, R446). -/
def execBootReady (grp : Nat) (m : BootMsg) (hash : Word) (lib : Nat) (leasemax : Word) (s : State) :
    Host.Outcome State Fault Refusal :=
  match m with
  | .send => .next (if readyDue s then
      sendElect (noteAsked s 1) 1 (BitVec.ofNat 64 (fieldN s.boot.copied 0x10 8)) (BitVec.ofNat 64 (bootLib s)) else s)
  | .frame f => .next (if electFrame s grp 1 f then
      decideReady (electHeard s grp) (electRound f) (electPkg f) f.w1 (bitsOf f.w2 11 0) leasemax else s)
  | .word v => .next (if swapWon s 1 v then decideReady s s.boot.round s.pkg hash lib leasemax else followWord s v hash lib leasemax)
/-- BOOT_TIMEOUT (R444 to R446). This package sends one when its timer expires. -/
def execBootTimeout (grp : Nat) (m : BootMsg) (s : State) : Host.Outcome State Fault Refusal :=
  match m with
  | .send => .next s
  | .frame f => .next (if electFrame s grp 2 f then decideTimeout (electHeard s grp) (electRound f) (electPkg f) else s)
  | .word v => .next (if swapWon s 2 v then decideTimeout s s.boot.round s.pkg else followWord s v 0 0 0)
/-- BOOT_TIMER_EXPIRE (R446): a follower sends a TIMEOUT of the round, on board group 0 or through the boot word (R443). -/
def execBootTimerExpire (s : State) : Host.Outcome State Fault Refusal :=
  match s.boot.timer with
  | none => .next s
  | some t =>
    if s.bell < t then .next s
    else .next (sendElect (noteAsked { s with boot := { s.boot with timer := none } } 2) 2 0 0)

/-! ## The image (R441, R442, R447, R454) -/

/-- The first check of R441 that an image fails, as its REASON (R454). -/
def imageReason (s : State) (image : List Byte) : Option Nat :=
  let n := fieldN image
  let payload := (image.drop 0xC0).take (n 8 8)
  if n 0 4 ≠ 0x39424F51 ∨ n 4 2 ≠ 1 then some 1
  else if n 6 2 < bitsOf s.mgmt.svnmin 15 0 then some 2
  else if !Config.signatureOk (image.take 0x40) ((image.drop 0x40).take 0x60) then some 3
  else if payload.length ≠ n 8 8 ∨ Config.sha384 payload ≠ (image.drop 0x10).take 48 then some 4
  else none
/-- All HBM4E but the compression metadata (R3, R243, R447). -/
def rootSize : Nat := 2 ^ 40 - 16 * 0x2000000
/-- The objects of bring-up (R447): the root untyped and the Registrar endpoints of dies 0–9. They come from no untyped. -/
def rootObjs : List Obj :=
  ⟨960, 10, 2 ^ 38, 2 ^ 52, false, false, .untyped 0 rootSize⟩ ::
    (List.range Config.dies).map fun d => ⟨963, d, 2 ^ 38, 2 ^ 52, false, false, .endpoint [] []⟩
/-- Host hart 0 as RUN releases it (R355, R447). -/
def rootHart : Hart :=
  { Hart.reset with
    released := true
    hc := (List.range 16).map fun k =>
      if k = 1 then objCap 960 10 else if 2 ≤ k ∧ k ≤ 11 then objCap 963 (k - 2) else Cap.null }
/-- The host harts and the service cores (R1, R355), by number: 0–95, and from 96 on the service cores, hub by hub. What the harts
but 0 run first is for the host's software. -/
def allHarts : List (Nat × Hart) :=
  (List.range (Config.hostHarts + Config.hubs * Config.serviceCores)).map fun h =>
    (h, if h = 0 then rootHart else { Hart.reset with released := true })
/-- FEAT of every core (R51): REMOTE with trained links, BOARD with a board group. DESIGN CHOICE (log 34): they are fixed at the
entry into RUN, and no later loss of a link or a group changes them. -/
def bootFeat (s : State) : Word :=
  BitVec.ofNat 64 (0x27 + (if s.links.isEmpty then 0 else 8) + if s.board.isEmpty then 0 else 16)
/-- Entry into RUN (R438, R440, R447, R454): the monitor code of the image is installed, with the roots. The firmware of the hardware
kernel is what the meanings of its services say. -/
def enterRun (s : State) : State :=
  let lead := s.boot.leader == some s.pkg
  { s with
    mem := memStore s.mem Config.monitorBase.toNat ((Config.monitorBytes s.boot.copied).take 4096) false
    boot := { s.boot with state := .run, reason := 0, timer := none, copied := [] }
    objs := rootObjs, nextObj := 11, harts := allHarts
    monitorCode := boundedCap Config.monitorBase 0x220 0 Config.monitorBase.toNat (Config.monitorBase.toNat + 4096) true
    cores := (List.range (Config.dies * Config.coresPerDie)).map fun k => (k, { Core.reset with feat := bootFeat s })
    lock := { s.lock with locked := lead, stratum := if lead then 0 else 5, reference := s.boot.leader.getD 0 } }
/-- The check of the copied image (R441, R442): entry into RUN, another attempt from the beginning, or after the third FAILED. -/
def verifyImage (s : State) : State :=
  let b := s.boot
  let image := b.copied.take (imageSize b.copied)
  match imageReason s image with
  | none => enterRun { s with boot := { b with digest := Config.sha384 image, svn := fieldN image 6 2 } }
  | some k =>
    if 3 ≤ b.attempts + 1 then failBoot { s with boot := { b with attempts := b.attempts + 1, copied := [] } } k
    else { s with boot := { b with state := .load, reason := k, attempts := b.attempts + 1, copied := [] } }
/-- IMAGE_VERIFY (R441, R442, R446): in LOAD the next bytes of the image reach the package, the leader from the outside controller, which
writes them on into the image store with the progress and its LEASEMAX, a follower from the store; with no more bytes to come the load of
a closed round ends. In VERIFY the image is checked. -/
def execImageVerify (bytes : List Byte) (s : State) : Host.Outcome State Fault Refusal :=
  let b := s.boot
  match b.state with
  | .load =>
    let c := b.copied ++ bytes
    let s := { s with boot := { b with copied := c } }
    let s := if b.leader = some s.pkg ∧ !b.closed then
        { s with outbox := s.outbox ++ [.imageStore (bootLib s) b.copied.length bytes c.length s.mgmt.leasemax] } else s
    .next (if b.closed ∧ bytes.isEmpty then { s with boot := { s.boot with state := .verify } } else loadEnds s)
  | .verify => .next (verifyImage s)
  | _ => .next s
/-- BOOTCTL (R438, R447): a host kernel names the reference; the bells are slewed to it. -/
def bootctlSet (v : Word) (s : State) : State :=
  let r := bitsOf v 10 0
  let mine := r == s.pkg
  { s with
    mgmt := { s.mgmt with bootctl := BitVec.ofNat 64 r }
    lock := { s.lock with
      reference := r, named := true, locked := mine || s.lock.locked && s.lock.reference == r, stratum := if mine then 0 else if s.lock.stratum = 0 then 5 else s.lock.stratum } }
/-- BOOTCTL_WRITE (R438, R447). -/
def execBootctlWrite (v : Word) (s : State) : Host.Outcome State Fault Refusal := .next (bootctlSet v s)

end Sys2Proof.Machine
end

