-- ==== Sys2Proof/Machine/Attest.lean ====
section
/-!
DEFINITION. Attestation and key release (R448 to R450): each live key object is an SPDM responder.
-/
namespace Sys2Proof.Machine

/-! ## Responses -/

/-- The key object of a responder, until its destruction is complete (R363). -/
def keyOf (s : State) (key : Nat) : Option (Obj × KeyObj) :=
  match findObj s 970 key with
  | some o =>
    match o.data with
    | .key k => if buried o then none else some (o, k)
    | _ => none
  | none => none
def putKeyObj (s : State) (o : Obj) (k : KeyObj) : State := putObj s { o with data := .key k }
/-- A response to a request code. -/
def respond (s : State) (key code : Nat) (data : List Byte) : State := { s with outbox := s.outbox ++ [.spdm key code true data] }
/-- ERROR with its code: 0x04 UnexpectedRequest, 0x07 UnsupportedRequest, 0x01 InvalidRequest (DSP0274). -/
def errorResp (s : State) (key code : Nat) (err : Byte) : State := { s with outbox := s.outbox ++ [.spdm key code false [err]] }
/-- A request to a responder that has been negotiated far enough. -/
def withKey (s : State) (key code stage : Nat) (go : Obj → KeyObj → State) : Host.Outcome State Fault Refusal :=
  match keyOf s key with
  | none => .next s
  | some (o, k) => .next (if k.negotiated < stage then errorResp s key code 0x04 else go o k)

/-! ## Requests (R448, R449) -/

/-- GET_VERSION: version 1.2; negotiation begins anew. -/
def execGetVersion (key : Nat) (s : State) : Host.Outcome State Fault Refusal :=
  withKey s key 0x84 0 fun o k => respond (putKeyObj s o { k with negotiated := 1, session := none, finished := false }) key 0x84 [0x12]
/-- GET_CAPABILITIES: what DSP0274 lays out is the package's constant. -/
def execGetCapabilities (key : Nat) (s : State) : Host.Outcome State Fault Refusal :=
  withKey s key 0xE1 1 fun o k => respond (putKeyObj s o { k with negotiated := max k.negotiated 2 }) key 0xE1 Config.spdmCapabilities
/-- NEGOTIATE_ALGORITHMS: `ok` says that the request offers the algorithms that the package implements. -/
def execNegotiateAlgorithms (key : Nat) (ok : Bool) (s : State) : Host.Outcome State Fault Refusal :=
  withKey s key 0xE3 2 fun o k =>
    if ok then respond (putKeyObj s o { k with negotiated := 3 }) key 0xE3 Config.spdmAlgorithms else errorResp s key 0xE3 0x07
/-- GET_DIGESTS: the digest of the chain in slot 0. -/
def execGetDigests (key : Nat) (s : State) : Host.Outcome State Fault Refusal :=
  withKey s key 0x81 3 fun _ _ => respond s key 0x81 (Config.sha384 Config.certChain)
/-- GET_CERTIFICATE: only slot 0 is supported. -/
def execGetCertificate (key slot : Nat) (s : State) : Host.Outcome State Fault Refusal :=
  withKey s key 0x82 3 fun _ _ => if slot = 0 then respond s key 0x82 Config.certChain else errorResp s key 0x82 0x07
/-- CHALLENGE: a signature over the requester's nonce and the chain's digest. -/
def execChallenge (key slot : Nat) (nonce : BitVec 256) (s : State) : Host.Outcome State Fault Refusal :=
  withKey s key 0x83 3 fun _ _ =>
    if slot = 0 then
      respond s key 0x83 (Config.deviceSign (bytesLE 32 nonce.toNat ++ Config.sha384 Config.certChain))
    else errorResp s key 0x83 0x07
/-- The digest of a measurement index (R449). DESIGN CHOICE (log 117): index 5 before any code object is the digest of no bytes. -/
def measurement (s : State) (k : KeyObj) (index : Nat) : Option (List Byte) :=
  match index with
  | 1 => some Config.romDigest
  | 2 => some s.boot.digest
  | 3 => some (Config.sha384 (bytesLE 2 s.boot.svn ++ bytesLE 2 (bitsOf s.mgmt.svnmin 15 0) ++ Config.keyHash))
  | 4 => some (Config.sha384 (bytesLE 8 s.mgmt.leasemax.toNat ++ bytesLE 2 (bootLib s) ++ bytesLE 2 (s.boot.leader.getD 0)))
  | 5 => some (if k.codeHash = [] then Config.sha384 [] else k.codeHash)
  | _ => none
/-- GET_MEASUREMENTS (R449): an index 1 to 5; index 0 asks for their number, 0xFF for all. -/
def execGetMeasurements (key index : Nat) (s : State) : Host.Outcome State Fault Refusal :=
  withKey s key 0xE0 3 fun _ k =>
    if index = 0 then respond s key 0xE0 [5]
    else if index = 0xFF then respond s key 0xE0 ([1, 2, 3, 4, 5].flatMap fun i => (measurement s k i).getD [])
    else
      match measurement s k index with
      | some d => respond s key 0xE0 d
      | none => errorResp s key 0xE0 0x01
/-- KEY_EXCHANGE: a session that FINISH has yet to complete. The answer is the responder's ECDHE value and the device key's signature
over both values (R448); only slot 0 is supported. -/
def execKeyExchange (key : Nat) (m : KeyExchange) (s : State) : Host.Outcome State Fault Refusal :=
  withKey s key 0xE4 3 fun o k =>
    if m.slot = 0 then
      respond (putKeyObj { s with draws := s.draws + 1 } o { k with session := some m.session, finished := false }) key 0xE4
        (Config.ecdhe s.draws ++ Config.deviceSign (m.pub ++ Config.ecdhe s.draws))
    else errorResp s key 0xE4 0x07
/-- FINISH: `ok` says that the requester's proof verifies. -/
def execFinish (key session : Nat) (ok : Bool) (s : State) : Host.Outcome State Fault Refusal :=
  withKey s key 0xE5 3 fun o k =>
    if k.session ≠ some session then errorResp s key 0xE5 0x04
    else if ok then respond (putKeyObj s o { k with finished := true }) key 0xE5 []
    else errorResp (putKeyObj s o { k with session := none, finished := false }) key 0xE5 0x01
/-- END_SESSION: a loaded key stays loaded (R450). -/
def execEndSession (key session : Nat) (s : State) : Host.Outcome State Fault Refusal :=
  withKey s key 0xEC 3 fun o k =>
    if k.session = some session then respond (putKeyObj s o { k with session := none, finished := false }) key 0xEC []
    else errorResp s key 0xEC 0x04
/-- Any other request, algorithm or slot (R448). -/
def execUnsupportedRequest (key code : Nat) (s : State) : Host.Outcome State Fault Refusal :=
  withKey s key code 0 fun _ _ => errorResp s key code 0x07

/-! ## KEY_RELEASE (R450) -/

/-- The response payload (R450). -/
def releaseResp (st kid : Nat) : List Byte := [1, 1] ++ bytesLE 2 st ++ bytesLE 4 kid
/-- Is a VENDOR_DEFINED_REQUEST a KEY_RELEASE (R450)? -/
def isKeyRelease (m : VendorMsg) : Bool :=
  m.standard == 3 && m.vendorLen == 2 && m.vendor == Config.vendorId.toNat && m.payload.length == 68 &&
    fieldN m.payload 0 1 == 1 && fieldN m.payload 1 1 == 1
/-- KEY_RELEASE (R450). What stood under the key identifier was encrypted under a former key (R244). It is an operation on the key object: one that names an object being destroyed is answered GONE (R351). -/
def execKeyRelease (key : Nat) (session : Option Nat) (m : VendorMsg) (s : State) :
    Host.Outcome State Fault Refusal :=
  withKey s key 0xFE 0 fun o k =>
    let payload := m.payload
    if !isKeyRelease m then errorResp s key 0xFE 0x07
    else if session.isNone || session != k.session || !k.finished then errorResp s key 0xFE 0x04
    else if o.dead then respond s key 0xFE (releaseResp stGone 0)
    else if k.released then respond s key 0xFE (releaseResp 1 0)
    else if (payload.drop 4).take 32 = (payload.drop 36).take 32 then respond s key 0xFE (releaseResp 3 0)
    else respond (putKeyObj { s with mem := forgetKid s.mem k.kid } o { k with released := true, keys := payload.drop 4 }) key 0xFE (releaseResp 0 k.kid)

end Sys2Proof.Machine
end

