-- ==== Sys2Proof/Machine/CapOps.lean ====
section
/-!
DEFINITION. Derivation, inspection and sealing of capabilities (R108 to R112, R316). None of them faults on what its
operands hold.
-/
namespace Sys2Proof.Machine

/-- `cinc` (R109). -/
def execCinc (b : Src) (sh : BitVec 4) (ca cd : CReg) (s : State) : Host.Outcome State Fault Refusal :=
  capPass s (.cinc b sh ca cd) [b] cd fun k => cincC (readC (cur s) ca k) (srcV s b k) sh.toNat
/-- `cset` (R109). -/
def execCset (b : Src) (ca cd : CReg) (s : State) : Host.Outcome State Fault Refusal :=
  capPass s (.cset b ca cd) [b] cd fun k => csetC (readC (cur s) ca k) (srcV s b k)
/-- `cbnd` (R110). -/
def execCbnd (b : Src) (ca cd : CReg) (s : State) : Host.Outcome State Fault Refusal :=
  capPass s (.cbnd b ca cd) [b] cd fun k => cbndC (readC (cur s) ca k) (srcV s b k)
/-- `cperm` (R109). -/
def execCperm (b : Src) (ca cd : CReg) (s : State) : Host.Outcome State Fault Refusal :=
  capPass s (.cperm b ca cd) [b] cd fun k => cpermC (readC (cur s) ca k) (srcV s b k)
/-- `cseal` (R316). -/
def execCseal (cb ca cd : CReg) (s : State) : Host.Outcome State Fault Refusal :=
  capPass s (.cseal cb ca cd) [] cd fun k => csealC (readC (cur s) ca k) (readC (cur s) cb k)
/-- `cunseal` (R316). -/
def execCunseal (cb ca cd : CReg) (s : State) : Host.Outcome State Fault Refusal :=
  capPass s (.cunseal cb ca cd) [] cd fun k => cunsealC (readC (cur s) ca k) (readC (cur s) cb k)
/-- `cmov` (R109). -/
def execCmov (ca cd : CReg) (s : State) : Host.Outcome State Fault Refusal :=
  capPass s (.cmov ca cd) [] cd fun k => readC (cur s) ca k
/-- `cclr` (R109). -/
def execCclr (ca cd : CReg) (s : State) : Host.Outcome State Fault Refusal :=
  capPass s (.cclr ca cd) [] cd fun k => cclrC (readC (cur s) ca k)
/-- `cget` (R111). -/
def execCget (slct : BitVec 6) (ca : CReg) (d : DReg) (s : State) : Host.Outcome State Fault Refusal :=
  lanePass s (.cget slct ca d) [] d fun k => cgetW (readC (cur s) ca k) slct.toNat
/-- The predicate whose n sub-elements all hold one bit (R54, R112). -/
def allP (w : Width) (x : Bool) : BitVec 8 := predOf (64 / widthBits w) fun _ => x
/-- `ctest` (R112). -/
def execCtest (b : Src) (ca : CReg) (w : Width) (p : PReg) (s : State) : Host.Outcome State Fault Refusal :=
  predPass s (.ctest b ca w p) [b] p fun k => allP w (ctestB (readC (cur s) ca k) (srcV s b k))
/-- `ceq` (R112): all 128 bits and the tag. -/
def execCeq (cb ca : CReg) (w : Width) (p : PReg) (s : State) : Host.Outcome State Fault Refusal :=
  predPass s (.ceq cb ca w p) [] p fun k => allP w (readC (cur s) ca k == readC (cur s) cb k)

end Sys2Proof.Machine
end

