-- ==== Sys2Proof/Machine/Exchange.lean ====
section
/-!
DEFINITION. The cross-seat instructions (R162 to R165).
-/
namespace Sys2Proof.Machine

/-- The fault of a seat whose result depends on elements of other seats (R162): its own sources, the elements that it
depends on, then its rows. -/
def exchFault (s : State) (i : Instr) (a : DReg) (deps : Nat → List Nat) (seat : Nat) : Option OpFault :=
  match poisonIn (cur s) (usesOf i).reads seat with
  | some f => some f
  | none =>
    match (deps seat).findSome? fun t => (poisonD (cur s) a t).map (poisonFault a.code) with
    | some f => some f
    | none => useFault s (usesOf i) seat

/-- A cross-seat pass: every source element is read before any is written (R162). -/
def exchPass (s : State) (i : Instr) (srcs : List Src) (a : DReg) (d : DReg) (deps : Nat → List Nat)
    (val : Nat → Word) : Host.Outcome State Fault Refusal :=
  guardPass s (exchFault s i a deps)
    (retireWith s srcs false fun b => writeD b d ((issued s).map fun k => (k, val k, none)))

/-- The seat that a source of `shfl` names. -/
def shflSeat (s : State) (b : Src) (k : Nat) : Nat := (srcV s b k).toNat % 32

/-- `shfl` (R163). -/
def execShfl (b a : Src) (d : DReg) (s : State) : Host.Outcome State Fault Refusal :=
  exchPass s (.shfl b a d) [a, b] a.reg d (fun k => [shflSeat s b k]) fun k => srcV s a (shflSeat s b k)

/-- Byte j of a `shflx` selector: the seat and its byte (R164). -/
def shflxSel (s : State) (b : Src) (k j : Nat) : Nat × Nat :=
  let x := elem (srcV s b k) j 8
  (x / 8, x % 8)

/-- `shflx` (R164). -/
def execShflx (b a : Src) (d : DReg) (s : State) : Host.Outcome State Fault Refusal :=
  exchPass s (.shflx b a d) [a, b] a.reg d (fun k => (List.range 8).map fun j => (shflxSel s b k j).1) fun k =>
    lanes 8 fun j => elem (srcV s a (shflxSel s b k j).1) (shflxSel s b k j).2 8

/-- `bcast` (R163). -/
def execBcast (k : BitVec 5) (a : Src) (d : DReg) (s : State) : Host.Outcome State Fault Refusal :=
  exchPass s (.bcast k a d) [a] a.reg d (fun _ => [k.toNat]) fun _ => srcV s a k.toNat

/-- `ballot` (R163). -/
def execBallot (p : PReg) (d : DReg) (s : State) : Host.Outcome State Fault Refusal :=
  lanePass s (.ballot p d) [] d fun _ =>
    (maskOf fun t => s.sel.seats.getLsbD t && (readP (cur s) p t).getLsbD 0).setWidth 64

/-- The low n bits of a predicate, n the number of sub-elements (R54). -/
def predBits (w : Width) (x : BitVec 8) : BitVec 8 := predOf (64 / widthBits w) fun i => x.getLsbD i

/-- `vote.any` (R163). -/
def execVoteAny (p : PReg) (w : Width) (q : PReg) (s : State) : Host.Outcome State Fault Refusal :=
  predPass s (.voteAny p w q) [] q fun _ =>
    predBits w ((issued s).foldl (fun x t => x ||| readP (cur s) p t) 0)

/-- `vote.all` (R163). -/
def execVoteAll (p : PReg) (w : Width) (q : PReg) (s : State) : Host.Outcome State Fault Refusal :=
  predPass s (.voteAll p w q) [] q fun _ =>
    predBits w ((issued s).foldl (fun x t => x &&& readP (cur s) p t) 0xFF)

/-- `match` (R163). -/
def execMatchSeats (a : Src) (d : DReg) (s : State) : Host.Outcome State Fault Refusal :=
  exchPass s (.matchSeats a d) [a] a.reg d (fun _ => issued s) fun k =>
    (maskOf fun t => s.sel.seats.getLsbD t && srcV s a t == srcV s a k).setWidth 64

/-! ## Scan and reduce (R165) -/

/-- One step of an operation. -/
def scanStep (w : Width) (fl : Bool) (o : BitVec 3) (x y : Nat) : Nat :=
  if fl then
    let f := match w with
      | .d => FWidth.f64
      | .w => .f32
      | .h => .f16
      | .b => .bf16
    match o.toNat with
    | 0 => fadd1 (fwFmt f) x y
    | 1 => fmin1 (fwFmt f) x y
    | _ => fmax1 (fwFmt f) x y
  else
    match o.toNat with
    | 0 => addE (widthBits w) x y
    | 1 => minE (widthBits w) x y
    | 2 => maxE (widthBits w) x y
    | 3 => minuE x y
    | 4 => maxuE x y
    | 5 => Nat.land x y
    | 6 => Nat.lor x y
    | _ => Nat.xor x y

/-- The width of an element: a float code selects the float width (R24, R165). -/
def scanBits (w : Width) (fl : Bool) : Nat := if fl ∧ w = .b then 16 else widthBits w

/-- The identity of an operation (R165). -/
def scanIdentity (w : Width) (fl : Bool) (o : BitVec 3) : Nat :=
  let n := scanBits w fl
  if fl then
    let f := match w with
      | .d => fmt64
      | .w => fmt32
      | .h => fmt16
      | .b => fmtBf16
    match o.toNat with
    | 0 => 0
    | 1 => fencode f .rne (.inf false)
    | _ => fencode f .rne (.inf true)
  else
    match o.toNat with
    | 1 => 2 ^ (n - 1) - 1
    | 2 => 2 ^ (n - 1)
    | 3 => 2 ^ n - 1
    | 5 => 2 ^ n - 1
    | _ => 0

/-- The value of sub-element i over the given seats, in ascending order (R165). DESIGN CHOICE (log 29): over one seat, a float
scan or reduction gives its element as it stands, a NaN too: R165 takes it unchanged where R61 has every floating-point
instruction deliver the canonical NaN. -/
def scanOver (s : State) (w : Width) (fl : Bool) (o : BitVec 3) (a : Src) (i : Nat) (ts : List Nat) : Nat :=
  match ts with
  | [] => scanIdentity w fl o
  | t :: rest =>
    rest.foldl (fun acc j => scanStep w fl o acc (elem (srcV s a j) i (scanBits w fl)))
      (elem (srcV s a t) i (scanBits w fl))

/-- `scan` (R165). -/
def execScan (w : Width) (x fl : Bool) (o : BitVec 3) (a : Src) (d : DReg) (s : State) :
    Host.Outcome State Fault Refusal :=
  let before := fun (k : Nat) => (issued s).filter fun t => if x then decide (t < k) else decide (t ≤ k)
  exchPass s (.scan w x fl o a d) [a] a.reg d before fun k =>
    lanes (scanBits w fl) fun i => scanOver s w fl o a i (before k)

/-- `red` (R165). -/
def execRed (w : Width) (fl : Bool) (o : BitVec 3) (a : Src) (d : DReg) (s : State) :
    Host.Outcome State Fault Refusal :=
  exchPass s (.red w fl o a d) [a] a.reg d (fun _ => issued s) fun _ =>
    lanes (scanBits w fl) fun i => scanOver s w fl o a i (issued s)

end Sys2Proof.Machine
end

