-- ==== Sys2Proof/Machine/Mgmt.lean ====
section
/-!
DEFINITION. The management space (R228, R302, R423, R451 to R455), power limits (R451), interrupt lines (R352).
-/
namespace Sys2Proof.Machine

/-! ## Registers (R453) -/

/-- What a register without a row of its own takes from a write: `port` for the PCIe port, which writes only what is marked so. -/
def plainWrite (offset : Nat) (v : Word) (port : Bool) (s : State) : State :=
  let m := s.mgmt
  let early := port && s.boot.state == .rom
  let lease := BitVec.ofNat 64 (min (bitsOf v 29 0) m.leasemax.toNat)
  let put := fun (c : Bool) (m : Mgmt) => if c then { s with mgmt := m } else s
  match offset with
  | 0x0000 => put early { m with bootcfg := v &&& 0x8000FFFFFFFFFFF8 }
  | 0x0010 => put early { m with boottmo := BitVec.ofNat 64 (bitsOf v 39 0) }
  | 0x0100 => put (!port) { m with lease0 := lease }
  | 0x0108 => put (!port) { m with lease1 := lease }
  | 0x0110 => put (!port) { m with lease2 := lease }
  | 0x0120 => put early { m with leasemax := BitVec.ofNat 64 (min (bitsOf v 29 0) 1000000000) }
  | 0x0130 => put (!port) { m with leaddef := BitVec.ofNat 64 (min (bitsOf v 19 0) 1000000) }
  | 0x0200 => put (!port) { m with sdqbase := BitVec.ofNat 64 (bitsOf v 55 6 * 64) }
  | 0x0208 => put (!port && decide (4 ≤ bitsOf v 3 0) && decide (bitsOf v 3 0 ≤ 12)) { m with sdqlog := BitVec.ofNat 64 (bitsOf v 3 0) }
  | 0x3000 => put true { m with pwrlim := BitVec.ofNat 64 (min (bitsOf v 15 0) 15000) }
  | 0x3018 => put (!port) { m with tthrot := BitVec.ofNat 64 (min (bitsOf v 7 0) 105) }
  | _ =>
    put (!port && decide (0x300 ≤ offset) && decide (offset < 0x380) && offset % 8 == 0)
      { m with bgassign := setNth m.bgassign ((offset - 0x300) / 8) (BitVec.ofNat 64 ((bitOf v 63).toNat * 2 ^ 63 + bitsOf v 19 0)) }
/-- A write of any register by a host kernel. -/
def mgmtWrite (s : State) (offset : Nat) (v : Word) : State :=
  if offset = 0x20 then bootctlSet v s
  else if offset = 0x210 then sdqtailSet (v.setWidth 32) s
  else if offset = 0x380 then bgctlSet v s
  else if 0x1000 ≤ offset ∧ offset < 0x1200 ∧ offset % 8 = 0 then poolsegSet ((offset - 0x1000) / 8) v s
  else if 0x2000 ≤ offset ∧ offset < 0x3000 ∧ offset % 0x100 = 0 then hotctlSet ((offset - 0x2000) / 0x100) v s
  else if 0x2000 ≤ offset ∧ offset < 0x3000 ∧ offset % 0x100 = 0x10 then hottailSet ((offset - 0x2000) / 0x100) (v.setWidth 32) s
  else plainWrite offset v false s


/-- MGMT_REGISTER_WRITE (R452, R453): a write by a host kernel or by the port, or the port's read, which is answered. -/
def execMgmtRegisterWrite (offset : Nat) (v : Word) (by_ : MgmtBy) (s : State) : Host.Outcome State Fault Refusal :=
  match by_ with
  | .host => .next (plainWrite offset v false s)
  | .port => .next (plainWrite offset v true s)
  | .portRead => .next { s with outbox := s.outbox ++ [.portData offset (mgmtRead s offset)] }

/-! ## Power (R451) and interrupt lines (R352) -/

/-- POWER_THROTTLE (R398, R451, R453): throttling is timing; 110 °C or a lost rail stops the package; PWR and TEMP show what is
measured. -/
def execPowerThrottle (l : PowerLimit) (s : State) : Host.Outcome State Fault Refusal :=
  match l with
  | .recovered => .next { s with mgmt := { s.mgmt with throttled := false } }
  | .measured p t =>
    let s := { s with mgmt := { s.mgmt with pwr := p.setWidth 64, temp := t.setWidth 64 } }
    .next (if 110 ≤ t.toNat then packageStop s else s)
  | .junctionStop => .next (packageStop s)
  | .railLoss => .next (packageStop s)
  | _ => .next { s with mgmt := { s.mgmt with throttled := true } }
/-- PCIE_MSI_VECTOR (R352). -/
def execPcieMsiVector (n : Nat) (s : State) : Host.Outcome State Fault Refusal := .next (if n < 256 then fireIrq s n else s)

end Sys2Proof.Machine
end

