-- ==== Sys2Proof/Machine/HostOps.lean ====
section
/-!
DEFINITION. Host harts and service cores: the capability instructions (R355, R356), the endpoint instructions and traps (R357),
and their accesses at the point of coherence (R217, R246, R452).
-/
namespace Sys2Proof.Machine

/-! ## Traps -/

/-- A hart takes a trap: at its machine handler from machine mode, else at its supervisor handler. -/
def hartTrap (x : Hart) (cause tval epc : Word) : Hart :=
  let at_ := fun (v : Word) => v &&& ~~~ 3#64
  match x.mode with
  | .machine => { x with mepc := epc, mcause := cause, mtval := tval, mpp := .machine, pc := at_ x.mtvec, wait := .none }
  | m =>
    { x with
      sepc := epc, scause := cause, stval := tval, spp := m == .supervisor || m == .virtualSupervisor
      spv := m == .virtualSupervisor || m == .virtualUser, mode := .supervisor, pc := at_ x.stvec, wait := .none }
/-- An exception of the selected hart's instruction. -/
def hartFault (s : State) (cause : Nat) (tval : Word) : State :=
  let x := getHart s s.sel.hart
  putHart s s.sel.hart (hartTrap x (BitVec.ofNat 64 cause) tval x.pc)
/-- The illegal-instruction exception. -/
def hartIllegal (s : State) : State := hartFault s 2 0
/-- The hart goes on past its instruction. -/
def hartNext (s : State) (f : Hart → Hart) : State :=
  let x := f (getHart s s.sel.hart)
  putHart s s.sel.hart { x with pc := x.pc + 4 }
/-- A fetch from a poisoned granule is an instruction access fault with the granule's address (R246): the physical one (DESIGN CHOICE,
log 103). -/
def fetchPoison (s : State) (h : Nat) : Option Nat :=
  match hostTranslate s (getHart s h) (getHart s h).pc.toNat false with
  | some pa => if outOfReach pa then some pa else (granulesOf pa 4).find? fun g => memPoison s.mem g
  | none => none
/-- A capability instruction of the selected hart: illegal in U-mode and VU-mode (R356). -/
def hostOp (s : State) (go : Hart → State) : Host.Outcome State Fault Refusal :=
  let x := getHart s s.sel.hart
  .next (if x.mode = .user ∨ x.mode = .virtualUser then hartIllegal s else go x)

/-! ## Spaces that are no plain memory (R251, R353, R452) -/

/-- The ring whose region holds an address (R353): its number, the base and LOG. -/
def ringAt (s : State) (pa : Nat) : Option (Nat × Nat × Nat) :=
  s.objs.findSome? fun o => match o.data with
    | .ring _ log base _ _ _ => if base ≤ pa ∧ pa < base + ringSize log ∧ !buried o then some (o.num, base, log) else none
    | _ => none
/-- A store into the region of a ring (R353): the entries are memory; of the control block only DONE is written, which releases
the replies; REQ, LOG and what reads as zero keep their values. -/
def ringStore (s : State) (r base log pa n : Nat) (v : Word) : State :=
  let bs := bytesLE n v.toNat
  let entry := fun (a : Nat) => decide (base + 64 ≤ a) && decide (a < base + 64 * (2 ^ (log + 1) + 1))
  let m := (List.range n).foldl (fun m j => if entry (pa + j) then memStore m (pa + j) [nth bs j 0] false else m) s.mem
  let done := (List.range 4).map fun j =>
    if pa ≤ base + 8 + j ∧ base + 8 + j < pa + n then nth bs (base + 8 + j - pa) 0 else memByte s.mem (base + 8 + j)
  if pa < base + 12 ∧ base + 8 < pa + n then ringDoneTo { s with mem := m } r (BitVec.ofNat 32 (valueLE done)) else { s with mem := m }
/-- A capability store of a hart: into memory and the entries of a ring with its tag; into registers and the control block of a ring
as its two words. -/
def hartStoreCap (s : State) (h pa : Nat) (c : Cap) : State :=
  let super := (getHart s h).mode == .supervisor
  let hi : Word := capCursor c
  if isRegSpace pa then
    let put := fun (s : State) (a : Nat) (v : Word) => if writesReg h super a then mgmtWrite s (a % 0x10000) v else s
    put (put s pa (capLo c)) (pa + 8) hi
  else
    match ringAt s pa with
    | some (r, base, log) =>
      if pa < base + 64 then ringStore (ringStore s r base log pa 8 (capLo c)) r base log (pa + 8) 8 hi
      else if pa < base + 64 * (2 ^ (log + 1) + 1) then physStoreCap s pa c false
      else s
    | none => physStoreCap (openView s pa) pa c false

/-! ## Capability registers (R356) -/

/-- The physical address of a capability access, or the exception (R356): alignment and bounds are access faults, a page that
translation does not allow a page fault. -/
def hostCapAddr (s : State) (x : Hart) (va : Word) (store : Bool) : Except Nat Nat :=
  let off := if store then 2 else 0
  if va.toNat % 16 ≠ 0 then .error (5 + off)
  else
    match hostTranslate s x va.toNat store with
    | none => .error (13 + off)
    | some pa => if outOfReach pa then .error (5 + off) else .ok pa
/-- `hcld` (R356). A poisoned granule is an access fault with its virtual address in stval (DESIGN CHOICE, log 103). -/
def execHcld (i : BitVec 12) (rs1 : Fin 32) (hcd : CReg) (s : State) : Host.Outcome State Fault Refusal :=
  hostOp s fun x =>
    let va := getX x rs1.val + i.signExtend 64
    match hostCapAddr s x va false with
    | .error c => hartFault s c va
    | .ok pa =>
      let s := openView s pa
      if memPoison s.mem pa then hartFault s 5 va
      else
        let g := hartGranule s s.sel.hart pa
        let c := capOfBytes g.1 g.2
        hartNext s fun x => setHc x hcd.val (if quarantinedAny s c then withTag c false else c)
/-- `hcst` (R356). -/
def execHcst (i : BitVec 12) (hcs : CReg) (rs1 : Fin 32) (s : State) : Host.Outcome State Fault Refusal :=
  hostOp s fun x =>
    let va := getX x rs1.val + i.signExtend 64
    match hostCapAddr s x va true with
    | .error c => hartFault s c va
    | .ok pa =>
      let c := getHc x hcs.val
      hartNext (hartStoreCap s s.sel.hart pa (if quarantinedAny s c then withTag c false else c)) id
/-- `hcget` (R356); selectors above 10 (R111) are illegal. -/
def execHcget (slct : BitVec 12) (hca : CReg) (rd : Fin 32) (s : State) : Host.Outcome State Fault Refusal :=
  hostOp s fun x => if 10 < slct.toNat then hartIllegal s else hartNext s fun y => setX y rd.val (cgetW (getHc x hca.val) slct.toNat)
/-- `hcinc` (R356): SH is 0. -/
def execHcinc (rs2 : Fin 32) (hca : CReg) (hcd : CReg) (s : State) : Host.Outcome State Fault Refusal :=
  hostOp s fun x => hartNext s fun y => setHc y hcd.val (cincC (getHc x hca.val) (getX x rs2.val) 0)
/-- `hcset` (R356). -/
def execHcset (rs2 : Fin 32) (hca : CReg) (hcd : CReg) (s : State) : Host.Outcome State Fault Refusal :=
  hostOp s fun x => hartNext s fun y => setHc y hcd.val (csetC (getHc x hca.val) (getX x rs2.val))
/-- `hcbnd` (R356). -/
def execHcbnd (rs2 : Fin 32) (hca : CReg) (hcd : CReg) (s : State) : Host.Outcome State Fault Refusal :=
  hostOp s fun x => hartNext s fun y => setHc y hcd.val (cbndC (getHc x hca.val) (getX x rs2.val))
/-- `hcperm` (R356). -/
def execHcperm (rs2 : Fin 32) (hca : CReg) (hcd : CReg) (s : State) : Host.Outcome State Fault Refusal :=
  hostOp s fun x => hartNext s fun y => setHc y hcd.val (cpermC (getHc x hca.val) (getX x rs2.val))
/-- `hcmov` (R356). -/
def execHcmov (hca : CReg) (hcd : CReg) (s : State) : Host.Outcome State Fault Refusal :=
  hostOp s fun x => hartNext s fun y => setHc y hcd.val (getHc x hca.val)
/-- `hcclr` (R356). -/
def execHcclr (hca : CReg) (hcd : CReg) (s : State) : Host.Outcome State Fault Refusal :=
  hostOp s fun x => hartNext s fun y => setHc y hcd.val (cclrC (getHc x hca.val))
/-- `hcseal` (R316, R356). -/
def execHcseal (hcb : CReg) (hca : CReg) (hcd : CReg) (s : State) : Host.Outcome State Fault Refusal :=
  hostOp s fun x => hartNext s fun y => setHc y hcd.val (csealC (getHc x hca.val) (getHc x hcb.val))
/-- `hcunseal` (R316, R356). -/
def execHcunseal (hcb : CReg) (hca : CReg) (hcd : CReg) (s : State) : Host.Outcome State Fault Refusal :=
  hostOp s fun x => hartNext s fun y => setHc y hcd.val (cunsealC (getHc x hca.val) (getHc x hcb.val))

/-! ## Endpoints (R357) -/

/-- The checks of R321 on a hart's capabilities; a failing check is an illegal-instruction exception. -/
def hostObj (s : State) (c : Cap) (types : List Nat) (need : Perm) (sent : Option Cap) (go : State) : State :=
  let leak := match sent with
    | some d => d.tag && !hasPerm d .global
    | none => false
  if (objFault s c types need).isSome || leak then hartIllegal s else go
/-- The message in a0–a2 and a capability register. -/
def hostMessage (x : Hart) (hcb : CReg) : Message := ⟨getX x 10, getX x 11, getX x 12, getHc x hcb.val⟩
/-- The selected hart waits at its instruction. -/
def hartWaits (s : State) (w : HartWait) : State := putHart s s.sel.hart { getHart s s.sel.hart with wait := w }
/-- `hcsend` (R323, R357). -/
def execHcsend (hcb : CReg) (hce : CReg) (s : State) : Host.Outcome State Fault Refusal :=
  hostOp s fun x =>
    let c := getHc x hce.val
    let m := hostMessage x hcb
    hostObj s c [963] .invoke (some m.cap)
      (epSend (hartWaits s (.send (capNum c))) (capNum c) ⟨.hart s.sel.hart, m, badgeOf c, false, hasPerm c .stc⟩)
/-- A hart takes its place as a receiver. -/
def hostReceive (s : State) (c : Cap) (hcb : CReg) : State :=
  let s := hartWaits s (.recv (capSeal c) (capNum c) hcb.val (hasPerm c .ldc) (badgeOf c))
  let r : EpReceiver := ⟨.hart s.sel.hart, hasPerm c .ldc⟩
  if capSeal c = 963 then epRecv s (capNum c) r else ntRecv s (capNum c) r
/-- `hcrecv` (R323, R324, R357). -/
def execHcrecv (hcb : CReg) (hce : CReg) (s : State) : Host.Outcome State Fault Refusal :=
  hostOp s fun x => hostObj s (getHc x hce.val) [963, 964] .ld none (hostReceive s (getHc x hce.val) hcb)
/-- `hcxcall` (R323, R357). -/
def execHcxcall (hcb : CReg) (hce : CReg) (s : State) : Host.Outcome State Fault Refusal :=
  hostOp s fun x =>
    let c := getHc x hce.val
    let m := hostMessage x hcb
    hostObj s c [963] .invoke (some m.cap)
      (epSend (hartWaits s (.xcall (capNum c) false hcb.val (hasPerm c .stc) (hasPerm c .ldc))) (capNum c)
        ⟨.hart s.sel.hart, m, badgeOf c, true, hasPerm c .stc⟩)
/-- `hcreply` (R323, R357): the object that rs1 names plays no part; without a right it has no effect. -/
def execHcreply (hcb : CReg) (_hce : CReg) (s : State) : Host.Outcome State Fault Refusal :=
  hostOp s fun x =>
    let m := hostMessage x hcb
    if m.cap.tag && !hasPerm m.cap .global then hartIllegal s
    else
      let s := hartNext s fun y => { y with right := none }
      match x.right with
      | some r =>
        if awaitsReply s r.caller then deliver s r.caller (.reply { m with cap := withTag m.cap (m.cap.tag && r.stc) } 0) else s
      | none => s
/-- `hcnotify` (R324, R357). -/
def execHcnotify (rs2 : Fin 32) (hce : CReg) (s : State) : Host.Outcome State Fault Refusal :=
  hostOp s fun x =>
    let c := getHc x hce.val
    hostObj s c [964] .invoke none (notifyBits (hartNext s id) (capNum c) (getX x rs2.val))
/-- `hcpoll` (R322 to R324, R357). -/
def execHcpoll (hcb : CReg) (hce : CReg) (s : State) : Host.Outcome State Fault Refusal :=
  hostOp s fun x =>
    let c := getHc x hce.val
    hostObj s c [963, 964] .ld none
      (if pollFinds s c then hostReceive s c hcb
      else hartNext s fun y => setHc (setX (setX (setX (setX y 10 0) 11 0) 12 0) 13 0x8000000000000000) hcb.val Cap.null)

/-! ## Traps while waiting (R357) -/

/-- Take a hart out of every queue. -/
def purgeHart (s : State) (h : Nat) : State :=
  { s with objs := s.objs.map fun o =>
      match o.data with
      | .endpoint a b => { o with data := .endpoint (a.filter fun x => !isHart h x.who) (b.filter fun x => !isHart h x.who) }
      | .notification w b => { o with data := .notification w (b.filter fun x => !isHart h x.who) }
      | _ => o }
/-- HOST_TRAP_WITHDRAW (R357): before the rendezvous the hart is withdrawn and its instruction has not been performed; an
`hcxcall` whose message has been taken ends with GONE, and the reply that follows goes to nobody. -/
def execHostTrapWithdraw (hart : Nat) (cause : Word) (s : State) : Host.Outcome State Fault Refusal :=
  let x := getHart s hart
  match x.wait with
  | .none => .next s
  | .xcall _ true cb _ _ =>
    let y := setHc (setX (setX (setX (setX x 10 0) 11 0) 12 0) 13 5) cb Cap.null
    .next (forgetCallers (putHart s hart (hartTrap y cause 0 (x.pc + 4))) (isHart hart))
  | _ => .next (putHart (purgeHart s hart) hart (hartTrap x cause 0 x.pc))

/-! ## Accesses (R217, R246, R353, R452) -/

/-- A store of a hart is performed; `super` says that it may write the register (R251, R452). No hart writes a hotness ring (R251). -/
def hartStore (s : State) (super : Bool) (pa n : Nat) (v : Word) : State :=
  if isRegSpace pa then (if super then mgmtWrite s (pa % 0x10000) v else s)
  else if isHotSpace pa then s
  else
    match ringAt s pa with
    | some (r, base, log) => ringStore s r base log pa n v
    | none =>
      let s := openViews s [pa, pa + n - 1]
      { s with mem := memStore s.mem pa (bytesLE n v.toNat) false }
/-- A byte as a hart's load finds it (R217): of the youngest store that the hart holds back, else as memory has it. -/
def hartByte (s : State) (x : Hart) (a : Nat) : Byte :=
  (x.stores.reverse.findSome? fun e =>
    if e.pa ≤ a ∧ a < e.pa + e.bytes then some (nth (bytesLE e.bytes e.value.toNat) (a - e.pa) 0) else none).getD (memByte s.mem a)
/-- The value of n bytes for a hart. A hotness ring reads as zero to a host hart below S-mode (R251). -/
def hartLoad (s : State) (h pa n : Nat) : Nat :=
  let x := getHart s h
  if isRegSpace pa then (if reachesReg h (x.mode == .supervisor) pa then (mgmtRead s (pa % 0x10000)).toNat % 2 ^ (8 * n) else 0)
  else if isHotSpace pa ∧ !isService h ∧ x.mode ≠ .supervisor then 0
  else valueLE ((List.range n).map fun j => hartByte s x (pa + j))
/-- A loaded value as the register holds it. -/
def hartExtend (v n : Nat) (signed : Bool) : Word :=
  if signed then BitVec.ofInt 64 (BitVec.ofNat (8 * n) v).toInt else BitVec.ofNat 64 v
/-- The word at which a hart stands, where its address translates. -/
def hartWord (s : State) (x : Hart) : Option Nat := (hostTranslate s x x.pc.toNat false).map fun pa => memValue s.mem pa 4
/-- Does a word stand in the custom-0 opcode space (R356)? -/
def isCustom0 (w : Nat) : Bool := fld w 0 7 == 11
/-- A mode by its number: the RISC-V privilege level, and 4 more in the virtual modes. -/
def hartModeOf : Nat → HartMode
  | 0 => .user
  | 1 => .supervisor
  | 4 => .virtualUser
  | 5 => .virtualSupervisor
  | _ => .machine
/-- A hart with a CSR written. `status` has the mode in bits 2–0, the previous mode of a trap to S-mode in bit 8 and to M-mode in
bits 14–12, and its virtualisation in bit 16. -/
def setCsr (x : Hart) (v : Word) : HartCsr → Hart
  | .satp => { x with satp := v }
  | .vsatp => { x with vsatp := v }
  | .hgatp => { x with hgatp := v }
  | .stval => { x with stval := v }
  | .sepc => { x with sepc := v }
  | .scause => { x with scause := v }
  | .stvec => { x with stvec := v }
  | .mtval => { x with mtval := v }
  | .mepc => { x with mepc := v }
  | .mcause => { x with mcause := v }
  | .mtvec => { x with mtvec := v }
  | .status =>
    { x with mode := hartModeOf (bitsOf v 2 0), spp := bitOf v 8, mpp := hartModeOf (bitsOf v 14 12), spv := bitOf v 16 }
/-- What an instruction that the spec takes from RISC-V leaves in its hart. A word of custom-0 is none (R356). -/
def hartOwn (s : State) (hart rd : Nat) (v pc : Word) (csr : Option (HartCsr × Word)) : State :=
  let x := getHart s hart
  if (hartWord s x).any isCustom0 then s
  else
    let y := { setX x rd v with pc := pc }
    putHart s hart (match csr with
      | some (c, w) => setCsr y w c
      | none => y)
/-- HOST_HART_ACCESS (R1, R217, R218, R232, R246): loads and atomics are performed at the home hub's point of coherence; a store waits
in its hart until it is performed there; a poisoned granule is an access fault with the granule's address. An atomic and a fence
find no store waiting. -/
def execHostHartAccess (hart : Nat) (pa : Nat) (acc : HostAcc) (s : State) : Host.Outcome State Fault Refusal :=
  let x := getHart s hart
  let trap := fun (cause a : Nat) => putHart s hart (hartTrap x (BitVec.ofNat 64 cause) (BitVec.ofNat 64 a) x.pc)
  let fault := fun (s : State) (n cause : Nat) =>
    if outOfReach pa then some (trap cause pa) else ((granulesOf pa n).find? fun g => memPoison s.mem g).map (trap cause)
  match acc with
  | .load n signed rd =>
    let t := openViews s [pa, pa + n - 1]
    .next ((fault t n 5).getD (putHart t hart (setX x rd (hartExtend (hartLoad t hart pa n) n signed))))
  | .store n v =>
    .next (if outOfReach pa then trap 7 pa else putHart s hart { x with stores := x.stores ++ [⟨pa, n, v, writesReg hart (x.mode == .supervisor) pa⟩] })
  | .drain =>
    match x.stores with
    | e :: es => .next (hartStore (putHart s hart { x with stores := es }) e.super e.pa e.bytes e.value)
    | [] => .next s
  | .fence => .next s
  | .time rd => .next (putHart s hart (setX x rd s.bell))
  | .own rd v pc csr => .next (hartOwn s hart rd v pc csr)
  | .amo op w32 v e rd =>
    let n := if w32 then 4 else 8
    let s := openViews s [pa, pa + n - 1]
    let old := hartLoad s hart pa n
    let s' := match atomNew op (8 * n) old (v.toNat % 2 ^ (8 * n)) (e.toNat % 2 ^ (8 * n)) with
      | some m => hartStore s (writesReg hart (x.mode == .supervisor) pa) pa n (BitVec.ofNat 64 m)
      | none => s
    .next ((fault s n 7).getD (putHart s' hart (setX (getHart s' hart) rd (hartExtend old n true))))

end Sys2Proof.Machine
end

