-- ==== Sys2Proof/Machine/LaneFloat.lean ====
section
/-!
DEFINITION. The float lane instructions (R81 to R85).
-/
namespace Sys2Proof.Machine

def flane2Pass (s : State) (i : Instr) (f : FWidth) (b a : Src) (d : DReg) (op : FFmt → Nat → Nat → Nat) :
    Host.Outcome State Fault Refusal :=
  lanePass s i [a, b] d fun k => flane2 op f (srcV s a k) (srcV s b k)

def flane3Pass (s : State) (i : Instr) (f : FWidth) (b a : Src) (d : DReg) (op : FFmt → Nat → Nat → Nat → Nat) :
    Host.Outcome State Fault Refusal :=
  lanePass s i [a, b] d fun k => flane3 op f (readD (cur s) d k) (srcV s a k) (srcV s b k)

def flane1Pass (s : State) (i : Instr) (f : FWidth) (a : Src) (d : DReg) (op : FFmt → Nat → Nat) :
    Host.Outcome State Fault Refusal :=
  lanePass s i [a] d fun k => flane1 op f (srcV s a k)

def specialPass (s : State) (i : Instr) (f : FWidth) (a : Src) (d : DReg) (g : Nat → Nat) :
    Host.Outcome State Fault Refusal :=
  lanePass s i [a] d fun k => specialW g f (srcV s a k)

/-- `fadd` (R81). -/
def execFadd (f : FWidth) (b a : Src) (d : DReg) (s : State) : Host.Outcome State Fault Refusal :=
  flane2Pass s (.fadd f b a d) f b a d fadd1

/-- `fsub` (R81). -/
def execFsub (f : FWidth) (b a : Src) (d : DReg) (s : State) : Host.Outcome State Fault Refusal :=
  flane2Pass s (.fsub f b a d) f b a d fsub1

/-- `fmul` (R81). -/
def execFmul (f : FWidth) (b a : Src) (d : DReg) (s : State) : Host.Outcome State Fault Refusal :=
  flane2Pass s (.fmul f b a d) f b a d fmul1

/-- `fscale` (R81). -/
def execFscale (f : FWidth) (b a : Src) (d : DReg) (s : State) : Host.Outcome State Fault Refusal :=
  flane2Pass s (.fscale f b a d) f b a d fscale1

/-- `fmin` (R81). -/
def execFmin (f : FWidth) (b a : Src) (d : DReg) (s : State) : Host.Outcome State Fault Refusal :=
  flane2Pass s (.fmin f b a d) f b a d fmin1

/-- `fmax` (R81). -/
def execFmax (f : FWidth) (b a : Src) (d : DReg) (s : State) : Host.Outcome State Fault Refusal :=
  flane2Pass s (.fmax f b a d) f b a d fmax1

/-- `fma` (R81). -/
def execFma (f : FWidth) (b a : Src) (d : DReg) (s : State) : Host.Outcome State Fault Refusal :=
  flane3Pass s (.fma f b a d) f b a d fma1

/-- `fnma` (R81). -/
def execFnma (f : FWidth) (b a : Src) (d : DReg) (s : State) : Host.Outcome State Fault Refusal :=
  flane3Pass s (.fnma f b a d) f b a d fnma1

/-- `fabs` (R82). -/
def execFabs (f : FWidth) (a : Src) (d : DReg) (s : State) : Host.Outcome State Fault Refusal :=
  flane1Pass s (.fabs f a d) f a d fabs1

/-- `fneg` (R82). -/
def execFneg (f : FWidth) (a : Src) (d : DReg) (s : State) : Host.Outcome State Fault Refusal :=
  flane1Pass s (.fneg f a d) f a d fneg1

/-- `fclass` (R82). -/
def execFclass (f : FWidth) (a : Src) (d : DReg) (s : State) : Host.Outcome State Fault Refusal :=
  flane1Pass s (.fclass f a d) f a d fclass1

/-- `fround` (R82). -/
def execFround (r : Rnd) (f : FWidth) (a : Src) (d : DReg) (s : State) : Host.Outcome State Fault Refusal :=
  flane1Pass s (.fround r f a d) f a d (fround1 (rmodeOf r 0))

/-- `fcvt` (R84). STEP advances after a pass that rounds stochastically (R66). DESIGN CHOICE (log 30): `.sr` of an s register into a
v register draws for each seat (R65), so that the seats may differ, where R67 speaks of the same value for every issued seat. -/
def execFcvt (dst : CFmt) (r : Rnd) (src : CFmt) (a : Src) (d : DReg) (s : State) : Host.Outcome State Fault Refusal :=
  benchPass s (.fcvt dst r src a d) [a] fun b =>
    let b := writeD b d ((issued s).map fun k =>
      (k, fcvtW dst src r (cur s).seed (cur s).stepCount k (srcV s a k), none))
    if r = .sr then { b with stepCount := b.stepCount + 1 } else b

/-- `frcp` (R85). -/
def execFrcp (f : FWidth) (a : Src) (d : DReg) (s : State) : Host.Outcome State Fault Refusal :=
  specialPass s (.frcp f a d) f a d frcp32

/-- `frsq` (R85). -/
def execFrsq (f : FWidth) (a : Src) (d : DReg) (s : State) : Host.Outcome State Fault Refusal :=
  specialPass s (.frsq f a d) f a d frsq32

/-- `fsqrt` (R85). -/
def execFsqrt (f : FWidth) (a : Src) (d : DReg) (s : State) : Host.Outcome State Fault Refusal :=
  specialPass s (.fsqrt f a d) f a d fsqrt32

/-- `fexp2` (R85). -/
def execFexp2 (f : FWidth) (a : Src) (d : DReg) (s : State) : Host.Outcome State Fault Refusal :=
  specialPass s (.fexp2 f a d) f a d fexp232

/-- `flog2` (R85). -/
def execFlog2 (f : FWidth) (a : Src) (d : DReg) (s : State) : Host.Outcome State Fault Refusal :=
  specialPass s (.flog2 f a d) f a d flog232

/-- `fsin` (R85). -/
def execFsin (f : FWidth) (a : Src) (d : DReg) (s : State) : Host.Outcome State Fault Refusal :=
  specialPass s (.fsin f a d) f a d fsin32

/-- `fcos` (R85). -/
def execFcos (f : FWidth) (a : Src) (d : DReg) (s : State) : Host.Outcome State Fault Refusal :=
  specialPass s (.fcos f a d) f a d fcos32

/-- `ftanh` (R85). -/
def execFtanh (f : FWidth) (a : Src) (d : DReg) (s : State) : Host.Outcome State Fault Refusal :=
  specialPass s (.ftanh f a d) f a d ftanh32

end Sys2Proof.Machine
end

