-- ==== Sys2Proof/Machine/Dispatch.lean ====
section
/-!
DEFINITION. The meaning of each row of spec/opcode_table.json: one call for each constructor of `Instr`.
-/
namespace Sys2Proof.Machine

/-- The instruction's effect on the machine. -/
def exec (i : Instr) (s : State) : Host.Outcome State Fault Refusal :=
  match i with
  | .clause n w setB setA wait => Sys2Proof.Machine.execClause n w setB setA wait s
  | .mov16 l a d => Sys2Proof.Machine.execMov16 l a d s
  | .add16 l a d => Sys2Proof.Machine.execAdd16 l a d s
  | .sub16 l a d => Sys2Proof.Machine.execSub16 l a d s
  | .mul16 l a d => Sys2Proof.Machine.execMul16 l a d s
  | .and16 l a d => Sys2Proof.Machine.execAnd16 l a d s
  | .or16 l a d => Sys2Proof.Machine.execOr16 l a d s
  | .xor16 l a d => Sys2Proof.Machine.execXor16 l a d s
  | .shl16 l a d => Sys2Proof.Machine.execShl16 l a d s
  | .shr16 l a d => Sys2Proof.Machine.execShr16 l a d s
  | .sar16 l a d => Sys2Proof.Machine.execSar16 l a d s
  | .min16 l a d => Sys2Proof.Machine.execMin16 l a d s
  | .max16 l a d => Sys2Proof.Machine.execMax16 l a d s
  | .fadd16 l a d => Sys2Proof.Machine.execFadd16 l a d s
  | .fsub16 l a d => Sys2Proof.Machine.execFsub16 l a d s
  | .fmul16 l a d => Sys2Proof.Machine.execFmul16 l a d s
  | .fma16 l a d => Sys2Proof.Machine.execFma16 l a d s
  | .add w b a d => Sys2Proof.Machine.execAdd w b a d s
  | .sub w b a d => Sys2Proof.Machine.execSub w b a d s
  | .mul w b a d => Sys2Proof.Machine.execMul w b a d s
  | .mulh w b a d => Sys2Proof.Machine.execMulh w b a d s
  | .mad w b a d => Sys2Proof.Machine.execMad w b a d s
  | .min w b a d => Sys2Proof.Machine.execMin w b a d s
  | .max w b a d => Sys2Proof.Machine.execMax w b a d s
  | .minu w b a d => Sys2Proof.Machine.execMinu w b a d s
  | .maxu w b a d => Sys2Proof.Machine.execMaxu w b a d s
  | .abs w a d => Sys2Proof.Machine.execAbs w a d s
  | .neg w a d => Sys2Proof.Machine.execNeg w a d s
  | .shl w b a d => Sys2Proof.Machine.execShl w b a d s
  | .shr w b a d => Sys2Proof.Machine.execShr w b a d s
  | .sar w b a d => Sys2Proof.Machine.execSar w b a d s
  | .rot w b a d => Sys2Proof.Machine.execRot w b a d s
  | .clz w a d => Sys2Proof.Machine.execClz w a d s
  | .ctz w a d => Sys2Proof.Machine.execCtz w a d s
  | .popc w a d => Sys2Proof.Machine.execPopc w a d s
  | .brev w a d => Sys2Proof.Machine.execBrev w a d s
  | .bfx w b a d => Sys2Proof.Machine.execBfx w b a d s
  | .bfi w b a d => Sys2Proof.Machine.execBfi w b a d s
  | .sel p w b a d => Sys2Proof.Machine.execSel p w b a d s
  | .cvtI u wd sat ws a d => Sys2Proof.Machine.execCvtI u wd sat ws a d s
  | .and b a d => Sys2Proof.Machine.execAnd b a d s
  | .or b a d => Sys2Proof.Machine.execOr b a d s
  | .xor b a d => Sys2Proof.Machine.execXor b a d s
  | .andn b a d => Sys2Proof.Machine.execAndn b a d s
  | .not a d => Sys2Proof.Machine.execNot a d s
  | .mov a d => Sys2Proof.Machine.execMov a d s
  | .perm b a d => Sys2Proof.Machine.execPerm b a d s
  | .pack w b a d => Sys2Proof.Machine.execPack w b a d s
  | .unpack w h a d => Sys2Proof.Machine.execUnpack w h a d s
  | .fadd f b a d => Sys2Proof.Machine.execFadd f b a d s
  | .fsub f b a d => Sys2Proof.Machine.execFsub f b a d s
  | .fmul f b a d => Sys2Proof.Machine.execFmul f b a d s
  | .fma f b a d => Sys2Proof.Machine.execFma f b a d s
  | .fnma f b a d => Sys2Proof.Machine.execFnma f b a d s
  | .fscale f b a d => Sys2Proof.Machine.execFscale f b a d s
  | .fmin f b a d => Sys2Proof.Machine.execFmin f b a d s
  | .fmax f b a d => Sys2Proof.Machine.execFmax f b a d s
  | .fabs f a d => Sys2Proof.Machine.execFabs f a d s
  | .fneg f a d => Sys2Proof.Machine.execFneg f a d s
  | .fclass f a d => Sys2Proof.Machine.execFclass f a d s
  | .fround r f a d => Sys2Proof.Machine.execFround r f a d s
  | .fcvt dst r src a d => Sys2Proof.Machine.execFcvt dst r src a d s
  | .frcp f a d => Sys2Proof.Machine.execFrcp f a d s
  | .frsq f a d => Sys2Proof.Machine.execFrsq f a d s
  | .fsqrt f a d => Sys2Proof.Machine.execFsqrt f a d s
  | .fexp2 f a d => Sys2Proof.Machine.execFexp2 f a d s
  | .flog2 f a d => Sys2Proof.Machine.execFlog2 f a d s
  | .fsin f a d => Sys2Proof.Machine.execFsin f a d s
  | .fcos f a d => Sys2Proof.Machine.execFcos f a d s
  | .ftanh f a d => Sys2Proof.Machine.execFtanh f a d s
  | .modadd b a d => Sys2Proof.Machine.execModadd b a d s
  | .modsub b a d => Sys2Proof.Machine.execModsub b a d s
  | .modmul b a d => Sys2Proof.Machine.execModmul b a d s
  | .mred b a d => Sys2Proof.Machine.execMred b a d s
  | .nttbf a d => Sys2Proof.Machine.execNttbf a d s
  | .inttbf a d => Sys2Proof.Machine.execInttbf a d s
  | .shfl b a d => Sys2Proof.Machine.execShfl b a d s
  | .shflx b a d => Sys2Proof.Machine.execShflx b a d s
  | .bcast k a d => Sys2Proof.Machine.execBcast k a d s
  | .ballot p d => Sys2Proof.Machine.execBallot p d s
  | .voteAny p w q => Sys2Proof.Machine.execVoteAny p w q s
  | .voteAll p w q => Sys2Proof.Machine.execVoteAll p w q s
  | .matchSeats a d => Sys2Proof.Machine.execMatchSeats a d s
  | .scan w x fl o a d => Sys2Proof.Machine.execScan w x fl o a d s
  | .red w fl o a d => Sys2Proof.Machine.execRed w fl o a d s
  | .li imm d => Sys2Proof.Machine.execLi imm d s
  | .lih1 imm d => Sys2Proof.Machine.execLih1 imm d s
  | .lih2 imm d => Sys2Proof.Machine.execLih2 imm d s
  | .lih3 imm d => Sys2Proof.Machine.execLih3 imm d s
  | .lih0 imm d => Sys2Proof.Machine.execLih0 imm d s
  | .addi w imm a d => Sys2Proof.Machine.execAddi w imm a d s
  | .bra o => Sys2Proof.Machine.execBra o s
  | .call o d => Sys2Proof.Machine.execCall o d s
  | .brP o inv k => Sys2Proof.Machine.execBrP o inv k s
  | .brx ca cd => Sys2Proof.Machine.execBrx ca cd s
  | .ret a => Sys2Proof.Machine.execRet a s
  | .exit => Sys2Proof.Machine.execExit s
  | .yield => Sys2Proof.Machine.execYield s
  | .brk hi lo => Sys2Proof.Machine.execBrk hi lo s
  | .pause a => Sys2Proof.Machine.execPause a s
  | .cmp c b a w p => Sys2Proof.Machine.execCmp c b a w p s
  | .cmpi c imm a w p => Sys2Proof.Machine.execCmpi c imm a w p s
  | .fcmp c b a f p => Sys2Proof.Machine.execFcmp c b a f p s
  | .pand b a d => Sys2Proof.Machine.execPand b a d s
  | .por b a d => Sys2Proof.Machine.execPor b a d s
  | .pxor b a d => Sys2Proof.Machine.execPxor b a d s
  | .pnot a d => Sys2Proof.Machine.execPnot a d s
  | .ldIndex x sz c d => Sys2Proof.Machine.execLdIndex x sz c d s
  | .ldImm imm sz c d => Sys2Proof.Machine.execLdImm imm sz c d s
  | .stIndex x sz c d => Sys2Proof.Machine.execStIndex x sz c d s
  | .stImm imm sz c d => Sys2Proof.Machine.execStImm imm sz c d s
  | .ldpIndex x c d => Sys2Proof.Machine.execLdpIndex x c d s
  | .ldpImm imm c d => Sys2Proof.Machine.execLdpImm imm c d s
  | .stpIndex x c d => Sys2Proof.Machine.execStpIndex x c d s
  | .stpImm imm c d => Sys2Proof.Machine.execStpImm imm c d s
  | .ldsIndex x sz c d => Sys2Proof.Machine.execLdsIndex x sz c d s
  | .ldsImm imm sz c d => Sys2Proof.Machine.execLdsImm imm sz c d s
  | .stsIndex x sz c d => Sys2Proof.Machine.execStsIndex x sz c d s
  | .stsImm imm sz c d => Sys2Proof.Machine.execStsImm imm sz c d s
  | .ldfRIndex x c d => Sys2Proof.Machine.execLdfRIndex x c d s
  | .ldfRImm imm c d => Sys2Proof.Machine.execLdfRImm imm c d s
  | .ldfCIndex x c d => Sys2Proof.Machine.execLdfCIndex x c d s
  | .ldfCImm imm c d => Sys2Proof.Machine.execLdfCImm imm c d s
  | .stfRIndex x c d => Sys2Proof.Machine.execStfRIndex x c d s
  | .stfRImm imm c d => Sys2Proof.Machine.execStfRImm imm c d s
  | .stfCIndex x c d => Sys2Proof.Machine.execStfCIndex x c d s
  | .stfCImm imm c d => Sys2Proof.Machine.execStfCImm imm c d s
  | .ldcIndex x c cd => Sys2Proof.Machine.execLdcIndex x c cd s
  | .ldcImm imm c cd => Sys2Proof.Machine.execLdcImm imm c cd s
  | .stcIndex x c cd => Sys2Proof.Machine.execStcIndex x c cd s
  | .stcImm imm c cd => Sys2Proof.Machine.execStcImm imm c cd s
  | .prefIndex x c llc => Sys2Proof.Machine.execPrefIndex x c llc s
  | .prefImm imm c llc => Sys2Proof.Machine.execPrefImm imm c llc s
  | .fence sc o => Sys2Proof.Machine.execFence sc o s
  | .atomRelaxed op b sc w32 c d => Sys2Proof.Machine.execAtomRelaxed op b sc w32 c d s
  | .atomAcquire op b sc w32 c d => Sys2Proof.Machine.execAtomAcquire op b sc w32 c d s
  | .atomRelease op b sc w32 c d => Sys2Proof.Machine.execAtomRelease op b sc w32 c d s
  | .atomAcqRel op b sc w32 c d => Sys2Proof.Machine.execAtomAcqRel op b sc w32 c d s
  | .atoms op b o w32 c d => Sys2Proof.Machine.execAtoms op b o w32 c d s
  | .cinc b sh ca cd => Sys2Proof.Machine.execCinc b sh ca cd s
  | .cset b ca cd => Sys2Proof.Machine.execCset b ca cd s
  | .cbnd b ca cd => Sys2Proof.Machine.execCbnd b ca cd s
  | .cperm b ca cd => Sys2Proof.Machine.execCperm b ca cd s
  | .cseal cb ca cd => Sys2Proof.Machine.execCseal cb ca cd s
  | .cunseal cb ca cd => Sys2Proof.Machine.execCunseal cb ca cd s
  | .cmov ca cd => Sys2Proof.Machine.execCmov ca cd s
  | .cclr ca cd => Sys2Proof.Machine.execCclr ca cd s
  | .cget slct ca d => Sys2Proof.Machine.execCget slct ca d s
  | .ctest b ca w p => Sys2Proof.Machine.execCtest b ca w p s
  | .ceq cb ca w p => Sys2Proof.Machine.execCeq cb ca w p s
  | .join g => Sys2Proof.Machine.execJoin g s
  | .leave g => Sys2Proof.Machine.execLeave g s
  | .arrive g => Sys2Proof.Machine.execArrive g s
  | .waitb g => Sys2Proof.Machine.execWaitb g s
  | .bar g => Sys2Proof.Machine.execBar g s
  | .mbw m a => Sys2Proof.Machine.execMbw m a s
  | .mbr m d => Sys2Proof.Machine.execMbr m d s
  | .mbtry m p d => Sys2Proof.Machine.execMbtry m p d s
  | .mbind m g => Sys2Proof.Machine.execMbind m g s
  | .cpyT q sz ca arr fb cd => Sys2Proof.Machine.execCpyT q sz ca arr fb cd s
  | .cpyG q sz ca arr fb cd => Sys2Proof.Machine.execCpyG q sz ca arr fb cd s
  | .cpyS q sz ca arr fb cd => Sys2Proof.Machine.execCpyS q sz ca arr fb cd s
  | .cpySc q sz ca arr fb cd => Sys2Proof.Machine.execCpySc q sz ca arr fb cd s
  | .cpyP q sz arr fb cd => Sys2Proof.Machine.execCpyP q sz arr fb cd s
  | .seal d => Sys2Proof.Machine.execSeal d s
  | .mma fmt b a t => Sys2Proof.Machine.execMma fmt b a t s
  | .mmas fmt b a p t => Sys2Proof.Machine.execMmas fmt b a p t s
  | .mmod b a t => Sys2Proof.Machine.execMmod b a t s
  | .aclr t => Sys2Proof.Machine.execAclr t s
  | .ald fmt c a t => Sys2Proof.Machine.execAld fmt c a t s
  | .ast fmt r c a t => Sys2Proof.Machine.execAst fmt r c a t s
  | .tmma c q t => Sys2Proof.Machine.execTmma c q t s
  | .send cb a ce => Sys2Proof.Machine.execSend cb a ce s
  | .recv cb a ce => Sys2Proof.Machine.execRecv cb a ce s
  | .xcall cb a ce => Sys2Proof.Machine.execXcall cb a ce s
  | .reply cb a => Sys2Proof.Machine.execReply cb a s
  | .notify a ce => Sys2Proof.Machine.execNotify a ce s
  | .poll cb a ce => Sys2Proof.Machine.execPoll cb a ce s
  | .sysc cb a ce => Sys2Proof.Machine.execSysc cb a ce s
  | .push cb keep d ce => Sys2Proof.Machine.execPush cb keep d ce s
  | .sret a ce => Sys2Proof.Machine.execSret a ce s
  | .mark ce => Sys2Proof.Machine.execMark ce s
  | .bpost a k => Sys2Proof.Machine.execBpost a k s
  | .bwait a k => Sys2Proof.Machine.execBwait a k s
  | .emit a ce => Sys2Proof.Machine.execEmit a ce s
  | .ckpt => Sys2Proof.Machine.execCkpt s
  | .rd slct d => Sys2Proof.Machine.execRd slct d s
  | .srd slct d => Sys2Proof.Machine.execSrd slct d s
  | .swr slct d => Sys2Proof.Machine.execSwr slct d s
  | .trap code => Sys2Proof.Machine.execTrap code s
  | .tret => Sys2Proof.Machine.execTret s
  | .bsave sec c => Sys2Proof.Machine.execBsave sec c s
  | .brest sec c => Sys2Proof.Machine.execBrest sec c s
  | .rmap b a d => Sys2Proof.Machine.execRmap b a d s
  | .haltPark => Sys2Proof.Machine.execHaltPark s
  | .haltFail => Sys2Proof.Machine.execHaltFail s
  | .haltRequeue => Sys2Proof.Machine.execHaltRequeue s
  | .hcld imm rs1 hcd => Sys2Proof.Machine.execHcld imm rs1 hcd s
  | .hcst imm hcs rs1 => Sys2Proof.Machine.execHcst imm hcs rs1 s
  | .hcget slct hca rd => Sys2Proof.Machine.execHcget slct hca rd s
  | .hcinc rs2 hca hcd => Sys2Proof.Machine.execHcinc rs2 hca hcd s
  | .hcset rs2 hca hcd => Sys2Proof.Machine.execHcset rs2 hca hcd s
  | .hcbnd rs2 hca hcd => Sys2Proof.Machine.execHcbnd rs2 hca hcd s
  | .hcperm rs2 hca hcd => Sys2Proof.Machine.execHcperm rs2 hca hcd s
  | .hcmov hca hcd => Sys2Proof.Machine.execHcmov hca hcd s
  | .hcclr hca hcd => Sys2Proof.Machine.execHcclr hca hcd s
  | .hcseal hcb hca hcd => Sys2Proof.Machine.execHcseal hcb hca hcd s
  | .hcunseal hcb hca hcd => Sys2Proof.Machine.execHcunseal hcb hca hcd s
  | .hcsend hcb hce => Sys2Proof.Machine.execHcsend hcb hce s
  | .hcrecv hcb hce => Sys2Proof.Machine.execHcrecv hcb hce s
  | .hcxcall hcb hce => Sys2Proof.Machine.execHcxcall hcb hce s
  | .hcreply hcb hce => Sys2Proof.Machine.execHcreply hcb hce s
  | .hcnotify rs2 hce => Sys2Proof.Machine.execHcnotify rs2 hce s
  | .hcpoll hcb hce => Sys2Proof.Machine.execHcpoll hcb hce s
  | .liftPass core slot => Sys2Proof.Machine.execLiftPass core slot s
  | .pipeIdleClock core pipe => Sys2Proof.Machine.execPipeIdleClock core pipe s
  | .loadComplete id reply => Sys2Proof.Machine.execLoadComplete id reply s
  | .storeAccepted id => Sys2Proof.Machine.execStoreAccepted id s
  | .atomicComplete id reply => Sys2Proof.Machine.execAtomicComplete id reply s
  | .holdLineDrain task coreT line => Sys2Proof.Machine.execHoldLineDrain task coreT line s
  | .groupArrivalApply id => Sys2Proof.Machine.execGroupArrivalApply id s
  | .pauseWake core slot seat => Sys2Proof.Machine.execPauseWake core slot seat s
  | .fenceContinue core slot seat => Sys2Proof.Machine.execFenceContinue core slot seat s
  | .mbxTimeout core slot seat => Sys2Proof.Machine.execMbxTimeout core slot seat s
  | .goneMaskSet task coreT => Sys2Proof.Machine.execGoneMaskSet task coreT s
  | .copyComplete id => Sys2Proof.Machine.execCopyComplete id s
  | .promiseMissed id => Sys2Proof.Machine.execPromiseMissed id s
  | .matrixUnitDone id => Sys2Proof.Machine.execMatrixUnitDone id s
  | .tmmaHandover id => Sys2Proof.Machine.execTmmaHandover id s
  | .tmmaComplete id => Sys2Proof.Machine.execTmmaComplete id s
  | .matrixFlagFall id => Sys2Proof.Machine.execMatrixFlagFall id s
  | .tileRowsDone id => Sys2Proof.Machine.execTileRowsDone id s
  | .pageWalk task core va acc => Sys2Proof.Machine.execPageWalk task core va acc s
  | .leaseExpire unit => Sys2Proof.Machine.execLeaseExpire unit s
  | .hubReturnExpired id => Sys2Proof.Machine.execHubReturnExpired id s
  | .sdqtailWrite v => Sys2Proof.Machine.execSdqtailWrite v s
  | .shootdownRequest => Sys2Proof.Machine.execShootdownRequest s
  | .bellSkewDetect r => Sys2Proof.Machine.execBellSkewDetect r s
  | .skewRecovery r => Sys2Proof.Machine.execSkewRecovery r s
  | .translationRenewal id va => Sys2Proof.Machine.execTranslationRenewal id va s
  | .grantRequest m slot va acc => Sys2Proof.Machine.execGrantRequest m slot va acc s
  | .remoteAccessPerform req => Sys2Proof.Machine.execRemoteAccessPerform req s
  | .remoteReplyDeadline id => Sys2Proof.Machine.execRemoteReplyDeadline id s
  | .remoteAckDeadline id => Sys2Proof.Machine.execRemoteAckDeadline id s
  | .savedReplyApply task coreT benchT record reply => Sys2Proof.Machine.execSavedReplyApply task coreT benchT record reply s
  | .carveComplete carve => Sys2Proof.Machine.execCarveComplete carve s
  | .softError e => Sys2Proof.Machine.execSoftError e s
  | .hotnessSample hub die flags pa asn => Sys2Proof.Machine.execHotnessSample hub die flags pa asn s
  | .hotctlWrite hub v => Sys2Proof.Machine.execHotctlWrite hub v s
  | .hottailWrite hub v => Sys2Proof.Machine.execHottailWrite hub v s
  | .pageMigration asn va frame => Sys2Proof.Machine.execPageMigration asn va frame s
  | .icacheInvalidate due asn va len => Sys2Proof.Machine.execIcacheInvalidate due asn va len s
  | .binTimerExpire node => Sys2Proof.Machine.execBinTimerExpire node s
  | .emitStallTimeout core slot seat => Sys2Proof.Machine.execEmitStallTimeout core slot seat s
  | .priorityAging task => Sys2Proof.Machine.execPriorityAging task s
  | .taskAdmit task die => Sys2Proof.Machine.execTaskAdmit task die s
  | .stagingGranuleLand task coreT region granule => Sys2Proof.Machine.execStagingGranuleLand task coreT region granule s
  | .stagingPageFault task va sub => Sys2Proof.Machine.execStagingPageFault task va sub s
  | .taskDispatch task => Sys2Proof.Machine.execTaskDispatch task s
  | .deanPreempt task => Sys2Proof.Machine.execDeanPreempt task s
  | .taskRetire task => Sys2Proof.Machine.execTaskRetire task s
  | .taskRetireRelease task => Sys2Proof.Machine.execTaskRetireRelease task s
  | .taskAbort task cause => Sys2Proof.Machine.execTaskAbort task cause s
  | .pagerResident task => Sys2Proof.Machine.execPagerResident task s
  | .implicitCheckpoint task bin => Sys2Proof.Machine.execImplicitCheckpoint task bin s
  | .timetableIdleAdvance core pipe => Sys2Proof.Machine.execTimetableIdleAdvance core pipe s
  | .teamHalt task why => Sys2Proof.Machine.execTeamHalt task why s
  | .parkBlockedTask task => Sys2Proof.Machine.execParkBlockedTask task s
  | .parkedDelivery task coreT benchT seat d => Sys2Proof.Machine.execParkedDelivery task coreT benchT seat d s
  | .saveRunOpen core slot => Sys2Proof.Machine.execSaveRunOpen core slot s
  | .restoreRunOpen core slot => Sys2Proof.Machine.execRestoreRunOpen core slot s
  | .faultRunOpen core => Sys2Proof.Machine.execFaultRunOpen core s
  | .faultDisposition task w0 => Sys2Proof.Machine.execFaultDisposition task w0 s
  | .featChangeRetest task => Sys2Proof.Machine.execFeatChangeRetest task s
  | .machineCheck sub core task aux => Sys2Proof.Machine.execMachineCheck sub core task aux s
  | .pushReserve req => Sys2Proof.Machine.execPushReserve req s
  | .pushPublish buf k => Sys2Proof.Machine.execPushPublish buf k s
  | .pushReply id v => Sys2Proof.Machine.execPushReply id v s
  | .pushReplyDeadline id => Sys2Proof.Machine.execPushReplyDeadline id s
  | .pushSlotTimeout buf k => Sys2Proof.Machine.execPushSlotTimeout buf k s
  | .sretPerform id => Sys2Proof.Machine.execSretPerform id s
  | .markReplicaArrive src mark path n => Sys2Proof.Machine.execMarkReplicaArrive src mark path n s
  | .markDone id => Sys2Proof.Machine.execMarkDone id s
  | .markTimeout id => Sys2Proof.Machine.execMarkTimeout id s
  | .linkFail lib => Sys2Proof.Machine.execLinkFail lib s
  | .linkRetrainDone lib => Sys2Proof.Machine.execLinkRetrainDone lib s
  | .pathSetChange target => Sys2Proof.Machine.execPathSetChange target s
  | .libraryReport lib id r => Sys2Proof.Machine.execLibraryReport lib id r s
  | .remoteRefusal id ns => Sys2Proof.Machine.execRemoteRefusal id ns s
  | .pathSilenceTimeout target lib => Sys2Proof.Machine.execPathSilenceTimeout target lib s
  | .pathProbe target lib answered => Sys2Proof.Machine.execPathProbe target lib answered s
  | .noPathTimeout target => Sys2Proof.Machine.execNoPathTimeout target s
  | .poolLinkTimeout id => Sys2Proof.Machine.execPoolLinkTimeout id s
  | .libraryAtomCombine reqs => Sys2Proof.Machine.execLibraryAtomCombine reqs s
  | .poolsegWrite seg v => Sys2Proof.Machine.execPoolsegWrite seg v s
  | .poolsegUnmapDone seg => Sys2Proof.Machine.execPoolsegUnmapDone seg s
  | .hallPassReceive grp => Sys2Proof.Machine.execHallPassReceive grp s
  | .programPost grp f => Sys2Proof.Machine.execProgramPost grp f s
  | .passFrame grp f => Sys2Proof.Machine.execPassFrame grp f s
  | .hallPassRegenerate grp => Sys2Proof.Machine.execHallPassRegenerate grp s
  | .membership grp m => Sys2Proof.Machine.execMembership grp m s
  | .bgctlWrite v => Sys2Proof.Machine.execBgctlWrite v s
  | .bellBeaconSend => Sys2Proof.Machine.execBellBeaconSend s
  | .bellBeacon grp f => Sys2Proof.Machine.execBellBeacon grp f s
  | .bellUnlock => Sys2Proof.Machine.execBellUnlock s
  | .revocationNotice via slot base len num => Sys2Proof.Machine.execRevocationNotice via slot base len num s
  | .revocationAck src num => Sys2Proof.Machine.execRevocationAck src num s
  | .revocationFence src num => Sys2Proof.Machine.execRevocationFence src num s
  | .eraserSweep => Sys2Proof.Machine.execEraserSweep s
  | .revocationComplete num => Sys2Proof.Machine.execRevocationComplete num s
  | .destroyComplete type num => Sys2Proof.Machine.execDestroyComplete type num s
  | .create req => Sys2Proof.Machine.execCreate req s
  | .mint req => Sys2Proof.Machine.execMint req s
  | .destroy req => Sys2Proof.Machine.execDestroy req s
  | .revoke req => Sys2Proof.Machine.execRevoke req s
  | .memcap req => Sys2Proof.Machine.execMemcap req s
  | .bind req => Sys2Proof.Machine.execBind req s
  | .unbind req => Sys2Proof.Machine.execUnbind req s
  | .carve req => Sys2Proof.Machine.execCarve req s
  | .carvecap req => Sys2Proof.Machine.execCarvecap req s
  | .heap req => Sys2Proof.Machine.execHeap req s
  | .inject req => Sys2Proof.Machine.execInject req s
  | .emitcap req => Sys2Proof.Machine.execEmitcap req s
  | .exportSpace req => Sys2Proof.Machine.execExportSpace req s
  | .admitCap req => Sys2Proof.Machine.execAdmitCap req s
  | .preemptPark req => Sys2Proof.Machine.execPreemptPark req s
  | .preemptRelease req => Sys2Proof.Machine.execPreemptRelease req s
  | .ringDoneWrite ring done => Sys2Proof.Machine.execRingDoneWrite ring done s
  | .serviceAlloc ring => Sys2Proof.Machine.execServiceAlloc ring s
  | .packageReset => Sys2Proof.Machine.execPackageReset s
  | .bootClaim grp m => Sys2Proof.Machine.execBootClaim grp m s
  | .bootReady grp m hash lib leasemax => Sys2Proof.Machine.execBootReady grp m hash lib leasemax s
  | .bootTimeout grp m => Sys2Proof.Machine.execBootTimeout grp m s
  | .bootTimerExpire => Sys2Proof.Machine.execBootTimerExpire s
  | .imageVerify image => Sys2Proof.Machine.execImageVerify image s
  | .bootctlWrite v => Sys2Proof.Machine.execBootctlWrite v s
  | .getVersion key => Sys2Proof.Machine.execGetVersion key s
  | .getCapabilities key => Sys2Proof.Machine.execGetCapabilities key s
  | .negotiateAlgorithms key ok => Sys2Proof.Machine.execNegotiateAlgorithms key ok s
  | .getDigests key => Sys2Proof.Machine.execGetDigests key s
  | .getCertificate key slot => Sys2Proof.Machine.execGetCertificate key slot s
  | .challenge key slot nonce => Sys2Proof.Machine.execChallenge key slot nonce s
  | .getMeasurements key index => Sys2Proof.Machine.execGetMeasurements key index s
  | .keyExchange key m => Sys2Proof.Machine.execKeyExchange key m s
  | .finish key session ok => Sys2Proof.Machine.execFinish key session ok s
  | .endSession key session => Sys2Proof.Machine.execEndSession key session s
  | .keyRelease key session m => Sys2Proof.Machine.execKeyRelease key session m s
  | .unsupportedRequest key code => Sys2Proof.Machine.execUnsupportedRequest key code s
  | .powerThrottle l => Sys2Proof.Machine.execPowerThrottle l s
  | .mgmtRegisterWrite offset v by_ => Sys2Proof.Machine.execMgmtRegisterWrite offset v by_ s
  | .illegalWord word kind => Sys2Proof.Machine.execIllegalWord word kind s
  | .pcieMsiVector n => Sys2Proof.Machine.execPcieMsiVector n s
  | .boardFibreLoss grp => Sys2Proof.Machine.execBoardFibreLoss grp s
  | .frameCheckFail grp f => Sys2Proof.Machine.execFrameCheckFail grp f s
  | .checkpointComplete task => Sys2Proof.Machine.execCheckpointComplete task s
  | .imageSectionComplete id => Sys2Proof.Machine.execImageSectionComplete id s
  | .pushGrant id k pos => Sys2Proof.Machine.execPushGrant id k pos s
  | .hostTrapWithdraw hart cause => Sys2Proof.Machine.execHostTrapWithdraw hart cause s
  | .hostHartAccess hart pa acc => Sys2Proof.Machine.execHostHartAccess hart pa acc s
  | .leasemaxRequeueWait task => Sys2Proof.Machine.execLeasemaxRequeueWait task s

end Sys2Proof.Machine
end

