-- ==== Sys2Proof/Machine/Agenda.lean ====
section
/-!
DEFINITION. The operations and events of the agenda run the meanings of the constructors of `Instr` of the same names.
-/
namespace Sys2Proof.Machine

/-- The meaning of an operation or event. -/
def runEvent (e : Event) (s : State) : Host.Outcome State Fault Refusal :=
  match e with
  | .liftPass core slot => execLiftPass core slot s
  | .pipeIdleClock core pipe => execPipeIdleClock core pipe s
  | .loadComplete id reply => execLoadComplete id reply s
  | .storeAccepted id => execStoreAccepted id s
  | .atomicComplete id reply => execAtomicComplete id reply s
  | .holdLineDrain task coreT line => execHoldLineDrain task coreT line s
  | .groupArrivalApply id => execGroupArrivalApply id s
  | .pauseWake core slot seat => execPauseWake core slot seat s
  | .fenceContinue core slot seat => execFenceContinue core slot seat s
  | .mbxTimeout core slot seat => execMbxTimeout core slot seat s
  | .goneMaskSet task coreT => execGoneMaskSet task coreT s
  | .copyComplete id => execCopyComplete id s
  | .promiseMissed id => execPromiseMissed id s
  | .matrixUnitDone id => execMatrixUnitDone id s
  | .tmmaHandover id => execTmmaHandover id s
  | .tmmaComplete id => execTmmaComplete id s
  | .matrixFlagFall id => execMatrixFlagFall id s
  | .tileRowsDone id => execTileRowsDone id s
  | .pageWalk task core va acc => execPageWalk task core va acc s
  | .leaseExpire unit => execLeaseExpire unit s
  | .hubReturnExpired id => execHubReturnExpired id s
  | .sdqtailWrite v => execSdqtailWrite v s
  | .shootdownRequest => execShootdownRequest s
  | .bellSkewDetect r => execBellSkewDetect r s
  | .skewRecovery r => execSkewRecovery r s
  | .translationRenewal id va => execTranslationRenewal id va s
  | .grantRequest m slot va acc => execGrantRequest m slot va acc s
  | .remoteAccessPerform req => execRemoteAccessPerform req s
  | .remoteReplyDeadline id => execRemoteReplyDeadline id s
  | .remoteAckDeadline id => execRemoteAckDeadline id s
  | .savedReplyApply task coreT benchT record reply => execSavedReplyApply task coreT benchT record reply s
  | .carveComplete carve => execCarveComplete carve s
  | .softError e => execSoftError e s
  | .hotnessSample hub die flags pa asn => execHotnessSample hub die flags pa asn s
  | .hotctlWrite hub v => execHotctlWrite hub v s
  | .hottailWrite hub v => execHottailWrite hub v s
  | .pageMigration asn va frame => execPageMigration asn va frame s
  | .icacheInvalidate due asn va len => execIcacheInvalidate due asn va len s
  | .binTimerExpire node => execBinTimerExpire node s
  | .emitStallTimeout core slot seat => execEmitStallTimeout core slot seat s
  | .priorityAging task => execPriorityAging task s
  | .taskAdmit task die => execTaskAdmit task die s
  | .stagingGranuleLand task coreT region granule => execStagingGranuleLand task coreT region granule s
  | .stagingPageFault task va sub => execStagingPageFault task va sub s
  | .taskDispatch task => execTaskDispatch task s
  | .deanPreempt task => execDeanPreempt task s
  | .taskRetire task => execTaskRetire task s
  | .taskRetireRelease task => execTaskRetireRelease task s
  | .taskAbort task cause => execTaskAbort task cause s
  | .pagerResident task => execPagerResident task s
  | .implicitCheckpoint task bin => execImplicitCheckpoint task bin s
  | .timetableIdleAdvance core pipe => execTimetableIdleAdvance core pipe s
  | .teamHalt task why => execTeamHalt task why s
  | .parkBlockedTask task => execParkBlockedTask task s
  | .parkedDelivery task coreT benchT seat d => execParkedDelivery task coreT benchT seat d s
  | .saveRunOpen core slot => execSaveRunOpen core slot s
  | .restoreRunOpen core slot => execRestoreRunOpen core slot s
  | .faultRunOpen core => execFaultRunOpen core s
  | .faultDisposition task w0 => execFaultDisposition task w0 s
  | .featChangeRetest task => execFeatChangeRetest task s
  | .machineCheck sub core task aux => execMachineCheck sub core task aux s
  | .pushReserve req => execPushReserve req s
  | .pushPublish buf k => execPushPublish buf k s
  | .pushReply id v => execPushReply id v s
  | .pushReplyDeadline id => execPushReplyDeadline id s
  | .pushSlotTimeout buf k => execPushSlotTimeout buf k s
  | .sretPerform id => execSretPerform id s
  | .markReplicaArrive src mark path n => execMarkReplicaArrive src mark path n s
  | .markDone id => execMarkDone id s
  | .markTimeout id => execMarkTimeout id s
  | .linkFail lib => execLinkFail lib s
  | .linkRetrainDone lib => execLinkRetrainDone lib s
  | .pathSetChange target => execPathSetChange target s
  | .libraryReport lib id r => execLibraryReport lib id r s
  | .remoteRefusal id ns => execRemoteRefusal id ns s
  | .pathSilenceTimeout target lib => execPathSilenceTimeout target lib s
  | .pathProbe target lib answered => execPathProbe target lib answered s
  | .noPathTimeout target => execNoPathTimeout target s
  | .poolLinkTimeout id => execPoolLinkTimeout id s
  | .libraryAtomCombine reqs => execLibraryAtomCombine reqs s
  | .poolsegWrite seg v => execPoolsegWrite seg v s
  | .poolsegUnmapDone seg => execPoolsegUnmapDone seg s
  | .hallPassReceive grp => execHallPassReceive grp s
  | .programPost grp f => execProgramPost grp f s
  | .passFrame grp f => execPassFrame grp f s
  | .hallPassRegenerate grp => execHallPassRegenerate grp s
  | .membership grp m => execMembership grp m s
  | .bgctlWrite v => execBgctlWrite v s
  | .bellBeaconSend => execBellBeaconSend s
  | .bellBeacon grp f => execBellBeacon grp f s
  | .bellUnlock => execBellUnlock s
  | .revocationNotice via slot base len num => execRevocationNotice via slot base len num s
  | .revocationAck src num => execRevocationAck src num s
  | .revocationFence src num => execRevocationFence src num s
  | .eraserSweep => execEraserSweep s
  | .revocationComplete num => execRevocationComplete num s
  | .destroyComplete type num => execDestroyComplete type num s
  | .create req => execCreate req s
  | .mint req => execMint req s
  | .destroy req => execDestroy req s
  | .revoke req => execRevoke req s
  | .memcap req => execMemcap req s
  | .bind req => execBind req s
  | .unbind req => execUnbind req s
  | .carve req => execCarve req s
  | .carvecap req => execCarvecap req s
  | .heap req => execHeap req s
  | .inject req => execInject req s
  | .emitcap req => execEmitcap req s
  | .exportSpace req => execExportSpace req s
  | .admitCap req => execAdmitCap req s
  | .preemptPark req => execPreemptPark req s
  | .preemptRelease req => execPreemptRelease req s
  | .ringDoneWrite ring done => execRingDoneWrite ring done s
  | .serviceAlloc ring => execServiceAlloc ring s
  | .packageReset => execPackageReset s
  | .bootClaim grp m => execBootClaim grp m s
  | .bootReady grp m hash lib leasemax => execBootReady grp m hash lib leasemax s
  | .bootTimeout grp m => execBootTimeout grp m s
  | .bootTimerExpire => execBootTimerExpire s
  | .imageVerify image => execImageVerify image s
  | .bootctlWrite v => execBootctlWrite v s
  | .getVersion key => execGetVersion key s
  | .getCapabilities key => execGetCapabilities key s
  | .negotiateAlgorithms key ok => execNegotiateAlgorithms key ok s
  | .getDigests key => execGetDigests key s
  | .getCertificate key slot => execGetCertificate key slot s
  | .challenge key slot nonce => execChallenge key slot nonce s
  | .getMeasurements key index => execGetMeasurements key index s
  | .keyExchange key m => execKeyExchange key m s
  | .finish key session ok => execFinish key session ok s
  | .endSession key session => execEndSession key session s
  | .keyRelease key session m => execKeyRelease key session m s
  | .unsupportedRequest key code => execUnsupportedRequest key code s
  | .powerThrottle l => execPowerThrottle l s
  | .mgmtRegisterWrite offset v by_ => execMgmtRegisterWrite offset v by_ s
  | .illegalWord word kind => execIllegalWord word kind s
  | .pcieMsiVector n => execPcieMsiVector n s
  | .boardFibreLoss grp => execBoardFibreLoss grp s
  | .frameCheckFail grp f => execFrameCheckFail grp f s
  | .checkpointComplete task => execCheckpointComplete task s
  | .imageSectionComplete id => execImageSectionComplete id s
  | .pushGrant id k pos => execPushGrant id k pos s
  | .hostTrapWithdraw hart cause => execHostTrapWithdraw hart cause s
  | .hostHartAccess hart pa acc => execHostHartAccess hart pa acc s
  | .leasemaxRequeueWait task => execLeasemaxRequeueWait task s

end Sys2Proof.Machine
end

