-- ==== Sys2Proof/Machine/Ready.lean ====
section
/-!
DEFINITION. Which events can happen next: those that the state itself makes due, and those of the agenda whose condition holds.
-/
namespace Sys2Proof.Machine

/-- An event, where its condition holds. -/
def when (c : Bool) (e : Event) : List Event := if c then [e] else []
/-- Has the bell reached a time? -/
def reached (s : State) (u : Word) : Bool := decide (u.toNat ≤ s.bell.toNat)

/-! ## Instructions in flight -/

/-- Have the window granules of a copy's rows and of its index list landed (R151, R209)? -/
def copyLanded (s : State) (f : Flight) (c : CopyCmd) : Bool :=
  rowsLanded s f (srcRows c ++ dstRows c ++ if cpIndexed c then [(Int.ofNat (cpIndex c), 4 * cpY c)] else [])
/-- Has the task's hold room for the lines that a copy writes (R310)? -/
def copyRoom (s : State) (f : Flight) (c : CopyCmd) : Bool :=
  let t := flightTask s f
  let lines := if hasPerm c.dst .remote then [] else
    ((copyTargets s f c).flatMap fun r => if r.1 < Int.ofNat windowEnd then [] else linesOf r.1.toNat r.2).eraseDups
  let fresh := lines.filter fun l => !(takenLines s t).contains l
  fresh.isEmpty || decide (takenSize s t + 64 * fresh.length ≤ 2 ^ (taskNode s t).holdLog)
/-- What a copy can do next (R178, R181, R310). One that lacks room in the hold waits for an implicit checkpoint, and is drained
into the hold that this publishes (R183, R311). -/
def copyEvents (s : State) (f : Flight) (c : CopyCmd) : List Event :=
  let go := ((c.stage == 0 && storesBefore s f) || (c.stage == 1 && decide (c.want ≤ c.got.length))) && copyLanded s f c
  let room := ckptPending (flightTask s f) || copyRoom s f c
  when (go && room) (.copyComplete f.id) ++
  when (go && !room) (.implicitCheckpoint f.task false)
/-- Has the save of a flight's bench begun, or is its team not yet restored? -/
def benchAway (s : State) (f : Flight) : Bool :=
  let t := flightTask s f
  match t.phase with
  | .halted _ => (haltReasons t).any (· != HaltWhy.checkpoint) && !((getCore s f.core).saveQ.contains f.slot)
  | .restoring => true
  | _ => false
/-- What a halted bench has issued continues (R377). From the save of the bench on, and until its team is restored, what a save does not
wait for stands still: it goes with the task (R304, R371, R392) and goes on in its image or when the team runs. A checkpoint waits for
remote stores (R202). -/
def frozen (s : State) (f : Flight) : Bool :=
  benchAway s f && match f.kind with
  | .image _ _ _ => false
  | .remoteStore _ _ => !ckptPending (flightTask s f)
  | _ => !savingWaits s 0 f
/-- Is a return the first of its pass that is not performed (R411)? -/
def firstReturn (s : State) (f : Flight) : Bool :=
  !(s.flights.any fun g => g.mate == f.mate && decide (g.id < f.id) && match g.kind with
    | .sret _ _ false _ => true
    | _ => false)
/-- What an instruction in flight can do next. -/
def flightEvents (s : State) (f : Flight) : List Event :=
  if frozen s f then [] else
  let late := reached s f.deadline
  let some_ := !(readyItems s f).isEmpty
  match f.kind with
  | .load _ _ false => [.loadComplete f.id []]
  | .load _ _ true => [.atomicComplete f.id []]
  | .stagedLoad _ _ _ => when some_ (.loadComplete f.id [])
  | .store => [.storeAccepted f.id]
  | .stagedStore _ => when some_ (.storeAccepted f.id)
  | .stagedAtom _ _ _ _ _ _ => when some_ (.atomicComplete f.id [])
  | .stagedRows _ _ _ _ => when some_ (.tileRowsDone f.id)
  | .remoteLoad _ _ _ _ => when late (.remoteReplyDeadline f.id)
  | .remoteStore _ _ => when late (.remoteAckDeadline f.id)
  | .arrival th _ _ b => when (accessesBefore s f.core f.slot th.seat f.id b) (.groupArrivalApply f.id)
  | .copy c => copyEvents s f c
  | .matrix false => [.matrixUnitDone f.id]
  | .matrix true => [.matrixFlagFall f.id]
  | .tileRows => [.tileRowsDone f.id]
  | .tmma c => when (!c.started && handoverOk s f c) (.tmmaHandover f.id) ++ when c.started (.tmmaComplete f.id)
  | .image restore sec _ => when (imageReady s f restore sec) (.imageSectionComplete f.id)
  | .push _ _ _ slot _ _ _ => when (slot.isSome && late) (.pushReplyDeadline f.id)
  | .sret c _ sent b => when (!sent && accessesBefore s f.core f.slot (lowestSeat f.seats) f.id b && firstReturn s f) (.sretPerform f.id) ++
    when (hasPerm c .remote && late) (.remoteAckDeadline f.id)
  | .mark _ _ _ _ _ => when late (.markTimeout f.id)
  | .notify _ _ b => when (accessesBefore s f.core f.slot (lowestSeat f.seats) f.id b) (.groupArrivalApply f.id)
  | .reply _ _ b => when (accessesBefore s f.core f.slot (lowestSeat f.seats) f.id b) (.groupArrivalApply f.id)

/-! ## Cores and benches -/

/-- Does a blocked `emit` lack only room in the hold (R288, R310)? -/
def emitNoRoom (s : State) (task : Word) (g e : Nat) : Bool :=
  match (graphOf s g).edges[e]?, findTask s task with
  | some x, some t => decide (0 < binFree s g x.2.1) && decide (2 ^ (taskNode s t).holdLog < takenSize s t + (binNode s g x.2.1).recSize)
  | _, _ => false
/-- What a blocked seat of a running bench can do next (R98, R117, R291, R310). -/
def seatEvents (s : State) (core slot k : Nat) (x : Seat) : List Event :=
  match x.state with
  | .blocked (.pause u) => when (reached s u) (.pauseWake core slot k)
  | .blocked (.fence _ o) => when (fenceMet s core slot k o) (.fenceContinue core slot k)
  | .blocked (.emit g e _ since _) =>
    when (decide (since.toNat + 20000 ≤ s.bell.toNat)) (.emitStallTimeout core slot k) ++
    when (emitNoRoom s (getBench s core slot).task g e) (.implicitCheckpoint (getBench s core slot).task false)
  | _ => []
/-- What a bench can do next apart from its passes. -/
def benchEvents (s : State) (core slot : Nat) (b : Bench) : List Event :=
  if b.mode ≠ .running then []
  else
    ((List.range 32).flatMap fun k => seatEvents s core slot k (getSeat b k)) ++
    match planBench s core slot with
    | .room => [.implicitCheckpoint b.task false]
    | _ => []
/-- What the pipes of a core can do next without a pass (R127). -/
def pipeEvents (s : State) (core : Nat) (c : Core) : List Event :=
  let ps := ((c.benches.filter fun e => decide (e.1 < 64) && e.2.mode == .running).map fun e => e.1 / 2).eraseDups
  ps.flatMap fun p =>
    when ((pipeNext s core p).isNone) (.pipeIdleClock core p)
/-- The runs that a core's monitor bench can open (R366, R380, R382). -/
def runEvents (s : State) (core : Nat) (c : Core) : List Event :=
  when (runFree s core && (faultReady s core).isSome) (.faultRunOpen core) ++
  c.saveQ.flatMap (fun k => when (saveReady s core k) (.saveRunOpen core k)) ++
  c.restoreQ.flatMap fun k => when (restoreReady s core k) (.restoreRunOpen core k)
def coreEvents (s : State) (core : Nat) (c : Core) : List Event :=
  (c.benches.flatMap fun e => benchEvents s core e.1 e.2) ++ pipeEvents s core c ++ runEvents s core c ++
    when (c.tlb.any fun e => reached s e.expiry) (.leaseExpire (.core core))
/-- Expired entries of a die (R229). -/
def dieEvents (s : State) (d : Nat) : List Event :=
  when ((((lookupKey s.dieTlb d).getD []).any fun e => reached s e.expiry) ||
    (((lookupKey s.walkCache d).getD []).any fun e => reached s e.expiry) ||
    ((lookupKey s.grantCache d).getD []).any fun g => g.expiry.any (reached s)) (.leaseExpire (.die d))

/-! ## The Dean -/

/-- Is the task the one for which the Dean would pre-empt: starved, the oldest of its class, with victims that help (R295)? -/
def preemptDue (s : State) (t : Task) : Bool :=
  inPool t && starved s t &&
    (s.tasks.all fun x => !inPool x || effClass s x != effClass s t || decide (t.readySeq ≤ x.readySeq)) &&
    (List.range Config.dies).any fun d => (enoughVictims t d (afterHalts s) (victims s d (effClass s t))).isSome
/-- Records of a saved task's images whose deadline has passed (R396). -/
def lateRecords (s : State) (t : Task) : List Event :=
  if !t.saved then []
  else
    let n := taskNode s t
    (List.range n.team).flatMap fun c => (List.range n.benches).flatMap fun b =>
      let o := t.saveBase.toNat + imgPlace n c b + imgSecOff n.rows n.capRows (imgAcc n b) 7
      (List.range (physValue s o 8)).flatMap fun k =>
        let a := pendAt s t c b k
        when (physValue s a 1 != 3 && pendWaiting s t c b a != 0 && decide (physValue s (a + 0x10) 8 ≤ s.bell.toNat))
          (.savedReplyApply t.id c b k [])
/-- Remote stores and returns of a saved task whose deadline has passed (R401). -/
def lateAcks (s : State) (t : Task) : List Event :=
  t.savedFlights.flatMap fun e =>
    match e.2.kind with
    | .remoteStore _ _ => when (reached s e.2.deadline) (.remoteAckDeadline e.2.id)
    | .sret c _ _ _ => when (hasPerm c .remote && reached s e.2.deadline) (.remoteAckDeadline e.2.id)
    | _ => []
/-- Granules that can land (R151). -/
def landEvents (s : State) (t : Task) : List Event :=
  (List.range t.cores.length).flatMap fun k =>
    (taskCore t k).staging.flatMap fun e =>
      (e.waiting.filter fun g => !stageAsked s t.id k e.region g false).map fun g => .stagingGranuleLand t.id k e.region g
/-- Lines that can leave a core part (R189). -/
def drainEvents (t : Task) : List Event :=
  (List.range t.cores.length).flatMap fun k => (taskCore t k).hold.map fun l => .holdLineDrain t.id k l.line
/-- What can happen next to a task. -/
def taskEvents (s : State) (t : Task) : List Event :=
  let wait := fun (c : ParkCond) => match c with
    | .leasemax u => reached s u
    | _ => false
  when (inPool t && !imagesWaiting s t && !featPlaceable s t) (.taskAdmit t.id 0) ++
  when (inPool t && t.poolTime.toNat < 1000000 && decide (t.since.toNat + 1000000 ≤ s.bell.toNat)) (.priorityAging t.id) ++
  when (preemptDue s t) (.deanPreempt t.id) ++
  when (t.conds.contains .placement && featPlaceable s t) (.featChangeRetest t.id) ++
  when (t.conds.any wait) (.leasemaxRequeueWait t.id) ++
  landEvents s t ++ drainEvents t ++
  when (dispatchDue s t) (.taskDispatch t.id) ++
  when (retireDue s t) (.taskRetire t.id) ++
  when (t.phase == .storing && !t.conds.contains .page && s.stageReqs.all fun x => x.task != t.id || !x.store || !x.sent) (.taskRetireRelease t.id) ++
  ((List.range t.cores.length).flatMap fun k =>
    when (t.phase == .running && coreExited s t k && !(t.cores.all fun c => c.gone.getLsbD k)) (.goneMaskSet t.id k)) ++
  when (t.phase == .running && !t.ckptSeats.isEmpty) (.teamHalt t.id .checkpoint) ++
  when (ckptPending t && ckptClear s t) (.checkpointComplete t.id) ++
  when (endpointBlocked s t && t.blockedSince != 0 && decide (t.blockedSince.toNat + 4000 ≤ s.bell.toNat))
    (.parkBlockedTask t.id) ++
  lateRecords s t ++ lateAcks s t
/-- Bins whose timer has run out (R290). A delivery at the bell of the timer comes before it. -/
def binsDue (s : State) (g : GraphObj) : List (Nat × Event) :=
  g.bins.filterMap fun e =>
    match e.2.timer with
    | some u => if decide (u.toNat < s.bell.toNat) && !e.2.delivered.isEmpty then some (u.toNat, .binTimerExpire (nth g.nodes e.1 0))
      else none
    | none => none

/-! ## Objects, revocation, memory management -/

/-- What can happen next at an object: the allocation service's next request. -/
def objEvents (s : State) (o : Obj) : List Event :=
  match o.data with
  | .ring _ _ base _ _ _ =>
    when ((s.pools.any fun p => p.rings.contains o.num) && ringDone s base != ringReq s base) (.serviceAlloc o.num)
  | _ => []
/-- How a revocation, or a destruction, can go on (R362 to R365). -/
def revokeEvents (s : State) (r : Revocation) : List Event :=
  (if reached s r.deadline then r.waitFor.map fun p => Event.revocationFence p r.num else []) ++
  if !revokeDone s r then []
  else
    match r.target, r.origin with
    | some (type, num), _ => [.destroyComplete type num]
    | none, none => [.revocationComplete r.num]
    | none, some _ => []
/-- The Eraser, shootdowns, pool segments. -/
def hubEvents (s : State) : List Event :=
  when (s.sweepStep != 0 || s.quarantine.any fun r => !r.joined) .eraserSweep ++
  s.quarantine.flatMap (revokeEvents s) ++
  when (s.mgmt.sdqdone != s.mgmt.sdqtail) .shootdownRequest ++
  s.mgmt.poolUnmapping.map .poolsegUnmapDone

/-! ## Fabric and board -/

/-- What can happen next on the paths to a target (R426, R430). A path whose request has had no answer for 10 µs may fail: whether a
library has fallen silent the outside decides. -/
def pathEvents (s : State) (p : PathSet) : List Event :=
  when (noPathDue s p.target && ((pathWaiters s p.target).any fun w => (findFlight s w.1).isSome || (savedFlight s w.1).isSome || (stageReqOf s w.1).isSome)) (.noPathTimeout p.target) ++
  (match p.refusing with
   | some u => when (reached s u) (.pathSetChange p.target)
   | none => []) ++
  when (s.flights.any fun f => match f.kind with
    | .mark _ t 0 _ bs => t == p.target && markFree s f t bs
    | _ => false) (.pathSetChange p.target) ++
  (p.failed.filter (probeDue s p)).map (fun l => .pathProbe p.target l false) ++
  (p.libs.filter (pathSilent s p.target)).map fun l => .pathSilenceTimeout p.target l
/-- What can happen next at the slot buffer with an index (R406, R408). -/
def bufEvents (s : State) (i : Nat) (b : PushBuf) : List Event :=
  b.slots.flatMap fun x =>
    when (!x.complete && x.missing.isEmpty) (.pushPublish i x.k) ++
    when (!x.complete && reached s x.deadline) (.pushSlotTimeout i x.k)
/-- What can happen next on a board group (R433, R437). -/
def groupEvents (s : State) (k : Nat) (g : BoardGroup) : List Event :=
  when (g.isMember && g.holds && g.queue.all fun q => q.sent.isNone) (.hallPassReceive k) ++
  when (g.isMember && decide (g.lastHeard.toNat + silenceBound g ≤ s.bell.toNat)) (.hallPassRegenerate k)
/-- Beacons and the bell's lock (R438). -/
def bellEvents (s : State) : List Event :=
  when (s.lock.locked && (s.board.any fun e => sendsBeacon s e.2) && decide (s.lock.lastSent.toNat + 10000 ≤ s.bell.toNat))
    .bellBeaconSend ++
  when (s.lock.locked && s.lock.stratum != 0 &&
    (decide (s.lock.lastBeacon.toNat + 100000 ≤ s.bell.toNat) || decide (150 < s.lock.offset.natAbs))) .bellUnlock
def fabricEvents (s : State) : List Event :=
  s.paths.flatMap (pathEvents s) ++
  (s.poolWaits.filter fun w => reached s w.limit).map (fun w => .poolLinkTimeout w.id) ++
  ((List.range s.pushBufs.length).flatMap fun i => match s.pushBufs[i]? with
    | some b => bufEvents s i b
    | none => []) ++
  (s.marksIn.filter fun m => decide (m.n ≤ m.arrived.length) && aheadDone s m.src m.num).map
    (fun m => .markReplicaArrive m.src m.num (m.arrived.headD 0) m.n) ++
  (s.board.flatMap fun e => groupEvents s e.1 e.2) ++ bellEvents s

/-! ## Bring-up -/

/-- The boot ROM runs at once; a candidate claims, the leader that has written the image is ready, an image copied whole is checked; the
timer of a load runs out (R440 to R446). -/
def bootEvents (s : State) : List Event :=
  let k := ((electionGroup s).map (·.1)).getD 0
  when (s.boot.state == .rom) .packageReset ++ when (claimDue s) (.bootClaim k .send) ++ when (readyDue s) (.bootReady k .send 0 0 0) ++
  when (s.boot.state == .verify) (.imageVerify []) ++
  match s.boot.timer with
  | some u => when (reached s u) .bootTimerExpire
  | none => []

/-! ## The agenda -/

/-- Does the graph that an operation names wait for the end of a PARK (R378)? -/
def parkingHolds (s : State) (r : RegReq) : Bool :=
  capSeal r.cap == 967 && (graphOf s (capNum r.cap)).parking.isSome
/-- May a PARK be taken or answered (R378)? -/
def parkReady (s : State) (r : RegReq) : Bool :=
  let g := capNum r.cap
  match (graphOf s g).parking with
  | some (q, ids) => q == r && !ids.any (onCore s)
  | none => s.tasks.all fun t => !(t.graph == g && t.phase == .restoring)
/-- The Registrar request that an event takes up. -/
def regReqOf : Event → Option RegReq
  | .create r | .mint r | .destroy r | .revoke r | .memcap r | .bind r | .unbind r | .carve r | .carvecap r | .heap r | .inject r
  | .emitcap r | .exportSpace r | .admitCap r | .preemptPark r | .preemptRelease r => some r
  | _ => none
/-- The places in a type's block of the capabilities that name objects (R352). -/
def blockObjs (type : Nat) : List Nat :=
  match type with
  | 962 => [0x10, 0x20, 0x30, 0x40]
  | 967 => [0x10, 0x20, 0x40]
  | 968 => [0x140]
  | 961 | 966 | 969 | 971 | 973 => [0x10]
  | _ => []
/-- The objects that an operation names, in its capability and in its block: type and number (R351). -/
def objectsOf (s : State) (e : Event) : List (Nat × Nat) :=
  let name := fun (c : Cap) => if c.tag then some (capSeal c, capNum c) else none
  match e with
  | .keyRelease key _ _ => [(970, key)]
  | .create r =>
    let type := r.w1.toNat
    let b := (readBlock s r.who r.w2.toNat (blockSize type)).getD []
    (name r.cap).toList ++ (blockObjs type).filterMap fun o => name (blkCap b o)
  | e => match regReqOf e with
    | some r => (name r.cap).toList
    | none => []
/-- Is an operation the first accepted of those that name any of its objects (R351)? -/
def firstNaming (s : State) (e : Event) : Bool :=
  (objectsOf s e).all fun o => (s.agenda.find? fun x => (objectsOf s x).contains o) == some e
/-- The bytes of the parameter block that an operation reads (R350). -/
def blockNeed (s : State) : Event → Nat
  | .create r => blockSize r.w1.toNat
  | .inject r => (binNode s (capNum r.cap) r.w1.toNat).recSize
  | _ => 0
/-- May a Registrar operation be performed (R349, R351, R378)? -/
def regReady (s : State) (e : Event) (r : RegReq) : Bool :=
  match e with
  | .preemptPark r => if parkingHolds s r then parkReady s r else firstNaming s e && parkReady s r
  | _ => !parkingHolds s r && firstNaming s e && !blockWaits s r.who r.w2.toNat (blockNeed s e)
/-- The hub of a carve object. -/
def carveHub (s : State) (n : Nat) : Option Nat :=
  match findObj s 969 n with
  | some { data := .carve hub _ _ _ _ _, .. } => some hub
  | _ => none
/-- Is a carve change the first of its hub in the agenda (R240)? -/
def firstCarve (s : State) (n : Nat) : Bool :=
  (s.agenda.findSome? fun e => match e with
    | .carveComplete m => if carveHub s m == carveHub s n then some m else none
    | _ => none) == some n
/-- What an event brings from another package: who sends it, and the export slot and address that it names. -/
def arrivals : Event → List (Nat × Nat × Word)
  | .remoteAccessPerform r => [(r.src, r.slot, r.va)]
  | .libraryAtomCombine rs => rs.map fun r => (r.src, r.slot, r.va)
  | .pushReserve r => [(r.src, r.slot, r.va)]
  | _ => []
def sameLine (a b : Nat × Nat × Word) : Bool := a.1 == b.1 && a.2.1 == b.2.1 && a.2.2.toNat / 64 == b.2.2.toNat / 64
/-- The events of the agenda before one. -/
def aheadOf (s : State) (e : Event) : List Event := s.agenda.takeWhile (· != e)
/-- May an access of another package arrive: none of its package to its line comes before it (R213)? -/
def accessArrives (s : State) (e : Event) : Bool :=
  (arrivals e).all fun a => (aheadOf s e).all fun x => (arrivals x).all fun b => !sameLine a b
/-- Does a replica arrive: what comes before it on its path has been performed (R429)? -/
def replicaArrives (s : State) (e : Event) (src path n : Nat) : Bool :=
  (aheadOf s e).all fun x =>
    (arrivals x).all (fun b => !(b.1 == src && pathHash b.2.2 % n == path)) &&
      match x with
      | .markReplicaArrive src' _ path' _ => !(src' == src && path' == path)
      | _ => true
/-- May a mark complete: each replica has been sent and none must be sent again, no earlier mark to its target is under way, and
no earlier request of its seats waits unsent and no earlier push ungranted (R412, R429)? -/
def markReady (s : State) (id : Nat) : Bool :=
  match findFlight s id with
  | some f =>
    match f.kind with
    | .mark _ pkg n ps _ => n != 0 && (ps.all fun p => !p.again) && s.flights.all fun g =>
        match g.kind with
        | .mark _ q _ _ _ => q != pkg || decide (id ≤ g.id)
        | .push _ q _ none _ _ _ => q != pkg || decide (id ≤ g.id) || g.core != f.core || g.slot != f.slot || g.seats &&& f.seats == 0
        | _ => !(g.core == f.core && g.slot == f.slot && decide (g.id < id) && g.seats &&& f.seats != 0 &&
            s.remote.any fun o => o.flight == g.id && o.target == pkg && o.lib.isNone)
    | _ => true
  | none => true
/-- Does a hart execute: released, and not waiting in an endpoint instruction (R357)? -/
def hartRuns (s : State) (h : Nat) : Bool := (getHart s h).released && (getHart s h).wait == .none
/-- The next access of a hart in the agenda: they happen in program order (R217). -/
def nextAccess (s : State) (h : Nat) : Option Event :=
  s.agenda.find? fun e => match e with
    | .hostHartAccess k _ _ => k == h
    | _ => false
/-- May a hart's access happen now (R217, R218)? Before an atomic, a fence, an access to the management space and a read of a ring's
control block its earlier stores have been performed; a load of memory goes before them. -/
def accessReady (s : State) (h pa : Nat) (acc : HostAcc) : Bool :=
  hartRuns s h && nextAccess s h == some (.hostHartAccess h pa acc) && match acc with
    | .load _ _ _ => (getHart s h).stores.isEmpty || !(isRegSpace pa || (ringAt s pa).isSome)
    | .store _ _ => true
    | .time _ => true
    | .own _ _ _ _ => true
    | _ => (getHart s h).stores.isEmpty
/-- Stores of harts that can be performed (R217). -/
def hartEvents (s : State) : List Event :=
  s.harts.filterMap fun e => if e.2.stores.isEmpty then none else some (.hostHartAccess e.1 0 .drain)
/-- Does an instruction in flight stand still? -/
def stands (s : State) (id : Nat) : Bool :=
  match findFlight s id with
  | some f => frozen s f
  | none => false
/-- May an event of the agenda happen now? -/
def eventReady (s : State) (e : Event) : Bool :=
  match e with
  | .loadComplete id _ => !stands s id
  | .storeAccepted id => !stands s id
  | .atomicComplete id _ => !stands s id
  | .pushReply id _ => !stands s id
  | .pushGrant id _ _ => grantTaken s id
  | .icacheInvalidate due _ _ _ => reached s due
  | .carveComplete n => firstCarve s n
  | .remoteAccessPerform _ => accessArrives s e
  | .libraryAtomCombine rs => accessArrives s e && !rs.any (behindMark s)
  | .pushReserve r => accessArrives s e && !markHolds s r.src r.behind
  | .markReplicaArrive src _ path n => replicaArrives s e src path n
  | .markDone id => markReady s id && !stands s id
  | .hostHartAccess h pa acc => accessReady s h pa acc
  | .keyRelease _ _ _ => firstNaming s e
  | e => (regReqOf e).all (regReady s e)

/-! ## What comes before everything else -/

/-- An event with the time since which it has been due. -/
abbrev Due := Nat × Event
/-- The pointers of a core's pipes that 32 clocks without a beginning clause move on (R314). -/
def pointersDue (core : Nat) (c : Core) : List Due :=
  (c.ttIdle.filter fun e => decide (32 ≤ e.2)).map fun e => (0, .timetableIdleAdvance core e.1)
/-- The mailbox waiters of a running bench whose timeout has passed (R160). What else happens at the bell of the timeout comes
before it (R161). A `pause` that has ended has let its seat go on within 64 clocks, 91 ns (R98). -/
def timeoutsDue (s : State) (core slot : Nat) (b : Bench) : List Due :=
  if b.mode ≠ .running ∨ !b.timers then []
  else (List.range 32).filterMap fun k =>
    match (getSeat b k).state with
    | .blocked (.pause u) => if u.toNat + 91 < s.bell.toNat then some (u.toNat + 91, .pauseWake core slot k) else none
    | .blocked (.mbr _ _ left) => if left < s.bell.toNat then some (left, .mbxTimeout core slot k) else none
    | .blocked (.mbw _ _ left) => if left < s.bell.toNat then some (left, .mbxTimeout core slot k) else none
    | _ => none
/-- The time since which a deadline has passed, where it has. -/
def passed (s : State) (u : Nat) (e : Event) : List Due := if u < s.bell.toNat then [(u, e)] else []
/-- What is past its time at an instruction in flight: promises (R181), answers of other packages, of which a later one is discarded (R395,
R401, R407, R412), and the held accesses of a restart, which come before its team's first pass (R309). -/
def flightDue (s : State) (f : Flight) : List Due :=
  let again := fun (e : Event) => if f.deadline = 1 ∧ readyItems s f ≠ [] then [(0, e)] else []
  if frozen s f then []
  else
    match f.kind with
    | .copy c => match c.deadline with
      | some d => passed s d.toNat (.promiseMissed f.id)
      | none => []
    | .remoteLoad _ _ _ _ => passed s f.deadline.toNat (.remoteReplyDeadline f.id)
    | .remoteStore _ _ => passed s f.deadline.toNat (.remoteAckDeadline f.id)
    | .sret c _ _ _ => if hasPerm c .remote then passed s f.deadline.toNat (.remoteAckDeadline f.id) else []
    | .push _ _ _ (some _) _ _ _ => passed s f.deadline.toNat (.pushReplyDeadline f.id)
    | .mark _ _ _ _ _ => passed s f.deadline.toNat (.markTimeout f.id)
    | .stagedLoad _ _ _ => again (.loadComplete f.id [])
    | .stagedStore _ => again (.storeAccepted f.id)
    | .stagedAtom _ _ _ _ _ _ => again (.atomicComplete f.id [])
    | .stagedRows _ _ _ _ => again (.tileRowsDone f.id)
    | _ => []
/-- What is past its time in the images of a saved task (R396, R401). -/
def savedDue (s : State) (t : Task) : List Due :=
  if t.savedFlights.isEmpty then [] else (lateRecords s t ++ lateAcks s t).map fun e => (0, e)
/-- What is past its time, so that nothing else can come before it: pointers of pipes (R314), pauses (R98), timeouts of mailboxes (R160)
and bins (R290), deadlines of instructions in flight, and lines that an instruction cache no longer may hold (R358). -/
def overdue (s : State) : List Due :=
  s.flights.flatMap (flightDue s) ++ s.tasks.flatMap (savedDue s) ++
  (s.cores.flatMap fun e => pointersDue e.1 e.2 ++ e.2.benches.flatMap fun b => timeoutsDue s e.1 b.1 b.2) ++
  (s.objs.flatMap fun o => match o.data with
    | .graph g => binsDue s g
    | _ => []) ++
  s.agenda.filterMap fun e => match e with
    | .icacheInvalidate due _ _ _ => if reached s due then some (due.toNat, e) else none
    | _ => none
/-- The one that has been due longest. -/
def firstDue (s : State) : Option Event :=
  match overdue s with
  | [] => none
  | d :: ds => some (ds.foldl (fun x y => if y.1 < x.1 then y else x) d).2

/-! ## All of them -/

/-- The events that the state itself makes possible now. -/
def stateEvents (s : State) : List Event :=
  s.flights.flatMap (flightEvents s) ++
  (s.cores.flatMap fun e => coreEvents s e.1 e.2) ++
  (List.range Config.dies).flatMap (dieEvents s) ++
  (nextAdmissions s).map (fun a => .taskAdmit a.1 a.2) ++
  s.tasks.flatMap (taskEvents s) ++
  s.objs.flatMap (objEvents s) ++
  hartEvents s ++ hubEvents s ++ fabricEvents s ++ bootEvents s

end Sys2Proof.Machine
end

