-- ==== Sys2Proof/Machine/Run.lean ====
section
/-!
DEFINITION. One step of the package: a pass of a bench (R127), an instruction of a hart, or an event; then the clock and what
settles at once. And the placing of an instruction where the next step fetches it.
-/
namespace Sys2Proof.Machine

/-- The outcome with its state changed. -/
def onNext (o : Host.Outcome State Fault Refusal) (f : State → State) : Host.Outcome State Fault Refusal :=
  match o with
  | .next s => .next (f s)
  | .fault r => .fault r
  | .refused r => .refused r

/-! ## Passes -/

/-- A pass (R32, R35, R43, R181): it begins, its instruction has its effect, and the lifted set may end. -/
def runPass (s : State) (core slot : Nat) (p : Pass) : Host.Outcome State Fault Refusal :=
  let t := beginPass s core slot p
  match p.kind with
  | .empty => .next (afterPass t core slot true)
  | .form sub w => .next (clauseFormFault t p sub w)
  | .fetch f => .next (fetchFailed t p f)
  | .illegal w k => execIllegalWord (BitVec.ofNat 32 w) k t
  | .instr i => onNext (exec i t) fun u => afterPass u core slot (closesClause i)
  | .missed m => .next (promiseFault t p m)

/-! ## Harts -/

/-- Does a custom-0 instruction wait for the hart's earlier stores? A capability load or store does (R217), and so does what is a release
at dom scope: `hcsend`, `hcxcall`, with it every request to a Registrar, `hcreply` and `hcnotify` (R326, R351, R357). -/
def hartReleases (w : Nat) : Bool :=
  decide (fld w 12 3 < 2) || (fld w 12 3 == 4 && fld w 25 7 != 1 && fld w 25 7 != 5)
/-- Can a hart execute a capability instruction next, or take the fault of a poisoned fetch? Its other instructions, which no row of
the opcode table gives, act on the package through HOST_HART_ACCESS (PRESUMED, log 33). -/
def hartReady (s : State) (h : Nat) : Bool :=
  hartRuns s h && ((fetchPoison s h).isSome || match hartWord s (getHart s h) with
    | some w => isCustom0 w && ((getHart s h).stores.isEmpty || !hartReleases w)
    | none => false)
/-- A hart's instruction; a custom-0 word that is none is illegal. -/
def runHart (s : State) (h : Nat) : Host.Outcome State Fault Refusal :=
  let t := { s with sel := { s.sel with hart := h } }
  match fetchPoison s h with
  | some g => .next (hartFault t 1 (BitVec.ofNat 64 g))
  | none =>
  match decodeHost ((hartWord s (getHart s h)).getD 0) with
  | .ok i => exec i t
  | .error _ => .next (hartIllegal t)

/-! ## Choice -/

/-- What can happen next: the next pass of a pipe, an instruction of a hart, an event that is due, or the k-th event of the
agenda. -/
inductive Act where
  | pass (core slot : Nat) (p : Pass)
  | hart (h : Nat)
  | event (e : Event)
  | agenda (k : Nat)

/-- The passes that the pipes of a core take next (R127); pipes without a bench take none. -/
def corePasses (s : State) (core : Nat) (c : Core) : List Act :=
  let ps := ((c.benches.map fun e => if e.1 = 64 then (borrowed s core).getD 0 else e.1 / 2)).eraseDups
  ps.filterMap fun p => (pipeNext s core p).map fun x => .pass core x.1 x.2
/-- Everything that can happen next. -/
def acts (s : State) : List Act :=
  (s.cores.flatMap fun e => corePasses s e.1 e.2) ++
  ((s.harts.filter fun e => hartReady s e.1).map fun e => .hart e.1) ++
  (stateEvents s).map .event ++
  (List.range s.agenda.length).filterMap fun k =>
    match s.agenda[k]? with
    | some e => if eventReady s e then some (.agenda k) else none
    | none => none
/-- Run the k-th event of the agenda, which leaves it. -/
def runAgenda (s : State) (k : Nat) : Host.Outcome State Fault Refusal :=
  match s.agenda[k]? with
  | some e => runEvent e { s with agenda := s.agenda.eraseIdx k }
  | none => .next s
def runAct (s : State) : Act → Host.Outcome State Fault Refusal
  | .pass core slot p => runPass s core slot p
  | .hart h => runHart s h
  | .event e => runEvent e s
  | .agenda k => runAgenda s k
/-- An event as an act: of the agenda, where it stands there. -/
def actOf (s : State) (e : Event) : Act :=
  match s.agenda.findIdx? fun x => x == e with
  | some k => .agenda k
  | none => .event e
/-- The act that happens: what is past its time; else the only one, or one of several by a free choice. -/
def chooseAct (s : State) : Option Act :=
  match firstDue s with
  | some e => some (actOf s e)
  | none =>
    match acts s with
    | [] => none
    | [a] => some a
    | a :: as => some (nth (a :: as) (Config.pick s.draws % (as.length + 1)) a)

/-! ## What settles at once -/

/-- A seat blocked in `emit` goes on when its bin has a place and the hold has room (R288, R310). -/
def settleEmit (core slot : Nat) (s : State) (k : Nat) : State :=
  match (getSeat (getBench s core slot) k).state with
  | .blocked (.emit g e addr _ pass) =>
    match (graphOf s g).edges[e]?, findTask s (getBench s core slot).task with
    | some x, some t =>
      if 0 < binFree s g x.2.1 ∧ takenSize s t + (binNode s g x.2.1).recSize ≤ 2 ^ (taskNode s t).holdLog then
        goOn (reserveRecord s t.id (coreTOf t core) g x.2.1 addr.toNat pass k) core slot k
      else s
    | _, _ => s
  | _ => s
/-- Is a seat blocked in `emit`? -/
def inEmit (x : Seat) : Bool :=
  match x.state with
  | .blocked (.emit _ _ _ _ _) => true
  | _ => false
def settleEmits (s : State) : State :=
  s.cores.foldl (fun s e => e.2.benches.foldl (fun s b =>
    if b.2.mode == .running && b.2.seats.any inEmit then (List.range 32).foldl (settleEmit e.1 b.1) s else s) s) s
/-- Since when each task has been blocked as R327 says. -/
def noteBlocked (s : State) : State :=
  { s with tasks := s.tasks.map fun t =>
      let u := if endpointBlocked s t then (if t.blockedSince = 0 then s.bell else t.blockedSince) else 0
      { t with blockedSince := u } }
/-- Since when each task of the ready pool has had no die that could take it (R295). -/
def noteStarved (s : State) : State :=
  { s with tasks := s.tasks.map fun t =>
      { t with noDie := if inPool t && (bestDie s t).isNone then some (t.noDie.getD s.bell) else none } }
/-- The clock advances by a free time (R10), slewed as the board asks (R438), and a draw has been made. -/
def tick (s : State) : State :=
  let d := Config.elapsed s.draws
  slewBell { s with bell := s.bell + BitVec.ofNat 64 d, draws := s.draws + 1 } d
/-- Requests that wait go out once they may: releases when what they cover has completed (R208), others when their line is free (R213). -/
def settleSends (s : State) : State := if s.remote.any fun o => o.lib.isNone then sendHeld s else s
/-- The end of a step. -/
def settle (s : State) : State := tick (noteStarved (noteBlocked (settleEmits (finishAborts (settleSends s)))))

/-! ## A step -/

/-- Is the package out of service (R398, R440)? -/
def outOfService (s : State) : Bool := s.stopped || s.boot.state == .failed
/-- The place of a reset in the agenda. -/
def resetIndex (s : State) : Option Nat := s.agenda.findIdx? fun e => e == .packageReset
/-- One step. Out of service, only a reset happens (R440). -/
def stepOnce (s : State) : Host.Outcome State Fault Refusal :=
  if outOfService s then
    match resetIndex s with
    | some k => onNext (runAgenda s k) settle
    | none => .fault .packageStopped
  else
    match chooseAct s with
    | none => .next (settle s)
    | some a => onNext (runAct s a) settle

/-! ## An instruction in place -/

/-- Where a placed instruction stands. -/
def placeAddr : Nat := 0x10000000
/-- A task on bench 0 of core 0 that runs the code there, through a heap path without page tables. -/
def placeTask : Task :=
  { Task.none_ with
    id := 1, graph := 1, phase := .running
    cores := [⟨0, 0, [(0, 0)], 0, List.replicate 8 ⟨0, false, false, 0, false, false, [], []⟩, [], []⟩] }
/-- The objects behind that task: graph 1, node 2, code 3, address space 4, scheduling context 5. -/
def placeObjs : List Obj :=
  [⟨967, 1, 0, 0, false, false, .graph { GraphObj.none_ with nodes := [2], sched := 5 }⟩,
   ⟨968, 2, 0, 0, false, false, .node { NodeObj.none_ with rows := 48, capRows := 16, acc := true, code := 3 }⟩,
   ⟨973, 3, 0, 0, false, false,
     .code { CodeObj.none_ with aspace := 4, feat := 0x3F, text := BitVec.ofNat 64 placeAddr, size := 0x1000 }⟩,
   ⟨962, 4, 0, 0, false, false,
     .aspace { ASpace.none_ with
       hbase := BitVec.ofNat 64 placeAddr, hspan := 0x10000000, hlimit := 0x10000000 }⟩,
   ⟨965, 5, 0, 0, false, false, .sched 0 false 0 []⟩]
/-- Bench 0 with every seat inside a clause at the instruction. -/
def placeBench : Bench :=
  let pc := BitVec.ofNat 64 placeAddr
  { Bench.reset with
    task := 1, mode := .running, rowBudget := 48, capBudget := 16
    code := boundedCap pc 0x20 0 placeAddr (placeAddr + 0x1000) true
    seats := List.replicate 32 { Seat.reset with pc := pc, hdr := pc, hdrWord := 0x07F80001, must := 0, state := .eligible }
    hlimit := 0x10000000 }
/-- The bytes of the instruction in memory, the bits above nbits zero. -/
def placeBytes (s : State) (nbits w : Nat) : State :=
  { s with mem := memStore s.mem placeAddr (wordBytes 32 (w % 2 ^ nbits)) false, boot := { s.boot with state := .run } }
/-- A device instruction in place for bench 0 of core 0. -/
def placeDevice (s : State) : State :=
  { s with
    cores := [(0, { Core.reset with benches := [(0, placeBench)], accTask := some 1, feat := 0x3F })]
    tasks := [placeTask], objs := placeObjs, harts := [], flights := [], agenda := [] }
/-- A host instruction in place for hart 0. -/
def placeHost (s : State) : State :=
  { s with
    cores := [], tasks := [], flights := [], agenda := []
    harts := [(0, { Hart.reset with pc := BitVec.ofNat 64 placeAddr, released := true })] }
/-- A word in place: for a hart where it reads as a host instruction, as `decodeTableWord` reads it. -/
def placeWord (s : State) (nbits w : Nat) : State :=
  match decodeHost (w % 2 ^ nbits) with
  | .ok _ => placeHost (placeBytes s nbits w)
  | .error _ => placeDevice (placeBytes s nbits w)

end Sys2Proof.Machine
end

