-- ==== Sys2Proof/Machine/Step.lean ====
section
/-!
DEFINITION. One step of the machine, and an instruction stored where the next step fetches it.
-/
namespace Sys2Proof.Machine

/-- One step (Machine/Run.lean). -/
def step (s : State) : Host.Outcome State Fault Refusal := stepOnce s

/-- The state with an instruction where the next step fetches it (Machine/Run.lean). A program comes from outside: the Dean
launches a task with code that the owner has placed in memory. -/
def State.withFetchWord (s : State) (nbits w : Nat) : State := placeWord s nbits w

end Sys2Proof.Machine
end

