-- ==== Sys2Proof/Safety.lean ====
section
/-!
DEFINITION. What claims call a safe run and a well-formed state.
-/
namespace Sys2Proof

open Machine

/-- A run of n steps without a stop. -/
def RunsSafely (n : Nat) (s : State) : Prop := ∃ t, core.run n s = .next t

/-- Every storage of the package has the canonical form: its memory and each core's scratchpad. -/
def StorageInv (s : State) : Prop := s.mem.wf = true ∧ ∀ c ∈ s.cores, c.2.spad.wf = true

/-- The clock of R327 runs only for a task whose live seats all wait at endpoints or rings. -/
def ParkClockInv (s : State) : Prop := ∀ t ∈ s.tasks, t.blockedSince ≠ 0 → endpointBlocked s t = true

/-- The clock of R295 runs only for a task of the ready pool that no die can take. -/
def StarvedClockInv (s : State) : Prop := ∀ t ∈ s.tasks, t.noDie.isSome → inPool t = true

/-! ## Events -/

/-- Is an instruction the row of the opcode table that an event of the model runs? -/
def rowOf (i : Instr) : Event → Prop
  | .liftPass core slot => i = .liftPass core slot
  | .pipeIdleClock core pipe => i = .pipeIdleClock core pipe
  | .loadComplete id reply => i = .loadComplete id reply
  | .storeAccepted id => i = .storeAccepted id
  | .atomicComplete id reply => i = .atomicComplete id reply
  | .holdLineDrain task coreT line => i = .holdLineDrain task coreT line
  | .groupArrivalApply id => i = .groupArrivalApply id
  | .pauseWake core slot seat => i = .pauseWake core slot seat
  | .fenceContinue core slot seat => i = .fenceContinue core slot seat
  | .mbxTimeout core slot seat => i = .mbxTimeout core slot seat
  | .goneMaskSet task coreT => i = .goneMaskSet task coreT
  | .copyComplete id => i = .copyComplete id
  | .promiseMissed id => i = .promiseMissed id
  | .matrixUnitDone id => i = .matrixUnitDone id
  | .tmmaHandover id => i = .tmmaHandover id
  | .tmmaComplete id => i = .tmmaComplete id
  | .matrixFlagFall id => i = .matrixFlagFall id
  | .tileRowsDone id => i = .tileRowsDone id
  | .pageWalk task core va acc => i = .pageWalk task core va acc
  | .leaseExpire unit => i = .leaseExpire unit
  | .hubReturnExpired id => i = .hubReturnExpired id
  | .sdqtailWrite v => i = .sdqtailWrite v
  | .shootdownRequest => i = .shootdownRequest
  | .bellSkewDetect r => i = .bellSkewDetect r
  | .skewRecovery r => i = .skewRecovery r
  | .translationRenewal id va => i = .translationRenewal id va
  | .grantRequest m slot va acc => i = .grantRequest m slot va acc
  | .remoteAccessPerform req => i = .remoteAccessPerform req
  | .remoteReplyDeadline id => i = .remoteReplyDeadline id
  | .remoteAckDeadline id => i = .remoteAckDeadline id
  | .savedReplyApply task coreT benchT record reply => i = .savedReplyApply task coreT benchT record reply
  | .carveComplete carve => i = .carveComplete carve
  | .softError e => i = .softError e
  | .hotnessSample hub die flags pa asn => i = .hotnessSample hub die flags pa asn
  | .hotctlWrite hub v => i = .hotctlWrite hub v
  | .hottailWrite hub v => i = .hottailWrite hub v
  | .pageMigration asn va frame => i = .pageMigration asn va frame
  | .icacheInvalidate due asn va len => i = .icacheInvalidate due asn va len
  | .binTimerExpire node => i = .binTimerExpire node
  | .emitStallTimeout core slot seat => i = .emitStallTimeout core slot seat
  | .priorityAging task => i = .priorityAging task
  | .taskAdmit task die => i = .taskAdmit task die
  | .stagingGranuleLand task coreT region granule => i = .stagingGranuleLand task coreT region granule
  | .stagingPageFault task va sub => i = .stagingPageFault task va sub
  | .taskDispatch task => i = .taskDispatch task
  | .deanPreempt task => i = .deanPreempt task
  | .taskRetire task => i = .taskRetire task
  | .taskRetireRelease task => i = .taskRetireRelease task
  | .taskAbort task cause => i = .taskAbort task cause
  | .pagerResident task => i = .pagerResident task
  | .implicitCheckpoint task bin => i = .implicitCheckpoint task bin
  | .timetableIdleAdvance core pipe => i = .timetableIdleAdvance core pipe
  | .teamHalt task why => i = .teamHalt task why
  | .parkBlockedTask task => i = .parkBlockedTask task
  | .parkedDelivery task coreT benchT seat d => i = .parkedDelivery task coreT benchT seat d
  | .saveRunOpen core slot => i = .saveRunOpen core slot
  | .restoreRunOpen core slot => i = .restoreRunOpen core slot
  | .faultRunOpen core => i = .faultRunOpen core
  | .faultDisposition task w0 => i = .faultDisposition task w0
  | .featChangeRetest task => i = .featChangeRetest task
  | .machineCheck sub core task aux => i = .machineCheck sub core task aux
  | .pushReserve req => i = .pushReserve req
  | .pushPublish buf k => i = .pushPublish buf k
  | .pushReply id v => i = .pushReply id v
  | .pushReplyDeadline id => i = .pushReplyDeadline id
  | .pushSlotTimeout buf k => i = .pushSlotTimeout buf k
  | .sretPerform id => i = .sretPerform id
  | .markReplicaArrive src mark path n => i = .markReplicaArrive src mark path n
  | .markDone id => i = .markDone id
  | .markTimeout id => i = .markTimeout id
  | .linkFail lib => i = .linkFail lib
  | .linkRetrainDone lib => i = .linkRetrainDone lib
  | .pathSetChange target => i = .pathSetChange target
  | .libraryReport lib id r => i = .libraryReport lib id r
  | .remoteRefusal id ns => i = .remoteRefusal id ns
  | .pathSilenceTimeout target lib => i = .pathSilenceTimeout target lib
  | .pathProbe target lib answered => i = .pathProbe target lib answered
  | .noPathTimeout target => i = .noPathTimeout target
  | .poolLinkTimeout id => i = .poolLinkTimeout id
  | .libraryAtomCombine reqs => i = .libraryAtomCombine reqs
  | .poolsegWrite seg v => i = .poolsegWrite seg v
  | .poolsegUnmapDone seg => i = .poolsegUnmapDone seg
  | .hallPassReceive grp => i = .hallPassReceive grp
  | .programPost grp f => i = .programPost grp f
  | .passFrame grp f => i = .passFrame grp f
  | .hallPassRegenerate grp => i = .hallPassRegenerate grp
  | .membership grp m => i = .membership grp m
  | .bgctlWrite v => i = .bgctlWrite v
  | .bellBeaconSend => i = .bellBeaconSend
  | .bellBeacon grp f => i = .bellBeacon grp f
  | .bellUnlock => i = .bellUnlock
  | .revocationNotice via slot base len num => i = .revocationNotice via slot base len num
  | .revocationAck src num => i = .revocationAck src num
  | .revocationFence src num => i = .revocationFence src num
  | .eraserSweep => i = .eraserSweep
  | .revocationComplete num => i = .revocationComplete num
  | .destroyComplete type num => i = .destroyComplete type num
  | .create req => i = .create req
  | .mint req => i = .mint req
  | .destroy req => i = .destroy req
  | .revoke req => i = .revoke req
  | .memcap req => i = .memcap req
  | .bind req => i = .bind req
  | .unbind req => i = .unbind req
  | .carve req => i = .carve req
  | .carvecap req => i = .carvecap req
  | .heap req => i = .heap req
  | .inject req => i = .inject req
  | .emitcap req => i = .emitcap req
  | .exportSpace req => i = .exportSpace req
  | .admitCap req => i = .admitCap req
  | .preemptPark req => i = .preemptPark req
  | .preemptRelease req => i = .preemptRelease req
  | .ringDoneWrite ring done => i = .ringDoneWrite ring done
  | .serviceAlloc ring => i = .serviceAlloc ring
  | .packageReset => i = .packageReset
  | .bootClaim grp m => i = .bootClaim grp m
  | .bootReady grp m hash lib leasemax => i = .bootReady grp m hash lib leasemax
  | .bootTimeout grp m => i = .bootTimeout grp m
  | .bootTimerExpire => i = .bootTimerExpire
  | .imageVerify image => i = .imageVerify image
  | .bootctlWrite v => i = .bootctlWrite v
  | .getVersion key => i = .getVersion key
  | .getCapabilities key => i = .getCapabilities key
  | .negotiateAlgorithms key ok => i = .negotiateAlgorithms key ok
  | .getDigests key => i = .getDigests key
  | .getCertificate key slot => i = .getCertificate key slot
  | .challenge key slot nonce => i = .challenge key slot nonce
  | .getMeasurements key index => i = .getMeasurements key index
  | .keyExchange key m => i = .keyExchange key m
  | .finish key session ok => i = .finish key session ok
  | .endSession key session => i = .endSession key session
  | .keyRelease key session m => i = .keyRelease key session m
  | .unsupportedRequest key code => i = .unsupportedRequest key code
  | .powerThrottle l => i = .powerThrottle l
  | .mgmtRegisterWrite offset v by_ => i = .mgmtRegisterWrite offset v by_
  | .illegalWord word kind => i = .illegalWord word kind
  | .pcieMsiVector n => i = .pcieMsiVector n
  | .boardFibreLoss grp => i = .boardFibreLoss grp
  | .frameCheckFail grp f => i = .frameCheckFail grp f
  | .checkpointComplete task => i = .checkpointComplete task
  | .imageSectionComplete id => i = .imageSectionComplete id
  | .pushGrant id k pos => i = .pushGrant id k pos
  | .hostTrapWithdraw hart cause => i = .hostTrapWithdraw hart cause
  | .hostHartAccess hart pa acc => i = .hostHartAccess hart pa acc
  | .leasemaxRequeueWait task => i = .leasemaxRequeueWait task

/-! ## Values -/

/-- Sub-element j of a register as an unsigned and as a signed integer (R55). -/
def ue (n : Nat) (x : Word) (j : Nat) : Int := Int.ofNat (elem x j n)
def se (n : Nat) (x : Word) (j : Nat) : Int := if 2 * elem x j n < 2 ^ n then ue n x j else ue n x j - 2 ^ n
/-- The signed reading of an n-bit number (R55). -/
def signedOf (n x : Nat) : Int := if 2 * x < 2 ^ n then (x : Int) else (x : Int) - 2 ^ n
/-- The integer conditions of R41 on two n-bit numbers. -/
def holdsI (c : ICond) (n x y : Nat) : Prop :=
  match c with
  | .eq => x = y
  | .ne => x ≠ y
  | .lt => signedOf n x < signedOf n y
  | .le => signedOf n x ≤ signedOf n y
  | .gt => signedOf n y < signedOf n x
  | .ge => signedOf n y ≤ signedOf n x
  | .ltu => x < y
  | .leu => x ≤ y
/-- The value of a decoded number, with −∞ below and +∞ above every rational; a NaN has none, and −∞ stands there. -/
def ratOf (x : FVal) : WithBot (WithTop ℚ) :=
  match x with
  | .nan => ⊥
  | .inf true => ⊥
  | .inf false => ((⊤ : WithTop ℚ) : WithBot (WithTop ℚ))
  | .fin neg m e => ((((if neg then -1 else 1) * (m : ℚ) * (2 : ℚ) ^ e : ℚ) : WithTop ℚ) : WithBot (WithTop ℚ))
/-- The float conditions of R79 on two decoded numbers. -/
def holdsF (c : FCond) (x y : FVal) : Prop :=
  match c with
  | .eq => x ≠ .nan ∧ y ≠ .nan ∧ ratOf x = ratOf y
  | .ne => x = .nan ∨ y = .nan ∨ ratOf x ≠ ratOf y
  | .lt => x ≠ .nan ∧ y ≠ .nan ∧ ratOf x < ratOf y
  | .le => x ≠ .nan ∧ y ≠ .nan ∧ ratOf x ≤ ratOf y
  | .gt => x ≠ .nan ∧ y ≠ .nan ∧ ratOf y < ratOf x
  | .ge => x ≠ .nan ∧ y ≠ .nan ∧ ratOf y ≤ ratOf x
  | .un => x = .nan ∨ y = .nan
  | .ord => x ≠ .nan ∧ y ≠ .nan

/-! ## What claims say of a pass -/

/-- No operand of the pass faults (R138, R140): for every issued seat none of the registers read is poisoned, and the
registers written have rows or the bench's budgets leave room for them. -/
def OperandsClear (s : State) (rd : List DReg) (rc : List CReg) (wd : List DReg) (wc : List CReg) : Prop :=
  (∀ k ∈ issued s, (∀ r ∈ rd, poisonD (cur s) r k = none) ∧ ∀ c ∈ rc, poisonC (cur s) c k = none) ∧
    rowFault? s wd wc = none
/-- The effect of writing a value for each issued seat, none of them poisoned, to a data register. -/
def writing (s : State) (d : DReg) (v : Nat → Word) (b : Bench) : Bench := writeD b d ((issued s).map fun k => (k, v k, none))
/-- The effect of writing a predicate for each issued seat. -/
def setting (s : State) (p : PReg) (v : Nat → BitVec 8) (b : Bench) : Bench := writeP b p ((issued s).map fun k => (k, v k))
/-- The effect of writing a capability for each issued seat, none of them poisoned, to a capability register. -/
def holding (s : State) (c : CReg) (v : Nat → Cap) (b : Bench) : Bench := writeC b c ((issued s).map fun k => (k, v k, none))
/-- Whenever its operands do not fault, the instruction retires and writes D, and each w-bit sub-element j of the value of an
issued seat k stands in the given relation to the state before. `rd` are the registers whose poison would fault, `srcs` the
sources with their use bits. -/
def GivesElems (i : Instr) (rd : List DReg) (srcs : List Src) (d : DReg) (w : Nat) (rel : State → Nat → Nat → Nat → Prop) :
    Prop :=
  ∀ s, OperandsClear s rd [] [d] [] → ∃ v : Nat → Word,
    exec i s = .next (retireWith s srcs false (writing s d v)) ∧
      ∀ k ∈ issued s, ∀ j, j < 64 / w → rel s k j (elem (v k) j w)
/-- As `GivesElems`, with the sub-element given as an integer that is narrowed to its width. -/
def Narrows (i : Instr) (rd : List DReg) (srcs : List Src) (d : DReg) (w : Nat) (val : State → Nat → Nat → Int) : Prop :=
  GivesElems i rd srcs d w fun s k j r => Int.ofNat r = val s k j % 2 ^ w
/-- Whenever its operands do not fault, the instruction retires and writes a whole value to D. -/
def GivesWord (i : Instr) (rd : List DReg) (srcs : List Src) (d : DReg) (val : State → Nat → Word) : Prop :=
  ∀ s, OperandsClear s rd [] [d] [] → exec i s = .next (retireWith s srcs false (writing s d (val s)))

/-- The shape of a bench (R4, R6, R7, R31, R134, R135): 32 seats, at most one row for a register, each with an element for
every seat, 16 uniform registers, 8 predicates with a byte for every seat, 12 flags. -/
def Shaped (b : Bench) : Prop :=
  b.seats.length = 32 ∧ (b.vrows.map (·.reg)).Nodup ∧ (b.crows.map (·.reg)).Nodup ∧
    (∀ x ∈ b.vrows, x.elems.length = 32) ∧ (∀ x ∈ b.crows, x.elems.length = 32) ∧ b.sregs.length = 16 ∧
    b.preds.length = 8 ∧ (∀ p ∈ b.preds, p.length = 32) ∧ b.flags.length = 12
/-- Is a v register read for the last time by these sources (R137)? -/
def readsLast (srcs : List Src) (r : DReg) : Prop := r.isV = true ∧ (⟨r, .last⟩ : Src) ∈ srcs

/-! ## What a pass leaves alone -/

/-- Apart from the benches of cores and what instructions in flight will still write, the package is unchanged, and so are
every other bench and every other part of each core, its scratchpad among them. -/
def LeavesOutside (s t : State) : Prop :=
  t = { s with cores := t.cores, flights := t.flights } ∧
    (t.flights.map fun f => (f.id, f.core, f.slot, f.flag, f.seats, f.kind, f.deadline)) =
      (s.flights.map fun f => (f.id, f.core, f.slot, f.flag, f.seats, f.kind, f.deadline)) ∧
    (∀ core slot, ¬(core = s.sel.core ∧ slot = s.sel.slot) → getBench t core slot = getBench s core slot) ∧
    ∀ core, { getCore t core with benches := [] } = { getCore s core with benches := [] }
/-- The data registers other than those excepted read as before, except that a register read for the last time is left
without a value for the issued seats (R137). -/
def DataKept (s t : State) (srcs : List Src) (except : DReg → Prop) : Prop :=
  ∀ r k, ¬ except r →
    (readsLast srcs r ∧ k ∈ issued s → readD (cur t) r k = 0 ∧ poisonD (cur t) r k = none) ∧
    (¬(readsLast srcs r ∧ k ∈ issued s) →
      readD (cur t) r k = readD (cur s) r k ∧ poisonD (cur t) r k = poisonD (cur s) r k)
/-- The capability registers other than those excepted read as before. -/
def CapsKept (s t : State) (except : CReg → Prop) : Prop :=
  ∀ c k, ¬ except c → readC (cur t) c k = readC (cur s) c k ∧ poisonC (cur t) c k = poisonC (cur s) c k
/-- The predicates other than those excepted read as before. -/
def PredsKept (s t : State) (except : PReg → Prop) : Prop := ∀ p k, ¬ except p → readP (cur t) p k = readP (cur s) p k
/-- The flags, SEED, STEP, the code capability and what the bench is are as before. -/
def BenchKept (s t : State) : Prop :=
  (cur t).task = (cur s).task ∧ (cur t).benchT = (cur s).benchT ∧ (cur t).mode = (cur s).mode ∧
    (cur t).flags = (cur s).flags ∧ (cur t).seed = (cur s).seed ∧ (cur t).stepCount = (cur s).stepCount ∧
    (cur t).code = (cur s).code ∧ (cur t).misses = (cur s).misses ∧ (cur t).rowBudget = (cur s).rowBudget ∧
    (cur t).capBudget = (cur s).capBudget
/-- Each issued seat is changed as given; no other seat is. -/
def SeatsBecome (s t : State) (f : Nat → Seat → Seat) : Prop :=
  ∀ k, getSeat (cur t) k = if k ∈ issued s then f k (getSeat (cur s) k) else getSeat (cur s) k
/-- A seat past an instruction of n bytes that does not close its clause (R35, R130). -/
def Past (n : Nat) (x y : Seat) : Prop :=
  y = { x with pc := x.pc + BitVec.ofNat 64 n, idx := x.idx + 1, must := if 16 ≤ x.idx + 1 then 1 else 0, skip := 0, wake := none }

/-! ## The forms of the accesses -/

/-- The capability's cursor for a seat plus an offset, exactly (R102). -/
def exactAddr (s : State) (c : CReg) (off : Nat → Int) (k : Nat) : Int :=
  Int.ofNat (capCursor (readC (cur s) c k)).toNat + off k
/-- An index register's value as an offset, and a scaled immediate (R102). -/
def byReg (s : State) (x : Src) (k : Nat) : Int := (srcV s x k).toInt
def byImm (i : BitVec 9) (size : Nat) (_ : Nat) : Int := i.toInt * size
/-- The bytes of an access size (R28). -/
def sizeOf_ (sz : Width) : Nat :=
  match sz with
  | .d => 8
  | .w => 4
  | .h => 2
  | .b => 1
/-- What a memory form asks: its sources, the capability register, the exact address of a seat, the size in bytes, what it may
reach, the alignment that faults with its sub-code after BOUNDS (1: none). -/
structure MemForm where
  srcs : List Src
  c : CReg
  addr : Nat → Int
  n : Nat
  reach : Reach
  align : Nat
  alignSub : Nat
/-- The question that a form puts to the checks of R102. -/
def MemForm.ask (m : MemForm) (need : List Perm) (acc : Access) : Ask := ⟨need, m.n, m.reach, m.align, m.alignSub, acc⟩
/-- The loads (R101, R105, R146, R317): the form, the data registers, the capability register. -/
def loadForm (s : State) (i : Instr) : Option (MemForm × List DReg × Option CReg) :=
  let frag := fun (c : CReg) (off : Nat → Int) (stride : Nat) (k : Nat) => exactAddr s c off k + stride * k
  match i with
  | .ldIndex x sz c d => some (⟨[x], c, exactAddr s c (byReg s x), sizeOf_ sz, .glob, 1, 1⟩, [d], none)
  | .ldImm i sz c d => some (⟨[], c, exactAddr s c (byImm i (sizeOf_ sz)), sizeOf_ sz, .glob, 1, 1⟩, [d], none)
  | .ldpIndex x c d => some (⟨[x], c, exactAddr s c (byReg s x), 16, .glob, 1, 1⟩, [d, d.succ], none)
  | .ldpImm i c d => some (⟨[], c, exactAddr s c (byImm i 8), 16, .glob, 1, 1⟩, [d, d.succ], none)
  | .ldsIndex x sz c d => some (⟨[x], c, exactAddr s c (byReg s x), sizeOf_ sz, .window, 1, 1⟩, [d], none)
  | .ldsImm i sz c d => some (⟨[], c, exactAddr s c (byImm i (sizeOf_ sz)), sizeOf_ sz, .window, 1, 1⟩, [d], none)
  | .ldfRIndex x c d => some (⟨[x], c, frag c (byReg s x) 8, 8, .window, 8, 3⟩, [d], none)
  | .ldfRImm i c d => some (⟨[], c, frag c (byImm i 8) 8, 8, .window, 8, 3⟩, [d], none)
  | .ldfCIndex x c d => some (⟨[x], c, frag c (byReg s x) 512, 8, .window, 8, 3⟩, [d], none)
  | .ldfCImm i c d => some (⟨[], c, frag c (byImm i 8) 512, 8, .window, 8, 3⟩, [d], none)
  | .ldcIndex x c cd => some (⟨[x], c, exactAddr s c (byReg s x), 16, .any, 16, 4⟩, [], some cd)
  | .ldcImm i c cd => some (⟨[], c, exactAddr s c (byImm i 16), 16, .any, 16, 4⟩, [], some cd)
  | _ => none
/-- The little-endian bytes of the low n bytes of a register, and of a pair (R16, R103). -/
def leBytes (n : Nat) (x : Word) : List Byte := (List.range n).map fun j => BitVec.ofNat 8 (x.toNat / 256 ^ j)
/-- The stores of data (R101, R105, R146): the form, the bytes of a seat and whether its data are poisoned. -/
def dataStore (s : State) (i : Instr) : Option (MemForm × (Nat → List Byte) × (Nat → Bool)) :=
  let frag := fun (c : CReg) (off : Nat → Int) (stride : Nat) (k : Nat) => exactAddr s c off k + stride * k
  let low := fun (d : DReg) (n k : Nat) => leBytes n (readD (cur s) d k)
  let bad := fun (d : DReg) (k : Nat) => (poisonD (cur s) d k).isSome
  match i with
  | .stIndex x sz c d => some (⟨[x], c, exactAddr s c (byReg s x), sizeOf_ sz, .glob, 1, 1⟩, low d (sizeOf_ sz), bad d)
  | .stImm i sz c d => some (⟨[], c, exactAddr s c (byImm i (sizeOf_ sz)), sizeOf_ sz, .glob, 1, 1⟩, low d (sizeOf_ sz), bad d)
  | .stpIndex x c d => some (⟨[x], c, exactAddr s c (byReg s x), 16, .glob, 1, 1⟩, fun k => low d 8 k ++ low d.succ 8 k,
      fun k => bad d k || bad d.succ k)
  | .stpImm i c d => some (⟨[], c, exactAddr s c (byImm i 8), 16, .glob, 1, 1⟩, fun k => low d 8 k ++ low d.succ 8 k,
      fun k => bad d k || bad d.succ k)
  | .stsIndex x sz c d => some (⟨[x], c, exactAddr s c (byReg s x), sizeOf_ sz, .window, 1, 1⟩, low d (sizeOf_ sz), bad d)
  | .stsImm i sz c d => some (⟨[], c, exactAddr s c (byImm i (sizeOf_ sz)), sizeOf_ sz, .window, 1, 1⟩, low d (sizeOf_ sz), bad d)
  | .stfRIndex x c d => some (⟨[x], c, frag c (byReg s x) 8, 8, .window, 8, 3⟩, low d 8, bad d)
  | .stfRImm i c d => some (⟨[], c, frag c (byImm i 8) 8, 8, .window, 8, 3⟩, low d 8, bad d)
  | .stfCIndex x c d => some (⟨[x], c, frag c (byReg s x) 512, 8, .window, 8, 3⟩, low d 8, bad d)
  | .stfCImm i c d => some (⟨[], c, frag c (byImm i 8) 512, 8, .window, 8, 3⟩, low d 8, bad d)
  | _ => none
/-- The stores of a capability (R317, R318): the form and the register. -/
def capStore (s : State) (i : Instr) : Option (MemForm × CReg) :=
  match i with
  | .stcIndex x c cd => some (⟨[x], c, exactAddr s c (byReg s x), 16, .any, 16, 4⟩, cd)
  | .stcImm i c cd => some (⟨[], c, exactAddr s c (byImm i 16), 16, .any, 16, 4⟩, cd)
  | _ => none
/-- An access that is performed now: on this package, and in the window past R151. -/
def performedNow (u : State) (n : Nat) (p : Nat × Place) : Prop :=
  match p.2 with
  | .win a => winHeld u p.1 a n = false
  | .mem _ _ => onMonitor u = false
  | .remote _ => False
/-- The task of the selected bench stands in the package on the core of the pass. -/
def onItsCore (s : State) : Prop := ∃ t, findTask s (cur s).task = some t ∧ curCoreT s < t.cores.length

/-! ## Atomics and capabilities -/

/-- The atomic forms by order (R166). -/
def atomForm (op : AtomOp) (b : DReg) (sc : Scope) (o : MemOrd) (w32 : Bool) (c : CReg) (d : DReg) : Instr :=
  match o with
  | .relaxed => .atomRelaxed op b sc w32 c d
  | .acquire => .atomAcquire op b sc w32 c d
  | .release => .atomRelease op b sc w32 c d
  | .acqRel => .atomAcqRel op b sc w32 c d
/-- The table of R167 for a location m of w bits, an operand x and a compare value e: `some r` writes r, `none` writes
nothing. -/
def atomTable (op : AtomOp) (w m x e : Nat) (r : Option Nat) : Prop :=
  let F := if w = 64 then fmt64 else fmt32
  match op with
  | .add => r = some ((m + x) % 2 ^ w)
  | .and => r = some (m &&& x)
  | .or => r = some (m ||| x)
  | .xor => r = some (m ^^^ x)
  | .min => ∃ y, r = some y ∧ (y = m ∨ y = x) ∧ signedOf w y = min (signedOf w m) (signedOf w x)
  | .max => ∃ y, r = some y ∧ (y = m ∨ y = x) ∧ signedOf w y = max (signedOf w m) (signedOf w x)
  | .minu => r = some (min m x)
  | .maxu => r = some (max m x)
  | .swap => r = some x
  | .cas => (m = e → r = some x) ∧ (m ≠ e → r = none)
  | .fadd => r = some (frne F (faddV false (fdecode F m) (fdecode F x)))
/-- What a flight of one seat's atomic delivers: the old value, or poison of cause 0 (R167, R169). -/
def atomReturns (d : DReg) (k : Nat) (m : Nat) (poisoned : Bool) : FlightKind :=
  .load [(d, [(k, if poisoned then (0, some 0) else (BitVec.ofNat 64 m, none))])] [] true

/-- Whenever its operands do not fault, the instruction retires and writes the capability register, and the capability of an
issued seat stands in the given relation to the state before. -/
def GivesCap (i : Instr) (rd : List DReg) (rc : List CReg) (srcs : List Src) (cd : CReg) (rel : State → Nat → Cap → Prop) :
    Prop :=
  ∀ s, OperandsClear s rd rc [] [cd] → ∃ v : Nat → Cap,
    exec i s = .next (retireWith s srcs false (holding s cd v)) ∧ ∀ k ∈ issued s, rel s k (v k)
/-- Tagged, unsealed, with an exponent below 48 (R109). -/
def okCap (c : Cap) : Prop := c.tag = true ∧ capSeal c = 0 ∧ capE c < 48
/-- The fields other than the cursor are those of another capability. -/
def sameFields (x c : Cap) : Prop :=
  capPerms x = capPerms c ∧ capSeal x = capSeal c ∧ capE x = capE c ∧ capB x = capB c ∧ capT x = capT c
/-- The range of cursors that a capability represents (R108). -/
def representable (c : Cap) (x : Word) : Prop :=
  capBase c - 2 ^ (capE c + 17) ≤ (x.toNat : Int) ∧ (x.toNat : Int) < capBase c + 3 * 2 ^ (capE c + 17)
/-- A capability that names a software seal type (R316). -/
def sealer (c : Cap) : Prop := c.tag = true ∧ capSeal c = 974 ∧ 1 ≤ capNum c ∧ capNum c ≤ 959
/-- The authority of a tagged capability does not exceed that of another: it lies within its bounds and has none but its
permissions. -/
def noMoreThan (x c : Cap) : Prop :=
  c.tag = true ∧ capBase c ≤ capBase x ∧ capTop x ≤ capTop c ∧ ∀ p, hasPerm x p = true → hasPerm c p = true

/-! ## Groups, mailboxes, copies -/

/-- A group after its members or arrivals have changed (R113): a phase whose arrivals equal a nonzero expected count
completes, and a group without members and copies is empty. -/
def phaseFull (x : Group) : Prop :=
  0 < x.members.length + x.copies ∧ x.applied.length + x.copyArrived = x.members.length + x.copies
def groupSettles (x y : Group) : Prop :=
  (phaseFull x ∧ x.members ≠ [] → y = ⟨x.members, [], [], 0, 0, x.phase + 1⟩) ∧
    (¬phaseFull x ∧ (x.members ≠ [] ∨ x.copies ≠ 0) → y = x) ∧
    (x.members = [] → phaseFull x ∨ x.copies = 0 → y = Group.empty)
/-- The task of the selected bench, as it stands in a state. -/
def isTask (s : State) (id : Word) (t : Task) : Prop := findTask s id = some t
/-- The bits of a word from hi down to lo as a number. -/
def bits (w : Word) (hi lo : Nat) : Nat := w.toNat / 2 ^ lo % 2 ^ (hi + 1 - lo)
/-- The copy that a form issues for a seat (R174, R175, R180, R181): its kind, size, descriptor, capabilities and batch. -/
def copyForm (i : Instr) : Option (Nat × Src × Width × CReg × Bool × Bool × CReg) :=
  match i with
  | .cpyT q sz ca arr fb cd => some (0, q, sz, ca, arr, fb, cd)
  | .cpyG q sz ca arr fb cd => some (1, q, sz, ca, arr, fb, cd)
  | .cpyS q sz ca arr fb cd => some (2, q, sz, ca, arr, fb, cd)
  | .cpySc q sz ca arr fb cd => some (3, q, sz, ca, arr, fb, cd)
  | .cpyP q sz arr fb cd => some (4, q, sz, 0, arr, fb, cd)
  | _ => none
/-- The command of a copy in the queue, from the registers of its seat. -/
def issuedCopy (s : State) (k kind : Nat) (q : Src) (sz : Width) (ca : CReg) (arr : Bool) (cd : CReg) : CopyCmd :=
  let w := fun j => readD (cur s) (q.reg.plus j) k
  { kind := kind, size := sizeOf_ sz, q0 := w 0, q1 := w 1, q2 := w 2, q3 := w 3, src := readC (cur s) ca k
    dst := readC (cur s) cd k, arr := arr, batch := (getSeat (cur s) k).batch
    deadline := if bits (w 0) 63 42 = 0 then none else some (s.bell + BitVec.ofNat 64 (64 * bits (w 0) 63 42))
    stage := 0, req0 := 0, want := 0, got := [], idx := [] }

/-! ## The matrix unit -/

/-- Element m of a fragment of w-bit elements in one register, or of 16-bit elements in two (R255). -/
def fragBits (w : Nat) (lo hi : Word) (m : Nat) : Nat :=
  if w = 16 then elem (if m < 4 then lo else hi) (m % 4) 16 else lo.toNat / 2 ^ (w * m) % 2 ^ w
/-- The float format of a product and the width of its elements (R255); none for signed bytes. -/
def mmaFmt : MmaFmt → Option (FFmt × Nat)
  | .e4m3 => some (fmtE4M3, 8)
  | .e5m2 => some (fmtE5M2, 8)
  | .bf16 => some (fmtBf16, 16)
  | .f16 => some (fmt16, 16)
  | .b => none
def mmasFmt : MmasFmt → FFmt × Nat
  | .e4m3 => (fmtE4M3, 8)
  | .e5m2 => (fmtE5M2, 8)
  | .e3m2 => (fmtE3M2, 6)
  | .e2m3 => (fmtE2M3, 6)
  | .e2m1 => (fmtE2M1, 4)
/-- An E8M0 scale (R59): 2 to the byte less 127; 255 is NaN. -/
def e8m0 (x : Nat) : FVal := if x = 255 then .nan else .fin false 1 ((x : Int) - 127)
/-- One chunk of eight products on an accumulator element (R257): the exact sum, rounded once to FP48. -/
def chunk (F : FFmt) (acc : Nat) (a b : Nat → Nat) (scale : FVal) : Nat :=
  fencode fmt48 .rne ((List.range 8).foldl
    (fun x m => faddV false x (fmulV (fmulV (fdecode F (a m)) (fdecode F (b m))) scale)) (fdecode fmt48 acc))
/-- What a pass of the matrix unit leaves alone: memory, tasks, scratchpads, the other cores and tiles, and every register
but for last reads. -/
def TilesKept (s t : State) (srcs : List Src) (tiles : List Nat) : Prop :=
  t.mem = s.mem ∧ t.tasks = s.tasks ∧ (∀ core, (getCore t core).spad = (getCore s core).spad) ∧
    (∀ core k, ¬(core = s.sel.core ∧ k ∈ tiles) → getTile t core k = getTile s core k) ∧
    DataKept s t srcs (fun _ => False) ∧ CapsKept s t (fun _ => False) ∧ PredsKept s t (fun _ => False) ∧
    SeatsBecome s t (fun _ x => pastSeat x s.sel.len false)
/-- The pass is in flight with its flag raised. -/
def flagRaised (s t : State) (kind : FlightKind) : Prop :=
  (∃ f ∈ t.flights, f.id = s.nextId ∧ f.core = s.sel.core ∧ f.slot = s.sel.slot ∧ f.flag = passFlag s false ∧ f.kind = kind) ∧
    ∀ k, flagOf (cur t) k = flagOf (cur s) k + if passFlag s false = some k ∧ k < 12 then 1 else 0
/-- The bytes of an element of a tile in memory and its float format (R263). -/
def tileForm : TileFmt → Nat × Option FFmt
  | .raw => (8, none)
  | .f32 => (4, some fmt32)
  | .s32 => (4, none)
  | .bf16 => (2, some fmtBf16)
  | .f16 => (2, some fmt16)
  | .e4m3 => (1, some fmtE4M3)
  | .e5m2 => (1, some fmtE5M2)
  | .reserved => (1, none)

/-! ## Endpoints -/

/-- A party that is a seat of a resident bench and waits: its core, slot and seat, and what it waits for. -/
def liveSeat (s : State) (p : Party) (c slot j : Nat) (w : Wait) : Prop :=
  ∃ id ct bt t, p = .seat id ct bt j ∧ isTask s id t ∧ liveBench s t ⟨ct, bt, j⟩ = some (c, slot) ∧
    imageCounts s t c slot = false ∧ (getSeat (getBench s c slot) j).state = .blocked w ∧ Shaped (getBench s c slot) ∧ j < 32
/-- The single issued seat of a pass, on the resident bench of its task. -/
def issuer (s : State) (k : Nat) : Prop :=
  Shaped (cur s) ∧ issued s = [k] ∧ k < 32 ∧ (getSeat (cur s) k).state = .eligible ∧ (getSeat (cur s) k).wake = none ∧
    ∃ t, isTask s (cur s).task t ∧ liveBench s t (threadOf s k) = some (s.sel.core, s.sel.slot) ∧
      imageCounts s t s.sel.core s.sel.slot = false
/-- A waiting seat has taken four words and a capability and goes on at its next instruction (R322, R323). `keep` says whether
the capability's tag may stay (R321); quarantine takes it too (R362). -/
def tookMessage (s t : State) (c slot j : Nat) (q : DReg) (cb : CReg) (ws : List Word) (x : Cap) (keep : Bool) : Prop :=
  let b := getBench t c slot
  (∀ i w, ws[i]? = some w → readD b (q.plus i) j = w) ∧
    (cb ≠ 0 → (readC b cb j).bits = x.bits ∧ ((readC b cb j).tag = true → x.tag = true ∧ keep = true)) ∧
    (cb ≠ 0 → s.quarantine = [] → ((readC b cb j).tag = true ↔ x.tag = true ∧ keep = true)) ∧
    (getSeat b j).state = .eligible ∧ (getSeat b j).pc = (getSeat (getBench s c slot) j).pc + 4
/-- A seat stands where it stood, blocked. -/
def isBlocked (s t : State) (c slot j : Nat) (w : Wait) : Prop :=
  (getSeat (getBench t c slot) j).state = .blocked w ∧
    (getSeat (getBench t c slot) j).pc = (getSeat (getBench s c slot) j).pc
/-- A seat has gone on past its instruction. -/
def wentOn (s t : State) (c slot j : Nat) : Prop :=
  (getSeat (getBench t c slot) j).state = .eligible ∧
    (getSeat (getBench t c slot) j).pc = (getSeat (getBench s c slot) j).pc + 4
/-- The message that a seat sends: three words of its quad and a capability. -/
def sends (s : State) (a : Src) (cb : CReg) (k : Nat) : Message :=
  ⟨readD (cur s) a.reg k, readD (cur s) (a.reg.plus 1) k, readD (cur s) (a.reg.plus 2) k, readC (cur s) cb k⟩
/-- The queues of an endpoint and the word and receivers of a notification, in an object that lives. -/
def endpointIs (s : State) (n : Nat) (xs : List EpSender) (rs : List EpReceiver) : Prop :=
  ∃ o, findObj s 963 n = some o ∧ o.data = .endpoint xs rs
def notificationIs (s : State) (n : Nat) (w : Word) (rs : List EpReceiver) : Prop :=
  ∃ o, findObj s 964 n = some o ∧ o.data = .notification w rs
/-- Only cores, objects and instructions in flight have changed. -/
def onlyQueues (s t : State) : Prop := t = { s with cores := t.cores, objs := t.objs, flights := t.flights }

/-! ## Faults and the monitor -/

/-- The pass of a task bench takes a fault in every issued seat, retires nothing, and its bench stops (R43, R88, R382, R387): the
fault waits for a run of the core's monitor bench, with IFA, the mask, and the resume point of the lowest seat. -/
def takesFault (s t : State) (code sub : Nat) : Prop :=
  t = { s with cores := t.cores } ∧ (cur t).mode = .faulted ∧ (∀ k, (getSeat (cur t) k).pc = (getSeat (cur s) k).pc) ∧
    DataKept s t [] (fun _ => False) ∧ CapsKept s t (fun _ => False) ∧ PredsKept s t (fun _ => False) ∧
    (cur t).flags = (cur s).flags ∧ ∃ q, (getCore t s.sel.core).faultQ = (getCore s s.sel.core).faultQ ++ [q] ∧
      q.code = code ∧ q.sub = sub ∧ q.slot = s.sel.slot ∧ q.ifa = s.sel.pc ∧ q.past = false ∧ q.bell = s.bell ∧
      q.seat = (issued s).headD 0 ∧ (∀ k, k < 32 → (q.mask.getLsbD k = true ↔ k ∈ issued s)) ∧
      q.resume = (getSeat (cur s) q.seat).hdr ∧ q.index = (getSeat (cur s) q.seat).idx
/-- The pass of a task bench: seats are issued, and the bench is not the monitor bench. -/
def onTaskBench (s : State) : Prop := s.sel.slot ≠ 64 ∧ issued s ≠ []
/-- A handler run of a kind is open on the selected core, whose monitor bench issues (R337, R380). -/
def inRun (s : State) (r : Run) : Prop := s.sel.slot = 64 ∧ (getCore s s.sel.core).run = some r
/-- The bench that the run is for, and its task (R334, R335). -/
def targetOf (s : State) : Bench := getBench s s.sel.core (getCore s s.sel.core).tregs.tbench.toNat
/-- The feature that an instruction needs beyond BASE (R51, R256, R267, R274, R405, R410, R412, R413). -/
def featureOf (i : Instr) : Option Nat :=
  match i with
  | .mmod _ _ _ => some 1
  | .modadd _ _ _ => some 1
  | .modsub _ _ _ => some 1
  | .modmul _ _ _ => some 1
  | .mred _ _ _ => some 1
  | .nttbf _ _ => some 1
  | .inttbf _ _ => some 1
  | .mmas _ _ _ _ _ => some 2
  | .push _ _ _ _ => some 3
  | .sret _ _ => some 3
  | .mark _ => some 3
  | .bpost _ _ => some 4
  | .bwait _ _ => some 4
  | .tmma _ _ _ => some 5
  | _ => none
/-- The instructions of the monitor bench (R334, R337, R339), which any other bench may not issue. -/
def isPrivileged (i : Instr) : Prop :=
  i = .tret ∨ i = .haltPark ∨ i = .haltFail ∨ i = .haltRequeue ∨ (∃ n c, i = .bsave n c) ∨ (∃ n c, i = .brest n c) ∨
    (∃ b a d, i = .rmap b a d) ∨ (∃ d, i = .rd 15 d) ∨ (∃ d, i = .srd 0x113 d) ∨
    (∃ n d, i = .srd n d ∧ (0x120 ≤ n.toNat ∧ n.toNat ≤ 0x127 ∨ 0x200 ≤ n.toNat ∧ n.toNat ≤ 0x207)) ∨
    (∃ n d, i = .swr n d ∧ n.toNat ≠ 0x100)

/-! ## Instructions in flight and tasks -/

/-- The bench that issued an instruction in flight. -/
def flightBench (s : State) (f : Flight) : Bench := getBench s f.core f.slot
/-- An instruction in flight, whose bench is still that of its task. -/
def inFlight (s : State) (f : Flight) : Prop :=
  (s.flights.map (·.id)).Nodup ∧ f ∈ s.flights ∧ Shaped (flightBench s f) ∧ (flightBench s f).task = f.task
/-- The flag of a completed instruction falls by one with the last part of its pass (R31). -/
def flagFalls (s t : State) (f : Flight) : Prop :=
  ∀ n, flagOf (flightBench t f) n = flagOf (flightBench s f) n -
    if f.flag = some n ∧ ∀ g ∈ s.flights, g.mate = f.mate → g = f then 1 else 0
/-- Only the benches of cores have changed. -/
def onlyBenches (s t : State) : Prop :=
  t = { s with cores := t.cores } ∧ ∀ core, { getCore t core with benches := [] } = { getCore s core with benches := [] }
/-- The instruction has completed and its flag has fallen; nothing else has happened. -/
def endsAlone (s t : State) (f : Flight) : Prop :=
  t = { s with cores := t.cores, flights := s.flights.filter (· ≠ f) } ∧ flagFalls s t f ∧
    (∀ core, { getCore t core with benches := [] } = { getCore s core with benches := [] }) ∧
    (∀ core slot, ¬(core = f.core ∧ slot = f.slot) → getBench t core slot = getBench s core slot) ∧
    flightBench t f = { flightBench s f with flags := (flightBench t f).flags }
/-- The instruction goes on as another kind; no other instruction in flight is changed. -/
def goesOnAs (s t : State) (f : Flight) (k : FlightKind) : Prop :=
  findFlight t f.id = some { f with kind := k } ∧ ∀ id, id ≠ f.id → findFlight t id = findFlight s id
/-- Only one task has changed, to T. -/
def taskBecomes (s t : State) (T : Task) : Prop :=
  t = { s with tasks := t.tasks } ∧ isTask t T.id T ∧ ∀ id, id ≠ T.id → findTask t id = findTask s id
/-- An abort of a task takes effect at once: none of it waits, and no push of its is in flight (R409). -/
def abortsNow (s : State) (T : Task) : Prop := (∀ a ∈ s.aborts, a.1 ≠ T.id) ∧ pushesOut s T.id = false
/-- A task has been aborted for requeue (R307): it waits in the pool with nothing on any core, held or in flight; its images
are back where it restarts from a checkpoint. -/
def abortedTo (t : State) (T : Task) : Prop :=
  (∃ U, isTask t T.id U ∧ U.phase = .pool ∧ U.requeues = T.requeues + 1 ∧ U.cores = [] ∧ U.dieHold = [] ∧ U.heldRecs = [] ∧
    U.reserved = [] ∧ U.faults = [] ∧ (U.saved = true ↔ T.restart.isSome = true)) ∧ ∀ f ∈ t.flights, f.task ≠ T.id

/-! ## The board and revocation -/

/-- The package has left a board group (R416, R436): nothing of it is queued, and each seat that was blocked on the group takes
BOARD_LOST when it issues its instruction again. -/
def leavesGroup (s t : State) (k : Nat) : Prop :=
  (∃ g, lookupKey t.board k = some g ∧ g.isMember = false ∧ g.holds = false ∧ g.queue = [] ∧ g.rejoin = false) ∧ t.mem = s.mem ∧
    t.tasks = s.tasks ∧ ∀ core slot j, slot ≠ 64 → j < 32 →
      ((∃ q, (getSeat (getBench s core slot) j).state = .blocked (.bpost k q)) ∨
        ∃ q n, (getSeat (getBench s core slot) j).state = .blocked (.bwait k q n)) →
      (getSeat (getBench t core slot) j).state = .eligible ∧ (getSeat (getBench t core slot) j).wake = some ⟨0x40, 2, k⟩ ∧
        (getSeat (getBench t core slot) j).pc = (getSeat (getBench s core slot) j).pc
/-- A frame of this package on a group, as R434 and R435 lay it out. -/
def ownFrame (s : State) (g : BoardGroup) (seq : Nat) (kind number : Nat) (w0 w1 w2 : Word) : Frame :=
  sealFrame ⟨number, s.pkg, kind, g.me, g.seq + BitVec.ofNat 32 seq, s.bell, w0, w1, w2, g.gen, 0⟩
/-- Only the board groups and what leaves the package have changed, and of the groups only one. -/
def onlyGroup (s t : State) (k : Nat) : Prop :=
  t = { s with board := t.board, outbox := t.outbox } ∧ ∀ j, j ≠ k → lookupKey t.board j = lookupKey s.board j
/-- A revocation of this package whose sweep is running, and the address space that it acts on (R362, R364). -/
def sweeping (s : State) (r : Revocation) : Prop :=
  r ∈ s.quarantine ∧ r.joined = true ∧ r.swept = false ∧ r.origin = none ∧ r.target = none

/-! ## The Registrar -/

/-- A host hart has asked the Registrar and waits for its reply, with a capability register for it (R349, R357). -/
def hartAsks (s : State) (req : RegReq) (h cb : Nat) : Prop :=
  req.who = .hart h ∧ req.heard = true ∧ (∃ ep, (getHart s h).wait = .xcall ep true cb true true) ∧ (getHart s h).x.length = 32 ∧
    (getHart s h).hc.length = 16 ∧ 0 < cb ∧ cb < 16
/-- The hart has its reply: the status in a3, W0 in a0, the capability (R328, R349, R357), whose tag only quarantine takes. -/
def hartIsAnswered (s t : State) (h cb st : Nat) (w0 : Word) (c : Cap) : Prop :=
  let y := getHart t h
  y.wait = .none ∧ y.pc = (getHart s h).pc + 4 ∧ nth y.x 10 0 = w0 ∧ nth y.x 11 0 = 0 ∧ nth y.x 12 0 = 0 ∧
    nth y.x 13 0 = BitVec.ofNat 64 st ∧ (nth y.hc cb Cap.null).bits = c.bits ∧
    ((nth y.hc cb Cap.null).tag = true → c.tag = true) ∧ (t.quarantine = [] → (nth y.hc cb Cap.null).tag = c.tag)
/-- A request that the Registrar accepts: its capability names a live object with no operation pending (R350, R351). -/
def regAccepts (s : State) (req : RegReq) (type : Nat) (o : Obj) : Prop :=
  req.cap.tag = true ∧ capSeal req.cap = type ∧ hasPerm req.cap .invoke = true ∧
    findObj s type (capNum req.cap) = some o ∧ o.dead = false ∧ o.busy = false
/-- Only objects, and the hart that is answered, have changed. -/
def onlyAsked (s t : State) : Prop := t = { s with objs := t.objs, harts := t.harts }
/-- An object has other data, and no other object has changed. -/
def objBecomes (s t : State) (o : Obj) (d : ObjData) : Prop :=
  findObj t o.type o.num = some { o with data := d } ∧
    ∀ ty n, ¬(ty = o.type ∧ n = o.num) → findObj t ty n = findObj s ty n
/-- Entry e of a timetable (R312). -/
def ttByte (c : Core) (e : Nat) : Nat := (nth c.tt (e / 8) 0).toNat / 2 ^ (8 * (e % 8)) % 256

end Sys2Proof
end

