-- ==== Sys2Proof/Certificates/Slice0/Obligations.lean ====
section
/-!
DEFINITION. The statements for the provers.
-/
open Sys2Proof Sys2Proof.Machine



/-! ## Lane instructions -/

/-- R69, R70: the arithmetic lane instructions give the elements of their tables, computed exactly and narrowed. -/
def Claims.IntegerArithmeticGivesTheElementsOfItsTables : Prop :=
  ∀ (w : Width) (b a : Src) (d : DReg),
    Narrows (.add w b a d) [a.reg, b.reg] [a, b] d (widthBits w)
        (fun s k j => ue (widthBits w) (srcV s a k) j + ue (widthBits w) (srcV s b k) j) ∧
      Narrows (.sub w b a d) [a.reg, b.reg] [a, b] d (widthBits w)
        (fun s k j => ue (widthBits w) (srcV s a k) j - ue (widthBits w) (srcV s b k) j) ∧
      Narrows (.mul w b a d) [a.reg, b.reg] [a, b] d (widthBits w)
        (fun s k j => ue (widthBits w) (srcV s a k) j * ue (widthBits w) (srcV s b k) j) ∧
      Narrows (.mulh w b a d) [a.reg, b.reg] [a, b] d (widthBits w)
        (fun s k j => se (widthBits w) (srcV s a k) j * se (widthBits w) (srcV s b k) j / 2 ^ widthBits w) ∧
      Narrows (.mad w b a d) [a.reg, b.reg, d] [a, b] d (widthBits w)
        (fun s k j => ue (widthBits w) (readD (cur s) d k) j +
          ue (widthBits w) (srcV s a k) j * ue (widthBits w) (srcV s b k) j) ∧
      Narrows (.min w b a d) [a.reg, b.reg] [a, b] d (widthBits w)
        (fun s k j => min (se (widthBits w) (srcV s a k) j) (se (widthBits w) (srcV s b k) j)) ∧
      Narrows (.max w b a d) [a.reg, b.reg] [a, b] d (widthBits w)
        (fun s k j => max (se (widthBits w) (srcV s a k) j) (se (widthBits w) (srcV s b k) j)) ∧
      Narrows (.minu w b a d) [a.reg, b.reg] [a, b] d (widthBits w)
        (fun s k j => min (ue (widthBits w) (srcV s a k) j) (ue (widthBits w) (srcV s b k) j)) ∧
      Narrows (.maxu w b a d) [a.reg, b.reg] [a, b] d (widthBits w)
        (fun s k j => max (ue (widthBits w) (srcV s a k) j) (ue (widthBits w) (srcV s b k) j)) ∧
      Narrows (.abs w a d) [a.reg] [a] d (widthBits w) (fun s k j => |se (widthBits w) (srcV s a k) j|) ∧
      Narrows (.neg w a d) [a.reg] [a] d (widthBits w) (fun s k j => -ue (widthBits w) (srcV s a k) j)

/-- R69: the shifts and the rotation, by the low log2(w) bits of B. -/
def Claims.ShiftsGiveTheElementsOfTheirTable : Prop :=
  ∀ (w : Width) (b a : Src) (d : DReg),
    let n := widthBits w
    let c := fun (s : State) (k j : Nat) => elem (srcV s b k) j n % n
    Narrows (.shl w b a d) [a.reg, b.reg] [a, b] d n (fun s k j => ue n (srcV s a k) j * 2 ^ c s k j) ∧
      Narrows (.shr w b a d) [a.reg, b.reg] [a, b] d n (fun s k j => ue n (srcV s a k) j / 2 ^ c s k j) ∧
      Narrows (.sar w b a d) [a.reg, b.reg] [a, b] d n (fun s k j => se n (srcV s a k) j / 2 ^ c s k j) ∧
      GivesElems (.rot w b a d) [a.reg, b.reg] [a, b] d n (fun s k j r =>
        ∀ i, i < n → r.testBit ((i + c s k j) % n) = (elem (srcV s a k) j n).testBit i)

/-- R70: leading and trailing zeros, the number of one bits, the reversed element. -/
def Claims.BitCountsGiveTheElementsOfTheirTable : Prop :=
  ∀ (w : Width) (a : Src) (d : DReg),
    let n := widthBits w
    let x := fun (s : State) (k j : Nat) => elem (srcV s a k) j n
    GivesElems (.clz w a d) [a.reg] [a] d n (fun s k j r =>
        r = if x s k j = 0 then n else n - 1 - Nat.log2 (x s k j)) ∧
      GivesElems (.ctz w a d) [a.reg] [a] d n (fun s k j r =>
        r ≤ n ∧ (∀ i, i < r → (x s k j).testBit i = false) ∧ (r < n → (x s k j).testBit r = true)) ∧
      GivesElems (.popc w a d) [a.reg] [a] d n (fun s k j r =>
        r = ((List.range n).filter fun i => (x s k j).testBit i).length) ∧
      GivesElems (.brev w a d) [a.reg] [a] d n (fun s k j r =>
        ∀ i, i < n → r.testBit (n - 1 - i) = (x s k j).testBit i)

/-- R71: the words of the bit-field instructions, and their elements, whose position and length the element of B gives. -/
def Obligations.BitFieldsGiveTheElementsOfR71 : Prop :=
  ∀ (w : Width) (b a : Src) (d : DReg),
    let n := widthBits w
    let pos := fun (s : State) (k j : Nat) => elem (srcV s b k) j n % n
    let len := fun (s : State) (k j : Nat) => min (elem (srcV s b k) j n / n % (2 * n)) (n - pos s k j)
    encode (.bfx w b a d) = some (4, 1 + 2 * 0x0B + 2 ^ 7 * d.code + 2 ^ 13 * a.reg.code + 2 ^ 19 * a.use.code +
        2 ^ 21 * b.reg.code + 2 ^ 27 * b.use.code + 2 ^ 29 * w.code) ∧
      encode (.bfi w b a d) = some (4, 1 + 2 * 0x0B + 2 ^ 7 * d.code + 2 ^ 13 * a.reg.code + 2 ^ 19 * a.use.code +
        2 ^ 21 * b.reg.code + 2 ^ 27 * b.use.code + 2 ^ 29 * w.code + 2 ^ 31) ∧
      GivesElems (.bfx w b a d) [a.reg, b.reg] [a, b] d n (fun s k j r =>
        r = elem (srcV s a k) j n / 2 ^ pos s k j % 2 ^ len s k j) ∧
      GivesElems (.bfi w b a d) [a.reg, b.reg, d] [a, b] d n (fun s k j r =>
        ∀ i, i < n → r.testBit i =
          if pos s k j ≤ i ∧ i < pos s k j + len s k j then (elem (srcV s a k) j n).testBit (i - pos s k j)
          else (elem (readD (cur s) d k) j n).testBit i)

/-- R72, R76, R77: the logical instructions, the constants and the immediate sum. -/
def Claims.LogicAndConstantsGiveTheirValues : Prop :=
  ∀ (w : Width) (b a : Src) (d : DReg) (imm : BitVec 16) (imm10 : BitVec 10),
    GivesWord (.and b a d) [a.reg, b.reg] [a, b] d (fun s k => srcV s a k &&& srcV s b k) ∧
      GivesWord (.or b a d) [a.reg, b.reg] [a, b] d (fun s k => srcV s a k ||| srcV s b k) ∧
      GivesWord (.xor b a d) [a.reg, b.reg] [a, b] d (fun s k => srcV s a k ^^^ srcV s b k) ∧
      GivesWord (.andn b a d) [a.reg, b.reg] [a, b] d (fun s k => srcV s a k &&& ~~~srcV s b k) ∧
      GivesWord (.not a d) [a.reg] [a] d (fun s k => ~~~srcV s a k) ∧
      GivesElems (.perm b a d) [a.reg, b.reg] [a, b] d 8 (fun s k j r =>
        r = if 128 ≤ elem (srcV s b k) j 8 then 0 else elem (srcV s a k) (elem (srcV s b k) j 8 % 8) 8) ∧
      GivesWord (.li imm d) [] [] d (fun _ _ => imm.signExtend 64) ∧
      GivesElems (.lih0 imm d) [d] [] d 16 (fun s k j r => r = if j = 0 then imm.toNat else elem (readD (cur s) d k) j 16) ∧
      GivesElems (.lih1 imm d) [d] [] d 16 (fun s k j r => r = if j = 1 then imm.toNat else elem (readD (cur s) d k) j 16) ∧
      GivesElems (.lih2 imm d) [d] [] d 16 (fun s k j r => r = if j = 2 then imm.toNat else elem (readD (cur s) d k) j 16) ∧
      GivesElems (.lih3 imm d) [d] [] d 16 (fun s k j r => r = if j = 3 then imm.toNat else elem (readD (cur s) d k) j 16) ∧
      Narrows (.addi w imm10 a.reg d) [a.reg] [plainSrc a.reg] d (widthBits w) (fun s k j =>
        ue (widthBits w) (readD (cur s) a.reg k) j + imm10.toInt)

/-- R72, R73, R140: `mov` and `sel` carry value and poison onward. -/
def Claims.MovesAndSelectionsCarryValueAndPoison : Prop :=
  ∀ (w : Width) (p : PReg) (b : DReg) (a : Src) (d : DReg) (s : State), OperandsClear s [] [] [d] [] →
    exec (.mov a d) s = .next (retireWith s [a] false fun x =>
        writeD x d ((issued s).map fun k => (k, srcV s a k, poisonD (cur s) a.reg k))) ∧
      ∃ (v : Nat → Word) (q : Nat → Option Nat),
        exec (.sel p w b a d) s = .next (retireWith s [a] false fun x => writeD x d ((issued s).map fun k => (k, v k, q k))) ∧
          ∀ k ∈ issued s,
            (∀ j, j < 64 / widthBits w → elem (v k) j (widthBits w) =
              if (readP (cur s) p k).getLsbD j then elem (srcV s a k) j (widthBits w)
              else elem (readD (cur s) b k) j (widthBits w)) ∧
            (∀ c, poisonD (cur s) a.reg k = some c → (∃ j, j < 64 / widthBits w ∧ (readP (cur s) p k).getLsbD j = true) →
              q k = some c) ∧
            ((poisonD (cur s) a.reg k = none ∨ ∀ j, j < 64 / widthBits w → (readP (cur s) p k).getLsbD j = false) →
              q k = if ∃ j, j < 64 / widthBits w ∧ (readP (cur s) p k).getLsbD j = false then poisonD (cur s) b k else none)

/-- R74, R75: conversion between integer widths, packing and unpacking. -/
def Claims.WidthConversionsGiveTheElementsOfR74R75 : Prop :=
  ∀ (u sat h : Bool) (wd ws : Width) (b a : Src) (d : DReg),
    GivesElems (.cvtI u wd sat ws a d) [a.reg] [a] d (widthBits wd) (fun s k j r =>
        if j < 64 / max (widthBits wd) (widthBits ws) then
          let x := if u then ue (widthBits ws) (srcV s a k) j else se (widthBits ws) (srcV s a k) j
          let y := if sat ∧ widthBits wd < widthBits ws then
              (if u then min (max x 0) (2 ^ widthBits wd - 1)
               else min (max x (-(2 ^ (widthBits wd - 1)))) (2 ^ (widthBits wd - 1) - 1))
            else x
          Int.ofNat r = y % 2 ^ widthBits wd
        else r = 0) ∧
      (ws ≠ .b → GivesElems (.pack ws b a d) [a.reg, b.reg] [a, b] d (widthBits ws / 2) (fun s k j r =>
        r = if j < 64 / widthBits ws then elem (srcV s a k) j (widthBits ws) % 2 ^ (widthBits ws / 2)
          else elem (srcV s b k) (j - 64 / widthBits ws) (widthBits ws) % 2 ^ (widthBits ws / 2))) ∧
      (wd ≠ .b → Narrows (.unpack wd h a d) [a.reg] [a] d (widthBits wd) (fun s k j =>
        se (widthBits wd / 2) (srcV s a k) (j + if h then 64 / widthBits wd else 0)))

/-- R78 to R80, R163: comparisons and predicate instructions set the bits that their rules give, and the bits above the
number of sub-elements are 0. -/
def Obligations.ComparisonsSetThePredicateBitsOfTheirRules : Prop :=
  ∀ (c : ICond) (fc : FCond) (w : Width) (f : FWidth) (b a : Src) (i : BitVec 8) (p q r : PReg) (s : State),
    (OperandsClear s [a.reg, b.reg] [] [] [] → ∃ v : Nat → BitVec 8,
      exec (.cmp c b a w p) s = .next (retireWith s [a, b] false (setting s p v)) ∧
        ∀ k ∈ issued s, ∀ j, j < 8 → ((v k).getLsbD j = true ↔ j < 64 / widthBits w ∧
          holdsI c (widthBits w) (elem (srcV s a k) j (widthBits w)) (elem (srcV s b k) j (widthBits w)))) ∧
    (OperandsClear s [a.reg] [] [] [] → ∃ v : Nat → BitVec 8,
      exec (.cmpi c i a w p) s = .next (retireWith s [a] false (setting s p v)) ∧
        ∀ k ∈ issued s, ∀ j, j < 8 → ((v k).getLsbD j = true ↔ j < 64 / widthBits w ∧
          holdsI c (widthBits w) (elem (srcV s a k) j (widthBits w)) (i.toInt % 2 ^ widthBits w).toNat)) ∧
    (OperandsClear s [a.reg, b.reg] [] [] [] → ∃ v : Nat → BitVec 8,
      exec (.fcmp fc b a f p) s = .next (retireWith s [a, b] false (setting s p v)) ∧
        ∀ k ∈ issued s, ∀ j, j < 8 → ((v k).getLsbD j = true ↔ j < 64 / fwBits f ∧
          holdsF fc (fdecode (fwFmt f) (elem (srcV s a k) j (fwBits f))) (fdecode (fwFmt f) (elem (srcV s b k) j (fwBits f))))) ∧
    (∃ v : Nat → BitVec 8, exec (.pand r q p) s = .next (retireWith s [] false (setting s p v)) ∧
      ∀ k ∈ issued s, v k = readP (cur s) q k &&& readP (cur s) r k) ∧
    (∃ v : Nat → BitVec 8, exec (.por r q p) s = .next (retireWith s [] false (setting s p v)) ∧
      ∀ k ∈ issued s, v k = readP (cur s) q k ||| readP (cur s) r k) ∧
    (∃ v : Nat → BitVec 8, exec (.pxor r q p) s = .next (retireWith s [] false (setting s p v)) ∧
      ∀ k ∈ issued s, v k = readP (cur s) q k ^^^ readP (cur s) r k) ∧
    (∃ v : Nat → BitVec 8, exec (.pnot q p) s = .next (retireWith s [] false (setting s p v)) ∧
      ∀ k ∈ issued s, v k = ~~~ readP (cur s) q k)

/-- Integer arithmetic, shifts and bit counts give the elements of their tables. -/
def Obligations.IntegerInstructionsGiveTheElementsOfTheirTables : Prop :=
  Claims.IntegerArithmeticGivesTheElementsOfItsTables ∧
  Claims.ShiftsGiveTheElementsOfTheirTable ∧
  Claims.BitCountsGiveTheElementsOfTheirTable

/-- Logic, constants, moves, selections and width conversions give their values. -/
def Obligations.LogicMovesAndConversionsGiveTheirValues : Prop :=
  Claims.LogicAndConstantsGiveTheirValues ∧
  Claims.MovesAndSelectionsCarryValueAndPoison ∧
  Claims.WidthConversionsGiveTheElementsOfR74R75

/-- R67, R81 to R85: every float lane instruction whose operands do not fault retires and writes D: the arithmetic rounds the exact
result once to nearest even, `fscale`, `fmin`, `fmax`, `fround` and `fclass` give the values of their own cases, `fabs` and `fneg`
change the sign bit alone, the special functions go through binary32, and stochastic rounding advances STEP. -/
def Obligations.EveryFloatInstructionRetiresAndWrites : Prop :=
  ∀ (f : FWidth) (rnd : Rnd) (dst src : CFmt) (b a : Src) (d : DReg) (s : State),
    let n := fwBits f
    let F := fwFmt f
    let X := fun (k j : Nat) => elem (srcV s a k) j n
    let Y := fun (k j : Nat) => elem (srcV s b k) j n
    let A := fun (k j : Nat) => fdecode F (X k j)
    let B := fun (k j : Nat) => fdecode F (Y k j)
    let D := fun (k j : Nat) => fdecode F (elem (readD (cur s) d k) j n)
    let elements := fun (v : Nat → Word) (r : Nat → Nat → Nat → Prop) => ∀ k ∈ issued s, ∀ j, j < 64 / n → r k j (elem (v k) j n)
    (OperandsClear s [a.reg, b.reg] [] [d] [] →
      (∃ v, exec (.fadd f b a d) s = .next (retireWith s [a, b] false (writing s d v)) ∧
        elements v fun k j r => r = frne F (faddV false (A k j) (B k j))) ∧
      (∃ v, exec (.fsub f b a d) s = .next (retireWith s [a, b] false (writing s d v)) ∧
        elements v fun k j r => r = frne F (faddV false (A k j) (fnegV (B k j)))) ∧
      (∃ v, exec (.fmul f b a d) s = .next (retireWith s [a, b] false (writing s d v)) ∧
        elements v fun k j r => r = frne F (fmulV (A k j) (B k j))) ∧
      (∃ v, exec (.fscale f b a d) s = .next (retireWith s [a, b] false (writing s d v)) ∧
        elements v fun k j r =>
          match A k j with
          | .nan => r = fmtNaN F
          | .inf _ => r = X k j
          | .fin neg m e => r = if m = 0 then X k j else frne F (.fin neg m (e + se n (srcV s b k) j))) ∧
      (∃ v, exec (.fmin f b a d) s = .next (retireWith s [a, b] false (writing s d v)) ∧
        elements v fun k j r =>
          (A k j = .nan → B k j = .nan → r = fmtNaN F) ∧ (A k j = .nan → B k j ≠ .nan → r = Y k j) ∧
          (A k j ≠ .nan → B k j = .nan → r = X k j) ∧
          (A k j ≠ .nan → B k j ≠ .nan → (r = X k j ∨ r = Y k j) ∧ ratOf (fdecode F r) = min (ratOf (A k j)) (ratOf (B k j)) ∧
            (ratOf (A k j) = ratOf (B k j) → (r.testBit (n - 1) = true ↔ (X k j).testBit (n - 1) = true ∨ (Y k j).testBit (n - 1) = true)))) ∧
      (∃ v, exec (.fmax f b a d) s = .next (retireWith s [a, b] false (writing s d v)) ∧
        elements v fun k j r =>
          (A k j = .nan → B k j = .nan → r = fmtNaN F) ∧ (A k j = .nan → B k j ≠ .nan → r = Y k j) ∧
          (A k j ≠ .nan → B k j = .nan → r = X k j) ∧
          (A k j ≠ .nan → B k j ≠ .nan → (r = X k j ∨ r = Y k j) ∧ ratOf (fdecode F r) = max (ratOf (A k j)) (ratOf (B k j)) ∧
            (ratOf (A k j) = ratOf (B k j) → (r.testBit (n - 1) = true ↔ (X k j).testBit (n - 1) = true ∧ (Y k j).testBit (n - 1) = true))))) ∧
    (OperandsClear s [a.reg, b.reg, d] [] [d] [] →
      (∃ v, exec (.fma f b a d) s = .next (retireWith s [a, b] false (writing s d v)) ∧
        elements v fun k j r => r = frne F (faddV false (fmulV (A k j) (B k j)) (D k j))) ∧
      (∃ v, exec (.fnma f b a d) s = .next (retireWith s [a, b] false (writing s d v)) ∧
        elements v fun k j r => r = frne F (faddV false (fnegV (fmulV (A k j) (B k j))) (D k j)))) ∧
    (OperandsClear s [a.reg] [] [d] [] →
      (∃ v, exec (.fabs f a d) s = .next (retireWith s [a] false (writing s d v)) ∧
        elements v fun k j r => r = X k j % 2 ^ (n - 1)) ∧
      (∃ v, exec (.fneg f a d) s = .next (retireWith s [a] false (writing s d v)) ∧
        elements v fun k j r => r % 2 ^ (n - 1) = X k j % 2 ^ (n - 1) ∧ r.testBit (n - 1) = !(X k j).testBit (n - 1)) ∧
      (∃ v, exec (.fclass f a d) s = .next (retireWith s [a] false (writing s d v)) ∧
        elements v fun k j r =>
          ∃ c, c < 10 ∧ r = 2 ^ c ∧ (c = 0 ↔ A k j = .inf true) ∧ (c = 7 ↔ A k j = .inf false) ∧ (c = 3 ↔ X k j = 2 ^ (n - 1)) ∧
            (c = 4 ↔ X k j = 0) ∧ (c = 2 ∨ c = 5 ↔ 0 < X k j % 2 ^ (n - 1) ∧ X k j % 2 ^ (n - 1) < 2 ^ F.fbits) ∧
            (8 ≤ c ↔ A k j = .nan) ∧ (c = 9 ↔ A k j = .nan ∧ (X k j).testBit (F.fbits - 1) = true) ∧
            (c < 8 → (c < 4 ↔ (X k j).testBit (n - 1) = true))) ∧
      (∃ v, exec (.fround rnd f a d) s = .next (retireWith s [a] false (writing s d v)) ∧
        elements v fun k j r =>
          match A k j with
          | .nan => r = fmtNaN F
          | .inf _ => r = X k j
          | .fin neg m e => r = froundFin F .rne neg (roundIntMag (rmodeOf rnd 0) neg m e) 0) ∧
      exec (.fcvt dst rnd src a d) s = .next (retireWith s [a] false fun x =>
        let x := writing s d (fun k => fcvtW dst src rnd (cur s).seed (cur s).stepCount k (srcV s a k)) x
        if rnd = .sr then { x with stepCount := x.stepCount + 1 } else x) ∧
      (∃ v, exec (.frcp f a d) s = .next (retireWith s [a] false (writing s d v)) ∧
        elements v fun k j r => r = viaF32 f frcp32 (X k j) % 2 ^ n) ∧
      (∃ v, exec (.frsq f a d) s = .next (retireWith s [a] false (writing s d v)) ∧
        elements v fun k j r => r = viaF32 f frsq32 (X k j) % 2 ^ n) ∧
      (∃ v, exec (.fsqrt f a d) s = .next (retireWith s [a] false (writing s d v)) ∧
        elements v fun k j r => r = viaF32 f fsqrt32 (X k j) % 2 ^ n) ∧
      (∃ v, exec (.fexp2 f a d) s = .next (retireWith s [a] false (writing s d v)) ∧
        elements v fun k j r => r = viaF32 f fexp232 (X k j) % 2 ^ n) ∧
      (∃ v, exec (.flog2 f a d) s = .next (retireWith s [a] false (writing s d v)) ∧
        elements v fun k j r => r = viaF32 f flog232 (X k j) % 2 ^ n) ∧
      (∃ v, exec (.fsin f a d) s = .next (retireWith s [a] false (writing s d v)) ∧
        elements v fun k j r => r = viaF32 f fsin32 (X k j) % 2 ^ n) ∧
      (∃ v, exec (.fcos f a d) s = .next (retireWith s [a] false (writing s d v)) ∧
        elements v fun k j r => r = viaF32 f fcos32 (X k j) % 2 ^ n) ∧
      ∃ v, exec (.ftanh f a d) s = .next (retireWith s [a] false (writing s d v)) ∧
        elements v fun k j r => r = viaF32 f ftanh32 (X k j) % 2 ^ n)

/-- R58, R62: the sums and products that the float instructions round are exact, and a sum or product of finite values is
finite. -/
def Claims.SumsAndProductsOfFiniteValuesAreExact : Prop :=
  ∀ (x y : FVal) (p q : ℚ), ratOf x = ((p : WithTop ℚ) : WithBot (WithTop ℚ)) →
    ratOf y = ((q : WithTop ℚ) : WithBot (WithTop ℚ)) →
      ratOf (faddV false x y) = (((p + q : ℚ) : WithTop ℚ) : WithBot (WithTop ℚ)) ∧
        ratOf (fmulV x y) = (((p * q : ℚ) : WithTop ℚ) : WithBot (WithTop ℚ)) ∧
        ratOf (fnegV x) = (((-p : ℚ) : WithTop ℚ) : WithBot (WithTop ℚ))

/-- R63, R65, R84: the magnitude of a finite value rounded to an integer, by each mode; and an element of `fcvt`, whose stochastic
rounding takes the word that Philox draws for its seat and place. -/
def Claims.ConversionsRoundByTheirMode : Prop :=
  (∀ (neg : Bool) (m : Nat) (e : Int),
    let q : ℚ := m * (2 : ℚ) ^ e
    roundIntMag .rtz neg m e = ⌊q⌋₊ ∧
      roundIntMag .rup neg m e = (if neg then ⌊q⌋₊ else ⌈q⌉₊) ∧
      roundIntMag .rdn neg m e = (if neg then ⌈q⌉₊ else ⌊q⌋₊) ∧
      |(roundIntMag .rne neg m e : ℚ) - q| ≤ 1 / 2 ∧
      (|(roundIntMag .rne neg m e : ℚ) - q| = 1 / 2 → roundIntMag .rne neg m e % 2 = 0)) ∧
  ∀ (r : Rnd) (dst src : CFmt) (seed step x : Word) (k j : Nat), j < min (64 / cfmtBits src) (64 / cfmtBits dst) →
    elem (fcvtW dst src r seed step k x) j (cfmtBits dst) =
      fcvt1 dst src (rmodeOf r (philoxWord seed step k j)) (elem x j (cfmtBits src)) % 2 ^ cfmtBits dst

/-- R85: the special functions in binary32 give the stated result in each special case. -/
def Claims.SpecialFunctionsGiveTheStatedSpecialCases : Prop :=
  -- ±0, ±∞, −1 and a NaN in binary32
  [frcp32 0, frcp32 0x80000000, frcp32 0x7F800000, frcp32 0xFF800000] = [0x7F800000, 0xFF800000, 0, 0x80000000] ∧
  [frsq32 0, frsq32 0x80000000, frsq32 0xBF800000, frsq32 0x7F800000] = [0x7F800000, 0xFF800000, 0x7FC00000, 0] ∧
  [fsqrt32 0x80000000, fsqrt32 0xBF800000, fsqrt32 0x7F800000] = [0x80000000, 0x7FC00000, 0x7F800000] ∧
  [fexp232 0xFF800000, fexp232 0x7F800000] = [0, 0x7F800000] ∧
  [flog232 0, flog232 0x80000000, flog232 0xBF800000, flog232 0x3F800000, flog232 0x7F800000] =
    [0xFF800000, 0xFF800000, 0x7FC00000, 0, 0x7F800000] ∧
  [fsin32 0, fsin32 0x80000000, fsin32 0x7F800000] = [0, 0x80000000, 0x7FC00000] ∧
  [fcos32 0, fcos32 0x80000000, fcos32 0x7F800000] = [0x3F800000, 0x3F800000, 0x7FC00000] ∧
  [ftanh32 0, ftanh32 0x80000000, ftanh32 0x7F800000, ftanh32 0xFF800000] = [0, 0x80000000, 0x3F800000, 0xBF800000] ∧
  ∀ x, fdecode fmt32 x = .nan → [frcp32 x, frsq32 x, fsqrt32 x, fexp232 x, flog232 x, fsin32 x, fcos32 x, ftanh32 x] =
    List.replicate 8 0x7FC00000

/-- R259, R266, R274, R275: with MODARITH, the modular instructions give the values of their tables. -/
def Claims.ModularInstructionsGiveTheValuesOfTheirTables : Prop :=
  ∀ (b a : Src) (d : DReg) (s : State),
    let q := (readD (cur s) (sReg 12) 0).toNat
    let q' := (readD (cur s) (sReg 13) 0).toNat
    let A := fun k => (srcV s a k).toNat
    let B := fun k => (srcV s b k).toNat
    let addq := fun x y : Nat => (if q ≤ x + y then x + y - q else x + y) % 2 ^ 64
    let subq := fun x y : Nat => if y ≤ x then x - y else (x + q + 2 ^ 64 - y) % 2 ^ 64
    let mont := fun x y : Nat =>
      let u := (x * y + x * y % 2 ^ 64 * q' % 2 ^ 64 * q) / 2 ^ 64
      (if q ≤ u then u - q else u) % 2 ^ 64
    (declaredMask s).getLsbD 1 = true →
    (OperandsClear s [a.reg, b.reg, sReg 12, sReg 13] [] [d] [] →
      exec (.modadd b a d) s = .next (retireWith s [a, b] false (writing s d fun k => BitVec.ofNat 64 (addq (A k) (B k)))) ∧
      exec (.modsub b a d) s = .next (retireWith s [a, b] false (writing s d fun k => BitVec.ofNat 64 (subq (A k) (B k)))) ∧
      exec (.mred b a d) s = .next (retireWith s [a, b] false (writing s d fun k =>
        BitVec.ofNat 64 (if q = 0 then 0 else (B k % 2 ^ 48 * 2 ^ 48 + A k % 2 ^ 48) % q))) ∧
      exec (.modmul b a d) s = .next (retireWith s [a, b] false (writing s d fun k => BitVec.ofNat 64 (mont (A k) (B k))))) ∧
    (OperandsClear s [a.reg, d, d.succ, sReg 12, sReg 13] [] [d, d.succ] [] →
      let x := fun k => (readD (cur s) d k).toNat
      let y := fun k => (readD (cur s) d.succ k).toNat
      exec (.nttbf a d) s = .next (retireWith s [a] false fun z =>
        writing s d.succ (fun k => BitVec.ofNat 64 (subq (x k) (mont (y k) (A k))))
          (writing s d (fun k => BitVec.ofNat 64 (addq (x k) (mont (y k) (A k)))) z)) ∧
      exec (.inttbf a d) s = .next (retireWith s [a] false fun z =>
        writing s d.succ (fun k => BitVec.ofNat 64 (mont (subq (x k) (y k)) (A k)))
          (writing s d (fun k => BitVec.ofNat 64 (addq (x k) (y k))) z)))

/-- R259: with an odd modulus below 2^62, a correct q' and residues below q, a Montgomery product is the residue
a b 2^-64 mod q. -/
def Claims.MontgomeryProductsAreResidues : Prop :=
  ∀ q q' x y : Nat, q % 2 = 1 → 3 ≤ q → q < 2 ^ 62 → q * q' % 2 ^ 64 = 2 ^ 64 - 1 → q' < 2 ^ 64 → x < q → y < q →
    lazyQ q q' x y < 2 * q ∧ montQ q q' x y < q ∧ montQ q q' x y * 2 ^ 64 % q = x * y % q

/-- R22, R26, R86, R87: every half-word with bit 0 clear is an instruction. The half-word 0 has no effect but that it counts as an
instruction; every other one, also where D equals A, has exactly the effect of its 32-bit equivalent at the widths of the clause. -/
def Obligations.HalfWordFormsAreTheirFullWordEquivalents : Prop :=
  ∀ (l : Bool) (a d : Fin 32) (s : State),
    let D := plainSrc (lowV d)
    let A : Src := ⟨lowV a, if l then .last else .plain⟩
    let iw := clauseIw (headerW (curHeader s))
    let fw := clauseFw (headerW (curHeader s))
    let Same := fun (i j : Instr) => ∃ t, exec i s = .next t ∧ exec j s = .next t
    (∀ (lo hi : Byte) (rest : List Byte), lo.toNat % 2 = 0 →
      decodeBytes (lo :: hi :: rest) = some (.ok (decode16 (lo.toNat + 256 * hi.toNat)), 2, rest)) ∧
    decode16 0 = .mov16 false 0 0 ∧
    (Shaped (cur s) → ∃ t, exec (.mov16 false 0 0) s = .next t ∧ LeavesOutside s t ∧ (cur t).vrows = (cur s).vrows ∧
      (cur t).crows = (cur s).crows ∧ (cur t).sregs = (cur s).sregs ∧ PredsKept s t (fun _ => False) ∧ BenchKept s t ∧
      SeatsBecome s t (fun _ x => pastSeat x s.sel.len false)) ∧
    (l = true ∨ a ≠ 0 ∨ d ≠ 0 → OperandsClear s [] [] [lowV d] [] → Same (.mov16 l a d) (.mov A (lowV d))) ∧
    (OperandsClear s [lowV d, lowV a] [] [lowV d] [] →
      Same (.add16 l a d) (.add iw A D (lowV d)) ∧ Same (.sub16 l a d) (.sub iw A D (lowV d)) ∧
      Same (.mul16 l a d) (.mul iw A D (lowV d)) ∧ Same (.and16 l a d) (.and A D (lowV d)) ∧
      Same (.or16 l a d) (.or A D (lowV d)) ∧ Same (.xor16 l a d) (.xor A D (lowV d)) ∧
      Same (.shl16 l a d) (.shl iw A D (lowV d)) ∧ Same (.shr16 l a d) (.shr iw A D (lowV d)) ∧
      Same (.sar16 l a d) (.sar iw A D (lowV d)) ∧ Same (.min16 l a d) (.min iw A D (lowV d)) ∧
      Same (.max16 l a d) (.max iw A D (lowV d)) ∧ Same (.fadd16 l a d) (.fadd fw A D (lowV d)) ∧
      Same (.fsub16 l a d) (.fsub fw A D (lowV d)) ∧ Same (.fmul16 l a d) (.fmul fw A D (lowV d))) ∧
    (OperandsClear s [lowV a, sReg 15, lowV d] [] [lowV d] [] →
      Same (.fma16 l a d) (.fma fw (plainSrc (sReg 15)) A (lowV d)))

/-- R162 to R164: the exchanges read the elements of other seats as they stood before the pass. -/
def Claims.ExchangesReadTheElementsOfOtherSeats : Prop :=
  ∀ (b a : Src) (d : DReg) (k : BitVec 5) (p q : PReg) (w : Width) (s : State),
    (OperandsClear s [b.reg] [] [d] [] → (∀ t, t < 32 → poisonD (cur s) a.reg t = none) →
      exec (.shfl b a d) s = .next (retireWith s [a, b] false (writing s d fun t => srcV s a ((srcV s b t).toNat % 32))) ∧
      ∃ v, exec (.shflx b a d) s = .next (retireWith s [a, b] false (writing s d v)) ∧
        ∀ t ∈ issued s, ∀ j, j < 8 →
          elem (v t) j 8 = elem (srcV s a (elem (srcV s b t) j 8 / 8)) (elem (srcV s b t) j 8 % 8) 8) ∧
    (OperandsClear s [] [] [d] [] →
      (poisonD (cur s) a.reg k.toNat = none →
        exec (.bcast k a d) s = .next (retireWith s [a] false (writing s d fun _ => srcV s a k.toNat))) ∧
      ∃ v, exec (.ballot p d) s = .next (retireWith s [] false (writing s d v)) ∧
        ∀ t ∈ issued s, ∀ j, j < 64 → ((v t).getLsbD j = true ↔ j ∈ issued s ∧ (readP (cur s) p j).getLsbD 0 = true)) ∧
    (OperandsClear s [a.reg] [] [d] [] → ∃ v, exec (.matchSeats a d) s = .next (retireWith s [a] false (writing s d v)) ∧
      ∀ t ∈ issued s, ∀ j, j < 64 → ((v t).getLsbD j = true ↔ j ∈ issued s ∧ srcV s a j = srcV s a t)) ∧
    (∃ v, exec (.voteAny p w q) s = .next (retireWith s [] false (setting s q v)) ∧
      ∀ t ∈ issued s, ∀ j, j < 8 → ((v t).getLsbD j = true ↔
        j < 64 / widthBits w ∧ ∃ u ∈ issued s, (readP (cur s) p u).getLsbD j = true)) ∧
    (∃ v, exec (.voteAll p w q) s = .next (retireWith s [] false (setting s q v)) ∧
      ∀ t ∈ issued s, ∀ j, j < 8 → ((v t).getLsbD j = true ↔
        j < 64 / widthBits w ∧ ∀ u ∈ issued s, (readP (cur s) p u).getLsbD j = true))

/-- R165: `scan` and `red` combine the issued seats in ascending order, starting from the first element; an exclusive scan
starts from the identity. -/
def Claims.ScansCombineTheIssuedSeatsInAscendingOrder : Prop :=
  ∀ (w : Width) (x fl : Bool) (o : BitVec 3) (a : Src) (d : DReg),
    let n := scanBits w fl
    let incl := fun (s : State) (j : Nat) (ts : List Nat) =>
      match ts with
      | [] => scanIdentity w fl o
      | t :: rest => rest.foldl (fun acc u => scanStep w fl o acc (elem (srcV s a u) j n)) (elem (srcV s a t) j n)
    GivesElems (.scan w x fl o a d) [a.reg] [a] d n (fun s k j r =>
        r = incl s j ((issued s).filter fun t => if x then decide (t < k) else decide (t ≤ k)) % 2 ^ n) ∧
      GivesElems (.red w fl o a d) [a.reg] [a] d n (fun s _ j r => r = incl s j (issued s) % 2 ^ n)

/-- Sums and products of finite values are exact, conversions round by their mode, and special cases are as stated. -/
def Obligations.FloatValuesAreExactAndRounded : Prop :=
  Claims.SumsAndProductsOfFiniteValuesAreExact ∧
  Claims.ConversionsRoundByTheirMode ∧
  Claims.SpecialFunctionsGiveTheStatedSpecialCases

/-- Modular instructions give the values of their tables, and Montgomery products are residues. -/
def Obligations.ModularInstructionsGiveResidues : Prop :=
  Claims.ModularInstructionsGiveTheValuesOfTheirTables ∧ Claims.MontgomeryProductsAreResidues

/-- Exchanges and scans combine the elements of the issued seats. -/
def Obligations.ExchangesAndScansCombineSeats : Prop :=
  Claims.ExchangesReadTheElementsOfOtherSeats ∧ Claims.ScansCombineTheIssuedSeatsInAscendingOrder

/-! ## What a pass changes and what it leaves alone -/

/-- R7, R35, R87, R136, R137: a pass that writes a data register. Each issued seat reads its value from a v register; an s
register holds the value of the lowest issued seat; every issued seat moves past the instruction. Every other register,
predicate, flag, seat and bench, and all memory, is as before, but for the last reads. -/
def Claims.ADataRegisterPassChangesItsDestinationAlone : Prop :=
  ∀ (s : State) (srcs : List Src) (closes : Bool) (d : DReg) (v : Nat → Word), Shaped (cur s) →
    let t := retireWith s srcs closes (writing s d v)
    Shaped (cur t) ∧ LeavesOutside s t ∧ DataKept s t srcs (· = d) ∧ CapsKept s t (fun _ => False) ∧
      PredsKept s t (fun _ => False) ∧ BenchKept s t ∧ SeatsBecome s t (fun _ x => pastSeat x s.sel.len closes) ∧
      (d.isV = true → ∀ k, (k ∈ issued s → readD (cur t) d k = v k ∧ poisonD (cur t) d k = none) ∧
        (k ∉ issued s → readD (cur t) d k = readD (cur s) d k ∧ poisonD (cur t) d k = poisonD (cur s) d k)) ∧
      (d.isV = false → ∀ k, issued s ≠ [] →
        readD (cur t) d k = v ((issued s).headD 0) ∧ poisonD (cur t) d k = none)

/-- R6, R54: a pass that writes a predicate; a write to p0 is discarded. -/
def Claims.APredicatePassChangesItsPredicateAlone : Prop :=
  ∀ (s : State) (srcs : List Src) (closes : Bool) (p : PReg) (v : Nat → BitVec 8), Shaped (cur s) →
    let t := retireWith s srcs closes (setting s p v)
    Shaped (cur t) ∧ LeavesOutside s t ∧ DataKept s t srcs (fun _ => False) ∧ CapsKept s t (fun _ => False) ∧
      PredsKept s t (· = p) ∧ BenchKept s t ∧ SeatsBecome s t (fun _ x => pastSeat x s.sel.len closes) ∧
      ∀ k, readP (cur t) p k = if p = 0 then 0xFF else if k ∈ issued s then v k else readP (cur s) p k

/-- R6, R136: a pass that writes a capability register; a write to c0 is discarded. -/
def Claims.ACapabilityPassChangesItsRegisterAlone : Prop :=
  ∀ (s : State) (srcs : List Src) (closes : Bool) (c : CReg) (v : Nat → Cap), Shaped (cur s) →
    let t := retireWith s srcs closes (holding s c v)
    Shaped (cur t) ∧ LeavesOutside s t ∧ DataKept s t srcs (fun _ => False) ∧ CapsKept s t (· = c) ∧
      PredsKept s t (fun _ => False) ∧ BenchKept s t ∧ SeatsBecome s t (fun _ x => pastSeat x s.sel.len closes) ∧
      ∀ k, readC (cur t) c k = if c = 0 then Cap.null else if k ∈ issued s then v k else readC (cur s) c k

/-- R15, R88: where an operand of some issued seat faults on a bench of a task, and the fault is neither one that aborts the
task nor one that waits, nothing retires: the bench stops, its fault is queued on the core with the lowest faulting seat and
the mask of all of them, and every register, predicate, flag, PC and all memory stay. -/
def Claims.AnOperandFaultRetiresNothing : Prop :=
  ∀ (s : State) (f : Nat → Option OpFault) (go : State) (k : Nat) (x : OpFault), Shaped (cur s) → s.sel.slot ≠ 64 →
    k ∈ issued s → f k = some x → (∀ j ∈ issued s, j < k → f j = none) →
    x.pool = false → x.code ≠ 0x20 → ¬(x.code = 0x40 ∧ x.sub = 1) →
    ∃ t, guardPass s f go = .next t ∧ t = { s with cores := t.cores } ∧ (cur t).mode = .faulted ∧
      (∀ core slot, ¬(core = s.sel.core ∧ slot = s.sel.slot) → getBench t core slot = getBench s core slot) ∧
      (∀ core, core ≠ s.sel.core → getCore t core = getCore s core) ∧
      { getCore t s.sel.core with benches := [], faultQ := [] } = { getCore s s.sel.core with benches := [], faultQ := [] } ∧
      (∀ r j, readD (cur t) r j = readD (cur s) r j) ∧ (∀ c j, readC (cur t) c j = readC (cur s) c j) ∧
      (∀ p j, readP (cur t) p j = readP (cur s) p j) ∧ (cur t).flags = (cur s).flags ∧
      (∀ j, (getSeat (cur t) j).pc = (getSeat (cur s) j).pc ∧ (getSeat (cur t) j).hdr = (getSeat (cur s) j).hdr ∧
        (getSeat (cur t) j).idx = (getSeat (cur s) j).idx) ∧
      ∃ q, (getCore t s.sel.core).faultQ = (getCore s s.sel.core).faultQ ++ [q] ∧ q.slot = s.sel.slot ∧ q.code = x.code ∧
        q.sub = x.sub ∧ q.ifa = s.sel.pc ∧ q.addr = x.addr ∧ q.aux = x.aux ∧ q.auxTag = x.auxTag ∧ q.seat = k ∧
        q.resume = (getSeat (cur s) k).hdr ∧ q.index = (getSeat (cur s) k).idx ∧ q.bell = s.bell ∧
        ∀ j, j < 32 → (q.mask.getLsbD j = true ↔ j ∈ issued s ∧ (f j).isSome = true)

/-- R138, R139, R140: which operand fault a seat has. Poison of a register read comes first, with the fault of its cause and the
register's number in AUX; then a row that the budget does not leave, for every issued seat alike. -/
def Claims.PoisonThenRowsDecideTheOperandFault : Prop :=
  ∀ (s : State) (u : Uses) (k : Nat),
    (∀ (l : List DReg) (r : DReg) (m : List DReg) (c : Nat), u.reads = l ++ r :: m → (∀ x ∈ l, poisonD (cur s) x k = none) →
      poisonD (cur s) r k = some c →
        (useFault s u k).map (fun f => (f.code, f.sub, f.aux.toNat % 2 ^ 64)) =
          some (if c = 0 then 0x42 else if c = 1 then 0x41 else 0x40, 1, r.code)) ∧
    ((∀ x ∈ u.reads, poisonD (cur s) x k = none) → (∀ x ∈ u.creads, poisonC (cur s) x k = none) →
      (∀ (n : Fin 48), u.writes = [.v n] → u.cwrites = [] →
        (useFault s u k).map (fun f => (f.code, f.sub)) =
          if (∃ x ∈ (cur s).vrows, x.reg = n.val) ∨
              (cur s).vrows.length + lostV s s.sel.core s.sel.slot < (cur s).rowBudget then none else some (0x32, 1)) ∧
      (∀ (c : CReg), u.writes = [] → u.cwrites = [c] →
        (useFault s u k).map (fun f => (f.code, f.sub)) =
          if c = 0 ∨ (∃ x ∈ (cur s).crows, x.reg = c.val) ∨
              (cur s).crows.length + lostC s s.sel.core s.sel.slot < (cur s).capBudget then none else some (0x32, 2)))

/-- R136: every register of a bench that has no row reads 0, or the null capability. -/
def Claims.RegistersWithoutARowReadZero : Prop :=
  ∀ (b : Bench) (k : Nat),
    (∀ n : Fin 48, (∀ x ∈ b.vrows, x.reg ≠ n.val) → readD b (.v n) k = 0 ∧ poisonD b (.v n) k = none) ∧
    (∀ c : CReg, (∀ x ∈ b.crows, x.reg ≠ c.val) → readC b c k = Cap.null ∧ poisonC b c k = none) ∧
    readP b 0 k = 0xFF ∧ readC b 0 k = Cap.null

/-- A pass that writes a register changes its destination alone. -/
def Obligations.APassChangesItsDestinationAlone : Prop :=
  Claims.ADataRegisterPassChangesItsDestinationAlone ∧
  Claims.APredicatePassChangesItsPredicateAlone ∧
  Claims.ACapabilityPassChangesItsRegisterAlone

/-- An operand fault retires nothing; poison and rows decide which fault it is. -/
def Obligations.OperandFaultsAndRows : Prop :=
  Claims.AnOperandFaultRetiresNothing ∧ Claims.PoisonThenRowsDecideTheOperandFault ∧ Claims.RegistersWithoutARowReadZero

/-! ## Clauses and transfers -/

/-- R29, R32, R36: where no flag that WAIT names is busy, the issued seats enter the clause behind the header; else nothing
happens. -/
def Obligations.AHeaderWaitsForItsFlags : Prop :=
  ∀ (n : Bool) (w : ClauseW) (setB setA : BitVec 4) (wait : BitVec 12) (s : State), Shaped (cur s) →
    ((∃ k, k < 12 ∧ wait.getLsbD k = true ∧ flagOf (cur s) k ≠ 0) → exec (.clause n w setB setA wait) s = .next s) ∧
    ((∀ k, k < 12 → wait.getLsbD k = true → flagOf (cur s) k = 0) →
      ∃ t, exec (.clause n w setB setA wait) s = .next t ∧ LeavesOutside s t ∧ DataKept s t [] (fun _ => False) ∧
        CapsKept s t (fun _ => False) ∧ PredsKept s t (fun _ => False) ∧ BenchKept s t ∧
        ∃ word : Word32, word.toNat = 1 + 2 ^ 7 * wait.toNat + 2 ^ 19 * setA.toNat + 2 ^ 23 * setB.toNat +
            2 ^ 27 * w.code + 2 ^ 29 * n.toNat ∧
          SeatsBecome s t (fun _ x =>
            { x with pc := s.sel.pc + 4, hdr := s.sel.pc, hdrWord := word, idx := 0, must := 0 }))

/-- R35, R91, R92: where the transfers send each issued seat; `call` also writes its return address. -/
def Claims.TransfersSendEachSeatToItsTarget : Prop :=
  ∀ (s : State) (o : BitVec 16) (d : DReg) (inv : Bool) (p : PReg) (a : Src), Shaped (cur s) →
    let rel : Word := s.sel.pc + BitVec.ofInt 64 (2 * o.toInt)
    let at_ := fun (x : Seat) (pc : Word) => { x with pc := pc, hdr := pc, idx := 0, must := 3, skip := 0, wake := none }
    (∃ t, exec (.bra o) s = .next t ∧ LeavesOutside s t ∧ DataKept s t [] (fun _ => False) ∧ CapsKept s t (fun _ => False) ∧
      PredsKept s t (fun _ => False) ∧ BenchKept s t ∧ SeatsBecome s t (fun _ x => at_ x rel)) ∧
    (OperandsClear s [] [] [d] [] → ∃ t, exec (.call o d) s = .next t ∧ LeavesOutside s t ∧ DataKept s t [] (· = d) ∧
      CapsKept s t (fun _ => False) ∧ PredsKept s t (fun _ => False) ∧ BenchKept s t ∧
      (∀ k ∈ issued s, readD (cur t) d k = s.sel.pc + 4) ∧ SeatsBecome s t (fun _ x => at_ x rel)) ∧
    (∃ t, exec (.brP o inv p) s = .next t ∧ LeavesOutside s t ∧ DataKept s t [] (fun _ => False) ∧
      CapsKept s t (fun _ => False) ∧ PredsKept s t (fun _ => False) ∧ BenchKept s t ∧
      SeatsBecome s t (fun k x => if (readP (cur s) p k).getLsbD 0 = !inv then at_ x rel else
        { x with pc := x.pc + BitVec.ofNat 64 s.sel.len, idx := x.idx + 1, must := 2, skip := 0, wake := none })) ∧
    (OperandsClear s [a.reg] [] [] [] → (∀ k ∈ issued s, (srcV s a k).toNat % 2 = 0) →
      ∃ t, exec (.ret a) s = .next t ∧ LeavesOutside s t ∧ DataKept s t [a] (fun _ => False) ∧ CapsKept s t (fun _ => False) ∧
        PredsKept s t (fun _ => False) ∧ BenchKept s t ∧ SeatsBecome s t (fun k x => at_ x (srcV s a k)))

/-- R93 to R95: `brx` through unsealed executable capabilities that are not quarantined, to even addresses; the link is the
old code capability at the next instruction, and the capability of the lowest issued seat becomes the code capability. -/
def Claims.BrxTransfersThroughAnExecutableCapability : Prop :=
  ∀ (s : State) (ca cd : CReg), Shaped (cur s) → OperandsClear s [] [ca] [] [cd] →
    let C := fun k => readC (cur s) ca k
    let Good := fun k => (C k).tag = true ∧ capE (C k) < 48 ∧ capSeal (C k) = 0 ∧ hasPerm (C k) .ex = true ∧
      benchQuarantine s (C k) = false
    (∀ k ∈ issued s, Good k) →
    ((∀ k ∈ issued s, (capCursor (C k)).toNat % 2 = 0) →
      ((∀ k ∈ issued s, sameButCursor (C k) (cur s).code = true) ∨
        ((∀ k, k < 32 → (getSeat (cur s) k).state = .exited ∨ k ∈ issued s) ∧
          ∀ k ∈ issued s, sameButCursor (C k) (C ((issued s).headD 0)) = true)) →
      ∃ t, exec (.brx ca cd) s = .next t ∧ LeavesOutside s t ∧ DataKept s t [] (fun _ => False) ∧ CapsKept s t (· = cd) ∧
        PredsKept s t (fun _ => False) ∧ (cur t).flags = (cur s).flags ∧ (cur t).code = C ((issued s).headD 0) ∧
        (∀ k ∈ issued s, readC (cur t) cd k = if cd = 0 then Cap.null else withCursor (cur s).code (s.sel.pc + 4)) ∧
        SeatsBecome s t (fun k x => let pc := capCursor (C k)
          { x with pc := pc, hdr := pc, idx := 0, must := 3, skip := 0, wake := none })) ∧
    ((∃ k ∈ issued s, sameButCursor (C k) (cur s).code = false) →
      ((∃ k, k < 32 ∧ (getSeat (cur s) k).state ≠ .exited ∧ k ∉ issued s) ∨
        ∃ k ∈ issued s, sameButCursor (C k) (C ((issued s).headD 0)) = false) →
      s.sel.slot ≠ 64 → ∃ t, exec (.brx ca cd) s = .next t ∧ (cur t).mode = .faulted ∧ (cur t).code = (cur s).code ∧
        ∃ q, (getCore t s.sel.core).faultQ = (getCore s s.sel.core).faultQ ++ [q] ∧ q.code = 0x12 ∧ q.sub = 2)

/-- R96 to R99: `exit` ends the issued seats' threads and frees their registers; `yield` moves the seats on, ends the
hold of their clause on the pipe, and gives the pipe's next pass to the other bench; `pause` holds the seats whose time is still to come; `brk` is a software trap with its
code. -/
def Obligations.ThreadsEndYieldPauseAndBreak : Prop :=
  ∀ (s : State) (a : Src) (hi lo : BitVec 6), Shaped (cur s) →
    (∃ t, exec .exit s = .next t ∧ ∀ k ∈ issued s, (getSeat (cur t) k).state = .exited ∧
      (∀ n : Fin 48, readD (cur t) (.v n) k = 0) ∧ ∀ c, readC (cur t) c k = Cap.null) ∧
    (∃ t, exec .yield s = .next t ∧ DataKept s t [] (fun _ => False) ∧ CapsKept s t (fun _ => False) ∧
      PredsKept s t (fun _ => False) ∧ BenchKept s t ∧ (cur t).nfree = (cur s).nfree ||| s.sel.seats ∧ t.mem = s.mem ∧
      SeatsBecome s t (fun _ x => pastSeat x s.sel.len false) ∧
      (s.sel.slot ≠ 64 → s.sel.slot / 2 ∈ (getCore t s.sel.core).pipeYield)) ∧
    (OperandsClear s [a.reg] [] [] [] → ∃ t, exec (.pause a) s = .next t ∧ LeavesOutside s t ∧
      CapsKept s t (fun _ => False) ∧ PredsKept s t (fun _ => False) ∧ BenchKept s t ∧
      ∀ k ∈ issued s,
        ((srcV s a k).toNat ≤ s.bell.toNat → getSeat (cur t) k = pastSeat (getSeat (cur s) k) s.sel.len false) ∧
        (s.bell.toNat < (srcV s a k).toNat → (getSeat (cur t) k).state = .blocked (.pause (srcV s a k)) ∧
          (getSeat (cur t) k).pc = (getSeat (cur s) k).pc)) ∧
    (s.sel.slot ≠ 64 → issued s ≠ [] → ∃ t, exec (.brk hi lo) s = .next t ∧ t = { s with cores := t.cores } ∧
      (cur t).mode = .faulted ∧ (∀ k, (getSeat (cur t) k).pc = (getSeat (cur s) k).pc) ∧
      ∃ q, (getCore t s.sel.core).faultQ = (getCore s s.sel.core).faultQ ++ [q] ∧ q.code = 0x60 ∧ q.sub = 1 ∧
        q.aux = BitVec.ofNat 128 (64 * hi.toNat + lo.toNat) ∧ q.ifa = s.sel.pc ∧ q.past = false ∧
        q.resume = (getSeat (cur s) ((issued s).headD 0)).hdr ∧ q.index = (getSeat (cur s) ((issued s).headD 0)).idx)

/-- Transfers send each issued seat to its target. -/
def Obligations.TransfersReachTheirTargets : Prop :=
  Claims.TransfersSendEachSeatToItsTarget ∧ Claims.BrxTransfersThroughAnExecutableCapability

/-! ## Memory -/

/-- R102, R105, R154, R220, R221: the checks of one access in order. Each clause assumes that the checks before it pass. -/
def Claims.TheFirstFailingCheckOfAnAccessDecides : Prop :=
  ∀ (s : State) (c : Cap) (a : Int) (k : Ask) (extra : Bool → Option OpFault),
    let va := BitVec.ofInt 64 a
    let fails := fun (code sub : Nat) => ∃ f, checkAccess s c a k extra = .error f ∧ f.code = code ∧ f.sub = sub ∧ f.addr = va
    let permOk := ∀ p ∈ k.need, hasPerm c p = true
    let inside := capBase c ≤ a ∧ a + k.n ≤ capTop c
    (c.tag = false → fails 0x10 1) ∧
    (c.tag = true → 48 ≤ capE c → fails 0x15 1) ∧
    (c.tag = true → capE c < 48 → capSeal c ≠ 0 → fails 0x13 1) ∧
    (c.tag = true → capE c < 48 → capSeal c = 0 → ¬permOk → fails 0x12 1) ∧
    (c.tag = true → capE c < 48 → capSeal c = 0 → permOk → benchQuarantine s c = true → fails 0x14 1) ∧
    (c.tag = true → capE c < 48 → capSeal c = 0 → permOk → benchQuarantine s c = false → hasPerm c .remote = false →
      (¬inside → fails 0x11 1) ∧
      (inside → va.toNat % k.align ≠ 0 → fails 0x11 k.alignSub) ∧
      (inside → va.toNat % k.align = 0 →
        (k.reach = .glob → va.toNat < windowEnd → fails 0x11 2) ∧
        (k.reach = .window → windowEnd ≤ va.toNat → 0 < k.n → fails 0x11 2) ∧
        (k.reach = .window → extra true = none →
          (∀ i, i < k.n → winByteFault s (curTask s) (curCoreT s) (va.toNat + i) = none) →
            checkAccess s c a k extra = .ok (.win va.toNat, s)) ∧
        (k.reach = .glob → windowEnd ≤ va.toNat → extra false = none → ∀ e,
          translateRange s s.sel.core (benchSpace s) (benchLimit s) k.acc va.toNat k.n = .error e →
            checkAccess s c a k extra = .error (transFault s c va e)) ∧
        (k.reach = .glob → windowEnd ≤ va.toNat → extra false = none → ∀ pas u,
          translateRange s s.sel.core (benchSpace s) (benchLimit s) k.acc va.toNat k.n = .ok (pas, u) →
            checkAccess s c a k extra = .ok (.mem va.toNat pas, u))))

/-- R220, R221, R244: an access whose bytes all lie in the heap range below the bench's HLIMIT goes to the address plus HOFF; nothing
else changes where its lines stand under the key identifiers of those addresses, and no line that so stands is changed. One that ends
above HLIMIT is HEAP_LIMIT, BEYOND_LIMIT. -/
def Claims.TheHeapPathAddsItsOffset : Prop :=
  ∀ (s : State) (core : Nat) (sp : ASpace) (lim : Word) (acc : Access) (a n : Nat), 0 < n →
    windowEnd ≤ a → (a + n ≤ carveBase ∨ carveEnd ≤ a) → sp.hspan ≠ 0 → sp.hbase.toNat ≤ a →
    a + n ≤ sp.hbase.toNat + sp.hspan.toNat → a + sp.hoff.toNat + n ≤ 2 ^ 64 →
      (a + n ≤ sp.hbase.toNat + lim.toNat →
        let pas := (List.range n).map fun i => a + i + sp.hoff.toNat
        ∃ t, translateRange s core sp lim acc a n = .ok (pas, t) ∧ t = { s with mem := t.mem, draws := t.draws } ∧
          ((∀ p ∈ pas, viewed s.mem p = true) → t = s) ∧ (∀ p ∈ pas, viewed t.mem p = true) ∧
          ∀ x, viewed s.mem x = true → memByte t.mem x = memByte s.mem x ∧ viewed t.mem x = true) ∧
      (sp.hbase.toNat + lim.toNat < a + n → translateRange s core sp lim acc a n = .error (.heap 1))

/-- R103, R106, R107, R132: a load whose checks pass takes its bytes when it issues, little-endian and zero-extended, unless one of
its late reads is performed until it completes (R190, R193); its destinations are pending, its flag rises by one, and nothing but its
last reads and destinations changes. The capability of an
`ldc` takes the granule's tag, outside the window with LDC (R318), but not out of a quarantined region (R362). -/
def Claims.LoadsPutWhatTheySeeInFlight : Prop :=
  ∀ (s u : State) (i : Instr) (m : MemForm) (ds : List DReg) (cd : Option CReg) (ps : List (Nat × Place)),
    Shaped (cur s) → loadForm s i = some (m, ds, cd) → issued s ≠ [] →
    accessChecks s i m.c m.addr (m.ask [.ld] .load) (fun _ _ => none) = .ok (ps, u) →
    (∀ p ∈ ps, performedNow u m.n p ∨ ∃ a pas, p.2 = .mem a pas) →
    ∃ t f data caps, exec i s = .next t ∧ t = { u with cores := t.cores, flights := t.flights, nextId := u.nextId + 1 } ∧
      f ∈ t.flights ∧ f.id = u.nextId ∧ f.core = s.sel.core ∧ f.slot = s.sel.slot ∧ f.flag = passFlag s false ∧
      (∀ k, k < 32 → (f.seats.getLsbD k = true ↔ k ∈ issued s)) ∧ f.vdests = ds ∧ f.cdests = cd.toList.filter (· != 0) ∧
      f.kind = .load data caps false ∧ (∀ l ∈ f.late, ∃ p ∈ ps, l.seat = p.1 ∧ l.size = m.n ∧
        ((p.2 = .win l.addr ∧ l.pas = []) ∨ p.2 = .mem l.addr l.pas)) ∧
      (∀ (j : Nat) (d : DReg), ds[j]? = some d → ∃ vs, data[j]? = some (d, vs) ∧ ∀ p ∈ ps,
        (d.isV = true ∨ p.1 = (issued s).headD 0) →
          (p.1, BitVec.ofNat 64 (valueLE (((seePlace u p.2 m.n).bytes.drop (8 * j)).take 8)),
            if (seePlace u p.2 m.n).poison then some 0 else none) ∈ vs) ∧
      (∀ c, cd = some c → ∃ vs, caps = [(c, vs)] ∧ ∀ p ∈ ps, ∃ x q, (p.1, x, q) ∈ vs ∧
        x.bits = BitVec.ofNat 128 (valueLE (seePlace u p.2 16).bytes) ∧
        (q = if (seePlace u p.2 16).poison then some 0 else none) ∧
        (x.tag = true → (seePlace u p.2 16).tag = true ∧ (seePlace u p.2 16).poison = false ∧
          ((∃ a, p.2 = .win a) ∨ hasPerm (readC (cur s) m.c p.1) .ldc = true))) ∧
      SeatsBecome s t (fun _ x => pastSeat x s.sel.len false) ∧ DataKept s t m.srcs (· ∈ ds) ∧ CapsKept s t (some · = cd) ∧
      PredsKept s t (fun _ => False) ∧ (∀ core, (getCore t core).spad = (getCore s core).spad) ∧
      ∀ k, flagOf (cur t) k = flagOf (cur s) k + if passFlag s false = some k ∧ k < 12 then 1 else 0

/-- R31, R106, R171, R190, R193: when a load or an atomic completes, its values stand in the registers that are still its own, for the
seats whose elements are still live, and its flag falls by one once its whole pass has completed. A load that may still be performed
delivers what it saw at its issue or what its place shows now, through its translation while none of the entries that may have served
it has expired (R229). -/
def Claims.LoadCompletionWritesTheDestination : Prop :=
  ∀ (s : State) (f : Flight) (d : DReg) (vs : List SeatVal) (k : Nat) (v : Word) (q : Option Nat) (atomic : Bool), inFlight s f →
    f.kind = .load [(d, vs)] [] atomic → f.vdests = [d] → (k, v, q) ∈ vs → (vs.map (·.1)).Nodup → k < 32 → (∀ c, q = some c → c < 4) →
    (d.isV = true → ∃ x ∈ (flightBench s f).vrows, x.reg = d.code ∧ x.live.getLsbD k = true) →
    (d.isV = false → vs = [(k, v, q)]) →
    let i := if atomic then Instr.atomicComplete f.id [] else .loadComplete f.id []
    let lands := fun (t : State) (v : Word) (q : Option Nat) => f ∉ t.flights ∧ t.mem = s.mem ∧
      readD (flightBench t f) d k = v ∧ poisonD (flightBench t f) d k = q ∧
      (∀ r j, r ≠ d → readD (flightBench t f) r j = readD (flightBench s f) r j) ∧ flagFalls s t f
    (atomic = true ∨ f.late = [] → ∃ t, exec i s = .next t ∧ lands t v q) ∧
    (atomic = false → ∀ l, f.late = [l] → l.seat = k → (∀ es ∈ l.leases, ∀ e ∈ es, s.bell < e) → ∃ t, exec i s = .next t ∧
      (lands t v q ∨ ∃ x, ((l.pas = [] ∧ x = seeWindow s (flightTask s f) (flightCoreT s f) l.addr l.size) ∨
          x = seeMem s (flightTask s f) (flightCoreT s f) l.addr l.pas) ∧
        lands t (BitVec.ofNat 64 (valueLE (x.bytes.take 8))) (if x.poison then some 0 else none)))

/-- R103 to R107, R189: a store of data whose checks pass, and which is performed at its issue, puts its bytes into the core part of its
task's hold, under the exact address that the form gives, or into the scratchpad that its window address names; where stores of the
pass overlap, the highest seat's byte remains. Every other byte of every hold, scratchpad and of memory is as after the checks. -/
def Claims.StoresPutTheirBytesWhereTheirAddressesSay : Prop :=
  ∀ (s u : State) (i : Instr) (m : MemForm) (bs : Nat → List Byte) (bad : Nat → Bool) (ps : List (Nat × Place)),
    Shaped (cur s) → (∀ core, (getCore s core).spad.wf = true) → onItsCore s → dataStore s i = some (m, bs, bad) →
    accessChecks s i m.c m.addr (m.ask [.st] .store) (fun _ _ => none) = .ok (ps, u) → issued s ≠ [] →
    u.sel.late = false → (∀ p ∈ ps, performedNow u m.n p) →
    ∃ t T U, exec i s = .next t ∧ findTask t (cur s).task = some T ∧ findTask u (cur s).task = some U ∧ t.mem = u.mem ∧
      T = { U with cores := T.cores } ∧ (∀ j, j ≠ curCoreT s → taskCore T j = taskCore U j) ∧
      taskCore T (curCoreT s) = { taskCore U (curCoreT s) with hold := (taskCore T (curCoreT s)).hold } ∧
      (∀ p ∈ ps, p.1 ∈ issued s ∧ ((∃ pas, p.2 = .mem (BitVec.ofInt 64 (m.addr p.1)).toNat pas) ∨
        p.2 = .win (BitVec.ofInt 64 (m.addr p.1)).toNat)) ∧
      (∀ va, (∀ p ∈ ps, ∀ a pas, p.2 = .mem a pas → va < a ∨ a + m.n ≤ va) →
        holdByte (taskCore T (curCoreT s)).hold va = holdByte (taskCore U (curCoreT s)).hold va) ∧
      (∀ p ∈ ps, ∀ a pas j, p.2 = .mem a pas → j < m.n →
        (∀ q ∈ ps, p.1 < q.1 → ∀ b pas', q.2 = .mem b pas' → a + j < b ∨ b + m.n ≤ a + j) →
          holdByte (taskCore T (curCoreT s)).hold (a + j) = (bs p.1)[j]?) ∧
      (∀ core o, (∀ p ∈ ps, ∀ a j, p.2 = .win a → j < m.n → winPlace U (curCoreT s) (a + j) ≠ (core, o)) →
        memByte (getCore t core).spad o = memByte (getCore u core).spad o) ∧
      (∀ p ∈ ps, ∀ a j, p.2 = .win a → j < m.n →
        (∀ q ∈ ps, p.1 < q.1 → ∀ b l, q.2 = .win b → l < m.n →
          winPlace U (curCoreT s) (b + l) ≠ winPlace U (curCoreT s) (a + j)) →
        (∀ l, l < m.n → l ≠ j → winPlace U (curCoreT s) (a + l) ≠ winPlace U (curCoreT s) (a + j)) →
          some (memByte (getCore t (winPlace U (curCoreT s) (a + j)).1).spad (winPlace U (curCoreT s) (a + j)).2) =
            (bs p.1)[j]?) ∧
      SeatsBecome s t (fun _ x => pastSeat x s.sel.len false) ∧ DataKept s t m.srcs (fun _ => False) ∧
      CapsKept s t (fun _ => False) ∧ PredsKept s t (fun _ => False) ∧
      ∀ k, flagOf (cur t) k = flagOf (cur s) k + if passFlag s false = some k ∧ k < 12 then 1 else 0

/-- R104, R151, R193: a store of data whose checks pass, and which is not performed at its issue, by choice or because bytes that it
touches wait, is put in flight with what each seat stores, and goes on; nothing is stored yet. When its one access may be made, the
hold takes its bytes, no other byte of the hold changes, and its flag falls. -/
def Claims.StoresMayBeMadeLater : Prop :=
  ∀ (s u : State) (i : Instr) (m : MemForm) (bs : Nat → List Byte) (bad : Nat → Bool) (ps : List (Nat × Place)),
    Shaped (cur s) →
    (dataStore s i = some (m, bs, bad) →
      accessChecks s i m.c m.addr (m.ask [.st] .store) (fun _ _ => none) = .ok (ps, u) → issued s ≠ [] →
      (∀ p ∈ ps, ∀ va, p.2 ≠ .remote va) →
      (u.sel.late = true ∨ ∃ p ∈ ps, ∃ a, p.2 = .win a ∧ winHeld u p.1 a m.n = true) →
      ∃ t f is, exec i s = .next t ∧ f ∈ t.flights ∧ f.id = u.nextId ∧ f.kind = .stagedStore is ∧
        f.flag = passFlag s false ∧ t = { u with cores := t.cores, flights := t.flights, nextId := u.nextId + 1 } ∧
        (∀ core, (getCore t core).spad = (getCore u core).spad) ∧
        (∀ p ∈ ps, ∃ x ∈ is, x.seat = p.1 ∧ x.size = m.n ∧ x.value = valueLE (bs p.1) ∧ x.poison = bad p.1 ∧ x.tag = false ∧
          (p.2 = .win x.addr.toNat ∨ ∃ pas, p.2 = .mem x.addr.toNat pas)) ∧
        (∀ x ∈ is, ∃ p ∈ ps, x.seat = p.1) ∧ SeatsBecome s t (fun _ x => pastSeat x s.sel.len false) ∧
        DataKept s t m.srcs (fun _ => False) ∧ CapsKept s t (fun _ => False) ∧ PredsKept s t (fun _ => False) ∧
        ∀ k, flagOf (cur t) k = flagOf (cur s) k + if passFlag s false = some k ∧ k < 12 then 1 else 0) ∧
    ∀ (f : Flight) (x : WinItem) (T : Task), inFlight s f → f.kind = .stagedStore [x] → readyItems s f = [x] → isTask s f.task T →
      flightCoreT s f < T.cores.length → windowEnd ≤ x.addr.toNat → x.tag = false →
      ∃ t U, exec (.storeAccepted f.id) s = .next t ∧ f ∉ t.flights ∧ flagFalls s t f ∧ t.mem = s.mem ∧ isTask t f.task U ∧
        (∀ core, (getCore t core).spad = (getCore s core).spad) ∧
        U = { T with cores := U.cores } ∧ (∀ j, j ≠ flightCoreT s f → taskCore U j = taskCore T j) ∧
        (∀ j, j < x.size → holdByte (taskCore U (flightCoreT s f)).hold (x.addr.toNat + j) =
          some (BitVec.ofNat 8 (x.value / 256 ^ j))) ∧
        ∀ va, va < x.addr.toNat ∨ x.addr.toNat + x.size ≤ va →
          holdByte (taskCore U (flightCoreT s f)).hold va = holdByte (taskCore T (flightCoreT s f)).hold va

/-- R318: `stc` to one granule of memory stores the 128 bits and the tag, which quarantine takes (R362); a poisoned register
poisons the granule and clears its tag. -/
def Claims.StcStoresACapabilityWithItsTag : Prop :=
  ∀ (s u : State) (i : Instr) (m : MemForm) (cd : CReg) (k a : Nat) (pas : List Nat),
    Shaped (cur s) → onItsCore s → onMonitor u = false → u.sel.late = false → capStore s i = some (m, cd) → issued s = [k] →
    (∀ U, findTask u (cur s).task = some U → ∀ l ∈ (taskCore U (curCoreT s)).hold, l.tags.length = 4 ∧ l.poison.length = 4) →
    accessChecks s i m.c m.addr (m.ask [.st] .store) (stcExtra s m.c cd m.addr) = .ok ([(k, .mem a pas)], u) →
    ∃ t T x, exec i s = .next t ∧ findTask t (cur s).task = some T ∧ t.mem = u.mem ∧
      x = transferCap u (taskSpaceNum u (curTask u)) (readC (cur s) cd k) ∧ a % 16 = 0 ∧
      (∀ j, j < 16 → holdByte (taskCore T (curCoreT s)).hold (a + j) = some (BitVec.ofNat 8 (x.bits.toNat / 256 ^ j))) ∧
      holdPoison (taskCore T (curCoreT s)).hold a = some (poisonC (cur s) cd k).isSome ∧
      holdTag (taskCore T (curCoreT s)).hold a = some (x.tag && !(poisonC (cur s) cd k).isSome) ∧
      (∀ va, va < a ∨ a + 16 ≤ va → ∀ U, findTask u (cur s).task = some U →
        holdByte (taskCore T (curCoreT s)).hold va = holdByte (taskCore U (curCoreT s)).hold va) ∧
      SeatsBecome s t (fun _ y => pastSeat y s.sel.len false)

/-- R189: what a thread sees of a byte of memory is its core part's byte, else the die part's, else memory's. -/
def Claims.AThreadSeesItsHoldBeforeMemory : Prop :=
  ∀ (s : State) (t : Task) (k va pa : Nat), isMgmt pa = false →
    (∀ b, holdByte (taskCore t k).hold va = some b → viewByte s t k va pa = b) ∧
    (∀ b, holdByte (taskCore t k).hold va = none → holdByte t.dieHold va = some b → viewByte s t k va pa = b) ∧
    (holdByte (taskCore t k).hold va = none → holdByte t.dieHold va = none → viewByte s t k va pa = memByte s.mem pa)

/-- R104, R107: the canonical form of a memory is kept by stores; a store of data to it is read back, clears the tags of the
granules it touches, and leaves every byte outside it. -/
def Claims.StoresToMemoryAreReadBack : Prop :=
  ∀ (m : Mem) (a : Nat) (bs : List Byte) (p : Bool), m.wf = true →
    (memStore m a bs p).wf = true ∧
    (∀ j, j < bs.length → some (memByte (memStore m a bs p) (a + j)) = bs[j]?) ∧
    (∀ x, x < a ∨ a + bs.length ≤ x → memByte (memStore m a bs p) x = memByte m x) ∧
    (∀ x, (∃ j, j < bs.length ∧ (a + j) / 16 = x / 16) → memTag (memStore m a bs p) x = false ∧
      (p = true → memPoison (memStore m a bs p) x = true)) ∧
    (∀ x, (∀ j, j < bs.length → (a + j) / 16 ≠ x / 16) → memTag (memStore m a bs p) x = memTag m x ∧
      memPoison (memStore m a bs p) x = memPoison m x) ∧
    (p = false → ∀ x, (∀ j, j < 16 → a ≤ x / 16 * 16 + j ∧ x / 16 * 16 + j < a + bs.length) →
      memPoison (memStore m a bs p) x = false)

/-- R319: `pref` changes no register and no value; only a poisoned index faults. Its translation, silent where it fails, sets A
in the entry that it walks (R224) and fills the translation structures; no line changes that stands under the key identifier of the
address at which it is read (R244), unless it then stands under several (that such a line has free bytes is the model's reading, log
119). -/
def Claims.PrefetchChangesNothingButTheSeats : Prop :=
  ∀ (s : State) (x : Src) (i : BitVec 9) (c : CReg) (llc : Bool), Shaped (cur s) → s.mem.wf = true →
    let Quiet := fun (t : State) =>
      t = { s with cores := t.cores, flights := t.flights, mem := t.mem, dieTlb := t.dieTlb, walkCache := t.walkCache
                   draws := t.draws } ∧
        ((∃ k, issued s = [k]) → ∀ a, viewed s.mem a = true → (viewsOf t.mem a).length ≤ 1 →
          memByte t.mem a = memByte s.mem a ∨ memByte t.mem a = memByte s.mem a ||| 0x40) ∧
        ((∀ a, pathAt (benchSpace s) a ≠ .paged) → ∀ a, viewed s.mem a = true → memByte t.mem a = memByte s.mem a) ∧
        (∀ core slot, ¬(core = s.sel.core ∧ slot = s.sel.slot) → getBench t core slot = getBench s core slot) ∧
        (∀ core, { getCore t core with benches := [], tlb := [] } = { getCore s core with benches := [], tlb := [] }) ∧
        CapsKept s t (fun _ => False) ∧ PredsKept s t (fun _ => False) ∧ BenchKept s t ∧
        SeatsBecome s t (fun _ y => pastSeat y s.sel.len false)
    (OperandsClear s [x.reg] [] [] [] →
      ∃ t, exec (.prefIndex x c llc) s = .next t ∧ Quiet t ∧ DataKept s t [x] (fun _ => False)) ∧
    ∃ t, exec (.prefImm i c llc) s = .next t ∧ Quiet t ∧ DataKept s t [] (fun _ => False)

/-- R117, R273: a fence at seat scope, or whose condition holds, lets the seat go on; else the seat is blocked in it. No register,
predicate or flag changes, and memory does not. -/
def Claims.AFenceHoldsItsSeatUntilEarlierAccessesAreDone : Prop :=
  ∀ (s : State) (sc : Scope) (o : FenceOrd), Shaped (cur s) →
    let met := fun k => ∀ f ∈ s.flights, f.core = s.sel.core → f.slot = s.sel.slot → f.seats.getLsbD k = true →
      match f.kind with
      | .load _ _ _ => False
      | .stagedLoad _ _ _ => False
      | .remoteLoad _ _ _ _ => False
      | .stagedAtom _ _ _ _ _ _ => False
      | .copy _ => True
      | .matrix _ => True
      | .arrival _ _ _ _ => True
      | .image _ _ _ => True
      | .notify _ _ _ => True
      | .reply _ _ _ => True
      | _ => o = .acquire
    ∃ t, exec (.fence sc o) s = .next t ∧ t.mem = s.mem ∧ DataKept s t [] (fun _ => False) ∧ CapsKept s t (fun _ => False) ∧
      PredsKept s t (fun _ => False) ∧ BenchKept s t ∧
      ∀ k ∈ issued s,
        (sc = .seat ∨ met k → getSeat (cur t) k = pastSeat (getSeat (cur s) k) s.sel.len false) ∧
        (sc ≠ .seat → ¬met k → (getSeat (cur t) k).state = .blocked (.fence sc o) ∧
          (getSeat (cur t) k).pc = (getSeat (cur s) k).pc)

/-- The first failing check of an access decides; the heap path adds its offset. -/
def Obligations.AccessesAreCheckedInOrder : Prop :=
  Claims.TheFirstFailingCheckOfAnAccessDecides ∧ Claims.TheHeapPathAddsItsOffset

/-- Loads take what they see at their issue or later, and write their destination when they complete. -/
def Obligations.LoadsReadUntilTheyComplete : Prop :=
  Claims.LoadsPutWhatTheySeeInFlight ∧ Claims.LoadCompletionWritesTheDestination

/-- Stores put their bytes where their addresses say, and are read back. -/
def Obligations.StoresAreHeldAndRead : Prop :=
  Claims.StoresPutTheirBytesWhereTheirAddressesSay ∧
  Claims.StoresMayBeMadeLater ∧
  Claims.StcStoresACapabilityWithItsTag ∧
  Claims.AThreadSeesItsHoldBeforeMemory ∧
  Claims.StoresToMemoryAreReadBack

/-- Prefetches and fences change no value. -/
def Obligations.PrefetchesAndFencesChangeNoValue : Prop :=
  Claims.PrefetchChangesNothingButTheSeats ∧ Claims.AFenceHoldsItsSeatUntilEarlierAccessesAreDone

/-! ## Atomics and capabilities -/

/-- R167, R170, R193, R208: one seat's `atom` on local memory. Where it is performed at its issue, what a release of it covers having
completed, then after the drains and the publication that its order and scope demand it
 returns the old value zero-extended and writes what the table of R167 gives; on a poisoned granule nothing is written and the
element is poisoned with cause 0 (R169). Its flag rises by one, and nothing but its last reads, D and the location changes. Otherwise
it goes on in flight, and nothing is read or written yet. -/
def Claims.AnAtomReturnsTheOldValueAndWritesItsTable : Prop :=
  ∀ (s u : State) (op : AtomOp) (b : DReg) (sc : Scope) (o : MemOrd) (w32 : Bool) (c : CReg) (d : DReg) (k a pa : Nat),
    let n := if w32 then 4 else 8
    let pas := (List.range n).map (pa + ·)
    let i := atomForm op b sc o w32 c d
    Shaped (cur s) → d.isV = true → issued s = [k] → onMonitor u = false →
    accessChecks s i c (exactAddr s c (byReg s (plainSrc b))) ⟨[.ld, .st], n, .glob, n, 4, .rmw⟩ (fun _ _ => none) =
      .ok ([(k, .mem a pas)], u) →
    let v := atomPrepare (atomOrder u o (wideScope sc)) (atomAt sc) a pa
    let m := valueLE (seeMem v (curTask v) (curCoreT v) a pas).bytes
    let bad := viewPoison v (curTask v) (curCoreT v) (a - a % 16) (pa - a % 16)
    let x := (readD (cur s) (if op = .cas then d.succ else d) k).toNat % 2 ^ (8 * n)
    let e := (readD (cur s) d k).toNat % 2 ^ (8 * n)
    let covered := o = .release ∨ o = .acqRel → accessesDone u s.sel.core s.sel.slot k = true
    (u.sel.late = true ∨ ¬covered → ∃ t f y, exec i s = .next t ∧ f ∈ t.flights ∧ f.id = u.nextId ∧ f.vdests = [d] ∧
      f.kind = .stagedAtom (atomAt sc) op w32 o (wideScope sc) [y] ∧ f.flag = passFlag s false ∧ y.seat = k ∧ y.addr.toNat = a ∧
      y.size = n ∧ y.batch = (getSeat (cur s) k).batch ∧ y.value = x ∧ (op = .cas → y.extra = e) ∧ y.pas = pas ∧
      t = { u with cores := t.cores, flights := t.flights, nextId := u.nextId + 1 } ∧
      (∀ core, (getCore t core).spad = (getCore s core).spad) ∧ DataKept s t [] (· = d) ∧ CapsKept s t (fun _ => False) ∧
      PredsKept s t (fun _ => False) ∧ SeatsBecome s t (fun _ y => pastSeat y s.sel.len false)) ∧
    (u.sel.late = false → covered →
    ∃ t f r, exec i s = .next t ∧ atomTable op (8 * n) m x e r ∧ f ∈ t.flights ∧ f.id = u.nextId ∧ f.vdests = [d] ∧
      f.kind = atomReturns d k m bad ∧ f.flag = passFlag s false ∧
      (bad = true ∨ r = none → t = { v with cores := t.cores, flights := t.flights, nextId := u.nextId + 1 }) ∧
      (∀ y, bad = false → r = some y →
        t = { atomWrite v (atomAt sc) a pa (leBytes n (BitVec.ofNat 64 y)) with
          cores := t.cores, flights := t.flights, nextId := u.nextId + 1 } ∧
        (sc = .die ∨ sc = .pkg ∨ sc = .dom → t.mem = memStore v.mem pa (leBytes n (BitVec.ofNat 64 y)) false ∨
          isMgmt pa = true)) ∧
      DataKept s t [] (· = d) ∧ CapsKept s t (fun _ => False) ∧ PredsKept s t (fun _ => False) ∧
      (∀ core, (getCore t core).spad = (getCore s core).spad) ∧
      SeatsBecome s t (fun _ y => pastSeat y s.sel.len false))

/-- R167, R169 to R171, R193: an `atom` of one seat on a location past the hold that was not performed at its issue is performed once,
when it may be made and its translation has not expired: it writes what its table gives, D takes the old value, and its flag falls. -/
def Claims.AtomicsMadeLaterWriteTheirTable : Prop :=
  ∀ (s : State) (f : Flight) (T : Task) (op : AtomOp) (w32 : Bool) (o : MemOrd) (y : WinItem) (d : DReg) (k pa : Nat),
    let n := if w32 then 4 else 8
    inFlight s f → f.slot ≠ 64 → isTask s f.task T → f.kind = .stagedAtom .loc op w32 o true [y] → f.vdests = [d] → d.isV = true → f.seats = seatBit k → k < 32 →
    y.seat = k → y.size = n → readyItems s f = [y] → windowEnd ≤ y.addr.toNat → y.addr.toNat % n = 0 → pa % 16 = y.addr.toNat % 16 →
    y.pas = (List.range n).map (pa + ·) → (∀ es ∈ y.leases, ∀ e ∈ es, s.bell < e) → T.dieHold = [] → (∀ c ∈ T.cores, c.hold = []) →
    memPoison s.mem pa = false → isMgmt pa = false → s.mem.wf = true → y.value < 2 ^ (8 * n) → y.extra < 2 ^ (8 * n) →
    (∃ x ∈ (flightBench s f).vrows, x.reg = d.code ∧ x.live.getLsbD k = true) →
    let m := memValue s.mem pa n
    ∃ t r, exec (.atomicComplete f.id []) s = .next t ∧
      atomTable op (8 * n) m y.value y.extra r ∧ f ∉ t.flights ∧ flagFalls s t f ∧ memValue t.mem pa n = r.getD m ∧
      (∀ a, a < pa ∨ pa + n ≤ a → memByte t.mem a = memByte s.mem a) ∧
      readD (flightBench t f) d k = BitVec.ofNat 64 m ∧ poisonD (flightBench t f) d k = none ∧
      ∀ q j, q ≠ d → readD (flightBench t f) q j = readD (flightBench s f) q j

/-- R167, R170: one seat's `atoms` at a bank of the scratchpad, where its bytes have landed (R151) and it is performed at its issue. -/
def Claims.AtomsAreFormedAtTheBank : Prop :=
  ∀ (s u : State) (op : AtomOp) (b : DReg) (o : MemOrd) (w32 : Bool) (c : CReg) (d : DReg) (k a : Nat),
    let n := if w32 then 4 else 8
    let i := Instr.atoms op b o w32 c d
    Shaped (cur s) → d.isV = true → issued s = [k] →
    accessChecks s i c (exactAddr s c (byReg s (plainSrc b))) ⟨[.ld, .st], n, .window, n, 4, .rmw⟩ (fun _ _ => none) =
      .ok ([(k, .win a)], u) → winHeld u k a n = false → u.sel.late = false →
    (o = .release ∨ o = .acqRel → s.sel.slot ≠ 64 → accessesDone u s.sel.core s.sel.slot k = true) →
    let v := atomOrder u o true
    let seen := seeWindow v (curTask v) (curCoreT v) a n
    let m := valueLE seen.bytes
    let x := (readD (cur s) (if op = .cas then d.succ else d) k).toNat % 2 ^ (8 * n)
    let e := (readD (cur s) d k).toNat % 2 ^ (8 * n)
    ∃ t f r, exec i s = .next t ∧ atomTable op (8 * n) m x e r ∧ f ∈ t.flights ∧ f.id = u.nextId ∧ f.vdests = [d] ∧
      f.kind = atomReturns d k m seen.poison ∧ f.flag = passFlag s false ∧ t.mem = v.mem ∧ t.tasks = v.tasks ∧
      (seen.poison = true ∨ r = none → ∀ core, (getCore t core).spad = (getCore s core).spad) ∧
      (∀ y, seen.poison = false → r = some y → ∀ core, (getCore t core).spad =
        (getCore (winStore v (curTask v) (curCoreT v) a (leBytes n (BitVec.ofNat 64 y)) false) core).spad) ∧
      DataKept s t [] (· = d) ∧ CapsKept s t (fun _ => False) ∧ PredsKept s t (fun _ => False) ∧
      SeatsBecome s t (fun _ y => pastSeat y s.sel.len false)

/-- R109, R110: the derivations that move a cursor, narrow bounds or permissions, copy or clear. -/
def Claims.DerivationsGiveTheCapabilitiesOfTheirTable : Prop :=
  ∀ (b : Src) (sh : BitVec 4) (ca cd : CReg),
    let A := fun (s : State) (k : Nat) => readC (cur s) ca k
    let B := fun (s : State) (k : Nat) => srcV s b k
    GivesCap (.cinc b sh ca cd) [b.reg] [ca] [b] cd (fun s k x => sameFields x (A s k) ∧
        capCursor x = capCursor (A s k) + B s k <<< sh.toNat ∧
        (x.tag = true ↔ okCap (A s k) ∧ representable (A s k) (capCursor x))) ∧
      GivesCap (.cset b ca cd) [b.reg] [ca] [b] cd (fun s k x => sameFields x (A s k) ∧ capCursor x = B s k ∧
        (x.tag = true ↔ okCap (A s k) ∧ representable (A s k) (capCursor x))) ∧
      GivesCap (.cbnd b ca cd) [b.reg] [ca] [b] cd (fun s k x =>
        let lo := (capCursor (A s k)).toNat
        let hi := lo + (B s k).toNat
        let fits := fun e => (hi + 2 ^ e - 1) / 2 ^ e * 2 ^ e - lo / 2 ^ e * 2 ^ e ≤ 3 * 2 ^ (e + 17)
        capPerms x = capPerms (A s k) ∧ capSeal x = capSeal (A s k) ∧ capCursor x = capCursor (A s k) ∧ capE x ≤ 47 ∧
          fits (capE x) ∧ (∀ e, e < capE x → ¬fits e) ∧
          capBase x = Int.ofNat (lo / 2 ^ capE x * 2 ^ capE x) ∧
          capTop x = Int.ofNat ((hi + 2 ^ capE x - 1) / 2 ^ capE x * 2 ^ capE x) ∧
          (x.tag = true ↔ okCap (A s k) ∧ capBase (A s k) ≤ capBase x ∧ capTop x ≤ capTop (A s k))) ∧
      GivesCap (.cperm b ca cd) [b.reg] [ca] [b] cd (fun s k x =>
        (∀ p, hasPerm x p = true ↔ hasPerm (A s k) p = true ∧ (B s k).getLsbD (permBit p) = true) ∧
          capSeal x = capSeal (A s k) ∧ capE x = capE (A s k) ∧ capB x = capB (A s k) ∧ capT x = capT (A s k) ∧
          capCursor x = capCursor (A s k) ∧ (x.tag = true ↔ okCap (A s k))) ∧
      GivesCap (.cmov ca cd) [] [ca] [] cd (fun s k x => x = A s k) ∧
      GivesCap (.cclr ca cd) [] [ca] [] cd (fun s k x => x.bits = (A s k).bits ∧ x.tag = false)

/-- R316: sealing and unsealing with a sealer. -/
def Claims.SealingNeedsASealer : Prop :=
  ∀ (cb ca cd : CReg),
    let A := fun (s : State) (k : Nat) => readC (cur s) ca k
    let B := fun (s : State) (k : Nat) => readC (cur s) cb k
    GivesCap (.cseal cb ca cd) [] [ca, cb] [] cd (fun s k x =>
        capSeal x = capNum (B s k) % 1024 ∧ capPerms x = capPerms (A s k) ∧ capCursor x = capCursor (A s k) ∧
          capE x = capE (A s k) ∧ capB x = capB (A s k) ∧ capT x = capT (A s k) ∧
          (x.tag = true ↔ okCap (A s k) ∧ sealer (B s k) ∧ hasPerm (B s k) .sealP = true)) ∧
      GivesCap (.cunseal cb ca cd) [] [ca, cb] [] cd (fun s k x =>
        capSeal x = 0 ∧ (∀ p, hasPerm x p = true ↔ hasPerm (A s k) p = true ∧ hasPerm (B s k) p = true) ∧
          capCursor x = capCursor (A s k) ∧ capE x = capE (A s k) ∧ capB x = capB (A s k) ∧ capT x = capT (A s k) ∧
          (x.tag = true ↔ (A s k).tag = true ∧ capE (A s k) < 48 ∧ 1 ≤ capSeal (A s k) ∧ capSeal (A s k) ≤ 959 ∧
            sealer (B s k) ∧ hasPerm (B s k) .unsealP = true ∧ capNum (B s k) = capSeal (A s k)))

/-- R108, R109, R110, R345: no derivation of a lane gives more authority than the capability it derives from: a tagged result
has bounds within its source's and none but its source's permissions. -/
def Claims.NoDerivationGainsAuthority : Prop :=
  ∀ (i : Instr) (ca cd : CReg) (s : State),
    ((∃ b sh, i = .cinc b sh ca cd) ∨ (∃ b, i = .cset b ca cd) ∨ (∃ b, i = .cbnd b ca cd) ∨ (∃ b, i = .cperm b ca cd) ∨
      (∃ cb, i = .cseal cb ca cd) ∨ (∃ cb, i = .cunseal cb ca cd) ∨ i = .cmov ca cd ∨ i = .cclr ca cd) →
    OperandsClear s (usesOf i).reads (usesOf i).creads [] [cd] →
    ∃ t, exec i s = .next t ∧ ∀ k ∈ issued s, Shaped (cur s) →
      (readC (cur t) cd k).tag = true → noMoreThan (readC (cur t) cd k) (readC (cur s) ca k)

/-- R111, R112: `cget` by its selectors, `ctest` and `ceq`; none of them looks at the tag but as they say. The spec gives a
sealed capability with a type of 960 to 1023 no bounds and the travel-sealed one (1009) its own: that `cget` reads the bounds of a
travel-sealed capability is the model's reading (log 54). -/
def Claims.CapabilitiesAreInspectedByTheirFields : Prop :=
  ∀ (n : Nat) (sel : BitVec 6) (b : Src) (ca cb : CReg) (d : DReg) (w : Width) (p : PReg),
    let A := fun (s : State) (k : Nat) => readC (cur s) ca k
    let bounded := fun (c : Cap) => capE c < 48 ∧ ¬(960 ≤ capSeal c ∧ capSeal c ≤ 1023 ∧ capSeal c ≠ 1009)
    (sel.toNat = n → n ≤ 10 → ∀ s, OperandsClear s [] [ca] [d] [] → ∃ v : Nat → Word,
      exec (.cget sel ca d) s = .next (retireWith s [] false (writing s d v)) ∧ ∀ k ∈ issued s,
        ((n = 1 ∨ n = 2 ∨ n = 3 ∨ n = 7) → ¬bounded (A s k) → v k = 0) ∧
        (n = 0 ∨ n = 9 → v k = (A s k).bits.extractLsb' 64 64) ∧ (n = 10 → v k = (A s k).bits.extractLsb' 0 64) ∧
        (n = 4 → v k = ((A s k).bits.extractLsb' 54 10).setWidth 64) ∧
        (n = 5 → v k = ((A s k).bits.extractLsb' 44 10).setWidth 64) ∧ (n = 6 → v k = if (A s k).tag then 1 else 0) ∧
        (n = 8 → v k = ((A s k).bits.extractLsb' 38 6).setWidth 64) ∧
        (bounded (A s k) →
          (n = 1 → v k = BitVec.ofInt 64 (capBase (A s k))) ∧
          (n = 2 → v k = if capTop (A s k) = 2 ^ 64 then -1 else BitVec.ofInt 64 (capTop (A s k))) ∧
          (n = 3 → v k = BitVec.ofInt 64 (min (capTop (A s k) - capBase (A s k)) (2 ^ 64 - 1))) ∧
          (n = 7 → v k = BitVec.ofInt 64 ((capCursor (A s k)).toNat - capBase (A s k))))) ∧
    (∀ s, OperandsClear s [b.reg] [ca] [] [] → ∃ v : Nat → BitVec 8,
      exec (.ctest b ca w p) s = .next (retireWith s [b] false (setting s p v)) ∧ ∀ k ∈ issued s, ∀ j, j < 8 →
        ((v k).getLsbD j = true ↔ j < 64 / widthBits w ∧ okCap (A s k) ∧ capBase (A s k) ≤ (capCursor (A s k)).toNat ∧
          ((capCursor (A s k)).toNat + (srcV s b k).toNat : Int) ≤ capTop (A s k))) ∧
    (∀ s, OperandsClear s [] [ca, cb] [] [] → ∃ v : Nat → BitVec 8,
      exec (.ceq cb ca w p) s = .next (retireWith s [] false (setting s p v)) ∧ ∀ k ∈ issued s, ∀ j, j < 8 →
        ((v k).getLsbD j = true ↔ j < 64 / widthBits w ∧ (A s k).bits = (readC (cur s) cb k).bits ∧
          (A s k).tag = (readC (cur s) cb k).tag))

/-- Atomics return the old value and write what their table gives. -/
def Obligations.AtomicsReturnTheOldValue : Prop :=
  Claims.AnAtomReturnsTheOldValueAndWritesItsTable ∧ Claims.AtomicsMadeLaterWriteTheirTable ∧ Claims.AtomsAreFormedAtTheBank

/-- Derivations give the capabilities of their table, and none gains authority. -/
def Obligations.DerivationsGainNoAuthority : Prop :=
  Claims.DerivationsGiveTheCapabilitiesOfTheirTable ∧ Claims.NoDerivationGainsAuthority

/-- Capabilities are sealed with a sealer and inspected by their fields. -/
def Obligations.CapabilitiesAreSealedAndInspected : Prop :=
  Claims.SealingNeedsASealer ∧ Claims.CapabilitiesAreInspectedByTheirFields

/-! ## Groups, mailboxes, copies -/

/-- R113 to R116, R208: one seat that joins, leaves, arrives at or waits for a group. A phase whose arrivals become complete ends and
wakes the threads that wait for it; an arrival is applied, and a departure made, at once if nothing of the seat is outstanding, else
it stays in flight. -/
def Obligations.GroupInstructionsFollowTheirTable : Prop :=
  ∀ (s : State) (T : Task) (g : Fin 64) (k : Nat), isTask s (cur s).task T → Shaped (cur s) → issued s = [k] →
    (getSeat (cur s) k).state = .eligible → (∀ u ∈ (getGroup T g.val).applied, u ∈ (getGroup T g.val).marked) →
    let x := getGroup T g.val
    let th := threadOf s k
    let after := fun (t : State) (y z : Group) => ∃ T', isTask t (cur s).task T' ∧ getGroup T' g.val = z ∧ groupSettles y z ∧
      ∀ h, h ≠ g.val → getGroup T' h = getGroup T h
    let goes := fun (t : State) => (getSeat (cur t) k).pc = (getSeat (cur s) k).pc + BitVec.ofNat 64 s.sel.len ∧
      (getSeat (cur t) k).state = .eligible
    let waits := fun (t : State) => (getSeat (cur t) k).pc = (getSeat (cur s) k).pc ∧
      (getSeat (cur t) k).state = .blocked (.phase g.val)
    let wakes := fun (t : State) (y : Group) => phaseFull y → ∀ e ∈ taskBenches s T, ∀ j, j < 32 → j ≠ k →
      (getSeat (getBench s e.1 e.2) j).state = .blocked (.phase g.val) →
        (getSeat (getBench t e.1 e.2) j).state = .eligible ∧
          (getSeat (getBench t e.1 e.2) j).pc = (getSeat (getBench s e.1 e.2) j).pc + 4
    let arrived := { x with marked := x.marked ++ [th], applied := x.applied ++ [th] }
    let done := accessesDone s s.sel.core s.sel.slot k = true
    (∃ t T', exec (.join g) s = .next t ∧ isTask t (cur s).task T' ∧ goes t ∧ t.mem = s.mem ∧ t.flights = s.flights ∧
      getGroup T' g.val = (if th ∈ x.members then x else { x with members := x.members ++ [th] }) ∧
      ∀ h, h ≠ g.val → getGroup T' h = getGroup T h) ∧
    (∃ t, exec (.leave g) s = .next t ∧ goes t ∧ t.mem = s.mem ∧
      (th ∉ x.members → isTask t (cur s).task T) ∧
      (th ∈ x.members → ¬done → isTask t (cur s).task T ∧
        ∃ f ∈ t.flights, f.id = s.nextId ∧ f.kind = .arrival th g.val true (getSeat (cur s) k).batch ∧ f.seats = seatBit k) ∧
      (th ∈ x.members → done →
        let y := { x with members := x.members.filter (· ≠ th), marked := x.marked.filter (· ≠ th)
                          applied := x.applied.filter (· ≠ th) }
        (∃ z, after t y z) ∧ wakes t y)) ∧
    (∃ t, exec (.arrive g) s = .next t ∧ goes t ∧ t.mem = s.mem ∧
      (th ∉ x.members ∨ th ∈ x.marked → isTask t (cur s).task T) ∧
      (th ∈ x.members → th ∉ x.marked → done → (∃ z, after t arrived z) ∧ wakes t arrived) ∧
      (th ∈ x.members → th ∉ x.marked → ¬done →
        (∃ T', isTask t (cur s).task T' ∧ getGroup T' g.val = { x with marked := x.marked ++ [th] }) ∧
          ∃ f ∈ t.flights, f.id = s.nextId ∧ f.kind = .arrival th g.val false (getSeat (cur s) k).batch ∧ f.seats = seatBit k)) ∧
    (∃ t, exec (.waitb g) s = .next t ∧ t.mem = s.mem ∧ t.tasks = s.tasks ∧
      (th ∈ x.members ∧ th ∈ x.marked → waits t) ∧ (¬(th ∈ x.members ∧ th ∈ x.marked) → goes t)) ∧
    (∃ t, exec (.bar g) s = .next t ∧ t.mem = s.mem ∧
      (th ∉ x.members → goes t ∧ isTask t (cur s).task T) ∧
      (th ∈ x.members → th ∈ x.marked → waits t ∧ isTask t (cur s).task T) ∧
      (th ∈ x.members → th ∉ x.marked → done →
        (∃ z, after t arrived z) ∧ wakes t arrived ∧ (phaseFull arrived → goes t) ∧ (¬phaseFull arrived → waits t)) ∧
      (th ∈ x.members → th ∉ x.marked → ¬done → waits t))

/-- R156, R158, R172, R173: one seat's operation on a mailbox of its core. The seat has not been woken by an abandonment or a
timeout. -/
def Obligations.MailboxesHandOverOneWordAtATime : Prop :=
  ∀ (s : State) (T : Task) (m : Fin 8) (a : Src) (d : DReg) (p : PReg) (g : Fin 64) (k : Nat),
    isTask s (cur s).task T → curCoreT s < T.cores.length → (taskCore T (curCoreT s)).mail.length = 8 → Shaped (cur s) →
    issued s = [k] → (getSeat (cur s) k).wake = none → (getSeat (cur s) k).state = .eligible →
    let x := getMail T (curCoreT s) m.val
    let holds := fun (t : State) (y : Mailbox) => ∃ T', isTask t (cur s).task T' ∧ getMail T' (curCoreT s) m.val = y ∧
      (∀ n, n ≠ m.val → getMail T' (curCoreT s) n = getMail T (curCoreT s) n) ∧
      ∀ c, c ≠ curCoreT s → taskCore T' c = taskCore T c
    let goes := fun (t : State) => (getSeat (cur t) k).pc = (getSeat (cur s) k).pc + BitVec.ofNat 64 s.sel.len ∧
      (getSeat (cur t) k).state = .eligible
    let other := fun (r : Nat × Nat) => r.2 < 32 ∧ Shaped (getBench s s.sel.core (queueSlot s r.1)) ∧
      (queueSlot s r.1 = s.sel.slot → r.2 ≠ k)
    let woken := fun (t : State) (r : Nat × Nat) =>
      (getSeat (getBench t s.sel.core (queueSlot s r.1)) r.2).state = .eligible ∧
        (getSeat (getBench t s.sel.core (queueSlot s r.1)) r.2).pc =
          (getSeat (getBench s s.sel.core (queueSlot s r.1)) r.2).pc + 4
    (∀ r, x.readers.head? = some r ∨ x.writers.head? = some r → other r) →
    (OperandsClear s [a.reg] [] [] [] → ∃ t, exec (.mbw m a) s = .next t ∧ t.mem = s.mem ∧
      (x.readers = [] → x.full = false → goes t ∧ holds t { x with value := srcV s a k, full := true }) ∧
      (x.readers = [] → x.full = true → holds t { x with writers := x.writers ++ [((cur s).benchT, k)] } ∧
        (getSeat (cur t) k).pc = (getSeat (cur s) k).pc ∧
        (getSeat (cur t) k).state = .blocked (.mbw m.val (srcV s a k) (s.bell.toNat + mailTimeout s T))) ∧
      (∀ r rs e l, x.readers = r :: rs → e.isV = true →
        (getSeat (getBench s s.sel.core (queueSlot s r.1)) r.2).state = .blocked (.mbr m.val e l) →
          holds t { x with readers := rs } ∧ goes t ∧ woken t r ∧
            readD (getBench t s.sel.core (queueSlot s r.1)) e r.2 = srcV s a k)) ∧
    (OperandsClear s [] [] [d] [] → (x.full = false → x.abandoned = false) → ∃ t, exec (.mbr m d) s = .next t ∧
      t.mem = s.mem ∧
      (x.full = true → goes t ∧ readD (cur t) d k = x.value) ∧
      (x.full = true → x.writers = [] → holds t { x with full := false }) ∧
      (∀ r rs w l, x.full = true → x.writers = r :: rs →
        (getSeat (getBench s s.sel.core (queueSlot s r.1)) r.2).state = .blocked (.mbw m.val w l) →
          holds t { x with value := w, writers := rs } ∧ woken t r) ∧
      (x.full = false → holds t { x with readers := x.readers ++ [((cur s).benchT, k)] } ∧
        (getSeat (cur t) k).pc = (getSeat (cur s) k).pc ∧
        (getSeat (cur t) k).state = .blocked (.mbr m.val d (s.bell.toNat + mailTimeout s T)))) ∧
    (OperandsClear s [] [] [d] [] → ∃ t, exec (.mbtry m p d) s = .next t ∧ t.mem = s.mem ∧ goes t ∧
      (p ≠ 0 → readP (cur t) p k = if x.full then 0xFF else 0) ∧
      (x.full = true → readD (cur t) d k = x.value ∧ (x.writers = [] → holds t { x with full := false })) ∧
      (x.full = false → holds t x ∧ readD (cur t) d k = if x.abandoned then 1 else 0)) ∧
    (∃ t, exec (.mbind m g) s = .next t ∧ t.mem = s.mem ∧ goes t ∧
      holds t { x with bound := true, group := g.val, abandoned := false
                       armed := decide ((getGroup T g.val).members ≠ []) })

/-- R174, R178 to R181: each issued seat's copy enters the queue with its own descriptor, capabilities, batch and deadline, and
raises the flag by one; one without extent is done at once. A copy with ARR registers with the open phase of its group. No
capability register, predicate or byte of memory changes. -/
def Claims.CopiesEnterTheQueueAtIssue : Prop :=
  ∀ (s : State) (i : Instr) (kind : Nat) (q : Src) (sz : Width) (ca cd : CReg) (arr fb : Bool),
    Shaped (cur s) → copyForm i = some (kind, q, sz, ca, arr, fb, cd) →
    OperandsClear s [q.reg, q.reg.plus 1, q.reg.plus 2, q.reg.plus 3] [ca, cd] [] [] →
    let cmd := fun k => issuedCopy s k kind q sz ca arr cd
    let extent := fun k => bits (cmd k).q0 15 0 ≠ 0 ∧ bits (cmd k).q0 31 16 ≠ 0
    (∀ k ∈ issued s, copyFault s (cmd k) = none) →
    ∃ t, exec i s = .next t ∧ t.mem = s.mem ∧
      (arr = false ∨ (∀ k ∈ issued s, extent k) → DataKept s t (srcAll q (quad q.reg)) (fun _ => False)) ∧
      CapsKept s t (fun _ => False) ∧ PredsKept s t (fun _ => False) ∧
      (∀ k ∈ issued s, extent k → ∃ f ∈ t.flights, s.nextId ≤ f.id ∧ f.core = s.sel.core ∧ f.slot = s.sel.slot ∧
        f.seats = seatBit k ∧ f.flag = passFlag s fb ∧ f.kind = .copy (cmd k)) ∧
      t.nextId = s.nextId + ((issued s).filter fun k => decide (extent k)).length ∧
      (∀ j, flagOf (cur t) j = flagOf (cur s) j +
        if passFlag s fb = some j ∧ j < 12 then ((issued s).filter fun k => decide (extent k)).length else 0) ∧
      (∀ T g k, isTask s (cur s).task T → issued s = [k] → extent k → arr = true → g = bits (cmd k).q0 37 32 →
        ∃ T', isTask t (cur s).task T' ∧ getGroup T' g = { getGroup T g with copies := (getGroup T g).copies + 1 }) ∧
      (∀ k ∈ issued s, (getSeat (cur s) k).state = .eligible →
        (getSeat (cur t) k).pc = (getSeat (cur s) k).pc + BitVec.ofNat 64 s.sel.len)

/-- R176: where the elements of a copy come from and go to: for each element that it moves the image address, clamped or
dropped as EDGE says, and the address in the box. The index list is read once, through the window, when the copy begins. -/
def Claims.CopiesMoveTheElementsOfTheirKind : Prop :=
  ∀ (s : State) (f : Flight) (c : CopyCmd), c.kind < 5 →
    let X := bits c.q0 15 0
    let Y := bits c.q0 31 16
    let edge := bits c.q0 40 39
    let sw : Int := bits c.q2 47 32
    let sh : Int := bits c.q2 63 48
    let row := fun (y : Nat) => ((nth c.idx y (0, false)).1 : Int)
    let rowBad := fun (y : Nat) => (nth c.idx y (0, false)).2
    let clamp := fun (x n : Int) => if edge = 1 then max 0 (min x (n - 1)) else x
    let stride := fun (w : Nat) => signedOf 32 w
    let img := fun (cap : Cap) (st : Nat) (ix iy : Int) =>
      ((capCursor cap).toNat : Int) + clamp iy sh * stride st + clamp ix sw * c.size
    let out := fun (ix iy : Int) => edge = 2 ∧ (ix < 0 ∨ sw ≤ ix ∨ iy < 0 ∨ sh ≤ iy)
    let box := fun (cap : Cap) (st x y : Nat) =>
      if bits c.q0 38 38 = 1 then ((capCursor cap).toNat : Int) + x * stride st + y * c.size
      else ((capCursor cap).toNat : Int) + y * stride st + x * c.size
    let src := bits c.q1 31 0
    let dst := bits c.q1 63 32
    let ix := fun (x : Nat) => signedOf 16 (bits c.q2 15 0) + (x : Int)
    (c.kind ∈ [1, 2, 3] → c.stage = 0 → ∀ y, y < Y →
      let entry := seeWindow s (flightTask s f) (flightCoreT s f) (bits c.q3 31 0 + 4 * y) 4
      nth (withIndex s f c).idx y (0, false) = (valueLE entry.bytes, entry.poison)) ∧
    ((edge = 1 → 0 < sw ∧ 0 < sh) →
    ∀ n src_ dst_, (n, src_, dst_) ∈ copyElems c ↔ ∃ x y, x < X ∧ y < Y ∧ n = y * X + x ∧
      match c.kind with
      | 0 => dst_ = box c.dst dst x y ∧
          let iy := signedOf 16 (bits c.q2 31 16) + (y : Int)
          (out (ix x) iy → src_ = .fill false) ∧ (¬out (ix x) iy → src_ = .mem (img c.src src (ix x) iy) false)
      | 1 => dst_ = box c.dst dst x y ∧
          (out (ix x) (row y) → src_ = .fill (rowBad y)) ∧ (¬out (ix x) (row y) → src_ = .mem (img c.src src (ix x) (row y)) (rowBad y))
      | 4 => dst_ = box c.dst dst x y ∧ src_ = .fill false
      | _ => ¬out (ix x) (row y) ∧ rowBad y = false ∧ dst_ = img c.dst dst (ix x) (row y) ∧ src_ = .mem (box c.src src x y) false)

/-- R180: `seal` writes BATCH and advances it; after 0xFFFF_FFFF comes 1. -/
def Claims.SealClosesTheOpenBatch : Prop :=
  ∀ (s : State) (d : DReg), Shaped (cur s) → OperandsClear s [] [] [d] [] →
    ∃ t, exec (.seal d) s = .next t ∧ LeavesOutside s t ∧ DataKept s t [] (· = d) ∧ CapsKept s t (fun _ => False) ∧
      PredsKept s t (fun _ => False) ∧ BenchKept s t ∧
      (d.isV = true → ∀ k ∈ issued s, readD (cur t) d k = (getSeat (cur s) k).batch.setWidth 64 ∧ poisonD (cur t) d k = none) ∧
      (d.isV = false → ∀ k, issued s ≠ [] → readD (cur t) d k = (getSeat (cur s) ((issued s).headD 0)).batch.setWidth 64) ∧
      SeatsBecome s t (fun _ x =>
        { pastSeat x s.sel.len false with batch := if x.batch = 0xFFFFFFFF then 1 else x.batch + 1 })

/-- Copies enter the queue at issue, move the elements of their kind, and are sealed in batches. -/
def Obligations.CopiesAreQueuedAndSealed : Prop :=
  Claims.CopiesEnterTheQueueAtIssue ∧ Claims.CopiesMoveTheElementsOfTheirKind ∧ Claims.SealClosesTheOpenBatch

/-! ## The matrix unit -/

/-- R252, R255 to R260: a product updates exactly the elements whose row and column seats are both issued: chunks of eight in
ascending k, each exact and rounded once; signed bytes saturate and set the tile's flag; a modular pair grows by the lazy
Montgomery product modulo 2^96. Poison bits stay, and the pass is in flight with its flag raised. -/
def Obligations.ProductsUpdateTheElementsOfIssuedSeats : Prop :=
  ∀ (s : State) (fmt : MmaFmt) (fms : MmasFmt) (b a : Src) (p : BitVec 2) (t : Fin 16), Shaped (cur s) →
    (getCore s s.sel.core).accTask = some (cur s).task →
    let old := fun k i j => tileElem (getTile s s.sel.core k) i j
    let new := fun (u : State) k i j => tileElem (getTile u s.sel.core k) i j
    let both := fun i j => i ∈ issued s ∧ j ∈ issued s
    let frag := fun w (r : Src) k m => fragBits w (srcV s r k) (readD (cur s) r.reg.succ k) m
    let kept := fun (u : State) => ∀ i j, i < 32 → j < 32 → ¬both i j → new u t.val i j = old t.val i j
    (OperandsClear s (usesOf (.mma fmt b a t)).reads [] [] [] → ∃ u, exec (.mma fmt b a t) s = .next u ∧
      flagRaised s u (.matrix false) ∧ kept u ∧ (getTile u s.sel.core t.val).poison = (getTile s s.sel.core t.val).poison ∧
      TilesKept s u (if fmt = .bf16 ∨ fmt = .f16 then srcAll a (pair a.reg) ++ srcAll b (pair b.reg) else [a, b]) [t.val] ∧
      (∀ F w, mmaFmt fmt = some (F, w) → ∀ i j, i < 32 → j < 32 → both i j →
        new u t.val i j = chunk F (old t.val i j) (frag w a i) (frag w b j) (.fin false 1 0)) ∧
      (fmt = .b →
        let sum := fun i j => signedOf 48 (old t.val i j) +
          ((List.range 8).map fun m => signedOf 8 (frag 8 a i m) * signedOf 8 (frag 8 b j m)).sum
        (∀ i j, i < 32 → j < 32 → both i j →
          signedOf 48 (new u t.val i j) = max (-(2 ^ 47 - 1)) (min (2 ^ 47 - 1) (sum i j))) ∧
        ((getTile u s.sel.core t.val).sat = true ↔ (getTile s s.sel.core t.val).sat = true ∨
          ∃ i j, i < 32 ∧ j < 32 ∧ both i j ∧ 2 ^ 47 - 1 < |sum i j|))) ∧
    (OperandsClear s (a.reg :: pair b.reg) [] [] [] → (declaredMask s).getLsbD 2 = true →
      ∃ u, exec (.mmas fms b a p t) s = .next u ∧ flagRaised s u (.matrix false) ∧ kept u ∧
        (getTile u s.sel.core t.val).poison = (getTile s s.sel.core t.val).poison ∧ TilesKept s u [a, b] [t.val] ∧
        let F := (mmasFmt fms).1
        let w := (mmasFmt fms).2
        let scale := fun i j => fmulV (e8m0 (elem (readD (cur s) b.reg.succ i) (2 * p.toNat) 8))
          (e8m0 (elem (readD (cur s) b.reg.succ j) (2 * p.toNat + 1) 8))
        ∀ i j, i < 32 → j < 32 → both i j →
          let first := chunk F (old t.val i j) (frag w a i) (frag w b j) (scale i j)
          new u t.val i j = if fms = .e2m1 then
            chunk F first (fun m => frag w a i (8 + m)) (fun m => frag w b j (8 + m)) (scale i j) else first) ∧
    (t.val % 2 = 0 → OperandsClear s [a.reg, b.reg, .s 12, .s 13] [] [] [] → (declaredMask s).getLsbD 1 = true →
      ∃ u, exec (.mmod b a t) s = .next u ∧ flagRaised s u (.matrix false) ∧ TilesKept s u [a, b] [t.val, t.val + 1] ∧
        (∀ i j, i < 32 → j < 32 → ¬both i j →
          new u t.val i j = old t.val i j ∧ new u (t.val + 1) i j = old (t.val + 1) i j) ∧
        ∀ i j, i < 32 → j < 32 → both i j →
          let q := (readD (cur s) (.s 12) 0).toNat
          let q' := (readD (cur s) (.s 13) 0).toNat
          let x := (srcV s a i).toNat * (srcV s b j).toNat
          new u t.val i j + new u (t.val + 1) i j * 2 ^ 48 =
            (old t.val i j + old (t.val + 1) i j * 2 ^ 48 + (x + x % 2 ^ 64 * q' % 2 ^ 64 * q) / 2 ^ 64) % 2 ^ 96)

/-- R261 to R265: a tile cleared, loaded from the rows of the window and stored to one: each element converted, a float under
the rounding code (with the draw of R65 and the advance of STEP in `.sr`), an integer saturated; `ald` takes the poison of what
it reads and clears the flag. The rows have landed (R151). -/
def Obligations.TilesMoveToAndFromTheWindow : Prop :=
  ∀ (s u : State) (fmt : TileFmt) (r : Rnd) (c : CReg) (a : Src) (t : Fin 16) (ps : List (Nat × Place)), Shaped (cur s) →
    (getCore s s.sel.core).accTask = some (cur s).task →
    let n := (tileForm fmt).1
    let ask := fun (p : Perm) (acc : Access) => (⟨[p], 32 * n, .window, 8, 3, acc⟩ : Ask)
    let old := getTile s s.sel.core t.val
    let rows := fun (i a : Nat) => (i, Place.win a) ∈ ps
    let bytes := fun (x : State) (a j : Nat) => winBytes x (curTask x) (curCoreT x) (a + n * j) n
    (∃ v, exec (.aclr t) s = .next v ∧ TilesKept s v [] [t.val] ∧ v.flights.length = s.flights.length ∧
      (∀ i j, i < 32 → j < 32 → tileElem (getTile v s.sel.core t.val) i j = 0) ∧
      (getTile v s.sel.core t.val).poison = [] ∧ (getTile v s.sel.core t.val).sat = false) ∧
    (accessChecks s (.ald fmt c a t) c (exactAddr s c (byReg s a)) (ask .ld .load) (fun _ _ => none) = .ok (ps, u) →
      issued s ≠ [] → (∀ i x, rows i x → winHeld u i x (32 * n) = false) → ∃ v, exec (.ald fmt c a t) s = .next v ∧ flagRaised s v .tileRows ∧ TilesKept s v [a] [t.val] ∧
        let new := getTile v s.sel.core t.val
        new.sat = false ∧
        (∀ i, i < 32 → i ∉ issued s → ∀ j, j < 32 → tileElem new i j = tileElem old i j ∧
          (32 * i + j ∈ new.poison ↔ 32 * i + j ∈ old.poison)) ∧
        ∀ i x, i < 32 → rows i x → i ∈ issued s ∧ (BitVec.ofInt 64 (exactAddr s c (byReg s a) i)).toNat = x ∧
          ∀ j, j < 32 →
            (32 * i + j ∈ new.poison ↔ ∃ y, y < n ∧ winPoison u (curTask u) (curCoreT u) (x + n * j + y) = true) ∧
            (∀ F, (tileForm fmt).2 = some F →
              tileElem new i j = fencode fmt48 .rne (fdecode F (valueLE (bytes u x j)))) ∧
            (fmt = .raw → tileElem new i j = valueLE (bytes u x j) % 2 ^ 48) ∧
            (fmt = .s32 → signedOf 48 (tileElem new i j) = signedOf 32 (valueLE (bytes u x j)))) ∧
    ((∀ core, (getCore s core).spad.wf = true) → ∀ i x, ps = [(i, .win x)] →
      (∀ y z, y < 32 * n → z < 32 * n → winPlace (curTask u) (curCoreT u) (x + y) = winPlace (curTask u) (curCoreT u) (x + z) →
        y = z) →
      (∀ e ∈ (taskCore (curTask u) (curCoreT u)).map, e.2 % 16 = 0) →
      accessChecks s (.ast fmt r c a t) c (exactAddr s c (byReg s a)) (ask .st .store) (fun _ _ => none) = .ok (ps, u) →
      winHeld u i x (32 * n) = false → ∃ v, exec (.ast fmt r c a t) s = .next v ∧ flagRaised s v .tileRows ∧ v.mem = s.mem ∧ v.tasks = u.tasks ∧
        (∀ core k, getTile v core k = getTile s core k) ∧
        (cur v).stepCount = (if r = .sr then (cur s).stepCount + 1 else (cur s).stepCount) ∧
        DataKept s v [a] (fun _ => False) ∧ CapsKept s v (fun _ => False) ∧ PredsKept s v (fun _ => False) ∧
        (∀ core o, (∀ y, y < 32 * n → winPlace (curTask u) (curCoreT u) (x + y) ≠ (core, o)) →
          memByte (getCore v core).spad o = memByte (getCore s core).spad o) ∧
        ∀ j, j < 32 →
          (32 * i + j ∈ old.poison → ∀ y, y < n → winPoison v (curTask v) (curCoreT v) (x + n * j + y) = true) ∧
          (∀ F, (tileForm fmt).2 = some F → valueLE (bytes v x j) =
            fencode F (rmodeOf r (astDraw (cur s) i j)) (fdecode fmt48 (tileElem old i j))) ∧
          (fmt = .raw → valueLE (bytes v x j) = tileElem old i j) ∧
          (fmt = .s32 → signedOf 32 (valueLE (bytes v x j)) =
            max (-(2 ^ 31)) (min (2 ^ 31 - 1) (signedOf 48 (tileElem old i j)))))

/-- R267 to R270: `tmma` puts one command of the lowest issued seat into the copy queue, with the descriptor of its quad and the
cursor of its capability; the command registers with its group where ARR is set. Nothing is multiplied yet. -/
def Obligations.TmmaQueuesOneCommand : Prop :=
  ∀ (s : State) (c : CReg) (q : Src) (t : Fin 16) (k : Nat), Shaped (cur s) → (issued s).head? = some k →
    (getCore s s.sel.core).accTask = some (cur s).task → (declaredMask s).getLsbD 5 = true →
    (∀ j, j < 4 → poisonD (cur s) (q.reg.plus j) k = none) → poisonC (cur s) c k = none →
    ∀ cmd : TmmaCmd, cmd = tmmaCmdOf s c q t.val → tmmaFault s cmd = none →
      ∃ u, exec (.tmma c q t) s = .next u ∧ flagRaised s u (.tmma cmd) ∧ u.mem = s.mem ∧
        (∀ j, j < 4 → [cmd.q0, cmd.q1, cmd.q2, cmd.q3][j]? = some (readD (cur s) (q.reg.plus j) k)) ∧
        cmd.cap = readC (cur s) c k ∧ cmd.origin = capCursor (readC (cur s) c k) ∧ cmd.tile = t.val ∧
        (∀ f ∈ s.flights, ∀ x, f.core = s.sel.core → f.task = (cur s).task → f.kind = .tmma x → x.order < cmd.order) ∧
        (∀ core j, getTile u core j = getTile s core j) ∧
        (bits cmd.q2 36 36 = 1 → ∀ T, isTask s (cur s).task T → ∃ T', isTask u (cur s).task T' ∧
          let g := bits cmd.q2 35 30
          getGroup T' g = { getGroup T g with copies := (getGroup T g).copies + 1 }) ∧
        DataKept s u (srcAll q (quad q.reg)) (fun _ => False) ∧ CapsKept s u (fun _ => False) ∧
        PredsKept s u (fun _ => False) ∧ SeatsBecome s u (fun _ x => pastSeat x s.sel.len false)

/-! ## Endpoints, notifications, rings, records -/

/-- R208, R320 to R323: one seat at an endpoint. `send` and `xcall` hand their message to the first waiting receiver, or are queued;
`recv` and `poll` take the first waiting sender's message, or are queued, or find nothing; an `xcall` waits on for its reply,
whose right the taker gains; `reply` consumes it, and is performed once the seat's earlier accesses are done. R194, R203: `send` and `xcall` release at dom scope: what the task holds in the
issuing core's part has gone to the die part. -/
def Claims.MessagesMeetAtAnEndpoint : Prop :=
  ∀ (s : State) (cb ce : CReg) (a : Src) (k n : Nat) (xs : List EpSender) (rs : List EpReceiver),
    issuer s k → s.sel.len = 4 → n = capNum (readC (cur s) ce k) → 10 ≤ n → endpointIs s n xs rs →
    capSeal (readC (cur s) ce k) = 963 →
    let me := partyOfSeat s k
    let m := sends s a cb k
    let core := s.sel.core
    let slot := s.sel.slot
    let badge := capCursor (readC (cur s) ce k) &&& 0x7FFFFFFFFFFFFFFF
    let stc := hasPerm (readC (cur s) ce k) .stc
    let ldc := hasPerm (readC (cur s) ce k) .ldc
    let u := releaseDom s
    (∀ T, isTask u (cur s).task T → (taskCore T (curCoreT s)).hold = []) ∧
    (endpFault s (.send cb a ce) ce [963] .invoke (some cb) k = none → ∃ t, exec (.send cb a ce) s = .next t ∧
      (rs = [] → onlyQueues u t ∧ endpointIs t n (xs ++ [⟨me, m, badge, false, stc⟩]) [] ∧ isBlocked s t core slot k (.send n) ∧
        DataKept s t [] (fun _ => False) ∧ CapsKept s t (fun _ => False)) ∧
      (∀ r rs' c sl j q cr l bg, xs = [] → rs = r :: rs' → liveSeat s r.who c sl j (.recv 963 n q cr l bg) →
        onlyQueues u t ∧ endpointIs t n [] rs' ∧ wentOn s t core slot k ∧
          tookMessage s t c sl j q cr [m.w0, m.w1, m.w2, badge] m.cap (stc && l))) ∧
    (endpFault s (.xcall cb a ce) ce [963] .invoke (some cb) k = none → ∃ t, exec (.xcall cb a ce) s = .next t ∧
      (rs = [] → onlyQueues u t ∧ endpointIs t n (xs ++ [⟨me, m, badge, true, stc⟩]) [] ∧
        isBlocked s t core slot k (.xcall n false a.reg cb stc ldc true)) ∧
      (∀ r rs' c sl j q cr l bg, xs = [] → rs = r :: rs' → liveSeat s r.who c sl j (.recv 963 n q cr l bg) →
        (getSeat (getBench s c sl) j).right = none →
        onlyQueues u t ∧ endpointIs t n [] rs' ∧ isBlocked s t core slot k (.xcall n true a.reg cb stc ldc true) ∧
          tookMessage s t c sl j q cr [m.w0, m.w1, m.w2, badge] m.cap (stc && l) ∧
          (getSeat (getBench t c sl) j).right = some ⟨me, stc⟩)) ∧
    (∀ i, i = .recv cb a ce ∨ i = .poll cb a ce → endpFault s i ce [963, 964] .ld none k = none →
      ∃ t, exec i s = .next t ∧
        (xs = [] → onlyQueues s t) ∧ (xs = [] → i = .recv cb a ce → endpointIs t n [] (rs ++ [⟨me, ldc⟩]) ∧
          isBlocked s t core slot k (.recv 963 n a.reg cb ldc badge)) ∧
        (xs = [] → i = .poll cb a ce → endpointIs t n [] rs ∧
          tookMessage s t core slot k a.reg cb [0, 0, 0, 0x8000000000000000] ⟨0, false⟩ true) ∧
        (∀ x xs' c sl j, xs = x :: xs' → rs = [] → x.xcall = false → liveSeat s x.who c sl j (.send n) →
          onlyQueues s t ∧ endpointIs t n xs' [] ∧ wentOn s t c sl j ∧
            tookMessage s t core slot k a.reg cb [x.msg.w0, x.msg.w1, x.msg.w2, x.badge] x.msg.cap (x.stc && ldc)) ∧
        (∀ x xs' c sl j q cr p1 p2 lo, xs = x :: xs' → rs = [] → x.xcall = true →
          liveSeat s x.who c sl j (.xcall n false q cr p1 p2 lo) → (getSeat (cur s) k).right = none →
          onlyQueues s t ∧ endpointIs t n xs' [] ∧ isBlocked s t c sl j (.xcall n true q cr p1 p2 lo) ∧
            tookMessage s t core slot k a.reg cb [x.msg.w0, x.msg.w1, x.msg.w2, x.badge] x.msg.cap (x.stc && ldc) ∧
            (getSeat (cur t) k).right = some ⟨x.who, x.stc⟩)) ∧
    ((useFault s (usesOf (.reply cb a)) k).isNone = true → localFault s cb k = none → ∃ t, exec (.reply cb a) s = .next t ∧
      (getSeat (cur t) k).right = none ∧ wentOn s t core slot k ∧ t.objs = s.objs ∧
      ∀ r c sl j e q cr p1 p2 lo, (getSeat (cur s) k).right = some r → (q.isV = true ∨ lo = true) →
        liveSeat s r.caller c sl j (.xcall e true q cr p1 p2 lo) →
          (accessesDone s core slot k = true →
            tookMessage s t c sl j q cr [m.w0, m.w1, m.w2, 0] m.cap (r.stc && (p1 && p2))) ∧
          (accessesDone s core slot k = false → isBlocked s t c sl j (.xcall e true q cr p1 p2 lo) ∧
            ∃ f ∈ t.flights, f.id = s.nextId ∧ f.seats = seatBit k ∧ f.kind = .reply r m (getSeat (cur s) k).batch))

/-- R208, R322, R324: one seat at a notification: `notify`, once the seat's earlier accesses are done, ORs its bits in and the first
waiting receiver takes and clears the word;
`recv` and `poll` take a nonzero word and clear it, with the badge of their own capability; `recv` waits while it is zero. -/
def Claims.NotificationsCollectBits : Prop :=
  ∀ (s : State) (cb ce : CReg) (a : Src) (k n : Nat) (w : Word) (rs : List EpReceiver),
    issuer s k → s.sel.len = 4 → n = capNum (readC (cur s) ce k) → notificationIs s n w rs →
    capSeal (readC (cur s) ce k) = 964 →
    let core := s.sel.core
    let slot := s.sel.slot
    let badge := capCursor (readC (cur s) ce k) &&& 0x7FFFFFFFFFFFFFFF
    let ldc := hasPerm (readC (cur s) ce k) .ldc
    let x := w ||| srcV s a k
    (endpFault s (.notify a ce) ce [964] .invoke none k = none → ∃ t, exec (.notify a ce) s = .next t ∧
      wentOn s t core slot k ∧
      (accessesDone s core slot k = false → notificationIs t n w rs ∧ DataKept s t [a] (fun _ => False) ∧ t.mem = s.mem ∧
        ∃ f ∈ t.flights, f.id = s.nextId ∧ f.seats = seatBit k ∧ f.kind = .notify n (srcV s a k) (getSeat (cur s) k).batch) ∧
      (accessesDone s core slot k = true → rs = [] ∨ x = 0 → onlyQueues (releaseDom s) t ∧ notificationIs t n x rs ∧ DataKept s t [a] (fun _ => False)) ∧
      (accessesDone s core slot k = true → ∀ r rs' c sl j q cr l bg, rs = r :: rs' → x ≠ 0 → liveSeat s r.who c sl j (.recv 964 n q cr l bg) →
        onlyQueues (releaseDom s) t ∧ notificationIs t n 0 rs' ∧ tookMessage s t c sl j q cr [x, 0, 0, bg] ⟨0, false⟩ true)) ∧
    (∀ i, i = .recv cb a ce ∨ i = .poll cb a ce → endpFault s i ce [963, 964] .ld none k = none →
      ∃ t, exec i s = .next t ∧ (w = 0 ∨ rs = [] → onlyQueues s t) ∧
        (w ≠ 0 → rs = [] → notificationIs t n 0 [] ∧ tookMessage s t core slot k a.reg cb [w, 0, 0, badge] ⟨0, false⟩ true) ∧
        (w = 0 → i = .recv cb a ce → notificationIs t n 0 (rs ++ [⟨partyOfSeat s k, ldc⟩]) ∧
          isBlocked s t core slot k (.recv 964 n a.reg cb ldc badge)) ∧
        (w = 0 → i = .poll cb a ce → notificationIs t n 0 rs ∧
          tookMessage s t core slot k a.reg cb [0, 0, 0, 0x8000000000000000] ⟨0, false⟩ true))

/-- R328, R329, R353: a `sysc` writes its request entry and moves REQ on, raises the ring's doorbell and waits for its reply; it
waits for an entry where the ring is full. -/
def Claims.AServiceCallWritesItsRequestEntry : Prop :=
  ∀ (s : State) (cb ce : CReg) (a : Src) (k n hub log base bellN : Nat) (d : Word32) (w : Word), issuer s k → s.mem.wf = true →
    n = capNum (readC (cur s) ce k) → base % 64 = 0 →
    isMgmt (base + 64 + 64 * (memValue s.mem base 4 % 2 ^ log) + 0x30) = false →
    (∃ o, findObj s 971 n = some o ∧ o.data = .ring hub log base bellN [] d) → notificationIs s bellN w [] →
    endpFault s (.sysc cb a ce) ce [971] .invoke (some cb) k = none →
    let req := memValue s.mem base 4
    let done := memValue s.mem (base + 8) 4
    let m := sends s a cb k
    let stc := hasPerm (readC (cur s) ce k) .stc
    let ldc := hasPerm (readC (cur s) ce k) .ldc
    let e := base + 64 + 64 * (req % 2 ^ log)
    ∃ t, exec (.sysc cb a ce) s = .next t ∧ t.tasks = (releaseDom s).tasks ∧
      (req = (done + 2 ^ log) % 2 ^ 32 → log < 32 → t.mem = s.mem ∧
        isBlocked s t s.sel.core s.sel.slot k (.sysc n false 0 a.reg cb stc ldc true)) ∧
      (req ≠ (done + 2 ^ log) % 2 ^ 32 → log < 32 →
        isBlocked s t s.sel.core s.sel.slot k (.sysc n true (BitVec.ofNat 64 req) a.reg cb stc ldc true) ∧
        memValue t.mem base 4 = (req + 1) % 2 ^ 32 ∧ notificationIs t bellN (w ||| 1) [] ∧
        memValue t.mem (e + 4) 1 = k ∧ memValue t.mem (e + 8) 8 = s.bell.toNat ∧ memValue t.mem (e + 0x10) 8 = req ∧
        memValue t.mem (e + 0x18) 8 = m.w0.toNat ∧ memValue t.mem (e + 0x20) 8 = m.w1.toNat ∧
        memValue t.mem (e + 0x28) 8 = m.w2.toNat ∧ memValue t.mem (e + 0x30) 16 = m.cap.bits.toNat ∧
        (memTag t.mem (e + 0x30) = true ↔ m.cap.tag = true ∧ stc = true) ∧
        (∀ x, (x < base ∨ base + 4 ≤ x) → (x < e ∨ e + 64 ≤ x) → memByte t.mem x = memByte s.mem x))

/-- R288, R289, R330, R331: a seat that emits reserves a place in the bin of the edge's target node and its record is held, in the
order of first issue and then of seats, or it waits while the bin is full; seats that issue `ckpt` stand past it and wait for the checkpoint. -/
def Claims.EmitReservesAPlaceAndCkptWaits : Prop :=
  ∀ (s : State) (ce : CReg) (a : Src) (k : Nat) (T : Task), issuer s k → isTask s (cur s).task T →
    (∀ g e n, endpFault s (.emit a ce) ce [972] .invoke none k = none → emitRange s ce a k = none →
      emitTarget s (capNum (readC (cur s) ce k)) = some (g, e, n) →
      ∃ t, exec (.emit a ce) s = .next t ∧ t.mem = s.mem ∧ CapsKept s t (fun _ => False) ∧ PredsKept s t (fun _ => False) ∧
        (0 < binFree s g n → DataKept s t [a] (fun _ => False) ∧
          (getSeat (cur t) k).pc = (getSeat (cur s) k).pc + BitVec.ofNat 64 s.sel.len ∧
          ∃ T' xs ys r, isTask t (cur s).task T' ∧
            T' = { T with reserved := T.reserved ++ [(g, n)], heldRecs := xs ++ r :: ys } ∧ T.heldRecs = xs ++ ys ∧
            r = ⟨g, n, recordAt s T (curCoreT s) (srcV s a k).toNat (binNode s g n).recSize, s.passNum, k⟩ ∧
            (∀ x ∈ xs, x.pass < s.passNum ∨ x.pass = s.passNum ∧ x.seat ≤ k) ∧
            ∀ y, ys.head? = some y → s.passNum < y.pass ∨ s.passNum = y.pass ∧ k < y.seat) ∧
        (binFree s g n = 0 → t.tasks = s.tasks ∧ DataKept s t [] (fun _ => False) ∧
          isBlocked s t s.sel.core s.sel.slot k (.emit g e (srcV s a k) s.bell s.passNum))) ∧
    (ckptSeatFault s = none → ∃ t, exec .ckpt s = .next t ∧ t.mem = s.mem ∧ t.flights = s.flights ∧
      DataKept s t [] (fun _ => False) ∧ CapsKept s t (fun _ => False) ∧ PredsKept s t (fun _ => False) ∧ BenchKept s t ∧
      isTask t (cur s).task { T with ckptSeats := T.ckptSeats ++ [threadOf s k] } ∧
      (getSeat (cur t) k).state = .blocked .ckpt ∧
      (getSeat (cur t) k).pc = (getSeat (cur s) k).pc + BitVec.ofNat 64 s.sel.len)

/-- Messages meet at an endpoint and notifications collect bits. -/
def Obligations.MessagesAndNotificationsMeet : Prop :=
  Claims.MessagesMeetAtAnEndpoint ∧ Claims.NotificationsCollectBits

/-- A service call writes its request entry; emit reserves a place; ckpt waits. -/
def Obligations.ServiceCallsAndRecordsAreHandedOn : Prop :=
  Claims.AServiceCallWritesItsRequestEntry ∧ Claims.EmitReservesAPlaceAndCkptWaits

/-! ## Other packages and the board -/

/-- R208, R405, R406, R410 to R412, R425, R429: a `push` leaves its register pending, and its reservation goes out on the path of its
buffer's line, or waits for one; an `sret` goes on while its return waits in flight; a `mark` sends a replica on every path, or waits
while an earlier request to its target, or a return or sealed copy of its seat, does, or no path is there. None of them changes
memory. -/
def Obligations.PushesReturnsAndMarksGoOut : Prop :=
  ∀ (s : State) (cb ce : CReg) (keep : Bool) (a : Src) (d : DReg) (k : Nat), Shaped (cur s) → issued s = [k] →
    (declaredMask s).getLsbD 3 = true →
    let buf := readC (cur s) ce k
    let va := capCursor buf
    let target := remotePkg va
    let paths := livePaths s (pathSetOf s target)
    let n := paths.length
    let moves := fun (t : State) => (getSeat (cur t) k).pc = (getSeat (cur s) k).pc + BitVec.ofNat 64 s.sel.len
    (d.isV = true → pushFault s (.push cb keep d ce) cb ce d k = none → ∃ t, exec (.push cb keep d ce) s = .next t ∧
      t.mem = s.mem ∧ flagRaised s t (.push s.nextReq target d none (readC (cur s) cb k) buf (bits (readD (cur s) d k) 31 0)) ∧
      (∃ f ∈ t.flights, f.id = s.nextId ∧ f.vdests = [d] ∧ f.seats = seatBit k) ∧ t.nextReq = s.nextReq + 1 ∧
      moves t ∧ DataKept s t [] (· = d) ∧ CapsKept s t (fun _ => False) ∧ PredsKept s t (fun _ => False) ∧
      ∃ o, t.remote = s.remote ++ [o] ∧ o.req = s.nextReq ∧ o.flight = s.nextId ∧ o.target = target ∧
        o.body.op = .reserve (bits (readD (cur s) d k) 31 0) ∧ o.body.va.toNat = bits va 44 0 ∧
        (o.lib = none → t.outbox = s.outbox) ∧
        (∀ l, o.lib = some l → l = nth paths (pathHash o.body.va % n) 0 ∧
          ∃ r, t.outbox = s.outbox ++ [.reserve target l r] ∧ r.src = s.pkg ∧ r.reqId = s.nextReq ∧ r.slot = bits va 52 45 ∧
            r.va.toNat = bits va 44 0 ∧ r.len = bits (readD (cur s) d k) 31 0 ∧ r.withdraw = false) ∧
        (s.remote = [] → n ≠ 0 → (∀ f ∈ s.flights, ∀ m ps bs, f.kind ≠ .mark m target 0 ps bs) → o.lib ≠ none)) ∧
    (∀ u p, runSeats s (sretCheck (.sret a ce) ce) (issued s) = .ok ([(k, p)], u) → (cur u) = cur s →
      ∃ t f, exec (.sret a ce) s = .next t ∧ t.mem = u.mem ∧ f ∈ t.flights ∧ f.id = u.nextId ∧
        f.kind = .sret buf (srcV s a k) false (getSeat (cur s) k).batch ∧ t.outbox = u.outbox ∧ moves t ∧
        DataKept s t [a] (fun _ => False) ∧ CapsKept s t (fun _ => False) ∧ PredsKept s t (fun _ => False)) ∧
    (markFault s (.mark ce) ce k = none → ∃ t num ps, exec (.mark ce) s = .next t ∧ t.mem = s.mem ∧
      flagRaised s t (.mark (s.nextMark % 2 ^ 32) target num ps [(k, (getSeat (cur s) k).batch)]) ∧ t.nextMark = s.nextMark + 1 ∧ moves t ∧
      DataKept s t [] (fun _ => False) ∧ CapsKept s t (fun _ => False) ∧ PredsKept s t (fun _ => False) ∧
      ((∀ f ∈ s.flights, match f.kind with
          | .mark _ _ 0 _ _ => False
          | _ => True) →
        let waits := n = 0 ∨ (∃ o ∈ s.remote, o.target = target ∧ o.lib = none ∧ o.flight < s.nextId) ∨
          ∃ f ∈ s.flights, f.core = s.sel.core ∧ f.slot = s.sel.slot ∧ f.seats.getLsbD k = true ∧ f.id < s.nextId ∧
            match f.kind with
            | .sret c _ false _ => hasPerm c .remote = true ∧ remotePkg (capCursor c) = target
            | .copy c => c.batch ≠ (getSeat (cur s) k).batch
            | _ => False
        (waits → num = 0 ∧ ps = [] ∧ t.outbox = s.outbox) ∧
        (¬waits → num = n ∧ ps = (List.range n).map (fun j => ⟨j, nth paths j 0, false, s.bell⟩) ∧
          t.outbox = s.outbox ++ (List.range n).map fun j => .markReplica target (s.nextMark % 2 ^ 32) j n (nth paths j 0))))

/-- R413 to R416: a `bpost` of a member queues its post and waits for it; a `bwait` takes a post that the log holds at once, tells
of one that has left it, and waits for one that has not come. -/
def Obligations.PostsAreQueuedAndAwaited : Prop :=
  ∀ (s : State) (a : Src) (g : Fin 16) (k : Nat) (b : BoardGroup), issuer s k → boardOf s g.val = some b →
    b.isMember = true → b.named = true → boardAssigned s g.val (taskSpace s (curTask s)).asn = true →
    (declaredMask s).getLsbD 4 = true → s.sel.len = 4 → a.reg.isV = true →
    let q := a.reg
    let n := (readD (cur s) (q.plus 3) k).toNat
    let horizon := max (b.last - 4096) b.horizon
    let words := fun (t : State) (w0 w1 w2 w3 : Word) => wentOn s t s.sel.core s.sel.slot k ∧ readD (cur t) q k = w0 ∧
      readD (cur t) (q.plus 1) k = w1 ∧ readD (cur t) (q.plus 2) k = w2 ∧ readD (cur t) (q.plus 3) k = w3
    (OperandsClear s [q, q.plus 1, q.plus 2] [] [q.plus 3] [] → ∃ t, exec (.bpost a g) s = .next t ∧ t.mem = s.mem ∧
      isBlocked s t s.sel.core s.sel.slot k (.bpost g.val q) ∧ DataKept s t [] (· = q.plus 3) ∧
      boardOf t g.val = some { b with queue := b.queue ++ [⟨(cur s).task, threadOf s k, s.passNum, readD (cur s) q k,
        readD (cur s) (q.plus 1) k, readD (cur s) (q.plus 2) k, none⟩] } ∧
      ∀ j, j ≠ g.val → boardOf t j = boardOf s j) ∧
    (OperandsClear s [q.plus 3] [] [q, q.plus 1, q.plus 2, q.plus 3] [] → a.use ≠ .last →
      ∃ t, exec (.bwait a g) s = .next t ∧ t.mem = s.mem ∧ t.board = s.board ∧
        (n = 0 → isBlocked s t s.sel.core s.sel.slot k (.bwait g.val q 0)) ∧
        (1 ≤ n → n ≤ horizon → ∀ old, old = (b.log.head?.map (·.number)).getD (b.last + 1) →
          words t 0 0 0 (BitVec.ofNat 64 (2 ^ 63 + old))) ∧
        (∀ p, 1 ≤ n → horizon < n → b.log.find? (·.number == n) = some p →
          words t p.w0 p.w1 p.w2 (readD (cur s) (q.plus 3) k)) ∧
        (1 ≤ n → horizon < n → (∀ p ∈ b.log, p.number ≠ n) →
          isBlocked s t s.sel.core s.sel.slot k (.bwait g.val q (BitVec.ofNat 64 n))))

/-! ## System instructions -/

/-- R44, R51, R252, R334, R337: the checks of an instruction as a whole. An undeclared feature is FEATURE_ABSENT, MASK; a matrix
instruction of a task that does not hold the accumulator file is FEATURE_ABSENT, NO_ACCUMULATOR; an instruction of the monitor
bench is ILLEGAL_INSTRUCTION, PRIVILEGE on any other. Each faults before any operand is looked at. -/
def Obligations.FeaturesAndPrivilegeAreCheckedBeforeOperands : Prop :=
  ∀ (s : State) (i : Instr), Shaped (cur s) → onTaskBench s →
    (∀ n, featureOf i = some n → (declaredMask s).getLsbD n = false → ∃ t, exec i s = .next t ∧ takesFault s t 0x50 1) ∧
    ((∃ f b a t, i = .mma f b a t) ∨ (∃ t, i = .aclr t) ∨ (∃ f c a t, i = .ald f c a t) ∨
      (∃ f r c a t, i = .ast f r c a t) → (getCore s s.sel.core).accTask ≠ some (cur s).task →
        ∃ t, exec i s = .next t ∧ takesFault s t 0x50 2) ∧
    (isPrivileged i → ∃ t, exec i s = .next t ∧ takesFault s t 0x01 2)

/-- R336: the word of `trap` carries its code in SEL14, with D 0. It closes its clause and raises SOFTWARE_TRAP, TRAP in every issued
seat; its resume point is the address after it. -/
def Obligations.TrapStopsTheBenchPastItself : Prop :=
  (∀ (code : BitVec 14) (d : Nat), d < 64 → decode32 (1 + 2 * 0x3E + 2 ^ 7 * d + 2 ^ 13 * code.toNat + 2 ^ 29 * 3) =
    if d = 0 then .ok (.trap code) else .error .field) ∧
  decode32 0x6005407D = .ok (.trap 0x2A) ∧ (∀ code, closesClause (.trap code) = true) ∧
  ∀ (s : State) (code : BitVec 14), Shaped (cur s) → onTaskBench s →
    ∃ t q, exec (.trap code) s = .next t ∧ t = { s with cores := t.cores } ∧ (cur t).mode = .faulted ∧
      (getCore t s.sel.core).faultQ = (getCore s s.sel.core).faultQ ++ [q] ∧ q.code = 0x60 ∧ q.sub = 2 ∧
      q.aux = code.setWidth 128 ∧ q.ifa = s.sel.pc ∧ q.resume = s.sel.pc + 4 ∧ q.index = 0 ∧ q.past = true ∧
      q.mask = s.sel.seats ∧ DataKept s t [] (fun _ => False) ∧ CapsKept s t (fun _ => False) ∧
      PredsKept s t (fun _ => False)

/-- R100, R333: what the selectors of `rd` read; R334, R335: what `srd` reads and `swr` writes on a task bench. A write takes the
value of the lowest issued seat, and SEED leaves STEP unchanged. -/
def Claims.SystemValuesAndRegistersByName : Prop :=
  ∀ (s : State) (n : BitVec 14) (d : DReg), Shaped (cur s) → onTaskBench s →
    let T := curTask s
    let c := getCore s s.sel.core
    let sp := taskSpace s T
    (OperandsClear s [] [] [d] [] → n.toNat < 15 → ∃ v : Nat → Word,
      exec (.rd n d) s = .next { retireWith s [] false (writing s d v) with draws := s.draws + 1 } ∧ ∀ k ∈ issued s,
        (n = 0 → v k = BitVec.ofNat 64 k) ∧ (n = 1 → v k = BitVec.ofNat 64 s.sel.slot) ∧
        (n = 2 → v k = BitVec.ofNat 64 (s.sel.slot / 2)) ∧ 
        (n = 3 → let m := (taskCore T (curCoreT s)).map
          ∀ i, i < m.length → (nth m i (0, 0)).1 = s.sel.core → (∀ j, j < i → (nth m j (0, 0)).1 ≠ s.sel.core) →
            v k = BitVec.ofNat 64 i) ∧
        (n = 4 → v k = BitVec.ofNat 64 T.cores.length) ∧ (n = 5 → v k = T.id) ∧ (n = 6 → v k = s.bell) ∧
        (n = 7 → v k = c.feat) ∧ (n = 8 → v k = BitVec.ofNat 64 T.node) ∧ (n = 9 → v k = BitVec.ofNat 64 T.graph) ∧
        (n = 10 → v k = BitVec.ofNat 64 (cur s).benchT) ∧ (n = 11 → v k = BitVec.ofNat 64 T.records.length) ∧
        (n = 12 → c.accTask = some (cur s).task → ∀ j, j < 64 →
          ((v k).getLsbD j = true ↔ j < 16 ∧ (getTile s s.sel.core j).sat = true)) ∧
        (n = 13 → v k = (getSeat (cur s) k).batch.setWidth 64) ∧
        (n = 14 → v k = BitVec.ofNat 64 (taskNode s T).ckptSz)) ∧
    (OperandsClear s [] [] [d] [] → ∀ v,
      (n.toNat = 0x100 ∧ v = (cur s).seed ∨ n.toNat = 0x101 ∧ v = (cur s).stepCount ∨ n.toNat = 0x110 ∧ v = sp.hbase ∨
        n.toNat = 0x111 ∧ v = sp.hspan ∨ n.toNat = 0x112 ∧ v = (cur s).hlimit ∨
        n.toNat = 0x118 ∧ v = BitVec.ofNat 64 (mailTimeout s (subjectTask s) % 2 ^ 41)) →
      exec (.srd n d) s = .next (retireWith s [] false (writing s d fun _ => v))) ∧
    (OperandsClear s [d] [] [] [] → n.toNat = 0x100 → ∃ t, exec (.swr n d) s = .next t ∧ LeavesOutside s t ∧
      (cur t).seed = readD (cur s) d ((issued s).headD 0) ∧ (cur t).stepCount = (cur s).stepCount ∧
      DataKept s t [] (fun _ => False) ∧ CapsKept s t (fun _ => False) ∧ PredsKept s t (fun _ => False) ∧
      SeatsBecome s t (fun _ x => pastSeat x s.sel.len false))

/-- R334, R335, R338, R339: on the monitor bench, in a run: `swr` of STEP, TRESUME and TINDEX, `bsave` and `brest` put a section in flight,
`rmap` writes an entry of the target's team map and gives the old one, or a status. -/
def Claims.TheMonitorReachesItsTarget : Prop :=
  ∀ (s : State) (r : Run) (n : BitVec 14) (sec : BitVec 3) (c : CReg) (a : Src) (b d : DReg) (k : Nat), Shaped (cur s) →
    inRun s r → (issued s).head? = some k →
    let tr := (getCore s s.sel.core).tregs
    (OperandsClear s [d] [] [] [] → n = 0x101 ∨ n = 0x205 ∨ n = 0x206 → ∃ t, exec (.swr n d) s = .next t ∧ t.mem = s.mem ∧
      t.tasks = s.tasks ∧ (n = 0x101 → (targetOf t).stepCount = readD (cur s) d k ∧ (targetOf t).seed = (targetOf s).seed) ∧
      (n = 0x205 → (getCore t s.sel.core).tregs = { tr with tresume := readD (cur s) d k }) ∧
      (n = 0x206 → (getCore t s.sel.core).tregs = { tr with tindex := BitVec.ofNat 5 (min 16 (readD (cur s) d k).toNat) })) ∧
    (poisonC (cur s) c k = none →
      (imageFault s false sec.toNat (readC (cur s) c k) = none → ∃ t, exec (.bsave sec c) s = .next t ∧ t.mem = s.mem ∧
        flagRaised s t (.image false sec.toNat (readC (cur s) c k)) ∧ SeatsBecome s t (fun _ x => pastSeat x s.sel.len false)) ∧
      (imageFault s true sec.toNat (readC (cur s) c k) = none → ∃ t, exec (.brest sec c) s = .next t ∧ t.mem = s.mem ∧
        flagRaised s t (.image true sec.toNat (readC (cur s) c k)) ∧
        SeatsBecome s t (fun _ x => pastSeat x s.sel.len false))) ∧
    (∀ T, isTask s (targetOf s).task T → OperandsClear s [a.reg, b] [] [d] [] → d.isV = true →
      let i := coreTOf T s.sel.core
      let x := (srcV s a k).toNat
      let y := (readD (cur s) b k).toNat
      let base := y / 64 % 16 * 0x8000
      let busy := ∃ e ∈ (getCore s s.sel.core).benches, e.1 ≠ 64 ∧ e.2.task = T.id ∧ e.2.mode = .running
      let form := T.cores.length ≤ x ∨ 64 ≤ x ∨ 2 ^ 10 ≤ y ∨ base % allocSize s T ≠ 0 ∨ 0x80000 < base + allocSize s T
      ∃ t, exec (.rmap b a d) s = .next t ∧ t.mem = s.mem ∧
        (busy → readD (cur t) d k = 0x8000000000000001 ∧ t.tasks = s.tasks) ∧
        (¬busy → form → readD (cur t) d k = 0x8000000000000003 ∧ t.tasks = s.tasks) ∧
        (¬busy → ¬form → i < T.cores.length → x < (taskCore T i).map.length →
          readD (cur t) d k = BitVec.ofNat 64 (mapWord (nth (taskCore T i).map x (0, 0))) ∧
          ∃ T', isTask t T.id T' ∧ nth (taskCore T' i).map x (0, 0) =
              (s.sel.core / Config.coresPerDie * Config.coresPerDie + y % 64, base) ∧
            ∀ j, j ≠ x → nth (taskCore T' i).map j (0, 0) = nth (taskCore T i).map j (0, 0)))

/-- R36, R307, R308, R337, R373, R382, R456: the four ends of a fault run: the target's seats go on, where the
handler has changed TRESUME or TINDEX at the place that they give, past a `trap` at its header, else where they stood (a missed
promise moves no seat: the model's reading, log 25); or its task is parked with the fault's record, ended, or aborted for requeue. The run is closed in each case. -/
def Claims.AFaultRunEndsInOneOfFourWays : Prop :=
  ∀ (s : State) (f : FaultInfo) (T : Task), inRun s ⟨.fault, some f⟩ → isTask s (targetOf s).task T → issued s ≠ [] →
    T.phase = .running → (targetOf s).mode = .faulted → (getCore s s.sel.core).tregs.tbench.toNat < 64 →
    f.slot = (getCore s s.sel.core).tregs.tbench.toNat →
    let tr := (getCore s s.sel.core).tregs
    let slot := tr.tbench.toNat
    let closed := fun (t : State) => (getCore t s.sel.core).run = none ∧ (getCore t s.sel.core).tregs = TRegs.reset
    let moved := f.resume ≠ tr.tresume ∨ min 16 f.index ≠ tr.tindex.toNat
    let isTrap := f.code = 0x60 ∧ f.sub = 2
    (tr.tresume.getLsbD 0 = false → ∃ t, exec .tret s = .next t ∧ closed t ∧ t.mem = s.mem ∧ t.tasks = s.tasks ∧
      (getBench t s.sel.core slot).mode = .running ∧ ∀ k, k < 32 →
        let x := getSeat (targetOf s) k
        let y := getSeat (getBench t s.sel.core slot) k
        y.skip = 0 ∧ (tr.tmask.getLsbD k = true → moved → y.hdr = tr.tresume ∧
          ((headerWordAt s s.sel.core T tr.tresume).toNat % 128 = 1 → y.idx = tr.tindex.toNat) ∧
          ((headerWordAt s s.sel.core T tr.tresume).toNat % 128 ≠ 1 → y.pc = tr.tresume ∧ y.must = 3)) ∧
        (tr.tmask.getLsbD k = true → ¬moved → isTrap → y.pc = tr.tresume ∧ y.hdr = tr.tresume ∧ y.must = 2) ∧
        (tr.tmask.getLsbD k = false ∨ ¬moved ∧ ¬isTrap → y.pc = x.pc ∧ y.hdr = x.hdr ∧ y.idx = x.idx ∧ y.must = x.must)) ∧
    (∃ t T' r, exec .haltPark s = .next t ∧ closed t ∧ t.mem = s.mem ∧ isTask t (targetOf s).task T' ∧
      T'.phase = .halted .faultPark ∧ r ∈ T'.faults ∧ r.code = f.code ∧ r.sub = f.sub ∧ r.ifa = f.ifa ∧
      r.resume = tr.tresume ∧ r.index = tr.tindex.toNat) ∧
    ((s.tasks.map (·.id)).Nodup → ∃ t, exec .haltFail s = .next t ∧ closed t ∧ findTask t (targetOf s).task = none) ∧
    (T.requeues + 1 < 64 → ∃ t T', exec .haltRequeue s = .next t ∧ closed t ∧ isTask t (targetOf s).task T' ∧
      T'.phase = .pool ∧ T'.requeues = T.requeues + 1 ∧ T'.cores = [])

/-- System registers by name, the monitor reaches its target, and a fault run ends in one of four ways. -/
def Obligations.TheMonitorHandlesFaults : Prop :=
  Claims.SystemValuesAndRegistersByName ∧ Claims.TheMonitorReachesItsTarget ∧ Claims.AFaultRunEndsInOneOfFourWays

/-! ## Host harts -/

/-- R316, R355, R356: the capability instructions of a hart outside U-mode and VU-mode give the capabilities of the lane
instructions that they name, with hc0 reading as null and taking no write; nothing but the hart's register and program counter
changes. In those modes each of them is an illegal instruction, taken in S-mode (PRESUMED, log 50: the delegation). -/
def Claims.HostCapabilityInstructionsActAsTheirNamesakes : Prop :=
  ∀ (s : State) (x : Hart) (r : Fin 32) (ca cb cd : CReg) (sel : BitVec 12), x = getHart s s.sel.hart → x.x.length = 32 →
    x.hc.length = 16 →
    let A := getHc x ca.val
    let B := getHc x cb.val
    let X := getX x r.val
    let barred := x.mode = .user ∨ x.mode = .virtualUser
    let only := fun (t : State) => t = { s with harts := t.harts } ∧ ∀ h, h ≠ s.sel.hart → getHart t h = getHart s h
    let gives := fun (i : Instr) (c : Cap) => ∃ t, exec i s = .next t ∧ only t ∧
      (¬barred → (getHart t s.sel.hart).pc = x.pc + 4 ∧ getHc (getHart t s.sel.hart) cd.val = (if cd = 0 then Cap.null else c) ∧
        (∀ n, n < 16 → n ≠ cd.val → getHc (getHart t s.sel.hart) n = getHc x n) ∧
        ∀ n, n < 32 → getX (getHart t s.sel.hart) n = getX x n) ∧
      (barred → getHart t s.sel.hart = { x with
        mode := .supervisor, scause := 2, stval := 0, sepc := x.pc, spp := false, spv := x.mode == .virtualUser
        pc := x.stvec &&& ~~~3#64, wait := .none })
    gives (.hcinc r ca cd) (cincC A X 0) ∧ gives (.hcset r ca cd) (csetC A X) ∧ gives (.hcbnd r ca cd) (cbndC A X) ∧
      gives (.hcperm r ca cd) (cpermC A X) ∧ gives (.hcmov ca cd) A ∧ gives (.hcclr ca cd) ⟨A.bits, false⟩ ∧
      gives (.hcseal cb ca cd) (csealC A B) ∧ gives (.hcunseal cb ca cd) (cunsealC A B) ∧
      (sel.toNat ≤ 10 → ¬barred → ∃ t, exec (.hcget sel ca r) s = .next t ∧ only t ∧
        (getHart t s.sel.hart).pc = x.pc + 4 ∧ (∀ n, n < 16 → getHc (getHart t s.sel.hart) n = getHc x n) ∧
        ∀ n, n < 32 → getX (getHart t s.sel.hart) n = if n = r.val ∧ n ≠ 0 then cgetW A sel.toNat else getX x n)

/-- R318, R356: `hcld` and `hcst` move a capability with its tag at an aligned address that the hart's translation allows; an
address that breaks alignment is a load or store access fault with the address in stval (PRESUMED, log 50: its cause numbers). -/
def Claims.HostCapabilityAccessesMoveTheTag : Prop :=
  ∀ (s : State) (x : Hart) (i : BitVec 12) (r : Fin 32) (c : CReg) (pa : Nat), x = getHart s s.sel.hart → x.mode ≠ .user →
    x.mode ≠ .virtualUser → x.hc.length = 16 → s.mem.wf = true →
    let va := getX x r.val + i.signExtend 64
    let trapped := fun (t : State) (cause : Nat) => t = { s with harts := t.harts } ∧
      (x.mode = .supervisor → getHart t s.sel.hart = { x with
        scause := BitVec.ofNat 64 cause, stval := va, sepc := x.pc, spp := true, spv := false, pc := x.stvec &&& ~~~3#64, wait := .none })
    (va.toNat % 16 ≠ 0 → (∃ t, exec (.hcld i r c) s = .next t ∧ trapped t 5) ∧ ∃ t, exec (.hcst i c r) s = .next t ∧ trapped t 7) ∧
    (hostCapAddr s x va false = .ok pa → isMgmt pa = false → viewed s.mem pa = true → memPoison s.mem pa = false → ∃ t, exec (.hcld i r c) s = .next t ∧
      t = { s with harts := t.harts } ∧ (getHart t s.sel.hart).pc = x.pc + 4 ∧ (c ≠ 0 →
        (getHc (getHart t s.sel.hart) c.val).bits.toNat = memValue s.mem pa 16 ∧
        (s.quarantine = [] → (getHc (getHart t s.sel.hart) c.val).tag = memTag s.mem pa) ∧
        ((getHc (getHart t s.sel.hart) c.val).tag = true → memTag s.mem pa = true))) ∧
    (hostCapAddr s x va true = .ok pa → isMgmt pa = false → ringAt s pa = none → viewed s.mem pa = true → ∃ t, exec (.hcst i c r) s = .next t ∧
      (getHart t s.sel.hart).pc = x.pc + 4 ∧ memValue t.mem pa 16 = (getHc x c.val).bits.toNat ∧
      (s.quarantine = [] → memTag t.mem pa = (getHc x c.val).tag) ∧ memPoison t.mem pa = false ∧
      ∀ a, a < pa ∨ pa + 16 ≤ a → memByte t.mem a = memByte s.mem a ∧ (a / 16 ≠ pa / 16 → memTag t.mem a = memTag s.mem a))

/-- R321 to R325, R357: a hart outside U-mode and VU-mode at an endpoint or a notification: it waits at its instruction, or what a
waiting seat sends comes into a0 to a3 and its capability register, and both go on. -/
def Claims.HartsMeetSeatsAtAnEndpoint : Prop :=
  ∀ (s : State) (x : Hart) (ce cb : CReg) (r : Fin 32) (n : Nat) (xs : List EpSender) (rs : List EpReceiver) (w : Word),
    x = getHart s s.sel.hart → x.mode ≠ .user → x.mode ≠ .virtualUser → x.wait = .none → x.x.length = 32 → x.hc.length = 16 →
    n = capNum (getHc x ce.val) → 10 ≤ n →
    let c := getHc x ce.val
    let m : Message := ⟨getX x 10, getX x 11, getX x 12, getHc x cb.val⟩
    let me := Party.hart s.sel.hart
    let badge := capCursor c &&& 0x7FFFFFFFFFFFFFFF
    let stc := hasPerm c .stc
    let ldc := hasPerm c .ldc
    let y := fun (t : State) => getHart t s.sel.hart
    let waits := fun (t : State) (v : HartWait) => (y t).wait = v ∧ (y t).pc = x.pc
    let went := fun (t : State) => (y t).wait = .none ∧ (y t).pc = x.pc + 4
    let took := fun (t : State) (a0 a1 a2 a3 : Word) (d : Cap) (keep : Bool) => went t ∧
      (getX (y t) 10, getX (y t) 11, getX (y t) 12, getX (y t) 13) = (a0, a1, a2, a3) ∧
      (cb ≠ 0 → (getHc (y t) cb.val).bits = d.bits ∧ (s.quarantine = [] →
        ((getHc (y t) cb.val).tag = true ↔ d.tag = true ∧ keep = true)))
    let may := fun (types : List Nat) (p : Perm) => objFault s c types p = none
    let sendable := m.cap.tag = false ∨ hasPerm m.cap .global = true
    (endpointIs s n xs rs → may [963] .invoke → sendable →
      (∃ t, exec (.hcsend cb ce) s = .next t ∧
        (rs = [] → endpointIs t n (xs ++ [⟨me, m, badge, false, stc⟩]) [] ∧ waits t (.send n)) ∧
        ∀ z zs k sl j q cr l bg, xs = [] → rs = z :: zs → liveSeat s z.who k sl j (.recv 963 n q cr l bg) →
          endpointIs t n [] zs ∧ went t ∧ tookMessage s t k sl j q cr [m.w0, m.w1, m.w2, badge] m.cap (stc && l)) ∧
      (∃ t, exec (.hcxcall cb ce) s = .next t ∧
        (rs = [] → endpointIs t n (xs ++ [⟨me, m, badge, true, stc⟩]) [] ∧ waits t (.xcall n false cb.val stc ldc)) ∧
        ∀ z zs k sl j q cr l bg, xs = [] → rs = z :: zs → liveSeat s z.who k sl j (.recv 963 n q cr l bg) →
          (getSeat (getBench s k sl) j).right = none →
          endpointIs t n [] zs ∧ waits t (.xcall n true cb.val stc ldc) ∧
            tookMessage s t k sl j q cr [m.w0, m.w1, m.w2, badge] m.cap (stc && l) ∧
            (getSeat (getBench t k sl) j).right = some ⟨me, stc⟩)) ∧
    (endpointIs s n xs rs → capSeal c = 963 → may [963, 964] .ld →
      (∃ t, exec (.hcrecv cb ce) s = .next t ∧
        (xs = [] → endpointIs t n [] (rs ++ [⟨me, ldc⟩]) ∧ waits t (.recv 963 n cb.val ldc badge))) ∧
      (∃ t, exec (.hcpoll cb ce) s = .next t ∧
        (xs = [] → endpointIs t n [] rs ∧ took t 0 0 0 0x8000000000000000 ⟨0, false⟩ true)) ∧
      ∀ i z zs k sl j, i = .hcrecv cb ce ∨ i = .hcpoll cb ce → xs = z :: zs → rs = [] → z.xcall = false →
        liveSeat s z.who k sl j (.send n) → ∃ t, exec i s = .next t ∧ endpointIs t n zs [] ∧ wentOn s t k sl j ∧
          took t z.msg.w0 z.msg.w1 z.msg.w2 z.badge z.msg.cap (z.stc && ldc)) ∧
    (sendable → ∃ t, exec (.hcreply cb ce) s = .next t ∧ (y t).pc = x.pc + 4 ∧ (y t).right = none ∧
      (x.right = none → t = { s with harts := t.harts }) ∧
      ∀ z k sl j e q cr p1 p2 lo, x.right = some z → (q.isV = true ∨ lo = true) →
        liveSeat s z.caller k sl j (.xcall e true q cr p1 p2 lo) →
          tookMessage s t k sl j q cr [m.w0, m.w1, m.w2, 0] m.cap (z.stc && (p1 && p2))) ∧
    (notificationIs s n w [] → may [964] .invoke → ∃ t, exec (.hcnotify r ce) s = .next t ∧ went t ∧
      notificationIs t n (w ||| getX x r.val) [])

/-- Host harts derive, load and store capabilities, and meet seats at an endpoint. -/
def Obligations.HartsHoldMoveAndSendCapabilities : Prop :=
  Claims.HostCapabilityInstructionsActAsTheirNamesakes ∧
  Claims.HostCapabilityAccessesMoveTheTag ∧
  Claims.HartsMeetSeatsAtAnEndpoint

/-! ## Events: instructions in flight -/

/-- R31, R106, R258, R263, R270, R276, R395: an accepted store, the rows of an `ald` or `ast` and a matrix flag end their
instruction; a matrix unit's time and a hand-over let it go on; a remote load whose deadline has passed is poisoned with cause 1. -/
def Claims.InstructionsInFlightEnd : Prop :=
  ∀ (s : State) (f : Flight), inFlight s f →
    (f.kind = .store → ∃ t, exec (.storeAccepted f.id) s = .next t ∧ endsAlone s t f) ∧
    (f.kind = .tileRows → ∃ t, exec (.tileRowsDone f.id) s = .next t ∧ endsAlone s t f) ∧
    (f.kind = .matrix true → ∃ t, exec (.matrixFlagFall f.id) s = .next t ∧ endsAlone s t f) ∧
    (f.kind = .matrix false → ∃ t, exec (.matrixUnitDone f.id) s = .next t ∧ t = { s with flights := t.flights } ∧
      goesOnAs s t f (.matrix true)) ∧
    (∀ r n m a d, f.kind = .remoteLoad r n m a → f.vdests = [d] → f.cdests = [] →
      ∃ t, exec (.remoteReplyDeadline f.id) s = .next t ∧ t.mem = s.mem ∧ (∀ g ∈ t.flights, g.id ≠ f.id) ∧ flagFalls s t f ∧
        ∀ k ∈ seatsOf f.seats, (d.isV = true → ∃ x ∈ (flightBench s f).vrows, x.reg = d.code ∧ x.live.getLsbD k = true) →
          poisonD (flightBench t f) d k = some 1) ∧
    (∀ c d, f.kind = .copy c → c.deadline = some d → d.toNat < s.bell.toNat →
      ∃ t, exec (.promiseMissed f.id) s = .next t ∧ t = { s with cores := t.cores, flights := t.flights } ∧
        goesOnAs s t f (.copy { c with deadline := none }) ∧
        (∀ x, x ∈ (flightBench t f).misses ↔ x = ⟨lowestSeat f.seats, c.batch, d⟩ ∨ x ∈ (flightBench s f).misses)) ∧
    (∀ c, f.kind = .tmma c → c.started = false → c.nextChunk = 0 → (flightTask s f).phase ≠ .restoring → handoverOk s f c = true →
      ∃ t, exec (.tmmaHandover f.id) s = .next t ∧ t.mem = s.mem ∧ t.tasks = s.tasks ∧ goesOnAs s t f (.tmma { c with started := true }) ∧
        ∀ core k, getTile t core k =
          if core = f.core ∧ c.tile ≤ k ∧ k < c.tile + 4 ∧ bits c.q2 37 37 = 0 then Tile.zero else getTile s core k)

/-- R106, R176, R178: a copy within the window, whose destination elements overlap neither each other nor its sources, writes
each destination element from its source element, or from the fill pattern, or combined with it; no other byte changes. Its
flag falls. -/
def Claims.ACopyWritesItsElements : Prop :=
  ∀ (s : State) (f : Flight) (c : CopyCmd), inFlight s f → f.kind = .copy c → c.stage = 0 → 0 < c.size → s.remote = [] →
    hasPerm c.src .remote = false → hasPerm c.dst .remote = false → carriesTags c = false →
    (∀ core, (getCore s core).spad.wf = true) →
    let T := flightTask s f
    let n := flightCoreT s f
    let es := copyElems (withIndex s f c)
    let inWin := fun (a : Int) => 0 ≤ a ∧ a + c.size ≤ windowEnd
    let place := fun (a : Int) (j : Nat) => winPlace T n (a.toNat + j)
    (∀ e ∈ es, inWin e.2.2 ∧ ∀ a p, e.2.1 = .mem a p → inWin a) →
    (∀ e ∈ es, ∀ e' ∈ es, ∀ i j, i < c.size → j < c.size → place e.2.2 i = place e'.2.2 j → e = e' ∧ i = j) →
    (∀ e ∈ es, ∀ e' ∈ es, ∀ a p i j, e'.2.1 = .mem a p → i < c.size → j < c.size → place e.2.2 i ≠ place a j) →
    ∃ t, exec (.copyComplete f.id) s = .next t ∧ t.mem = s.mem ∧ f ∉ t.flights ∧ flagFalls s t f ∧
      (∀ core o, (∀ e ∈ es, ∀ i, i < c.size → place e.2.2 i ≠ (core, o)) →
        memByte (getCore t core).spad o = memByte (getCore s core).spad o) ∧
      ∀ e ∈ es, ∀ i, i < c.size →
        let fill := (bytesLE 4 (bits c.q3 63 32) ++ bytesLE 4 (bits c.q3 63 32)).take c.size
        let x := match e.2.1 with
          | .mem a _ => winBytes s T n a.toNat c.size
          | .fill _ => fill
        let y := if c.kind = 3 then
            bytesLE c.size (combineE (bits c.q3 63 32) c.size (valueLE (winBytes s T n e.2.2.toNat c.size)) (valueLE x))
          else x
        some (memByte (getCore t (place e.2.2 i).1).spad (place e.2.2 i).2) = y[i]?

/-- R254, R257, R268, R271: a `tmma` completes: each of the 64 × 64 outputs takes the chunks of eight consecutive k in ascending
order, each exact and rounded once, from its tile's element on. The matrix unit's time is over; the flag falls later (R276). -/
def Claims.ATmmaMultipliesItsOperands : Prop :=
  ∀ (s : State) (f : Flight) (c : TmmaCmd) (F : FFmt) (w : Nat), inFlight s f → f.kind = .tmma c → c.started = true →
    c.nextChunk = 0 → tmElem c = .flt F w →
    let T := flightTask s f
    let n := flightCoreT s f
    let at_ := fun (a w i : Nat) =>
      valueLE (winBytes s T n (a + w * i / 8) ((w + w * i % 8 + 7) / 8)) / 2 ^ (w * i % 8) % 2 ^ w
    let o := c.origin.toNat
    let K := bits c.q2 16 0
    let A := fun r k => at_ (o + bits c.q0 24 0 + r * bits c.q0 63 32) w k
    let B := fun k j => at_ (o + bits c.q1 24 0 + k * bits c.q1 63 32) w j
    let scale := fun r j h => if bits c.q2 41 41 = 0 then FVal.fin false 1 0 else
      fmulV (e8m0 (at_ (o + bits c.q3 24 0 + r * (K / 32)) 8 (8 * h / 32))) (e8m0 (at_ (o + bits c.q3 56 32 + j * (K / 32)) 8 (8 * h / 32)))
    ∃ t, exec (.tmmaComplete f.id) s = .next t ∧ t.mem = s.mem ∧ goesOnAs s t f (.matrix true) ∧
      (∀ core k, ¬(core = f.core ∧ c.tile ≤ k ∧ k < c.tile + 4) → getTile t core k = getTile s core k) ∧
      ∀ r j, r < 64 → j < 64 →
        let q := c.tile + 2 * (r / 32) + j / 32
        tileElem (getTile t f.core q) (r % 32) (j % 32) = (List.range (K / 8)).foldl
          (fun acc h => chunk F acc (fun m => A r (8 * h + m)) (fun m => B (8 * h + m) j) (scale r j h))
          (tileElem (getTile s f.core q) (r % 32) (j % 32))

/-- R96, R113, R115: an arrival in flight is applied, and a departure made, once the accesses of its seat before it are done, and
its copies in batches sealed by then. -/
def Claims.ArrivalsAreAppliedWhenTheirSeatIsDone : Prop :=
  ∀ (s : State) (f : Flight) (T : Task) (th : Thread) (g : Nat) (leaves : Bool) (batch : Word32), inFlight s f → isTask s f.task T → g < 64 →
    f.kind = .arrival th g leaves batch → accessesBefore s f.core f.slot th.seat f.id batch = true →
    (∀ u ∈ (getGroup T g).applied, u ∈ (getGroup T g).marked) →
    let x := getGroup T g
    let y := if leaves then { x with members := x.members.filter (· ≠ th), marked := x.marked.filter (· ≠ th)
                                     applied := x.applied.filter (· ≠ th) }
      else { x with applied := x.applied ++ [th] }
    th ∈ x.members → (leaves = false → th ∈ x.marked ∧ th ∉ x.applied) →
    ∃ t U, exec (.groupArrivalApply f.id) s = .next t ∧ t.mem = s.mem ∧ (∀ h ∈ t.flights, h.id ≠ f.id) ∧ isTask t f.task U ∧
      groupSettles y (getGroup U g) ∧ ∀ h, h ≠ g → getGroup U h = getGroup T h

/-! ## Events: waits, lines, pipes -/

/-- R98, R117, R154, R160, R189, R190: a pause ends at its bell time; a fence ends when what it waits for is done, and a release at
team scope or wider drains its core part; a mailbox wait runs out; a line leaves its core part for the die part under the bytes
that it holds; a core whose threads have all exited is gone for its team. -/
def Claims.WaitsEndWhenTheirConditionHolds : Prop :=
  ∀ (s : State) (core slot k : Nat), k < 32 → Shaped (getBench s core slot) →
    let b := getBench s core slot
    (∀ u, (getSeat b k).state = .blocked (.pause u) → u.toNat ≤ s.bell.toNat →
      ∃ t, exec (.pauseWake core slot k) s = .next t ∧ t.mem = s.mem ∧ t.tasks = s.tasks ∧ wentOn s t core slot k) ∧
    (∀ sc o, (getSeat b k).state = .blocked (.fence sc o) → fenceMet s core slot k o = true →
      ∃ t, exec (.fenceContinue core slot k) s = .next t ∧ t.mem = s.mem ∧ wentOn s t core slot k ∧
        ∀ T, isTask s b.task T → ∃ U, isTask t b.task U ∧
          (o = .acquire ∨ sc = .seat ∨ sc = .bench ∨ sc = .core → U = T) ∧
          (o ≠ .acquire → sc = .team ∨ sc = .die ∨ sc = .pkg ∨ sc = .dom → (taskCore U (coreTOf T core)).hold = [])) ∧
    (∀ T m left, isTask s b.task T → b.mode = .running → left ≤ s.bell.toNat → m < 8 → coreTOf T core < T.cores.length →
      (taskCore T (coreTOf T core)).mail.length = 8 →
      ((∃ d, (getSeat b k).state = .blocked (.mbr m d left)) ∨ ∃ w, (getSeat b k).state = .blocked (.mbw m w left)) →
        ∃ t U, exec (.mbxTimeout core slot k) s = .next t ∧ t.mem = s.mem ∧ isTask t b.task U ∧
          (getSeat (getBench t core slot) k).state = .eligible ∧ (getSeat (getBench t core slot) k).pc = (getSeat b k).pc ∧
          (getSeat (getBench t core slot) k).wake = some ⟨0x31, 2, m⟩ ∧
          let x := getMail T (coreTOf T core) m
          getMail U (coreTOf T core) m = { x with
            readers := x.readers.filter (· ≠ (b.benchT, k)), writers := x.writers.filter (· ≠ (b.benchT, k)) }) ∧
    (∀ T c line, isTask s T.id T → (∃ l ∈ (taskCore T c).hold, l.line = line) →
      ∃ t U, exec (.holdLineDrain T.id c line) s = .next t ∧ U.id = T.id ∧ taskBecomes s t U ∧
        (∀ l ∈ (taskCore U c).hold, l.line ≠ line) ∧
        (∀ va, va / 64 ≠ line → holdByte (taskCore U c).hold va = holdByte (taskCore T c).hold va ∧
          holdByte U.dieHold va = holdByte T.dieHold va) ∧
        ∀ va, va / 64 = line → holdByte U.dieHold va =
          (holdByte (taskCore T c).hold va).orElse fun _ => holdByte T.dieHold va) ∧
    (∀ T c, isTask s T.id T → c < 64 → coreExited s T c = true →
      ∃ t U, exec (.goneMaskSet T.id c) s = .next t ∧ U.id = T.id ∧ taskBecomes s t U ∧ U.cores.length = T.cores.length ∧
        ∀ j, j < T.cores.length → ∀ n, (taskCore U j).gone.getLsbD n = ((taskCore T j).gone.getLsbD n || n == c))

/-- R127, R130, R314: a lift takes the eligible seats at the address of the seat skipped most; an idle clock of a pipe is
counted; after 32 of them its timetable pointer advances, and clocks beyond them count on. -/
def Claims.LiftsAndIdleClocks : Prop :=
  ∀ (s : State) (core slot pipe k : Nat), k < 32 →
    let b := getBench s core slot
    let free := fun j => (getSeat b j).state = .eligible
    (b.mode = .running → free k → 527 ≤ (getSeat b k).skip → (∀ j, j < 32 → free j → b.lifted.getLsbD j = false) →
      (∀ j, j < 32 → j ≠ k → free j → (getSeat b j).skip < (getSeat b k).skip ∨
        (getSeat b j).skip = (getSeat b k).skip ∧ (getSeat b k).pc.toNat < (getSeat b j).pc.toNat) →
      ∃ t, exec (.liftPass core slot) s = .next t ∧ onlyBenches s t ∧
        getBench t core slot = { b with lifted := (getBench t core slot).lifted } ∧
        ∀ j, j < 32 →
          ((getBench t core slot).lifted.getLsbD j = true → free j ∧ (getSeat b j).pc = (getSeat b k).pc) ∧
          (free j → (getSeat b j).pc = (getSeat b k).pc → (getSeat b j).hdr = (getSeat b k).hdr →
            (getSeat b j).idx = (getSeat b k).idx → (getSeat b j).must = (getSeat b k).must →
            (getBench t core slot).lifted.getLsbD j = true)) ∧
    let idle := fun (x : State) => (lookupKey (getCore x core).ttIdle pipe).getD 0
    let entry := fun (x : State) => (lookupKey (getCore x core).ttPos pipe).getD 0
    (∃ t, exec (.pipeIdleClock core pipe) s = .next t ∧ t = { s with cores := t.cores } ∧ idle t = idle s + 1 ∧ entry t = entry s ∧
      (∀ c j, getBench t c j = getBench s c j)) ∧
    (32 ≤ idle s → ∃ t, exec (.timetableIdleAdvance core pipe) s = .next t ∧ t = { s with cores := t.cores } ∧ idle t = idle s - 32 ∧
      entry t = (entry s + 1) % 64 ∧ ∀ c j, getBench t c j = getBench s c j)

/-- R40, R43, R387: a word that is no instruction takes ILLEGAL_INSTRUCTION or ILLEGAL_ENCODING with the word in AUX; a bad header
resumes at the header itself. -/
def Claims.AWordThatIsNoInstructionFaults : Prop :=
  ∀ (s : State) (w : Word32), Shaped (cur s) → onTaskBench s →
    let aux := fun (t : State) => ∀ q ∈ (getCore t s.sel.core).faultQ, q ∉ (getCore s s.sel.core).faultQ → q.aux = w.setWidth 128
    (∃ t, exec (.illegalWord w .unassigned) s = .next t ∧ takesFault s t 0x01 1 ∧ aux t) ∧
    (∃ t, exec (.illegalWord w .field) s = .next t ∧ takesFault s t 0x02 1 ∧ aux t) ∧
    ∃ t, exec (.illegalWord w .header) s = .next t ∧ t = { s with cores := t.cores } ∧ (cur t).mode = .faulted ∧
      ∃ q, (getCore t s.sel.core).faultQ = (getCore s s.sel.core).faultQ ++ [q] ∧ q.code = 0x02 ∧ q.sub = 2 ∧
        q.resume = s.sel.pc ∧ q.index = 0 ∧ q.mask = s.sel.seats ∧ q.aux = w.setWidth 128

/-- R396: a reply for a saved remote load clears the WAITING bits of the seats that it answers in the record of the image; a
deadline clears them all and notes them as timed out. No load held by R151 shares the image's registers here. -/
def Claims.RepliesReachSavedImages : Prop :=
  ∀ (s : State) (T : Task) (c b n : Nat) (rs : List SeatReply), isTask s T.id T → T.saved = true → s.mem.wf = true →
    (∀ e ∈ T.savedFlights, ∀ k, e.2.flag = some k → k < 12) →
    (∀ e ∈ T.savedFlights, match e.2.kind with
      | .stagedLoad _ _ _ => False
      | .stagedAtom _ _ _ _ _ _ => False
      | _ => True) →
    let a := pendAt s T c b n
    let waiting := physValue s (a + 4) 4
    physValue s a 1 ≠ 3 → isMgmt (a + 4) = false → isMgmt (a + 8) = false →
    (rs ≠ [] → ∃ t, exec (.savedReplyApply T.id c b n rs) s = .next t ∧
      ∀ k, k < 32 → (physValue t (a + 4) 4).testBit k = (waiting.testBit k && !(rs.any fun r => r.seat == k))) ∧
    ∃ t, exec (.savedReplyApply T.id c b n []) s = .next t ∧ physValue t (a + 4) 4 = 0 ∧
      ∀ k, k < 32 → waiting.testBit k = true → (physValue t (a + 8) 4).testBit k = true

/-- Instructions in flight end, in their registers or in a saved image. -/
def Obligations.InstructionsInFlightEndOnce : Prop :=
  Claims.InstructionsInFlightEnd ∧ Claims.RepliesReachSavedImages

/-- Copies and team products write what their commands say. -/
def Obligations.CopiesAndTeamProductsAreWhole : Prop :=
  Claims.ACopyWritesItsElements ∧ Claims.ATmmaMultipliesItsOperands

/-- Seats and pipes go on when their condition holds; a word that is no instruction faults. -/
def Obligations.SeatsGoOnWhenTheirConditionHolds : Prop :=
  Claims.ArrivalsAreAppliedWhenTheirSeatIsDone ∧
  Claims.WaitsEndWhenTheirConditionHolds ∧
  Claims.LiftsAndIdleClocks ∧
  Claims.AWordThatIsNoInstructionFaults

/-! ## Events: translation and hubs -/

/-- R224, R225, R227, R229, R234: a walk, and the renewal of a transfer's translation, set A in the leaf, and D for a write, in
memory; the leaf is kept with its expiry, unless its class is uncached. A page that is not there aborts the task. -/
def Claims.AWalkSetsAccessedAndKeepsItsLeaf : Prop :=
  ∀ (s : State) (T : Task) (core : Nat) (va : Word) (acc : Access) (f : Flight) (i : Instr), isTask s T.id T → s.mem.wf = true →
    let sp := taskSpace s T
    pathAt sp va.toNat = .paged → canonical va.toNat = true → lookupKey s.walkCache (dieOf core) = none → s.skewed = [] →
    i = .pageWalk T.id core va acc ∨
      (i = .translationRenewal f.id va ∧ inFlight s f ∧ f.task = T.id ∧ f.core = core ∧ acc = flightAccess f va) →
    let found := walkFrom s va.toNat acc 4 (sp.root.toNat / 4096) []
    (∀ h, found = .ok h → ∃ t, exec i s = .next t ∧ t.tasks = s.tasks ∧ t.flights = s.flights ∧
      memValue t.mem h.at_ 8 = Nat.lor (Nat.lor h.pte 0x40) (if accWrites acc then 0x80 else 0) ∧
      (∀ a, a < h.at_ ∨ h.at_ + 8 ≤ a → memByte t.mem a = memByte s.mem a) ∧
      (pteRsw h.pte = 3 → (getCore t core).tlb = (getCore s core).tlb) ∧
      (pteRsw h.pte ≠ 3 → ∃ e ∈ (getCore t core).tlb, e.asn = sp.asn ∧ e.size = 2 ^ (12 + 9 * h.level) ∧
        e.base = va.toNat / e.size * e.size ∧ e.frame = ptePpn h.pte * 4096 ∧
        e.expiry = s.bell + BitVec.ofNat 64 (leaseOf s (pteRsw h.pte)))) ∧
    ∀ k, found = .error (.page k) → T.requeues < 63 → abortsNow s T → ∃ t, exec i s = .next t ∧ abortedTo t T

/-- R229, R233: expired entries go; an access that a hub returns stays in flight, and waits where it finds no path; a unit that
has drifted by more than 100 ns empties, is skipped, logged and counted, until it has been within 50 ns for 10 µs. -/
def Claims.CachedTranslationsExpire : Prop :=
  ∀ (s : State) (core d id diff : Nat) (u : TlbUnit) (since : Word),
    let ofCore := fun (t : State) => ∀ e, e ∈ (getCore t core).tlb ↔ e ∈ (getCore s core).tlb ∧ s.bell < e.expiry
    let ofDie := fun (t : State) => ∀ e, e ∈ (lookupKey t.dieTlb d).getD [] ↔ e ∈ (lookupKey s.dieTlb d).getD [] ∧ s.bell < e.expiry
    (∃ t, exec (.leaseExpire (.core core)) s = .next t ∧ t = { s with cores := t.cores } ∧ ofCore t ∧
      ∀ c j, getBench t c j = getBench s c j) ∧
    (∃ t, exec (.leaseExpire (.die d)) s = .next t ∧ t.cores = s.cores ∧ t.mem = s.mem ∧ ofDie t ∧
      (∀ e, e ∈ (lookupKey t.walkCache d).getD [] ↔ e ∈ (lookupKey s.walkCache d).getD [] ∧ s.bell < e.expiry) ∧
      ∀ g, g ∈ (lookupKey t.grantCache d).getD [] ↔
        g ∈ (lookupKey s.grantCache d).getD [] ∧ ∀ e, g.expiry = some e → s.bell < e) ∧
    (∀ o, s.remote.find? (fun o => o.req == id) = some o → ∃ t, exec (.hubReturnExpired id) s = .next t ∧ t.mem = s.mem ∧
      t.flights = s.flights ∧ t.tasks = s.tasks ∧ t.cores = s.cores ∧ t.remote.map (·.req) = s.remote.map (·.req) ∧
      (pathFor s o.target o.body.va = none → ∃ x ∈ t.remote, x.req = id ∧ x.lib = none)) ∧
    (s.remote.find? (fun o => o.req == id) = none → exec (.hubReturnExpired id) s = .next s) ∧
    (diff ≤ 100 → exec (.bellSkewDetect ⟨u, diff, since⟩) s = .next s) ∧
    (u ∉ s.skewed → 100 < diff → ∃ t, exec (.bellSkewDetect ⟨u, diff, since⟩) s = .next t ∧ t.skewed = s.skewed ++ [u] ∧ t.mem = s.mem ∧
      t.mgmt.skewEvents = s.mgmt.skewEvents + 1 ∧ (∃ x, t.log = s.log ++ [⟨.leaseSkew, s.seqLog, s.bell, x⟩]) ∧
      (u = .core core → (getCore t core).tlb = []) ∧
      (u = .die d → lookupKey t.dieTlb d = none ∧ lookupKey t.walkCache d = none ∧ lookupKey t.grantCache d = none)) ∧
    (diff ≤ 50 → since.toNat + 10000 ≤ s.bell.toNat → ∃ t, exec (.skewRecovery ⟨u, diff, since⟩) s = .next t ∧
      t = { s with skewed := t.skewed } ∧ ∀ x, x ∈ t.skewed ↔ x ∈ s.skewed ∧ x ≠ u) ∧
    (50 < diff ∨ s.bell.toNat < since.toNat + 10000 → exec (.skewRecovery ⟨u, diff, since⟩) s = .next s)

/-- R230, R231, R358, R455: SDQTAIL is written; the next request is answered in the acknowledgement of the same number with its
SEQ, STATUS and EXPIRY, and what instruction caches hold of its range goes at that time. -/
def Claims.ShootdownsAreAcknowledged : Prop :=
  ∀ (s : State) (v : Word32) (due : Word) (asn : Option Nat) (va : Word) (len : Nat), s.mem.wf = true →
    let m := s.mgmt
    let n := 2 ^ m.sdqlog.toNat
    (∃ t, exec (.sdqtailWrite v) s = .next t ∧ t = { s with mgmt := { m with sdqtail := v, sdqover := t.mgmt.sdqover } } ∧
      (v = m.sdqtail + 1 → ∀ i, i ∈ t.mgmt.sdqover ↔ i ∈ m.sdqover ∨
        i = m.sdqtail.toNat ∧ n ≤ (m.sdqtail - m.sdqdone).toNat)) ∧
    (m.sdqdone ≠ m.sdqtail →
      let a := m.sdqbase.toNat + 32 * (m.sdqdone.toNat % n)
      let b := m.sdqbase.toNat + 32 * n + 16 * (m.sdqdone.toNat % n)
      let flags := memValue s.mem (a + 4) 4
      let space := if flags % 2 = 1 then none else some (memValue s.mem (a + 8) 4)
      let live := liveExpiries s space (memValue s.mem (a + 0x10) 8) (memValue s.mem (a + 0x18) 8)
      let wrong := 4 ≤ flags ∨ memValue s.mem (a + 0xC) 4 ≠ 0 ∨ m.sdqdone.toNat ∈ m.sdqover
      ∃ t e, exec .shootdownRequest s = .next t ∧ memValue t.mem b 4 = memValue s.mem a 4 ∧
        memValue t.mem (b + 4) 4 = (if wrong then 1 else 0) ∧ memValue t.mem (b + 8) 8 = e ∧
        (∀ x, x < b ∨ b + 16 ≤ x → memByte t.mem x = memByte s.mem x) ∧ t.mgmt.sdqdone = m.sdqdone + 1 ∧
        t.mgmt.sdqtail = m.sdqtail ∧
        (wrong ∨ live = [] → e = 0) ∧ (wrong → t.agenda = s.agenda) ∧
        (¬wrong → live ≠ [] → ∃ x ∈ live, e = (x + 128).toNat ∧ ∀ y ∈ live, y.toNat ≤ x.toNat) ∧
        (¬wrong → t.agenda = s.agenda ++ [.icacheInvalidate (BitVec.ofNat 64 e) space
          (BitVec.ofNat 64 (memValue s.mem (a + 0x10) 8)) (memValue s.mem (a + 0x18) 8)])) ∧
    (due ≤ s.bell → ∃ t, exec (.icacheInvalidate due asn va len) s = .next t ∧ t = { s with cores := t.cores } ∧
      ∀ core l, l ∈ (getCore t core).icache ↔ l ∈ (getCore s core).icache ∧
        ¬((len = 0 ∨ l.va < va.toNat + len ∧ va.toNat < l.va + 128) ∧
          (asn = some l.asn ∨ asn = none ∧ l.asn ≠ monitorAsn)))

/-- R240, R241: a carve change that grows clears its new ways to zero, tags and poison with them, and signals OK; it fails with
EXHAUSTED where a way is taken or beyond the hub, and shrinking with BUSY where a way is still live; then nothing changes. -/
def Claims.CarveChangesComplete : Prop :=
  ∀ (s : State) (o : Obj) (num hub w0 n m notif : Nat) (live : List Nat) (w : Word), findObj s 969 num = some o →
    o.data = .carve hub w0 n notif live (some m) → notificationIs s notif w [] → objGone s 964 notif = false →
    let taken := wayTaken s num hub (w0 + n) (w0 + m) = true ∨ 16 < w0 + m
    let busy := ∃ x ∈ live, w0 + m ≤ x ∧ x < w0 + n
    let way := fun x => 0x0080000000000000 + hub * 0x10000000 + x * 0x1000000
    let done := fun (t : State) (k st : Nat) => (∃ p, findObj t 969 num = some p ∧ p.busy = false ∧
      p.data = .carve hub w0 k notif live none) ∧ notificationIs t notif (w ||| BitVec.ofNat 64 (2 ^ st)) []
    ∃ t, exec (.carveComplete num) s = .next t ∧ t.cores = s.cores ∧
      (n < m → ¬taken → done t m 0 ∧
        (∀ a, way (w0 + n) ≤ a → a < way (w0 + m) → memByte t.mem a = 0 ∧ memTag t.mem a = false ∧ memPoison t.mem a = false) ∧
        ∀ a, a < way (w0 + n) ∨ way (w0 + m) ≤ a → memByte t.mem a = memByte s.mem a ∧ memTag t.mem a = memTag s.mem a) ∧
      (n < m → taken → done t n 2 ∧ t.mem = s.mem) ∧ (m ≤ n → busy → done t n 1 ∧ t.mem = s.mem) ∧ (m ≤ n → ¬busy → done t m 0)

/-- R247: an error that ECC corrects is logged; one that it cannot poisons the four granules of its line, or its granule, whose
tag goes, in memory or among a task's held bytes; each is logged with SEQ and bell. -/
def Claims.SoftErrorsPoison : Prop :=
  ∀ (s : State) (pa : Nat), s.mem.wf = true →
    let logged := fun (t : State) (k : LogKind) => ∃ x, t = { s with mem := t.mem, log := t.log, seqLog := s.seqLog + 1 } ∧
      t.log = s.log ++ [⟨k, s.seqLog, s.bell, x⟩]
    (∃ t, exec (.softError .corrected) s = .next t ∧ logged t .corrected ∧ t.mem = s.mem) ∧
    (∃ t, exec (.softError (.hbmLine pa)) s = .next t ∧ logged t .poisoning ∧ ∀ a, memByte t.mem a = memByte s.mem a ∧
      memTag t.mem a = memTag s.mem a ∧ (memPoison t.mem a = true ↔ memPoison s.mem a = true ∨ a / 64 = pa / 64)) ∧
    (∃ t, exec (.softError (.granule pa)) s = .next t ∧ logged t .poisoning ∧ ∀ a, memByte t.mem a = memByte s.mem a ∧
      (memPoison t.mem a = true ↔ memPoison s.mem a = true ∨ a / 16 = pa / 16) ∧
      (memTag t.mem a = true ↔ memTag s.mem a = true ∧ a / 16 ≠ pa / 16)) ∧
    ∀ (T : Task) (l : HoldLine) (va : Word), isTask s T.id T → l ∈ T.dieHold → l.line = va.toNat / 64 → l.tags.length = 4 →
      l.poison.length = 4 → (∀ x ∈ T.dieHold, x.line = l.line → x = l) →
      ∃ t U x, exec (.softError (.held T.id va)) s = .next t ∧ t.mem = s.mem ∧ t.cores = s.cores ∧
        t.log = s.log ++ [⟨.poisoning, s.seqLog, s.bell, x⟩] ∧ isTask t T.id U ∧ holdPoison U.dieHold va.toNat = some true ∧
        holdTag U.dieHold va.toNat = some false ∧
        ∀ a, a / 16 ≠ va.toNat / 16 → holdPoison U.dieHold a = holdPoison T.dieHold a ∧ holdTag U.dieHold a = holdTag T.dieHold a

/-- R249 to R251: the home hub of a line counts what it serves and samples one access in 2^PERIOD, of at least 16; a sample writes
its record and advances HEAD, or is counted as dropped; HOTCTL and HOTTAIL are written. That ASN is 0 also for DIE 12 is the model's
reading (log 118). -/
def Claims.HotnessSamplesGoToTheRing : Prop :=
  ∀ (s : State) (h die : Nat) (flags : BitVec 16) (pa : Word) (asn : Word32) (v : Word) (w : Word32), h < 16 → s.hot.length = 16 →
    s.mem.wf = true →
    let c := getHot s h
    let a := 0x00C0000100000000 + h * 0x40000 + 32 * (c.head.toNat % 8192)
    let others := fun (t : State) => ∀ k, k ≠ h → getHot t k = getHot s k
    let home := if bits pa 55 52 = 8 then bits pa 31 28 else Nat.xor (Nat.xor (bits pa 15 12) (bits pa 19 16)) (bits pa 23 20)
    let due := c.en = true ∧ h = home ∧ die ≤ 12 ∧ 2 ^ max 4 c.period ≤ c.count + 1
    (due → (c.head - c.tail).toNat < 8192 → ∃ t, exec (.hotnessSample h die flags pa asn) s = .next t ∧ others t ∧
      getHot t h = { c with head := c.head + 1, dropped := 0, full := false, seq := c.seq + 1, count := 0 } ∧
      [memValue t.mem a 8, memValue t.mem (a + 8) 4, memValue t.mem (a + 0xC) 1, memValue t.mem (a + 0xD) 1,
        memValue t.mem (a + 0xE) 2, memValue t.mem (a + 0x10) 8, memValue t.mem (a + 0x18) 4, memValue t.mem (a + 0x1C) 4] =
        [s.bell.toNat, c.seq.toNat, h, die, flags.toNat % 4 + (if bits pa 55 52 = 8 then 4 else 0), pa.toNat / 64 * 64,
          if die < 10 then asn.toNat else 0, c.dropped.toNat] ∧
      ∀ x, x < a ∨ a + 32 ≤ x → memByte t.mem x = memByte s.mem x) ∧
    (due → c.full = true → (c.head - c.tail).toNat = 8192 → ∃ t, exec (.hotnessSample h die flags pa asn) s = .next t ∧
      t.mem = s.mem ∧ others t ∧ getHot t h = { c with dropped := c.dropped + 1, count := 0 }) ∧
    (c.en = true → h = home → die ≤ 12 → c.count + 1 < 2 ^ max 4 c.period → ∃ t, exec (.hotnessSample h die flags pa asn) s = .next t ∧
      t = { s with hot := t.hot } ∧ others t ∧ getHot t h = { c with count := c.count + 1 }) ∧
    (c.en = false ∨ h ≠ home ∨ 12 < die → exec (.hotnessSample h die flags pa asn) s = .next s) ∧
    (∃ t, exec (.hotctlWrite h v) s = .next t ∧ t = { s with hot := t.hot } ∧ others t ∧ (getHot t h).en = v.getLsbD 5 ∧
      (getHot t h).period = bits v 4 0 ∧ (v.getLsbD 5 = true → c.en = false → (getHot t h).head = 0 ∧ (getHot t h).tail = 0 ∧
        (getHot t h).count = 0) ∧
      (c.en = true → (getHot t h).head = c.head ∧ (getHot t h).tail = c.tail)) ∧
    ∃ t, exec (.hottailWrite h w) s = .next t ∧ t = { s with hot := t.hot } ∧ others t ∧ (getHot t h).head = c.head ∧
      (getHot t h).tail = if (w - c.tail).toNat ≤ (c.head - c.tail).toNat then w else c.tail

/-- R216, R231, R248, R358: a page's write permission is withdrawn and a shootdown acknowledged, whose EXPIRY ends what instruction caches
hold of it; once the bell has passed that EXPIRY and no cached translation of it lives, its frame is copied and its leaf names the new
frame, with the permission that it had; until then the migration stays due. -/
def Claims.APageMigratesWhenItsLeasesHaveEnded : Prop :=
  ∀ (s : State) (asn frame : Nat) (va : Word) (w : Bool) (e : Word) (sp : ASpace) (h : WalkHit), spaceOfAsn s asn = some sp →
    s.mem.wf = true → pathAt sp va.toNat = .paged →
    walkFrom s va.toNat .load 4 (sp.root.toNat / 4096) [] = .ok h →
    let size := 2 ^ (12 + 9 * h.level)
    let dst := frame / size * size
    let from_ := poolPlace s (ptePpn h.pte * 4096)
    let to_ := poolPlace s dst
    let base := va.toNat / size * size
    let live := liveExpiries s (some asn) base size
    (∃ t x, exec (.pageMigration asn va ⟨frame, w, none⟩) s = .next t ∧
      t = { s with
        mem := t.mem
        agenda := s.agenda ++ [.icacheInvalidate x (some asn) (BitVec.ofNat 64 base) size, .pageMigration asn va ⟨frame, w, some x⟩] } ∧
      (live = [] → x = 0) ∧ (live ≠ [] → ∃ y ∈ live, x = y + 128 ∧ ∀ z ∈ live, z.toNat ≤ y.toNat) ∧
      (pteBit h.pte 2 = true → memValue t.mem h.at_ 8 + 4 = h.pte) ∧ (pteBit h.pte 2 = false → t.mem = s.mem) ∧
      ∀ a, a < h.at_ ∨ h.at_ + 8 ≤ a → memByte t.mem a = memByte s.mem a) ∧
    (s.bell < e ∨ pageCached s asn base size = true →
      ∃ t, exec (.pageMigration asn va ⟨frame, w, some e⟩) s = .next t ∧
        t = { s with agenda := s.agenda ++ [.pageMigration asn va ⟨frame, w, some e⟩] }) ∧
    (e ≤ s.bell → pageCached s asn base size = false → pteBit h.pte 2 = false →
      h.at_ + 8 ≤ to_ ∨ to_ + size ≤ h.at_ → dst / 4096 < 2 ^ 44 →
      ∃ t, exec (.pageMigration asn va ⟨frame, w, some e⟩) s = .next t ∧ t.cores = s.cores ∧
        (∀ k, k < size → memByte t.mem (to_ + k) = memByte s.mem (from_ + k) ∧
          memTag t.mem (to_ + k) = memTag s.mem (from_ + k) ∧ memPoison t.mem (to_ + k) = memPoison s.mem (from_ + k)) ∧
        ptePpn (memValue t.mem h.at_ 8) = dst / 4096 ∧ pteBit (memValue t.mem h.at_ 8) 2 = w ∧
        ∀ i, i < 10 → i ≠ 2 → pteBit (memValue t.mem h.at_ 8) i = pteBit h.pte i)

/-- R423: a pool segment register is written while it is not valid; clearing VALID starts the write-back, which ends with VALID
at 0. -/
def Claims.PoolSegmentsAreMappedAndUnmapped : Prop :=
  ∀ (s : State) (i : Nat) (v : Word), i < 64 → s.mgmt.poolseg.length = 64 →
    let seg := fun (t : State) => nth t.mgmt.poolseg i 0
    (∃ t, exec (.poolsegWrite i v) s = .next t ∧ t = { s with mgmt := t.mgmt } ∧
      ((seg s).getLsbD 63 = false → (∀ n, n < 64 → (seg t).getLsbD n = (v.getLsbD n &&
        (decide (n = 63) || decide (36 ≤ n ∧ n ≤ 47) || decide (n ≤ 19)))) ∧ t.mgmt.poolUnmapping = s.mgmt.poolUnmapping) ∧
      ((seg s).getLsbD 63 = true → seg t = seg s ∧ (v.getLsbD 63 = false → i ∈ t.mgmt.poolUnmapping))) ∧
    (i ∈ s.mgmt.poolUnmapping → ∃ t, exec (.poolsegUnmapDone i) s = .next t ∧ t = { s with mgmt := t.mgmt } ∧
      (∀ n, n < 64 → (seg t).getLsbD n = ((seg s).getLsbD n && decide (n ≠ 63))) ∧ i ∉ t.mgmt.poolUnmapping)

/-- Translations are walked, expire and are shot down. -/
def Obligations.TranslationsAreWalkedAndExpire : Prop :=
  Claims.AWalkSetsAccessedAndKeepsItsLeaf ∧ Claims.CachedTranslationsExpire ∧ Claims.ShootdownsAreAcknowledged

/-- Hubs change carves, poison on errors, sample accesses, migrate pages and map pool segments. -/
def Obligations.HubsCarveSamplePoisonAndMovePages : Prop :=
  Claims.CarveChangesComplete ∧
  Claims.SoftErrorsPoison ∧
  Claims.HotnessSamplesGoToTheRing ∧
  Claims.APageMigratesWhenItsLeasesHaveEnded ∧
  Claims.PoolSegmentsAreMappedAndUnmapped

/-! ## Events: other packages -/

/-- R223, R235, R236, R365, R403, R439: a grant is walked for, recorded with the latest expiry given for its page, and answered with
its own expiry, or with none where its lease is 0 (DEDUCED, log 42), as a package out of lock always grants; W is granted once D is
set; one that cannot be walked is answered with the page fault's sub-code; a package just reset refuses, and a fenced package is
refused and told its notices again. A grant that arrives is kept for its die; a refused one aborts the task. -/
def Claims.GrantsAreWalkedAndRecorded : Prop :=
  ∀ (s u : State) (src slot space pa id : Nat) (va : Word) (acc : Access) (h : WalkHit), slotSpace s slot = some space →
    let sp := aspaceObj s space
    let i := Instr.grantRequest (.ask src id) slot va acc
    let fenced := ∃ x ∈ s.fenced, x.pkg = src
    (fenced → ∃ t, exec i s = .next t ∧ t = { s with fenced := t.fenced, outbox := t.outbox } ∧
      (∀ x ∈ t.fenced, x.pkg = src → x.told = true) ∧ t.outbox = s.outbox ++ .refusal src (.request id) 0 ::
        (s.fenced.filter fun x => x.pkg == src && !x.told).map fun x => .notice src x.w0 x.w1 (BitVec.ofNat 64 (x.num % 2 ^ 32))) ∧
    (∀ ns, ¬fenced → resetRefusal s = some ns →
      exec i s = .next { s with outbox := s.outbox ++ [.refusal src (.request id) ns] }) ∧
    (resetRefusal s = none → ¬fenced →
      (∀ k, hubWalk s sp va.toNat acc = .error (.page k) →
        exec i s = .next { s with outbox := s.outbox ++ [.grantFault src id k] }) ∧
      (hubWalk s sp va.toNat acc = .ok (pa, some h, u) →
        let size := 2 ^ (12 + 9 * h.level)
        let lease := if u.lock.locked = false ∨ 65536 ≤ liveGrants u then 0 else leaseOf u (pteRsw h.pte)
        let asn := (aspaceObj u space).asn
        let expiry := u.bell + BitVec.ofNat 64 lease
        let page := va.toNat / size * size
        ∃ t g, exec i s = .next t ∧ t = { u with grants := t.grants, outbox := u.outbox ++ [.grant src id g] } ∧
          (g.target = u.pkg ∧ g.slot = slot ∧ g.asn = asn ∧ g.page = page ∧ g.size = size ∧ g.frame = pa / size * size ∧
            g.cls = pteRsw h.pte ∧ g.expiry = if lease = 0 then none else some expiry) ∧
          (∀ n, Nat.testBit g.perms n = true ↔ n < 3 ∧ pteBit h.pte (n + 1) = true ∧ (n = 1 → pteBit h.pte 7 = true)) ∧
          (lease = 0 → t.grants = u.grants) ∧
          (lease ≠ 0 → ∃ r ∈ t.grants, r.asn = asn ∧ r.page = page ∧ r.size = size ∧ expiry.toNat ≤ r.expiry.toNat ∧
            (r.expiry = expiry ∨ r ∈ u.grants) ∧
            ∀ x ∈ u.grants, x.asn = asn → x.page = page → x.size = size → x.expiry.toNat ≤ r.expiry.toNat))) ∧
    ∀ o, s.remote.find? (fun o => o.req == id) = some o →
      (∀ g e, g.expiry = some e → g.cls ≠ 3 → s.lock.locked = true → s.skewed = [] →
        ∃ t, exec (.grantRequest (.answer id g) slot va acc) s = .next t ∧ t.mem = s.mem ∧ t.flights = s.flights ∧ t.tasks = s.tasks ∧
          (lookupKey t.grantCache o.die).getD [] = (g :: (lookupKey s.grantCache o.die).getD []).take 4096) ∧
      ∀ f T k, findFlight s o.flight = some f → f.task = T.id → isTask s T.id T → T.requeues < 63 → abortsNow s T →
        ∃ t, exec (.grantRequest (.refused id k) slot va acc) s = .next t ∧ abortedTo t T

/-- R167, R169, R229, R401, R402, R422, R423, R428: a remote access performed here, at the frame of its grant, in a pool through the
segment as it stands: one whose grant has expired goes back to its issuer; a load answers the bytes, an atomic the old value and writes
its table's, a store writes its bytes; under quarantine a load and an atomic answer poison. -/
def Claims.RemoteAccessesArePerformedHere : Prop :=
  ∀ (s : State) (r : RemoteReq) (space p0 : Nat), slotSpace s r.slot = some space →
    refuses s r.src = none → behindMark s r = false →
      let pas := r.pas.map (poolPlace s)
      let u := openViews s pas
      (requestQuarantined s space r.base r.top = true → slotDiscards s r = false → ∃ t, exec (.remoteAccessPerform r) s = .next t ∧
        t = { s with returned := t.returned
                     outbox := s.outbox ++ [.answer r.src r.reqId (List.replicate (remoteValues r.op) (0, 0, false, true))] }) ∧
      (requestQuarantined s space r.base r.top = false → (∀ p, r.op ≠ .exported p) → reqExpired s r = true →
        ∃ t, exec (.remoteAccessPerform r) s = .next t ∧ (r.src, r.reqId, s.bell) ∈ t.returned ∧
          t = { s with returned := t.returned, outbox := s.outbox ++ [.returned r.src r.reqId] }) ∧
      (requestQuarantined s space r.base r.top = false → reqExpired s r = false → s.mem.wf = true → s.pushBufs = [] →
        (∀ p ∈ r.pas, poolCheck s p = none) → pas = (List.range (remoteSize r.op)).map (p0 + ·) →
        (∀ p ∈ pas, isMgmt p = false ∧ memPoison u.mem p = false) →
        let answers := fun (t : State) (vs : List (Word × Word × Bool × Bool)) => t.outbox = s.outbox ++ [.answer r.src r.reqId vs]
        (∀ n, r.op = .load n → 1 ≤ n → n ≤ 8 → ∃ t, exec (.remoteAccessPerform r) s = .next t ∧ t.mem = u.mem ∧
          answers t [(BitVec.ofNat 64 (memValue u.mem p0 n), 0, false, false)]) ∧
        (r.op = .load 16 → ∃ t, exec (.remoteAccessPerform r) s = .next t ∧ t.mem = u.mem ∧
          answers t [(BitVec.ofNat 64 (memValue u.mem p0 8), BitVec.ofNat 64 (memValue u.mem (p0 + 8) 8), memTag u.mem p0, false)]) ∧
        (∀ d, r.op = .store d false false → d ≠ [] → ∃ t, exec (.remoteAccessPerform r) s = .next t ∧ answers t [] ∧
          memBytes t.mem p0 d.length = d ∧ ∀ a, a < p0 ∨ p0 + d.length ≤ a → memByte t.mem a = memByte u.mem a) ∧
        ∀ op w32 x e, r.op = .atomic op w32 [(x, e)] →
          let w := if w32 then 32 else 64
          let m := memValue u.mem p0 (w / 8)
          ∃ t v, exec (.remoteAccessPerform r) s = .next t ∧ answers t [(BitVec.ofNat 64 m, 0, false, false)] ∧
            atomTable op w m (x.toNat % 2 ^ w) (e.toNat % 2 ^ w) v ∧ memValue t.mem p0 (w / 8) = v.getD m ∧
            ∀ a, a < p0 ∨ p0 + w / 8 ≤ a → memByte t.mem a = memByte u.mem a)

/-- R169, R428: the set that a library has combined, one atomic each of different packages with one operation other than `cas` and
`fadd` and one width on one location, is performed as one access: the parts follow one another in its order, each takes the value that
the part before it left, and each is answered. A set behind a mark waits whole; what is no such set is performed as separate accesses. -/
def Claims.CombinedAtomicsAreOneAccess : Prop :=
  ∀ (s : State) (r0 : RemoteReq) (rs : List RemoteReq) (op : AtomOp) (w32 : Bool) (xs : List (Word × Word)) (space p0 : Nat),
    let reqs := r0 :: rs
    let w := if w32 then 32 else 64
    let pas := r0.pas.map (poolPlace s)
    let u := openViews s pas
    exec (.libraryAtomCombine []) s = .next s ∧
    (∀ r, (∀ o b vs, r.op ≠ .atomic o b vs) → behindMark s r = false →
      exec (.libraryAtomCombine [r]) s = exec (.remoteAccessPerform r) s) ∧
    ((∃ r ∈ reqs, behindMark s r = true) →
      exec (.libraryAtomCombine reqs) s = .next { s with agenda := s.agenda ++ [.libraryAtomCombine reqs] }) ∧
    (op ≠ .cas → op ≠ .fadd → (reqs.map (·.src)).Nodup → slotSpace s r0.slot = some space → xs.length = reqs.length →
      (∀ r ∈ reqs, r.slot = r0.slot ∧ r.va = r0.va ∧ r.pas = r0.pas ∧ refuses s r.src = none ∧ behindMark s r = false ∧
        reqExpired s r = false ∧ requestQuarantined s space r.base r.top = false) →
      (∀ (j : Nat) r x, reqs[j]? = some r → xs[j]? = some x → r.op = .atomic op w32 [x]) →
      s.mem.wf = true → (∀ p ∈ r0.pas, poolCheck s p = none) → pas = (List.range (w / 8)).map (p0 + ·) →
      (∀ p ∈ pas, isMgmt p = false ∧ memPoison u.mem p = false) →
      ∃ t ms, exec (.libraryAtomCombine reqs) s = .next t ∧ ms.length = reqs.length + 1 ∧
        ms[0]? = some (memValue u.mem p0 (w / 8)) ∧
        (∀ (j : Nat) x m m', xs[j]? = some x → ms[j]? = some m → ms[j + 1]? = some m' →
          ∃ v, atomTable op w m (x.1.toNat % 2 ^ w) (x.2.toNat % 2 ^ w) v ∧ m' = v.getD m) ∧
        t.outbox = s.outbox ++ (reqs.zip ms).map (fun e => .answer e.1.src e.1.reqId [(BitVec.ofNat 64 e.2, 0, false, false)]) ∧
        ms[reqs.length]? = some (memValue t.mem p0 (w / 8)) ∧
        ∀ a, a < p0 ∨ p0 + w / 8 ≤ a → memByte t.mem a = memByte u.mem a)

/-- R404, R406, R407, R408, R409, R411: a reservation that finds room takes the slot RESV names, and one that finds none waits, at
most 256 of them; a header with ERR answers FORMAT; one that is
withdrawn leaves the queue, and a slot that it was granted stays; a complete slot is answered, and HEAD passes it in its turn; one that
has timed out is poisoned where it was not written, in quarantine whole; `sret` moves TAIL, or sets ERR. -/
def Claims.SlotBuffersFollowTheirHeader : Prop :=
  ∀ (s u : State) (r : PushReq) (space pa : Nat) (h : Option WalkHit),
    let sp := aspaceObj s space
    (r.withdraw = true → ∃ t, exec (.pushReserve r) s = .next t ∧ t = { s with pushBufs := t.pushBufs } ∧
      (∀ b ∈ t.pushBufs, ∀ q ∈ b.queue, ¬(q.src = r.src ∧ q.reqId = r.reqId)) ∧
      ∀ b ∈ s.pushBufs, b.slots ≠ [] → ∃ c ∈ t.pushBufs, c.slot = b.slot ∧ c.va = b.va ∧ c.slots = b.slots ∧
        ∀ q, q ∈ c.queue ↔ q ∈ b.queue ∧ ¬(q.src = r.src ∧ q.reqId = r.reqId)) ∧
    (r.withdraw = false → resetRefusal s = none → (∀ x ∈ s.fenced, x.pkg ≠ r.src) → slotSpace s r.slot = some space →
      hubTranslate s sp r.va.toNat .rmw = .ok (pa, h, u) → u.mem.wf = true → isMgmt pa = false →
      let k := memValue u.mem pa 8
      let used := (k + 2 ^ 64 - memValue u.mem (pa + 0x10) 8) % 2 ^ 64
      let nslot := memValue u.mem (pa + 0x18) 4
      let size := memValue u.mem (pa + 0x1C) 4
      let pos := r.va.toNat + 0x40 + k % nslot * size
      (memValue u.mem (pa + 0x20) 4 % 2 = 1 →
        exec (.pushReserve r) s = .next { u with outbox := u.outbox ++ [.pushReply r.src r.reqId 0x8000000000000003 false] }) ∧
      (memValue u.mem (pa + 0x20) 4 % 2 = 0 → 1 ≤ nslot → nslot ≤ 65536 → size % 64 = 0 → 64 ≤ size → size ≤ 2 ^ 24 →
        r.len ≤ size → k < 2 ^ 63 →
        (∀ b, u.pushBufs = [b] → b.slot = r.slot → b.va = r.va → 256 ≤ b.queue.length → u.fenced = [] →
          exec (.pushReserve r) s = .next { u with outbox := u.outbox ++ [.refusal r.src (.queueFull r.reqId) 0] }) ∧
        (u.pushBufs = [] → r.base.toNat ≤ pos → pos + r.len ≤ r.top.toNat →
          ∃ t, exec (.pushReserve r) s = .next t ∧
            (used < nslot → memValue t.mem pa 8 = k + 1 ∧
              t.outbox = u.outbox ++ [.granted r.src r.reqId (BitVec.ofNat 64 k) (BitVec.ofNat 64 pos)] ∧
              (∀ a, a < pa ∨ pa + 8 ≤ a → memByte t.mem a = memByte u.mem a) ∧
              ∃ b ∈ t.pushBufs, b.slot = r.slot ∧ b.va = r.va ∧ b.queue = [] ∧ ∃ x ∈ b.slots, x.k = k ∧
                x.va = BitVec.ofNat 64 pos ∧ x.len = r.len ∧ x.complete = false ∧ x.deadline = u.bell + 200000) ∧
            (nslot ≤ used → t.mem = u.mem ∧ t.outbox = u.outbox ∧
              ∃ b ∈ t.pushBufs, b.slot = r.slot ∧ b.va = r.va ∧ b.queue = [r])))) ∧
    (∀ (n : Nat) (b : PushBuf) (x : PushSlot), s.pushBufs[n]? = some b → x ∈ b.slots → (b.slots.map (·.k)).Nodup →
      (∀ y ∈ b.slots, y.complete = false) → slotSpace s b.slot = some space → pathAt sp b.va.toNat = .heap →
      b.va.toNat < sp.hbase.toNat + sp.hlimit.toNat → (b.va.toNat + sp.hoff.toNat) % 2 ^ 64 = pa → pa / 2 ^ 52 % 2 = 0 →
      viewed s.mem pa = true → isMgmt (pa + 8) = false → s.mem.wf = true → x.k + 1 < 2 ^ 64 →
      let head := fun (t : State) => memValue t.mem (pa + 8) 8
      let place := fun (g : Nat) => (g + sp.hoff.toNat) % 2 ^ 64
      let ends := fun (t : State) => t.outbox = s.outbox ++ [.pushReply x.src x.reqId (BitVec.ofNat 64 x.k) x.quarantined] ∧
        (head s = x.k → head t = x.k + 1) ∧ (head s ≠ x.k → head t = head s)
      let poisons := fun (t : State) (gs : List Nat) => ∀ g ∈ gs, pathAt sp g = .heap → g < sp.hbase.toNat + sp.hlimit.toNat →
        isMgmt (place g) = false → place g / 2 ^ 52 % 2 = 0 → memPoison t.mem (place g) = true
      (∃ t, exec (.pushPublish n x.k) s = .next t ∧ ends t ∧
        (x.quarantined = false → ∀ a, a < pa + 8 ∨ pa + 16 ≤ a → memByte t.mem a = memByte s.mem a) ∧
        (x.quarantined = true → poisons t (slotGranules x))) ∧
      ∃ t, exec (.pushSlotTimeout n x.k) s = .next t ∧ ends t ∧ poisons t (if x.quarantined then slotGranules x else x.missing)) ∧
    (∀ (f : Flight) (T : Task) (c : Cap) (n : Word) (bt : Word32) (v : State), inFlight s f → isTask s f.task T →
      f.kind = .sret c n false bt →
      hasPerm c .remote = false → (capCursor c).toNat % 64 = 0 → (capCursor c).toNat / 64 ∉ heldLines T → f.flag = none →
      let x := releaseDrain s f.task (flightCoreT s f) .dom
      let spT := taskSpace x (flightTask x f)
      translate1 x f.core spT spT.hspan (capCursor c).toNat .rmw = .ok (pa, v) → v.mem.wf = true → isMgmt (pa + 0x10) = false →
      isMgmt (pa + 0x20) = false → v.pushBufs = [] →
      let room := (memValue v.mem (pa + 8) 8 + 2 ^ 64 - memValue v.mem (pa + 0x10) 8) % 2 ^ 64
      ∃ t, exec (.sretPerform f.id) s = .next t ∧ f ∉ t.flights ∧ (n = 0 → t.mem = v.mem) ∧
        (n ≠ 0 → n.toNat ≤ room → memValue t.mem (pa + 0x10) 8 = (memValue v.mem (pa + 0x10) 8 + n.toNat) % 2 ^ 64 ∧
          ∀ a, a < pa + 0x10 ∨ pa + 0x18 ≤ a → memByte t.mem a = memByte v.mem a) ∧
        (room < n.toNat → memValue t.mem (pa + 0x20) 4 % 2 = 1 ∧
          ∀ a, a < pa + 0x20 ∨ pa + 0x24 ≤ a → memByte t.mem a = memByte v.mem a))

/-- R402, R406, R407, R408, R412, R429: a push that is granted sends its payload, once the stores before it have been performed, and
awaits the reply from the grant on, whose value its register takes,
or poison of cause 0 under quarantine, of cause 1 at the deadline; a mark's last replica completes it at its target, once every access
that the target returned has come again, and its completion ends it here; one that times out aborts its task. -/
def Claims.PushesAndMarksEnd : Prop :=
  ∀ (s : State) (f : Flight), inFlight s f →
    (∀ req pkg d slot c e len v, f.kind = .push req pkg d slot c e len → f.vdests = [d] → d.isV = true → lowestSeat f.seats < 32 →
      (∃ x ∈ (flightBench s f).vrows, x.reg = d.code ∧ x.live.getLsbD (lowestSeat f.seats) = true) →
      let lands := fun (t : State) (w : Word) (p : Option Nat) => f ∉ t.flights ∧ flagFalls s t f ∧ t.mem = s.mem ∧
        readD (flightBench t f) d (lowestSeat f.seats) = w ∧ poisonD (flightBench t f) d (lowestSeat f.seats) = p ∧
        ∀ r k, ¬(r = d ∧ k = lowestSeat f.seats) → readD (flightBench t f) r k = readD (flightBench s f) r k
      (∃ t, exec (.pushReply f.id (some v)) s = .next t ∧ lands t v none) ∧
      (∃ t, exec (.pushReply f.id none) s = .next t ∧ lands t 0 (some 0)) ∧
      (slot.isSome = true → ∃ t, exec (.pushReplyDeadline f.id) s = .next t ∧ lands t 0 (some 1))) ∧
    (∀ req pkg d c e len k pos, f.kind = .push req pkg d none c e len → c.tag = true →
      (capCursor c).toNat + len ≤ windowEnd → 16 ≤ len → len % 16 = 0 →
      let T := flightTask s f
      let n := flightCoreT s f
      let awaits := fun (t : State) (src : Cap) => t.mem = s.mem ∧
        findFlight t f.id = some { f with kind := .push req pkg d (some k) src e len, deadline := s.bell + 200000 }
      ∃ t, exec (.pushGrant f.id k pos) s = .next t ∧
        (pushReadable s f c len = false → awaits t c ∧ .pushGrant f.id k pos ∈ t.agenda) ∧
        (pushReadable s f c len = true → awaits t Cap.null ∧
          ∀ j, j < len / 16 → ∃ o g tag bad, o ∈ t.remote ∧ o.flight = f.id ∧ o.target = pkg ∧
            o.body.va = pos + BitVec.ofNat 64 (16 * j) ∧ o.body.op = .store g tag bad ∧
            (tag = false → g = winBytes s T n ((capCursor c).toNat + 16 * j) 16) ∧
            (bad = true ↔ ∃ b, b < 16 ∧ winPoison s T n ((capCursor c).toNat + 16 * j + b) = true))) ∧
    (∀ num pkg n ps bs, f.kind = .mark num pkg n ps bs →
      (∃ t, exec (.markDone f.id) s = .next t ∧ endsAlone s t f) ∧
      ∀ T, isTask s T.id T → f.task = T.id → T.requeues < 63 → abortsNow s T → ∃ t, exec (.markTimeout f.id) s = .next t ∧ abortedTo t T) ∧
    ∀ src num path n,
      (refuses s src = none → markComplete s src num = true → exec (.markReplicaArrive src num path n) s = .next s) ∧
      (refuses s src = none → markComplete s src num = false → s.heldIn = [] → s.marksIn = [] → s.pushBufs = [] → s.poolWaits = [] →
        (n ≤ 1 → stillReturned s src = [] → exec (.markReplicaArrive src num path n) s =
          .next { s with marksDone := putKey s.marksDone src num, outbox := s.outbox ++ [.markComplete src num] }) ∧
        (1 < n ∨ stillReturned s src ≠ [] →
          exec (.markReplicaArrive src num path n) s = .next { s with marksIn := [⟨src, num, n, [path]⟩] })) ∧
      ∀ ns, refuses s src = some ns → (∀ x ∈ s.fenced, x.pkg ≠ src) → exec (.markReplicaArrive src num path n) s =
        .next { s with outbox := s.outbox ++ [.refusal src (.replica num path) ns] }

/-- R236, R402, R421, R424, R426, R430, R431, R454: a link that fails or trains again is logged and fails or carries its paths, and
bring-up that loses BOOTLIB fails; silence of 10 µs
and reports fail a path, which is probed every 5 µs, and a probe that is answered restores it; a refusal closes a target for the time that
it names; a target
without paths, or a pool without its link, for 50 µs aborts the tasks that wait for it, here and in the packages that asked. -/
def Claims.PathsFollowWhatIsSeenOfThem : Prop :=
  ∀ (s : State) (target lib id : Nat),
    let p := fun (t : State) => pathSetOf t target
    let quiet := fun (t : State) => t.mem = s.mem ∧ t.tasks = s.tasks ∧ t.cores = s.cores
    let logged := fun (t : State) (k : LogKind) => t.log = s.log ++ [⟨k, s.seqLog, s.bell, BitVec.ofNat 64 lib⟩]
    (∃ t, exec (.linkFail lib) s = .next t ∧ quiet t ∧ logged t .linkDown ∧ libLinked t lib = false ∧
      (∀ l, l ≠ lib → libLinked t l = libLinked s l) ∧
      (s.boot.state = .elect ∨ s.boot.state = .load → lib = bootLib s → t.boot.state = .failed ∧ t.boot.reason = 7)) ∧
    ((∃ l ∈ s.links, l.lib = lib) → (∀ w ∈ s.poolWaits, w.lib = lib → ∃ T c, w.who = .task T c) →
      ∃ t, exec (.linkRetrainDone lib) s = .next t ∧ quiet t ∧ logged t .linkUp ∧ libLinked t lib = true ∧
      (∀ l, l ≠ lib → libLinked t l = libLinked s l) ∧ ∀ w, w ∈ t.poolWaits ↔ w ∈ s.poolWaits ∧ w.lib ≠ lib) ∧
    ((∀ l ∈ s.links, l.lib ≠ lib) → exec (.linkRetrainDone lib) s = .next s) ∧
    (∃ t, exec (.pathSetChange target) s = .next t ∧ quiet t ∧ (p t).libs = (p s).libs ∧ (p t).failed = (p s).failed ∧
      (∀ v, (p s).refusing = some v → (p t).refusing = if v.toNat ≤ s.bell.toNat then none else some v)) ∧
    (lib ∈ (p s).libs → ∃ t, exec (.libraryReport lib target .unreachable) s = .next t ∧ quiet t ∧ lib ∈ (p t).failed) ∧
    (∃ t, exec (.libraryReport lib id .delivered) s = .next t ∧ quiet t ∧ ∀ o ∈ t.remote, o.req = id → o.sure = true) ∧
    (∀ o ∈ s.remote, o.req = id → o.target = target → (∀ q ∈ s.remote, q.req = id → q = o) →
      (∀ ns : Word, ns ≠ 0 → s.bell.toNat < (s.bell + ns).toNat →
        ∃ t, exec (.remoteRefusal (.request id) ns) s = .next t ∧ quiet t ∧ (p t).refusing = some (s.bell + ns) ∧
          livePaths t (p t) = []) ∧
      (o.lib = some lib → lib ∈ (p s).libs →
        ∃ t, exec (.remoteRefusal (.request id) 0) s = .next t ∧ quiet t ∧ lib ∈ (p t).failed) ∧
      ∀ f T, findFlight s o.flight = some f → f.task = T.id → isTask s T.id T → T.requeues < 63 → abortsNow s T →
        ∃ t, exec (.remoteRefusal (.poolLost id) 0) s = .next t ∧ abortedTo t T) ∧
    (lib ∈ (p s).libs → (∀ o ∈ s.remote, o.target = target → o.lib = some lib → ∃ n, o.body.op = .load n) →
      (∃ o ∈ s.remote, o.target = target ∧ o.lib = some lib ∧ o.sure = false ∧
        ∃ u, o.sent = some u ∧ u.toNat + 10000 ≤ s.bell.toNat) →
      ∃ t, exec (.pathSilenceTimeout target lib) s = .next t ∧ quiet t ∧ lib ∈ (p t).failed) ∧
    (pathSilent s target lib = false → exec (.pathSilenceTimeout target lib) s = .next s) ∧
    (∃ t, exec (.pathProbe target lib true) s = .next t ∧ quiet t ∧ lib ∉ (p t).failed ∧ (p t).libs = (p s).libs) ∧
    (lib ∈ (p s).failed → libLinked s lib = true →
      ((∀ u, lookupKey (p s).probed lib = some u → u.toNat + 5000 ≤ s.bell.toNat) →
        ∃ t, exec (.pathProbe target lib false) s = .next t ∧ quiet t ∧ t.outbox = s.outbox ++ [.probe target lib] ∧
          lookupKey (p t).probed lib = some s.bell ∧ (p t).failed = (p s).failed) ∧
      ∀ u, lookupKey (p s).probed lib = some u → s.bell.toNat < u.toNat + 5000 → exec (.pathProbe target lib false) s = .next s) ∧
    (∀ T f va, isTask s T.id T → T.requeues < 63 → abortsNow s T → noPathDue s target = true →
      pathWaiters s target = [(f.id, va)] → findFlight s f.id = some f → f.task = T.id →
      ∃ t, exec (.noPathTimeout target) s = .next t ∧ abortedTo t T) ∧
    (∀ T c u, isTask s T.id T → T.requeues < 63 → abortsNow s T → s.poolWaits = [⟨id, .task T.id c, lib, u⟩] →
      (libLinked s lib = true → exec (.poolLinkTimeout id) s = .next { s with poolWaits := [] }) ∧
      (libLinked s lib = false → ∃ t, exec (.poolLinkTimeout id) s = .next t ∧ t.poolWaits = [] ∧ abortedTo t T)) ∧
    ∀ r u, s.poolWaits = [⟨id, .access r, lib, u⟩] → libLinked s lib = false → s.fenced = [] →
      exec (.poolLinkTimeout id) s =
        .next { s with poolWaits := [], outbox := s.outbox ++ [.refusal r.src (.poolLost r.reqId) 0] }

/-- Requests of other packages are granted and performed here. -/
def Obligations.RemoteRequestsAreServed : Prop :=
  Claims.GrantsAreWalkedAndRecorded ∧ Claims.RemoteAccessesArePerformedHere

/-- Atomics that a library combines are performed as one access. -/
def Obligations.AtomicsThatALibraryCombinesAreOneAccess : Prop :=
  Claims.CombinedAtomicsAreOneAccess

/-- Slot buffers follow their header; pushes and marks end. -/
def Obligations.PushesAndMarksAreConcluded : Prop :=
  Claims.SlotBuffersFollowTheirHeader ∧ Claims.PushesAndMarksEnd

/-- Paths follow what is seen of them. -/
def Obligations.PathsFollowWhatIsSeenOfThem : Prop :=
  Claims.PathsFollowWhatIsSeenOfThem

/-! ## Events: tasks and the Dean -/

/-- R307, R308, R388, R401, R402, R409: an abort for requeue puts the task back with nothing on its cores; a lost acknowledgement is
one. It waits while a push that is granted is under way. What it then waits for is its cause's: the pager, LEASEMAX, or nothing. The 64th abort without a checkpoint ends it. -/
def Claims.AbortedTasksWaitForTheirCause : Prop :=
  ∀ (s : State) (T : Task) (f : Flight) (cause : AbortCause), isTask s T.id T →
    let stays := fun (c : ParkCond) => c = .owner ∨ c = .placement
    let waits := fun (U : Task) (cs : List ParkCond) => U.readySeq = T.readySeq ∧ U.records = T.records ∧
      ∀ c, c ∈ U.conds ↔ c ∈ T.conds ∧ stays c ∨ c ∈ cs
    (T.requeues < 63 → abortsNow s T → ∃ t U, exec (.taskAbort T.id cause) s = .next t ∧ abortedTo t T ∧ isTask t T.id U ∧
      (cause = .requeue → waits U []) ∧ (∀ k, cause = .machineCheck k → waits U []) ∧
      (cause = .remoteLost → waits U [.leasemax (s.bell + s.mgmt.leasemax)]) ∧ ∀ va k, cause = .pageFault va k → waits U [.page]) ∧
    ((s.flights.map (·.id)).Nodup → (∀ a ∈ s.aborts, a.1 ≠ T.id) → ∀ g req pkg d k c e len, g ∈ s.flights → g.task = T.id →
      g.kind = .push req pkg d (some k) c e len → ∃ t r, exec (.taskAbort T.id cause) s = .next t ∧ isTask t T.id T ∧ g ∈ t.flights ∧
        t.mem = s.mem ∧ t.aborts = s.aborts ++ [(T.id, cause, r)]) ∧
    (63 ≤ T.requeues → abortsNow s T → ∃ t, exec (.taskAbort T.id cause) s = .next t ∧ findTask t T.id = none ∧ ∀ g ∈ t.flights, g.task ≠ T.id) ∧
    (T.requeues < 63 → abortsNow s T → findFlight s f.id = some f → f.task = T.id →
      ∃ t, exec (.remoteAckDeadline f.id) s = .next t ∧ abortedTo t T)

/-- R290: the timer of a bin launches every delivered record as one task, under the next TASK_ID and ready sequence number. -/
def Claims.ABinTimerLaunchesItsRecords : Prop :=
  ∀ (s : State) (node g n : Nat) (o : Obj) (G : GraphObj) (u : Word), graphOfNode s node = some (g, n) →
    findObj s 967 g = some o → o.data = .graph G →
    let b := binOf s g n
    b.timer = some u → u.toNat ≤ s.bell.toNat → b.delivered ≠ [] →
    ∃ t T, exec (.binTimerExpire node) s = .next t ∧ t.tasks = s.tasks ++ [T] ∧ T.id = s.nextTask ∧ T.readySeq = s.nextSeq ∧
      T.graph = g ∧ T.node = n ∧ T.records = b.delivered ∧ T.phase = .pool ∧ T.conds = [] ∧ T.saved = false ∧
      t.nextTask = s.nextTask + 1 ∧ t.nextSeq = s.nextSeq + 1 ∧ t.mem = s.mem ∧ t.cores = s.cores ∧
      (binOf t g n).delivered = [] ∧ (binOf t g n).timer = none ∧ (binOf t g n).reserved = b.reserved

/-- R292, R303, R307, R388, R389: a task that has aged takes class 0; one whose page is resident, whose LEASEMAX has passed or
whose features can be placed again returns to the ready pool. Nothing else changes. -/
def Claims.ThePoolTakesTasksBack : Prop :=
  ∀ (s : State) (T : Task), isTask s T.id T →
    let back := fun (gone : ParkCond → Bool) => { T with
      conds := T.conds.filter fun c => !gone c, since := s.bell, poolTime := 0 }
    (T.phase = .pool → T.conds = [] → T.since.toNat + 1000000 ≤ s.bell.toNat →
      ∃ t, exec (.priorityAging T.id) s = .next t ∧ taskBecomes s t { T with poolTime := 1000000 } ∧
        effClass t { T with poolTime := 1000000 } = 0) ∧
    (.page ∈ T.conds → ∃ t, exec (.pagerResident T.id) s = .next t ∧ taskBecomes s t (back (· == .page))) ∧
    (∀ u : Word, T.conds = [.leasemax u] → u.toNat ≤ s.bell.toNat →
      ∃ t, exec (.leasemaxRequeueWait T.id) s = .next t ∧ taskBecomes s t (back fun _ => true)) ∧
    (.placement ∈ T.conds → featPlaceable s T = true → ∃ t, exec (.featChangeRetest T.id) s = .next t ∧
      taskBecomes s t { back (· == .placement) with faults := T.faults.filter fun r => !(r.code == 0x50 && r.sub == 3) })

/-- R119, R122, R148, R152, R296, R297, R298, R366, R389: admission takes TEAM cores of the die that fit, and places the task there
whole: cleared and waiting for its staging, or, when it was saved, as it stood and waiting for its restore. A region that fails
its checks cancels the task; features that no die has park it with a record. -/
def Claims.TasksAreAdmittedWhole : Prop :=
  ∀ (s : State) (T : Task) (die : Nat) (team : List Nat), isTask s T.id T → T.phase = .pool → T.conds = [] →
    imagesWaiting s T = false →
    let n := taskNode s T
    let i := Instr.taskAdmit T.id die
    (featPlaceable s T = false → ∃ t U, exec i s = .next t ∧ isTask t T.id U ∧ .placement ∈ U.conds ∧
      ∃ r ∈ U.faults, r.code = 0x50 ∧ r.sub = 3) ∧
    (featPlaceable s T = true → formTeam s T die = none → exec i s = .next s) ∧
    (featPlaceable s T = true → formTeam s T die = some team → regionsFault s T ≠ none →
      ∃ t, exec i s = .next t ∧ findTask t T.id = none) ∧
    (featPlaceable s T = true → formTeam s T die = some team → regionsFault s T = none →
      let placed := fun (t : State) (U : Task) (mode : BenchMode) => t.mem = s.mem ∧ isTask t T.id U ∧ U.die = die ∧
        U.cores.map (·.phys) = team ∧ (∀ c ∈ U.cores, c.map = U.cores.map fun x => (x.phys, x.base)) ∧
        ∀ c ∈ team, ∃ slots : List Nat, slots.length = n.benches ∧ ∀ b slot, slots[b]? = some slot →
          (getBench t c slot).task = T.id ∧ (getBench t c slot).benchT = b ∧ (getBench t c slot).mode = mode
      team.length = n.team ∧ (∀ c ∈ team, dieOf c = die ∧ coreFits s T c = true) ∧
      (T.saved = false → ∃ t U, exec i s = .next t ∧ placed t U .halted ∧ U.phase = .staging s.bell ∧
        U.groups = [(0, { Group.empty with members := allThreads n })] ∧
        ∀ c ∈ U.cores, c.staging = (stagedRegions n).map fun x => ⟨x.k, regionGranules x⟩) ∧
      (T.saved = true → T.fromCkpt = false → ∃ t U, exec i s = .next t ∧ placed t U .placed ∧ U.phase = .restoring) ∧
      (T.saved = true → T.fromCkpt = true → ∃ t U, exec i s = .next t ∧ placed t U .halted ∧ U.phase = .staging s.bell))

/-- R151, R298, R301, R303, R309: a granule that lands is copied from memory and waited for no more; a page fault before dispatch
parks the task for the pager, one afterwards aborts it; a task whose staging is over, or whose LEAD has passed, runs, or is
restored first where it restarts from a checkpoint. -/
def Claims.StagingLandsAndTheTaskIsDispatched : Prop :=
  ∀ (s : State) (T : Task), isTask s T.id T →
    (∀ (k r g : Nat) (x : RegionDesc) (a : Int) (p : Nat) (u : State), let c := taskCore T k
      (∃ e ∈ c.staging, e.region = r ∧ g ∈ e.waiting) → granuleSource (taskNode s T) k r g = some (x, a) → 0 ≤ a → a < 2 ^ 64 →
      hasPerm (nth (taskNode s T).args x.arg Cap.null) .remote = false →
      let sp := taskSpace s T
      translateBytes s c.phys sp sp.hlimit .load a.toNat 16 = .ok ((List.range 16).map (p + ·), u) →
      (∀ j, j < 16 → isMgmt (p + j) = false) → (getCore u c.phys).spad.wf = true →
      ∃ t U, exec (.stagingGranuleLand T.id k r g) s = .next t ∧ t.mem = u.mem ∧ isTask t T.id U ∧
        (∀ e ∈ (taskCore U k).staging, e.region = r → g ∉ e.waiting) ∧
        (∀ j, j < 16 → memByte (getCore t c.phys).spad (c.base + g + j) = memByte u.mem (p + j)) ∧
        ∀ o, o < c.base + g ∨ c.base + g + 16 ≤ o → memByte (getCore t c.phys).spad o = memByte (getCore u c.phys).spad o) ∧
    (∀ va k, T.cores ≠ [] → let i := Instr.stagingPageFault T.id va k
      (∀ b, T.phase = .staging b → ∃ t U, exec i s = .next t ∧ isTask t T.id U ∧ U.phase = .pool ∧ .page ∈ U.conds ∧
        U.cores = [] ∧ U.requeues = T.requeues ∧ ∀ g ∈ t.flights, g.task ≠ T.id) ∧
      ((∀ b, T.phase ≠ .staging b) → T.requeues < 63 → abortsNow s T → ∃ t, exec i s = .next t ∧ abortedTo t T)) ∧
    ∀ b : Word, T.phase = .staging b →
      let landed := ∀ c ∈ T.cores, c.staging = []
      let i := Instr.taskDispatch T.id
      (T.fromCkpt = false → landed ∨ b.toNat + leadOf s T ≤ s.bell.toNat →
        ∃ t U, exec i s = .next t ∧ t.mem = s.mem ∧ isTask t T.id U ∧ U.phase = .running ∧
          ∀ e ∈ taskBenches s T, (getBench t e.1 e.2).mode = .running ∧ (getBench t e.1 e.2).seats = (getBench s e.1 e.2).seats) ∧
      (T.fromCkpt = true → landed → ∃ t U, exec i s = .next t ∧ t.mem = s.mem ∧ isTask t T.id U ∧ U.phase = .restoring ∧
        ∀ e ∈ taskBenches s T, (getBench t e.1 e.2).mode = .placed) ∧
      (T.fromCkpt = true ∨ s.bell.toNat < b.toNat + leadOf s T → ¬landed → exec i s = .next s)

/-- R202, R204, R278, R288, R305, R400: a task whose threads have all exited, and whose staging has landed, publishes what it holds, each line at the page that its
translation names; then its storers write, for a region in another package it waits until that package has performed the writes, everything is released,
and its held records are delivered. -/
def Claims.TasksRetireInOrder : Prop :=
  ∀ (s u : State) (T : Task), isTask s T.id T →
    (∀ ps : List (HoldLine × Nat), T.phase = .running → allExited s T = true →
      (∀ c ∈ T.cores, c.staging = []) → (∀ f ∈ s.flights, f.task ≠ T.id) →
      publishPlan s (homeCore T) (taskSpace s T) (drained T).dieHold = .ok (ps, u) → u.mem.wf = true →
      (∀ p ∈ ps, isMgmt p.2 = false) → (ps.map (·.2)).Pairwise (fun a b => a + 64 ≤ b ∨ b + 64 ≤ a) →
      ∃ t U, exec (.taskRetire T.id) s = .next t ∧ isTask t T.id U ∧ U.phase = .storing ∧ U.dieHold = [] ∧
        (∀ c ∈ U.cores, c.hold = []) ∧
        (∀ p ∈ ps, ∀ k, k < 64 → memByte t.mem (p.2 + k) =
          if p.1.mask.getLsbD k = true then BitVec.ofNat 8 (p.1.data.toNat / 2 ^ (8 * k)) else memByte u.mem (p.2 + k)) ∧
        ∀ a, (∀ p ∈ ps, a < p.2 ∨ p.2 + 64 ≤ a) → memByte t.mem a = memByte u.mem a) ∧
    (T.phase = .storing → .page ∉ T.conds → storersOut s T.id = false → storeRegions s T = .ok u → storersOut u T.id = true →
      exec (.taskRetireRelease T.id) s = .next u) ∧
    (T.phase = .storing → .page ∉ T.conds → storersOut s T.id = false → storeRegions s T = .ok u → storersOut u T.id = false →
      (graphOf s T.graph).doneep.tag = false →
      (T.heldRecs = [] → ∃ t, exec (.taskRetireRelease T.id) s = .next t ∧ findTask t T.id = none ∧ t.mem = u.mem ∧ t.objs = u.objs ∧
        ∀ f ∈ t.flights, f.task ≠ T.id) ∧
      ∀ (g n : Nat) (d : BinRec) (o : Obj) (G : GraphObj) (pass seat : Nat), T.heldRecs = [⟨g, n, d, pass, seat⟩] → findObj u 967 g = some o →
        o.data = .graph G → (binOf u g n).delivered.length + 1 < (binNode u g n).count →
        ∃ t, exec (.taskRetireRelease T.id) s = .next t ∧ findTask t T.id = none ∧ t.mem = u.mem ∧
          (binOf t g n).delivered = (binOf u g n).delivered ++ [d] ∧ (binOf t g n).reserved = (binOf u g n).reserved - 1)

/-- R291, R295, R310, R311, R327, R331, R376, R377, R379: a halt stops every bench of the team, and for every request but a
checkpoint queues them to be saved; one that meets a halted team joins it; an abort aborts. What asks for a halt: an implicit
checkpoint, also for a seat stalled in `emit`, unless CKPTAREA fails and the task ends; a task blocked for 4 µs; a task that has
had no die for 50 µs. A checkpoint that completes becomes the restart point, and the team goes on. -/
def Claims.TeamsHaltAndCheckpoint : Prop :=
  ∀ (s : State) (T : Task), isTask s T.id T → (∀ V ∈ s.tasks, ∀ c ∈ V.cores, ((getCore s c.phys).benches.map (·.1)).Nodup) →
    let halted := fun (t : State) (V : Task) (why : HaltWhy) =>
      (∃ U, isTask t V.id U ∧ U.phase = .halted why) ∧ t.mem = s.mem ∧
      (∀ e ∈ taskBenches s V, (getBench t e.1 e.2).mode ≠ .running) ∧
      (why ≠ .checkpoint → ∀ e ∈ taskBenches s V, (getBench s e.1 e.2).benchT < 64 →
        (∀ e' ∈ taskBenches s V, e'.1 = e.1 → (getBench s e'.1 e'.2).benchT = (getBench s e.1 e.2).benchT → e' = e) →
        e.2 ∈ (getCore t e.1).saveQ)
    (∀ why, why ≠ .abort → why ≠ .machineCheck →
      (T.phase = .running → ∃ t, exec (.teamHalt T.id why) s = .next t ∧ halted t T why) ∧
      ∀ w, T.phase = .halted w → ∃ t U, exec (.teamHalt T.id why) s = .next t ∧ isTask t T.id U ∧ U.phase = .halted w ∧
        U.haltQ = T.haltQ ++ [why]) ∧
    (T.requeues < 63 → abortsNow s T → ∀ why, why = .abort ∨ why = .machineCheck →
      ∃ t, exec (.teamHalt T.id why) s = .next t ∧ abortedTo t T) ∧
    (∀ bin, T.phase = .running → ckptFault s (taskSpaceNum s T) (taskNode s T) = none →
      ∃ t, exec (.implicitCheckpoint T.id bin) s = .next t ∧ halted t T .checkpoint) ∧
    (∀ bin, ckptFault s (taskSpaceNum s T) (taskNode s T) ≠ none →
      ∃ t, exec (.implicitCheckpoint T.id bin) s = .next t ∧ findTask t T.id = none) ∧
    (∀ (core slot k g e pass : Nat) (addr since : Word) (x : Nat × Nat × Bool), k < 32 → Shaped (getBench s core slot) →
      (getSeat (getBench s core slot) k).state = .blocked (.emit g e addr since pass) → since.toNat + 20000 ≤ s.bell.toNat →
      (graphOf s g).edges[e]? = some x → T ∈ s.tasks → 0 < placesHeld T g x.2.1 →
      (∀ V ∈ s.tasks, V ≠ T → placesHeld V g x.2.1 < placesHeld T g x.2.1 ∨
        placesHeld V g x.2.1 = placesHeld T g x.2.1 ∧ T.id.toNat < V.id.toNat) → T.phase = .running →
      ckptFault s (taskSpaceNum s T) (taskNode s T) = none →
      ∃ t, exec (.emitStallTimeout core slot k) s = .next t ∧ halted t T .checkpoint) ∧
    (endpointBlocked s T = true → T.blockedSince ≠ 0 → T.blockedSince.toNat + 4000 ≤ s.bell.toNat →
      ∃ t, exec (.parkBlockedTask T.id) s = .next t ∧ halted t T .parkBlocked) ∧
    (∀ (d : Nat) (vs : List Task), (s.tasks.map (·.id)).Nodup → T.phase = .pool → T.conds = [] → starved s T = true →
      (List.range Config.dies).findSome? (fun d => enoughVictims T d (afterHalts s) (victims s d (effClass s T))) = some vs →
      enoughVictims T d (afterHalts s) (victims s d (effClass s T)) = some vs →
      ∃ t, exec (.deanPreempt T.id) s = .next t ∧ ∀ V ∈ vs, V.die = d ∧ V.phase = .running ∧ effClass s T < (taskNode s V).prio ∧
        ∃ U, isTask t V.id U ∧ U.phase = .halted .deanPreempt) ∧
    (∀ (u : State) (V : Task), T.phase = .halted .checkpoint → T.haltQ = [] → ckptClear s T = true →
      takeCheckpoint s T = .ok (u, V) →
      ∃ t U, exec (.checkpointComplete T.id) s = .next t ∧ isTask t T.id U ∧ U.phase = .running ∧ U.requeues = 0 ∧
        U.dieHold = [] ∧ U.heldRecs = [] ∧ U.reserved = [] ∧
        (∃ c, U.restart = some c ∧ c.cores.length = T.cores.length ∧ c.half = match T.restart with
          | some x => 1 - x.half
          | none => 0) ∧
        ∀ e ∈ taskBenches s T, (getBench s e.1 e.2).mode = .halted → (getBench t e.1 e.2).mode = .running ∧
          ∀ k, k < 32 → (getSeat (getBench s e.1 e.2) k).state = .blocked .ckpt → (getSeat (getBench t e.1 e.2) k).state = .eligible)

/-- R335, R366, R380, R382: a save, restore or fault run opens on the core's monitor bench: seat 0 alone, at the entry of its
kind, with the handler registers that name the bench and say why; no other bench is touched. -/
def Claims.RunsOfTheMonitorOpen : Prop :=
  ∀ (s : State) (core slot : Nat) (T : Task), isTask s (getBench s core slot).task T →
    let opened := fun (t : State) (k : RunKind) (f : Option FaultInfo) (slot : Nat) (cause : Nat) (entry : Word) =>
      let m := getBench t core 64
      t = { s with cores := t.cores } ∧ (getCore t core).run = some ⟨k, f⟩ ∧ m.mode = .running ∧ m.vrows = [] ∧
      (getSeat m 0).state = .eligible ∧ (getSeat m 0).pc = capCursor s.monitorCode + entry ∧
      (∀ j, 0 < j → j < 32 → (getSeat m j).state = .exited) ∧ (getCore t core).tregs.tbench = BitVec.ofNat 7 slot ∧
      (getCore t core).tregs.tcause = BitVec.ofNat 16 cause ∧ (getCore t core).tregs.tctx = benchCtx s (getBench s core slot) ∧
      ∀ c j, ¬(c = core ∧ j = 64) → getBench t c j = getBench s c j
    let noFault := fun (t : State) => (getCore t core).tregs.tifa = 0 ∧ (getCore t core).tregs.taddr = 0 ∧
      (getCore t core).tregs.tmask = 0 ∧
      readC (getBench t core 64) 1 0 = saveArea s T (coreTOf T core) (getBench s core slot).benchT
    (saveReady s core slot = true → ∃ t, exec (.saveRunOpen core slot) s = .next t ∧ opened t .save none slot 0x0100 0 ∧
      noFault t ∧ (∀ j, j ∈ (getCore t core).saveQ ↔ j ∈ (getCore s core).saveQ ∧ j ≠ slot)) ∧
    (restoreReady s core slot = true → ∃ t, exec (.restoreRunOpen core slot) s = .next t ∧
      opened t .restore none slot 0x0200 0x10 ∧ noFault t ∧
      (∀ j, j ∈ (getCore t core).restoreQ ↔ j ∈ (getCore s core).restoreQ ∧ j ≠ slot)) ∧
    ∀ f, runFree s core = true → faultReady s core = some f → f.slot = slot →
      ∃ t, exec (.faultRunOpen core) s = .next t ∧ opened t .fault (some f) slot (f.code + 256 * f.sub) 0x24 ∧
        (getCore t core).tregs.tifa = f.ifa ∧ (getCore t core).tregs.taddr = f.addr ∧ (getCore t core).tregs.tmask = f.mask ∧
        (getCore t core).tregs.tresume = f.resume ∧ (getCore t core).tregs.tindex = BitVec.ofNat 5 (min 16 f.index)

/-- R386: the answer to a task's one record: RESUME and SKIP return it to the ready pool; REQUEUE aborts it; FAIL, any other value
and a right that is gone end it. -/
def Claims.RecordsAreAnswered : Prop :=
  ∀ (s : State) (T : Task) (r : FaultRec), isTask s T.id T → T.faults = [r] → r.sent = true → r.answer = none →
    ¬(r.code = 0x50 ∧ r.sub = 3) →
    let i := fun w => Instr.faultDisposition T.id w
    let resumed := fun (t : State) => ∃ U, isTask t T.id U ∧ U.faults = [] ∧ U.since = s.bell ∧
      (∀ c, c ∈ U.conds ↔ c ∈ T.conds ∧ c ≠ .records) ∧ U.phase = T.phase ∧ U.readySeq = T.readySeq
    (∃ t, exec (i (some 0)) s = .next t ∧ resumed t ∧ (r.past = false → r.moved = false → t.mem = s.mem)) ∧
    (∃ t, exec (i (some 1)) s = .next t ∧ resumed t) ∧
    (T.requeues < 63 → abortsNow s T → ∃ t, exec (i (some 2)) s = .next t ∧ abortedTo t T) ∧
    (∀ w : Option Word, (∀ v ∈ w, 3 ≤ v.toNat) → ∃ t, exec (i w) s = .next t ∧ findTask t T.id = none)

/-- R397, R398: a machine check is logged and counted; REGISTER aborts the task, CONTROL every task with a bench on the core,
which leaves service, MONITOR the target of the open run, which ends; STOP stops the package. -/
def Claims.MachineChecksHaltWhatTheyName : Prop :=
  ∀ (s : State) (core : Nat) (aux : Word), (s.tasks.map (·.id)).Nodup →
    let noted := fun (t : State) (sub : Word) => ⟨.machineCheck, s.seqLog, s.bell, sub⟩ ∈ t.log ∧ t.mgmt.mcEvents = s.mgmt.mcEvents + 1
    (∀ T, isTask s T.id T → T.requeues < 63 → abortsNow s T → ∃ t, exec (.machineCheck 1 core T.id aux) s = .next t ∧ noted t 1 ∧ abortedTo t T) ∧
    (∀ id, ∃ t, exec (.machineCheck 2 core id aux) s = .next t ∧ noted t 2 ∧ (getCore t core).outOfService = true ∧
      (getCore t core).run = none ∧
      ∀ T, isTask s T.id T → T.requeues < 63 → abortsNow s T → (∃ c ∈ T.cores, c.phys = core) → abortedTo t T) ∧
    (∀ T id, isTask s T.id T → T.requeues < 63 → abortsNow s T → (getCore s core).run.isSome = true →
      (getBench s core (getCore s core).tregs.tbench.toNat).task = T.id →
      ∃ t, exec (.machineCheck 3 core id aux) s = .next t ∧ noted t 3 ∧ (getCore t core).run = none ∧ abortedTo t T) ∧
    ∀ id, ∃ t, exec (.machineCheck 4 core id aux) s = .next t ∧ noted t 4 ∧ t.stopped = true

/-- R327: what reaches a parked seat is written into its image, whose seat stands unblocked past its instruction; the task is no
longer parked for it. -/
def Claims.WhatReachesAParkedSeatIsKept : Prop :=
  ∀ (s : State) (T : Task) (c b k n : Nat) (q : DReg) (ldc : Bool) (bdg w : Word), isTask s T.id T → T.saved = true → k < 32 →
    s.mem.wf = true → lookupKey T.savedWaits ⟨c, b, k⟩ = some (.recv 964 n q 0 ldc bdg) → q.isV = true →
    let N := taskNode s T
    let img := T.saveBase.toNat + imgPlace N c b
    let rows := img + imgSecOff N.rows N.capRows (imgAcc N b) 3
    (∀ a, img ≤ a → a < rows + 0x8000 → isMgmt a = false) → physValue s rows 8 ≤ 48 →
    ∃ t U, exec (.parkedDelivery T.id c b k (.word w bdg)) s = .next t ∧ isTask t T.id U ∧ t.cores = s.cores ∧
      lookupKey U.savedWaits ⟨c, b, k⟩ = none ∧ .blocked ∉ U.conds ∧
      physValue t (img + 8 * k) 8 = (physValue s (img + 8 * k) 8 + 4) % 2 ^ 64 ∧ physValue t (img + 0x220 + k) 1 = 0 ∧
      physValue t (img + 0x200 + k) 1 = min 16 (physValue s (img + 0x200 + k) 1 + 1) ∧ physValue t (img + 0x300 + 8 * k) 8 = 0 ∧
      ∀ o, imgRow s rows 0x180 q.code = some o →
        physValue t (o + 0x80 + 8 * k) 8 = w.toNat ∧ (physValue t (o + 8) 4).testBit k = true

/-- R338, R371, R372: a `bsave` or `brest` in flight completes and its flag falls: a `bsave` has written its section, zero where
the section says nothing; a `brest` of the rows has installed them. -/
def Claims.ImageSectionsComplete : Prop :=
  ∀ (s : State) (f : Flight) (T : Task) (sec : Nat) (c : Cap), inFlight s f → f.slot = 64 →
    let slot := (getCore s f.core).tregs.tbench.toNat
    let pa := (capCursor c).toNat
    isTask s (getBench s f.core slot).task T → slot ≠ 64 → isMgmt pa = false → s.mem.wf = true →
    (f.kind = .image false sec c → ∃ t, exec (.imageSectionComplete f.id) s = .next t ∧ f ∉ t.flights ∧ flagFalls s t f ∧
      t.tasks = s.tasks ∧ (∀ a, a < pa → memByte t.mem a = memByte s.mem a) ∧
      ((imgPieces s T f.core slot sec).Pairwise (fun x y => x.off + x.bytes.length ≤ y.off ∨ y.off + y.bytes.length ≤ x.off) →
        (∀ p ∈ imgPieces s T f.core slot sec, p.off + p.bytes.length ≤ imgBytes s T f.core slot sec) →
        (∀ p ∈ imgPieces s T f.core slot sec, memBytes t.mem (pa + p.off) p.bytes.length = p.bytes) ∧
        (∀ a, pa + imgBytes s T f.core slot sec ≤ a → memByte t.mem a = memByte s.mem a) ∧
        ∀ j, j < imgBytes s T f.core slot sec → (∀ p ∈ imgPieces s T f.core slot sec, j < p.off ∨ p.off + p.bytes.length ≤ j) →
          memByte t.mem (pa + j) = 0)) ∧
    (f.kind = .image true 3 c → ∃ t, exec (.imageSectionComplete f.id) s = .next t ∧ f ∉ t.flights ∧ flagFalls s t f ∧
      t.mem = s.mem ∧ t.tasks = s.tasks ∧
      getBench t f.core slot = { getBench s f.core slot with vrows := rowsFrom s pa })

/-- The Dean takes tasks back and admits them whole. -/
def Obligations.TheDeanAdmitsTasks : Prop :=
  Claims.AbortedTasksWaitForTheirCause ∧ Claims.ThePoolTakesTasksBack ∧ Claims.TasksAreAdmittedWhole

/-- Tasks are launched, staged, dispatched and retired. -/
def Obligations.TasksAreLaunchedStagedAndRetired : Prop :=
  Claims.ABinTimerLaunchesItsRecords ∧ Claims.StagingLandsAndTheTaskIsDispatched ∧ Claims.TasksRetireInOrder

/-- Teams halt, checkpoint and are saved. -/
def Obligations.TeamsHaltAndAreSaved : Prop :=
  Claims.TeamsHaltAndCheckpoint ∧ Claims.RunsOfTheMonitorOpen ∧ Claims.ImageSectionsComplete

/-- Fault records are answered, machine checks halt what they name, and deliveries to parked seats are kept. -/
def Obligations.FaultsAreDisposedOf : Prop :=
  Claims.RecordsAreAnswered ∧ Claims.MachineChecksHaltWhatTheyName ∧ Claims.WhatReachesAParkedSeatIsKept

/-! ## Events: the board -/

/-- R203, R210, R414, R433, R434: the holder of the hall pass sends its service frames, a beacon with the bell of its transmission, a join with the number of the last post; then, with no post queued, the pass with its LAST to the next
member; else the posts of its passes, numbered on from its last, with what they release drained to the die, and keeps the pass until they come back. -/
def Claims.TheHallPassSendsWhatIsQueued : Prop :=
  ∀ (s : State) (k : Nat) (g : BoardGroup), lookupKey s.board k = some g →
    (g.holds = false → exec (.hallPassReceive k) s = .next s) ∧
    (g.holds = true → g.queue = [] → g.members ≠ [] → ∃ t, exec (.hallPassReceive k) s = .next t ∧ onlyGroup s t k ∧
      t.outbox.length = s.outbox.length + g.service.length + 1 ∧
      (∀ j n, g.service[j]? = some n → t.outbox[s.outbox.length + j]? =
        some (.frame k (ownFrame s g j n.kind g.last (if n.kind = 1 then s.bell else n.w0) n.w1
          (if n.kind = 4 then BitVec.ofNat 64 g.last else n.w2)))) ∧
      t.outbox[s.outbox.length + g.service.length]? = some (.frame k (ownFrame s g g.service.length 5 g.last
        (BitVec.ofNat 64 g.last) (BitVec.ofNat 64 ((g.me + 1) % g.members.length)) 0))) ∧
    (g.holds = true → g.service = [] → g.queue ≠ [] → g.queue.Nodup → g.queue.length ≤ 64 →
      (∀ x ∈ g.queue, x.sent = none ∧ postReady s x = true) → (∀ x ∈ g.queue, ∀ y ∈ g.queue, x.pass = y.pass) →
      ∃ t h, exec (.hallPassReceive k) s = .next t ∧ onlyGroup s { t with tasks := s.tasks } k ∧ lookupKey t.board k = some h ∧
        h.holds = true ∧ (∀ x ∈ g.queue, ∀ U, findTask t x.task = some U → (taskCore U x.thread.coreT).hold = []) ∧
        (∀ T ∈ s.tasks, (∀ x ∈ g.queue, x.task ≠ T.id) → T ∈ t.tasks) ∧ t.outbox.length = s.outbox.length + g.queue.length ∧ h.queue.length = g.queue.length ∧
        ∀ j x, g.queue[j]? = some x →
          t.outbox[s.outbox.length + j]? = some (.frame k (ownFrame s g j 0 (g.last + 1 + j) x.w0 x.w1 x.w2)) ∧
          h.queue[j]? = some { x with sent := some (g.last + 1 + j) })

/-- R414, R415, R416, R436: the next post is accepted, logged and delivered to every seat that waits for it, and to the seat whose
post it is, with its number; a post beyond the next makes the member leave; one of another generation is discarded. -/
def Claims.PostsAreAcceptedInOrder : Prop :=
  ∀ (s : State) (k : Nat) (g : BoardGroup) (f : Frame), lookupKey s.board k = some g → g.isMember = true → frameOk f = true →
    let i := Instr.programPost k f
    (f.gen = g.gen → f.number = g.last + 1 → f.source ≠ s.pkg → ∃ t h, exec i s = .next t ∧ t.mem = s.mem ∧ t.tasks = s.tasks ∧
      lookupKey t.board k = some h ∧ h.last = f.number ∧ f ∈ h.log ∧ h.queue = g.queue ∧
      ∀ core slot j q n, slot ≠ 64 → j < 32 → Shaped (getBench s core slot) → q.isV = true →
        (getSeat (getBench s core slot) j).state = .blocked (.bwait k q n) → n = 0 ∨ n.toNat = f.number →
        wentOn s t core slot j ∧ readD (getBench t core slot) q j = f.w0 ∧ readD (getBench t core slot) (q.plus 1) j = f.w1 ∧
          readD (getBench t core slot) (q.plus 2) j = f.w2 ∧
          (n = 0 → readD (getBench t core slot) (q.plus 3) j = BitVec.ofNat 64 f.number)) ∧
    (∀ x T core slot q, f.gen = g.gen → f.number = g.last + 1 → f.source = s.pkg →
      (g.queue.find? fun x => x.sent == some f.number) = some x → isTask s x.task T →
      liveBench s T x.thread = some (core, slot) → x.thread.seat < 32 → Shaped (getBench s core slot) → q.isV = true →
      (getSeat (getBench s core slot) x.thread.seat).state = .blocked (.bpost k q) →
      ∃ t h, exec i s = .next t ∧ t.mem = s.mem ∧ lookupKey t.board k = some h ∧ h.last = f.number ∧
        (∀ y, y ∈ h.queue ↔ y ∈ g.queue ∧ y ≠ x) ∧ wentOn s t core slot x.thread.seat ∧
        readD (getBench t core slot) (q.plus 3) x.thread.seat = BitVec.ofNat 64 f.number) ∧
    (f.gen = g.gen → g.last + 1 < f.number → ∃ t, exec i s = .next t ∧ leavesGroup s t k) ∧
    (f.gen = g.gen → f.number ≤ g.last → ∃ t h, exec i s = .next t ∧ onlyGroup s t k ∧ lookupKey t.board k = some h ∧
      h = { g with lastHeard := s.bell }) ∧
    (f.gen ≠ g.gen → f.source ≠ s.pkg → exec i s = .next s)

/-- R416, R433, R435 to R437, R453: a pass frame brings its generation and the pass to the member that it names; damaged frames
wait for it, and a greater LAST then, a second regeneration, a holder's own damaged post or the loss of the fibres make the
member leave; a silent group's pass is regenerated; a join that is asked for is announced, and
begins the log anew; BGCTL asks for one. -/
def Claims.MembersKeepTheBoardOrder : Prop :=
  ∀ (s : State) (k : Nat) (g : BoardGroup) (f : Frame) (v : Word), lookupKey s.board k = some g →
    let becomes := fun (t : State) (h : BoardGroup) => onlyGroup s t k ∧ lookupKey t.board k = some h
    let named := bits f.w1 5 0
    (g.isMember = true → frameOk f = true → g.gen.toNat ≤ f.gen.toNat → named ≠ f.member →
      (g.aside = [] ∨ f.w0.toNat ≤ g.last) → ∃ t, exec (.passFrame k f) s = .next t ∧ becomes t { g with
        gen := f.gen, aside := [], lastHeard := s.bell, adopted := if f.gen = g.gen then g.adopted else some f.gen
        holds := decide (named = g.me) || (f.gen == g.gen && g.holds) }) ∧
    (g.isMember = true → frameOk f = true → f.gen = g.gen →
      (named ≠ f.member ∧ g.aside ≠ [] ∧ g.last < f.w0.toNat) ∨
        (named = f.member ∧ g.adopted = some f.gen ∧ f.source ≠ s.pkg) →
      ∃ t, exec (.passFrame k f) s = .next t ∧ leavesGroup s t k) ∧
    (g.isMember = true → ¬(g.holds = true ∧ f.source = s.pkg ∧ f.kind = 0) →
      ∃ t, exec (.frameCheckFail k f) s = .next t ∧ becomes t { g with aside := g.aside ++ [f], lastHeard := s.bell }) ∧
    (g.isMember = true → g.holds = true → f.source = s.pkg → f.kind = 0 →
      ∃ t, exec (.frameCheckFail k f) s = .next t ∧ leavesGroup s t k) ∧
    (∃ t, exec (.boardFibreLoss k) s = .next t ∧ leavesGroup s t k) ∧
    (g.isMember = true → ∃ t, exec (.hallPassRegenerate k) s = .next t ∧
      becomes t { g with gen := g.gen + 1, adopted := some (g.gen + 1), holds := true, lastHeard := s.bell, seq := g.seq + 1 } ∧
      t.outbox = s.outbox ++ [.frame k (sealFrame { ownFrame s g 0 5 g.last (BitVec.ofNat 64 g.last) (BitVec.ofNat 64 g.me) 0 with
        gen := g.gen + 1 })]) ∧
    (∀ m pkg, g.isMember = true → g.members[m]? = some pkg → ∃ t, exec (.membership k (.asked m pkg)) s = .next t ∧
      becomes t { g with service := g.service ++ [⟨4, BitVec.ofNat 64 m, BitVec.ofNat 64 pkg, 0⟩] }) ∧
    (frameOk f = true → g.rejoin = true → bits f.w1 10 0 = s.pkg → bits f.w0 5 0 = g.me → ∃ t h, exec (.membership k (.frame f)) s = .next t ∧ becomes t h ∧
      h.isMember = true ∧ h.last = f.w2.toNat ∧ h.horizon = f.w2.toNat ∧ h.log = [] ∧ h.rejoin = false ∧ h.me = g.me) ∧
    ∃ t h, exec (.bgctlWrite v) s = .next t ∧ t = { s with board := t.board, outbox := t.outbox } ∧
      (v.getLsbD (16 + k) = true → g.named = true → g.isMember = false → .joinAsk k g.me ∈ t.outbox) ∧ lookupKey t.board k = some h ∧
      h = { g with rejoin := g.rejoin || (v.getLsbD (16 + k) && g.named && !g.isMember) }

/-- R10, R435, R438, R447: a locked package queues a beacon with its stratum and reference on each group where no member has a lower
stratum; a receiver takes the stratum plus 1 and is locked within 150 ns; its bell steps forward only before its first task and before a host kernel names a
reference, and never backward. A package that loses its lock takes stratum 5 and logs it. -/
def Claims.TheBellFollowsItsBeacons : Prop :=
  ∀ (s : State) (k : Nat) (g : BoardGroup) (f : Frame), lookupKey s.board k = some g → (s.board.map (·.1)).Nodup →
    (s.lock.locked = false → exec .bellBeaconSend s = .next s) ∧
    (s.lock.locked = true → g.isMember = true →
      (∀ m ∈ g.strata, m.1 = g.me ∨ s.lock.stratum < m.2 ∨ m.2 = s.lock.stratum ∧ g.me < m.1) →
      ∃ t, exec .bellBeaconSend s = .next t ∧ t.bell = s.bell ∧ t.mem = s.mem ∧
        t.outbox = s.outbox ∧ t.lock = { s.lock with lastSent := s.bell } ∧ lookupKey t.board k = some { g with service := g.service ++
          [⟨1, 0, BitVec.ofNat 64 (s.lock.stratum % 256 + s.lock.reference % 2048 * 65536), 0⟩] }) ∧
    (g.isMember = true → frameOk f = true → f.gen = g.gen →
      let st := bits f.w1 7 0
      let bell := f.w0 + BitVec.ofNat 64 (Config.beaconDelay k f.member)
      (s.lock.stratum = 0 ∨ 4 ≤ st → ∃ t, exec (.bellBeacon k f) s = .next t ∧ t.lock = s.lock ∧ t.bell = s.bell) ∧
      (s.lock.stratum ≠ 0 → st < 4 → (s.lock.locked = true → st + 1 ≤ s.lock.stratum) →
        ∃ t, exec (.bellBeacon k f) s = .next t ∧ t.mem = s.mem ∧ t.tasks = s.tasks ∧ t.lock.stratum = st + 1 ∧
          t.lock.reference = bits f.w1 26 16 ∧ t.lock.lastBeacon = t.bell ∧ s.bell.toNat ≤ t.bell.toNat ∧
          (s.nextTask ≠ 1 ∨ s.lock.named = true → t.bell = s.bell) ∧ (s.nextTask = 1 → s.lock.named = false → s.bell.toNat < bell.toNat → t.bell = bell) ∧
          (t.lock.locked = true ↔ ((bell.toNat : Int) - t.bell.toNat).natAbs ≤ 150))) ∧
    ∃ t, exec .bellUnlock s = .next t ∧ t.lock = { s.lock with locked := false, stratum := 5 } ∧ t.mem = s.mem ∧
      t.log = s.log ++ [⟨.bellUnlock, s.seqLog, s.bell, BitVec.ofNat 64 s.lock.reference⟩]

/-! ## Events: revocation -/

/-- R362, R435, R436, R439: a notice of another package quarantines the remote region that it names, to be swept, through the fabric
or by a frame of a board group, which is accepted in the group's generation alone. -/
def Claims.NoticesQuarantine : Prop :=
  (∀ (s : State) (origin slot : Nat) (base len : Word) (num : Word32), origin ≠ s.pkg →
    (∀ r ∈ s.quarantine, ¬(r.origin = some origin ∧ r.num = num.toNat)) →
    ∃ t r, exec (.revocationNotice (.fabric origin) slot base len num) s = .next t ∧ t = { s with quarantine := t.quarantine } ∧
      t.quarantine = s.quarantine ++ [r] ∧ r.num = num.toNat ∧ r.len = len.toNat ∧ r.origin = some origin ∧ r.target = none ∧
      r.joined = false ∧ r.swept = false ∧
      r.base = BitVec.ofNat 64 (origin * 2 ^ 53 + slot % 256 * 2 ^ 45 + base.toNat % 2 ^ 45)) ∧
  ∀ (s : State) (k slot : Nat) (g : BoardGroup) (f : Frame) (base len : Word) (num : Word32), lookupKey s.board k = some g →
    g.isMember = true → frameOk f = true → f.kind = 2 →
    let i := Instr.revocationNotice (.board k f) slot base len num
    (f.gen ≠ g.gen → exec i s = .next s) ∧
    (f.gen = g.gen → bits f.w0 63 53 ≠ s.pkg → (∀ r ∈ s.quarantine, ¬(r.origin = some (bits f.w0 63 53) ∧ r.num = bits f.w2 31 0)) →
      ∃ t r, exec i s = .next t ∧ t = { s with quarantine := t.quarantine, board := t.board } ∧ t.quarantine = s.quarantine ++ [r] ∧
        r.num = bits f.w2 31 0 ∧ r.len = f.w1.toNat ∧ r.origin = some (bits f.w0 63 53) ∧ r.target = none ∧ r.joined = false ∧
        r.swept = false ∧ r.base = f.w0)

/-- R362 to R364: the steps of a sweep clear, in order, the capabilities that a revocation quarantines: those in the registers of
its address space's benches, in the holds, in the allocations, in the hc registers of every hart, and in the space's frames, with
the tags of the region itself. A capability that no revocation names keeps its tag; bytes stay. The sweep ends with the last. -/
def Claims.TheEraserSweeps : Prop :=
  ∀ (s : State) (r : Revocation),
    let mine := fun (T : Task) => taskSpaceNum s T = r.aspace
    (s.sweepStep = 0 → r ∈ s.quarantine → r.joined = false → r.swept = false → r.origin = none → r.target = none →
      ∃ t, exec .eraserSweep s = .next t ∧ t.sweepStep = 1 ∧ t.mem = s.mem ∧ (∀ x ∈ t.quarantine, x.joined = true) ∧
        ∀ core slot c k T, isTask s (getBench s core slot).task T →
          let x := readC (getBench s core slot) c k
          let y := readC (getBench t core slot) c k
          y.bits = x.bits ∧ (y.tag = true → x.tag = true) ∧ (mine T → capIn r x = true → y.tag = false) ∧
            ((∀ z ∈ s.quarantine, z.target = none ∧ capIn z x = false) → y.tag = x.tag)) ∧
    (s.sweepStep = 1 → sweeping s r → ∃ t, exec .eraserSweep s = .next t ∧ t.sweepStep = 2 ∧
      ∀ U, isTask t U.id U → mine U → ∀ l, (l ∈ U.dieHold ∨ ∃ c ∈ U.cores, l ∈ c.hold) → ∀ j, j < 4 →
        nth l.tags j none = some true → capIn r ⟨BitVec.ofNat 128 (l.data.toNat / 2 ^ (128 * j)), true⟩ = false) ∧
    (s.sweepStep = 2 → sweeping s r → ∃ t, exec .eraserSweep s = .next t ∧ t.sweepStep = 3 ∧ t.mem = s.mem ∧ ∀ core a,
      memByte (getCore t core).spad a = memByte (getCore s core).spad a ∧
      (∀ T ∈ s.tasks, mine T → (∃ c ∈ T.cores, c.phys = core ∧ c.base ≤ 16 * a ∧ 16 * a < c.base + allocSize s T) →
        capIn r (capOfBytes (memBytes (getCore s core).spad (16 * a) 16) true) = true →
        memTag (getCore t core).spad (16 * a) = false)) ∧
    (s.sweepStep = 3 → sweeping s r → ∃ t, exec .eraserSweep s = .next t ∧ t.sweepStep = 4 ∧ t.mem = s.mem ∧ t.cores = s.cores ∧
      ∀ h x, (h, x) ∈ t.harts → ∀ c ∈ x.hc, capIn r c = true → c.tag = false) ∧
    (s.sweepStep = 4 → sweeping s r → ∃ t, exec .eraserSweep s = .next t ∧ t.sweepStep = 0 ∧ t.cores = s.cores ∧
      { r with swept := true } ∈ t.quarantine ∧
      (∀ z ∈ s.quarantine, ∀ p, z.joined = true → z.swept = false → z.origin = some p → .ack p z.num ∈ t.outbox) ∧
      ∀ a, memByte t.mem a = memByte s.mem a ∧ (memTag t.mem a = true → memTag s.mem a = true) ∧
        (frameMine s (16 * a) r.aspace = true → capIn r (capOfBytes (memBytes s.mem (16 * a) 16) true) = true →
          memTag t.mem (16 * a) = false) ∧
        (regionBytes s (16 * a) r = true → memTag t.mem (16 * a) = false))

/-- R241, R348, R363, R365, R439: a revocation completes when its sweep has ended, every package has answered and nothing under it is
in flight: it leaves the quarantine, and 2^(n mod 63) enters REVN. A destruction that has been swept completes with bit 63, and its
object is gone. A package that has not answered for 1 s is fenced and told again; its acknowledgement ends the wait and the fence. -/
def Claims.RevocationsComplete : Prop :=
  ∀ (s : State) (r : Revocation) (N : Nat) (w : Word), r ∈ s.quarantine → r.origin = none →
    (∀ x ∈ s.quarantine, x.num = r.num → x.origin = none → x.target = r.target → x = r) →
    capNum (aspaceObj s r.aspace).revn = N → objGone s 964 N = false → notificationIs s N w [] →
    (r.target = none → r.swept = true → r.waitFor = [] → revokeQuiet s r = true →
      ∃ t, exec (.revocationComplete r.num) s = .next t ∧ r ∉ t.quarantine ∧ t.mem = s.mem ∧ t.cores = s.cores ∧
        notificationIs t N (w ||| BitVec.ofNat 64 (2 ^ (r.num % 63))) []) ∧
    (r.target = none → r.swept = false ∨ r.waitFor ≠ [] → exec (.revocationComplete r.num) s = .next s) ∧
    (∀ ty n o, r.target = some (ty, n) → (∀ x ∈ s.quarantine, x.target = some (ty, n) → x = r) → r.swept = true →
      (ty, n) ≠ (964, N) → findObj s ty n = some o → ∃ t, exec (.destroyComplete ty n) s = .next t ∧ r ∉ t.quarantine ∧
        t.mem = s.mem ∧ notificationIs t N (w ||| 0x8000000000000000) [] ∧
        (ty = 974 → findObj t ty n = none) ∧ (ty ≠ 974 → ∃ p, findObj t ty n = some p ∧ p.dead = true)) ∧
    (r.target = none → ∀ src, src ∈ r.waitFor → r.deadline.toNat ≤ s.bell.toNat →
      ∃ t q, exec (.revocationFence src r.num) s = .next t ∧ (∃ x ∈ t.fenced, x.pkg = src ∧ x.num = r.num) ∧ q ∈ t.quarantine ∧
        q = { r with waitFor := r.waitFor.filter (· != src) } ∧ ∃ w0 w1, t.outbox = s.outbox ++ [.notice src w0 w1 (BitVec.ofNat 64 (r.num % 2 ^ 32))]) ∧
    (r.target = none → ∀ src, ∃ t, exec (.revocationAck src r.num) s = .next t ∧
      t = { s with quarantine := t.quarantine, fenced := t.fenced } ∧ { r with waitFor := r.waitFor.filter (· != src) } ∈ t.quarantine ∧
      ∀ x, x ∈ t.fenced ↔ x ∈ s.fenced ∧ ¬(x.pkg = src ∧ x.num = r.num))

/-- The board orders its posts and the bell follows its beacons. -/
def Obligations.TheBoardOrdersItsPosts : Prop :=
  Claims.TheHallPassSendsWhatIsQueued ∧
  Claims.PostsAreAcceptedInOrder ∧
  Claims.MembersKeepTheBoardOrder ∧
  Claims.TheBellFollowsItsBeacons

/-- Revocations sweep what they quarantine, and complete. -/
def Obligations.RevocationsSweepWhatTheyQuarantine : Prop :=
  Claims.NoticesQuarantine ∧ Claims.TheEraserSweeps ∧ Claims.RevocationsComplete

/-! ## Events: the Registrar -/

/-- R350, R351: an operation on a capability of another type, untagged or without INVOKE is DENIED; on an object that is gone GONE;
on one with an operation pending BUSY. Nothing but the requester changes. -/
def Claims.RequestsAreCheckedFirst : Prop :=
  ∀ (s : State) (req : RegReq) (h cb ty : Nat) (o : Obj) (i : Instr), hartAsks s req h cb →
    (ty = 960 ∧ i = .create req) ∨
      (ty = 962 ∧ (i = .revoke req ∨ i = .memcap req ∨ i = .heap req ∨ i = .exportSpace req)) ∨
      (ty = 965 ∧ (i = .bind req ∨ i = .unbind req)) ∨ (ty = 969 ∧ (i = .carve req ∨ i = .carvecap req)) ∨
      (ty = 967 ∧ (i = .inject req ∨ i = .emitcap req ∨ i = .preemptPark req ∨ i = .preemptRelease req)) ∨
      (960 ≤ ty ∧ ty ≤ 974 ∧ ty = capSeal req.cap ∧ (i = .mint req ∨ i = .destroy req)) →
    let answers := fun (st : Nat) => ∃ t, exec i s = .next t ∧ t = { s with harts := t.harts } ∧ hartIsAnswered s t h cb st 0 Cap.null
    (req.cap.tag = false ∨ capSeal req.cap ≠ ty ∨ hasPerm req.cap .invoke = false → answers 4) ∧
    (req.cap.tag = true → capSeal req.cap = ty → hasPerm req.cap .invoke = true →
      (findObj s ty (capNum req.cap) = none → answers 5) ∧
      (findObj s ty (capNum req.cap) = some o → o.dead = true → answers 5) ∧
      (findObj s ty (capNum req.cap) = some o → o.dead = false → o.busy = true → answers 1))

/-- R348, R350, R352, R353: CREATE gives an object of the type asked for, with its record in the lowest free 64 bytes of the
untyped, and answers its capability; a key takes the lowest free key identifier, a sealer the lowest free software type; every
other outcome is a status, and no object. -/
def Claims.CreateGivesObjects : Prop :=
  ∀ (s : State) (req : RegReq) (h cb base size a : Nat) (u : Obj), hartAsks s req h cb → regAccepts s req 960 u →
    u.data = .untyped base size →
    let i := Instr.create req
    let ty := req.w1.toNat
    let room := lowestRun (takenRuns s u.num) base (base + size) 64 64
    let made := fun (t : State) (num : Nat) (d : ObjData) => onlyAsked s { t with nextObj := s.nextObj } ∧
      t.objs = s.objs ++ [⟨ty, num, u.num, a, false, false, d⟩] ∧ hartIsAnswered s t h cb 0 0 (objCap ty num)
    let free := base ≤ a ∧ a + 64 ≤ base + size ∧ a % 64 = 0 ∧ ∀ r ∈ takenRuns s u.num, a + 64 ≤ r.1 ∨ r.1 + r.2 ≤ a
    (∀ b r a, ty = 960 → readBlock s req.who req.w2.toNat 1 = some b → let n := blkN b 0 1
      12 ≤ n → n ≤ 40 → lowestRun (takenRuns s u.num) base (base + size) (2 ^ n) (2 ^ n) = some r →
      lowestRun (takenRuns s u.num ++ [(r, 2 ^ n)]) base (base + size) 64 64 = some a →
      base ≤ r ∧ r + 2 ^ n ≤ base + size ∧ r % 2 ^ n = 0 ∧ ∃ t, exec i s = .next t ∧ onlyAsked s { t with nextObj := s.nextObj } ∧
        t.nextObj = s.nextObj + 1 ∧ t.objs = s.objs ++ [⟨960, s.nextObj, u.num, a, false, false, .untyped r (2 ^ n)⟩] ∧
        hartIsAnswered s t h cb 0 0 (objCap 960 s.nextObj)) ∧
    (ty < 960 ∨ 974 < ty ∨ ty = 972 → ∃ t, exec i s = .next t ∧ t = { s with harts := t.harts } ∧ hartIsAnswered s t h cb 3 0 Cap.null) ∧
    (room = some a → free ∧
      (ty = 963 → ∃ t, exec i s = .next t ∧ made t s.nextObj (.endpoint [] []) ∧ t.nextObj = s.nextObj + 1) ∧
      (ty = 964 → ∃ t, exec i s = .next t ∧ made t s.nextObj (.notification 0 []) ∧ t.nextObj = s.nextObj + 1) ∧
      (ty = 970 → ∀ k, freeKid s = some k → 1 ≤ k ∧ k ≤ 4095 ∧
        ∃ t, exec i s = .next t ∧ made t s.nextObj (.key ⟨k, false, [], 0, none, false, []⟩) ∧ t.nextObj = s.nextObj + 1) ∧
      (ty = 974 → ∀ k, freeSealType s = some k → 1 ≤ k ∧ k ≤ 959 ∧ ∃ t, exec i s = .next t ∧ made t k .sealer ∧ t.nextObj = s.nextObj) ∧
      (ty = 965 → ∀ b, readBlock s req.who req.w2.toNat 24 = some b → blkN b 8 1 ≤ 1 → 1000 ≤ blkN b 0x10 8 →
        blkN b 0x10 8 ≤ 2 ^ 40 → ∃ t, exec i s = .next t ∧ t.nextObj = s.nextObj + 1 ∧
          made t s.nextObj (.sched (BitVec.ofNat 64 (blkN b 0 8)) (blkN b 8 1 == 1) (blkN b 0x10 8) []))) ∧
    (room = none → ty = 963 ∨ ty = 964 → ∃ t, exec i s = .next t ∧ t = { s with harts := t.harts } ∧
      hartIsAnswered s t h cb 2 0 Cap.null) ∧
    (960 ≤ ty → ty ≤ 974 → ty ≠ 972 → ∃ t, exec i s = .next t ∧
      ((∃ st, 1 ≤ st ∧ st ≤ 5 ∧ hartIsAnswered s t h cb st 0 Cap.null ∧ t.objs = s.objs ∧ t.nextObj = s.nextObj) ∨
        ∃ o w0, o ∈ t.objs ∧ o.type = ty ∧ (ty ≠ 974 → o.num = s.nextObj) ∧ o.parent = u.num ∧ o.dead = false ∧
          hartIsAnswered s t h cb 0 w0 (objCap ty o.num)))

/-- R241, R348, R350, R360: MINT gives the same object with a new badge and no permission more; MEMCAP and CARVECAP give bounded
memory, of which none, as rounded, lies in the team window (R105; that MEMCAP then answers FORMAT is DESIGN CHOICE, log 48), and make
live the carve ways that they reach; EMITCAP an emit capability for its edge; ADMIT the travel-sealed capability unsealed, if the package
that it names consents: the answer of another package is free, and that no INVOKE is asked of it is the model's reading (log 101). -/
def Claims.TheRegistrarGivesCapabilities : Prop :=
  ∀ (s : State) (req : RegReq) (h cb : Nat) (o : Obj), hartAsks s req h cb →
    let unchanged := fun (t : State) => t = { s with harts := t.harts }
    (960 ≤ capSeal req.cap → capSeal req.cap ≤ 974 → regAccepts s req (capSeal req.cap) o →
      ∃ t c, exec (.mint req) s = .next t ∧ unchanged t ∧ hartIsAnswered s t h cb 0 0 c ∧ c.tag = true ∧
        capSeal c = capSeal req.cap ∧ capNum c = capNum req.cap ∧ capCursor c = req.w1 &&& 0x7FFFFFFFFFFFFFFF ∧
        ∀ p, hasPerm c p = true ↔ hasPerm req.cap p = true ∧ req.w2.getLsbD (permBit p) = true) ∧
    (regAccepts s req 962 o → let lo := req.w1.toNat; let hi := lo + req.w2.toNat
      let fits := fun e => (hi + 2 ^ e - 1) / 2 ^ e * 2 ^ e - lo / 2 ^ e * 2 ^ e ≤ 3 * 2 ^ (e + 17)
      ∀ e, fits e → (∀ d, d < e → ¬fits d) → let low := lo / 2 ^ e * 2 ^ e; let high := (hi + 2 ^ e - 1) / 2 ^ e * 2 ^ e
      (windowEnd ≤ low → high ≤ 2 ^ 64 → ∃ t c, exec (.memcap req) s = .next t ∧ onlyAsked s t ∧ hartIsAnswered s t h cb 0 0 c ∧
        c.tag = true ∧ capSeal c = 0 ∧ capPerms c = 0x3E4 ∧ capCursor c = req.w1 ∧ capE c = e ∧ capBase c = Int.ofNat low ∧
        capTop c = Int.ofNat high ∧
        ∀ x ∈ s.objs, x.dead = false → ∀ hub w0 n nt live p, x.data = .carve hub w0 n nt live p →
          ∃ l, { x with data := .carve hub w0 n nt l p } ∈ t.objs ∧ ∀ w, let a := carveBase + hub * 0x10000000 + w * 0x1000000
            w ∈ l ↔ w ∈ live ∨ w0 ≤ w ∧ w < w0 + n ∧ low < a + 0x1000000 ∧ a < high) ∧
      (2 ^ 64 < high ∨ low < windowEnd → ∃ t, exec (.memcap req) s = .next t ∧ unchanged t ∧ hartIsAnswered s t h cb 3 0 Cap.null)) ∧
    (∀ hub w0 n nt live p, regAccepts s req 969 o → o.data = .carve hub w0 n nt live p → hub < 16 → w0 + n ≤ 16 → 0 < n →
      let a := 0x0080000000000000 + hub * 0x10000000 + w0 * 0x1000000
      ∃ t c l, exec (.carvecap req) s = .next t ∧ onlyAsked s t ∧ hartIsAnswered s t h cb 0 0 c ∧ c.tag = true ∧ capSeal c = 0 ∧
        capPerms c = 0x3C4 ∧ capCursor c = BitVec.ofNat 64 a ∧ capBase c = a ∧ capTop c = a + n * 0x1000000 ∧
        findObj t o.type o.num = some { o with data := .carve hub w0 n nt l p } ∧ ∀ w, w ∈ l ↔ w ∈ live ∨ w0 ≤ w ∧ w < w0 + n) ∧
    (regAccepts s req 967 o → let edges := (graphOf s o.num).edges.length
      (edges ≤ req.w1.toNat → ∃ t, exec (.emitcap req) s = .next t ∧ unchanged t ∧ hartIsAnswered s t h cb 3 0 Cap.null) ∧
      (req.w1.toNat < edges → ∃ t x, exec (.emitcap req) s = .next t ∧ x ∈ t.objs ∧ x.data = .emit o.num req.w1.toNat ∧
        x.dead = false ∧ hartIsAnswered s t h cb 0 0 (objCap 972 x.num) ∧ (∀ y ∈ s.objs, y ∈ t.objs) ∧ t.mem = s.mem)) ∧
    (req.cap.tag = true → capSeal req.cap = 1009 → capE req.cap < 48 → remotePkg (capCursor req.cap) = s.pkg →
      ∀ space, slotSpace s (remoteSlot (capCursor req.cap)) = some space →
        let base := remoteVa (BitVec.ofInt 64 (capBase req.cap))
        let held := requestQuarantined s space base (base + BitVec.ofNat 64 (capLen req.cap))
        ∃ t, exec (.admitCap req) s = .next t ∧ unchanged t ∧
          (held = true → hartIsAnswered s t h cb 4 0 Cap.null) ∧
          (held = false → hartIsAnswered s t h cb 0 0 (withSeal req.cap 0 true))) ∧
    (req.cap.tag = true → capSeal req.cap = 1009 → capE req.cap < 48 → ∀ pkg, remotePkg (capCursor req.cap) = pkg → pkg ≠ s.pkg →
      (livePaths s (pathSetOf s pkg) = [] → ∃ t, exec (.admitCap req) s = .next t ∧ unchanged t ∧
        hartIsAnswered s t h cb 5 0 Cap.null) ∧
      (livePaths s (pathSetOf s pkg) ≠ [] → (∀ r ∈ s.quarantine, r.origin = none) → ∃ t, exec (.admitCap req) s = .next t ∧
        unchanged { t with draws := s.draws } ∧
        (hartIsAnswered s t h cb 0 0 (withSeal req.cap 0 true) ∨ hartIsAnswered s t h cb 4 0 Cap.null))) ∧
    (capSeal req.cap ≠ 1009 ∨ req.cap.tag = false ∨ 48 ≤ capE req.cap → ∃ t, exec (.admitCap req) s = .next t ∧ unchanged t ∧
      hartIsAnswered s t h cb 4 0 Cap.null)

/-- R222, R240, R289, R312, R313, R350, R359: the operations that change an object: BIND and UNBIND write the timetable entries of
a context, CARVE starts a change, HEAP sets HLIMIT, INJECT delivers one record to a bin that has room, EXPORT gives a slot. -/
def Claims.TheRegistrarChangesObjects : Prop :=
  ∀ (s : State) (req : RegReq) (h cb : Nat) (o : Obj), hartAsks s req h cb →
    let refuses := fun (i : Instr) (st : Nat) => ∃ t, exec i s = .next t ∧ t = { s with harts := t.harts } ∧
      hartIsAnswered s t h cb st 0 Cap.null
    let done := fun (t : State) => hartIsAnswered s t h cb 0 0 Cap.null
    (∀ mask strict tmo bound core, regAccepts s req 965 o → o.data = .sched mask strict tmo bound →
      req.w1.toNat = core / 64 * 256 + core % 64 → core < 640 →
      let c := getCore s core
      (bound.all (fun b => b.1 != core) = true → (∀ e, e < 64 → mask.getLsbD e = true → ttByte c e < 128) →
        (∃ k, k < 8 ∧ k ∉ slotsTaken s core) →
        ∃ t k, exec (.bind req) s = .next t ∧ done t ∧ k < 8 ∧ k ∉ slotsTaken s core ∧ t.mem = s.mem ∧
          objBecomes s t o (.sched mask strict tmo (bound ++ [(core, k)])) ∧
          (∀ e, e < 64 → ttByte (getCore t core) e = if mask.getLsbD e then 128 + (if strict then 64 else 0) + k else ttByte c e) ∧
          ∀ n, n ≠ core → getCore t n = getCore s n) ∧
      ((∃ k, (core, k) ∈ bound) ∨ (∃ e, e < 64 ∧ mask.getLsbD e = true ∧ 128 ≤ ttByte c e) → refuses (.bind req) 1) ∧
      (∀ k, lookupKey bound core = some k → contextResident s o.num core = false → ∃ t, exec (.unbind req) s = .next t ∧ done t ∧
        t.mem = s.mem ∧ objBecomes s t o (.sched mask strict tmo (dropKey bound core)) ∧
        ∀ e, e < 64 → ttByte (getCore t core) e =
          if 128 ≤ ttByte c e ∧ ttByte c e % 8 = k then 0 else ttByte c e) ∧
      (∀ k, lookupKey bound core = some k → contextResident s o.num core = true → refuses (.unbind req) 1)) ∧
    (∀ hub w0 n nt live p, regAccepts s req 969 o → o.data = .carve hub w0 n nt live p →
      (12 < req.w1.toNat → refuses (.carve req) 3) ∧
      (req.w1.toNat ≤ 12 → ∃ t, exec (.carve req) s = .next t ∧ done t ∧ t.mem = s.mem ∧
        t.agenda = s.agenda ++ [.carveComplete o.num] ∧
        findObj t 969 o.num = some { o with busy := true, data := .carve hub w0 n nt live (some req.w1.toNat) })) ∧
    (∀ a, regAccepts s req 962 o → o.data = .aspace a →
      (req.w1.toNat % 0x200000 ≠ 0 ∨ a.hspan.toNat < req.w1.toNat → refuses (.heap req) 3) ∧
      (req.w1.toNat % 0x200000 = 0 → req.w1.toNat ≤ a.hspan.toNat →
        (a.hlimit.toNat ≤ req.w1.toNat ∨ (∀ T ∈ s.tasks, taskSpaceNum s T = o.num → T.cores = []) →
          ∃ t, exec (.heap req) s = .next t ∧ onlyAsked s t ∧ done t ∧ objBecomes s t o (.aspace { a with hlimit := req.w1 })) ∧
        (req.w1.toNat < a.hlimit.toNat → (∃ T ∈ s.tasks, taskSpaceNum s T = o.num ∧ T.cores ≠ []) → refuses (.heap req) 1)) ∧
      (∀ k, a.exportSlot = some k → ∃ t, exec (.exportSpace req) s = .next t ∧ t = { s with harts := t.harts } ∧
        hartIsAnswered s t h cb 0 (BitVec.ofNat 64 k) Cap.null) ∧
      (a.exportSlot = none → (∃ k, k < 256 ∧ ∀ e ∈ s.exportSlots, e.1 ≠ k) → ∃ t k, exec (.exportSpace req) s = .next t ∧ k < 256 ∧
        (∀ e ∈ s.exportSlots, e.1 ≠ k) ∧ (∀ j, j < k → ∃ e ∈ s.exportSlots, e.1 = j) ∧ t.exportSlots = s.exportSlots ++ [(k, o.num)] ∧
        objBecomes s t o (.aspace { a with exportSlot := some k }) ∧ hartIsAnswered s t h cb 0 (BitVec.ofNat 64 k) Cap.null)) ∧
    (∀ g b, regAccepts s req 967 o → o.data = .graph g →
      let n := req.w1.toNat
      let node := binNode s o.num n
      let bin := binOf s o.num n
      (g.nodes.length ≤ n → refuses (.inject req) 3) ∧
      (n < g.nodes.length → readBlock s req.who req.w2.toNat node.recSize = some b →
        (node.binCap ≤ bin.reserved + bin.delivered.length → refuses (.inject req) 2) ∧
        (bin.reserved + bin.delivered.length < node.binCap → bin.delivered.length + 1 < node.count →
          ∃ t r, exec (.inject req) s = .next t ∧ onlyAsked s t ∧ done t ∧
            (binOf t o.num n).delivered = bin.delivered ++ [r] ∧ r.bytes = (b.flatMap (·.1)).take node.recSize ∧ r.poison = [])))

/-- R350, R351, R362, R363, R365, R378: REVOKE takes the next revocation number and quarantines the region, to be swept and, for its
export set, acknowledged within 1 s, and the space is busy until then; DESTROY puts the object out of use and wakes its waiters with PEER_GONE; PARK parks the tasks
of a graph and answers their number once none stands on a core; RELEASE lets them go. -/
def Claims.TheRegistrarStopsWhatItNames : Prop :=
  ∀ (s : State) (req : RegReq) (h cb : Nat) (o : Obj), hartAsks s req h cb →
    (regAccepts s req 962 o → let base := req.w1.toNat; let len := req.w2.toNat
      let ok := base % 16 = 0 ∧ len % 16 = 0 ∧ 16 ≤ len ∧ len ≤ 2 ^ 57
      let full := 256 ≤ (s.quarantine.filter fun r => r.target.isNone).length
      (¬ok → ∃ t, exec (.revoke req) s = .next t ∧ t = { s with harts := t.harts } ∧ hartIsAnswered s t h cb 3 0 Cap.null) ∧
      (ok → full → ∃ t, exec (.revoke req) s = .next t ∧ t = { s with harts := t.harts } ∧ hartIsAnswered s t h cb 2 0 Cap.null) ∧
      (ok → ¬full → ∃ t r, exec (.revoke req) s = .next t ∧ t.quarantine = s.quarantine ++ [r] ∧ r.num = s.nextRevoke ∧
        t.nextRevoke = s.nextRevoke + 1 ∧ r.aspace = o.num ∧ r.base = req.w1 ∧ r.len = len ∧ r.joined = false ∧ r.swept = false ∧
        r.origin = none ∧ r.target = none ∧ r.waitFor = exportSet s o.num base len ∧ r.deadline = s.bell + 1000000000 ∧
        hartIsAnswered s t h cb 0 (BitVec.ofNat 64 s.nextRevoke) Cap.null ∧ t.mem = s.mem ∧
        findObj t 962 o.num = some { o with busy := true } ∧
        ∀ y n, ¬(y = 962 ∧ n = o.num) → findObj t y n = findObj s y n)) ∧
    (regAccepts s req (capSeal req.cap) o → o.type = capSeal req.cap → o.num = capNum req.cap →
      960 ≤ capSeal req.cap → capSeal req.cap ≤ 974 →
      (capSeal req.cap ≠ 963 → capSeal req.cap ≠ 964 → capSeal req.cap ≠ 971 →
        ∃ t r, exec (.destroy req) s = .next t ∧ hartIsAnswered s t h cb 0 0 Cap.null ∧
          findObj t o.type o.num = some { o with dead := true, busy := true } ∧ t.quarantine = s.quarantine ++ [r] ∧
          r.target = some (o.type, o.num) ∧ r.joined = false ∧ r.swept = false ∧ t.mem = s.mem) ∧
      (∀ p c slot j x, o.type = 963 → o.data = .endpoint [x] [] → x.who = p → liveSeat s p c slot j (.send o.num) →
        ∃ t r, exec (.destroy req) s = .next t ∧ t.quarantine = s.quarantine ++ [r] ∧ r.target = some (o.type, o.num) ∧
          objGone t 963 o.num = true ∧ (getSeat (getBench t c slot) j).state = .eligible ∧
          (getSeat (getBench t c slot) j).wake = some ⟨0x30, 2, o.num⟩ ∧
          (getSeat (getBench t c slot) j).pc = (getSeat (getBench s c slot) j).pc)) ∧
    (∀ g, regAccepts s req 967 o → o.data = .graph g → (s.tasks.map (·.id)).Nodup →
      let mine := s.tasks.filter fun T => T.graph == o.num
      (g.parking = none → req.w1 = 0 → (∀ T ∈ mine, T.phase = .pool ∧ T.cores = []) → ∃ t, exec (.preemptPark req) s = .next t ∧
        hartIsAnswered s t h cb 0 (BitVec.ofNat 64 mine.length) Cap.null ∧ t.mem = s.mem ∧
        (∀ T ∈ mine, ∃ U, isTask t T.id U ∧ .owner ∈ U.conds ∧ U.phase = .pool) ∧
        ∀ T ∈ s.tasks, T.graph ≠ o.num → findTask t T.id = some T) ∧
      (g.parking = none → req.w1 = 0 → (∀ T ∈ mine, T.phase = .pool ∨ T.phase = .running) →
        (∃ T ∈ mine, T.cores ≠ [] ∧ T.phase = .running) → ∃ t, exec (.preemptPark req) s = .next t ∧
        .preemptPark req ∈ t.agenda ∧ (getHart t h).wait = (getHart s h).wait ∧
        ∀ T ∈ mine, T.phase = .running → ∃ U, isTask t T.id U ∧ U.phase = .halted .ownerPreempt) ∧
      (∀ ids, g.parking = some (req, ids) → (∀ id ∈ ids, onCore s id = false) → ∃ t, exec (.preemptPark req) s = .next t ∧
        hartIsAnswered s t h cb 0 (BitVec.ofNat 64 ids.length) Cap.null) ∧
      (g.parking = none → req.w1 ≠ 0 → ∃ t, exec (.preemptPark req) s = .next t ∧ hartIsAnswered s t h cb 3 0 Cap.null) ∧
      let parked := s.tasks.filter fun T => T.graph == o.num && T.conds.contains .owner
      ∃ t, exec (.preemptRelease req) s = .next t ∧ hartIsAnswered s t h cb 0 (BitVec.ofNat 64 parked.length) Cap.null ∧
        t = { s with tasks := t.tasks, harts := t.harts } ∧
        ∀ T ∈ s.tasks, ∃ U, isTask t T.id U ∧ (T ∉ parked → U = T) ∧
          (T ∈ parked → U.phase = T.phase ∧ ∀ c, c ∈ U.conds ↔ c ∈ T.conds ∧ c ≠ .owner))

/-- R329, R341, R342, R353: a write of DONE that moves it forward by no more than REQ stands, and any other is ignored; the
allocation service answers an entry with a run of its pool below the heap limit, with EXHAUSTED or with FORMAT, and releases it. That
no run above the limit is granted is the model's choice (DESIGN CHOICE, log 44). -/
def Claims.RingsAreServed : Prop :=
  ∀ (s : State) (ring hub log base bellN : Nat) (d done : Word32) (p : AllocPool),
    ringOf s ring = some (hub, log, base, bellN, [], d) → s.mem.wf = true → base % 16 = 0 →
    let req := memValue s.mem base 4
    let old := memValue s.mem (base + 8) 4
    let behind := fun (x : Nat) => (x + 2 ^ 32 - old) % 2 ^ 32
    (behind done.toNat ≤ behind req → ∃ t, exec (.ringDoneWrite ring done) s = .next t ∧ t.tasks = s.tasks ∧ t.harts = s.harts ∧
      memValue t.mem (base + 8) 4 = done.toNat ∧ ∀ a, a < base + 8 ∨ base + 12 ≤ a → memByte t.mem a = memByte s.mem a) ∧
    (behind req < behind done.toNat → exec (.ringDoneWrite ring done) s = .next s) ∧
    (s.pools.find? (fun x => x.rings.contains ring) = some p → old = req → exec (.serviceAlloc ring) s = .next s) ∧
    (s.pools.find? (fun x => x.rings.contains ring) = some p → old ≠ req →
      let entry := base + 64 + 64 * (old % 2 ^ log)
      let reply := entry + 64 * 2 ^ log
      let w0 := memValue s.mem (entry + 0x18) 8
      let len := memValue s.mem (entry + 0x20) 8
      let w2 := memValue s.mem (entry + 0x28) 8
      let bad := w0 ≠ 1 ∨ len < 16 ∨ 2 ^ 32 < len ∨ len % 16 ≠ 0 ∨ w2 &&& 0x3C4 ≠ w2
      let n := ceilPow len (allocExp len)
      let limit := (aspaceObj s p.aspace).hbase.toNat + (aspaceObj s p.aspace).hlimit.toNat
      let answered := fun (t : State) (st v : Nat) => memValue t.mem (reply + 8) 8 = st ∧ memValue t.mem (reply + 0x10) 8 = v ∧
        memValue t.mem (base + 8) 4 = (old + 1) % 2 ^ 32
      (bad → ∃ t, exec (.serviceAlloc ring) s = .next t ∧ answered t 3 0 ∧ t.pools = s.pools ∧ memTag t.mem (reply + 0x30) = false) ∧
      (¬bad → takeRun p.runs n (2 ^ allocExp len) limit = none →
        ∃ t, exec (.serviceAlloc ring) s = .next t ∧ answered t 2 0 ∧ t.pools = s.pools ∧ memTag t.mem (reply + 0x30) = false) ∧
      ∀ r runs, ¬bad → takeRun p.runs n (2 ^ allocExp len) limit = some (r, runs) →
        let u := clearRun { s with pools := s.pools.map fun x => if x.rings.contains ring then { p with runs := runs } else x }
          (aspaceObj s p.aspace) r n
        (∀ a, base ≤ a → a < base + 16 → memByte u.mem a = memByte s.mem a) →
        ∃ t, exec (.serviceAlloc ring) s = .next t ∧ answered t 0 n ∧ memTag t.mem (reply + 0x30) = true ∧
          r % 2 ^ allocExp len = 0 ∧ r + n ≤ limit ∧ (∃ x ∈ p.runs, x.1 ≤ r ∧ r + n ≤ x.1 + x.2) ∧ (∀ x ∈ t.pools, ring ∈ x.rings → x.runs = runs) ∧
          (p.runs.Pairwise (fun x y => x.1 + x.2 ≤ y.1) → ∀ x ∈ runs, x.1 + x.2 ≤ r ∨ r + n ≤ x.1))

/-- The Registrar creates objects. -/
def Obligations.TheRegistrarCreatesObjects : Prop :=
  Claims.CreateGivesObjects

/-- The Registrar mints and gives capabilities. -/
def Obligations.TheRegistrarGives : Prop :=
  Claims.TheRegistrarGivesCapabilities

/-- The Registrar checks requests, changes and stops objects, and rings are served. -/
def Obligations.TheRegistrarChangesAndStops : Prop :=
  Claims.RequestsAreCheckedFirst ∧ Claims.TheRegistrarChangesObjects ∧ Claims.TheRegistrarStopsWhatItNames ∧ Claims.RingsAreServed

/-! ## Events: bring-up, attestation, management, hosts -/

/-- R2, R228, R421, R424, R432, R440, R443 to R446, R454: reset clears everything but memory's bytes, carve ways apart, and the bell,
and the boot ROM runs; at its end the links, paths and groups are formed, and the package takes part in the election, with what its port
has written meanwhile; a candidate sends a CLAIM, and the first of a round by a candidate names its leader and starts the load; the
leader's READY closes the round, and brings its LEASEMAX; a TIMEOUT opens the next one, or the package fails; a follower's timer sends
one. The messages are frames of board group 0, or values of the boot word. -/
def Claims.BringUpElectsALeader : Prop :=
  ∀ (s : State) (grp round pkg lib : Nat) (g : BoardGroup) (f : Frame) (hash lm v : Word),
    let b := s.boot
    -- R443: a package may claim with CAND = 1, which stands in BOOTCFG for this one.
    let mayClaim := fun (p : Nat) => if p = s.pkg then s.mgmt.bootcfg.getLsbD 63 = true else p ∈ Config.candidates
    let framed := fun (type : Nat) => electionGroup s = some (grp, g) ∧ lookupKey s.board grp = some g ∧ frameOk f = true ∧
      f.gen = g.gen ∧ f.kind = 3 ∧ bits f.w0 63 62 = type ∧ bits f.w0 47 32 = round ∧ bits f.w0 10 0 = pkg
    let onlyBoot := fun (t : State) => t = { s with boot := t.boot, mgmt := { s.mgmt with leasemax := t.mgmt.leasemax }
                                                    outbox := t.outbox, board := t.board }
    -- The winner of a decision of the board writes it into the boot word.
    let writes := fun (t : State) (old new : Word) => (pkg = s.pkg → t.outbox = s.outbox ++ [.bootSwap old new]) ∧
      (pkg ≠ s.pkg → t.outbox = s.outbox)
    let loads := fun (t : State) (p : Nat) => t.boot.state = .load ∧ t.boot.leader = some p ∧ t.boot.round = b.round ∧
      t.boot.copied = [] ∧ t.boot.timer = if p = s.pkg then none else some (s.bell + s.mgmt.boottmo)
    let claims := fun (p : Nat) => b.state = .elect ∧ b.leader = none ∧ p ∉ b.past ∧ mayClaim p
    (∃ t, exec .packageReset s = .next t ∧ t.cores = [] ∧ t.tasks = [] ∧ t.objs = [] ∧ t.flights = [] ∧ t.harts = [] ∧
      t.quarantine = [] ∧ t.stopped = false ∧ t.bell = s.bell ∧ t.pkg = s.pkg ∧
      t.mgmt = (if b.state = .rom then s.mgmt else State.reset.mgmt) ∧ (b.state ≠ .rom → t.boot.state = .rom) ∧
      (∀ a, memTag t.mem a = false ∧ memPoison t.mem a = false ∧ memByte t.mem a =
        if 0x0080000000000000 ≤ a ∧ a < 0x0080000100000000 then 0 else memByte s.mem a) ∧
      (b.state = .rom → t.links = bootLinks ∧ t.links.length ≤ 32 ∧ (t.links.map (·.lib)).Nodup ∧
        (t.links.map (·.pairs)).sum ≤ 112 ∧ (∀ l ∈ t.links, 1 ≤ l.pairs ∧ l.pairs ≤ 28) ∧
        (∀ p ∈ t.paths, 4 ≤ p.libs.length ∧ p.libs.length ≤ 32 ∧ p.libs.Pairwise (· < ·) ∧ ∀ l ∈ p.libs, ∃ x ∈ t.links, x.lib = l) ∧
        ∀ x ∈ t.board, x.1 < 16 ∧ 2 ≤ x.2.members.length ∧ x.2.members.length ≤ 64 ∧ x.2.members.Pairwise (· < ·) ∧
          x.2.members[x.2.me]? = some s.pkg) ∧
      (b.state = .rom → Config.romTrained = false ∨ bootLinks = [] → t.boot.state = .failed ∧ t.boot.reason = 6) ∧
      (b.state = .rom → Config.romTrained = true → bootLinks ≠ [] →
        ((∀ l ∈ bootLinks, l.lib ≠ bits s.mgmt.bootcfg 47 36) → t.boot.state = .failed ∧ t.boot.reason = 7) ∧
        ((∃ l ∈ bootLinks, l.lib = bits s.mgmt.bootcfg 47 36) → t.boot.round = 0 ∧ t.boot.leader = none ∧
          ((∃ c, mayClaim c) → t.boot.state = .elect) ∧ ((∀ c, ¬mayClaim c) → t.boot.state = .failed ∧ t.boot.reason = 5)))) ∧
    (claims s.pkg → 0 ∉ b.asked → ∃ t, exec (.bootClaim grp .send) s = .next t ∧ t.boot = { b with asked := b.asked ++ [0] } ∧
      onlyBoot t ∧ (electionGroup s = none →
        t.outbox = s.outbox ++ [.bootSwap (bootWord b.round 0 0) (bootWord b.round 1 s.pkg)] ∧ t.board = s.board) ∧
      (electionGroup s = some (grp, g) → lookupKey s.board grp = some g → t.outbox = s.outbox ∧ lookupKey t.board grp =
        some { g with service := g.service ++ [⟨3, BitVec.ofNat 64 (b.round % 2 ^ 16 * 2 ^ 32 + s.pkg % 2 ^ 11), 0, 0⟩] })) ∧
    (framed 0 → (round = b.round → claims pkg → ∃ t, exec (.bootClaim grp (.frame f)) s = .next t ∧ onlyBoot t ∧ loads t pkg ∧
        writes t (bootWord round 0 0) (bootWord round 1 pkg)) ∧
      (round ≠ b.round ∨ ¬claims pkg → ∃ t, exec (.bootClaim grp (.frame f)) s = .next t ∧ t = { s with board := t.board })) ∧
    (electionGroup s = none → bits v 63 48 = b.round → bits v 47 46 = 1 → claims (bits v 10 0) →
      ∃ t, exec (.bootClaim grp (.word v)) s = .next t ∧ onlyBoot t ∧ loads t (bits v 10 0) ∧ t.outbox = s.outbox) ∧
    (electionGroup s = none → 0 ∈ b.asked → v = bootWord b.round 0 0 → claims s.pkg →
      ∃ t, exec (.bootClaim grp (.word v)) s = .next t ∧ onlyBoot t ∧ loads t s.pkg ∧ t.outbox = s.outbox) ∧
    (framed 1 →
      (b.state = .load → round = b.round → b.leader = some pkg → b.closed = false →
        ∃ t, exec (.bootReady grp (.frame f) hash lib lm) s = .next t ∧ onlyBoot t ∧ t.boot.closed = true ∧ t.boot.hash = f.w1 ∧
          t.boot.lib = bits f.w2 11 0 ∧ t.boot.timer = none ∧ t.boot.copied = b.copied ∧
          t.boot.state = (if copyDone b.copied = true then .verify else .load) ∧
          writes t (bootWord round 1 pkg) (bootWord round 2 pkg) ∧
          t.mgmt.leasemax = if pkg = s.pkg then s.mgmt.leasemax else BitVec.ofNat 64 (min (bits lm 29 0) 1000000000)) ∧
      (round ≠ b.round ∨ b.leader ≠ some pkg →
        ∃ t, exec (.bootReady grp (.frame f) hash lib lm) s = .next t ∧ t = { s with board := t.board })) ∧
    (framed 2 → b.state = .load ∨ b.state = .elect → round = b.round → b.closed = false →
      ∃ t, exec (.bootTimeout grp (.frame f)) s = .next t ∧ onlyBoot t ∧ t.boot.round = round + 1 ∧ t.boot.leader = none ∧
      t.boot.copied = [] ∧ t.boot.timer = none ∧ t.mgmt = s.mgmt ∧
      writes t (bootWord round 1 (b.leader.getD 0)) (bootWord (round + 1) 0 0) ∧
      (∀ p, p ∈ t.boot.past ↔ p ∈ b.past ∨ b.leader = some p) ∧
      (15 ≤ round ∨ (∀ c, mayClaim c → c ∈ t.boot.past) → t.boot.state = .failed ∧ t.boot.reason = 5) ∧
      (round < 15 → (∃ c, mayClaim c ∧ c ∉ t.boot.past) → t.boot.state = .elect)) ∧
    (∀ u, b.timer = some u → u ≤ s.bell → ∃ t, exec .bootTimerExpire s = .next t ∧
      t.boot = { b with timer := none, asked := b.asked ++ [2] } ∧ onlyBoot t ∧
      (electionGroup s = none → t.board = s.board ∧
        t.outbox = s.outbox ++ [.bootSwap (bootWord b.round 1 (b.leader.getD 0)) (bootWord (b.round + 1) 0 0)]) ∧
      (electionGroup s = some (grp, g) → lookupKey s.board grp = some g → t.outbox = s.outbox ∧ lookupKey t.board grp =
        some { g with service := g.service ++ [⟨3, BitVec.ofNat 64 (2 ^ 63 + b.round % 65536 * 2 ^ 32 + s.pkg % 2048), 0, 0⟩] }))

/-- R312, R355, R366, R438, R440 to R442, R446, R447, R454: in LOAD the bytes of the image come in, and the leader writes them on into
the image store; the load of a closed round ends in VERIFY. An image that passes its checks brings the package into RUN: the root untyped
and the Registrar endpoints stand, hart 0 holds them in hc1 to hc11, every core is fresh, and the monitor code is in place. One that
fails is loaded again from the start, and after the third failure the package fails with the check's reason. BOOTCTL names a
reference. -/
def Claims.ACheckedImageIsInstalled : Prop :=
  ∀ (s : State) (bytes : List Byte) (v : Word),
    let b := s.boot
    let image := b.copied.take (0xC0 + valueLE ((b.copied.drop 8).take 8))
    let n := fun (o k : Nat) => valueLE ((image.drop o).take k)
    let payload := (image.drop 0xC0).take (n 8 8)
    let i := Instr.imageVerify bytes
    let accepted := n 0 4 = 0x39424F51 ∧ n 4 2 = 1 ∧ bits s.mgmt.svnmin 15 0 ≤ n 6 2 ∧
      Config.signatureOk (image.take 0x40) ((image.drop 0x40).take 0x60) = true ∧ payload.length = n 8 8 ∧
      Config.sha384 payload = (image.drop 0x10).take 48
    (b.state = .load → ∃ t, exec i s = .next t ∧ t = { s with boot := t.boot, outbox := t.outbox } ∧
      t.boot = { b with state := t.boot.state, copied := b.copied ++ bytes } ∧
      (b.closed = false → t.boot.state = .load) ∧
      (b.closed = true → t.boot.state = if bytes = [] ∨ copyDone (b.copied ++ bytes) = true then .verify else .load) ∧
      t.outbox = if b.leader = some s.pkg ∧ b.closed = false then s.outbox ++
        [.imageStore (bootLib s) b.copied.length bytes (b.copied ++ bytes).length s.mgmt.leasemax] else s.outbox) ∧
    (b.state = .verify → accepted → ∃ t, exec i s = .next t ∧ t.boot.state = .run ∧
      t.boot.reason = 0 ∧ t.boot.svn = n 6 2 ∧ t.boot.digest = Config.sha384 image ∧
      (∃ o size, findObj t 960 10 = some o ∧ o.data = .untyped 0 size ∧ o.dead = false) ∧
      (∀ d, d < 10 → endpointIs t d [] []) ∧
      (getHart t 0).released = true ∧ getHc (getHart t 0) 1 = objCap 960 10 ∧
      (∀ d, d < 10 → getHc (getHart t 0) (2 + d) = objCap 963 d) ∧ (∀ k, 12 ≤ k → k < 16 → getHc (getHart t 0) k = Cap.null) ∧
      (∀ c, c < 640 → (getCore t c).benches = [] ∧ (getCore t c).tt = List.replicate 8 0) ∧
      t.monitorCode.tag = true ∧ capCursor t.monitorCode = Config.monitorBase ∧
      (let base := Config.monitorBase.toNat;
        (∀ j x, ((Config.monitorBytes b.copied).take 4096)[j]? = some x → memByte t.mem (base + j) = x) ∧
          ∀ a, a < base ∨ base + 4096 ≤ a → memByte t.mem a = memByte s.mem a) ∧
      (b.leader = some s.pkg → t.lock.stratum = 0 ∧ t.lock.locked = true) ∧ (b.leader ≠ some s.pkg → t.lock.locked = false)) ∧
    (b.state = .verify → ¬accepted → b.attempts < 2 → ∃ t, exec i s = .next t ∧
      t = { s with boot := t.boot } ∧ t.boot.state = .load ∧ t.boot.attempts = b.attempts + 1 ∧ t.boot.copied = [] ∧
      1 ≤ t.boot.reason ∧ t.boot.reason ≤ 4) ∧
    (b.state = .verify → ¬accepted → 2 ≤ b.attempts → ∃ t, exec i s = .next t ∧
      t = { s with boot := t.boot } ∧ t.boot.state = .failed ∧ 1 ≤ t.boot.reason ∧ t.boot.reason ≤ 4) ∧
    ∃ t, exec (.bootctlWrite v) s = .next t ∧ t = { s with mgmt := t.mgmt, lock := t.lock } ∧ t.lock.named = true ∧
      t.mgmt.bootctl = BitVec.ofNat 64 (bits v 10 0) ∧ t.lock.reference = bits v 10 0 ∧
      (bits v 10 0 = s.pkg → t.lock.stratum = 0 ∧ t.lock.locked = true)

/-- R448 to R450: each live key object answers the requests of SPDM once it has been negotiated so far, and a request too early
with UnexpectedRequest; slot 0 alone has a chain; KEY_RELEASE loads an EMPTY key with two different keys inside a completed
session and under the package's vendor number; KEY_EXCHANGE answers a value of the package's own and its signature; END_SESSION leaves
the key loaded; every other request is unsupported. -/
def Claims.KeyObjectsAnswerTheirRequests : Prop :=
  ∀ (s : State) (key ses slot code : Nat) (nonce : BitVec 256) (x : KeyExchange) (m : VendorMsg) (o : Obj) (k : KeyObj), findObj s 970 key = some o →
    o.data = .key k → o.dead = false →
    let answers := fun (i : Instr) (c : Nat) (ok : Bool) (d : List Byte) (k' : KeyObj) => ∃ t, exec i s = .next t ∧
      t = { s with objs := t.objs, outbox := t.outbox } ∧ t.outbox = s.outbox ++ [.spdm key c ok d] ∧ objBecomes s t o (.key k')
    let early := fun (i : Instr) (c : Nat) => answers i c false [0x04] k
    let n := k.negotiated
    answers (.getVersion key) 0x84 true [0x12] { k with negotiated := 1, session := none, finished := false } ∧
    (n < 1 → early (.getCapabilities key) 0xE1) ∧
    (1 ≤ n → answers (.getCapabilities key) 0xE1 true Config.spdmCapabilities { k with negotiated := max n 2 }) ∧
    (n < 2 → early (.negotiateAlgorithms key true) 0xE3) ∧
    (2 ≤ n → answers (.negotiateAlgorithms key true) 0xE3 true Config.spdmAlgorithms { k with negotiated := 3 } ∧
      answers (.negotiateAlgorithms key false) 0xE3 false [0x07] k) ∧
    (n < 3 → early (.getDigests key) 0x81 ∧ early (.getCertificate key slot) 0x82 ∧ early (.challenge key slot nonce) 0x83 ∧
      early (.getMeasurements key slot) 0xE0 ∧ early (.keyExchange key x) 0xE4 ∧ early (.finish key ses true) 0xE5 ∧
      early (.endSession key ses) 0xEC) ∧
    (3 ≤ n → answers (.getDigests key) 0x81 true (Config.sha384 Config.certChain) k ∧
      answers (.getCertificate key 0) 0x82 true Config.certChain k ∧
      (slot ≠ 0 → answers (.getCertificate key slot) 0x82 false [0x07] k ∧ answers (.challenge key slot nonce) 0x83 false [0x07] k) ∧
      answers (.challenge key 0 nonce) 0x83 true (Config.deviceSign (bytesLE 32 nonce.toNat ++ Config.sha384 Config.certChain)) k ∧
      answers (.getMeasurements key 1) 0xE0 true Config.romDigest k ∧ answers (.getMeasurements key 2) 0xE0 true s.boot.digest k ∧
      (k.codeHash ≠ [] → answers (.getMeasurements key 5) 0xE0 true k.codeHash k) ∧
      (x.slot ≠ 0 → answers (.keyExchange key x) 0xE4 false [0x07] k) ∧
      (x.slot = 0 → ∃ t, exec (.keyExchange key x) s = .next t ∧
        t = { s with objs := t.objs, outbox := t.outbox, draws := s.draws + 1 } ∧
        objBecomes s t o (.key { k with session := some x.session, finished := false }) ∧ t.outbox = s.outbox ++
          [.spdm key 0xE4 true (Config.ecdhe s.draws ++ Config.deviceSign (x.pub ++ Config.ecdhe s.draws))]) ∧
      (k.session = some ses → answers (.finish key ses true) 0xE5 true [] { k with finished := true } ∧
        answers (.endSession key ses) 0xEC true [] { k with session := none, finished := false }) ∧
      (k.session ≠ some ses → early (.finish key ses true) 0xE5 ∧ early (.endSession key ses) 0xEC)) ∧
    answers (.unsupportedRequest key code) code false [0x07] k ∧
    let i := fun (x : Option Nat) => Instr.keyRelease key x m
    let pay := m.payload
    let formed := m.standard = 3 ∧ m.vendorLen = 2 ∧ m.vendor = Config.vendorId.toNat ∧ pay.length = 68 ∧ valueLE (pay.take 1) = 1 ∧ valueLE ((pay.drop 1).take 1) = 1
    let key1 := (pay.drop 4).take 32
    let key2 := (pay.drop 36).take 32
    (¬formed → answers (i none) 0xFE false [0x07] k) ∧
      (formed → answers (i none) 0xFE false [0x04] k ∧ (k.finished = false → answers (i k.session) 0xFE false [0x04] k) ∧
        (k.session = some ses → k.finished = true →
          (k.released = true → answers (i (some ses)) 0xFE true [1, 1, 1, 0, 0, 0, 0, 0] k) ∧
          (k.released = false → key1 = key2 → answers (i (some ses)) 0xFE true [1, 1, 3, 0, 0, 0, 0, 0] k) ∧
          (k.released = false → key1 ≠ key2 → ∃ t, exec (i (some ses)) s = .next t ∧
            t = { s with objs := t.objs, outbox := t.outbox, mem := t.mem } ∧
            (∀ a, memByte t.mem a = memByte s.mem a ∧ memTag t.mem a = memTag s.mem a ∧ memPoison t.mem a = memPoison s.mem a) ∧
            objBecomes s t o (.key { k with released := true, keys := pay.drop 4 }) ∧
            t.outbox = s.outbox ++ [.spdm key 0xFE true ([1, 1, 0, 0] ++ bytesLE 4 k.kid)])))

/-- R228, R302, R352, R398, R451 to R453: a power limit throttles, which changes no value, and 110 °C or a lost rail stops the
package; PWR and TEMP show what is measured; the PCIe port reads every register, and writes only what is marked for it, and what it configures only while the boot ROM runs; LEASE and LEADDEF are clamped;
an MSI vector enters the notification of each line bound to it. -/
def Claims.ManagementActsAsItsTables : Prop :=
  ∀ (s : State) (off : Nat) (v : Word) (n bit N : Nat) (w : Word) (o : Obj),
    let only := fun (t : State) (m : Mgmt) => t = { s with mgmt := m }
    let wr := fun (off : Nat) (by_ : MgmtBy) (m : Mgmt) => ∃ t, exec (.mgmtRegisterWrite off v by_) s = .next t ∧ only t m
    let m := s.mgmt
    (∀ l : PowerLimit, l = .packagePower ∨ l = .computeDies ∨ l = .coreRails ∨ l = .junctionThrottle →
      ∃ t, exec (.powerThrottle l) s = .next t ∧ only t { m with throttled := true }) ∧
    (∃ t, exec (.powerThrottle .recovered) s = .next t ∧ only t { m with throttled := false }) ∧
    (∀ p c, ∃ t, exec (.powerThrottle (.measured p c)) s = .next t ∧
      (c.toNat < 110 → only t { m with pwr := p.setWidth 64, temp := c.setWidth 64 }) ∧
      (110 ≤ c.toNat → t.stopped = true ∧ t.mgmt.pwr = p.setWidth 64 ∧ t.mgmt.temp = c.setWidth 64)) ∧
    (∀ l : PowerLimit, l = .junctionStop ∨ l = .railLoss → ∃ t, exec (.powerThrottle l) s = .next t ∧ t.stopped = true ∧
      ⟨.machineCheck, s.seqLog, s.bell, 4⟩ ∈ t.log) ∧
    let lease := BitVec.ofNat 64 (min (bits v 29 0) m.leasemax.toNat)
    ((∃ t, exec (.mgmtRegisterWrite off v .portRead) s = .next t ∧
        t = { s with outbox := s.outbox ++ [.portData off (mgmtRead s off)] }) ∧
      wr 0x100 .host { m with lease0 := lease } ∧ wr 0x108 .host { m with lease1 := lease } ∧ wr 0x110 .host { m with lease2 := lease } ∧
      wr 0x130 .host { m with leaddef := BitVec.ofNat 64 (min (bits v 19 0) 1000000) } ∧
      (∀ p, p ≠ .portRead → wr 0x3000 p { m with pwrlim := BitVec.ofNat 64 (min (bits v 15 0) 15000) }) ∧
      wr 0x3018 .host { m with tthrot := BitVec.ofNat 64 (min (bits v 7 0) 105) } ∧
      (s.boot.state = .rom → wr 0 .port { m with bootcfg := v &&& 0x8000FFFFFFFFFFF8 } ∧
        wr 0x120 .port { m with leasemax := BitVec.ofNat 64 (min (bits v 29 0) 1000000000) }) ∧
      (s.boot.state ≠ .rom → ∀ p, p ≠ .portRead → wr 0x120 p m ∧ wr 0 p m ∧ wr 0x10 p m) ∧
      (off ≠ 0 → off ≠ 0x10 → off ≠ 0x120 → off ≠ 0x3000 → wr off .port m)) ∧
    (n < 256 → s.objs.filter (fun x => !x.dead && match x.data with
        | .irq src _ _ => src == n
        | _ => false) = [o] → o.data = .irq n bit N → notificationIs s N w [] →
      ∃ t, exec (.pcieMsiVector n) s = .next t ∧ t = { s with objs := t.objs } ∧ notificationIs t N (w ||| BitVec.ofNat 64 (2 ^ bit)) [])

/-- R217, R218, R232, R244, R246, R353, R355, R357: a hart's stores are performed in order, each some time after the hart has made it,
while its loads find them; a load and an atomic are performed at their address, a poisoned granule being an access fault with its
address (PRESUMED, log 50: the cause numbers and the delegation; DESIGN CHOICE, log 103: the physical address); the lines stand under
the key identifier of the address (R244); a fence changes nothing else, and `time` reads the bell. An instruction that the spec takes from RISC-V leaves a register, a CSR and
the pc of its hart as the event says (PRESUMED, log 33); a word of custom-0 is none. A trap
withdraws a hart that waits, whose instruction has not been performed, or ends with GONE an `hcxcall` whose message has been taken,
and whose reply nobody receives any more. -/
def Claims.HartsAccessMemoryAndTakeTraps : Prop :=
  ∀ (s : State) (h pa rd : Nat) (v e : Word) (cause : Word), s.mem.wf = true → (getHart s h).x.length = 32 → rd < 32 →
    let plain := fun (a : Nat) => isRegSpace a = false ∧ isHotSpace a = false ∧ outOfReach a = false ∧ ringAt s a = none
    plain pa → (getHart s h).hc.length = 16 → (∀ j, j < 16 → viewed s.mem (pa + j) = true) →
    let x := getHart s h
    let only := fun (t : State) => t = { s with harts := t.harts } ∧ ∀ k, k ≠ h → getHart t k = getHart s k
    let clean := fun (n : Nat) => ∀ j, j < n → memPoison s.mem (pa + j) = false
    let stored := fun (t : State) (n : Nat) => ∀ a, a < pa ∨ pa + n ≤ a → memByte t.mem a = memByte s.mem a
    let trapped := fun (y : Hart) (c tval epc : Word) => x.mode ≠ .machine → y.scause = c ∧ y.stval = tval ∧ y.sepc = epc ∧
      y.mode = .supervisor ∧ y.spp = decide (x.mode = .supervisor ∨ x.mode = .virtualSupervisor) ∧
      y.spv = decide (x.mode = .virtualSupervisor ∨ x.mode = .virtualUser) ∧ y.pc = x.stvec &&& ~~~3#64 ∧ y.wait = .none
    (∀ n sg, x.stores = [] → n = 1 ∨ n = 2 ∨ n = 4 ∨ n = 8 → clean n → ∃ t, exec (.hostHartAccess h pa (.load n sg rd)) s = .next t ∧ only t ∧
      getX (getHart t h) rd = if rd = 0 then 0 else
        if sg = true then BitVec.ofInt 64 (signedOf (8 * n) (memValue s.mem pa n)) else BitVec.ofNat 64 (memValue s.mem pa n)) ∧
    (∀ n sg, pa % 16 = 0 → 1 ≤ n → n ≤ 16 → memPoison s.mem pa = true → ∃ t, exec (.hostHartAccess h pa (.load n sg rd)) s = .next t ∧
      only t ∧ trapped (getHart t h) 5 (BitVec.ofNat 64 pa) x.pc) ∧
    (∀ n b, n = 1 ∨ n = 2 ∨ n = 4 ∨ n = 8 → clean n → x.stores = [⟨pa, n, v, b⟩] → rd ≠ 0 →
      ∃ t, exec (.hostHartAccess h pa (.load n false rd)) s = .next t ∧ only t ∧
        getX (getHart t h) rd = BitVec.ofNat 64 (v.toNat % 2 ^ (8 * n))) ∧
    (∀ n, ∃ t, exec (.hostHartAccess h pa (.store n v)) s = .next t ∧ only t ∧
      getHart t h = { x with stores := x.stores ++ [⟨pa, n, v, writesReg h (x.mode == .supervisor) pa⟩] }) ∧
    (∀ n b es, 1 ≤ n → n ≤ 16 → x.stores = ⟨pa, n, v, b⟩ :: es → ∃ t, exec (.hostHartAccess h 0 .drain) s = .next t ∧ only { t with mem := s.mem } ∧
      getHart t h = { x with stores := es } ∧ stored t n ∧ memValue t.mem pa n = v.toNat % 2 ^ (8 * n)) ∧
    (∀ b es a r base log, x.stores = ⟨a, 4, v, b⟩ :: es → ringAt s a = some (r, base, log) → a = base + 8 → isRegSpace a = false →
      isHotSpace a = false → exec (.hostHartAccess h 0 .drain) s =
        exec (.ringDoneWrite r (v.setWidth 32)) (putHart s h { x with stores := es })) ∧
    (x.stores = [] → exec (.hostHartAccess h 0 .drain) s = .next s) ∧ exec (.hostHartAccess h 0 .fence) s = .next s ∧
    (∃ t, exec (.hostHartAccess h 0 (.time rd)) s = .next t ∧ only t ∧ getX (getHart t h) rd = if rd = 0 then 0 else s.bell) ∧
    (∀ pc csr, ((hartWord s x).any isCustom0 = true → exec (.hostHartAccess h 0 (.own rd v pc csr)) s = .next s) ∧
      ((hartWord s x).any isCustom0 = false → ∃ t, exec (.hostHartAccess h 0 (.own rd v pc csr)) s = .next t ∧ only t ∧
        let y := getHart t h
        y.pc = pc ∧ getX y rd = (if rd = 0 then 0 else v) ∧ (∀ k, k ≠ rd → k < 32 → getX y k = getX x k) ∧ y.hc = x.hc ∧
          y.stores = x.stores ∧ y.wait = x.wait ∧ y.right = x.right ∧ y.released = x.released ∧
          ((∀ w, csr ≠ some (.status, w)) → y.mode = x.mode ∧ y.spp = x.spp ∧ y.mpp = x.mpp ∧ y.spv = x.spv) ∧
          ((∀ w, csr ≠ some (.satp, w)) → y.satp = x.satp) ∧ ∀ w, csr = some (.satp, w) → y.satp = w)) ∧
    (∀ op w32, let w := if w32 then 32 else 64
      let m := memValue s.mem pa (w / 8)
      x.stores = [] → clean (w / 8) → ∃ t r, exec (.hostHartAccess h pa (.amo op w32 v e rd)) s = .next t ∧
        atomTable op w m (v.toNat % 2 ^ w) (e.toNat % 2 ^ w) r ∧ memValue t.mem pa (w / 8) = r.getD m ∧ stored t (w / 8) ∧
        (rd ≠ 0 → getX (getHart t h) rd = BitVec.ofInt 64 (signedOf w m))) ∧
    (x.wait = .none → exec (.hostTrapWithdraw h cause) s = .next s) ∧
    (∀ ep cb stc ldc, x.wait = .xcall ep true cb stc ldc → 0 < cb → cb < 16 → ∃ t, exec (.hostTrapWithdraw h cause) s = .next t ∧
      t.mem = s.mem ∧ trapped (getHart t h) cause 0 (x.pc + 4) ∧ (∀ k, 10 ≤ k → k < 13 → getX (getHart t h) k = 0) ∧
      getX (getHart t h) 13 = 5 ∧ getHc (getHart t h) cb = Cap.null ∧ ∀ k r, (getHart t k).right = some r → r.caller ≠ .hart h) ∧
    (x.wait ≠ .none → (∀ ep cb stc ldc, x.wait ≠ .xcall ep true cb stc ldc) → ∃ t, exec (.hostTrapWithdraw h cause) s = .next t ∧
      t = { s with objs := t.objs, harts := t.harts } ∧ trapped (getHart t h) cause 0 x.pc ∧
      ∀ N xs rs, endpointIs s N xs rs → endpointIs t N (xs.filter fun y => y.who ≠ .hart h) (rs.filter fun y => y.who ≠ .hart h))

/-- The package is brought up with a checked image. -/
def Obligations.ThePackageIsBroughtUp : Prop :=
  Claims.BringUpElectsALeader ∧ Claims.ACheckedImageIsInstalled

/-- Key objects, the management space and harts act as their tables say. -/
def Obligations.HostAndManagementActOnThePackage : Prop :=
  Claims.KeyObjectsAnswerTheirRequests ∧ Claims.ManagementActsAsItsTables ∧ Claims.HartsAccessMemoryAndTakeTraps

/-! ## Encoding, steps, reset -/

/-- R18, R23, R27, R356: the words of well-formed instructions decode to them, with every operand at every value that the encoding
has; what follows a word is left over. -/
def Claims.EveryWellFormedInstructionIsDecodedFromItsWord : Prop :=
  (∀ (i : Instr) (n w : Nat) (rest : List Byte), i.wf = true → encode i = some (n, w) →
    decodeBytes (wordBytes (8 * n) w ++ rest) = some (.ok i, n, rest)) ∧
  ∀ (i : Instr) (w : Nat), i.wf = true → encodeHost i = some w → w < 2 ^ 32 ∧ decodeHost w = .ok i

/-- R18, R26, R40, R356: a word that decodes is the word of the instruction that it decodes to, and that instruction is well
formed: no bit of a word is without a reading. -/
def Claims.EveryDecodedWordIsItsInstructionsWord : Prop :=
  (∀ (w : Nat) (i : Instr), w < 2 ^ 32 → w % 2 = 1 → decode32 w = .ok i → i.wf = true ∧ encode i = some (4, w)) ∧
  (∀ w, w < 2 ^ 16 → w % 2 = 0 → (decode16 w).wf = true ∧ encode (decode16 w) = some (2, w)) ∧
  ∀ (w : Nat) (i : Instr), w < 2 ^ 32 → decodeHost w = .ok i → i.wf = true ∧ encodeHost i = some w

/-- Words written out from the field tables of R20, R27, R29, R40 and R356 decode to the instructions that they stand for. -/
def Obligations.WordsOfTheManualDecode : Prop :=
  decode16 0x2518 = .fadd16 false 9 8 ∧
  decode32 0x0F880101 = .ok (.clause false .w 15 1 2) ∧
  decode32 0x202201FD = .ok (.srd 0x0110 (.v 3)) ∧
  decode32 0x40201A7D = .ok (.swr 0x0100 (.s 4)) ∧
  decode32 0x6005407D = .ok (.trap 0x2A) ∧
  decode32 0x8000007D = .ok .tret ∧
  decodeHost 0x0105010B = .ok (.hcld 16 10 2) ∧
  decodeHost 0x0451C00B = .ok (.hcxcall 5 3)

/-- R18, R29, R32, R127, R246, R440: a step runs the instruction whose bytes stand at the PC of the selected seats, inside a clause or as
the first one after a header, as a pass of the bench; or a hart's instruction, or an event; then the clock advances. Out of service
only a reset happens. -/
def Obligations.AStepRunsTheDecodedInstruction : Prop :=
  (∀ (s : State) (core slot : Nat) (p : Pass) (i : Instr), outOfService s = false → chooseAct s = some (.pass core slot p) →
    p.kind = .instr i →
    step s = onNext (exec i (beginPass s core slot p)) fun u => settle (afterPass u core slot (closesClause i))) ∧
  (∀ (s : State) (core slot : Nat) (p : Pass), Act.pass core slot p ∈ acts s → planBench s core slot = .pass p) ∧
  (∀ (s : State) (core slot : Nat) (f : Fetched) (st : State),
    let u := choosing s core slot
    let b := getBench u core slot
    let pc := lowestWord ((baseSeats b).map fun k => (getSeat b k).pc)
    b.mode = .running → b.misses = [] → eligibleSeats b ≠ [] → fetchAt (selectPass u core slot 0 pc 4) pc = .ok (f, st) →
    (∀ i, f.isHeader = false → decodeBytes (wordBytes (8 * f.len) f.word) = some (.ok i, f.len, []) →
      let l := seatsAt b pc false
      let x := getSeat b (l.headD 0)
      x.must = 0 → planBench s core slot =
        admission u core slot ⟨maskOf fun k => l.contains k, false, x.hdr, x.hdrWord, pc, f.len, .instr i, st⟩ i) ∧
    ∀ i h (g : Fetched) (st' : State), f.isHeader = true → decode32 f.word = .ok h → waitClear b f.word = true →
      fetchAt st (pc + 4) = .ok (g, st') → g.isHeader = false →
      decodeBytes (wordBytes (8 * g.len) g.word) = some (.ok i, g.len, []) → planBench s core slot =
        admission u core slot ⟨maskOf fun k => (seatsAt b pc true).contains k, true, pc, BitVec.ofNat 32 f.word, pc + 4, g.len,
          .instr i, st'⟩ i) ∧
  (∀ (s : State) (h : Nat) (i : Instr), outOfService s = false → chooseAct s = some (.hart h) →
    let u := { s with sel := { s.sel with hart := h } }
    (fetchPoison s h = none → decodeHost ((hartWord s (getHart s h)).getD 0) = .ok i → step s = onNext (exec i u) settle) ∧
    ∀ g, fetchPoison s h = some g → step s = .next (settle (hartFault u 1 (BitVec.ofNat 64 g)))) ∧
  (∀ (s : State) (e : Event) (i : Instr), outOfService s = false → chooseAct s = some (.event e) → rowOf i e →
    step s = onNext (exec i s) settle) ∧
  (∀ (s : State) (k : Nat) (e : Event) (i : Instr), outOfService s = false → chooseAct s = some (.agenda k) →
    s.agenda[k]? = some e → rowOf i e → step s = onNext (exec i { s with agenda := s.agenda.eraseIdx k }) settle) ∧
  (∀ e, ∃ i, rowOf i e) ∧
  (∀ (s : State), outOfService s = false → chooseAct s = none → step s = .next (settle s)) ∧
  (∀ (s : State), outOfService s = true → Event.packageReset ∉ s.agenda → step s = .fault .packageStopped) ∧
  (∀ (s : State), outOfService s = true → Event.packageReset ∈ s.agenda → ∃ k, s.agenda[k]? = some .packageReset ∧
    step s = onNext (exec .packageReset { s with agenda := s.agenda.eraseIdx k }) settle) ∧
  ∀ (i : Instr), (∃ n w, encode i = some (n, w)) ∨ (∃ w, encodeHost i = some w) ∨ ∃ e, rowOf i e

/-- R295, R327: every step leaves the two clocks of the Dean right: the one of R327 runs only for a running task whose live seats are
all blocked at endpoints or rings, the one of R295 only for a task of the ready pool. -/
def Obligations.EveryStepKeepsTheDeansClocks : Prop :=
  ∀ (s t : State), ParkClockInv s → StarvedClockInv s → step s = .next t → ParkClockInv t ∧ StarvedClockInv t

/-- R51, R221, R228, R249, R251, R302, R312, R314, R335, R440, R453: what the tables of the spec give for reset. -/
def Obligations.ResetLeavesWhatTheTablesGive : Prop :=
  let s := State.reset
  (∀ core, let c := getCore s core
    c.benches = [] ∧ (∀ slot k, (getSeat (getBench s core slot) k).state = .exited) ∧
    c.tregs.tbench = 0x7F ∧ c.tregs.tcause = 0 ∧ c.tregs.tifa = 0 ∧ c.tregs.taddr = 0 ∧ c.tregs.tmask = 0 ∧ c.tregs.tresume = 0 ∧
    c.tregs.tindex = 0 ∧ c.tregs.tctx = 0 ∧
    (∀ e, e < 64 → ttEntry c e = (false, false, 0)) ∧ (∀ pipe, (lookupKey c.ttPos pipe).getD 0 = 0) ∧
    c.feat % 8 = 7 ∧ c.feat / 32 = 1) ∧
  mgmtRead s 0x0010 = 4000000000 ∧ mgmtRead s 0x0020 = 0 ∧
  mgmtRead s 0x0100 = 1000000 ∧ mgmtRead s 0x0108 = 16384 ∧ mgmtRead s 0x0110 = 1000000 ∧ mgmtRead s 0x0118 = 0 ∧
  mgmtRead s 0x0120 = 1000000 ∧ mgmtRead s 0x0130 = 1700 ∧
  mgmtRead s 0x0200 = 0 ∧ mgmtRead s 0x0208 = 4 ∧ mgmtRead s 0x0210 = 0 ∧ mgmtRead s 0x0218 = 0 ∧
  mgmtRead s 0x0380 = 0 ∧ mgmtRead s 0x3000 = 15000 ∧ mgmtRead s 0x3008 = 0 ∧ mgmtRead s 0x3010 = 0 ∧ mgmtRead s 0x3018 = 95 ∧
  mgmtRead s 0x3020 = 0 ∧
  (∀ k, k < 16 → mgmtRead s (0x300 + 8 * k) = 0) ∧ (∀ k, k < 64 → mgmtRead s (0x1000 + 8 * k) = 0) ∧
  (∀ h, h < 16 → mgmtRead s (0x2000 + 0x100 * h) = 16 ∧ mgmtRead s (0x2008 + 0x100 * h) = 0 ∧ mgmtRead s (0x2010 + 0x100 * h) = 0) ∧
  (∀ t, t < 2048 → mgmtRead s (0x4000 + t) = 0) ∧
  s.boot.state = .rom ∧ s.boot.round = 0 ∧ s.boot.leader = none ∧ s.boot.reason = 0 ∧
  s.tasks = [] ∧ s.harts = [] ∧ ParkClockInv s ∧ StarvedClockInv s

/-- Decoding and encoding agree, in both directions. -/
def Obligations.DecodingAndEncodingAgree : Prop :=
  Claims.EveryWellFormedInstructionIsDecodedFromItsWord ∧ Claims.EveryDecodedWordIsItsInstructionsWord
end

