-- ==== Sys2Proof/Laws/Bits.lean ====
section
/-!
SUPPORT. Laws of sub-elements, of lists by place and of association lists.
-/
namespace Sys2Proof.Machine

/-! ## Sub-elements (R53, R54) -/

theorem sumElems_lt (w : Nat) (f : Nat → Nat) : ∀ n, (List.range n).foldl (fun acc i => acc + f i % 2 ^ w * 2 ^ (w * i)) 0 < 2 ^ (w * n)
  | 0 => by simp
  | n + 1 => by
    rw [List.range_succ, List.foldl_append, List.foldl_cons, List.foldl_nil]
    have h := sumElems_lt w f n
    have h2 : f n % 2 ^ w < 2 ^ w := Nat.mod_lt _ (by positivity)
    have h3 : 2 ^ (w * (n + 1)) = 2 ^ w * 2 ^ (w * n) := by rw [← pow_add]; ring_nf
    rw [h3]
    nlinarith
theorem sumElems_elem (w : Nat) (f : Nat → Nat) : ∀ n j, j < n →
    (List.range n).foldl (fun acc i => acc + f i % 2 ^ w * 2 ^ (w * i)) 0 / 2 ^ (w * j) % 2 ^ w = f j % 2 ^ w
  | n + 1, j, hj => by
    rw [List.range_succ, List.foldl_append, List.foldl_cons, List.foldl_nil]
    rcases Nat.lt_or_eq_of_le (Nat.lt_succ_iff.mp hj) with h | rfl
    · have e : 2 ^ (w * n) = 2 ^ (w * (n - j - 1)) * 2 ^ w * 2 ^ (w * j) := by
        rw [← pow_add, ← pow_add]; congr 1
        obtain ⟨k, rfl⟩ := Nat.exists_eq_add_of_lt h
        have : j + k + 1 - j - 1 = k := by omega
        rw [this]; ring
      rw [e, ← mul_assoc, Nat.add_mul_div_right _ _ (by positivity), ← mul_assoc, Nat.add_mul_mod_self_right]
      exact sumElems_elem w f n j h
    · have h := sumElems_lt w f j
      rw [Nat.add_mul_div_right _ _ (by positivity), Nat.div_eq_of_lt h]
      simp
theorem elem_ofElems (n w : Nat) (f : Nat → Nat) (j : Nat) (hj : j < n) (hw : w * n ≤ 64) :
    elem (ofElems n w f) j w = f j % 2 ^ w := by
  have h := sumElems_lt w f n
  have h2 : 2 ^ (w * n) ≤ 2 ^ 64 := Nat.pow_le_pow_right (by norm_num) hw
  unfold elem ofElems
  rw [BitVec.toNat_ofNat, Nat.mod_eq_of_lt (lt_of_lt_of_le h h2)]
  exact sumElems_elem w f n j hj
theorem elem_lanes (w : Nat) (f : Nat → Nat) (j : Nat) (hj : j < 64 / w) : elem (lanes w f) j w = f j % 2 ^ w :=
  elem_ofElems _ _ _ _ hj (Nat.mul_div_le 64 w)
theorem elem_lt (x : Word) (i w : Nat) : elem x i w < 2 ^ w := Nat.mod_lt _ (by positivity)

/-! ## Lists by place -/

theorem nth_setNth_same {α : Type} (l : List α) (k : Nat) (x d : α) (h : k < l.length) : nth (setNth l k x) k d = x := by
  simp [nth, setNth, h]
theorem nth_setNth_other {α : Type} (l : List α) (j k : Nat) (x d : α) (h : j ≠ k) :
    nth (setNth l j x) k d = nth l k d := by
  simp [nth, setNth, List.getElem?_set_ne h]
@[simp] theorem length_setNth {α : Type} (l : List α) (k : Nat) (x : α) : (setNth l k x).length = l.length := by
  simp [setNth]

/-! ## Association lists -/

theorem lookupKey_nil {κ α : Type} [BEq κ] (k : κ) : lookupKey ([] : List (κ × α)) k = none := rfl
theorem lookupKey_cons {κ α : Type} [BEq κ] (e : κ × α) (l : List (κ × α)) (k : κ) :
    lookupKey (e :: l) k = if e.1 == k then some e.2 else lookupKey l k := by
  unfold lookupKey
  rw [List.find?_cons]
  cases e.1 == k <;> rfl
theorem lookupKey_append_single {κ α : Type} [BEq κ] (l : List (κ × α)) (k j : κ) (x : α) :
    lookupKey (l ++ [(k, x)]) j = (lookupKey l j).or (if k == j then some x else none) := by
  induction l with
  | nil => simp [lookupKey_cons, lookupKey_nil]
  | cons e l ih =>
    rw [List.cons_append, lookupKey_cons, lookupKey_cons, ih]
    cases e.1 == j <;> simp
theorem lookupKey_map_other {κ α : Type} [BEq κ] [LawfulBEq κ] (l : List (κ × α)) (k j : κ) (x : α) (hjk : k ≠ j) :
    lookupKey (l.map fun e => if e.1 == k then (k, x) else e) j = lookupKey l j := by
  have hkj : (k == j) = false := by simpa using hjk
  induction l with
  | nil => rfl
  | cons e l ih =>
    rw [List.map_cons, lookupKey_cons, lookupKey_cons, ih]
    by_cases he : e.1 = k
    · subst he; simp [hkj]
    · rw [beq_eq_false_iff_ne.mpr he]; simp
theorem lookupKey_map_same {κ α : Type} [BEq κ] [LawfulBEq κ] (l : List (κ × α)) (k : κ) (x : α)
    (h : l.any (fun e => e.1 == k) = true) : lookupKey (l.map fun e => if e.1 == k then (k, x) else e) k = some x := by
  induction l with
  | nil => simp at h
  | cons e l ih =>
    rw [List.map_cons, lookupKey_cons]
    by_cases he : e.1 = k
    · simp [he]
    · rw [List.any_cons] at h
      simp only [beq_eq_false_iff_ne.mpr he, Bool.false_or] at h
      simp [he, ih h]
theorem lookupKey_none {κ α : Type} [BEq κ] (l : List (κ × α)) (k : κ) (h : ¬ l.any (fun e => e.1 == k) = true) :
    lookupKey l k = none := by
  induction l with
  | nil => rfl
  | cons e l ih =>
    rw [List.any_cons, Bool.or_eq_true, not_or] at h
    rw [lookupKey_cons, ih h.2]
    simp [h.1]
theorem lookupKey_putKey_same {κ α : Type} [BEq κ] [LawfulBEq κ] (l : List (κ × α)) (k : κ) (x : α) :
    lookupKey (putKey l k x) k = some x := by
  unfold putKey
  split
  · exact lookupKey_map_same _ _ _ (by assumption)
  · rw [lookupKey_append_single, lookupKey_none _ _ (by assumption)]; simp
theorem lookupKey_putKey_other {κ α : Type} [BEq κ] [LawfulBEq κ] (l : List (κ × α)) (k j : κ) (x : α) (hjk : k ≠ j) :
    lookupKey (putKey l k x) j = lookupKey l j := by
  unfold putKey
  split
  · exact lookupKey_map_other _ _ _ _ hjk
  · rw [lookupKey_append_single]; simp [hjk]

end Sys2Proof.Machine
end

