-- ==== Sys2Proof/Laws/Memory.lean ====
section
/-!
SUPPORT. Laws of memories: every operation keeps the canonical form, and what is read after a write.
-/
namespace Sys2Proof.Machine

/-! ## The canonical form -/

theorem cellsWf_iff (l : List Host.Cell) :
    cellsWf l = true ↔ l.Pairwise (fun x y => x.1 < y.1) ∧ ∀ x ∈ l, x.2 ≠ 0 := by
  induction l with
  | nil => simp [cellsWf]
  | cons x r ih =>
    obtain ⟨a, v⟩ := x
    cases r with
    | nil => simp [cellsWf]
    | cons y r =>
      obtain ⟨b, u⟩ := y
      simp only [cellsWf, Bool.and_eq_true, decide_eq_true_eq, bne_iff_ne, ih, List.pairwise_cons, List.mem_cons]
      constructor
      · rintro ⟨⟨hv, hab⟩, ⟨hb, hr⟩, hn⟩
        refine ⟨⟨?_, hb, hr⟩, ?_⟩
        · rintro z (rfl | hz)
          · exact hab
          · exact lt_trans hab (hb z hz)
        · rintro z (rfl | hz)
          · exact hv
          · exact hn z hz
      · rintro ⟨⟨ha, hb, hr⟩, hn⟩
        exact ⟨⟨hn _ (.inl rfl), ha _ (.inl rfl)⟩, ⟨hb, hr⟩, fun z hz => hn z (.inr hz)⟩
theorem natsWf_iff (l : List Nat) : natsWf l = true ↔ l.Pairwise (· < ·) := by
  induction l with
  | nil => simp [natsWf]
  | cons x r ih =>
    cases r with
    | nil => simp [natsWf]
    | cons y r =>
      simp only [natsWf, Bool.and_eq_true, decide_eq_true_eq, ih, List.pairwise_cons, List.mem_cons]
      constructor
      · rintro ⟨hxy, hy, hr⟩
        refine ⟨?_, hy, hr⟩
        rintro z (rfl | hz)
        · exact hxy
        · exact lt_trans hxy (hy z hz)
      · rintro ⟨hx, hy, hr⟩
        exact ⟨hx _ (.inl rfl), hy, hr⟩
theorem mem_cellPut {l : List Host.Cell} {a : Nat} {b : Byte} {x : Host.Cell} (h : x ∈ cellPut l a b) :
    x ∈ l ∨ (x = (a, b) ∧ b ≠ 0) := by
  induction l with
  | nil =>
    simp only [cellPut] at h
    split at h <;> simp_all
  | cons y r ih =>
    obtain ⟨k, v⟩ := y
    simp only [cellPut] at h
    split at h
    · split at h <;> simp_all <;> tauto
    · split at h
      · split at h <;> simp_all <;> tauto
      · rcases List.mem_cons.mp h with h | h
        · exact .inl (h ▸ List.mem_cons_self ..)
        · rcases ih h with h | h
          · exact .inl (List.mem_cons_of_mem _ h)
          · exact .inr h
theorem cellPut_wf (l : List Host.Cell) (a : Nat) (b : Byte) (h : cellsWf l = true) : cellsWf (cellPut l a b) = true := by
  rw [cellsWf_iff] at h ⊢
  refine ⟨?_, fun x hx => ?_⟩
  · obtain ⟨h, -⟩ := h
    induction l with
    | nil => simp only [cellPut]; split <;> simp
    | cons y r ih =>
      obtain ⟨k, v⟩ := y
      obtain ⟨h1, h2⟩ := List.pairwise_cons.mp h
      simp only [cellPut]
      split
      · split
        · exact h
        · refine List.pairwise_cons.mpr ⟨?_, h⟩
          rintro z hz
          rcases List.mem_cons.mp hz with rfl | hz
          · assumption
          · exact lt_trans ‹a < k› (h1 z hz)
      · split
        · subst k
          split
          · exact h2
          · exact List.pairwise_cons.mpr ⟨h1, h2⟩
        · refine List.pairwise_cons.mpr ⟨fun z hz => ?_, ih h2⟩
          rcases mem_cellPut hz with hz | ⟨rfl, -⟩
          · exact h1 z hz
          · show k < a
            omega
  · rcases mem_cellPut hx with hx | ⟨rfl, hb⟩
    · exact h.2 x hx
    · exact hb
theorem mem_natPut {l : List Nat} {a : Nat} {b : Bool} {x : Nat} (h : x ∈ natPut l a b) : x ∈ l ∨ x = a := by
  induction l with
  | nil =>
    simp only [natPut] at h
    split at h <;> simp_all
  | cons y r ih =>
    simp only [natPut] at h
    split at h
    · split at h <;> simp_all <;> tauto
    · split at h
      · split at h <;> simp_all
      · rcases List.mem_cons.mp h with h | h
        · exact .inl (h ▸ List.mem_cons_self ..)
        · rcases ih h with h | h
          · exact .inl (List.mem_cons_of_mem _ h)
          · exact .inr h
theorem natPut_wf (l : List Nat) (a : Nat) (b : Bool) (h : natsWf l = true) : natsWf (natPut l a b) = true := by
  rw [natsWf_iff] at h ⊢
  induction l with
  | nil => simp only [natPut]; split <;> simp
  | cons k r ih =>
    obtain ⟨h1, h2⟩ := List.pairwise_cons.mp h
    simp only [natPut]
    split
    · split
      · refine List.pairwise_cons.mpr ⟨?_, h⟩
        rintro z hz
        rcases List.mem_cons.mp hz with rfl | hz
        · assumption
        · exact lt_trans ‹a < k› (h1 z hz)
      · exact h
    · split
      · subst k
        split
        · exact h
        · exact h2
      · refine List.pairwise_cons.mpr ⟨fun z hz => ?_, ih h2⟩
        rcases mem_natPut hz with hz | rfl
        · exact h1 z hz
        · omega
theorem cells_filter_wf (l : List Host.Cell) (p : Host.Cell → Bool) (h : cellsWf l = true) : cellsWf (l.filter p) = true := by
  rw [cellsWf_iff] at h ⊢
  exact ⟨h.1.filter _, fun x hx => h.2 x (List.mem_of_mem_filter hx)⟩
theorem nats_filter_wf (l : List Nat) (p : Nat → Bool) (h : natsWf l = true) : natsWf (l.filter p) = true := by
  rw [natsWf_iff] at h ⊢
  exact h.filter _
theorem viewsWf_iff (l : List (Nat × List Nat)) :
    viewsWf l = true ↔ l.Pairwise (fun x y => x.1 < y.1) ∧ ∀ x ∈ l, x.2 ≠ [0] := by
  induction l with
  | nil => simp [viewsWf]
  | cons x r ih =>
    obtain ⟨a, v⟩ := x
    cases r with
    | nil => simp [viewsWf]
    | cons y r =>
      obtain ⟨b, u⟩ := y
      simp only [viewsWf, Bool.and_eq_true, decide_eq_true_eq, bne_iff_ne, ih, List.pairwise_cons, List.mem_cons]
      constructor
      · rintro ⟨⟨hv, hab⟩, ⟨hb, hr⟩, hn⟩
        refine ⟨⟨?_, hb, hr⟩, ?_⟩
        · rintro z (rfl | hz)
          · exact hab
          · exact lt_trans hab (hb z hz)
        · rintro z (rfl | hz)
          · exact hv
          · exact hn z hz
      · rintro ⟨⟨ha, hb, hr⟩, hn⟩
        exact ⟨⟨hn _ (.inl rfl), ha _ (.inl rfl)⟩, ⟨hb, hr⟩, fun z hz => hn z (.inr hz)⟩
theorem mem_viewPut {l : List (Nat × List Nat)} {a : Nat} {b : List Nat} {x : Nat × List Nat} (h : x ∈ viewPut l a b) :
    x ∈ l ∨ (x = (a, b) ∧ b ≠ [0]) := by
  induction l with
  | nil =>
    simp only [viewPut] at h
    split at h <;> simp_all
  | cons y r ih =>
    obtain ⟨k, v⟩ := y
    simp only [viewPut] at h
    split at h
    · split at h <;> simp_all <;> tauto
    · split at h
      · split at h <;> simp_all <;> tauto
      · rcases List.mem_cons.mp h with h | h
        · exact .inl (h ▸ List.mem_cons_self ..)
        · rcases ih h with h | h
          · exact .inl (List.mem_cons_of_mem _ h)
          · exact .inr h
theorem viewPut_wf (l : List (Nat × List Nat)) (a : Nat) (b : List Nat) (h : viewsWf l = true) : viewsWf (viewPut l a b) = true := by
  rw [viewsWf_iff] at h ⊢
  refine ⟨?_, fun x hx => ?_⟩
  · obtain ⟨h, -⟩ := h
    induction l with
    | nil => simp only [viewPut]; split <;> simp
    | cons y r ih =>
      obtain ⟨k, v⟩ := y
      obtain ⟨h1, h2⟩ := List.pairwise_cons.mp h
      simp only [viewPut]
      split
      · split
        · exact h
        · refine List.pairwise_cons.mpr ⟨?_, h⟩
          rintro z hz
          rcases List.mem_cons.mp hz with rfl | hz
          · assumption
          · exact lt_trans ‹a < k› (h1 z hz)
      · split
        · subst k
          split
          · exact h2
          · exact List.pairwise_cons.mpr ⟨h1, h2⟩
        · refine List.pairwise_cons.mpr ⟨fun z hz => ?_, ih h2⟩
          rcases mem_viewPut hz with hz | ⟨rfl, -⟩
          · exact h1 z hz
          · show k < a
            omega
  · rcases mem_viewPut hx with hx | ⟨rfl, hb⟩
    · exact h.2 x hx
    · exact hb
theorem views_filter_wf (l : List (Nat × List Nat)) (p : Nat × List Nat → Bool) (h : viewsWf l = true) : viewsWf (l.filter p) = true := by
  rw [viewsWf_iff] at h ⊢
  exact ⟨h.1.filter _, fun x hx => h.2 x (List.mem_of_mem_filter hx)⟩
theorem cells_shift_wf (l : List Host.Cell) (a : Nat) (h : cellsWf l = true) (hl : ∀ x ∈ l, a ≤ x.1) :
    cellsWf (l.map fun c => (c.1 - a, c.2)) = true := by
  rw [cellsWf_iff] at h ⊢
  refine ⟨List.pairwise_map.mpr (h.1.imp_of_mem fun {x y} hx hy hxy => ?_), fun x hx => ?_⟩
  · have := hl x hx
    show x.1 - a < y.1 - a
    omega
  · obtain ⟨y, hy, rfl⟩ := List.mem_map.mp hx
    exact h.2 y hy
theorem nats_shift_wf (l : List Nat) (a : Nat) (h : natsWf l = true) (hl : ∀ x ∈ l, a ≤ x) :
    natsWf (l.map fun c => c - a) = true := by
  rw [natsWf_iff] at h ⊢
  refine List.pairwise_map.mpr (h.imp_of_mem fun {x y} hx hy hxy => ?_)
  have := hl x hx
  omega

theorem Mem.wf_iff (m : Mem) :
    m.wf = true ↔ cellsWf m.cells = true ∧ natsWf m.tags = true ∧ natsWf m.poison = true ∧ viewsWf m.views = true := by
  simp [Mem.wf, and_assoc]
theorem Mem.empty_wf : Mem.wf ⟨[], [], [], []⟩ = true := rfl
theorem withCells_wf (m : Mem) (l : List Host.Cell) (h : m.wf = true) (hl : cellsWf l = true) : Mem.wf { m with cells := l } = true :=
  (Mem.wf_iff _).mpr ⟨hl, ((Mem.wf_iff _).mp h).2⟩
theorem withViews_wf (m : Mem) (l : List (Nat × List Nat)) (h : m.wf = true) (hl : viewsWf l = true) : Mem.wf { m with views := l } = true :=
  (Mem.wf_iff _).mpr ⟨((Mem.wf_iff _).mp h).1, ((Mem.wf_iff _).mp h).2.1, ((Mem.wf_iff _).mp h).2.2.1, hl⟩
theorem Mem.views_wf (m : Mem) (h : m.wf = true) : viewsWf m.views = true := ((Mem.wf_iff m).mp h).2.2.2
theorem foldl_keeps {α β : Type} (P : β → Prop) (f : β → α → β) (l : List α) (b : β) (h : P b)
    (hf : ∀ b x, P b → P (f b x)) : P (l.foldl f b) := by
  induction l generalizing b with
  | nil => exact h
  | cons x r ih => exact ih _ (hf b x h)

theorem viewRange_wf (l : List (Nat × List Nat)) (a n : Nat) (h : viewsWf l = true) : viewsWf (viewRange l a n) = true := by
  unfold viewRange
  split
  · exact views_filter_wf _ _ h
  · exact foldl_keeps (fun l => viewsWf l = true) _ _ _ h fun l k hl => viewPut_wf _ _ _ hl
theorem forgetKid_wf (m : Mem) (kid : Nat) (h : m.wf = true) : (forgetKid m kid).wf = true := by
  rw [Mem.wf_iff] at h ⊢
  exact ⟨h.1, h.2.1, h.2.2.1, foldl_keeps (fun l => viewsWf l = true) _ _ _ h.2.2.2 fun l e hl => viewPut_wf _ _ _ hl⟩
theorem memSetByte_wf (m : Mem) (a : Nat) (b : Byte) (h : m.wf = true) : (memSetByte m a b).wf = true := by
  rw [Mem.wf_iff] at h ⊢
  exact ⟨cellPut_wf _ _ _ h.1, h.2.1, h.2.2.1, viewPut_wf _ _ _ h.2.2.2⟩
theorem memSetTag_wf (m : Mem) (a : Nat) (t : Bool) (h : m.wf = true) : (memSetTag m a t).wf = true := by
  rw [Mem.wf_iff] at h ⊢
  exact ⟨h.1, natPut_wf _ _ _ h.2.1, h.2.2⟩
theorem memSetPoison_wf (m : Mem) (a : Nat) (p : Bool) (h : m.wf = true) : (memSetPoison m a p).wf = true := by
  rw [Mem.wf_iff] at h ⊢
  exact ⟨h.1, h.2.1, natPut_wf _ _ _ h.2.2.1, h.2.2.2⟩
theorem memPutBytes_wf (m : Mem) (a : Nat) (bs : List Byte) (h : m.wf = true) : (memPutBytes m a bs).wf = true :=
  foldl_keeps (fun p : Mem × Nat => p.1.wf = true) _ bs (m, a) h fun p b hp => memSetByte_wf _ _ _ hp
theorem memTouch_wf (m : Mem) (a n : Nat) (p : Bool) (h : m.wf = true) : (memTouch m a n p).wf = true := by
  refine foldl_keeps (fun m : Mem => m.wf = true) _ _ _ h fun m g hm => ?_
  have ht := memSetTag_wf m g false hm
  dsimp only
  split
  · exact memSetPoison_wf _ _ _ ht
  · split
    · exact memSetPoison_wf _ _ _ ht
    · exact ht
/-- A store of data keeps the canonical form. -/
theorem memStore_wf (m : Mem) (a : Nat) (bs : List Byte) (p : Bool) (h : m.wf = true) : (memStore m a bs p).wf = true :=
  memTouch_wf _ _ _ _ (memPutBytes_wf _ _ _ h)
/-- A store of a capability keeps the canonical form. -/
theorem memStoreCap_wf (m : Mem) (a : Nat) (c : Cap) (p : Bool) (h : m.wf = true) : (memStoreCap m a c p).wf = true :=
  memSetPoison_wf _ _ _ (memSetTag_wf _ _ _ (memPutBytes_wf _ _ _ h))
/-- A cleared range keeps the canonical form. -/
theorem memClear_wf (m : Mem) (a n : Nat) (h : m.wf = true) : (memClear m a n).wf = true := by
  rw [Mem.wf_iff] at h ⊢
  exact ⟨cells_filter_wf _ _ h.1, nats_filter_wf _ _ h.2.1, nats_filter_wf _ _ h.2.2.1, viewRange_wf _ _ _ h.2.2.2⟩
/-- A slice of a memory has the canonical form. -/
theorem memSlice_wf (m : Mem) (a n : Nat) (h : m.wf = true) : (memSlice m a n).wf = true := by
  rw [Mem.wf_iff] at h ⊢
  refine ⟨cells_shift_wf _ _ (cells_filter_wf _ _ h.1) fun x hx => ?_, nats_shift_wf _ _ (nats_filter_wf _ _ h.2.1) fun x hx => ?_,
    nats_shift_wf _ _ (nats_filter_wf _ _ h.2.2.1) fun x hx => ?_, rfl⟩ <;>
  · have := (List.mem_filter.mp hx).2
    simp only [Bool.and_eq_true, decide_eq_true_eq] at this
    omega
/-- A pasted slice keeps the canonical form. -/
theorem memPaste_wf (m : Mem) (a n : Nat) (x : Mem) (h : m.wf = true) : (memPaste m a n x).wf = true := by
  refine foldl_keeps (fun m : Mem => m.wf = true) _ _ _ ?_ fun m g hm => memSetPoison_wf _ _ _ hm
  refine foldl_keeps (fun m : Mem => m.wf = true) _ _ _ ?_ fun m g hm => memSetTag_wf _ _ _ hm
  exact foldl_keeps (fun m : Mem => m.wf = true) _ _ _ (memClear_wf _ _ _ h) fun m c hm => memSetByte_wf _ _ _ hm

/-! ## Reads after writes -/

theorem cellGet_of_lt (l : List Host.Cell) (a : Nat) (h : ∀ x ∈ l, a < x.1) : cellGet l a = 0 := by
  cases l with
  | nil => rfl
  | cons y r => simp [cellGet, h y (List.mem_cons_self ..)]
/-- A byte that is put is read back; every other byte reads as before. -/
theorem cellGet_cellPut (l : List Host.Cell) (a x : Nat) (b : Byte) (h : cellsWf l = true) :
    cellGet (cellPut l a b) x = if x = a then b else cellGet l x := by
  rw [cellsWf_iff] at h
  obtain ⟨h, -⟩ := h
  induction l with
  | nil =>
    simp only [cellPut]
    split <;> simp only [cellGet] <;> split_ifs <;> simp_all <;> omega
  | cons y r ih =>
    obtain ⟨k, v⟩ := y
    obtain ⟨h1, h2⟩ := List.pairwise_cons.mp h
    have hr : ∀ z, z ≤ k → cellGet r z = 0 := fun z hz => cellGet_of_lt r z fun w hw => lt_of_le_of_lt hz (h1 w hw)
    simp only [cellPut]
    split
    · split
      · simp only [cellGet]; split_ifs <;> simp_all <;> omega
      · simp only [cellGet]; split_ifs <;> simp_all <;> omega
    · split
      · subst k
        split
        · have hb : b = 0 := ‹_›
          simp only [cellGet]
          rcases lt_trichotomy x a with h3 | rfl | h3
          · rw [if_neg h3.ne, if_pos h3]
            exact hr x h3.le
          · rw [if_pos rfl, hb]
            exact hr x le_rfl
          · rw [if_neg h3.ne', if_neg (by omega), if_neg (by omega)]
        · simp only [cellGet]; split_ifs <;> simp_all <;> omega
      · simp only [cellGet, ih h2]; split_ifs <;> simp_all <;> omega
theorem memByte_memSetByte (m : Mem) (a x : Nat) (b : Byte) (h : m.wf = true) :
    memByte (memSetByte m a b) x = if x = a then b else memByte m x :=
  cellGet_cellPut _ _ _ _ ((Mem.wf_iff m).mp h).1
theorem memByte_memSetTag (m : Mem) (a x : Nat) (t : Bool) : memByte (memSetTag m a t) x = memByte m x := rfl
theorem memByte_memSetPoison (m : Mem) (a x : Nat) (p : Bool) : memByte (memSetPoison m a p) x = memByte m x := rfl
theorem memTag_memSetByte (m : Mem) (a x : Nat) (b : Byte) : memTag (memSetByte m a b) x = memTag m x := rfl
theorem memPoison_memSetByte (m : Mem) (a x : Nat) (b : Byte) : memPoison (memSetByte m a b) x = memPoison m x := rfl

end Sys2Proof.Machine
end

