-- ==== Sys2Proof/Laws/State.lean ====
section
/-!
SUPPORT. The fields of the state under each update, one lemma for each field that the update leaves; and what is read back
from a core, a bench or the selected bench after it is put.
-/
namespace Sys2Proof.Machine

/-! ## putCore -/

@[simp] theorem putCore_pkg (s : State) (k : Nat) (c : Core) : (putCore s k c).pkg = s.pkg := rfl
@[simp] theorem putCore_bell (s : State) (k : Nat) (c : Core) : (putCore s k c).bell = s.bell := rfl
@[simp] theorem putCore_draws (s : State) (k : Nat) (c : Core) : (putCore s k c).draws = s.draws := rfl
@[simp] theorem putCore_sel (s : State) (k : Nat) (c : Core) : (putCore s k c).sel = s.sel := rfl
@[simp] theorem putCore_agenda (s : State) (k : Nat) (c : Core) : (putCore s k c).agenda = s.agenda := rfl
@[simp] theorem putCore_mem (s : State) (k : Nat) (c : Core) : (putCore s k c).mem = s.mem := rfl
@[simp] theorem putCore_flights (s : State) (k : Nat) (c : Core) : (putCore s k c).flights = s.flights := rfl
@[simp] theorem putCore_nextId (s : State) (k : Nat) (c : Core) : (putCore s k c).nextId = s.nextId := rfl
@[simp] theorem putCore_tasks (s : State) (k : Nat) (c : Core) : (putCore s k c).tasks = s.tasks := rfl
@[simp] theorem putCore_nextTask (s : State) (k : Nat) (c : Core) : (putCore s k c).nextTask = s.nextTask := rfl
@[simp] theorem putCore_nextSeq (s : State) (k : Nat) (c : Core) : (putCore s k c).nextSeq = s.nextSeq := rfl
@[simp] theorem putCore_nextDispatch (s : State) (k : Nat) (c : Core) : (putCore s k c).nextDispatch = s.nextDispatch := rfl
@[simp] theorem putCore_passNum (s : State) (k : Nat) (c : Core) : (putCore s k c).passNum = s.passNum := rfl
@[simp] theorem putCore_objs (s : State) (k : Nat) (c : Core) : (putCore s k c).objs = s.objs := rfl
@[simp] theorem putCore_dieTlb (s : State) (k : Nat) (c : Core) : (putCore s k c).dieTlb = s.dieTlb := rfl
@[simp] theorem putCore_walkCache (s : State) (k : Nat) (c : Core) : (putCore s k c).walkCache = s.walkCache := rfl
@[simp] theorem putCore_skewed (s : State) (k : Nat) (c : Core) : (putCore s k c).skewed = s.skewed := rfl
@[simp] theorem putCore_quarantine (s : State) (k : Nat) (c : Core) : (putCore s k c).quarantine = s.quarantine := rfl
@[simp] theorem putCore_nextRevoke (s : State) (k : Nat) (c : Core) : (putCore s k c).nextRevoke = s.nextRevoke := rfl
@[simp] theorem putCore_sweepStep (s : State) (k : Nat) (c : Core) : (putCore s k c).sweepStep = s.sweepStep := rfl
@[simp] theorem putCore_tagSummary (s : State) (k : Nat) (c : Core) : (putCore s k c).tagSummary = s.tagSummary := rfl
@[simp] theorem putCore_hot (s : State) (k : Nat) (c : Core) : (putCore s k c).hot = s.hot := rfl
@[simp] theorem putCore_nextObj (s : State) (k : Nat) (c : Core) : (putCore s k c).nextObj = s.nextObj := rfl
@[simp] theorem putCore_exportSlots (s : State) (k : Nat) (c : Core) : (putCore s k c).exportSlots = s.exportSlots := rfl
@[simp] theorem putCore_exportUnits (s : State) (k : Nat) (c : Core) : (putCore s k c).exportUnits = s.exportUnits := rfl
@[simp] theorem putCore_pools (s : State) (k : Nat) (c : Core) : (putCore s k c).pools = s.pools := rfl
@[simp] theorem putCore_harts (s : State) (k : Nat) (c : Core) : (putCore s k c).harts = s.harts := rfl
@[simp] theorem putCore_links (s : State) (k : Nat) (c : Core) : (putCore s k c).links = s.links := rfl
@[simp] theorem putCore_paths (s : State) (k : Nat) (c : Core) : (putCore s k c).paths = s.paths := rfl
@[simp] theorem putCore_remote (s : State) (k : Nat) (c : Core) : (putCore s k c).remote = s.remote := rfl
@[simp] theorem putCore_nextReq (s : State) (k : Nat) (c : Core) : (putCore s k c).nextReq = s.nextReq := rfl
@[simp] theorem putCore_heldIn (s : State) (k : Nat) (c : Core) : (putCore s k c).heldIn = s.heldIn := rfl
@[simp] theorem putCore_returned (s : State) (k : Nat) (c : Core) : (putCore s k c).returned = s.returned := rfl
@[simp] theorem putCore_poolWaits (s : State) (k : Nat) (c : Core) : (putCore s k c).poolWaits = s.poolWaits := rfl
@[simp] theorem putCore_pushBufs (s : State) (k : Nat) (c : Core) : (putCore s k c).pushBufs = s.pushBufs := rfl
@[simp] theorem putCore_marksIn (s : State) (k : Nat) (c : Core) : (putCore s k c).marksIn = s.marksIn := rfl
@[simp] theorem putCore_nextMark (s : State) (k : Nat) (c : Core) : (putCore s k c).nextMark = s.nextMark := rfl
@[simp] theorem putCore_marksDone (s : State) (k : Nat) (c : Core) : (putCore s k c).marksDone = s.marksDone := rfl
@[simp] theorem putCore_aborts (s : State) (k : Nat) (c : Core) : (putCore s k c).aborts = s.aborts := rfl
@[simp] theorem putCore_stageReqs (s : State) (k : Nat) (c : Core) : (putCore s k c).stageReqs = s.stageReqs := rfl
@[simp] theorem putCore_grants (s : State) (k : Nat) (c : Core) : (putCore s k c).grants = s.grants := rfl
@[simp] theorem putCore_grantCache (s : State) (k : Nat) (c : Core) : (putCore s k c).grantCache = s.grantCache := rfl
@[simp] theorem putCore_fenced (s : State) (k : Nat) (c : Core) : (putCore s k c).fenced = s.fenced := rfl
@[simp] theorem putCore_outbox (s : State) (k : Nat) (c : Core) : (putCore s k c).outbox = s.outbox := rfl
@[simp] theorem putCore_board (s : State) (k : Nat) (c : Core) : (putCore s k c).board = s.board := rfl
@[simp] theorem putCore_lock (s : State) (k : Nat) (c : Core) : (putCore s k c).lock = s.lock := rfl
@[simp] theorem putCore_boot (s : State) (k : Nat) (c : Core) : (putCore s k c).boot = s.boot := rfl
@[simp] theorem putCore_mgmt (s : State) (k : Nat) (c : Core) : (putCore s k c).mgmt = s.mgmt := rfl
@[simp] theorem putCore_log (s : State) (k : Nat) (c : Core) : (putCore s k c).log = s.log := rfl
@[simp] theorem putCore_seqLog (s : State) (k : Nat) (c : Core) : (putCore s k c).seqLog = s.seqLog := rfl
@[simp] theorem putCore_monitorCode (s : State) (k : Nat) (c : Core) : (putCore s k c).monitorCode = s.monitorCode := rfl
@[simp] theorem putCore_saveNext (s : State) (k : Nat) (c : Core) : (putCore s k c).saveNext = s.saveNext := rfl
@[simp] theorem putCore_stopped (s : State) (k : Nat) (c : Core) : (putCore s k c).stopped = s.stopped := rfl

/-! ## putBench -/

@[simp] theorem putBench_pkg (s : State) (k slot : Nat) (b : Bench) : (putBench s k slot b).pkg = s.pkg := rfl
@[simp] theorem putBench_bell (s : State) (k slot : Nat) (b : Bench) : (putBench s k slot b).bell = s.bell := rfl
@[simp] theorem putBench_draws (s : State) (k slot : Nat) (b : Bench) : (putBench s k slot b).draws = s.draws := rfl
@[simp] theorem putBench_sel (s : State) (k slot : Nat) (b : Bench) : (putBench s k slot b).sel = s.sel := rfl
@[simp] theorem putBench_agenda (s : State) (k slot : Nat) (b : Bench) : (putBench s k slot b).agenda = s.agenda := rfl
@[simp] theorem putBench_mem (s : State) (k slot : Nat) (b : Bench) : (putBench s k slot b).mem = s.mem := rfl
@[simp] theorem putBench_flights (s : State) (k slot : Nat) (b : Bench) : (putBench s k slot b).flights = s.flights := rfl
@[simp] theorem putBench_nextId (s : State) (k slot : Nat) (b : Bench) : (putBench s k slot b).nextId = s.nextId := rfl
@[simp] theorem putBench_tasks (s : State) (k slot : Nat) (b : Bench) : (putBench s k slot b).tasks = s.tasks := rfl
@[simp] theorem putBench_nextTask (s : State) (k slot : Nat) (b : Bench) : (putBench s k slot b).nextTask = s.nextTask := rfl
@[simp] theorem putBench_nextSeq (s : State) (k slot : Nat) (b : Bench) : (putBench s k slot b).nextSeq = s.nextSeq := rfl
@[simp] theorem putBench_nextDispatch (s : State) (k slot : Nat) (b : Bench) : (putBench s k slot b).nextDispatch = s.nextDispatch := rfl
@[simp] theorem putBench_passNum (s : State) (k slot : Nat) (b : Bench) : (putBench s k slot b).passNum = s.passNum := rfl
@[simp] theorem putBench_objs (s : State) (k slot : Nat) (b : Bench) : (putBench s k slot b).objs = s.objs := rfl
@[simp] theorem putBench_dieTlb (s : State) (k slot : Nat) (b : Bench) : (putBench s k slot b).dieTlb = s.dieTlb := rfl
@[simp] theorem putBench_walkCache (s : State) (k slot : Nat) (b : Bench) : (putBench s k slot b).walkCache = s.walkCache := rfl
@[simp] theorem putBench_skewed (s : State) (k slot : Nat) (b : Bench) : (putBench s k slot b).skewed = s.skewed := rfl
@[simp] theorem putBench_quarantine (s : State) (k slot : Nat) (b : Bench) : (putBench s k slot b).quarantine = s.quarantine := rfl
@[simp] theorem putBench_nextRevoke (s : State) (k slot : Nat) (b : Bench) : (putBench s k slot b).nextRevoke = s.nextRevoke := rfl
@[simp] theorem putBench_sweepStep (s : State) (k slot : Nat) (b : Bench) : (putBench s k slot b).sweepStep = s.sweepStep := rfl
@[simp] theorem putBench_tagSummary (s : State) (k slot : Nat) (b : Bench) : (putBench s k slot b).tagSummary = s.tagSummary := rfl
@[simp] theorem putBench_hot (s : State) (k slot : Nat) (b : Bench) : (putBench s k slot b).hot = s.hot := rfl
@[simp] theorem putBench_nextObj (s : State) (k slot : Nat) (b : Bench) : (putBench s k slot b).nextObj = s.nextObj := rfl
@[simp] theorem putBench_exportSlots (s : State) (k slot : Nat) (b : Bench) : (putBench s k slot b).exportSlots = s.exportSlots := rfl
@[simp] theorem putBench_exportUnits (s : State) (k slot : Nat) (b : Bench) : (putBench s k slot b).exportUnits = s.exportUnits := rfl
@[simp] theorem putBench_pools (s : State) (k slot : Nat) (b : Bench) : (putBench s k slot b).pools = s.pools := rfl
@[simp] theorem putBench_harts (s : State) (k slot : Nat) (b : Bench) : (putBench s k slot b).harts = s.harts := rfl
@[simp] theorem putBench_links (s : State) (k slot : Nat) (b : Bench) : (putBench s k slot b).links = s.links := rfl
@[simp] theorem putBench_paths (s : State) (k slot : Nat) (b : Bench) : (putBench s k slot b).paths = s.paths := rfl
@[simp] theorem putBench_remote (s : State) (k slot : Nat) (b : Bench) : (putBench s k slot b).remote = s.remote := rfl
@[simp] theorem putBench_nextReq (s : State) (k slot : Nat) (b : Bench) : (putBench s k slot b).nextReq = s.nextReq := rfl
@[simp] theorem putBench_heldIn (s : State) (k slot : Nat) (b : Bench) : (putBench s k slot b).heldIn = s.heldIn := rfl
@[simp] theorem putBench_returned (s : State) (k slot : Nat) (b : Bench) : (putBench s k slot b).returned = s.returned := rfl
@[simp] theorem putBench_poolWaits (s : State) (k slot : Nat) (b : Bench) : (putBench s k slot b).poolWaits = s.poolWaits := rfl
@[simp] theorem putBench_pushBufs (s : State) (k slot : Nat) (b : Bench) : (putBench s k slot b).pushBufs = s.pushBufs := rfl
@[simp] theorem putBench_marksIn (s : State) (k slot : Nat) (b : Bench) : (putBench s k slot b).marksIn = s.marksIn := rfl
@[simp] theorem putBench_nextMark (s : State) (k slot : Nat) (b : Bench) : (putBench s k slot b).nextMark = s.nextMark := rfl
@[simp] theorem putBench_marksDone (s : State) (k slot : Nat) (b : Bench) : (putBench s k slot b).marksDone = s.marksDone := rfl
@[simp] theorem putBench_aborts (s : State) (k slot : Nat) (b : Bench) : (putBench s k slot b).aborts = s.aborts := rfl
@[simp] theorem putBench_stageReqs (s : State) (k slot : Nat) (b : Bench) : (putBench s k slot b).stageReqs = s.stageReqs := rfl
@[simp] theorem putBench_grants (s : State) (k slot : Nat) (b : Bench) : (putBench s k slot b).grants = s.grants := rfl
@[simp] theorem putBench_grantCache (s : State) (k slot : Nat) (b : Bench) : (putBench s k slot b).grantCache = s.grantCache := rfl
@[simp] theorem putBench_fenced (s : State) (k slot : Nat) (b : Bench) : (putBench s k slot b).fenced = s.fenced := rfl
@[simp] theorem putBench_outbox (s : State) (k slot : Nat) (b : Bench) : (putBench s k slot b).outbox = s.outbox := rfl
@[simp] theorem putBench_board (s : State) (k slot : Nat) (b : Bench) : (putBench s k slot b).board = s.board := rfl
@[simp] theorem putBench_lock (s : State) (k slot : Nat) (b : Bench) : (putBench s k slot b).lock = s.lock := rfl
@[simp] theorem putBench_boot (s : State) (k slot : Nat) (b : Bench) : (putBench s k slot b).boot = s.boot := rfl
@[simp] theorem putBench_mgmt (s : State) (k slot : Nat) (b : Bench) : (putBench s k slot b).mgmt = s.mgmt := rfl
@[simp] theorem putBench_log (s : State) (k slot : Nat) (b : Bench) : (putBench s k slot b).log = s.log := rfl
@[simp] theorem putBench_seqLog (s : State) (k slot : Nat) (b : Bench) : (putBench s k slot b).seqLog = s.seqLog := rfl
@[simp] theorem putBench_monitorCode (s : State) (k slot : Nat) (b : Bench) : (putBench s k slot b).monitorCode = s.monitorCode := rfl
@[simp] theorem putBench_saveNext (s : State) (k slot : Nat) (b : Bench) : (putBench s k slot b).saveNext = s.saveNext := rfl
@[simp] theorem putBench_stopped (s : State) (k slot : Nat) (b : Bench) : (putBench s k slot b).stopped = s.stopped := rfl

/-! ## putCur -/

@[simp] theorem putCur_pkg (s : State) (b : Bench) : (putCur s b).pkg = s.pkg := rfl
@[simp] theorem putCur_bell (s : State) (b : Bench) : (putCur s b).bell = s.bell := rfl
@[simp] theorem putCur_draws (s : State) (b : Bench) : (putCur s b).draws = s.draws := rfl
@[simp] theorem putCur_sel (s : State) (b : Bench) : (putCur s b).sel = s.sel := rfl
@[simp] theorem putCur_agenda (s : State) (b : Bench) : (putCur s b).agenda = s.agenda := rfl
@[simp] theorem putCur_mem (s : State) (b : Bench) : (putCur s b).mem = s.mem := rfl
@[simp] theorem putCur_flights (s : State) (b : Bench) : (putCur s b).flights = s.flights := rfl
@[simp] theorem putCur_nextId (s : State) (b : Bench) : (putCur s b).nextId = s.nextId := rfl
@[simp] theorem putCur_tasks (s : State) (b : Bench) : (putCur s b).tasks = s.tasks := rfl
@[simp] theorem putCur_nextTask (s : State) (b : Bench) : (putCur s b).nextTask = s.nextTask := rfl
@[simp] theorem putCur_nextSeq (s : State) (b : Bench) : (putCur s b).nextSeq = s.nextSeq := rfl
@[simp] theorem putCur_nextDispatch (s : State) (b : Bench) : (putCur s b).nextDispatch = s.nextDispatch := rfl
@[simp] theorem putCur_passNum (s : State) (b : Bench) : (putCur s b).passNum = s.passNum := rfl
@[simp] theorem putCur_objs (s : State) (b : Bench) : (putCur s b).objs = s.objs := rfl
@[simp] theorem putCur_dieTlb (s : State) (b : Bench) : (putCur s b).dieTlb = s.dieTlb := rfl
@[simp] theorem putCur_walkCache (s : State) (b : Bench) : (putCur s b).walkCache = s.walkCache := rfl
@[simp] theorem putCur_skewed (s : State) (b : Bench) : (putCur s b).skewed = s.skewed := rfl
@[simp] theorem putCur_quarantine (s : State) (b : Bench) : (putCur s b).quarantine = s.quarantine := rfl
@[simp] theorem putCur_nextRevoke (s : State) (b : Bench) : (putCur s b).nextRevoke = s.nextRevoke := rfl
@[simp] theorem putCur_sweepStep (s : State) (b : Bench) : (putCur s b).sweepStep = s.sweepStep := rfl
@[simp] theorem putCur_tagSummary (s : State) (b : Bench) : (putCur s b).tagSummary = s.tagSummary := rfl
@[simp] theorem putCur_hot (s : State) (b : Bench) : (putCur s b).hot = s.hot := rfl
@[simp] theorem putCur_nextObj (s : State) (b : Bench) : (putCur s b).nextObj = s.nextObj := rfl
@[simp] theorem putCur_exportSlots (s : State) (b : Bench) : (putCur s b).exportSlots = s.exportSlots := rfl
@[simp] theorem putCur_exportUnits (s : State) (b : Bench) : (putCur s b).exportUnits = s.exportUnits := rfl
@[simp] theorem putCur_pools (s : State) (b : Bench) : (putCur s b).pools = s.pools := rfl
@[simp] theorem putCur_harts (s : State) (b : Bench) : (putCur s b).harts = s.harts := rfl
@[simp] theorem putCur_links (s : State) (b : Bench) : (putCur s b).links = s.links := rfl
@[simp] theorem putCur_paths (s : State) (b : Bench) : (putCur s b).paths = s.paths := rfl
@[simp] theorem putCur_remote (s : State) (b : Bench) : (putCur s b).remote = s.remote := rfl
@[simp] theorem putCur_nextReq (s : State) (b : Bench) : (putCur s b).nextReq = s.nextReq := rfl
@[simp] theorem putCur_heldIn (s : State) (b : Bench) : (putCur s b).heldIn = s.heldIn := rfl
@[simp] theorem putCur_returned (s : State) (b : Bench) : (putCur s b).returned = s.returned := rfl
@[simp] theorem putCur_poolWaits (s : State) (b : Bench) : (putCur s b).poolWaits = s.poolWaits := rfl
@[simp] theorem putCur_pushBufs (s : State) (b : Bench) : (putCur s b).pushBufs = s.pushBufs := rfl
@[simp] theorem putCur_marksIn (s : State) (b : Bench) : (putCur s b).marksIn = s.marksIn := rfl
@[simp] theorem putCur_nextMark (s : State) (b : Bench) : (putCur s b).nextMark = s.nextMark := rfl
@[simp] theorem putCur_marksDone (s : State) (b : Bench) : (putCur s b).marksDone = s.marksDone := rfl
@[simp] theorem putCur_aborts (s : State) (b : Bench) : (putCur s b).aborts = s.aborts := rfl
@[simp] theorem putCur_stageReqs (s : State) (b : Bench) : (putCur s b).stageReqs = s.stageReqs := rfl
@[simp] theorem putCur_grants (s : State) (b : Bench) : (putCur s b).grants = s.grants := rfl
@[simp] theorem putCur_grantCache (s : State) (b : Bench) : (putCur s b).grantCache = s.grantCache := rfl
@[simp] theorem putCur_fenced (s : State) (b : Bench) : (putCur s b).fenced = s.fenced := rfl
@[simp] theorem putCur_outbox (s : State) (b : Bench) : (putCur s b).outbox = s.outbox := rfl
@[simp] theorem putCur_board (s : State) (b : Bench) : (putCur s b).board = s.board := rfl
@[simp] theorem putCur_lock (s : State) (b : Bench) : (putCur s b).lock = s.lock := rfl
@[simp] theorem putCur_boot (s : State) (b : Bench) : (putCur s b).boot = s.boot := rfl
@[simp] theorem putCur_mgmt (s : State) (b : Bench) : (putCur s b).mgmt = s.mgmt := rfl
@[simp] theorem putCur_log (s : State) (b : Bench) : (putCur s b).log = s.log := rfl
@[simp] theorem putCur_seqLog (s : State) (b : Bench) : (putCur s b).seqLog = s.seqLog := rfl
@[simp] theorem putCur_monitorCode (s : State) (b : Bench) : (putCur s b).monitorCode = s.monitorCode := rfl
@[simp] theorem putCur_saveNext (s : State) (b : Bench) : (putCur s b).saveNext = s.saveNext := rfl
@[simp] theorem putCur_stopped (s : State) (b : Bench) : (putCur s b).stopped = s.stopped := rfl

/-! ## putTask -/

@[simp] theorem putTask_pkg (s : State) (t : Task) : (putTask s t).pkg = s.pkg := rfl
@[simp] theorem putTask_bell (s : State) (t : Task) : (putTask s t).bell = s.bell := rfl
@[simp] theorem putTask_draws (s : State) (t : Task) : (putTask s t).draws = s.draws := rfl
@[simp] theorem putTask_sel (s : State) (t : Task) : (putTask s t).sel = s.sel := rfl
@[simp] theorem putTask_agenda (s : State) (t : Task) : (putTask s t).agenda = s.agenda := rfl
@[simp] theorem putTask_mem (s : State) (t : Task) : (putTask s t).mem = s.mem := rfl
@[simp] theorem putTask_cores (s : State) (t : Task) : (putTask s t).cores = s.cores := rfl
@[simp] theorem putTask_flights (s : State) (t : Task) : (putTask s t).flights = s.flights := rfl
@[simp] theorem putTask_nextId (s : State) (t : Task) : (putTask s t).nextId = s.nextId := rfl
@[simp] theorem putTask_nextTask (s : State) (t : Task) : (putTask s t).nextTask = s.nextTask := rfl
@[simp] theorem putTask_nextSeq (s : State) (t : Task) : (putTask s t).nextSeq = s.nextSeq := rfl
@[simp] theorem putTask_nextDispatch (s : State) (t : Task) : (putTask s t).nextDispatch = s.nextDispatch := rfl
@[simp] theorem putTask_passNum (s : State) (t : Task) : (putTask s t).passNum = s.passNum := rfl
@[simp] theorem putTask_objs (s : State) (t : Task) : (putTask s t).objs = s.objs := rfl
@[simp] theorem putTask_dieTlb (s : State) (t : Task) : (putTask s t).dieTlb = s.dieTlb := rfl
@[simp] theorem putTask_walkCache (s : State) (t : Task) : (putTask s t).walkCache = s.walkCache := rfl
@[simp] theorem putTask_skewed (s : State) (t : Task) : (putTask s t).skewed = s.skewed := rfl
@[simp] theorem putTask_quarantine (s : State) (t : Task) : (putTask s t).quarantine = s.quarantine := rfl
@[simp] theorem putTask_nextRevoke (s : State) (t : Task) : (putTask s t).nextRevoke = s.nextRevoke := rfl
@[simp] theorem putTask_sweepStep (s : State) (t : Task) : (putTask s t).sweepStep = s.sweepStep := rfl
@[simp] theorem putTask_tagSummary (s : State) (t : Task) : (putTask s t).tagSummary = s.tagSummary := rfl
@[simp] theorem putTask_hot (s : State) (t : Task) : (putTask s t).hot = s.hot := rfl
@[simp] theorem putTask_nextObj (s : State) (t : Task) : (putTask s t).nextObj = s.nextObj := rfl
@[simp] theorem putTask_exportSlots (s : State) (t : Task) : (putTask s t).exportSlots = s.exportSlots := rfl
@[simp] theorem putTask_exportUnits (s : State) (t : Task) : (putTask s t).exportUnits = s.exportUnits := rfl
@[simp] theorem putTask_pools (s : State) (t : Task) : (putTask s t).pools = s.pools := rfl
@[simp] theorem putTask_harts (s : State) (t : Task) : (putTask s t).harts = s.harts := rfl
@[simp] theorem putTask_links (s : State) (t : Task) : (putTask s t).links = s.links := rfl
@[simp] theorem putTask_paths (s : State) (t : Task) : (putTask s t).paths = s.paths := rfl
@[simp] theorem putTask_remote (s : State) (t : Task) : (putTask s t).remote = s.remote := rfl
@[simp] theorem putTask_nextReq (s : State) (t : Task) : (putTask s t).nextReq = s.nextReq := rfl
@[simp] theorem putTask_heldIn (s : State) (t : Task) : (putTask s t).heldIn = s.heldIn := rfl
@[simp] theorem putTask_returned (s : State) (t : Task) : (putTask s t).returned = s.returned := rfl
@[simp] theorem putTask_poolWaits (s : State) (t : Task) : (putTask s t).poolWaits = s.poolWaits := rfl
@[simp] theorem putTask_pushBufs (s : State) (t : Task) : (putTask s t).pushBufs = s.pushBufs := rfl
@[simp] theorem putTask_marksIn (s : State) (t : Task) : (putTask s t).marksIn = s.marksIn := rfl
@[simp] theorem putTask_nextMark (s : State) (t : Task) : (putTask s t).nextMark = s.nextMark := rfl
@[simp] theorem putTask_marksDone (s : State) (t : Task) : (putTask s t).marksDone = s.marksDone := rfl
@[simp] theorem putTask_aborts (s : State) (t : Task) : (putTask s t).aborts = s.aborts := rfl
@[simp] theorem putTask_stageReqs (s : State) (t : Task) : (putTask s t).stageReqs = s.stageReqs := rfl
@[simp] theorem putTask_grants (s : State) (t : Task) : (putTask s t).grants = s.grants := rfl
@[simp] theorem putTask_grantCache (s : State) (t : Task) : (putTask s t).grantCache = s.grantCache := rfl
@[simp] theorem putTask_fenced (s : State) (t : Task) : (putTask s t).fenced = s.fenced := rfl
@[simp] theorem putTask_outbox (s : State) (t : Task) : (putTask s t).outbox = s.outbox := rfl
@[simp] theorem putTask_board (s : State) (t : Task) : (putTask s t).board = s.board := rfl
@[simp] theorem putTask_lock (s : State) (t : Task) : (putTask s t).lock = s.lock := rfl
@[simp] theorem putTask_boot (s : State) (t : Task) : (putTask s t).boot = s.boot := rfl
@[simp] theorem putTask_mgmt (s : State) (t : Task) : (putTask s t).mgmt = s.mgmt := rfl
@[simp] theorem putTask_log (s : State) (t : Task) : (putTask s t).log = s.log := rfl
@[simp] theorem putTask_seqLog (s : State) (t : Task) : (putTask s t).seqLog = s.seqLog := rfl
@[simp] theorem putTask_monitorCode (s : State) (t : Task) : (putTask s t).monitorCode = s.monitorCode := rfl
@[simp] theorem putTask_saveNext (s : State) (t : Task) : (putTask s t).saveNext = s.saveNext := rfl
@[simp] theorem putTask_stopped (s : State) (t : Task) : (putTask s t).stopped = s.stopped := rfl

/-! ## putFlight -/

@[simp] theorem putFlight_pkg (s : State) (f : Flight) : (putFlight s f).pkg = s.pkg := rfl
@[simp] theorem putFlight_bell (s : State) (f : Flight) : (putFlight s f).bell = s.bell := rfl
@[simp] theorem putFlight_draws (s : State) (f : Flight) : (putFlight s f).draws = s.draws := rfl
@[simp] theorem putFlight_sel (s : State) (f : Flight) : (putFlight s f).sel = s.sel := rfl
@[simp] theorem putFlight_agenda (s : State) (f : Flight) : (putFlight s f).agenda = s.agenda := rfl
@[simp] theorem putFlight_mem (s : State) (f : Flight) : (putFlight s f).mem = s.mem := rfl
@[simp] theorem putFlight_cores (s : State) (f : Flight) : (putFlight s f).cores = s.cores := rfl
@[simp] theorem putFlight_nextId (s : State) (f : Flight) : (putFlight s f).nextId = s.nextId := rfl
@[simp] theorem putFlight_tasks (s : State) (f : Flight) : (putFlight s f).tasks = s.tasks := rfl
@[simp] theorem putFlight_nextTask (s : State) (f : Flight) : (putFlight s f).nextTask = s.nextTask := rfl
@[simp] theorem putFlight_nextSeq (s : State) (f : Flight) : (putFlight s f).nextSeq = s.nextSeq := rfl
@[simp] theorem putFlight_nextDispatch (s : State) (f : Flight) : (putFlight s f).nextDispatch = s.nextDispatch := rfl
@[simp] theorem putFlight_passNum (s : State) (f : Flight) : (putFlight s f).passNum = s.passNum := rfl
@[simp] theorem putFlight_objs (s : State) (f : Flight) : (putFlight s f).objs = s.objs := rfl
@[simp] theorem putFlight_dieTlb (s : State) (f : Flight) : (putFlight s f).dieTlb = s.dieTlb := rfl
@[simp] theorem putFlight_walkCache (s : State) (f : Flight) : (putFlight s f).walkCache = s.walkCache := rfl
@[simp] theorem putFlight_skewed (s : State) (f : Flight) : (putFlight s f).skewed = s.skewed := rfl
@[simp] theorem putFlight_quarantine (s : State) (f : Flight) : (putFlight s f).quarantine = s.quarantine := rfl
@[simp] theorem putFlight_nextRevoke (s : State) (f : Flight) : (putFlight s f).nextRevoke = s.nextRevoke := rfl
@[simp] theorem putFlight_sweepStep (s : State) (f : Flight) : (putFlight s f).sweepStep = s.sweepStep := rfl
@[simp] theorem putFlight_tagSummary (s : State) (f : Flight) : (putFlight s f).tagSummary = s.tagSummary := rfl
@[simp] theorem putFlight_hot (s : State) (f : Flight) : (putFlight s f).hot = s.hot := rfl
@[simp] theorem putFlight_nextObj (s : State) (f : Flight) : (putFlight s f).nextObj = s.nextObj := rfl
@[simp] theorem putFlight_exportSlots (s : State) (f : Flight) : (putFlight s f).exportSlots = s.exportSlots := rfl
@[simp] theorem putFlight_exportUnits (s : State) (f : Flight) : (putFlight s f).exportUnits = s.exportUnits := rfl
@[simp] theorem putFlight_pools (s : State) (f : Flight) : (putFlight s f).pools = s.pools := rfl
@[simp] theorem putFlight_harts (s : State) (f : Flight) : (putFlight s f).harts = s.harts := rfl
@[simp] theorem putFlight_links (s : State) (f : Flight) : (putFlight s f).links = s.links := rfl
@[simp] theorem putFlight_paths (s : State) (f : Flight) : (putFlight s f).paths = s.paths := rfl
@[simp] theorem putFlight_remote (s : State) (f : Flight) : (putFlight s f).remote = s.remote := rfl
@[simp] theorem putFlight_nextReq (s : State) (f : Flight) : (putFlight s f).nextReq = s.nextReq := rfl
@[simp] theorem putFlight_heldIn (s : State) (f : Flight) : (putFlight s f).heldIn = s.heldIn := rfl
@[simp] theorem putFlight_returned (s : State) (f : Flight) : (putFlight s f).returned = s.returned := rfl
@[simp] theorem putFlight_poolWaits (s : State) (f : Flight) : (putFlight s f).poolWaits = s.poolWaits := rfl
@[simp] theorem putFlight_pushBufs (s : State) (f : Flight) : (putFlight s f).pushBufs = s.pushBufs := rfl
@[simp] theorem putFlight_marksIn (s : State) (f : Flight) : (putFlight s f).marksIn = s.marksIn := rfl
@[simp] theorem putFlight_nextMark (s : State) (f : Flight) : (putFlight s f).nextMark = s.nextMark := rfl
@[simp] theorem putFlight_marksDone (s : State) (f : Flight) : (putFlight s f).marksDone = s.marksDone := rfl
@[simp] theorem putFlight_aborts (s : State) (f : Flight) : (putFlight s f).aborts = s.aborts := rfl
@[simp] theorem putFlight_stageReqs (s : State) (f : Flight) : (putFlight s f).stageReqs = s.stageReqs := rfl
@[simp] theorem putFlight_grants (s : State) (f : Flight) : (putFlight s f).grants = s.grants := rfl
@[simp] theorem putFlight_grantCache (s : State) (f : Flight) : (putFlight s f).grantCache = s.grantCache := rfl
@[simp] theorem putFlight_fenced (s : State) (f : Flight) : (putFlight s f).fenced = s.fenced := rfl
@[simp] theorem putFlight_outbox (s : State) (f : Flight) : (putFlight s f).outbox = s.outbox := rfl
@[simp] theorem putFlight_board (s : State) (f : Flight) : (putFlight s f).board = s.board := rfl
@[simp] theorem putFlight_lock (s : State) (f : Flight) : (putFlight s f).lock = s.lock := rfl
@[simp] theorem putFlight_boot (s : State) (f : Flight) : (putFlight s f).boot = s.boot := rfl
@[simp] theorem putFlight_mgmt (s : State) (f : Flight) : (putFlight s f).mgmt = s.mgmt := rfl
@[simp] theorem putFlight_log (s : State) (f : Flight) : (putFlight s f).log = s.log := rfl
@[simp] theorem putFlight_seqLog (s : State) (f : Flight) : (putFlight s f).seqLog = s.seqLog := rfl
@[simp] theorem putFlight_monitorCode (s : State) (f : Flight) : (putFlight s f).monitorCode = s.monitorCode := rfl
@[simp] theorem putFlight_saveNext (s : State) (f : Flight) : (putFlight s f).saveNext = s.saveNext := rfl
@[simp] theorem putFlight_stopped (s : State) (f : Flight) : (putFlight s f).stopped = s.stopped := rfl

/-! ## dropFlight -/

@[simp] theorem dropFlight_pkg (s : State) (id : Nat) : (dropFlight s id).pkg = s.pkg := rfl
@[simp] theorem dropFlight_bell (s : State) (id : Nat) : (dropFlight s id).bell = s.bell := rfl
@[simp] theorem dropFlight_draws (s : State) (id : Nat) : (dropFlight s id).draws = s.draws := rfl
@[simp] theorem dropFlight_sel (s : State) (id : Nat) : (dropFlight s id).sel = s.sel := rfl
@[simp] theorem dropFlight_agenda (s : State) (id : Nat) : (dropFlight s id).agenda = s.agenda := rfl
@[simp] theorem dropFlight_mem (s : State) (id : Nat) : (dropFlight s id).mem = s.mem := rfl
@[simp] theorem dropFlight_cores (s : State) (id : Nat) : (dropFlight s id).cores = s.cores := rfl
@[simp] theorem dropFlight_nextId (s : State) (id : Nat) : (dropFlight s id).nextId = s.nextId := rfl
@[simp] theorem dropFlight_tasks (s : State) (id : Nat) : (dropFlight s id).tasks = s.tasks := rfl
@[simp] theorem dropFlight_nextTask (s : State) (id : Nat) : (dropFlight s id).nextTask = s.nextTask := rfl
@[simp] theorem dropFlight_nextSeq (s : State) (id : Nat) : (dropFlight s id).nextSeq = s.nextSeq := rfl
@[simp] theorem dropFlight_nextDispatch (s : State) (id : Nat) : (dropFlight s id).nextDispatch = s.nextDispatch := rfl
@[simp] theorem dropFlight_passNum (s : State) (id : Nat) : (dropFlight s id).passNum = s.passNum := rfl
@[simp] theorem dropFlight_objs (s : State) (id : Nat) : (dropFlight s id).objs = s.objs := rfl
@[simp] theorem dropFlight_dieTlb (s : State) (id : Nat) : (dropFlight s id).dieTlb = s.dieTlb := rfl
@[simp] theorem dropFlight_walkCache (s : State) (id : Nat) : (dropFlight s id).walkCache = s.walkCache := rfl
@[simp] theorem dropFlight_skewed (s : State) (id : Nat) : (dropFlight s id).skewed = s.skewed := rfl
@[simp] theorem dropFlight_quarantine (s : State) (id : Nat) : (dropFlight s id).quarantine = s.quarantine := rfl
@[simp] theorem dropFlight_nextRevoke (s : State) (id : Nat) : (dropFlight s id).nextRevoke = s.nextRevoke := rfl
@[simp] theorem dropFlight_sweepStep (s : State) (id : Nat) : (dropFlight s id).sweepStep = s.sweepStep := rfl
@[simp] theorem dropFlight_tagSummary (s : State) (id : Nat) : (dropFlight s id).tagSummary = s.tagSummary := rfl
@[simp] theorem dropFlight_hot (s : State) (id : Nat) : (dropFlight s id).hot = s.hot := rfl
@[simp] theorem dropFlight_nextObj (s : State) (id : Nat) : (dropFlight s id).nextObj = s.nextObj := rfl
@[simp] theorem dropFlight_exportSlots (s : State) (id : Nat) : (dropFlight s id).exportSlots = s.exportSlots := rfl
@[simp] theorem dropFlight_exportUnits (s : State) (id : Nat) : (dropFlight s id).exportUnits = s.exportUnits := rfl
@[simp] theorem dropFlight_pools (s : State) (id : Nat) : (dropFlight s id).pools = s.pools := rfl
@[simp] theorem dropFlight_harts (s : State) (id : Nat) : (dropFlight s id).harts = s.harts := rfl
@[simp] theorem dropFlight_links (s : State) (id : Nat) : (dropFlight s id).links = s.links := rfl
@[simp] theorem dropFlight_paths (s : State) (id : Nat) : (dropFlight s id).paths = s.paths := rfl
@[simp] theorem dropFlight_remote (s : State) (id : Nat) : (dropFlight s id).remote = s.remote := rfl
@[simp] theorem dropFlight_nextReq (s : State) (id : Nat) : (dropFlight s id).nextReq = s.nextReq := rfl
@[simp] theorem dropFlight_heldIn (s : State) (id : Nat) : (dropFlight s id).heldIn = s.heldIn := rfl
@[simp] theorem dropFlight_returned (s : State) (id : Nat) : (dropFlight s id).returned = s.returned := rfl
@[simp] theorem dropFlight_poolWaits (s : State) (id : Nat) : (dropFlight s id).poolWaits = s.poolWaits := rfl
@[simp] theorem dropFlight_pushBufs (s : State) (id : Nat) : (dropFlight s id).pushBufs = s.pushBufs := rfl
@[simp] theorem dropFlight_marksIn (s : State) (id : Nat) : (dropFlight s id).marksIn = s.marksIn := rfl
@[simp] theorem dropFlight_nextMark (s : State) (id : Nat) : (dropFlight s id).nextMark = s.nextMark := rfl
@[simp] theorem dropFlight_marksDone (s : State) (id : Nat) : (dropFlight s id).marksDone = s.marksDone := rfl
@[simp] theorem dropFlight_aborts (s : State) (id : Nat) : (dropFlight s id).aborts = s.aborts := rfl
@[simp] theorem dropFlight_stageReqs (s : State) (id : Nat) : (dropFlight s id).stageReqs = s.stageReqs := rfl
@[simp] theorem dropFlight_grants (s : State) (id : Nat) : (dropFlight s id).grants = s.grants := rfl
@[simp] theorem dropFlight_grantCache (s : State) (id : Nat) : (dropFlight s id).grantCache = s.grantCache := rfl
@[simp] theorem dropFlight_fenced (s : State) (id : Nat) : (dropFlight s id).fenced = s.fenced := rfl
@[simp] theorem dropFlight_outbox (s : State) (id : Nat) : (dropFlight s id).outbox = s.outbox := rfl
@[simp] theorem dropFlight_board (s : State) (id : Nat) : (dropFlight s id).board = s.board := rfl
@[simp] theorem dropFlight_lock (s : State) (id : Nat) : (dropFlight s id).lock = s.lock := rfl
@[simp] theorem dropFlight_boot (s : State) (id : Nat) : (dropFlight s id).boot = s.boot := rfl
@[simp] theorem dropFlight_mgmt (s : State) (id : Nat) : (dropFlight s id).mgmt = s.mgmt := rfl
@[simp] theorem dropFlight_log (s : State) (id : Nat) : (dropFlight s id).log = s.log := rfl
@[simp] theorem dropFlight_seqLog (s : State) (id : Nat) : (dropFlight s id).seqLog = s.seqLog := rfl
@[simp] theorem dropFlight_monitorCode (s : State) (id : Nat) : (dropFlight s id).monitorCode = s.monitorCode := rfl
@[simp] theorem dropFlight_saveNext (s : State) (id : Nat) : (dropFlight s id).saveNext = s.saveNext := rfl
@[simp] theorem dropFlight_stopped (s : State) (id : Nat) : (dropFlight s id).stopped = s.stopped := rfl

/-! ## selectPass -/

@[simp] theorem selectPass_pkg (s : State) (c b : Nat) (m : SeatMask) (pc : Word) (n : Nat) : (selectPass s c b m pc n).pkg = s.pkg := rfl
@[simp] theorem selectPass_bell (s : State) (c b : Nat) (m : SeatMask) (pc : Word) (n : Nat) : (selectPass s c b m pc n).bell = s.bell := rfl
@[simp] theorem selectPass_draws (s : State) (c b : Nat) (m : SeatMask) (pc : Word) (n : Nat) : (selectPass s c b m pc n).draws = s.draws := rfl
@[simp] theorem selectPass_agenda (s : State) (c b : Nat) (m : SeatMask) (pc : Word) (n : Nat) : (selectPass s c b m pc n).agenda = s.agenda := rfl
@[simp] theorem selectPass_mem (s : State) (c b : Nat) (m : SeatMask) (pc : Word) (n : Nat) : (selectPass s c b m pc n).mem = s.mem := rfl
@[simp] theorem selectPass_cores (s : State) (c b : Nat) (m : SeatMask) (pc : Word) (n : Nat) : (selectPass s c b m pc n).cores = s.cores := rfl
@[simp] theorem selectPass_flights (s : State) (c b : Nat) (m : SeatMask) (pc : Word) (n : Nat) : (selectPass s c b m pc n).flights = s.flights := rfl
@[simp] theorem selectPass_nextId (s : State) (c b : Nat) (m : SeatMask) (pc : Word) (n : Nat) : (selectPass s c b m pc n).nextId = s.nextId := rfl
@[simp] theorem selectPass_tasks (s : State) (c b : Nat) (m : SeatMask) (pc : Word) (n : Nat) : (selectPass s c b m pc n).tasks = s.tasks := rfl
@[simp] theorem selectPass_nextTask (s : State) (c b : Nat) (m : SeatMask) (pc : Word) (n : Nat) : (selectPass s c b m pc n).nextTask = s.nextTask := rfl
@[simp] theorem selectPass_nextSeq (s : State) (c b : Nat) (m : SeatMask) (pc : Word) (n : Nat) : (selectPass s c b m pc n).nextSeq = s.nextSeq := rfl
@[simp] theorem selectPass_nextDispatch (s : State) (c b : Nat) (m : SeatMask) (pc : Word) (n : Nat) : (selectPass s c b m pc n).nextDispatch = s.nextDispatch := rfl
@[simp] theorem selectPass_passNum (s : State) (c b : Nat) (m : SeatMask) (pc : Word) (n : Nat) : (selectPass s c b m pc n).passNum = s.passNum := rfl
@[simp] theorem selectPass_objs (s : State) (c b : Nat) (m : SeatMask) (pc : Word) (n : Nat) : (selectPass s c b m pc n).objs = s.objs := rfl
@[simp] theorem selectPass_dieTlb (s : State) (c b : Nat) (m : SeatMask) (pc : Word) (n : Nat) : (selectPass s c b m pc n).dieTlb = s.dieTlb := rfl
@[simp] theorem selectPass_walkCache (s : State) (c b : Nat) (m : SeatMask) (pc : Word) (n : Nat) : (selectPass s c b m pc n).walkCache = s.walkCache := rfl
@[simp] theorem selectPass_skewed (s : State) (c b : Nat) (m : SeatMask) (pc : Word) (n : Nat) : (selectPass s c b m pc n).skewed = s.skewed := rfl
@[simp] theorem selectPass_quarantine (s : State) (c b : Nat) (m : SeatMask) (pc : Word) (n : Nat) : (selectPass s c b m pc n).quarantine = s.quarantine := rfl
@[simp] theorem selectPass_nextRevoke (s : State) (c b : Nat) (m : SeatMask) (pc : Word) (n : Nat) : (selectPass s c b m pc n).nextRevoke = s.nextRevoke := rfl
@[simp] theorem selectPass_sweepStep (s : State) (c b : Nat) (m : SeatMask) (pc : Word) (n : Nat) : (selectPass s c b m pc n).sweepStep = s.sweepStep := rfl
@[simp] theorem selectPass_tagSummary (s : State) (c b : Nat) (m : SeatMask) (pc : Word) (n : Nat) : (selectPass s c b m pc n).tagSummary = s.tagSummary := rfl
@[simp] theorem selectPass_hot (s : State) (c b : Nat) (m : SeatMask) (pc : Word) (n : Nat) : (selectPass s c b m pc n).hot = s.hot := rfl
@[simp] theorem selectPass_nextObj (s : State) (c b : Nat) (m : SeatMask) (pc : Word) (n : Nat) : (selectPass s c b m pc n).nextObj = s.nextObj := rfl
@[simp] theorem selectPass_exportSlots (s : State) (c b : Nat) (m : SeatMask) (pc : Word) (n : Nat) : (selectPass s c b m pc n).exportSlots = s.exportSlots := rfl
@[simp] theorem selectPass_exportUnits (s : State) (c b : Nat) (m : SeatMask) (pc : Word) (n : Nat) : (selectPass s c b m pc n).exportUnits = s.exportUnits := rfl
@[simp] theorem selectPass_pools (s : State) (c b : Nat) (m : SeatMask) (pc : Word) (n : Nat) : (selectPass s c b m pc n).pools = s.pools := rfl
@[simp] theorem selectPass_harts (s : State) (c b : Nat) (m : SeatMask) (pc : Word) (n : Nat) : (selectPass s c b m pc n).harts = s.harts := rfl
@[simp] theorem selectPass_links (s : State) (c b : Nat) (m : SeatMask) (pc : Word) (n : Nat) : (selectPass s c b m pc n).links = s.links := rfl
@[simp] theorem selectPass_paths (s : State) (c b : Nat) (m : SeatMask) (pc : Word) (n : Nat) : (selectPass s c b m pc n).paths = s.paths := rfl
@[simp] theorem selectPass_remote (s : State) (c b : Nat) (m : SeatMask) (pc : Word) (n : Nat) : (selectPass s c b m pc n).remote = s.remote := rfl
@[simp] theorem selectPass_nextReq (s : State) (c b : Nat) (m : SeatMask) (pc : Word) (n : Nat) : (selectPass s c b m pc n).nextReq = s.nextReq := rfl
@[simp] theorem selectPass_heldIn (s : State) (c b : Nat) (m : SeatMask) (pc : Word) (n : Nat) : (selectPass s c b m pc n).heldIn = s.heldIn := rfl
@[simp] theorem selectPass_returned (s : State) (c b : Nat) (m : SeatMask) (pc : Word) (n : Nat) : (selectPass s c b m pc n).returned = s.returned := rfl
@[simp] theorem selectPass_poolWaits (s : State) (c b : Nat) (m : SeatMask) (pc : Word) (n : Nat) : (selectPass s c b m pc n).poolWaits = s.poolWaits := rfl
@[simp] theorem selectPass_pushBufs (s : State) (c b : Nat) (m : SeatMask) (pc : Word) (n : Nat) : (selectPass s c b m pc n).pushBufs = s.pushBufs := rfl
@[simp] theorem selectPass_marksIn (s : State) (c b : Nat) (m : SeatMask) (pc : Word) (n : Nat) : (selectPass s c b m pc n).marksIn = s.marksIn := rfl
@[simp] theorem selectPass_nextMark (s : State) (c b : Nat) (m : SeatMask) (pc : Word) (n : Nat) : (selectPass s c b m pc n).nextMark = s.nextMark := rfl
@[simp] theorem selectPass_marksDone (s : State) (c b : Nat) (m : SeatMask) (pc : Word) (n : Nat) : (selectPass s c b m pc n).marksDone = s.marksDone := rfl
@[simp] theorem selectPass_aborts (s : State) (c b : Nat) (m : SeatMask) (pc : Word) (n : Nat) : (selectPass s c b m pc n).aborts = s.aborts := rfl
@[simp] theorem selectPass_stageReqs (s : State) (c b : Nat) (m : SeatMask) (pc : Word) (n : Nat) : (selectPass s c b m pc n).stageReqs = s.stageReqs := rfl
@[simp] theorem selectPass_grants (s : State) (c b : Nat) (m : SeatMask) (pc : Word) (n : Nat) : (selectPass s c b m pc n).grants = s.grants := rfl
@[simp] theorem selectPass_grantCache (s : State) (c b : Nat) (m : SeatMask) (pc : Word) (n : Nat) : (selectPass s c b m pc n).grantCache = s.grantCache := rfl
@[simp] theorem selectPass_fenced (s : State) (c b : Nat) (m : SeatMask) (pc : Word) (n : Nat) : (selectPass s c b m pc n).fenced = s.fenced := rfl
@[simp] theorem selectPass_outbox (s : State) (c b : Nat) (m : SeatMask) (pc : Word) (n : Nat) : (selectPass s c b m pc n).outbox = s.outbox := rfl
@[simp] theorem selectPass_board (s : State) (c b : Nat) (m : SeatMask) (pc : Word) (n : Nat) : (selectPass s c b m pc n).board = s.board := rfl
@[simp] theorem selectPass_lock (s : State) (c b : Nat) (m : SeatMask) (pc : Word) (n : Nat) : (selectPass s c b m pc n).lock = s.lock := rfl
@[simp] theorem selectPass_boot (s : State) (c b : Nat) (m : SeatMask) (pc : Word) (n : Nat) : (selectPass s c b m pc n).boot = s.boot := rfl
@[simp] theorem selectPass_mgmt (s : State) (c b : Nat) (m : SeatMask) (pc : Word) (n : Nat) : (selectPass s c b m pc n).mgmt = s.mgmt := rfl
@[simp] theorem selectPass_log (s : State) (c b : Nat) (m : SeatMask) (pc : Word) (n : Nat) : (selectPass s c b m pc n).log = s.log := rfl
@[simp] theorem selectPass_seqLog (s : State) (c b : Nat) (m : SeatMask) (pc : Word) (n : Nat) : (selectPass s c b m pc n).seqLog = s.seqLog := rfl
@[simp] theorem selectPass_monitorCode (s : State) (c b : Nat) (m : SeatMask) (pc : Word) (n : Nat) : (selectPass s c b m pc n).monitorCode = s.monitorCode := rfl
@[simp] theorem selectPass_saveNext (s : State) (c b : Nat) (m : SeatMask) (pc : Word) (n : Nat) : (selectPass s c b m pc n).saveNext = s.saveNext := rfl
@[simp] theorem selectPass_stopped (s : State) (c b : Nat) (m : SeatMask) (pc : Word) (n : Nat) : (selectPass s c b m pc n).stopped = s.stopped := rfl

/-! ## onSeat -/

@[simp] theorem onSeat_pkg (s : State) (k slot seat : Nat) (f : Seat → Seat) : (onSeat s k slot seat f).pkg = s.pkg := rfl
@[simp] theorem onSeat_bell (s : State) (k slot seat : Nat) (f : Seat → Seat) : (onSeat s k slot seat f).bell = s.bell := rfl
@[simp] theorem onSeat_draws (s : State) (k slot seat : Nat) (f : Seat → Seat) : (onSeat s k slot seat f).draws = s.draws := rfl
@[simp] theorem onSeat_sel (s : State) (k slot seat : Nat) (f : Seat → Seat) : (onSeat s k slot seat f).sel = s.sel := rfl
@[simp] theorem onSeat_agenda (s : State) (k slot seat : Nat) (f : Seat → Seat) : (onSeat s k slot seat f).agenda = s.agenda := rfl
@[simp] theorem onSeat_mem (s : State) (k slot seat : Nat) (f : Seat → Seat) : (onSeat s k slot seat f).mem = s.mem := rfl
@[simp] theorem onSeat_flights (s : State) (k slot seat : Nat) (f : Seat → Seat) : (onSeat s k slot seat f).flights = s.flights := rfl
@[simp] theorem onSeat_nextId (s : State) (k slot seat : Nat) (f : Seat → Seat) : (onSeat s k slot seat f).nextId = s.nextId := rfl
@[simp] theorem onSeat_tasks (s : State) (k slot seat : Nat) (f : Seat → Seat) : (onSeat s k slot seat f).tasks = s.tasks := rfl
@[simp] theorem onSeat_nextTask (s : State) (k slot seat : Nat) (f : Seat → Seat) : (onSeat s k slot seat f).nextTask = s.nextTask := rfl
@[simp] theorem onSeat_nextSeq (s : State) (k slot seat : Nat) (f : Seat → Seat) : (onSeat s k slot seat f).nextSeq = s.nextSeq := rfl
@[simp] theorem onSeat_nextDispatch (s : State) (k slot seat : Nat) (f : Seat → Seat) : (onSeat s k slot seat f).nextDispatch = s.nextDispatch := rfl
@[simp] theorem onSeat_passNum (s : State) (k slot seat : Nat) (f : Seat → Seat) : (onSeat s k slot seat f).passNum = s.passNum := rfl
@[simp] theorem onSeat_objs (s : State) (k slot seat : Nat) (f : Seat → Seat) : (onSeat s k slot seat f).objs = s.objs := rfl
@[simp] theorem onSeat_dieTlb (s : State) (k slot seat : Nat) (f : Seat → Seat) : (onSeat s k slot seat f).dieTlb = s.dieTlb := rfl
@[simp] theorem onSeat_walkCache (s : State) (k slot seat : Nat) (f : Seat → Seat) : (onSeat s k slot seat f).walkCache = s.walkCache := rfl
@[simp] theorem onSeat_skewed (s : State) (k slot seat : Nat) (f : Seat → Seat) : (onSeat s k slot seat f).skewed = s.skewed := rfl
@[simp] theorem onSeat_quarantine (s : State) (k slot seat : Nat) (f : Seat → Seat) : (onSeat s k slot seat f).quarantine = s.quarantine := rfl
@[simp] theorem onSeat_nextRevoke (s : State) (k slot seat : Nat) (f : Seat → Seat) : (onSeat s k slot seat f).nextRevoke = s.nextRevoke := rfl
@[simp] theorem onSeat_sweepStep (s : State) (k slot seat : Nat) (f : Seat → Seat) : (onSeat s k slot seat f).sweepStep = s.sweepStep := rfl
@[simp] theorem onSeat_tagSummary (s : State) (k slot seat : Nat) (f : Seat → Seat) : (onSeat s k slot seat f).tagSummary = s.tagSummary := rfl
@[simp] theorem onSeat_hot (s : State) (k slot seat : Nat) (f : Seat → Seat) : (onSeat s k slot seat f).hot = s.hot := rfl
@[simp] theorem onSeat_nextObj (s : State) (k slot seat : Nat) (f : Seat → Seat) : (onSeat s k slot seat f).nextObj = s.nextObj := rfl
@[simp] theorem onSeat_exportSlots (s : State) (k slot seat : Nat) (f : Seat → Seat) : (onSeat s k slot seat f).exportSlots = s.exportSlots := rfl
@[simp] theorem onSeat_exportUnits (s : State) (k slot seat : Nat) (f : Seat → Seat) : (onSeat s k slot seat f).exportUnits = s.exportUnits := rfl
@[simp] theorem onSeat_pools (s : State) (k slot seat : Nat) (f : Seat → Seat) : (onSeat s k slot seat f).pools = s.pools := rfl
@[simp] theorem onSeat_harts (s : State) (k slot seat : Nat) (f : Seat → Seat) : (onSeat s k slot seat f).harts = s.harts := rfl
@[simp] theorem onSeat_links (s : State) (k slot seat : Nat) (f : Seat → Seat) : (onSeat s k slot seat f).links = s.links := rfl
@[simp] theorem onSeat_paths (s : State) (k slot seat : Nat) (f : Seat → Seat) : (onSeat s k slot seat f).paths = s.paths := rfl
@[simp] theorem onSeat_remote (s : State) (k slot seat : Nat) (f : Seat → Seat) : (onSeat s k slot seat f).remote = s.remote := rfl
@[simp] theorem onSeat_nextReq (s : State) (k slot seat : Nat) (f : Seat → Seat) : (onSeat s k slot seat f).nextReq = s.nextReq := rfl
@[simp] theorem onSeat_heldIn (s : State) (k slot seat : Nat) (f : Seat → Seat) : (onSeat s k slot seat f).heldIn = s.heldIn := rfl
@[simp] theorem onSeat_returned (s : State) (k slot seat : Nat) (f : Seat → Seat) : (onSeat s k slot seat f).returned = s.returned := rfl
@[simp] theorem onSeat_poolWaits (s : State) (k slot seat : Nat) (f : Seat → Seat) : (onSeat s k slot seat f).poolWaits = s.poolWaits := rfl
@[simp] theorem onSeat_pushBufs (s : State) (k slot seat : Nat) (f : Seat → Seat) : (onSeat s k slot seat f).pushBufs = s.pushBufs := rfl
@[simp] theorem onSeat_marksIn (s : State) (k slot seat : Nat) (f : Seat → Seat) : (onSeat s k slot seat f).marksIn = s.marksIn := rfl
@[simp] theorem onSeat_nextMark (s : State) (k slot seat : Nat) (f : Seat → Seat) : (onSeat s k slot seat f).nextMark = s.nextMark := rfl
@[simp] theorem onSeat_marksDone (s : State) (k slot seat : Nat) (f : Seat → Seat) : (onSeat s k slot seat f).marksDone = s.marksDone := rfl
@[simp] theorem onSeat_aborts (s : State) (k slot seat : Nat) (f : Seat → Seat) : (onSeat s k slot seat f).aborts = s.aborts := rfl
@[simp] theorem onSeat_stageReqs (s : State) (k slot seat : Nat) (f : Seat → Seat) : (onSeat s k slot seat f).stageReqs = s.stageReqs := rfl
@[simp] theorem onSeat_grants (s : State) (k slot seat : Nat) (f : Seat → Seat) : (onSeat s k slot seat f).grants = s.grants := rfl
@[simp] theorem onSeat_grantCache (s : State) (k slot seat : Nat) (f : Seat → Seat) : (onSeat s k slot seat f).grantCache = s.grantCache := rfl
@[simp] theorem onSeat_fenced (s : State) (k slot seat : Nat) (f : Seat → Seat) : (onSeat s k slot seat f).fenced = s.fenced := rfl
@[simp] theorem onSeat_outbox (s : State) (k slot seat : Nat) (f : Seat → Seat) : (onSeat s k slot seat f).outbox = s.outbox := rfl
@[simp] theorem onSeat_board (s : State) (k slot seat : Nat) (f : Seat → Seat) : (onSeat s k slot seat f).board = s.board := rfl
@[simp] theorem onSeat_lock (s : State) (k slot seat : Nat) (f : Seat → Seat) : (onSeat s k slot seat f).lock = s.lock := rfl
@[simp] theorem onSeat_boot (s : State) (k slot seat : Nat) (f : Seat → Seat) : (onSeat s k slot seat f).boot = s.boot := rfl
@[simp] theorem onSeat_mgmt (s : State) (k slot seat : Nat) (f : Seat → Seat) : (onSeat s k slot seat f).mgmt = s.mgmt := rfl
@[simp] theorem onSeat_log (s : State) (k slot seat : Nat) (f : Seat → Seat) : (onSeat s k slot seat f).log = s.log := rfl
@[simp] theorem onSeat_seqLog (s : State) (k slot seat : Nat) (f : Seat → Seat) : (onSeat s k slot seat f).seqLog = s.seqLog := rfl
@[simp] theorem onSeat_monitorCode (s : State) (k slot seat : Nat) (f : Seat → Seat) : (onSeat s k slot seat f).monitorCode = s.monitorCode := rfl
@[simp] theorem onSeat_saveNext (s : State) (k slot seat : Nat) (f : Seat → Seat) : (onSeat s k slot seat f).saveNext = s.saveNext := rfl
@[simp] theorem onSeat_stopped (s : State) (k slot seat : Nat) (f : Seat → Seat) : (onSeat s k slot seat f).stopped = s.stopped := rfl

/-! ## Reading back -/

@[simp] theorem getCore_putCore_same (s : State) (k : Nat) (c : Core) : getCore (putCore s k c) k = c := by
  simp [getCore, putCore, lookupKey_putKey_same]
theorem getCore_putCore_other (s : State) (k j : Nat) (c : Core) (h : k ≠ j) : getCore (putCore s k c) j = getCore s j := by
  simp [getCore, putCore, lookupKey_putKey_other _ _ _ _ h]
@[simp] theorem getBench_putBench_same (s : State) (k slot : Nat) (b : Bench) : getBench (putBench s k slot b) k slot = b := by
  simp [getBench, putBench, coreBench, lookupKey_putKey_same]
theorem getBench_putBench_slot (s : State) (k slot slot' : Nat) (b : Bench) (h : slot ≠ slot') :
    getBench (putBench s k slot b) k slot' = getBench s k slot' := by
  simp [getBench, putBench, coreBench, lookupKey_putKey_other _ _ _ _ h]
theorem getBench_putBench_core (s : State) (k k' slot slot' : Nat) (b : Bench) (h : k ≠ k') :
    getBench (putBench s k slot b) k' slot' = getBench s k' slot' := by
  simp [getBench, putBench, getCore_putCore_other _ _ _ _ h]
@[simp] theorem cur_putCur (s : State) (b : Bench) : cur (putCur s b) = b := by
  unfold cur putCur
  rw [putBench_sel]
  exact getBench_putBench_same s _ _ b
theorem findTask_putTask (s : State) (t : Task) (u : Task) (h : findTask s t.id = some u) :
    findTask (putTask s t) t.id = some t := by
  revert h
  simp only [findTask, putTask]
  induction s.tasks with
  | nil => simp
  | cons x l ih =>
    by_cases hx : x.id = t.id
    · simp [hx]
    · simpa [hx] using ih

end Sys2Proof.Machine
end

