-- ==== Sys2Proof/Laws/Pass.lean ====
section
/-!
SUPPORT. What the shared shapes of a pass do when no operand faults: one law for each.
-/
namespace Sys2Proof.Machine

theorem faultsOf_nil (s : State) (f : Nat → Option OpFault) (h : ∀ k ∈ issued s, f k = none) : faultsOf s f = [] := by
  simp only [faultsOf, List.filterMap_eq_nil_iff]
  intro k hk
  simp [h k hk]
/-- A pass goes on where no issued seat faults. -/
theorem guardPass_clear (s : State) (f : Nat → Option OpFault) (t : State) (h : ∀ k ∈ issued s, f k = none) :
    guardPass s f t = .next t := by
  simp [guardPass, faultsOf_nil s f h]
theorem poisonIn_none (b : Bench) (rs : List DReg) (k : Nat) (h : ∀ r ∈ rs, poisonD b r k = none) :
    poisonIn b rs k = none := by
  simp only [poisonIn, List.findSome?_eq_none_iff]
  intro r hr
  simp [h r hr]
theorem poisonInC_none (b : Bench) (rs : List CReg) (k : Nat) (h : ∀ r ∈ rs, poisonC b r k = none) :
    poisonInC b rs k = none := by
  simp only [poisonInC, List.findSome?_eq_none_iff]
  intro r hr
  simp [h r hr]
theorem useFault_clear (s : State) (u : Uses) (h : OperandsClear s u.reads u.creads u.writes u.cwrites) (k : Nat)
    (hk : k ∈ issued s) : useFault s u k = none := by
  simp [useFault, poisonIn_none _ _ _ (h.1 k hk).1, poisonInC_none _ _ _ (h.1 k hk).2, h.2]
/-- A pass whose faults are those of its registers retires where they do not fault. -/
theorem benchPass_clear (s : State) (i : Instr) (srcs : List Src) (eff : Bench → Bench)
    (h : OperandsClear s (usesOf i).reads (usesOf i).creads (usesOf i).writes (usesOf i).cwrites) :
    benchPass s i srcs eff = .next (retireWith s srcs (closesClause i) eff) :=
  guardPass_clear _ _ _ fun k hk => useFault_clear s (usesOf i) h k hk
theorem lanePass_clear (s : State) (i : Instr) (srcs : List Src) (d : DReg) (val : Nat → Word)
    (h : OperandsClear s (usesOf i).reads (usesOf i).creads (usesOf i).writes (usesOf i).cwrites) :
    lanePass s i srcs d val = .next (retireWith s srcs (closesClause i) (writing s d val)) := benchPass_clear s i srcs _ h
theorem predPass_clear (s : State) (i : Instr) (srcs : List Src) (p : PReg) (val : Nat → BitVec 8)
    (h : OperandsClear s (usesOf i).reads (usesOf i).creads (usesOf i).writes (usesOf i).cwrites) :
    predPass s i srcs p val = .next (retireWith s srcs (closesClause i) (setting s p val)) := benchPass_clear s i srcs _ h
theorem capPass_clear (s : State) (i : Instr) (srcs : List Src) (c : CReg) (val : Nat → Cap)
    (h : OperandsClear s (usesOf i).reads (usesOf i).creads (usesOf i).writes (usesOf i).cwrites) :
    capPass s i srcs c val = .next (retireWith s srcs (closesClause i) (holding s c val)) := benchPass_clear s i srcs _ h
theorem demand_none (s : State) (go : Host.Outcome State Fault Refusal) : demand s none go = go := rfl

end Sys2Proof.Machine
end

