-- ==== Sys2Proof/Laws/PerInstr.lean ====
section
/-!
SUPPORT. One family of laws per constructor of `Instr`: the length that the word of an instruction gives by its bit 0 (R18).
-/
namespace Sys2Proof.Laws.WordLength
open Sys2Proof

set_option Elab.async false

/-- The word of an instruction fits its bytes, and its bit 0 tells how many they are (R18, R20, R23). -/
def Statement (i : Instr) : Prop :=
  ∀ n w, encode i = some (n, w) → (n = 2 ∧ w % 2 = 0 ∧ w < 2 ^ 16) ∨ (n = 4 ∧ w % 2 = 1 ∧ w < 2 ^ 32)

theorem reg_lt (d : DReg) : d.code < 64 := by cases d <;> simp [DReg.code] <;> omega
theorem use_lt (u : Use) : u.code < 4 := by cases u <;> decide
theorem width_lt (w : Width) : w.code < 4 := by cases w <;> decide
theorem fwidth_lt (w : FWidth) : w.code < 4 := by cases w <;> decide
theorem clauseW_lt (w : ClauseW) : w.code < 4 := by cases w <;> decide
theorem rnd_lt (r : Rnd) : r.code < 8 := by cases r <;> decide
theorem cfmt_lt (f : CFmt) : f.code < 8 := by cases f <;> decide
theorem icond_lt (c : ICond) : c.code < 8 := by cases c <;> decide
theorem fcond_lt (c : FCond) : c.code < 8 := by cases c <;> decide
theorem scope_lt (s : Scope) : s.code < 8 := by cases s <;> decide
theorem fenceOrd_lt (o : FenceOrd) : o.code < 4 := by cases o <;> decide
theorem memOrd_lt (o : MemOrd) : o.code < 4 := by cases o <;> decide
theorem atomOp_lt (o : AtomOp) : o.code < 11 := by cases o <;> decide
theorem mmaFmt_lt (f : MmaFmt) : f.code < 5 := by cases f <;> decide
theorem mmasFmt_lt (f : MmasFmt) : f.code < 5 := by cases f <;> decide
theorem tileFmt_lt (f : TileFmt) : f.code < 8 := by cases f <;> decide
theorem bool_lt (b : Bool) : b.toNat < 2 := by cases b <;> decide
theorem clause (n : Bool) (w : ClauseW) (setB : BitVec 4) (setA : BitVec 4) (wait : BitVec 12) : Statement (.clause n w setB setA wait) := by
  rintro _ _ ⟨⟩
  have h0 := bool_lt n
  have h1 := clauseW_lt w
  have h2 := setB.isLt
  have h3 := setA.isLt
  have h4 := wait.isLt
  exact .inr ⟨rfl, by omega, by omega⟩
theorem mov16 (l : Bool) (a : Fin 32) (d : Fin 32) : Statement (.mov16 l a d) := by
  rintro _ _ ⟨⟩
  have h0 := bool_lt l
  have h1 := a.isLt
  have h2 := d.isLt
  exact .inl ⟨rfl, by omega, by omega⟩
theorem add16 (l : Bool) (a : Fin 32) (d : Fin 32) : Statement (.add16 l a d) := by
  rintro _ _ ⟨⟩
  have h0 := bool_lt l
  have h1 := a.isLt
  have h2 := d.isLt
  exact .inl ⟨rfl, by omega, by omega⟩
theorem sub16 (l : Bool) (a : Fin 32) (d : Fin 32) : Statement (.sub16 l a d) := by
  rintro _ _ ⟨⟩
  have h0 := bool_lt l
  have h1 := a.isLt
  have h2 := d.isLt
  exact .inl ⟨rfl, by omega, by omega⟩
theorem mul16 (l : Bool) (a : Fin 32) (d : Fin 32) : Statement (.mul16 l a d) := by
  rintro _ _ ⟨⟩
  have h0 := bool_lt l
  have h1 := a.isLt
  have h2 := d.isLt
  exact .inl ⟨rfl, by omega, by omega⟩
theorem and16 (l : Bool) (a : Fin 32) (d : Fin 32) : Statement (.and16 l a d) := by
  rintro _ _ ⟨⟩
  have h0 := bool_lt l
  have h1 := a.isLt
  have h2 := d.isLt
  exact .inl ⟨rfl, by omega, by omega⟩
theorem or16 (l : Bool) (a : Fin 32) (d : Fin 32) : Statement (.or16 l a d) := by
  rintro _ _ ⟨⟩
  have h0 := bool_lt l
  have h1 := a.isLt
  have h2 := d.isLt
  exact .inl ⟨rfl, by omega, by omega⟩
theorem xor16 (l : Bool) (a : Fin 32) (d : Fin 32) : Statement (.xor16 l a d) := by
  rintro _ _ ⟨⟩
  have h0 := bool_lt l
  have h1 := a.isLt
  have h2 := d.isLt
  exact .inl ⟨rfl, by omega, by omega⟩
theorem shl16 (l : Bool) (a : Fin 32) (d : Fin 32) : Statement (.shl16 l a d) := by
  rintro _ _ ⟨⟩
  have h0 := bool_lt l
  have h1 := a.isLt
  have h2 := d.isLt
  exact .inl ⟨rfl, by omega, by omega⟩
theorem shr16 (l : Bool) (a : Fin 32) (d : Fin 32) : Statement (.shr16 l a d) := by
  rintro _ _ ⟨⟩
  have h0 := bool_lt l
  have h1 := a.isLt
  have h2 := d.isLt
  exact .inl ⟨rfl, by omega, by omega⟩
theorem sar16 (l : Bool) (a : Fin 32) (d : Fin 32) : Statement (.sar16 l a d) := by
  rintro _ _ ⟨⟩
  have h0 := bool_lt l
  have h1 := a.isLt
  have h2 := d.isLt
  exact .inl ⟨rfl, by omega, by omega⟩
theorem min16 (l : Bool) (a : Fin 32) (d : Fin 32) : Statement (.min16 l a d) := by
  rintro _ _ ⟨⟩
  have h0 := bool_lt l
  have h1 := a.isLt
  have h2 := d.isLt
  exact .inl ⟨rfl, by omega, by omega⟩
theorem max16 (l : Bool) (a : Fin 32) (d : Fin 32) : Statement (.max16 l a d) := by
  rintro _ _ ⟨⟩
  have h0 := bool_lt l
  have h1 := a.isLt
  have h2 := d.isLt
  exact .inl ⟨rfl, by omega, by omega⟩
theorem fadd16 (l : Bool) (a : Fin 32) (d : Fin 32) : Statement (.fadd16 l a d) := by
  rintro _ _ ⟨⟩
  have h0 := bool_lt l
  have h1 := a.isLt
  have h2 := d.isLt
  exact .inl ⟨rfl, by omega, by omega⟩
theorem fsub16 (l : Bool) (a : Fin 32) (d : Fin 32) : Statement (.fsub16 l a d) := by
  rintro _ _ ⟨⟩
  have h0 := bool_lt l
  have h1 := a.isLt
  have h2 := d.isLt
  exact .inl ⟨rfl, by omega, by omega⟩
theorem fmul16 (l : Bool) (a : Fin 32) (d : Fin 32) : Statement (.fmul16 l a d) := by
  rintro _ _ ⟨⟩
  have h0 := bool_lt l
  have h1 := a.isLt
  have h2 := d.isLt
  exact .inl ⟨rfl, by omega, by omega⟩
theorem fma16 (l : Bool) (a : Fin 32) (d : Fin 32) : Statement (.fma16 l a d) := by
  rintro _ _ ⟨⟩
  have h0 := bool_lt l
  have h1 := a.isLt
  have h2 := d.isLt
  exact .inl ⟨rfl, by omega, by omega⟩
theorem add (w : Width) (b : Src) (a : Src) (d : DReg) : Statement (.add w b a d) := by
  rintro _ _ ⟨⟩
  have h0 := width_lt w
  have h1 := reg_lt b.reg
  have h2 := use_lt b.use
  have h3 := reg_lt a.reg
  have h4 := use_lt a.use
  have h5 := reg_lt d
  exact .inr ⟨rfl, by omega, by omega⟩
theorem sub (w : Width) (b : Src) (a : Src) (d : DReg) : Statement (.sub w b a d) := by
  rintro _ _ ⟨⟩
  have h0 := width_lt w
  have h1 := reg_lt b.reg
  have h2 := use_lt b.use
  have h3 := reg_lt a.reg
  have h4 := use_lt a.use
  have h5 := reg_lt d
  exact .inr ⟨rfl, by omega, by omega⟩
theorem mul (w : Width) (b : Src) (a : Src) (d : DReg) : Statement (.mul w b a d) := by
  rintro _ _ ⟨⟩
  have h0 := width_lt w
  have h1 := reg_lt b.reg
  have h2 := use_lt b.use
  have h3 := reg_lt a.reg
  have h4 := use_lt a.use
  have h5 := reg_lt d
  exact .inr ⟨rfl, by omega, by omega⟩
theorem mulh (w : Width) (b : Src) (a : Src) (d : DReg) : Statement (.mulh w b a d) := by
  rintro _ _ ⟨⟩
  have h0 := width_lt w
  have h1 := reg_lt b.reg
  have h2 := use_lt b.use
  have h3 := reg_lt a.reg
  have h4 := use_lt a.use
  have h5 := reg_lt d
  exact .inr ⟨rfl, by omega, by omega⟩
theorem mad (w : Width) (b : Src) (a : Src) (d : DReg) : Statement (.mad w b a d) := by
  rintro _ _ ⟨⟩
  have h0 := width_lt w
  have h1 := reg_lt b.reg
  have h2 := use_lt b.use
  have h3 := reg_lt a.reg
  have h4 := use_lt a.use
  have h5 := reg_lt d
  exact .inr ⟨rfl, by omega, by omega⟩
theorem min (w : Width) (b : Src) (a : Src) (d : DReg) : Statement (.min w b a d) := by
  rintro _ _ ⟨⟩
  have h0 := width_lt w
  have h1 := reg_lt b.reg
  have h2 := use_lt b.use
  have h3 := reg_lt a.reg
  have h4 := use_lt a.use
  have h5 := reg_lt d
  exact .inr ⟨rfl, by omega, by omega⟩
theorem max (w : Width) (b : Src) (a : Src) (d : DReg) : Statement (.max w b a d) := by
  rintro _ _ ⟨⟩
  have h0 := width_lt w
  have h1 := reg_lt b.reg
  have h2 := use_lt b.use
  have h3 := reg_lt a.reg
  have h4 := use_lt a.use
  have h5 := reg_lt d
  exact .inr ⟨rfl, by omega, by omega⟩
theorem minu (w : Width) (b : Src) (a : Src) (d : DReg) : Statement (.minu w b a d) := by
  rintro _ _ ⟨⟩
  have h0 := width_lt w
  have h1 := reg_lt b.reg
  have h2 := use_lt b.use
  have h3 := reg_lt a.reg
  have h4 := use_lt a.use
  have h5 := reg_lt d
  exact .inr ⟨rfl, by omega, by omega⟩
theorem maxu (w : Width) (b : Src) (a : Src) (d : DReg) : Statement (.maxu w b a d) := by
  rintro _ _ ⟨⟩
  have h0 := width_lt w
  have h1 := reg_lt b.reg
  have h2 := use_lt b.use
  have h3 := reg_lt a.reg
  have h4 := use_lt a.use
  have h5 := reg_lt d
  exact .inr ⟨rfl, by omega, by omega⟩
theorem abs (w : Width) (a : Src) (d : DReg) : Statement (.abs w a d) := by
  rintro _ _ ⟨⟩
  have h0 := width_lt w
  have h1 := reg_lt a.reg
  have h2 := use_lt a.use
  have h3 := reg_lt d
  exact .inr ⟨rfl, by omega, by omega⟩
theorem neg (w : Width) (a : Src) (d : DReg) : Statement (.neg w a d) := by
  rintro _ _ ⟨⟩
  have h0 := width_lt w
  have h1 := reg_lt a.reg
  have h2 := use_lt a.use
  have h3 := reg_lt d
  exact .inr ⟨rfl, by omega, by omega⟩
theorem shl (w : Width) (b : Src) (a : Src) (d : DReg) : Statement (.shl w b a d) := by
  rintro _ _ ⟨⟩
  have h0 := width_lt w
  have h1 := reg_lt b.reg
  have h2 := use_lt b.use
  have h3 := reg_lt a.reg
  have h4 := use_lt a.use
  have h5 := reg_lt d
  exact .inr ⟨rfl, by omega, by omega⟩
theorem shr (w : Width) (b : Src) (a : Src) (d : DReg) : Statement (.shr w b a d) := by
  rintro _ _ ⟨⟩
  have h0 := width_lt w
  have h1 := reg_lt b.reg
  have h2 := use_lt b.use
  have h3 := reg_lt a.reg
  have h4 := use_lt a.use
  have h5 := reg_lt d
  exact .inr ⟨rfl, by omega, by omega⟩
theorem sar (w : Width) (b : Src) (a : Src) (d : DReg) : Statement (.sar w b a d) := by
  rintro _ _ ⟨⟩
  have h0 := width_lt w
  have h1 := reg_lt b.reg
  have h2 := use_lt b.use
  have h3 := reg_lt a.reg
  have h4 := use_lt a.use
  have h5 := reg_lt d
  exact .inr ⟨rfl, by omega, by omega⟩
theorem rot (w : Width) (b : Src) (a : Src) (d : DReg) : Statement (.rot w b a d) := by
  rintro _ _ ⟨⟩
  have h0 := width_lt w
  have h1 := reg_lt b.reg
  have h2 := use_lt b.use
  have h3 := reg_lt a.reg
  have h4 := use_lt a.use
  have h5 := reg_lt d
  exact .inr ⟨rfl, by omega, by omega⟩
theorem clz (w : Width) (a : Src) (d : DReg) : Statement (.clz w a d) := by
  rintro _ _ ⟨⟩
  have h0 := width_lt w
  have h1 := reg_lt a.reg
  have h2 := use_lt a.use
  have h3 := reg_lt d
  exact .inr ⟨rfl, by omega, by omega⟩
theorem ctz (w : Width) (a : Src) (d : DReg) : Statement (.ctz w a d) := by
  rintro _ _ ⟨⟩
  have h0 := width_lt w
  have h1 := reg_lt a.reg
  have h2 := use_lt a.use
  have h3 := reg_lt d
  exact .inr ⟨rfl, by omega, by omega⟩
theorem popc (w : Width) (a : Src) (d : DReg) : Statement (.popc w a d) := by
  rintro _ _ ⟨⟩
  have h0 := width_lt w
  have h1 := reg_lt a.reg
  have h2 := use_lt a.use
  have h3 := reg_lt d
  exact .inr ⟨rfl, by omega, by omega⟩
theorem brev (w : Width) (a : Src) (d : DReg) : Statement (.brev w a d) := by
  rintro _ _ ⟨⟩
  have h0 := width_lt w
  have h1 := reg_lt a.reg
  have h2 := use_lt a.use
  have h3 := reg_lt d
  exact .inr ⟨rfl, by omega, by omega⟩
theorem bfx (w : Width) (b : Src) (a : Src) (d : DReg) : Statement (.bfx w b a d) := by
  rintro _ _ ⟨⟩
  have h0 := width_lt w
  have h1 := reg_lt b.reg
  have h2 := use_lt b.use
  have h3 := reg_lt a.reg
  have h4 := use_lt a.use
  have h5 := reg_lt d
  exact .inr ⟨rfl, by omega, by omega⟩
theorem bfi (w : Width) (b : Src) (a : Src) (d : DReg) : Statement (.bfi w b a d) := by
  rintro _ _ ⟨⟩
  have h0 := width_lt w
  have h1 := reg_lt b.reg
  have h2 := use_lt b.use
  have h3 := reg_lt a.reg
  have h4 := use_lt a.use
  have h5 := reg_lt d
  exact .inr ⟨rfl, by omega, by omega⟩
theorem sel (p : PReg) (w : Width) (b : DReg) (a : Src) (d : DReg) : Statement (.sel p w b a d) := by
  rintro _ _ ⟨⟩
  have h0 := p.isLt
  have h1 := width_lt w
  have h2 := reg_lt b
  have h3 := reg_lt a.reg
  have h4 := use_lt a.use
  have h5 := reg_lt d
  exact .inr ⟨rfl, by omega, by omega⟩
theorem cvtI (u : Bool) (wd : Width) (sat : Bool) (ws : Width) (a : Src) (d : DReg) : Statement (.cvtI u wd sat ws a d) := by
  rintro _ _ ⟨⟩
  have h0 := bool_lt u
  have h1 := width_lt wd
  have h2 := bool_lt sat
  have h3 := width_lt ws
  have h4 := reg_lt a.reg
  have h5 := use_lt a.use
  have h6 := reg_lt d
  exact .inr ⟨rfl, by omega, by omega⟩
theorem and (b : Src) (a : Src) (d : DReg) : Statement (.and b a d) := by
  rintro _ _ ⟨⟩
  have h0 := reg_lt b.reg
  have h1 := use_lt b.use
  have h2 := reg_lt a.reg
  have h3 := use_lt a.use
  have h4 := reg_lt d
  exact .inr ⟨rfl, by omega, by omega⟩
theorem or (b : Src) (a : Src) (d : DReg) : Statement (.or b a d) := by
  rintro _ _ ⟨⟩
  have h0 := reg_lt b.reg
  have h1 := use_lt b.use
  have h2 := reg_lt a.reg
  have h3 := use_lt a.use
  have h4 := reg_lt d
  exact .inr ⟨rfl, by omega, by omega⟩
theorem xor (b : Src) (a : Src) (d : DReg) : Statement (.xor b a d) := by
  rintro _ _ ⟨⟩
  have h0 := reg_lt b.reg
  have h1 := use_lt b.use
  have h2 := reg_lt a.reg
  have h3 := use_lt a.use
  have h4 := reg_lt d
  exact .inr ⟨rfl, by omega, by omega⟩
theorem andn (b : Src) (a : Src) (d : DReg) : Statement (.andn b a d) := by
  rintro _ _ ⟨⟩
  have h0 := reg_lt b.reg
  have h1 := use_lt b.use
  have h2 := reg_lt a.reg
  have h3 := use_lt a.use
  have h4 := reg_lt d
  exact .inr ⟨rfl, by omega, by omega⟩
theorem not (a : Src) (d : DReg) : Statement (.not a d) := by
  rintro _ _ ⟨⟩
  have h0 := reg_lt a.reg
  have h1 := use_lt a.use
  have h2 := reg_lt d
  exact .inr ⟨rfl, by omega, by omega⟩
theorem mov (a : Src) (d : DReg) : Statement (.mov a d) := by
  rintro _ _ ⟨⟩
  have h0 := reg_lt a.reg
  have h1 := use_lt a.use
  have h2 := reg_lt d
  exact .inr ⟨rfl, by omega, by omega⟩
theorem perm (b : Src) (a : Src) (d : DReg) : Statement (.perm b a d) := by
  rintro _ _ ⟨⟩
  have h0 := reg_lt b.reg
  have h1 := use_lt b.use
  have h2 := reg_lt a.reg
  have h3 := use_lt a.use
  have h4 := reg_lt d
  exact .inr ⟨rfl, by omega, by omega⟩
theorem pack (w : Width) (b : Src) (a : Src) (d : DReg) : Statement (.pack w b a d) := by
  rintro _ _ ⟨⟩
  have h0 := width_lt w
  have h1 := reg_lt b.reg
  have h2 := use_lt b.use
  have h3 := reg_lt a.reg
  have h4 := use_lt a.use
  have h5 := reg_lt d
  exact .inr ⟨rfl, by omega, by omega⟩
theorem unpack (w : Width) (h : Bool) (a : Src) (d : DReg) : Statement (.unpack w h a d) := by
  rintro _ _ ⟨⟩
  have h0 := width_lt w
  have h1 := bool_lt h
  have h2 := reg_lt a.reg
  have h3 := use_lt a.use
  have h4 := reg_lt d
  exact .inr ⟨rfl, by omega, by omega⟩
theorem fadd (f : FWidth) (b : Src) (a : Src) (d : DReg) : Statement (.fadd f b a d) := by
  rintro _ _ ⟨⟩
  have h0 := fwidth_lt f
  have h1 := reg_lt b.reg
  have h2 := use_lt b.use
  have h3 := reg_lt a.reg
  have h4 := use_lt a.use
  have h5 := reg_lt d
  exact .inr ⟨rfl, by omega, by omega⟩
theorem fsub (f : FWidth) (b : Src) (a : Src) (d : DReg) : Statement (.fsub f b a d) := by
  rintro _ _ ⟨⟩
  have h0 := fwidth_lt f
  have h1 := reg_lt b.reg
  have h2 := use_lt b.use
  have h3 := reg_lt a.reg
  have h4 := use_lt a.use
  have h5 := reg_lt d
  exact .inr ⟨rfl, by omega, by omega⟩
theorem fmul (f : FWidth) (b : Src) (a : Src) (d : DReg) : Statement (.fmul f b a d) := by
  rintro _ _ ⟨⟩
  have h0 := fwidth_lt f
  have h1 := reg_lt b.reg
  have h2 := use_lt b.use
  have h3 := reg_lt a.reg
  have h4 := use_lt a.use
  have h5 := reg_lt d
  exact .inr ⟨rfl, by omega, by omega⟩
theorem fma (f : FWidth) (b : Src) (a : Src) (d : DReg) : Statement (.fma f b a d) := by
  rintro _ _ ⟨⟩
  have h0 := fwidth_lt f
  have h1 := reg_lt b.reg
  have h2 := use_lt b.use
  have h3 := reg_lt a.reg
  have h4 := use_lt a.use
  have h5 := reg_lt d
  exact .inr ⟨rfl, by omega, by omega⟩
theorem fnma (f : FWidth) (b : Src) (a : Src) (d : DReg) : Statement (.fnma f b a d) := by
  rintro _ _ ⟨⟩
  have h0 := fwidth_lt f
  have h1 := reg_lt b.reg
  have h2 := use_lt b.use
  have h3 := reg_lt a.reg
  have h4 := use_lt a.use
  have h5 := reg_lt d
  exact .inr ⟨rfl, by omega, by omega⟩
theorem fscale (f : FWidth) (b : Src) (a : Src) (d : DReg) : Statement (.fscale f b a d) := by
  rintro _ _ ⟨⟩
  have h0 := fwidth_lt f
  have h1 := reg_lt b.reg
  have h2 := use_lt b.use
  have h3 := reg_lt a.reg
  have h4 := use_lt a.use
  have h5 := reg_lt d
  exact .inr ⟨rfl, by omega, by omega⟩
theorem fmin (f : FWidth) (b : Src) (a : Src) (d : DReg) : Statement (.fmin f b a d) := by
  rintro _ _ ⟨⟩
  have h0 := fwidth_lt f
  have h1 := reg_lt b.reg
  have h2 := use_lt b.use
  have h3 := reg_lt a.reg
  have h4 := use_lt a.use
  have h5 := reg_lt d
  exact .inr ⟨rfl, by omega, by omega⟩
theorem fmax (f : FWidth) (b : Src) (a : Src) (d : DReg) : Statement (.fmax f b a d) := by
  rintro _ _ ⟨⟩
  have h0 := fwidth_lt f
  have h1 := reg_lt b.reg
  have h2 := use_lt b.use
  have h3 := reg_lt a.reg
  have h4 := use_lt a.use
  have h5 := reg_lt d
  exact .inr ⟨rfl, by omega, by omega⟩
theorem fabs (f : FWidth) (a : Src) (d : DReg) : Statement (.fabs f a d) := by
  rintro _ _ ⟨⟩
  have h0 := fwidth_lt f
  have h1 := reg_lt a.reg
  have h2 := use_lt a.use
  have h3 := reg_lt d
  exact .inr ⟨rfl, by omega, by omega⟩
theorem fneg (f : FWidth) (a : Src) (d : DReg) : Statement (.fneg f a d) := by
  rintro _ _ ⟨⟩
  have h0 := fwidth_lt f
  have h1 := reg_lt a.reg
  have h2 := use_lt a.use
  have h3 := reg_lt d
  exact .inr ⟨rfl, by omega, by omega⟩
theorem fclass (f : FWidth) (a : Src) (d : DReg) : Statement (.fclass f a d) := by
  rintro _ _ ⟨⟩
  have h0 := fwidth_lt f
  have h1 := reg_lt a.reg
  have h2 := use_lt a.use
  have h3 := reg_lt d
  exact .inr ⟨rfl, by omega, by omega⟩
theorem fround (r : Rnd) (f : FWidth) (a : Src) (d : DReg) : Statement (.fround r f a d) := by
  rintro _ _ ⟨⟩
  have h0 := rnd_lt r
  have h1 := fwidth_lt f
  have h2 := reg_lt a.reg
  have h3 := use_lt a.use
  have h4 := reg_lt d
  exact .inr ⟨rfl, by omega, by omega⟩
theorem fcvt (dst : CFmt) (r : Rnd) (src : CFmt) (a : Src) (d : DReg) : Statement (.fcvt dst r src a d) := by
  rintro _ _ ⟨⟩
  have h0 := cfmt_lt dst
  have h1 := rnd_lt r
  have h2 := cfmt_lt src
  have h3 := reg_lt a.reg
  have h4 := use_lt a.use
  have h5 := reg_lt d
  exact .inr ⟨rfl, by omega, by omega⟩
theorem frcp (f : FWidth) (a : Src) (d : DReg) : Statement (.frcp f a d) := by
  rintro _ _ ⟨⟩
  have h0 := fwidth_lt f
  have h1 := reg_lt a.reg
  have h2 := use_lt a.use
  have h3 := reg_lt d
  exact .inr ⟨rfl, by omega, by omega⟩
theorem frsq (f : FWidth) (a : Src) (d : DReg) : Statement (.frsq f a d) := by
  rintro _ _ ⟨⟩
  have h0 := fwidth_lt f
  have h1 := reg_lt a.reg
  have h2 := use_lt a.use
  have h3 := reg_lt d
  exact .inr ⟨rfl, by omega, by omega⟩
theorem fsqrt (f : FWidth) (a : Src) (d : DReg) : Statement (.fsqrt f a d) := by
  rintro _ _ ⟨⟩
  have h0 := fwidth_lt f
  have h1 := reg_lt a.reg
  have h2 := use_lt a.use
  have h3 := reg_lt d
  exact .inr ⟨rfl, by omega, by omega⟩
theorem fexp2 (f : FWidth) (a : Src) (d : DReg) : Statement (.fexp2 f a d) := by
  rintro _ _ ⟨⟩
  have h0 := fwidth_lt f
  have h1 := reg_lt a.reg
  have h2 := use_lt a.use
  have h3 := reg_lt d
  exact .inr ⟨rfl, by omega, by omega⟩
theorem flog2 (f : FWidth) (a : Src) (d : DReg) : Statement (.flog2 f a d) := by
  rintro _ _ ⟨⟩
  have h0 := fwidth_lt f
  have h1 := reg_lt a.reg
  have h2 := use_lt a.use
  have h3 := reg_lt d
  exact .inr ⟨rfl, by omega, by omega⟩
theorem fsin (f : FWidth) (a : Src) (d : DReg) : Statement (.fsin f a d) := by
  rintro _ _ ⟨⟩
  have h0 := fwidth_lt f
  have h1 := reg_lt a.reg
  have h2 := use_lt a.use
  have h3 := reg_lt d
  exact .inr ⟨rfl, by omega, by omega⟩
theorem fcos (f : FWidth) (a : Src) (d : DReg) : Statement (.fcos f a d) := by
  rintro _ _ ⟨⟩
  have h0 := fwidth_lt f
  have h1 := reg_lt a.reg
  have h2 := use_lt a.use
  have h3 := reg_lt d
  exact .inr ⟨rfl, by omega, by omega⟩
theorem ftanh (f : FWidth) (a : Src) (d : DReg) : Statement (.ftanh f a d) := by
  rintro _ _ ⟨⟩
  have h0 := fwidth_lt f
  have h1 := reg_lt a.reg
  have h2 := use_lt a.use
  have h3 := reg_lt d
  exact .inr ⟨rfl, by omega, by omega⟩
theorem modadd (b : Src) (a : Src) (d : DReg) : Statement (.modadd b a d) := by
  rintro _ _ ⟨⟩
  have h0 := reg_lt b.reg
  have h1 := use_lt b.use
  have h2 := reg_lt a.reg
  have h3 := use_lt a.use
  have h4 := reg_lt d
  exact .inr ⟨rfl, by omega, by omega⟩
theorem modsub (b : Src) (a : Src) (d : DReg) : Statement (.modsub b a d) := by
  rintro _ _ ⟨⟩
  have h0 := reg_lt b.reg
  have h1 := use_lt b.use
  have h2 := reg_lt a.reg
  have h3 := use_lt a.use
  have h4 := reg_lt d
  exact .inr ⟨rfl, by omega, by omega⟩
theorem modmul (b : Src) (a : Src) (d : DReg) : Statement (.modmul b a d) := by
  rintro _ _ ⟨⟩
  have h0 := reg_lt b.reg
  have h1 := use_lt b.use
  have h2 := reg_lt a.reg
  have h3 := use_lt a.use
  have h4 := reg_lt d
  exact .inr ⟨rfl, by omega, by omega⟩
theorem mred (b : Src) (a : Src) (d : DReg) : Statement (.mred b a d) := by
  rintro _ _ ⟨⟩
  have h0 := reg_lt b.reg
  have h1 := use_lt b.use
  have h2 := reg_lt a.reg
  have h3 := use_lt a.use
  have h4 := reg_lt d
  exact .inr ⟨rfl, by omega, by omega⟩
theorem nttbf (a : Src) (d : DReg) : Statement (.nttbf a d) := by
  rintro _ _ ⟨⟩
  have h0 := reg_lt a.reg
  have h1 := use_lt a.use
  have h2 := reg_lt d
  exact .inr ⟨rfl, by omega, by omega⟩
theorem inttbf (a : Src) (d : DReg) : Statement (.inttbf a d) := by
  rintro _ _ ⟨⟩
  have h0 := reg_lt a.reg
  have h1 := use_lt a.use
  have h2 := reg_lt d
  exact .inr ⟨rfl, by omega, by omega⟩
theorem shfl (b : Src) (a : Src) (d : DReg) : Statement (.shfl b a d) := by
  rintro _ _ ⟨⟩
  have h0 := reg_lt b.reg
  have h1 := use_lt b.use
  have h2 := reg_lt a.reg
  have h3 := use_lt a.use
  have h4 := reg_lt d
  exact .inr ⟨rfl, by omega, by omega⟩
theorem shflx (b : Src) (a : Src) (d : DReg) : Statement (.shflx b a d) := by
  rintro _ _ ⟨⟩
  have h0 := reg_lt b.reg
  have h1 := use_lt b.use
  have h2 := reg_lt a.reg
  have h3 := use_lt a.use
  have h4 := reg_lt d
  exact .inr ⟨rfl, by omega, by omega⟩
theorem bcast (k : BitVec 5) (a : Src) (d : DReg) : Statement (.bcast k a d) := by
  rintro _ _ ⟨⟩
  have h0 := k.isLt
  have h1 := reg_lt a.reg
  have h2 := use_lt a.use
  have h3 := reg_lt d
  exact .inr ⟨rfl, by omega, by omega⟩
theorem ballot (p : PReg) (d : DReg) : Statement (.ballot p d) := by
  rintro _ _ ⟨⟩
  have h0 := p.isLt
  have h1 := reg_lt d
  exact .inr ⟨rfl, by omega, by omega⟩
theorem voteAny (p : PReg) (w : Width) (q : PReg) : Statement (.voteAny p w q) := by
  rintro _ _ ⟨⟩
  have h0 := p.isLt
  have h1 := width_lt w
  have h2 := q.isLt
  exact .inr ⟨rfl, by omega, by omega⟩
theorem voteAll (p : PReg) (w : Width) (q : PReg) : Statement (.voteAll p w q) := by
  rintro _ _ ⟨⟩
  have h0 := p.isLt
  have h1 := width_lt w
  have h2 := q.isLt
  exact .inr ⟨rfl, by omega, by omega⟩
theorem matchSeats (a : Src) (d : DReg) : Statement (.matchSeats a d) := by
  rintro _ _ ⟨⟩
  have h0 := reg_lt a.reg
  have h1 := use_lt a.use
  have h2 := reg_lt d
  exact .inr ⟨rfl, by omega, by omega⟩
theorem scan (w : Width) (x : Bool) (fl : Bool) (o : BitVec 3) (a : Src) (d : DReg) : Statement (.scan w x fl o a d) := by
  rintro _ _ ⟨⟩
  have h0 := width_lt w
  have h1 := bool_lt x
  have h2 := bool_lt fl
  have h3 := o.isLt
  have h4 := reg_lt a.reg
  have h5 := use_lt a.use
  have h6 := reg_lt d
  exact .inr ⟨rfl, by omega, by omega⟩
theorem red (w : Width) (fl : Bool) (o : BitVec 3) (a : Src) (d : DReg) : Statement (.red w fl o a d) := by
  rintro _ _ ⟨⟩
  have h0 := width_lt w
  have h1 := bool_lt fl
  have h2 := o.isLt
  have h3 := reg_lt a.reg
  have h4 := use_lt a.use
  have h5 := reg_lt d
  exact .inr ⟨rfl, by omega, by omega⟩
theorem li (i : BitVec 16) (d : DReg) : Statement (.li i d) := by
  rintro _ _ ⟨⟩
  have h0 := i.isLt
  have h1 := reg_lt d
  exact .inr ⟨rfl, by omega, by omega⟩
theorem lih1 (i : BitVec 16) (d : DReg) : Statement (.lih1 i d) := by
  rintro _ _ ⟨⟩
  have h0 := i.isLt
  have h1 := reg_lt d
  exact .inr ⟨rfl, by omega, by omega⟩
theorem lih2 (i : BitVec 16) (d : DReg) : Statement (.lih2 i d) := by
  rintro _ _ ⟨⟩
  have h0 := i.isLt
  have h1 := reg_lt d
  exact .inr ⟨rfl, by omega, by omega⟩
theorem lih3 (i : BitVec 16) (d : DReg) : Statement (.lih3 i d) := by
  rintro _ _ ⟨⟩
  have h0 := i.isLt
  have h1 := reg_lt d
  exact .inr ⟨rfl, by omega, by omega⟩
theorem lih0 (i : BitVec 16) (d : DReg) : Statement (.lih0 i d) := by
  rintro _ _ ⟨⟩
  have h0 := i.isLt
  have h1 := reg_lt d
  exact .inr ⟨rfl, by omega, by omega⟩
theorem addi (w : Width) (i : BitVec 10) (a : DReg) (d : DReg) : Statement (.addi w i a d) := by
  rintro _ _ ⟨⟩
  have h0 := width_lt w
  have h1 := i.isLt
  have h2 := reg_lt a
  have h3 := reg_lt d
  exact .inr ⟨rfl, by omega, by omega⟩
theorem bra (o : BitVec 16) : Statement (.bra o) := by
  rintro _ _ ⟨⟩
  have h0 := o.isLt
  exact .inr ⟨rfl, by omega, by omega⟩
theorem call (o : BitVec 16) (d : DReg) : Statement (.call o d) := by
  rintro _ _ ⟨⟩
  have h0 := o.isLt
  have h1 := reg_lt d
  exact .inr ⟨rfl, by omega, by omega⟩
theorem brP (o : BitVec 16) (inv : Bool) (k : PReg) : Statement (.brP o inv k) := by
  rintro _ _ ⟨⟩
  have h0 := o.isLt
  have h1 := bool_lt inv
  have h2 := k.isLt
  exact .inr ⟨rfl, by omega, by omega⟩
theorem brx (ca : CReg) (cd : CReg) : Statement (.brx ca cd) := by
  rintro _ _ ⟨⟩
  have h0 := ca.isLt
  have h1 := cd.isLt
  exact .inr ⟨rfl, by omega, by omega⟩
theorem ret (a : Src) : Statement (.ret a) := by
  rintro _ _ ⟨⟩
  have h0 := reg_lt a.reg
  have h1 := use_lt a.use
  exact .inr ⟨rfl, by omega, by omega⟩
theorem exit : Statement (.exit) := by
  rintro _ _ ⟨⟩
  exact .inr ⟨rfl, by omega, by omega⟩
theorem yield : Statement (.yield) := by
  rintro _ _ ⟨⟩
  exact .inr ⟨rfl, by omega, by omega⟩
theorem brk (hi : BitVec 6) (lo : BitVec 6) : Statement (.brk hi lo) := by
  rintro _ _ ⟨⟩
  have h0 := hi.isLt
  have h1 := lo.isLt
  exact .inr ⟨rfl, by omega, by omega⟩
theorem pause (a : Src) : Statement (.pause a) := by
  rintro _ _ ⟨⟩
  have h0 := reg_lt a.reg
  have h1 := use_lt a.use
  exact .inr ⟨rfl, by omega, by omega⟩
theorem cmp (c : ICond) (b : Src) (a : Src) (w : Width) (p : PReg) : Statement (.cmp c b a w p) := by
  rintro _ _ ⟨⟩
  have h0 := icond_lt c
  have h1 := reg_lt b.reg
  have h2 := use_lt b.use
  have h3 := reg_lt a.reg
  have h4 := use_lt a.use
  have h5 := width_lt w
  have h6 := p.isLt
  exact .inr ⟨rfl, by omega, by omega⟩
theorem cmpi (c : ICond) (i : BitVec 8) (a : Src) (w : Width) (p : PReg) : Statement (.cmpi c i a w p) := by
  rintro _ _ ⟨⟩
  have h0 := icond_lt c
  have h1 := i.isLt
  have h2 := reg_lt a.reg
  have h3 := use_lt a.use
  have h4 := width_lt w
  have h5 := p.isLt
  exact .inr ⟨rfl, by omega, by omega⟩
theorem fcmp (c : FCond) (b : Src) (a : Src) (f : FWidth) (p : PReg) : Statement (.fcmp c b a f p) := by
  rintro _ _ ⟨⟩
  have h0 := fcond_lt c
  have h1 := reg_lt b.reg
  have h2 := use_lt b.use
  have h3 := reg_lt a.reg
  have h4 := use_lt a.use
  have h5 := fwidth_lt f
  have h6 := p.isLt
  exact .inr ⟨rfl, by omega, by omega⟩
theorem pand (b : PReg) (a : PReg) (d : PReg) : Statement (.pand b a d) := by
  rintro _ _ ⟨⟩
  have h0 := b.isLt
  have h1 := a.isLt
  have h2 := d.isLt
  exact .inr ⟨rfl, by omega, by omega⟩
theorem por (b : PReg) (a : PReg) (d : PReg) : Statement (.por b a d) := by
  rintro _ _ ⟨⟩
  have h0 := b.isLt
  have h1 := a.isLt
  have h2 := d.isLt
  exact .inr ⟨rfl, by omega, by omega⟩
theorem pxor (b : PReg) (a : PReg) (d : PReg) : Statement (.pxor b a d) := by
  rintro _ _ ⟨⟩
  have h0 := b.isLt
  have h1 := a.isLt
  have h2 := d.isLt
  exact .inr ⟨rfl, by omega, by omega⟩
theorem pnot (a : PReg) (d : PReg) : Statement (.pnot a d) := by
  rintro _ _ ⟨⟩
  have h0 := a.isLt
  have h1 := d.isLt
  exact .inr ⟨rfl, by omega, by omega⟩
theorem ldIndex (x : Src) (sz : Width) (c : CReg) (d : DReg) : Statement (.ldIndex x sz c d) := by
  rintro _ _ ⟨⟩
  have h0 := reg_lt x.reg
  have h1 := use_lt x.use
  have h2 := width_lt sz
  have h3 := c.isLt
  have h4 := reg_lt d
  exact .inr ⟨rfl, by omega, by omega⟩
theorem ldImm (i : BitVec 9) (sz : Width) (c : CReg) (d : DReg) : Statement (.ldImm i sz c d) := by
  rintro _ _ ⟨⟩
  have h0 := i.isLt
  have h1 := width_lt sz
  have h2 := c.isLt
  have h3 := reg_lt d
  exact .inr ⟨rfl, by omega, by omega⟩
theorem stIndex (x : Src) (sz : Width) (c : CReg) (d : DReg) : Statement (.stIndex x sz c d) := by
  rintro _ _ ⟨⟩
  have h0 := reg_lt x.reg
  have h1 := use_lt x.use
  have h2 := width_lt sz
  have h3 := c.isLt
  have h4 := reg_lt d
  exact .inr ⟨rfl, by omega, by omega⟩
theorem stImm (i : BitVec 9) (sz : Width) (c : CReg) (d : DReg) : Statement (.stImm i sz c d) := by
  rintro _ _ ⟨⟩
  have h0 := i.isLt
  have h1 := width_lt sz
  have h2 := c.isLt
  have h3 := reg_lt d
  exact .inr ⟨rfl, by omega, by omega⟩
theorem ldpIndex (x : Src) (c : CReg) (d : DReg) : Statement (.ldpIndex x c d) := by
  rintro _ _ ⟨⟩
  have h0 := reg_lt x.reg
  have h1 := use_lt x.use
  have h2 := c.isLt
  have h3 := reg_lt d
  exact .inr ⟨rfl, by omega, by omega⟩
theorem ldpImm (i : BitVec 9) (c : CReg) (d : DReg) : Statement (.ldpImm i c d) := by
  rintro _ _ ⟨⟩
  have h0 := i.isLt
  have h1 := c.isLt
  have h2 := reg_lt d
  exact .inr ⟨rfl, by omega, by omega⟩
theorem stpIndex (x : Src) (c : CReg) (d : DReg) : Statement (.stpIndex x c d) := by
  rintro _ _ ⟨⟩
  have h0 := reg_lt x.reg
  have h1 := use_lt x.use
  have h2 := c.isLt
  have h3 := reg_lt d
  exact .inr ⟨rfl, by omega, by omega⟩
theorem stpImm (i : BitVec 9) (c : CReg) (d : DReg) : Statement (.stpImm i c d) := by
  rintro _ _ ⟨⟩
  have h0 := i.isLt
  have h1 := c.isLt
  have h2 := reg_lt d
  exact .inr ⟨rfl, by omega, by omega⟩
theorem ldsIndex (x : Src) (sz : Width) (c : CReg) (d : DReg) : Statement (.ldsIndex x sz c d) := by
  rintro _ _ ⟨⟩
  have h0 := reg_lt x.reg
  have h1 := use_lt x.use
  have h2 := width_lt sz
  have h3 := c.isLt
  have h4 := reg_lt d
  exact .inr ⟨rfl, by omega, by omega⟩
theorem ldsImm (i : BitVec 9) (sz : Width) (c : CReg) (d : DReg) : Statement (.ldsImm i sz c d) := by
  rintro _ _ ⟨⟩
  have h0 := i.isLt
  have h1 := width_lt sz
  have h2 := c.isLt
  have h3 := reg_lt d
  exact .inr ⟨rfl, by omega, by omega⟩
theorem stsIndex (x : Src) (sz : Width) (c : CReg) (d : DReg) : Statement (.stsIndex x sz c d) := by
  rintro _ _ ⟨⟩
  have h0 := reg_lt x.reg
  have h1 := use_lt x.use
  have h2 := width_lt sz
  have h3 := c.isLt
  have h4 := reg_lt d
  exact .inr ⟨rfl, by omega, by omega⟩
theorem stsImm (i : BitVec 9) (sz : Width) (c : CReg) (d : DReg) : Statement (.stsImm i sz c d) := by
  rintro _ _ ⟨⟩
  have h0 := i.isLt
  have h1 := width_lt sz
  have h2 := c.isLt
  have h3 := reg_lt d
  exact .inr ⟨rfl, by omega, by omega⟩
theorem ldfRIndex (x : Src) (c : CReg) (d : DReg) : Statement (.ldfRIndex x c d) := by
  rintro _ _ ⟨⟩
  have h0 := reg_lt x.reg
  have h1 := use_lt x.use
  have h2 := c.isLt
  have h3 := reg_lt d
  exact .inr ⟨rfl, by omega, by omega⟩
theorem ldfRImm (i : BitVec 9) (c : CReg) (d : DReg) : Statement (.ldfRImm i c d) := by
  rintro _ _ ⟨⟩
  have h0 := i.isLt
  have h1 := c.isLt
  have h2 := reg_lt d
  exact .inr ⟨rfl, by omega, by omega⟩
theorem ldfCIndex (x : Src) (c : CReg) (d : DReg) : Statement (.ldfCIndex x c d) := by
  rintro _ _ ⟨⟩
  have h0 := reg_lt x.reg
  have h1 := use_lt x.use
  have h2 := c.isLt
  have h3 := reg_lt d
  exact .inr ⟨rfl, by omega, by omega⟩
theorem ldfCImm (i : BitVec 9) (c : CReg) (d : DReg) : Statement (.ldfCImm i c d) := by
  rintro _ _ ⟨⟩
  have h0 := i.isLt
  have h1 := c.isLt
  have h2 := reg_lt d
  exact .inr ⟨rfl, by omega, by omega⟩
theorem stfRIndex (x : Src) (c : CReg) (d : DReg) : Statement (.stfRIndex x c d) := by
  rintro _ _ ⟨⟩
  have h0 := reg_lt x.reg
  have h1 := use_lt x.use
  have h2 := c.isLt
  have h3 := reg_lt d
  exact .inr ⟨rfl, by omega, by omega⟩
theorem stfRImm (i : BitVec 9) (c : CReg) (d : DReg) : Statement (.stfRImm i c d) := by
  rintro _ _ ⟨⟩
  have h0 := i.isLt
  have h1 := c.isLt
  have h2 := reg_lt d
  exact .inr ⟨rfl, by omega, by omega⟩
theorem stfCIndex (x : Src) (c : CReg) (d : DReg) : Statement (.stfCIndex x c d) := by
  rintro _ _ ⟨⟩
  have h0 := reg_lt x.reg
  have h1 := use_lt x.use
  have h2 := c.isLt
  have h3 := reg_lt d
  exact .inr ⟨rfl, by omega, by omega⟩
theorem stfCImm (i : BitVec 9) (c : CReg) (d : DReg) : Statement (.stfCImm i c d) := by
  rintro _ _ ⟨⟩
  have h0 := i.isLt
  have h1 := c.isLt
  have h2 := reg_lt d
  exact .inr ⟨rfl, by omega, by omega⟩
theorem ldcIndex (x : Src) (c : CReg) (cd : CReg) : Statement (.ldcIndex x c cd) := by
  rintro _ _ ⟨⟩
  have h0 := reg_lt x.reg
  have h1 := use_lt x.use
  have h2 := c.isLt
  have h3 := cd.isLt
  exact .inr ⟨rfl, by omega, by omega⟩
theorem ldcImm (i : BitVec 9) (c : CReg) (cd : CReg) : Statement (.ldcImm i c cd) := by
  rintro _ _ ⟨⟩
  have h0 := i.isLt
  have h1 := c.isLt
  have h2 := cd.isLt
  exact .inr ⟨rfl, by omega, by omega⟩
theorem stcIndex (x : Src) (c : CReg) (cd : CReg) : Statement (.stcIndex x c cd) := by
  rintro _ _ ⟨⟩
  have h0 := reg_lt x.reg
  have h1 := use_lt x.use
  have h2 := c.isLt
  have h3 := cd.isLt
  exact .inr ⟨rfl, by omega, by omega⟩
theorem stcImm (i : BitVec 9) (c : CReg) (cd : CReg) : Statement (.stcImm i c cd) := by
  rintro _ _ ⟨⟩
  have h0 := i.isLt
  have h1 := c.isLt
  have h2 := cd.isLt
  exact .inr ⟨rfl, by omega, by omega⟩
theorem prefIndex (x : Src) (c : CReg) (llc : Bool) : Statement (.prefIndex x c llc) := by
  rintro _ _ ⟨⟩
  have h0 := reg_lt x.reg
  have h1 := use_lt x.use
  have h2 := c.isLt
  have h3 := bool_lt llc
  exact .inr ⟨rfl, by omega, by omega⟩
theorem prefImm (i : BitVec 9) (c : CReg) (llc : Bool) : Statement (.prefImm i c llc) := by
  rintro _ _ ⟨⟩
  have h0 := i.isLt
  have h1 := c.isLt
  have h2 := bool_lt llc
  exact .inr ⟨rfl, by omega, by omega⟩
theorem fence (s : Scope) (o : FenceOrd) : Statement (.fence s o) := by
  rintro _ _ ⟨⟩
  have h0 := scope_lt s
  have h1 := fenceOrd_lt o
  exact .inr ⟨rfl, by omega, by omega⟩
theorem atomRelaxed (op : AtomOp) (b : DReg) (s : Scope) (w32 : Bool) (c : CReg) (d : DReg) : Statement (.atomRelaxed op b s w32 c d) := by
  rintro _ _ ⟨⟩
  have h0 := atomOp_lt op
  have h1 := reg_lt b
  have h2 := scope_lt s
  have h3 := bool_lt w32
  have h4 := c.isLt
  have h5 := reg_lt d
  exact .inr ⟨rfl, by omega, by omega⟩
theorem atomAcquire (op : AtomOp) (b : DReg) (s : Scope) (w32 : Bool) (c : CReg) (d : DReg) : Statement (.atomAcquire op b s w32 c d) := by
  rintro _ _ ⟨⟩
  have h0 := atomOp_lt op
  have h1 := reg_lt b
  have h2 := scope_lt s
  have h3 := bool_lt w32
  have h4 := c.isLt
  have h5 := reg_lt d
  exact .inr ⟨rfl, by omega, by omega⟩
theorem atomRelease (op : AtomOp) (b : DReg) (s : Scope) (w32 : Bool) (c : CReg) (d : DReg) : Statement (.atomRelease op b s w32 c d) := by
  rintro _ _ ⟨⟩
  have h0 := atomOp_lt op
  have h1 := reg_lt b
  have h2 := scope_lt s
  have h3 := bool_lt w32
  have h4 := c.isLt
  have h5 := reg_lt d
  exact .inr ⟨rfl, by omega, by omega⟩
theorem atomAcqRel (op : AtomOp) (b : DReg) (s : Scope) (w32 : Bool) (c : CReg) (d : DReg) : Statement (.atomAcqRel op b s w32 c d) := by
  rintro _ _ ⟨⟩
  have h0 := atomOp_lt op
  have h1 := reg_lt b
  have h2 := scope_lt s
  have h3 := bool_lt w32
  have h4 := c.isLt
  have h5 := reg_lt d
  exact .inr ⟨rfl, by omega, by omega⟩
theorem atoms (op : AtomOp) (b : DReg) (o : MemOrd) (w32 : Bool) (c : CReg) (d : DReg) : Statement (.atoms op b o w32 c d) := by
  rintro _ _ ⟨⟩
  have h0 := atomOp_lt op
  have h1 := reg_lt b
  have h2 := memOrd_lt o
  have h3 := bool_lt w32
  have h4 := c.isLt
  have h5 := reg_lt d
  exact .inr ⟨rfl, by omega, by omega⟩
theorem cinc (b : Src) (sh : BitVec 4) (ca : CReg) (cd : CReg) : Statement (.cinc b sh ca cd) := by
  rintro _ _ ⟨⟩
  have h0 := reg_lt b.reg
  have h1 := use_lt b.use
  have h2 := sh.isLt
  have h3 := ca.isLt
  have h4 := cd.isLt
  exact .inr ⟨rfl, by omega, by omega⟩
theorem cset (b : Src) (ca : CReg) (cd : CReg) : Statement (.cset b ca cd) := by
  rintro _ _ ⟨⟩
  have h0 := reg_lt b.reg
  have h1 := use_lt b.use
  have h2 := ca.isLt
  have h3 := cd.isLt
  exact .inr ⟨rfl, by omega, by omega⟩
theorem cbnd (b : Src) (ca : CReg) (cd : CReg) : Statement (.cbnd b ca cd) := by
  rintro _ _ ⟨⟩
  have h0 := reg_lt b.reg
  have h1 := use_lt b.use
  have h2 := ca.isLt
  have h3 := cd.isLt
  exact .inr ⟨rfl, by omega, by omega⟩
theorem cperm (b : Src) (ca : CReg) (cd : CReg) : Statement (.cperm b ca cd) := by
  rintro _ _ ⟨⟩
  have h0 := reg_lt b.reg
  have h1 := use_lt b.use
  have h2 := ca.isLt
  have h3 := cd.isLt
  exact .inr ⟨rfl, by omega, by omega⟩
theorem cseal (cb : CReg) (ca : CReg) (cd : CReg) : Statement (.cseal cb ca cd) := by
  rintro _ _ ⟨⟩
  have h0 := cb.isLt
  have h1 := ca.isLt
  have h2 := cd.isLt
  exact .inr ⟨rfl, by omega, by omega⟩
theorem cunseal (cb : CReg) (ca : CReg) (cd : CReg) : Statement (.cunseal cb ca cd) := by
  rintro _ _ ⟨⟩
  have h0 := cb.isLt
  have h1 := ca.isLt
  have h2 := cd.isLt
  exact .inr ⟨rfl, by omega, by omega⟩
theorem cmov (ca : CReg) (cd : CReg) : Statement (.cmov ca cd) := by
  rintro _ _ ⟨⟩
  have h0 := ca.isLt
  have h1 := cd.isLt
  exact .inr ⟨rfl, by omega, by omega⟩
theorem cclr (ca : CReg) (cd : CReg) : Statement (.cclr ca cd) := by
  rintro _ _ ⟨⟩
  have h0 := ca.isLt
  have h1 := cd.isLt
  exact .inr ⟨rfl, by omega, by omega⟩
theorem cget (slct : BitVec 6) (ca : CReg) (d : DReg) : Statement (.cget slct ca d) := by
  rintro _ _ ⟨⟩
  have h0 := slct.isLt
  have h1 := ca.isLt
  have h2 := reg_lt d
  exact .inr ⟨rfl, by omega, by omega⟩
theorem ctest (b : Src) (ca : CReg) (w : Width) (p : PReg) : Statement (.ctest b ca w p) := by
  rintro _ _ ⟨⟩
  have h0 := reg_lt b.reg
  have h1 := use_lt b.use
  have h2 := ca.isLt
  have h3 := width_lt w
  have h4 := p.isLt
  exact .inr ⟨rfl, by omega, by omega⟩
theorem ceq (cb : CReg) (ca : CReg) (w : Width) (p : PReg) : Statement (.ceq cb ca w p) := by
  rintro _ _ ⟨⟩
  have h0 := cb.isLt
  have h1 := ca.isLt
  have h2 := width_lt w
  have h3 := p.isLt
  exact .inr ⟨rfl, by omega, by omega⟩
theorem join (g : Fin 64) : Statement (.join g) := by
  rintro _ _ ⟨⟩
  have h0 := g.isLt
  exact .inr ⟨rfl, by omega, by omega⟩
theorem leave (g : Fin 64) : Statement (.leave g) := by
  rintro _ _ ⟨⟩
  have h0 := g.isLt
  exact .inr ⟨rfl, by omega, by omega⟩
theorem arrive (g : Fin 64) : Statement (.arrive g) := by
  rintro _ _ ⟨⟩
  have h0 := g.isLt
  exact .inr ⟨rfl, by omega, by omega⟩
theorem waitb (g : Fin 64) : Statement (.waitb g) := by
  rintro _ _ ⟨⟩
  have h0 := g.isLt
  exact .inr ⟨rfl, by omega, by omega⟩
theorem bar (g : Fin 64) : Statement (.bar g) := by
  rintro _ _ ⟨⟩
  have h0 := g.isLt
  exact .inr ⟨rfl, by omega, by omega⟩
theorem mbw (m : Fin 8) (a : Src) : Statement (.mbw m a) := by
  rintro _ _ ⟨⟩
  have h0 := m.isLt
  have h1 := reg_lt a.reg
  have h2 := use_lt a.use
  exact .inr ⟨rfl, by omega, by omega⟩
theorem mbr (m : Fin 8) (d : DReg) : Statement (.mbr m d) := by
  rintro _ _ ⟨⟩
  have h0 := m.isLt
  have h1 := reg_lt d
  exact .inr ⟨rfl, by omega, by omega⟩
theorem mbtry (m : Fin 8) (p : PReg) (d : DReg) : Statement (.mbtry m p d) := by
  rintro _ _ ⟨⟩
  have h0 := m.isLt
  have h1 := p.isLt
  have h2 := reg_lt d
  exact .inr ⟨rfl, by omega, by omega⟩
theorem mbind (m : Fin 8) (g : Fin 64) : Statement (.mbind m g) := by
  rintro _ _ ⟨⟩
  have h0 := m.isLt
  have h1 := g.isLt
  exact .inr ⟨rfl, by omega, by omega⟩
theorem cpyT (q : Src) (sz : Width) (ca : CReg) (arr : Bool) (fb : Bool) (cd : CReg) : Statement (.cpyT q sz ca arr fb cd) := by
  rintro _ _ ⟨⟩
  have h0 := reg_lt q.reg
  have h1 := use_lt q.use
  have h2 := width_lt sz
  have h3 := ca.isLt
  have h4 := bool_lt arr
  have h5 := bool_lt fb
  have h6 := cd.isLt
  exact .inr ⟨rfl, by omega, by omega⟩
theorem cpyG (q : Src) (sz : Width) (ca : CReg) (arr : Bool) (fb : Bool) (cd : CReg) : Statement (.cpyG q sz ca arr fb cd) := by
  rintro _ _ ⟨⟩
  have h0 := reg_lt q.reg
  have h1 := use_lt q.use
  have h2 := width_lt sz
  have h3 := ca.isLt
  have h4 := bool_lt arr
  have h5 := bool_lt fb
  have h6 := cd.isLt
  exact .inr ⟨rfl, by omega, by omega⟩
theorem cpyS (q : Src) (sz : Width) (ca : CReg) (arr : Bool) (fb : Bool) (cd : CReg) : Statement (.cpyS q sz ca arr fb cd) := by
  rintro _ _ ⟨⟩
  have h0 := reg_lt q.reg
  have h1 := use_lt q.use
  have h2 := width_lt sz
  have h3 := ca.isLt
  have h4 := bool_lt arr
  have h5 := bool_lt fb
  have h6 := cd.isLt
  exact .inr ⟨rfl, by omega, by omega⟩
theorem cpySc (q : Src) (sz : Width) (ca : CReg) (arr : Bool) (fb : Bool) (cd : CReg) : Statement (.cpySc q sz ca arr fb cd) := by
  rintro _ _ ⟨⟩
  have h0 := reg_lt q.reg
  have h1 := use_lt q.use
  have h2 := width_lt sz
  have h3 := ca.isLt
  have h4 := bool_lt arr
  have h5 := bool_lt fb
  have h6 := cd.isLt
  exact .inr ⟨rfl, by omega, by omega⟩
theorem cpyP (q : Src) (sz : Width) (arr : Bool) (fb : Bool) (cd : CReg) : Statement (.cpyP q sz arr fb cd) := by
  rintro _ _ ⟨⟩
  have h0 := reg_lt q.reg
  have h1 := use_lt q.use
  have h2 := width_lt sz
  have h3 := bool_lt arr
  have h4 := bool_lt fb
  have h5 := cd.isLt
  exact .inr ⟨rfl, by omega, by omega⟩
theorem mma (fmt : MmaFmt) (b : Src) (a : Src) (t : Fin 16) : Statement (.mma fmt b a t) := by
  rintro _ _ ⟨⟩
  have h0 := mmaFmt_lt fmt
  have h1 := reg_lt b.reg
  have h2 := use_lt b.use
  have h3 := reg_lt a.reg
  have h4 := use_lt a.use
  have h5 := t.isLt
  exact .inr ⟨rfl, by omega, by omega⟩
theorem mmas (fmt : MmasFmt) (b : Src) (a : Src) (p : BitVec 2) (t : Fin 16) : Statement (.mmas fmt b a p t) := by
  rintro _ _ ⟨⟩
  have h0 := mmasFmt_lt fmt
  have h1 := reg_lt b.reg
  have h2 := use_lt b.use
  have h3 := reg_lt a.reg
  have h4 := use_lt a.use
  have h5 := p.isLt
  have h6 := t.isLt
  exact .inr ⟨rfl, by omega, by omega⟩
theorem mmod (b : Src) (a : Src) (t : Fin 16) : Statement (.mmod b a t) := by
  rintro _ _ ⟨⟩
  have h0 := reg_lt b.reg
  have h1 := use_lt b.use
  have h2 := reg_lt a.reg
  have h3 := use_lt a.use
  have h4 := t.isLt
  exact .inr ⟨rfl, by omega, by omega⟩
theorem aclr (t : Fin 16) : Statement (.aclr t) := by
  rintro _ _ ⟨⟩
  have h0 := t.isLt
  exact .inr ⟨rfl, by omega, by omega⟩
theorem ald (fmt : TileFmt) (c : CReg) (a : Src) (t : Fin 16) : Statement (.ald fmt c a t) := by
  rintro _ _ ⟨⟩
  have h0 := tileFmt_lt fmt
  have h1 := c.isLt
  have h2 := reg_lt a.reg
  have h3 := use_lt a.use
  have h4 := t.isLt
  exact .inr ⟨rfl, by omega, by omega⟩
theorem ast (fmt : TileFmt) (r : Rnd) (c : CReg) (a : Src) (t : Fin 16) : Statement (.ast fmt r c a t) := by
  rintro _ _ ⟨⟩
  have h0 := tileFmt_lt fmt
  have h1 := rnd_lt r
  have h2 := c.isLt
  have h3 := reg_lt a.reg
  have h4 := use_lt a.use
  have h5 := t.isLt
  exact .inr ⟨rfl, by omega, by omega⟩
theorem tmma (c : CReg) (q : Src) (t : Fin 16) : Statement (.tmma c q t) := by
  rintro _ _ ⟨⟩
  have h0 := c.isLt
  have h1 := reg_lt q.reg
  have h2 := use_lt q.use
  have h3 := t.isLt
  exact .inr ⟨rfl, by omega, by omega⟩
theorem send (cb : CReg) (a : Src) (ce : CReg) : Statement (.send cb a ce) := by
  rintro _ _ ⟨⟩
  have h0 := cb.isLt
  have h1 := reg_lt a.reg
  have h2 := use_lt a.use
  have h3 := ce.isLt
  exact .inr ⟨rfl, by omega, by omega⟩
theorem recv (cb : CReg) (a : Src) (ce : CReg) : Statement (.recv cb a ce) := by
  rintro _ _ ⟨⟩
  have h0 := cb.isLt
  have h1 := reg_lt a.reg
  have h2 := use_lt a.use
  have h3 := ce.isLt
  exact .inr ⟨rfl, by omega, by omega⟩
theorem xcall (cb : CReg) (a : Src) (ce : CReg) : Statement (.xcall cb a ce) := by
  rintro _ _ ⟨⟩
  have h0 := cb.isLt
  have h1 := reg_lt a.reg
  have h2 := use_lt a.use
  have h3 := ce.isLt
  exact .inr ⟨rfl, by omega, by omega⟩
theorem reply (cb : CReg) (a : Src) : Statement (.reply cb a) := by
  rintro _ _ ⟨⟩
  have h0 := cb.isLt
  have h1 := reg_lt a.reg
  have h2 := use_lt a.use
  exact .inr ⟨rfl, by omega, by omega⟩
theorem notify (a : Src) (ce : CReg) : Statement (.notify a ce) := by
  rintro _ _ ⟨⟩
  have h0 := reg_lt a.reg
  have h1 := use_lt a.use
  have h2 := ce.isLt
  exact .inr ⟨rfl, by omega, by omega⟩
theorem poll (cb : CReg) (a : Src) (ce : CReg) : Statement (.poll cb a ce) := by
  rintro _ _ ⟨⟩
  have h0 := cb.isLt
  have h1 := reg_lt a.reg
  have h2 := use_lt a.use
  have h3 := ce.isLt
  exact .inr ⟨rfl, by omega, by omega⟩
theorem sysc (cb : CReg) (a : Src) (ce : CReg) : Statement (.sysc cb a ce) := by
  rintro _ _ ⟨⟩
  have h0 := cb.isLt
  have h1 := reg_lt a.reg
  have h2 := use_lt a.use
  have h3 := ce.isLt
  exact .inr ⟨rfl, by omega, by omega⟩
theorem push (cb : CReg) (keep : Bool) (d : DReg) (ce : CReg) : Statement (.push cb keep d ce) := by
  rintro _ _ ⟨⟩
  have h0 := cb.isLt
  have h1 := bool_lt keep
  have h2 := reg_lt d
  have h3 := ce.isLt
  exact .inr ⟨rfl, by omega, by omega⟩
theorem sret (a : Src) (ce : CReg) : Statement (.sret a ce) := by
  rintro _ _ ⟨⟩
  have h0 := reg_lt a.reg
  have h1 := use_lt a.use
  have h2 := ce.isLt
  exact .inr ⟨rfl, by omega, by omega⟩
theorem mark (ce : CReg) : Statement (.mark ce) := by
  rintro _ _ ⟨⟩
  have h0 := ce.isLt
  exact .inr ⟨rfl, by omega, by omega⟩
theorem bpost (a : Src) (k : Fin 16) : Statement (.bpost a k) := by
  rintro _ _ ⟨⟩
  have h0 := reg_lt a.reg
  have h1 := use_lt a.use
  have h2 := k.isLt
  exact .inr ⟨rfl, by omega, by omega⟩
theorem bwait (a : Src) (k : Fin 16) : Statement (.bwait a k) := by
  rintro _ _ ⟨⟩
  have h0 := reg_lt a.reg
  have h1 := use_lt a.use
  have h2 := k.isLt
  exact .inr ⟨rfl, by omega, by omega⟩
theorem emit (a : Src) (ce : CReg) : Statement (.emit a ce) := by
  rintro _ _ ⟨⟩
  have h0 := reg_lt a.reg
  have h1 := use_lt a.use
  have h2 := ce.isLt
  exact .inr ⟨rfl, by omega, by omega⟩
theorem ckpt : Statement (.ckpt) := by
  rintro _ _ ⟨⟩
  exact .inr ⟨rfl, by omega, by omega⟩
theorem rd (slct : BitVec 14) (d : DReg) : Statement (.rd slct d) := by
  rintro _ _ ⟨⟩
  have h0 := slct.isLt
  have h1 := reg_lt d
  exact .inr ⟨rfl, by omega, by omega⟩
theorem srd (slct : BitVec 14) (d : DReg) : Statement (.srd slct d) := by
  rintro _ _ ⟨⟩
  have h0 := slct.isLt
  have h1 := reg_lt d
  exact .inr ⟨rfl, by omega, by omega⟩
theorem swr (slct : BitVec 14) (d : DReg) : Statement (.swr slct d) := by
  rintro _ _ ⟨⟩
  have h0 := slct.isLt
  have h1 := reg_lt d
  exact .inr ⟨rfl, by omega, by omega⟩
theorem trap (code : BitVec 14) : Statement (.trap code) := by
  rintro _ _ ⟨⟩
  have h0 := code.isLt
  exact .inr ⟨rfl, by omega, by omega⟩
theorem tret : Statement (.tret) := by
  rintro _ _ ⟨⟩
  exact .inr ⟨rfl, by omega, by omega⟩
theorem bsave (sec : BitVec 3) (c : CReg) : Statement (.bsave sec c) := by
  rintro _ _ ⟨⟩
  have h0 := sec.isLt
  have h1 := c.isLt
  exact .inr ⟨rfl, by omega, by omega⟩
theorem brest (sec : BitVec 3) (c : CReg) : Statement (.brest sec c) := by
  rintro _ _ ⟨⟩
  have h0 := sec.isLt
  have h1 := c.isLt
  exact .inr ⟨rfl, by omega, by omega⟩
theorem rmap (b : DReg) (a : Src) (d : DReg) : Statement (.rmap b a d) := by
  rintro _ _ ⟨⟩
  have h0 := reg_lt b
  have h1 := reg_lt a.reg
  have h2 := use_lt a.use
  have h3 := reg_lt d
  exact .inr ⟨rfl, by omega, by omega⟩
theorem haltPark : Statement (.haltPark) := by
  rintro _ _ ⟨⟩
  exact .inr ⟨rfl, by omega, by omega⟩
theorem haltFail : Statement (.haltFail) := by
  rintro _ _ ⟨⟩
  exact .inr ⟨rfl, by omega, by omega⟩
theorem haltRequeue : Statement (.haltRequeue) := by
  rintro _ _ ⟨⟩
  exact .inr ⟨rfl, by omega, by omega⟩
theorem hcld (x0 : BitVec 12) (x1 : Fin 32) (x2 : CReg) : Statement (.hcld x0 x1 x2) := nofun
theorem hcst (x0 : BitVec 12) (x1 : CReg) (x2 : Fin 32) : Statement (.hcst x0 x1 x2) := nofun
theorem hcget (x0 : BitVec 12) (x1 : CReg) (x2 : Fin 32) : Statement (.hcget x0 x1 x2) := nofun
theorem hcinc (x0 : Fin 32) (x1 : CReg) (x2 : CReg) : Statement (.hcinc x0 x1 x2) := nofun
theorem hcset (x0 : Fin 32) (x1 : CReg) (x2 : CReg) : Statement (.hcset x0 x1 x2) := nofun
theorem hcbnd (x0 : Fin 32) (x1 : CReg) (x2 : CReg) : Statement (.hcbnd x0 x1 x2) := nofun
theorem hcperm (x0 : Fin 32) (x1 : CReg) (x2 : CReg) : Statement (.hcperm x0 x1 x2) := nofun
theorem hcmov (x0 : CReg) (x1 : CReg) : Statement (.hcmov x0 x1) := nofun
theorem hcclr (x0 : CReg) (x1 : CReg) : Statement (.hcclr x0 x1) := nofun
theorem hcseal (x0 : CReg) (x1 : CReg) (x2 : CReg) : Statement (.hcseal x0 x1 x2) := nofun
theorem hcunseal (x0 : CReg) (x1 : CReg) (x2 : CReg) : Statement (.hcunseal x0 x1 x2) := nofun
theorem hcsend (x0 : CReg) (x1 : CReg) : Statement (.hcsend x0 x1) := nofun
theorem hcrecv (x0 : CReg) (x1 : CReg) : Statement (.hcrecv x0 x1) := nofun
theorem hcxcall (x0 : CReg) (x1 : CReg) : Statement (.hcxcall x0 x1) := nofun
theorem hcreply (x0 : CReg) (x1 : CReg) : Statement (.hcreply x0 x1) := nofun
theorem hcnotify (x0 : Fin 32) (x1 : CReg) : Statement (.hcnotify x0 x1) := nofun
theorem hcpoll (x0 : CReg) (x1 : CReg) : Statement (.hcpoll x0 x1) := nofun
theorem liftPass (x0 : Nat) (x1 : Nat) : Statement (.liftPass x0 x1) := nofun
theorem pipeIdleClock (x0 : Nat) (x1 : Nat) : Statement (.pipeIdleClock x0 x1) := nofun
theorem loadComplete (x0 : Nat) (x1 : List SeatReply) : Statement (.loadComplete x0 x1) := nofun
theorem storeAccepted (x0 : Nat) : Statement (.storeAccepted x0) := nofun
theorem atomicComplete (x0 : Nat) (x1 : List SeatReply) : Statement (.atomicComplete x0 x1) := nofun
theorem holdLineDrain (x0 : Word) (x1 : Nat) (x2 : Nat) : Statement (.holdLineDrain x0 x1 x2) := nofun
theorem groupArrivalApply (x0 : Nat) : Statement (.groupArrivalApply x0) := nofun
theorem pauseWake (x0 : Nat) (x1 : Nat) (x2 : Nat) : Statement (.pauseWake x0 x1 x2) := nofun
theorem fenceContinue (x0 : Nat) (x1 : Nat) (x2 : Nat) : Statement (.fenceContinue x0 x1 x2) := nofun
theorem mbxTimeout (x0 : Nat) (x1 : Nat) (x2 : Nat) : Statement (.mbxTimeout x0 x1 x2) := nofun
theorem goneMaskSet (x0 : Word) (x1 : Nat) : Statement (.goneMaskSet x0 x1) := nofun
theorem copyComplete (x0 : Nat) : Statement (.copyComplete x0) := nofun
theorem promiseMissed (x0 : Nat) : Statement (.promiseMissed x0) := nofun
theorem matrixUnitDone (x0 : Nat) : Statement (.matrixUnitDone x0) := nofun
theorem tmmaHandover (x0 : Nat) : Statement (.tmmaHandover x0) := nofun
theorem tmmaComplete (x0 : Nat) : Statement (.tmmaComplete x0) := nofun
theorem matrixFlagFall (x0 : Nat) : Statement (.matrixFlagFall x0) := nofun
theorem tileRowsDone (x0 : Nat) : Statement (.tileRowsDone x0) := nofun
theorem pageWalk (x0 : Word) (x1 : Nat) (x2 : Word) (x3 : Access) : Statement (.pageWalk x0 x1 x2 x3) := nofun
theorem leaseExpire (x0 : TlbUnit) : Statement (.leaseExpire x0) := nofun
theorem hubReturnExpired (x0 : Nat) : Statement (.hubReturnExpired x0) := nofun
theorem sdqtailWrite (x0 : Word32) : Statement (.sdqtailWrite x0) := nofun
theorem shootdownRequest : Statement (.shootdownRequest) := nofun
theorem bellSkewDetect (x0 : SkewReport) : Statement (.bellSkewDetect x0) := nofun
theorem skewRecovery (x0 : SkewReport) : Statement (.skewRecovery x0) := nofun
theorem translationRenewal (x0 : Nat) (x1 : Word) : Statement (.translationRenewal x0 x1) := nofun
theorem grantRequest (x0 : GrantMsg) (x1 : Nat) (x2 : Word) (x3 : Access) : Statement (.grantRequest x0 x1 x2 x3) := nofun
theorem remoteAccessPerform (x0 : RemoteReq) : Statement (.remoteAccessPerform x0) := nofun
theorem remoteReplyDeadline (x0 : Nat) : Statement (.remoteReplyDeadline x0) := nofun
theorem remoteAckDeadline (x0 : Nat) : Statement (.remoteAckDeadline x0) := nofun
theorem savedReplyApply (x0 : Word) (x1 : Nat) (x2 : Nat) (x3 : Nat) (x4 : List SeatReply) : Statement (.savedReplyApply x0 x1 x2 x3 x4) := nofun
theorem carveComplete (x0 : Nat) : Statement (.carveComplete x0) := nofun
theorem softError (x0 : SoftErr) : Statement (.softError x0) := nofun
theorem hotnessSample (x0 : Nat) (x1 : Nat) (x2 : BitVec 16) (x3 : Word) (x4 : Word32) : Statement (.hotnessSample x0 x1 x2 x3 x4) := nofun
theorem hotctlWrite (x0 : Nat) (x1 : Word) : Statement (.hotctlWrite x0 x1) := nofun
theorem hottailWrite (x0 : Nat) (x1 : Word32) : Statement (.hottailWrite x0 x1) := nofun
theorem pageMigration (x0 : Nat) (x1 : Word) (x2 : NewFrame) : Statement (.pageMigration x0 x1 x2) := nofun
theorem icacheInvalidate (x0 : Word) (x1 : Option Nat) (x2 : Word) (x3 : Nat) : Statement (.icacheInvalidate x0 x1 x2 x3) := nofun
theorem binTimerExpire (x0 : Nat) : Statement (.binTimerExpire x0) := nofun
theorem emitStallTimeout (x0 : Nat) (x1 : Nat) (x2 : Nat) : Statement (.emitStallTimeout x0 x1 x2) := nofun
theorem priorityAging (x0 : Word) : Statement (.priorityAging x0) := nofun
theorem taskAdmit (x0 : Word) (x1 : Nat) : Statement (.taskAdmit x0 x1) := nofun
theorem stagingGranuleLand (x0 : Word) (x1 : Nat) (x2 : Nat) (x3 : Nat) : Statement (.stagingGranuleLand x0 x1 x2 x3) := nofun
theorem stagingPageFault (x0 : Word) (x1 : Word) (x2 : Nat) : Statement (.stagingPageFault x0 x1 x2) := nofun
theorem taskDispatch (x0 : Word) : Statement (.taskDispatch x0) := nofun
theorem deanPreempt (x0 : Word) : Statement (.deanPreempt x0) := nofun
theorem taskRetire (x0 : Word) : Statement (.taskRetire x0) := nofun
theorem taskRetireRelease (x0 : Word) : Statement (.taskRetireRelease x0) := nofun
theorem taskAbort (x0 : Word) (x1 : AbortCause) : Statement (.taskAbort x0 x1) := nofun
theorem pagerResident (x0 : Word) : Statement (.pagerResident x0) := nofun
theorem implicitCheckpoint (x0 : Word) (x1 : Bool) : Statement (.implicitCheckpoint x0 x1) := nofun
theorem timetableIdleAdvance (x0 : Nat) (x1 : Nat) : Statement (.timetableIdleAdvance x0 x1) := nofun
theorem teamHalt (x0 : Word) (x1 : HaltWhy) : Statement (.teamHalt x0 x1) := nofun
theorem parkBlockedTask (x0 : Word) : Statement (.parkBlockedTask x0) := nofun
theorem parkedDelivery (x0 : Word) (x1 : Nat) (x2 : Nat) (x3 : Nat) (x4 : Delivery) : Statement (.parkedDelivery x0 x1 x2 x3 x4) := nofun
theorem saveRunOpen (x0 : Nat) (x1 : Nat) : Statement (.saveRunOpen x0 x1) := nofun
theorem restoreRunOpen (x0 : Nat) (x1 : Nat) : Statement (.restoreRunOpen x0 x1) := nofun
theorem faultRunOpen (x0 : Nat) : Statement (.faultRunOpen x0) := nofun
theorem faultDisposition (x0 : Word) (x1 : Option Word) : Statement (.faultDisposition x0 x1) := nofun
theorem featChangeRetest (x0 : Word) : Statement (.featChangeRetest x0) := nofun
theorem machineCheck (x0 : Nat) (x1 : Nat) (x2 : Word) (x3 : Word) : Statement (.machineCheck x0 x1 x2 x3) := nofun
theorem pushReserve (x0 : PushReq) : Statement (.pushReserve x0) := nofun
theorem pushPublish (x0 : Nat) (x1 : Nat) : Statement (.pushPublish x0 x1) := nofun
theorem pushReply (x0 : Nat) (x1 : Option Word) : Statement (.pushReply x0 x1) := nofun
theorem pushReplyDeadline (x0 : Nat) : Statement (.pushReplyDeadline x0) := nofun
theorem pushSlotTimeout (x0 : Nat) (x1 : Nat) : Statement (.pushSlotTimeout x0 x1) := nofun
theorem sretPerform (x0 : Nat) : Statement (.sretPerform x0) := nofun
theorem markReplicaArrive (x0 : Nat) (x1 : Nat) (x2 : Nat) (x3 : Nat) : Statement (.markReplicaArrive x0 x1 x2 x3) := nofun
theorem markDone (x0 : Nat) : Statement (.markDone x0) := nofun
theorem markTimeout (x0 : Nat) : Statement (.markTimeout x0) := nofun
theorem linkFail (x0 : Nat) : Statement (.linkFail x0) := nofun
theorem linkRetrainDone (x0 : Nat) : Statement (.linkRetrainDone x0) := nofun
theorem pathSetChange (x0 : Nat) : Statement (.pathSetChange x0) := nofun
theorem libraryReport (x0 : Nat) (x1 : Nat) (x2 : LibReport) : Statement (.libraryReport x0 x1 x2) := nofun
theorem remoteRefusal (x0 : RefusedId) (x1 : Word) : Statement (.remoteRefusal x0 x1) := nofun
theorem pathSilenceTimeout (x0 : Nat) (x1 : Nat) : Statement (.pathSilenceTimeout x0 x1) := nofun
theorem pathProbe (x0 : Nat) (x1 : Nat) (x2 : Bool) : Statement (.pathProbe x0 x1 x2) := nofun
theorem noPathTimeout (x0 : Nat) : Statement (.noPathTimeout x0) := nofun
theorem poolLinkTimeout (x0 : Nat) : Statement (.poolLinkTimeout x0) := nofun
theorem libraryAtomCombine (x0 : List RemoteReq) : Statement (.libraryAtomCombine x0) := nofun
theorem poolsegWrite (x0 : Nat) (x1 : Word) : Statement (.poolsegWrite x0 x1) := nofun
theorem poolsegUnmapDone (x0 : Nat) : Statement (.poolsegUnmapDone x0) := nofun
theorem hallPassReceive (x0 : Nat) : Statement (.hallPassReceive x0) := nofun
theorem programPost (x0 : Nat) (x1 : Frame) : Statement (.programPost x0 x1) := nofun
theorem passFrame (x0 : Nat) (x1 : Frame) : Statement (.passFrame x0 x1) := nofun
theorem hallPassRegenerate (x0 : Nat) : Statement (.hallPassRegenerate x0) := nofun
theorem membership (x0 : Nat) (x1 : JoinMsg) : Statement (.membership x0 x1) := nofun
theorem bgctlWrite (x0 : Word) : Statement (.bgctlWrite x0) := nofun
theorem bellBeaconSend : Statement (.bellBeaconSend) := nofun
theorem bellBeacon (x0 : Nat) (x1 : Frame) : Statement (.bellBeacon x0 x1) := nofun
theorem bellUnlock : Statement (.bellUnlock) := nofun
theorem revocationNotice (x0 : NoticeVia) (x1 : Nat) (x2 : Word) (x3 : Word) (x4 : Word32) : Statement (.revocationNotice x0 x1 x2 x3 x4) := nofun
theorem revocationAck (x0 : Nat) (x1 : Nat) : Statement (.revocationAck x0 x1) := nofun
theorem revocationFence (x0 : Nat) (x1 : Nat) : Statement (.revocationFence x0 x1) := nofun
theorem eraserSweep : Statement (.eraserSweep) := nofun
theorem revocationComplete (x0 : Nat) : Statement (.revocationComplete x0) := nofun
theorem destroyComplete (x0 : Nat) (x1 : Nat) : Statement (.destroyComplete x0 x1) := nofun
theorem create (x0 : RegReq) : Statement (.create x0) := nofun
theorem mint (x0 : RegReq) : Statement (.mint x0) := nofun
theorem destroy (x0 : RegReq) : Statement (.destroy x0) := nofun
theorem revoke (x0 : RegReq) : Statement (.revoke x0) := nofun
theorem memcap (x0 : RegReq) : Statement (.memcap x0) := nofun
theorem bind (x0 : RegReq) : Statement (.bind x0) := nofun
theorem unbind (x0 : RegReq) : Statement (.unbind x0) := nofun
theorem carve (x0 : RegReq) : Statement (.carve x0) := nofun
theorem carvecap (x0 : RegReq) : Statement (.carvecap x0) := nofun
theorem heap (x0 : RegReq) : Statement (.heap x0) := nofun
theorem inject (x0 : RegReq) : Statement (.inject x0) := nofun
theorem emitcap (x0 : RegReq) : Statement (.emitcap x0) := nofun
theorem exportSpace (x0 : RegReq) : Statement (.exportSpace x0) := nofun
theorem admitCap (x0 : RegReq) : Statement (.admitCap x0) := nofun
theorem preemptPark (x0 : RegReq) : Statement (.preemptPark x0) := nofun
theorem preemptRelease (x0 : RegReq) : Statement (.preemptRelease x0) := nofun
theorem ringDoneWrite (x0 : Nat) (x1 : Word32) : Statement (.ringDoneWrite x0 x1) := nofun
theorem serviceAlloc (x0 : Nat) : Statement (.serviceAlloc x0) := nofun
theorem packageReset : Statement (.packageReset) := nofun
theorem bootClaim (x0 : Nat) (x1 : BootMsg) : Statement (.bootClaim x0 x1) := nofun
theorem bootReady (x0 : Nat) (x1 : BootMsg) (x2 : Word) (x3 : Nat) (x4 : Word) : Statement (.bootReady x0 x1 x2 x3 x4) := nofun
theorem bootTimeout (x0 : Nat) (x1 : BootMsg) : Statement (.bootTimeout x0 x1) := nofun
theorem bootTimerExpire : Statement (.bootTimerExpire) := nofun
theorem imageVerify (x0 : List Byte) : Statement (.imageVerify x0) := nofun
theorem bootctlWrite (x0 : Word) : Statement (.bootctlWrite x0) := nofun
theorem getVersion (x0 : Nat) : Statement (.getVersion x0) := nofun
theorem getCapabilities (x0 : Nat) : Statement (.getCapabilities x0) := nofun
theorem negotiateAlgorithms (x0 : Nat) (x1 : Bool) : Statement (.negotiateAlgorithms x0 x1) := nofun
theorem getDigests (x0 : Nat) : Statement (.getDigests x0) := nofun
theorem getCertificate (x0 : Nat) (x1 : Nat) : Statement (.getCertificate x0 x1) := nofun
theorem challenge (x0 : Nat) (x1 : Nat) (x2 : BitVec 256) : Statement (.challenge x0 x1 x2) := nofun
theorem getMeasurements (x0 : Nat) (x1 : Nat) : Statement (.getMeasurements x0 x1) := nofun
theorem keyExchange (x0 : Nat) (x1 : KeyExchange) : Statement (.keyExchange x0 x1) := nofun
theorem finish (x0 : Nat) (x1 : Nat) (x2 : Bool) : Statement (.finish x0 x1 x2) := nofun
theorem endSession (x0 : Nat) (x1 : Nat) : Statement (.endSession x0 x1) := nofun
theorem keyRelease (x0 : Nat) (x1 : Option Nat) (x2 : VendorMsg) : Statement (.keyRelease x0 x1 x2) := nofun
theorem unsupportedRequest (x0 : Nat) (x1 : Nat) : Statement (.unsupportedRequest x0 x1) := nofun
theorem powerThrottle (x0 : PowerLimit) : Statement (.powerThrottle x0) := nofun
theorem mgmtRegisterWrite (x0 : Nat) (x1 : Word) (x2 : MgmtBy) : Statement (.mgmtRegisterWrite x0 x1 x2) := nofun
theorem illegalWord (x0 : Word32) (x1 : IllegalKind) : Statement (.illegalWord x0 x1) := nofun
theorem pcieMsiVector (x0 : Nat) : Statement (.pcieMsiVector x0) := nofun
theorem boardFibreLoss (x0 : Nat) : Statement (.boardFibreLoss x0) := nofun
theorem frameCheckFail (x0 : Nat) (x1 : Frame) : Statement (.frameCheckFail x0 x1) := nofun
theorem checkpointComplete (x0 : Word) : Statement (.checkpointComplete x0) := nofun
theorem imageSectionComplete (x0 : Nat) : Statement (.imageSectionComplete x0) := nofun
theorem pushGrant (x0 : Nat) (x1 : Word) (x2 : Word) : Statement (.pushGrant x0 x1 x2) := nofun
theorem hostTrapWithdraw (x0 : Nat) (x1 : Word) : Statement (.hostTrapWithdraw x0 x1) := nofun
theorem hostHartAccess (x0 : Nat) (x1 : Nat) (x2 : HostAcc) : Statement (.hostHartAccess x0 x1 x2) := nofun
theorem leasemaxRequeueWait (x0 : Word) : Statement (.leasemaxRequeueWait x0) := nofun

end Sys2Proof.Laws.WordLength

theorem Sys2Proof.Laws.WordLength.seal (d : Sys2Proof.DReg) : Sys2Proof.Laws.WordLength.Statement (.seal d) := by
  rintro _ _ ⟨⟩
  have h0 := Sys2Proof.Laws.WordLength.reg_lt d
  exact .inr ⟨rfl, by omega, by omega⟩
end

