-- ==== Sys2Proof/Laws/Storage.lean ====
section
/-!
SUPPORT. The operations on the storages of the package keep their canonical form.
-/
namespace Sys2Proof.Machine

theorem physStore_wf (s : State) (pa : Nat) (bs : List Byte) (p : Bool) (h : s.mem.wf = true) :
    (physStore s pa bs p).mem.wf = true := by
  unfold physStore
  split
  · exact h
  · exact memStore_wf _ _ _ _ h
theorem physStoreCap_wf (s : State) (pa : Nat) (c : Cap) (p : Bool) (h : s.mem.wf = true) :
    (physStoreCap s pa c p).mem.wf = true := by
  unfold physStoreCap
  split
  · exact h
  · dsimp only
    split <;> exact memStoreCap_wf _ _ _ _ h
theorem purgeMem_wf (s : State) (mine : Nat → Bool) (m : Mem) (h : m.wf = true) : (purgeMem s mine m).wf = true := by
  rw [Mem.wf_iff] at h ⊢
  exact ⟨h.1, nats_filter_wf _ _ h.2.1, h.2.2⟩
theorem sweepFrames_wf (s : State) (h : s.mem.wf = true) : (sweepFrames s).mem.wf = true := by
  rw [Mem.wf_iff] at h ⊢
  exact ⟨h.1, nats_filter_wf _ _ h.2.1, h.2.2⟩
theorem piecesMem_wf (ps : List Piece) : (piecesMem ps).wf = true := by
  refine foldl_keeps (fun m : Mem => m.wf = true) _ _ _ Mem.empty_wf fun m p hm => ?_
  have hp := memPutBytes_wf m p.off p.bytes hm
  dsimp only
  split
  · exact memSetTag_wf _ _ _ hp
  · exact hp
theorem launchArea_wf (n : NodeObj) (recs : List BinRec) (move : Cap → Cap) (m : Mem) (base : Nat) (h : m.wf = true) :
    (launchArea n recs move m base).wf = true := by
  have hargs : ∀ top, ((List.range 16).foldl (fun m k => memStoreCap m (top + 16 * k) (move (nth n.args k Cap.null)) false) m).wf = true :=
    fun top => foldl_keeps (fun m : Mem => m.wf = true) _ _ _ h fun m k hm => memStoreCap_wf _ _ _ _ hm
  have hrec : ∀ (m : Mem) (below : Nat), m.wf = true → ((List.range recs.length).foldl (fun m k =>
      match recs[k]? with
      | none => m
      | some r => r.poison.foldl (fun m g => memSetPoison m (below + k * n.recSize + 16 * g) true)
          (memStore m (below + k * n.recSize) r.bytes false)) m).wf = true := by
    intro m below hm
    refine foldl_keeps (fun m : Mem => m.wf = true) _ _ _ hm fun m k hm => ?_
    split
    · exact hm
    · exact foldl_keeps (fun m : Mem => m.wf = true) _ _ _ (memStore_wf _ _ _ _ hm) fun m g hm => memSetPoison_wf _ _ _ hm
  unfold launchArea
  dsimp only
  split
  · split
    · exact hargs _
    · exact h
  · refine hrec _ _ ?_
    split
    · exact hargs _
    · exact h
theorem areaWrite_wf (s : State) (pages : List Nat) (a : Nat) (m : Mem) (h : s.mem.wf = true) :
    (areaWrite s pages a m).mem.wf = true := by
  refine foldl_keeps (fun m : Mem => m.wf = true) _ _ _ ?_ fun m g hm => memSetPoison_wf _ _ _ hm
  refine foldl_keeps (fun m : Mem => m.wf = true) _ _ _ ?_ fun m g hm => memSetTag_wf _ _ _ hm
  exact foldl_keeps (fun m : Mem => m.wf = true) _ _ _ h fun m c hm => memSetByte_wf _ _ _ hm
theorem areaClear_wf (s : State) (pages : List Nat) (a n : Nat) (h : s.mem.wf = true) : (areaClear s pages a n).mem.wf = true :=
  foldl_keeps (fun m : Mem => m.wf = true) _ _ _ h fun m k hm => memClear_wf _ _ _ hm
theorem eraseFrame_wf (m : Mem) (pa n : Nat) (h : m.wf = true) : (eraseFrame m pa n).wf = true := by
  rw [Mem.wf_iff] at h ⊢
  exact ⟨cells_filter_wf _ _ h.1, nats_filter_wf _ _ h.2.1,
    foldl_keeps (fun l : List Nat => natsWf l = true) _ _ _ (nats_filter_wf _ _ h.2.2.1) fun l g hl => natPut_wf _ _ _ hl,
    foldl_keeps (fun l => viewsWf l = true) _ _ _ h.2.2.2 fun l x hl => viewPut_wf _ _ _ hl⟩
theorem aloneIn_wf (m : Mem) (a : Nat) (h : m.wf = true) : (aloneIn m a).wf = true := by
  unfold aloneIn
  split
  · rw [Mem.wf_iff] at h ⊢
    exact ⟨h.1, h.2.1, h.2.2.1, viewPut_wf _ _ _ h.2.2.2⟩
  · exact h
theorem copyBits_wf (m : Mem) (a b : Nat) (h : m.wf = true) : (copyBits m a b).wf = true :=
  foldl_keeps (fun m : Mem => m.wf = true) _ _ _ h fun m g hm => memSetPoison_wf _ _ _ (memSetTag_wf _ _ _ hm)
theorem freeLine_wf (draws base : Nat) (l : List Host.Cell) (h : cellsWf l = true) : cellsWf (freeLine draws base l) = true :=
  foldl_keeps (fun l => cellsWf l = true) _ _ _ h fun l j hl => cellPut_wf _ _ _ hl
/-- The bytes that a line opens with keep the canonical form. -/
theorem openView_wf (s : State) (a : Nat) (h : s.mem.wf = true) : (openView s a).mem.wf = true := by
  unfold openView
  split
  · exact h
  · have hf := withCells_wf s.mem _ h (freeLine_wf s.draws (alignDown a 64) s.mem.cells ((Mem.wf_iff _).mp h).1)
    have hc := copyBits_wf _ (underKid (alignDown a 64) ((viewsOf s.mem a).headD 0)) (alignDown a 64) hf
    exact withViews_wf _ _ hc (viewPut_wf _ _ _ (Mem.views_wf _ hc))
/-- A line that stands under the identifier of the address is read as it is. -/
theorem openView_viewed (s : State) (a : Nat) (h : viewed s.mem a = true) : openView s a = s := if_pos h
theorem openViews_wf (s : State) (pas : List Nat) (h : s.mem.wf = true) : (openViews s pas).mem.wf = true :=
  foldl_keeps (fun s : State => s.mem.wf = true) _ _ _ h fun s a hs => openView_wf s a hs
theorem openViews_viewed (s : State) (pas : List Nat) (h : ∀ a ∈ pas, viewed s.mem a = true) : openViews s pas = s := by
  induction pas with
  | nil => rfl
  | cons a l ih =>
    show openViews (openView s a) l = s
    rw [openView_viewed s a (h a (List.mem_cons_self ..))]
    exact ih fun b hb => h b (List.mem_cons_of_mem _ hb)
theorem clearWays_wf (s : State) (hub a b : Nat) (h : s.mem.wf = true) : (clearWays s hub a b).mem.wf = true := memClear_wf _ _ _ h
theorem romState_wf (s : State) (h : s.mem.wf = true) : (romState s).mem.wf = true := by
  rw [Mem.wf_iff] at h ⊢
  exact ⟨cells_filter_wf _ _ h.1, rfl, rfl, h.2.2.2⟩
/-- The memory of the reset state has the canonical form. -/
theorem reset_wf : State.reset.mem.wf = true := rfl

end Sys2Proof.Machine
end

