-- ==== Sys2Proof/Tests/Slice0.lean ====
section
/-!
SUPPORT. The model's own tests: ill-formed terms that the checks refuse, words of every family, single steps, and for every
statement with hypotheses a state and operands that meet them together.
-/
namespace Sys2Proof.Tests
open Sys2Proof Machine

set_option Elab.async false

/-! ## Small states -/

/-- A row that every seat's element fills with one value. -/
def row {α : Type} (r : Nat) (x : α) : Row α := ⟨r, 0xFFFFFFFF, 0, 0, List.replicate 32 x⟩
/-- Heap and window capabilities with every memory permission, and an executable one. -/
def heapCap : Cap := boundedCap 0x10001000 0x3C4 0 0x10001000 0x10002000 true
def winCap : Cap := boundedCap 0x100 0x3C0 0 0 0x8000 true
def codeCap : Cap := boundedCap (BitVec.ofNat 64 placeAddr) 0x220 0 placeAddr (placeAddr + 0x1000) true
/-- A capability of an object: type, number, permissions. -/
def objCap (type num : Nat) (perms : BitVec 10) : Cap :=
  ⟨(0 : Word) ++ perms ++ BitVec.ofNat 10 type ++ (0 : BitVec 6) ++ BitVec.ofNat 38 num, true⟩
/-- Bench 0 of core 0 with rows for v0 to v11 and c1 to c6, flag 0 busy, its seats inside a clause. -/
def laneBench : Bench :=
  { placeBench with
    vrows := (List.range 12).map fun r => row r (BitVec.ofNat 64 (3 * r)), code := codeCap
    crows := [row 1 heapCap, row 2 winCap, row 3 (objCap 974 5 0x18), row 4 (objCap 970 20 0x3C1), row 5 (objCap 971 21 0x3C1),
      row 6 codeCap]
    sregs := (List.range 16).map fun r => ⟨BitVec.ofNat 64 (r + 1), none⟩
    flags := 1 :: List.replicate 11 0 }
/-- Seats 0 and 1 of that bench issue an instruction of 4 bytes. -/
def lane : State :=
  let s := placeDevice { State.reset with boot := { Boot.reset with state := .run } }
  { s with
    cores := [(0, { Core.reset with benches := [(0, laneBench)], accTask := some 1, feat := 0x3F })]
    sel := ⟨0, 0, 3, BitVec.ofNat 64 placeAddr, 4, 0, false⟩ }
/-- Seat 0 alone. -/
def lane1 : State := { lane with sel := { lane.sel with seats := 1 } }
/-- The same with another bench. -/
def withBench (f : Bench → Bench) (s : State) : State :=
  { s with cores := s.cores.map fun e => (e.1, { e.2 with benches := e.2.benches.map fun b => (b.1, f b.2) }) }
/-- Seat 0 with some of its fields replaced. -/
def withSeat (f : Seat → Seat) (b : Bench) : Bench := putSeat b 0 (f (getSeat b 0))
/-- v1 poisoned with a cause. -/
def poisonV1 (c : Nat) (b : Bench) : Bench :=
  { b with vrows := b.vrows.map fun r => if r.reg = 1 then { r with poison := 0xFFFFFFFF, cause := BitVec.ofNat 64 (c * 0x5555555555555555) } else r }

/-! ## Well-formedness: one ill-formed term for each check -/

theorem test_wf_refuses :
    [Instr.clause false .d 12 0 0, .clause false .d 0 13 0, .add .d ⟨.v 1, .reserved⟩ ⟨.v 2, .plain⟩ (.v 3),
      .add .d ⟨.v 1, .plain⟩ ⟨.s 2, .last⟩ (.v 3), .add .d ⟨.v 1, .keep⟩ ⟨.v 1, .plain⟩ (.v 3),
      .mad .d ⟨.v 1, .plain⟩ ⟨.v 3, .last⟩ (.v 3), .mad .d ⟨.v 3, .last⟩ ⟨.v 1, .plain⟩ (.v 3), .abs .d ⟨.s 1, .last⟩ (.v 1),
      .pack .b ⟨.v 1, .plain⟩ ⟨.v 2, .plain⟩ (.v 3), .unpack .b true ⟨.v 1, .plain⟩ (.v 3), .fround .sr .f32 ⟨.v 1, .plain⟩ (.v 2),
      .fcvt .f32 .reserved .f64 ⟨.v 1, .plain⟩ (.v 2), .fcvt .s32 .rne .s64 ⟨.v 1, .plain⟩ (.v 2), .frcp .f64 ⟨.v 1, .plain⟩ (.v 2),
      .nttbf ⟨.v 1, .plain⟩ (.v 3), .nttbf ⟨.v 1, .plain⟩ (.s 2), .nttbf ⟨.v 5, .last⟩ (.v 4),
      .scan .d false true 3 ⟨.v 1, .plain⟩ (.v 2), .ldpImm 0 1 (.v 3), .stpIndex ⟨.v 1, .plain⟩ 1 (.s 3), .fence .reserved .acquire,
      .fence .team .reserved, .atomRelaxed .add (.v 1) .die false 1 (.s 2), .atomRelaxed .cas (.v 1) .die false 1 (.v 3),
      .atomAcquire .add (.v 1) .reserved false 1 (.v 2), .cget 11 1 (.v 2), .mbr 1 (.s 2), .cpyT ⟨.v 2, .plain⟩ .d 1 false false 2,
      .mma .bf16 ⟨.v 2, .plain⟩ ⟨.v 3, .plain⟩ 1, .mma .e4m3 ⟨.s 2, .plain⟩ ⟨.v 4, .plain⟩ 1,
      .mmas .e4m3 ⟨.v 47, .plain⟩ ⟨.v 4, .plain⟩ 0 1, .mmod ⟨.v 1, .plain⟩ ⟨.v 2, .plain⟩ 3, .ald .reserved 1 ⟨.v 1, .plain⟩ 0,
      .ast .s32 .rtz 1 ⟨.v 1, .plain⟩ 0, .ast .f32 .reserved 1 ⟨.v 1, .plain⟩ 0, .tmma 1 ⟨.v 2, .plain⟩ 4, .tmma 1 ⟨.v 4, .plain⟩ 2,
      .send 1 ⟨.v 2, .plain⟩ 2, .recv 1 ⟨.s 4, .plain⟩ 2, .push 1 false (.s 1) 2, .bpost ⟨.v 4, .last⟩ 2, .rd 16 (.v 1),
      .srd 0x102 (.v 1), .swr 0x208 (.v 1), .rmap (.v 1) ⟨.v 1, .keep⟩ (.v 2), .hcget 11 1 2].map Instr.wf =
      List.replicate 46 false := by decide

/-! ## Decoding: words laid out from the fields of spec/opcode_table.json and R27 -/

theorem test_decode_header :
    decode32 0x29CD4981 = .ok (.clause true .w 3 9 0xA93) := by decide
theorem test_decode_half_words :
    decode16 0x9520 = .mov16 true 5 9 ∧
    decode16 0x9522 = .add16 true 5 9 ∧
    decode16 0x9524 = .sub16 true 5 9 ∧
    decode16 0x9526 = .mul16 true 5 9 ∧
    decode16 0x9528 = .and16 true 5 9 ∧
    decode16 0x952A = .or16 true 5 9 ∧
    decode16 0x952C = .xor16 true 5 9 ∧
    decode16 0x952E = .shl16 true 5 9 ∧
    decode16 0x9530 = .shr16 true 5 9 ∧
    decode16 0x9532 = .sar16 true 5 9 ∧
    decode16 0x9534 = .min16 true 5 9 ∧
    decode16 0x9536 = .max16 true 5 9 ∧
    decode16 0x9538 = .fadd16 true 5 9 ∧
    decode16 0x953A = .fsub16 true 5 9 ∧
    decode16 0x953C = .fmul16 true 5 9 ∧
    decode16 0x953E = .fma16 true 5 9 := by decide
theorem test_decode_integers :
    decode32 0x52890603 = .ok (.add .h ⟨.v 20, .last⟩ ⟨.v 8, .keep⟩ (.v 12)) ∧
    decode32 0xD2890603 = .ok (.sub .h ⟨.v 20, .last⟩ ⟨.v 8, .keep⟩ (.v 12)) ∧
    decode32 0x52890605 = .ok (.mul .h ⟨.v 20, .last⟩ ⟨.v 8, .keep⟩ (.v 12)) ∧
    decode32 0xD2890605 = .ok (.mulh .h ⟨.v 20, .last⟩ ⟨.v 8, .keep⟩ (.v 12)) ∧
    decode32 0x52890607 = .ok (.mad .h ⟨.v 20, .last⟩ ⟨.v 8, .keep⟩ (.v 12)) ∧
    decode32 0x52890609 = .ok (.min .h ⟨.v 20, .last⟩ ⟨.v 8, .keep⟩ (.v 12)) ∧
    decode32 0xD2890609 = .ok (.max .h ⟨.v 20, .last⟩ ⟨.v 8, .keep⟩ (.v 12)) ∧
    decode32 0x5289060B = .ok (.minu .h ⟨.v 20, .last⟩ ⟨.v 8, .keep⟩ (.v 12)) ∧
    decode32 0xD289060B = .ok (.maxu .h ⟨.v 20, .last⟩ ⟨.v 8, .keep⟩ (.v 12)) ∧
    decode32 0x4012840D = .ok (.abs .h ⟨.v 20, .last⟩ (.v 8)) ∧
    decode32 0xC012840D = .ok (.neg .h ⟨.v 20, .last⟩ (.v 8)) ∧
    decode32 0x5289060F = .ok (.shl .h ⟨.v 20, .last⟩ ⟨.v 8, .keep⟩ (.v 12)) ∧
    decode32 0xD289060F = .ok (.shr .h ⟨.v 20, .last⟩ ⟨.v 8, .keep⟩ (.v 12)) ∧
    decode32 0x52890611 = .ok (.sar .h ⟨.v 20, .last⟩ ⟨.v 8, .keep⟩ (.v 12)) ∧
    decode32 0xD2890611 = .ok (.rot .h ⟨.v 20, .last⟩ ⟨.v 8, .keep⟩ (.v 12)) := by decide
theorem test_decode_bit_counts_and_logic :
    decode32 0x40128413 = .ok (.clz .h ⟨.v 20, .last⟩ (.v 8)) ∧
    decode32 0xC0128413 = .ok (.ctz .h ⟨.v 20, .last⟩ (.v 8)) ∧
    decode32 0x40128415 = .ok (.popc .h ⟨.v 20, .last⟩ (.v 8)) ∧
    decode32 0xC0128415 = .ok (.brev .h ⟨.v 20, .last⟩ (.v 8)) ∧
    decode32 0x52890617 = .ok (.bfx .h ⟨.v 20, .last⟩ ⟨.v 8, .keep⟩ (.v 12)) ∧
    decode32 0xD2890617 = .ok (.bfi .h ⟨.v 20, .last⟩ ⟨.v 8, .keep⟩ (.v 12)) ∧
    decode32 0xB2910619 = .ok (.sel 5 .h (.v 20) ⟨.v 8, .last⟩ (.v 12)) ∧
    decode32 0xC052841B = .ok (.cvtI true .h false .h ⟨.v 20, .last⟩ (.v 8)) ∧
    decode32 0x1289061D = .ok (.and ⟨.v 20, .last⟩ ⟨.v 8, .keep⟩ (.v 12)) ∧
    decode32 0x3289061D = .ok (.or ⟨.v 20, .last⟩ ⟨.v 8, .keep⟩ (.v 12)) ∧
    decode32 0x5289061D = .ok (.xor ⟨.v 20, .last⟩ ⟨.v 8, .keep⟩ (.v 12)) ∧
    decode32 0x7289061D = .ok (.andn ⟨.v 20, .last⟩ ⟨.v 8, .keep⟩ (.v 12)) ∧
    decode32 0x8012841D = .ok (.not ⟨.v 20, .last⟩ (.v 8)) ∧
    decode32 0xA012841D = .ok (.mov ⟨.v 20, .last⟩ (.v 8)) ∧
    decode32 0xD289061D = .ok (.perm ⟨.v 20, .last⟩ ⟨.v 8, .keep⟩ (.v 12)) ∧
    decode32 0x5289061F = .ok (.pack .h ⟨.v 20, .last⟩ ⟨.v 8, .keep⟩ (.v 12)) ∧
    decode32 0xC032841F = .ok (.unpack .h true ⟨.v 20, .last⟩ (.v 8)) := by decide
theorem test_decode_floats :
    decode32 0x32890621 = .ok (.fadd .f32 ⟨.v 20, .last⟩ ⟨.v 8, .keep⟩ (.v 12)) ∧
    decode32 0xB2890621 = .ok (.fsub .f32 ⟨.v 20, .last⟩ ⟨.v 8, .keep⟩ (.v 12)) ∧
    decode32 0x32890623 = .ok (.fmul .f32 ⟨.v 20, .last⟩ ⟨.v 8, .keep⟩ (.v 12)) ∧
    decode32 0xB2890623 = .ok (.fma .f32 ⟨.v 20, .last⟩ ⟨.v 8, .keep⟩ (.v 12)) ∧
    decode32 0x32890625 = .ok (.fnma .f32 ⟨.v 20, .last⟩ ⟨.v 8, .keep⟩ (.v 12)) ∧
    decode32 0xB2890625 = .ok (.fscale .f32 ⟨.v 20, .last⟩ ⟨.v 8, .keep⟩ (.v 12)) ∧
    decode32 0x32890627 = .ok (.fmin .f32 ⟨.v 20, .last⟩ ⟨.v 8, .keep⟩ (.v 12)) ∧
    decode32 0xB2890627 = .ok (.fmax .f32 ⟨.v 20, .last⟩ ⟨.v 8, .keep⟩ (.v 12)) := by decide
theorem test_decode_float_unary :
    decode32 0x00328429 = .ok (.fabs .f32 ⟨.v 20, .last⟩ (.v 8)) ∧
    decode32 0x20328429 = .ok (.fneg .f32 ⟨.v 20, .last⟩ (.v 8)) ∧
    decode32 0x40328429 = .ok (.fclass .f32 ⟨.v 20, .last⟩ (.v 8)) ∧
    decode32 0x61B28429 = .ok (.fround .rdn .f32 ⟨.v 20, .last⟩ (.v 8)) ∧
    decode32 0x8332842B = .ok (.fcvt .e4m3 .rdn .f32 ⟨.v 20, .last⟩ (.v 8)) ∧
    decode32 0x0032842D = .ok (.frcp .f32 ⟨.v 20, .last⟩ (.v 8)) ∧
    decode32 0x2032842D = .ok (.frsq .f32 ⟨.v 20, .last⟩ (.v 8)) ∧
    decode32 0x4032842D = .ok (.fsqrt .f32 ⟨.v 20, .last⟩ (.v 8)) ∧
    decode32 0x6032842D = .ok (.fexp2 .f32 ⟨.v 20, .last⟩ (.v 8)) ∧
    decode32 0x8032842D = .ok (.flog2 .f32 ⟨.v 20, .last⟩ (.v 8)) ∧
    decode32 0xA032842D = .ok (.fsin .f32 ⟨.v 20, .last⟩ (.v 8)) ∧
    decode32 0xC032842D = .ok (.fcos .f32 ⟨.v 20, .last⟩ (.v 8)) ∧
    decode32 0xE032842D = .ok (.ftanh .f32 ⟨.v 20, .last⟩ (.v 8)) := by decide
theorem test_decode_modular_and_exchange :
    decode32 0x12890631 = .ok (.modadd ⟨.v 20, .last⟩ ⟨.v 8, .keep⟩ (.v 12)) ∧
    decode32 0x32890631 = .ok (.modsub ⟨.v 20, .last⟩ ⟨.v 8, .keep⟩ (.v 12)) ∧
    decode32 0x52890631 = .ok (.modmul ⟨.v 20, .last⟩ ⟨.v 8, .keep⟩ (.v 12)) ∧
    decode32 0x72890631 = .ok (.mred ⟨.v 20, .last⟩ ⟨.v 8, .keep⟩ (.v 12)) ∧
    decode32 0x80128431 = .ok (.nttbf ⟨.v 20, .last⟩ (.v 8)) ∧
    decode32 0xA0128431 = .ok (.inttbf ⟨.v 20, .last⟩ (.v 8)) ∧
    decode32 0x12890635 = .ok (.shfl ⟨.v 20, .last⟩ ⟨.v 8, .keep⟩ (.v 12)) ∧
    decode32 0x32890635 = .ok (.shflx ⟨.v 20, .last⟩ ⟨.v 8, .keep⟩ (.v 12)) ∧
    decode32 0x42728435 = .ok (.bcast 0x13 ⟨.v 20, .last⟩ (.v 8)) ∧
    decode32 0x6000AA35 = .ok (.ballot 5 (.v 20)) ∧
    decode32 0x8000A9B5 = .ok (.voteAny 5 .h 3) ∧
    decode32 0xA000A9B5 = .ok (.voteAll 5 .h 3) ∧
    decode32 0xC0128435 = .ok (.matchSeats ⟨.v 20, .last⟩ (.v 8)) ∧
    decode32 0x42B28437 = .ok (.scan .h true false 5 ⟨.v 20, .last⟩ (.v 8)) ∧
    decode32 0xC0B28437 = .ok (.red .h false 5 ⟨.v 20, .last⟩ (.v 8)) := by decide
theorem test_decode_constants_and_transfers :
    decode32 0x1874AA39 = .ok (.li 0xC3A5 (.v 20)) ∧
    decode32 0x3874AA39 = .ok (.lih1 0xC3A5 (.v 20)) ∧
    decode32 0x5874AA39 = .ok (.lih2 0xC3A5 (.v 20)) ∧
    decode32 0x7874AA39 = .ok (.lih3 0xC3A5 (.v 20)) ∧
    decode32 0x9874AA39 = .ok (.lih0 0xC3A5 (.v 20)) ∧
    decode32 0x562A843B = .ok (.addi .h 0x2C5 (.v 20) (.v 8)) ∧
    decode32 0x1874A041 = .ok (.bra 0xC3A5) ∧
    decode32 0x3874AA41 = .ok (.call 0xC3A5 (.v 20)) ∧
    decode32 0x5874A6C1 = .ok (.brP 0xC3A5 true 5) ∧
    decode32 0x0000A4C3 = .ok (.brx 5 9) ∧
    decode32 0x20128043 = .ok (.ret ⟨.v 20, .last⟩) ∧
    decode32 0x40000043 = .ok .exit ∧
    decode32 0x60000043 = .ok .yield ∧
    decode32 0x80606043 = .ok (.brk 3 3) ∧
    decode32 0xA0128043 = .ok (.pause ⟨.v 20, .last⟩) := by decide
theorem test_decode_compares :
    decode32 0xD2890AC9 = .ok (.cmp .ltu ⟨.v 20, .last⟩ ⟨.v 8, .keep⟩ .h 5) ∧
    decode32 0xD8B28ACB = .ok (.cmpi .ltu 0xC5 ⟨.v 20, .last⟩ .h 5) ∧
    decode32 0xB28906CD = .ok (.fcmp .ge ⟨.v 20, .last⟩ ⟨.v 8, .keep⟩ .f32 5) ∧
    decode32 0x00A0634F = .ok (.pand 5 3 6) ∧
    decode32 0x20A0634F = .ok (.por 5 3 6) ∧
    decode32 0x40A0634F = .ok (.pxor 5 3 6) ∧
    decode32 0x6000A1CF = .ok (.pnot 5 3) := by decide
theorem test_decode_loads_and_stores :
    decode32 0x1284A451 = .ok (.ldIndex ⟨.v 20, .last⟩ .h 5 (.v 8)) ∧
    decode32 0x1A3CAA51 = .ok (.ldImm 0x1A3 .h 5 (.v 20)) ∧
    decode32 0x3284A451 = .ok (.stIndex ⟨.v 20, .last⟩ .h 5 (.v 8)) ∧
    decode32 0x3A3CAA51 = .ok (.stImm 0x1A3 .h 5 (.v 20)) ∧
    decode32 0x5280A451 = .ok (.ldpIndex ⟨.v 20, .last⟩ 5 (.v 8)) ∧
    decode32 0x5A38AA51 = .ok (.ldpImm 0x1A3 5 (.v 20)) ∧
    decode32 0x7280A451 = .ok (.stpIndex ⟨.v 20, .last⟩ 5 (.v 8)) ∧
    decode32 0x7A38AA51 = .ok (.stpImm 0x1A3 5 (.v 20)) ∧
    decode32 0x1284A453 = .ok (.ldsIndex ⟨.v 20, .last⟩ .h 5 (.v 8)) ∧
    decode32 0x1A3CAA53 = .ok (.ldsImm 0x1A3 .h 5 (.v 20)) ∧
    decode32 0x3284A453 = .ok (.stsIndex ⟨.v 20, .last⟩ .h 5 (.v 8)) ∧
    decode32 0x3A3CAA53 = .ok (.stsImm 0x1A3 .h 5 (.v 20)) := by decide
theorem test_decode_fragments :
    decode32 0x5280A453 = .ok (.ldfRIndex ⟨.v 20, .last⟩ 5 (.v 8)) ∧
    decode32 0x5A38AA53 = .ok (.ldfRImm 0x1A3 5 (.v 20)) ∧
    decode32 0x7280A453 = .ok (.ldfCIndex ⟨.v 20, .last⟩ 5 (.v 8)) ∧
    decode32 0x7A38AA53 = .ok (.ldfCImm 0x1A3 5 (.v 20)) ∧
    decode32 0x9280A453 = .ok (.stfRIndex ⟨.v 20, .last⟩ 5 (.v 8)) ∧
    decode32 0x9A38AA53 = .ok (.stfRImm 0x1A3 5 (.v 20)) ∧
    decode32 0xB280A453 = .ok (.stfCIndex ⟨.v 20, .last⟩ 5 (.v 8)) ∧
    decode32 0xBA38AA53 = .ok (.stfCImm 0x1A3 5 (.v 20)) := by decide
theorem test_decode_capability_memory :
    decode32 0x1280A4D5 = .ok (.ldcIndex ⟨.v 20, .last⟩ 5 9) ∧
    decode32 0x1A38A4D5 = .ok (.ldcImm 0x1A3 5 9) ∧
    decode32 0x3280A4D5 = .ok (.stcIndex ⟨.v 20, .last⟩ 5 9) ∧
    decode32 0x3A38A4D5 = .ok (.stcImm 0x1A3 5 9) ∧
    decode32 0x5280A0D5 = .ok (.prefIndex ⟨.v 20, .last⟩ 5 true) ∧
    decode32 0x5A38A0D5 = .ok (.prefImm 0x1A3 5 true) ∧
    decode32 0x60100155 = .ok (.fence .die .release) := by decide
theorem test_decode_atomics :
    decode32 0x2A92A457 = .ok (.atomRelaxed .cas (.v 20) .die true 5 (.v 8)) ∧
    decode32 0x2A92A459 = .ok (.atomAcquire .cas (.v 20) .die true 5 (.v 8)) ∧
    decode32 0x2A92A45B = .ok (.atomRelease .cas (.v 20) .die true 5 (.v 8)) ∧
    decode32 0x2A92A45D = .ok (.atomAcqRel .cas (.v 20) .die true 5 (.v 8)) ∧
    decode32 0x2A8AA45F = .ok (.atoms .cas (.v 20) .acquire true 5 (.v 8)) := by decide
theorem test_decode_capabilities :
    decode32 0x128EA4E1 = .ok (.cinc ⟨.v 20, .last⟩ 7 5 9) ∧
    decode32 0x3280A4E1 = .ok (.cset ⟨.v 20, .last⟩ 5 9) ∧
    decode32 0x5280A4E1 = .ok (.cbnd ⟨.v 20, .last⟩ 5 9) ∧
    decode32 0x7280A4E1 = .ok (.cperm ⟨.v 20, .last⟩ 5 9) ∧
    decode32 0x80A12761 = .ok (.cseal 5 9 14) ∧
    decode32 0xA0A12761 = .ok (.cunseal 5 9 14) ∧
    decode32 0xC000A4E1 = .ok (.cmov 5 9) ∧
    decode32 0xE000A4E1 = .ok (.cclr 5 9) ∧
    decode32 0x00E0AA63 = .ok (.cget 7 5 (.v 20)) ∧
    decode32 0x3280A9E3 = .ok (.ctest ⟨.v 20, .last⟩ 5 .h 3) ∧
    decode32 0x40A129E3 = .ok (.ceq 5 9 .h 3) := by decide
theorem test_decode_groups_and_mailboxes :
    decode32 0x00001569 = .ok (.join 42) ∧
    decode32 0x20001569 = .ok (.leave 42) ∧
    decode32 0x40001569 = .ok (.arrive 42) ∧
    decode32 0x60001569 = .ok (.waitb 42) ∧
    decode32 0x80001569 = .ok (.bar 42) ∧
    decode32 0x00B2806B = .ok (.mbw 5 ⟨.v 20, .last⟩) ∧
    decode32 0x20A00A6B = .ok (.mbr 5 (.v 20)) ∧
    decode32 0x40A06A6B = .ok (.mbtry 5 3 (.v 20)) ∧
    decode32 0x60A0156B = .ok (.mbind 5 42) := by decide
theorem test_decode_copies :
    decode32 0x1284B4ED = .ok (.cpyT ⟨.v 20, .last⟩ .h 5 true false 9) ∧
    decode32 0x3284B4ED = .ok (.cpyG ⟨.v 20, .last⟩ .h 5 true false 9) ∧
    decode32 0x5284B4ED = .ok (.cpyS ⟨.v 20, .last⟩ .h 5 true false 9) ∧
    decode32 0x7284B4ED = .ok (.cpySc ⟨.v 20, .last⟩ .h 5 true false 9) ∧
    decode32 0x928412ED = .ok (.cpyP ⟨.v 20, .last⟩ .h true false 5) ∧
    decode32 0xA280006D = .ok (.seal (.v 20)) := by decide
theorem test_decode_matrix :
    decode32 0x528902F3 = .ok (.mma .bf16 ⟨.v 20, .last⟩ ⟨.v 8, .keep⟩ 5) ∧
    decode32 0x728912F5 = .ok (.mmas .e2m3 ⟨.v 20, .last⟩ ⟨.v 8, .keep⟩ 2 5) ∧
    decode32 0x12890677 = .ok (.mmod ⟨.v 20, .last⟩ ⟨.v 8, .keep⟩ 12) ∧
    decode32 0x200002F7 = .ok (.aclr 5) ∧
    decode32 0x54B284F7 = .ok (.ald .e5m2 5 ⟨.v 20, .last⟩ 9) ∧
    decode32 0x76B284F7 = .ok (.ast .e5m2 .sr 5 ⟨.v 20, .last⟩ 9) ∧
    decode32 0x80AA8677 = .ok (.tmma 5 ⟨.v 20, .keep⟩ 12) := by decide
theorem test_decode_endpoints :
    decode32 0x00B284F9 = .ok (.send 5 ⟨.v 20, .last⟩ 9) ∧
    decode32 0x20B284F9 = .ok (.recv 5 ⟨.v 20, .last⟩ 9) ∧
    decode32 0x40B284F9 = .ok (.xcall 5 ⟨.v 20, .last⟩ 9) ∧
    decode32 0x60B28079 = .ok (.reply 5 ⟨.v 20, .last⟩) ∧
    decode32 0x801282F9 = .ok (.notify ⟨.v 20, .last⟩ 5) ∧
    decode32 0xA0B284F9 = .ok (.poll 5 ⟨.v 20, .last⟩ 9) ∧
    decode32 0xC0B284F9 = .ok (.sysc 5 ⟨.v 20, .last⟩ 9) := by decide
theorem test_decode_fabric :
    decode32 0x00AA84FB = .ok (.push 5 true (.v 20) 9) ∧
    decode32 0x201282FB = .ok (.sret ⟨.v 20, .last⟩ 5) ∧
    decode32 0x400002FB = .ok (.mark 5) ∧
    decode32 0x600A82FB = .ok (.bpost ⟨.v 20, .keep⟩ 5) ∧
    decode32 0x800A82FB = .ok (.bwait ⟨.v 20, .keep⟩ 5) ∧
    decode32 0xA01282FB = .ok (.emit ⟨.v 20, .last⟩ 5) ∧
    decode32 0xC000007B = .ok .ckpt := by decide
theorem test_decode_system :
    decode32 0x00016A7D = .ok (.rd 0xB (.v 20)) ∧
    decode32 0x20220A7D = .ok (.srd 0x110 (.v 20)) ∧
    decode32 0x40202A7D = .ok (.swr 0x101 (.v 20)) ∧
    decode32 0x654BA07D = .ok (.trap 0x2A5D) ∧
    decode32 0x8000007D = .ok .tret ∧
    decode32 0xA00142FD = .ok (.bsave 5 5) ∧
    decode32 0xA00162FD = .ok (.brest 5 5) ∧
    decode32 0xC291067D = .ok (.rmap (.v 20) ⟨.v 8, .last⟩ (.v 12)) ∧
    decode32 0xE000007D = .ok .haltPark ∧
    decode32 0xE000207D = .ok .haltFail ∧
    decode32 0xE000407D = .ok .haltRequeue := by decide
theorem test_decode_host :
    decodeHost 0xA93A848B = .ok (.hcld 0xA93 21 9) ∧
    decodeHost 0xA85A998B = .ok (.hcst 0xA93 5 21) ∧
    decodeHost 0x0072AA8B = .ok (.hcget 7 5 21) ∧
    decodeHost 0x0154B70B = .ok (.hcinc 21 9 14) ∧
    decodeHost 0x0354B70B = .ok (.hcset 21 9 14) ∧
    decodeHost 0x0554B70B = .ok (.hcbnd 21 9 14) ∧
    decodeHost 0x0754B70B = .ok (.hcperm 21 9 14) ∧
    decodeHost 0x0802B48B = .ok (.hcmov 5 9) ∧
    decodeHost 0x0A02B48B = .ok (.hcclr 5 9) ∧
    decodeHost 0x0C54B70B = .ok (.hcseal 5 9 14) ∧
    decodeHost 0x0E54B70B = .ok (.hcunseal 5 9 14) ∧
    decodeHost 0x0054C00B = .ok (.hcsend 5 9) ∧
    decodeHost 0x0254C00B = .ok (.hcrecv 5 9) ∧
    decodeHost 0x0454C00B = .ok (.hcxcall 5 9) ∧
    decodeHost 0x0654C00B = .ok (.hcreply 5 9) ∧
    decodeHost 0x0954C00B = .ok (.hcnotify 21 9) ∧
    decodeHost 0x0A54C00B = .ok (.hcpoll 5 9) := by decide

theorem test_decode_manual_words :
    decode32 0x0F880101 = .ok (.clause false .w 15 1 2) ∧ decode32 0x30E0C283 = .ok (.add .w ⟨.v 7, .last⟩ ⟨.v 6, .plain⟩ (.v 5)) ∧
    decode32 0x0000000B = .ok (.minu .d ⟨.v 0, .plain⟩ ⟨.v 0, .plain⟩ (.v 0)) ∧
    decode32 0x202201FD = .ok (.srd 0x0110 (.v 3)) ∧ decode32 0x40201A7D = .ok (.swr 0x0100 (.s 4)) ∧
    decode32 0x40A103F9 = .ok (.xcall 5 ⟨.v 8, .plain⟩ 7) ∧ decode32 0x0061437B = .ok (.push 3 false (.v 10) 6) := by decide
theorem test_decode_refuses :
    decode32 0x80000007 = .error .unassigned ∧ decode32 0x0000002F = .error .unassigned ∧
    decode32 0x0000107D = .ok (.rd 0 (.v 32)) ∧ decode32 0x6000007F = .error .unassigned ∧
    decode32 0xC0000001 = .error .header ∧ decode32 0x06000001 = .error .header ∧ decode32 0x18000003 = .error .field ∧
    decodeHost 0x0000000F = .error .unassigned ∧ decodeHost 0x0000080B = .error .field := by decide
theorem test_decode_bytes :
    decodeBytes [0x18, 0x25, 0xFF] = some (.ok (.fadd16 false 9 8), 2, [0xFF]) ∧
    decodeBytes [0xFD, 0x01, 0x22, 0x20] = some (.ok (.srd 0x0110 (.v 3)), 4, []) ∧ decodeBytes [0xFD, 0x01, 0x22] = none := by
  decide
theorem test_table_word_host_first : decodeTableWord 32 0x0105010B = some (.hcld 16 10 2) := by decide

/-! ## Single steps -/

/-- What holds after an outcome. -/
def after {α : Type} (o : Host.Outcome State Fault Refusal) (f : State → α) : Option α :=
  match o with
  | .next t => some (f t)
  | _ => none
/-- v3 of seat 0. -/
def v3 (t : State) : Word := readD (cur t) (.v 3) 0

/-- R54, R69: sub-elements wrap by themselves; v1 = 3, v2 = 6. -/
theorem test_sub_wraps : after (exec (.sub .w ⟨.v 2, .plain⟩ ⟨.v 1, .plain⟩ (.v 3)) lane) v3 = some 0x00000000FFFFFFFD := by decide +kernel
theorem test_addi_negative : after (exec (.addi .d 0x3FF (.v 1) (.v 3)) lane) v3 = some 2 := by decide +kernel
/-- R71: from 6 = 0b110, pos 3, length 0. -/
theorem test_bfx_length_zero : after (exec (.bfx .d ⟨.v 1, .plain⟩ ⟨.v 2, .plain⟩ (.v 3)) lane) v3 = some 0 := by decide +kernel
/-- R81: 1.0 + 2^-53 rounds to even in fp64; s-registers hold the operands. -/
theorem test_fadd_ties_to_even :
    after (exec (.fadd .f64 ⟨.s 1, .plain⟩ ⟨.s 0, .plain⟩ (.v 3)) (withBench (fun b =>
      { b with sregs := [⟨0x3FF0000000000000, none⟩, ⟨0x3CA0000000000000, none⟩] }) lane)) v3 = some 0x3FF0000000000000 := by
  decide +kernel
/-- R66: 1 + 2^-10 to bfloat16 under rne is 0x3F80. -/
theorem test_fcvt_bf16 :
    after (exec (.fcvt .bf16 .rne .f32 ⟨.s 0, .plain⟩ (.v 3)) (withBench (fun b =>
      { b with sregs := [⟨0x3F802000, none⟩] }) lane)) v3 = some 0x3F80 := by decide +kernel
/-- R7: an s destination takes the value of the lowest issued seat. -/
theorem test_s_destination :
    after (exec (.li 0xFFFF (.s 5)) lane) (fun t => readD (cur t) (.s 5) 9) = some 0xFFFFFFFFFFFFFFFF := by decide +kernel
/-- R137: a last read frees the register for the issued seats alone. -/
theorem test_last_read :
    after (exec (.mov ⟨.v 2, .last⟩ (.v 3)) lane) (fun t => (readD (cur t) (.v 2) 0, readD (cur t) (.v 2) 5, v3 t)) =
      some (0, 6, 6) := by decide +kernel
/-- R139, R140: poison of cause 0 is code 0x42; nothing retires. -/
theorem test_poison_faults :
    after (exec (.add .d ⟨.v 1, .plain⟩ ⟨.v 2, .plain⟩ (.v 3)) (withBench (poisonV1 0) lane)) (fun t =>
      ((getCore t 0).faultQ.map fun q => (q.code, q.sub, q.mask), v3 t)) = some ([(0x42, 1, 3)], 9) := by decide +kernel
/-- R220: the heap path adds HOFF, here 0; the store stands in the hold until it is published. -/
theorem test_store_is_held :
    after (exec (.stImm 0 .w 1 (.v 4)) lane1) (fun t =>
      ((findTask t 1).map fun x => holdByte (taskCore x 0).hold 0x10001000, memByte t.mem 0x10001000)) = some (some (some 12), 0) := by
  decide +kernel
/-- R102, R345: one byte below the base of the capability is CAP_BOUNDS, OUT_OF_BOUNDS. -/
theorem test_load_below_base :
    after (exec (.ldImm (-1) .b 1 (.v 3)) lane1) (fun t => (getCore t 0).faultQ.map fun q => (q.code, q.sub, q.addr)) =
      some [(0x11, 1, 0x10000FFF)] := by decide +kernel
/-- R336: the trap's code in AUX, the resume point past it. -/
theorem test_trap :
    after (exec (.trap 0x2A) lane) (fun t => (getCore t 0).faultQ.map fun q => (q.code, q.sub, q.aux, q.resume, q.past)) =
      some [(0x60, 2, 0x2A, 0x10000004, true)] := by decide +kernel
/-- R18, R29: a step fetches the word at the PC, decodes it and runs it; `li v3, 5`. -/
theorem test_step :
    after (step (State.reset.withFetchWord 32 0x0000A1B9)) (fun t => (readD (getBench t 0 0) (.v 3) 0, (getSeat (getBench t 0 0) 0).pc)) =
      some (5, 0x10000004) := by decide +kernel
/-- R356: the same for a hart; `hcget x5, hc1, 4` of a null capability. -/
theorem test_step_hart :
    after (step (State.reset.withFetchWord 32 0x0040A28B)) (fun t => ((getHart t 0).pc, getX (getHart t 0) 5)) =
      some (0x10000004, 0) := by decide +kernel

/-! ## Witnesses: a state and operands that meet the hypotheses of each statement -/

theorem witness_shaped : Shaped (cur lane) ∧ Shaped (cur lane1) := by unfold Shaped; decide +kernel
/-- IntegerArithmetic, Shifts, BitCounts, BitFields, Logic, WidthConversions, EveryFloatInstruction, SpecialFunctions, Scans. -/
theorem witness_lane_operands : OperandsClear lane [.v 1, .v 2, .v 3] [] [.v 3] [] ∧ OperandsClear lane [.s 1] [] [.s 2] [] := by
  unfold OperandsClear; decide +kernel
/-- The row budget is just spent, and D has a row; or one row is left for it. -/
theorem witness_row_budget :
    OperandsClear (withBench (fun b => { b with rowBudget := 12 }) lane) [.v 1] [] [.v 3] [] ∧
    OperandsClear (withBench (fun b => { b with rowBudget := 13 }) lane) [.v 1] [] [.v 20] [] ∧
    ¬ OperandsClear (withBench (fun b => { b with rowBudget := 12 }) lane) [.v 1] [] [.v 20] [] := by
  unfold OperandsClear; decide +kernel
/-- MovesAndSelections: a poisoned source passes on. -/
theorem witness_moves : OperandsClear (withBench (poisonV1 1) lane) [] [] [.v 3] [] ∧
    poisonD (cur (withBench (poisonV1 1) lane)) (.v 1) 0 = some 1 := by unfold OperandsClear; decide +kernel
/-- Comparisons. -/
theorem witness_comparisons : OperandsClear lane [.v 1, .v 2] [] [] [] := by unfold OperandsClear; decide +kernel
/-- SumsAndProducts. -/
theorem witness_sums : ratOf (.fin false 3 (-1)) = ((((3 : ℚ) / 2 : ℚ) : WithTop ℚ) : WithBot (WithTop ℚ)) := by
  norm_num [ratOf]
/-- SpecialFunctions: a signalling NaN. -/
theorem witness_nan : fdecode fmt32 0x7F800001 = .nan := by decide
/-- Modular, Montgomery: q = 3. -/
theorem witness_modular : (declaredMask lane).getLsbD 1 = true ∧
    OperandsClear lane [.v 1, .v 4, .v 5, sReg 12, sReg 13] [] [.v 4, .v 5] [] ∧ OperandsClear lane [.v 1, .v 2, sReg 12, sReg 13] [] [.v 3] [] ∧
    3 % 2 = 1 ∧ 3 * 0x5555555555555555 % 2 ^ 64 = 2 ^ 64 - 1 := by unfold OperandsClear; decide +kernel
/-- HalfWordForms: D equal to A, and the 16-bit `fma`. -/
theorem witness_half_words : OperandsClear lane [lowV 3, lowV 3] [] [lowV 3] [] ∧
    OperandsClear lane [lowV 3, sReg 15, lowV 3] [] [lowV 3] [] := by unfold OperandsClear; decide +kernel
/-- Exchanges. -/
theorem witness_exchanges : OperandsClear lane [.v 2] [] [.v 3] [] ∧ (∀ t, t < 32 → poisonD (cur lane) (.v 1) t = none) := by
  unfold OperandsClear; decide +kernel
/-- AnOperandFault: seat 1 faults, and is the lowest of the faulting seats. -/
theorem witness_operand_fault : lane.sel.slot ≠ 64 ∧ 1 ∈ issued lane ∧
    (∀ j ∈ issued lane, j < 1 → (fun k => if k = 1 then some (⟨0x42, 1, 0, 1, false, false⟩ : OpFault) else none) j = none) := by
  decide +kernel
/-- PoisonThenRows: poison in the second of two registers read, causes 0, 1 and 2; rows for v and c registers. -/
theorem witness_poison :
    (usesOf (.add .d ⟨.v 1, .plain⟩ ⟨.v 2, .plain⟩ (.v 3))).reads = [.v 2] ++ .v 1 :: [] ∧
    (∀ c ∈ [0, 1, 2], poisonD (cur (withBench (poisonV1 c) lane)) (.v 1) 0 = some c) ∧
    poisonD (cur (withBench (poisonV1 0) lane)) (.v 2) 0 = none ∧
    (usesOf (.add .d ⟨.v 1, .plain⟩ ⟨.v 2, .plain⟩ (.v 3))).writes = [.v 3] ∧
    (usesOf (.cmov 1 2)).writes = [] ∧ (usesOf (.cmov 1 2)).cwrites = [2] := by decide +kernel
/-- RegistersWithoutARow. -/
theorem witness_no_row : (∀ x ∈ laneBench.vrows, x.reg ≠ 20) ∧ (∀ x ∈ laneBench.crows, x.reg ≠ 9) := by decide
/-- AHeader: flag 0 is busy, flag 1 is not; WAIT names the one or the other. -/
theorem witness_header :
    (∃ k, k < 12 ∧ (1 : BitVec 12).getLsbD k = true ∧ flagOf (cur lane) k ≠ 0) ∧
    (∀ k, k < 12 → (0x802 : BitVec 12).getLsbD k = true → flagOf (cur lane) k = 0) := by decide +kernel
/-- Transfers: `ret` to an even address. -/
theorem witness_transfers : OperandsClear lane [] [] [.v 3] [] ∧ OperandsClear lane [.v 2] [] [] [] ∧
    (∀ k ∈ issued lane, (srcV lane ⟨.v 2, .plain⟩ k).toNat % 2 = 0) := by unfold OperandsClear; decide +kernel
/-- Another code capability on the bench, and every seat issued. -/
def brxOther : State := withBench (fun b => { b with code := heapCap }) lane
def brxAll : State := { brxOther with sel := { brxOther.sel with seats := 0xFFFFFFFF } }
def brxGood (s : State) : Bool :=
  (issued s).all fun k =>
    let c := readC (cur s) 6 k
    c.tag && capE c < 48 && capSeal c == 0 && hasPerm c .ex && !benchQuarantine s c && (capCursor c).toNat % 2 == 0
/-- Brx: within the code capability; to another one with every seat issued; and with seats left behind. -/
theorem witness_brx :
    OperandsClear lane [] [6] [] [2] ∧ OperandsClear brxAll [] [6] [] [2] ∧ OperandsClear brxOther [] [6] [] [2] ∧
    brxGood lane = true ∧ (∀ k ∈ issued lane, sameButCursor (readC (cur lane) 6 k) (cur lane).code = true) ∧
    brxGood brxAll = true ∧ (∀ k, k < 32 → (getSeat (cur brxAll) k).state = .exited ∨ k ∈ issued brxAll) ∧
    (∀ k ∈ issued brxAll, sameButCursor (readC (cur brxAll) 6 k) (readC (cur brxAll) 6 ((issued brxAll).headD 0)) = true) ∧
    brxGood brxOther = true ∧ (∃ k ∈ issued brxOther, sameButCursor (readC (cur brxOther) 6 k) (cur brxOther).code = false) ∧
    (∃ k, k < 32 ∧ (getSeat (cur brxOther) k).state ≠ .exited ∧ k ∉ issued brxOther) := by
  unfold OperandsClear
  and_intros <;> decide +kernel
/-- ThreadsEnd: `pause` for a time to come and for one that has passed. -/
theorem witness_threads : lane.sel.slot ≠ 64 ∧ issued lane ≠ [] ∧ OperandsClear lane [.v 2] [] [] [] ∧
    lane.bell.toNat < (srcV lane ⟨.v 2, .plain⟩ 0).toNat ∧ (srcV lane ⟨.v 0, .plain⟩ 0).toNat ≤ lane.bell.toNat := by
  unfold OperandsClear; decide +kernel

/-- What the checks of a pass give. -/
def given (r : Except (List (Nat × OpFault)) (List (Nat × Place) × State)) (f : List (Nat × Place) → State → Bool) : Bool :=
  match r with
  | .ok (ps, u) => f ps u
  | .error _ => false
/-- The checks of a memory form, with what may be reached and how. -/
def formChecks (s : State) (i : Instr) (m : Option MemForm) (need : List Perm) (acc : Access) (f : List (Nat × Place) → State → Bool) :
    Bool :=
  match m with
  | some m => given (accessChecks s i m.c m.addr (m.ask need acc) (fun _ _ => none)) f
  | none => false
/-- The heap's region in quarantine, and a capability of another package's memory. -/
def laneQuarantine : State := { lane with quarantine := [⟨1, 4, 0x10001000, 0x1000, true, false, [], 0, none, none⟩] }
/-- TheFirstFailingCheck: a capability for each clause before the bounds, and a heap capability with its ends. -/
theorem witness_first_check :
    (cclrC heapCap).tag = false ∧ 48 ≤ capE ⟨(0x3F : BitVec 128) <<< 38, true⟩ ∧ capE (objCap 970 1 0x3C1) < 48 ∧
    capSeal (objCap 970 1 0x3C1) ≠ 0 ∧ hasPerm codeCap .st = false ∧ benchQuarantine lane heapCap = false ∧
    benchQuarantine laneQuarantine heapCap = true ∧ hasPerm heapCap .remote = false ∧ hasPerm heapCap .ld = true ∧
    capE heapCap < 48 ∧ capSeal heapCap = 0 ∧ capBase heapCap = 0x10001000 ∧ capTop heapCap = 0x10002000 ∧
    ¬(0x10001FFD : Int) + 4 ≤ capTop heapCap ∧ (0x10001FFC : Int) + 4 ≤ capTop heapCap ∧ 0x10001FFD % 4 ≠ 0 := by
  and_intros <;> decide +kernel
/-- The same, inside: a capability that spans the end of the window, at addresses on both sides, and both ends of the window. -/
def spanCap : Cap := boundedCap 0 0x3C0 0 0 0x20000000 true
theorem witness_first_check_places :
    capBase spanCap ≤ ((windowEnd - 4 : Nat) : Int) ∧ ((windowEnd : Nat) : Int) + 4 ≤ capTop spanCap ∧
    (∀ i, i < 4 → winByteFault lane (curTask lane) (curCoreT lane) (0 + i) = none) ∧
    windowEnd % 4 = 0 ∧ spanCap.tag = true ∧ capE spanCap < 48 ∧ capSeal spanCap = 0 := by and_intros <;> decide +kernel
/-- The same, in memory: an address that is mapped and one that is not. -/
theorem witness_first_check_translation :
    (match translateRange lane lane.sel.core (benchSpace lane) (benchLimit lane) .load 0x10001000 4 with
      | .ok _ => true
      | .error _ => false) = true ∧
    (match translateRange lane lane.sel.core (benchSpace lane) (benchLimit lane) .load 0x7000000000 4 with
      | .ok _ => false
      | .error _ => true) = true := by and_intros <;> decide +kernel
/-- TheHeapPath: the last byte below the limit, and the first above it. -/
def heapSpace : ASpace := { benchSpace lane with hbase := 0x20000000, hspan := 0x10000, hoff := 0x1000 }
theorem witness_heap_path :
    windowEnd ≤ 0x20000FFF ∧ 0x20000FFF + 1 ≤ carveBase ∧ heapSpace.hspan ≠ 0 ∧ heapSpace.hbase.toNat ≤ 0x20000FFF ∧
    0x20001000 + 1 ≤ heapSpace.hbase.toNat + heapSpace.hspan.toNat ∧ 0x20001000 + heapSpace.hoff.toNat + 1 ≤ 2 ^ 64 ∧
    0x20000FFF + 1 ≤ heapSpace.hbase.toNat + (0x1000 : Word).toNat ∧
    heapSpace.hbase.toNat + (0x1000 : Word).toNat < 0x20001000 + 1 := by and_intros <;> decide +kernel
/-- LoadsPut: a load from the heap, of one from the window, and an `ldc`. -/
theorem witness_loads :
    Shaped (cur lane) ∧ issued lane ≠ [] ∧
    (∀ i ∈ [Instr.ldImm 2 .d 1 (.v 3), .ldsImm 3 .w 2 (.v 3), .ldcImm 1 1 2],
      (formChecks lane i ((loadForm lane i).map (·.1)) [.ld] .load fun ps _ => ps.length == 2 && ps.all fun p =>
        match p.2 with
        | .mem _ _ => true
        | .win _ => true
        | _ => false) = true) := by unfold Shaped; and_intros <;> decide +kernel
/-- A flight of seat 0 of the bench, with flag 0. -/
def flightOf (ds : List DReg) (k : FlightKind) : Flight := ⟨0, 0, 0, 0, 1, some 0, 1, ds, [], [], [], k, 0, []⟩
def withFlight (f : Flight) (s : State) : State := { s with flights := [f], nextId := 1 }
/-- LoadCompletion: a load of v3 and one of s2, in flight. -/
def loadFlight (d : DReg) : Flight := flightOf [d] (.load [(d, [(0, 7, none)])] [] false)
def laneLive : State := withBench (fun b => { b with vrows := b.vrows.map fun r => { r with live := 0xFFFFFFFF } }) lane
def laneLoad (d : DReg) : State := withFlight (loadFlight d) laneLive
/-- A load of v3 whose read from the window may still be performed. -/
def lateLoad : Flight := { loadFlight (.v 3) with late := [⟨0, 0x10, [], 8, false, []⟩] }
theorem witness_late_load :
    inFlight (withFlight lateLoad laneLive) lateLoad ∧ lateLoad.late = [⟨0, 0x10, [], 8, false, []⟩] ∧ (0 : Nat) ∈ seatsOf lateLoad.seats := by
  unfold inFlight Shaped; and_intros <;> decide +kernel
theorem witness_load_completion :
    inFlight (laneLoad (.v 3)) (loadFlight (.v 3)) ∧ inFlight (laneLoad (.s 2)) (loadFlight (.s 2)) ∧
    (∃ x ∈ (flightBench (laneLoad (.v 3)) (loadFlight (.v 3))).vrows, x.reg = (DReg.v 3).code ∧ x.live.getLsbD 0 = true) := by
  unfold inFlight Shaped; and_intros <;> decide +kernel
/-- StoresPut: two stores to the heap, one to the window. -/
theorem witness_stores :
    onItsCore lane ∧ Shaped (cur lane) ∧ (∀ c ∈ lane.cores, c.2.spad.wf = true) ∧
    (∀ i ∈ [Instr.stImm 2 .d 1 (.v 3), .stsImm 3 .w 2 (.v 3), .stImm 0 .b 1 (.v 3)],
      (formChecks lane i ((dataStore lane i).map (·.1)) [.st] .store fun ps _ => ps.length == 2 && ps.all fun p =>
        match p.2 with
        | .mem _ _ => true
        | .win _ => true
        | _ => false) = true) := by unfold onItsCore Shaped; and_intros <;> decide +kernel
/-- Stc: seat 0 stores c2 to the first granule of the heap. -/
theorem witness_stc :
    issued lane1 = [0] ∧ onMonitor lane1 = false ∧ (lane1.tasks.all fun t => t.cores.all fun c => c.hold.isEmpty) = true ∧
    (match capStore lane1 (.stcImm 1 1 1) with
      | some (m, cd) => given (accessChecks lane1 (.stcImm 1 1 1) m.c m.addr (m.ask [.st] .store) (stcExtra lane1 m.c cd m.addr))
          fun ps u => ps.length == 1 && !onMonitor u && ps.all fun p =>
            match p.2 with
            | .mem _ _ => true
            | _ => false
      | none => false) = true := by and_intros <;> decide +kernel
/-- AThreadSees, StoresToMemory: an address below the management space; the empty memory has its canonical form. -/
theorem witness_memory : isMgmt 0x1000 = false ∧ State.reset.mem.wf = true := by decide +kernel
/-- PrefetchChanges, AFence: a register without poison; no access in flight, and a load in flight. -/
theorem witness_fence : OperandsClear lane [.v 1] [] [] [] ∧ Shaped (cur lane) ∧ lane.flights = [] ∧
    (loadFlight (.v 3)).seats.getLsbD 0 = true := by unfold OperandsClear Shaped; and_intros <;> decide +kernel
/-- Atom, Atoms: seat 0 at an aligned address of the heap and of the window. -/
theorem witness_atomics :
    issued lane1 = [0] ∧
    given (accessChecks lane1 (.atomRelaxed .add (.v 0) .die false 1 (.v 3)) 1 (exactAddr lane1 1 (byReg lane1 (plainSrc (.v 0))))
      ⟨[.ld, .st], 8, .glob, 8, 4, .rmw⟩ (fun _ _ => none)) (fun ps u => (ps.map (·.1) == [0]) && !onMonitor u && ps.all fun q =>
        match q.2 with
        | .mem a pas => pas == (List.range 8).map (a + ·)
        | _ => false) = true ∧
    given (accessChecks lane1 (.atoms .cas (.v 4) .release true 2 (.v 2)) 2 (exactAddr lane1 2 (byReg lane1 (plainSrc (.v 4))))
      ⟨[.ld, .st], 4, .window, 4, 4, .rmw⟩ (fun _ _ => none)) (fun ps u => ps.all fun q =>
        match q.2 with
        | .win a => a == 0x10C && !winHeld u 0 a 4
        | _ => false) = true := by and_intros <;> decide +kernel
/-- Derivations, Sealing, NoDerivation, Inspected. -/
theorem witness_capabilities :
    OperandsClear lane [.v 1] [1] [] [2] ∧ OperandsClear lane [] [1, 3] [] [2] ∧ OperandsClear lane [] [1] [.v 3] [] ∧
    OperandsClear lane [.v 1] [1] [] [] ∧ OperandsClear lane [] [1, 2] [] [] := by
  unfold OperandsClear; and_intros <;> decide +kernel
/-! ### Witnesses for groups, mailboxes, copies and the matrix unit -/

/-- The task of the bench with some of its fields replaced. -/
def withTask (f : Task → Task) (s : State) : State := { s with tasks := s.tasks.map f }
/-- A task whose group 0 and group 63 have members and arrivals, and whose mailbox is given. -/
def th (k : Nat) : Thread := ⟨0, 0, k⟩
def inGroup (x : Group) : State := withTask (fun t => { t with groups := [(0, x), (63, x)] }) lane1
def mailed (x : Mailbox) (s : State) : State :=
  withTask (fun t => { t with cores := t.cores.map fun c => { c with mail := x :: c.mail.drop 1 } }) s
/-- Groups: seat 0 outside, a member, marked, and the last to arrive, with accesses done and not done; seat 1 waits. -/
theorem witness_groups :
    (findTask lane1 (cur lane1).task).isSome ∧ Shaped (cur lane1) ∧ issued lane1 = [0] ∧ (getSeat (cur lane1) 0).state = .eligible ∧
    (∀ x ∈ [Group.empty, ⟨[th 0], [], [], 0, 0, 0⟩, ⟨[th 0], [th 0], [], 0, 0, 0⟩, ⟨[th 0, th 1], [th 1], [th 1], 0, 0, 0⟩,
      ⟨[th 0, th 1], [], [], 0, 0, 0⟩], ∀ u ∈ x.applied, u ∈ x.marked) ∧
    getGroup (curTask (inGroup ⟨[th 0], [], [], 0, 0, 0⟩)) 63 = ⟨[th 0], [], [], 0, 0, 0⟩ ∧ threadOf lane1 0 = th 0 ∧
    accessesDone lane1 0 0 0 = true ∧ accessesDone (laneLoad (.v 3)) 0 0 0 = false ∧
    (getSeat (cur (withBench (fun b => putSeat b 1 { getSeat b 1 with state := .blocked (.phase 63) }) lane1)) 1).state = .blocked (.phase 63) := by
  unfold Shaped; and_intros <;> decide +kernel
/-- Mailboxes: empty, full, with a reader, with a writer and abandoned. -/
def readerWaits (w : Wait) : State := withBench (fun b => putSeat b 1 { getSeat b 1 with state := .blocked w }) lane1
theorem witness_mailboxes :
    curCoreT lane1 < (curTask lane1).cores.length ∧ (taskCore (curTask lane1) 0).mail.length = 8 ∧ (getSeat (cur lane1) 0).wake = none ∧
    OperandsClear lane1 [.v 1] [] [] [] ∧ OperandsClear lane1 [] [] [.v 3] [] ∧ queueSlot lane1 0 = 0 ∧
    (∀ y ∈ [⟨0, false, false, 0, false, false, [], []⟩, ⟨7, true, false, 0, false, false, [], []⟩, ⟨0, false, true, 0, true, true, [], []⟩,
      ⟨0, false, false, 0, false, false, [(0, 1)], []⟩, (⟨7, true, false, 0, false, false, [], [(0, 1)]⟩ : Mailbox)],
      getMail (curTask (mailed y lane1)) 0 0 = y) ∧ (DReg.v 3).isV = true ∧
    (∀ w ∈ [Wait.mbr 0 (.v 3) 9, .mbw 0 5 9], Shaped (getBench (readerWaits w) 0 0) ∧ (getSeat (getBench (readerWaits w) 0 0) 1).state = .blocked w) := by
  unfold OperandsClear Shaped; and_intros <;> decide +kernel
/-- Copies: a box of two elements from the heap to the window, one without extent, and one that registers with group 63. -/
def copyRegs (w0 : Word) : State :=
  withBench (fun b => { b with vrows := b.vrows.map fun r =>
    if r.reg = 4 then { r with elems := List.replicate 32 w0 } else if r.reg = 7 then { r with elems := List.replicate 32 0 } else r }) lane
theorem witness_copies :
    OperandsClear lane [.v 4, .v 5, .v 6, .v 7] [1, 2] [] [] ∧
    (copyFault (copyRegs 0x10002) (issuedCopy (copyRegs 0x10002) 0 0 ⟨.v 4, .plain⟩ .d 1 false 2)).isNone = true ∧
    (copyFault (copyRegs 0) (issuedCopy (copyRegs 0) 0 0 ⟨.v 4, .plain⟩ .d 1 false 2)).isNone = true ∧
    (copyFault (copyRegs 0x3F00010002) (issuedCopy (copyRegs 0x3F00010002) 0 0 ⟨.v 4, .plain⟩ .d 1 true 2)).isNone = true ∧
    bits (0x10002 : Word) 15 0 ≠ 0 ∧ bits (0x10002 : Word) 31 16 ≠ 0 ∧ bits (0 : Word) 15 0 = 0 ∧ bits (0x3F00010002 : Word) 37 32 = 63 ∧
    0 < bits (0x1000100000000 : Word) 47 32 ∧ 0 < bits (0x1000100000000 : Word) 63 48 ∧ OperandsClear lane [] [] [.v 3] [] := by
  unfold OperandsClear; and_intros <;> decide +kernel
/-- Products: no operand faults, the tiles are the task's, the features stand; tile 14 is even. -/
theorem witness_products :
    (getCore lane 0).accTask = some (cur lane).task ∧ (declaredMask lane).getLsbD 1 = true ∧ (declaredMask lane).getLsbD 2 = true ∧
    (∀ f ∈ [MmaFmt.e4m3, .e5m2, .bf16, .f16, .b], OperandsClear lane (usesOf (.mma f ⟨.v 2, .plain⟩ ⟨.v 4, .plain⟩ 15)).reads [] [] []) ∧
    OperandsClear lane ((DReg.v 2) :: pair (.v 4)) [] [] [] ∧ OperandsClear lane [.v 2, .v 4, .s 12, .s 13] [] [] [] := by
  unfold OperandsClear; and_intros <;> decide +kernel
/-- TilesMove: a row of the window for `ald` and for `ast`, whose bytes stand at different places. -/
theorem witness_tiles :
    (∀ i ∈ [Instr.ald .raw 2 ⟨.v 8, .plain⟩ 1, .ald .f32 2 ⟨.v 8, .plain⟩ 1, .ald .e5m2 2 ⟨.v 8, .plain⟩ 1],
      given (accessChecks lane1 i 2 (exactAddr lane1 2 (byReg lane1 ⟨.v 8, .plain⟩)) ⟨[.ld], 256, .window, 8, 3, .load⟩ (fun _ _ => none))
        (fun ps u => ps.all fun p => p.1 == 0 && match p.2 with
          | .win a => a == 0x118 && !winHeld u 0 a 256
          | _ => false) = true) ∧
    given (accessChecks lane1 (.ast .raw .rne 2 ⟨.v 8, .plain⟩ 1) 2 (exactAddr lane1 2 (byReg lane1 ⟨.v 8, .plain⟩))
      ⟨[.st], 256, .window, 8, 3, .store⟩ (fun _ _ => none)) (fun ps u => ps.all fun p => p.1 == 0 && match p.2 with
        | .win a => a == 0x118 && !winHeld u 0 a 256 && decide ((List.range 256).map fun y => winPlace (curTask u) (curCoreT u) (a + y)).Nodup &&
            (taskCore (curTask u) (curCoreT u)).map.all fun e => e.2 % 16 == 0
        | _ => false) = true ∧
    (lane1.cores.all fun c => c.2.spad.wf) = true := by and_intros <;> decide +kernel
/-- Tmma: a command that passes its checks, of a tile of 32 rows in the window. -/
def tmmaRegs : State :=
  withBench (fun b => { b with vrows := b.vrows.map fun r =>
    if r.reg = 4 ∨ r.reg = 5 ∨ r.reg = 7 then { r with elems := List.replicate 32 0 }
    else if r.reg = 6 then { r with elems := List.replicate 32 8 } else r }) lane
theorem witness_tmma :
    Shaped (cur tmmaRegs) ∧ (issued tmmaRegs).head? = some 0 ∧ (getCore tmmaRegs 0).accTask = some (cur tmmaRegs).task ∧
    (declaredMask tmmaRegs).getLsbD 5 = true ∧ (∀ j, j < 4 → poisonD (cur tmmaRegs) ((DReg.v 4).plus j) 0 = none) ∧
    poisonC (cur tmmaRegs) 2 0 = none ∧
    (tmmaFault tmmaRegs (tmmaCmdOf tmmaRegs 2 ⟨.v 4, .plain⟩ 15)).isNone = true := by unfold Shaped; and_intros <;> decide +kernel
/-! ### Witnesses for endpoints, rings, records, other packages and the board -/

/-- c3 holds a capability; further objects; seat 1 waits. -/
def holds3 (x : Cap) : State → State := withBench fun b => { b with crows := b.crows.map fun r => if r.reg = 3 then row 3 x else r }
def alsoObjs (os : List Obj) (s : State) : State := { s with objs := s.objs ++ os }
def seat1Waits (w : Wait) : State → State := withBench fun b => putSeat b 1 { getSeat b 1 with state := .blocked w }
/-- An endpoint and a notification 20 behind c3, and what seat 1 waits for there. -/
def atEndpoint (xs : List EpSender) (rs : List EpReceiver) (w : Wait) : State :=
  alsoObjs [⟨963, 20, 0, 0, false, false, .endpoint xs rs⟩] (seat1Waits w (holds3 (objCap 963 20 0x3C1) lane1))
def atNotification (x : Word) (rs : List EpReceiver) (w : Wait) : State :=
  alsoObjs [⟨964, 20, 0, 0, false, false, .notification x rs⟩] (seat1Waits w (holds3 (objCap 964 20 0x3C1) lane1))
def seat1 : Party := .seat 1 0 0 1
/-- The states of the claims on endpoints: empty, a receiver, a sender, a caller; on notifications: clear, set, and a receiver. -/
def endpointCases : List (State × Wait) :=
  [(atEndpoint [] [] .none, .none), (atEndpoint [] [⟨seat1, true⟩] (.recv 963 20 (.v 4) 1 true 0), .recv 963 20 (.v 4) 1 true 0),
    (atEndpoint [⟨seat1, ⟨1, 2, 3, Cap.null⟩, 0, false, true⟩] [] (.send 20), .send 20),
    (atEndpoint [⟨seat1, ⟨1, 2, 3, Cap.null⟩, 0, true, true⟩] [] (.xcall 20 false (.v 4) 1 true true true), .xcall 20 false (.v 4) 1 true true true),
    (atNotification 0 [] .none, .none), (atNotification 5 [] .none, .none),
    (atNotification 0 [⟨seat1, true⟩] (.recv 964 20 (.v 4) 1 true 9), .recv 964 20 (.v 4) 1 true 9)]
/-- MessagesMeet, Notifications: the issuer, the waiting seat and the checks. -/
theorem witness_messages : ∀ e ∈ endpointCases,
    Shaped (cur e.1) ∧ issued e.1 = [0] ∧ (getSeat (cur e.1) 0).state = .eligible ∧ (getSeat (cur e.1) 0).wake = none ∧
    (findTask e.1 (cur e.1).task).isSome ∧ liveBench e.1 (curTask e.1) (threadOf e.1 0) = some (0, 0) ∧
    liveBench e.1 (curTask e.1) ⟨0, 0, 1⟩ = some (0, 0) ∧ imageCounts e.1 (curTask e.1) 0 0 = false ∧ e.1.sel.len = 4 ∧
    (getSeat (getBench e.1 0 0) 1).state = .blocked e.2 ∧ (getSeat (getBench e.1 0 0) 1).right = none ∧ (getSeat (cur e.1) 0).right = none ∧
    capNum (readC (cur e.1) 3 0) = 20 ∧ localFault e.1 1 0 = none ∧ (useFault e.1 (usesOf (.reply 1 ⟨.v 4, .plain⟩)) 0).isNone = true ∧
    ([Instr.recv 1 ⟨.v 4, .plain⟩ 3, .poll 1 ⟨.v 4, .plain⟩ 3].all fun i => (endpFault e.1 i 3 [963, 964] .ld none 0).isNone) = true := by
  unfold Shaped; decide +kernel
theorem witness_sends : (∀ e ∈ endpointCases.take 4, (endpFault e.1 (.send 1 ⟨.v 4, .plain⟩ 3) 3 [963] .invoke (some 1) 0).isNone = true ∧
      (endpFault e.1 (.xcall 1 ⟨.v 4, .plain⟩ 3) 3 [963] .invoke (some 1) 0).isNone = true) ∧
    ∀ e ∈ endpointCases.drop 4, (endpFault e.1 (.notify ⟨.v 4, .plain⟩ 3) 3 [964] .invoke none 0).isNone = true := by decide +kernel
/-- MessagesMeet: a reply to seat 1, which waits for it. -/
def atReply : State :=
  withBench (withSeat fun x => { x with right := some ⟨seat1, true⟩ }) (seat1Waits (.xcall 20 true (.v 4) 1 true true true) lane1)
theorem witness_reply : (getSeat (cur atReply) 0).right = some ⟨seat1, true⟩ ∧ (DReg.v 4).isV = true ∧
    (getSeat (getBench atReply 0 0) 1).state = .blocked (.xcall 20 true (.v 4) 1 true true true) ∧
    liveBench atReply (curTask atReply) ⟨0, 0, 1⟩ = some (0, 0) ∧
    (useFault atReply (usesOf (.reply 1 ⟨.v 4, .plain⟩)) 0).isNone = true := by and_intros <;> decide +kernel
/-- AServiceCall: a ring of 16 entries, empty and full. -/
def atRing (m : Mem) : State :=
  { alsoObjs [⟨971, 21, 0, 0, false, false, .ring 0 4 0x20000000 22 [] 0⟩, ⟨964, 22, 0, 0, false, false, .notification 0 []⟩] lane1 with mem := m }
theorem witness_service_call : ∀ s ∈ [atRing State.reset.mem, atRing (memStore State.reset.mem 0x20000000 [16] false)],
    capNum (readC (cur s) 5 0) = 21 ∧ s.mem.wf = true ∧ 0x20000000 % 64 = 0 ∧ isMgmt (0x20000000 + 64 + 0x30) = false ∧
    (endpFault s (.sysc 1 ⟨.v 4, .plain⟩ 5) 5 [971] .invoke (some 1) 0).isNone = true ∧
    (memValue s.mem 0x20000000 4 = 0 ∨ memValue s.mem 0x20000000 4 = memValue s.mem 0x20000008 4 + 16) := by decide +kernel
/-- Emit, Ckpt: an edge to a node with room and to one without; a task with a checkpoint area. -/
def atBin (reserved : Nat) : State :=
  { alsoObjs [⟨972, 23, 0, 0, false, false, .emit 1 0⟩] (holds3 (objCap 972 23 0x3C1) lane1) with
    objs := ⟨972, 23, 0, 0, false, false, .emit 1 0⟩ ::
      ⟨967, 1, 0, 0, false, false, .graph { GraphObj.none_ with nodes := [2], sched := 5, edges := [(0, 0, false)], bins := [(0, ⟨reserved, [], none⟩)] }⟩ ::
      ⟨968, 2, 0, 0, false, false,
        .node { NodeObj.none_ with rows := 48, capRows := 16, acc := true, code := 3, ckptArea := heapCap }⟩ :: lane.objs }
theorem witness_emit :
    (∀ n ∈ [0, 1], (endpFault (atBin n) (.emit ⟨.v 0, .plain⟩ 3) 3 [972] .invoke none 0).isNone = true ∧
      (emitRange (atBin n) 3 ⟨.v 0, .plain⟩ 0).isNone = true ∧ emitTarget (atBin n) 23 = some (1, 0, 0) ∧ binFree (atBin n) 1 0 = 1 - n) ∧
    (ckptSeatFault (atBin 0)).isNone = true := by decide +kernel
/-- Pushes, returns and marks, on the heap and toward package 1. -/
def remoteCap : Cap := boundedCap 0x0020000000000000 0x3C2 0 0x0020000000000000 0x0020000000010000 true
def localBuf : State := holds3 (boundedCap 0x10001000 0x3C4 0 0x10001000 0x10002000 true) lane1
def remoteBuf : State := holds3 remoteCap (withBench (fun b => { b with vrows := b.vrows.map fun r =>
  if r.reg = 6 then { r with elems := List.replicate 32 64 } else r }) lane1)
theorem witness_pushes :
    (declaredMask remoteBuf).getLsbD 3 = true ∧ (DReg.v 6).isV = true ∧
    (pushFault remoteBuf (.push 1 false (.v 6) 3) 1 3 (.v 6) 0).isNone = true ∧ (markFault remoteBuf (.mark 3) 3 0).isNone = true ∧
    (match runSeats localBuf (sretCheck (.sret ⟨.v 1, .plain⟩ 3) 3) (issued localBuf) with
      | .ok (ps, u) => ps.length == 1 && decide (cur u = cur localBuf)
      | .error _ => false) = true := by and_intros <;> decide +kernel
/-- Posts: a member of board group 15, whose log holds posts 3 and 4. -/
def postRegs (n : Nat) : State :=
  let s := withBench (fun b => { b with vrows := b.vrows.map fun r =>
    if r.reg = 7 then { r with elems := List.replicate 32 (BitVec.ofNat 64 n) } else r }) lane1
  { s with
    board := [(15, ⟨1, [0], 0, true, true, 0, true, 4, [⟨3, 1, 0, 1, 0, 0, 1, 2, 3, 0, 0⟩, ⟨4, 1, 0, 1, 0, 0, 1, 2, 3, 0, 0⟩], 2, [], [], 0, none, false, 0, [], []⟩)]
    mgmt := { s.mgmt with bgassign := List.replicate 16 0x8000000000000000 } }
theorem witness_posts : ∀ n ∈ [0, 2, 3, 5],
    (boardOf (postRegs n) 15).isSome = true ∧ boardAssigned (postRegs n) 15 (taskSpace (postRegs n) (curTask (postRegs n))).asn = true ∧
    (declaredMask (postRegs n)).getLsbD 4 = true ∧ OperandsClear (postRegs n) [.v 4, .v 5, .v 6] [] [.v 7] [] ∧
    OperandsClear (postRegs n) [.v 7] [] [.v 4, .v 5, .v 6, .v 7] [] ∧ (readD (cur (postRegs n)) (.v 7) 0).toNat = n := by
  unfold OperandsClear; decide +kernel
/-! ### Witnesses for system instructions and the monitor -/

/-- Features, Privilege, Trap, System values: a task bench whose task declares BASE alone and does not hold the accumulators. -/
def bare : State := { lane with
  objs := ⟨973, 3, 0, 0, false, false, .code { CodeObj.none_ with aspace := 4, feat := 1 }⟩ :: lane.objs
  cores := lane.cores.map fun e => (e.1, { e.2 with accTask := none }) }
theorem witness_features :
    Shaped (cur bare) ∧ onTaskBench bare ∧ (∀ n ∈ [1, 2, 3, 4, 5], (declaredMask bare).getLsbD n = false) ∧
    (getCore bare 0).accTask ≠ some (cur bare).task ∧ featureOf (.modadd ⟨.v 1, .plain⟩ ⟨.v 2, .plain⟩ (.v 3)) = some 1 ∧
    featureOf (.bpost ⟨.v 4, .plain⟩ 0) = some 4 := by unfold Shaped onTaskBench; and_intros <;> decide +kernel
theorem witness_privileged : isPrivileged .tret ∧ isPrivileged (.srd 0x207 (.v 1)) ∧ isPrivileged (.swr 0x101 (.v 1)) := by
  refine ⟨.inl rfl, ?_, ?_⟩ <;> simp [isPrivileged]
theorem witness_system_values : OperandsClear lane [] [] [.v 3] [] ∧ OperandsClear lane [.v 3] [] [] [] ∧
    (getCore lane lane.sel.core).accTask = some (cur lane).task := by unfold OperandsClear; and_intros <;> decide +kernel
/-- A fault run of core 0 for its bench 0, which has stopped; the monitor's capability c1 reaches bytes without translation. -/
def faultInfo : FaultInfo := ⟨0, 0x42, 1, BitVec.ofNat 64 placeAddr, 0, 3, 0, BitVec.ofNat 64 placeAddr, 0, false, 0, false, 0⟩
def inMonitor : State := { lane with
  sel := { lane.sel with slot := 64, seats := 1 }
  cores := lane.cores.map fun e => (e.1, { e.2 with
    benches := [(0, { laneBench with mode := .faulted }),
      (64, { laneBench with task := 0, crows := [row 1 (boundedCap 0x20000000 0x3C4 0 0x20000000 0x30000000 true)] })]
    run := some ⟨.fault, some faultInfo⟩
    tregs := { TRegs.reset with tbench := 0, tmask := 3, tresume := BitVec.ofNat 64 placeAddr } }) }
/-- The monitor's claims: swr, bsave, brest and rmap in a run; team map entries that stand and that are malformed. -/
theorem witness_monitor :
    Shaped (cur inMonitor) ∧ (issued inMonitor).head? = some 0 ∧ inMonitor.sel.slot = 64 ∧
    (getCore inMonitor 0).run = some ⟨.fault, some faultInfo⟩ ∧ OperandsClear inMonitor [.v 1] [] [] [] ∧
    OperandsClear inMonitor [.v 0, .v 1] [] [.v 3] [] ∧ poisonC (cur inMonitor) 1 0 = none ∧
    (imageFault inMonitor false 0 (readC (cur inMonitor) 1 0)).isNone = true ∧ (targetOf inMonitor).task = 1 ∧
    coreTOf (curTask lane) inMonitor.sel.core = 0 ∧ (curTask lane).cores.length = 1 ∧ (taskCore (curTask lane) 0).map.length = 1 ∧
    (∀ e ∈ (getCore inMonitor 0).benches, ¬(e.1 ≠ 64 ∧ e.2.task = 1 ∧ e.2.mode = .running)) ∧
    (srcV inMonitor ⟨.v 0, .plain⟩ 0).toNat = 0 ∧ (readD (cur inMonitor) (.v 1) 0).toNat = 3 ∧ 3 / 64 % 16 = 0 := by
  unfold OperandsClear Shaped; and_intros <;> decide +kernel
/-- TheMonitor: a section of the layout that `brest` takes. -/
theorem witness_brest : (imageFault inMonitor true 2 (readC (cur inMonitor) 1 0)).isNone = true := by decide +kernel
/-- AFaultRun: its task runs, its bench has faulted, its resume point is even. -/
theorem witness_fault_run :
    (match findTask inMonitor (targetOf inMonitor).task with
      | some T => T.phase == .running && decide (T.requeues + 1 < 64)
      | none => false) = true ∧ (targetOf inMonitor).mode = .faulted ∧ (getCore inMonitor 0).tregs.tbench.toNat = faultInfo.slot ∧
    (getCore inMonitor 0).tregs.tresume.getLsbD 0 = false ∧ (inMonitor.tasks.map (·.id)).Nodup ∧ issued inMonitor ≠ [] := by
  and_intros <;> decide +kernel
/-- The same: the resume point as the fault left it, after a `trap` and after another fault, and one that the handler has moved;
seats that the fault names and one that it does not. -/
theorem witness_fault_places :
    faultInfo.resume = (getCore inMonitor 0).tregs.tresume ∧ min 16 faultInfo.index = (getCore inMonitor 0).tregs.tindex.toNat ∧
    ({ faultInfo with code := 0x60, sub := 2 } : FaultInfo).resume = (getCore inMonitor 0).tregs.tresume ∧
    ({ faultInfo with resume := 0 } : FaultInfo).resume ≠ (getCore inMonitor 0).tregs.tresume ∧
    (getCore inMonitor 0).tregs.tmask.getLsbD 0 = true ∧ (getCore inMonitor 0).tregs.tmask.getLsbD 31 = false := by decide +kernel
/-! ### Witnesses for host harts and instructions in flight -/

/-- Hart 0 in a mode, at an address, with x10 aligned and x11 not, hc1 a heap capability, hc3 that of an object 20. -/
def hartIn (m : HartMode) (type : Nat) : Hart :=
  { Hart.reset with
    mode := m, released := true, pc := 0x1000
    x := List.replicate 10 0 ++ [0x20000000, 0x20000008] ++ List.replicate 20 0
    hc := [Cap.null, heapCap, Cap.null, objCap type 20 0x3C1] ++ List.replicate 12 Cap.null }
def atHart (m : HartMode) (type : Nat) (os : List Obj) : State := { alsoObjs os lane1 with harts := [(0, hartIn m type)] }
/-- HostCapability, HostCapabilityAccesses: machine and user mode, an aligned and an unaligned address. -/
theorem witness_host :
    (hartIn .machine 963).x.length = 32 ∧ (hartIn .user 963).hc.length = 16 ∧
    getHart (atHart .machine 963 []) 0 = hartIn .machine 963 ∧ (hartIn .machine 963).mode ≠ .user ∧ (hartIn .user 963).mode = .user ∧
    ((getX (hartIn .machine 963) 11).toNat % 16 ≠ 0) ∧
    (∀ st ∈ [true, false], (match hostCapAddr (atHart .machine 963 []) (hartIn .machine 963) (getX (hartIn .machine 963) 10) st with
      | .ok pa => !memPoison lane1.mem pa && !isMgmt pa
      | .error _ => false) = true) ∧ (lane1.mem.wf) = true := by and_intros <;> decide +kernel
/-- HostCapability: the virtual modes. -/
theorem witness_host_virtual : (hartIn .virtualUser 963).mode = .virtualUser ∧ (hartIn .virtualSupervisor 963).mode ≠ .user ∧
    (hartIn .virtualSupervisor 963).mode ≠ .virtualUser := by decide
/-- HartsMeet: hart 0 at an endpoint and a notification; the waiting seats are those of `endpointCases`. -/
theorem witness_harts :
    (objFault (atHart .machine 963 [⟨963, 20, 0, 0, false, false, .endpoint [] []⟩]) (getHc (hartIn .machine 963) 3) [963] .invoke).isNone = true ∧
    (objFault (atHart .machine 963 [⟨963, 20, 0, 0, false, false, .endpoint [] []⟩]) (getHc (hartIn .machine 963) 3) [963, 964] .ld).isNone = true ∧
    (objFault (atHart .machine 964 [⟨964, 20, 0, 0, false, false, .notification 0 []⟩]) (getHc (hartIn .machine 964) 3) [964] .invoke).isNone = true ∧
    capNum (getHc (hartIn .machine 963) 3) = 20 ∧ capSeal (getHc (hartIn .machine 963) 3) = 963 ∧ (hartIn .machine 963).wait = .none ∧
    (getHc (hartIn .machine 963) 2).tag = false := by and_intros <;> decide +kernel

/-- A copy of two elements within the window, with a deadline that has passed, and a `tmma` handed over and not yet. -/
def winCopy : CopyCmd := ⟨0, 8, 0x10002, 0, 0x1000200000000, 0, boundedCap 0x100 0x300 0 0 0x8000 true, boundedCap 0x4000 0x300 0 0 0x8000 true, false, 1, some 0, 0, 0, 0, [], []⟩
def tmmaCmd (started : Bool) : TmmaCmd := ⟨0, 0, 8, 0, 0x100, winCap, 12, started, 0, 0⟩
def inFlightKinds : List (List DReg × FlightKind) :=
  [([], .store), ([], .tileRows), ([], .matrix true), ([], .matrix false), ([.v 3], .remoteLoad 0 8 0 false), ([], .copy winCopy),
    ([], .tmma (tmmaCmd false)), ([], .tmma (tmmaCmd true)), ([], .arrival (th 0) 63 false 1), ([], .arrival (th 0) 63 true 1)]
def flying (e : List DReg × FlightKind) : State := withFlight (flightOf e.1 e.2) { laneLive with bell := 5 }
/-- InstructionsInFlight: one of each kind; the copy's deadline has passed; the hand-over is due. -/
theorem witness_in_flight :
    (∀ e ∈ inFlightKinds, ((flying e).flights.map (·.id)).Nodup ∧ flightOf e.1 e.2 ∈ (flying e).flights ∧
      Shaped (flightBench (flying e) (flightOf e.1 e.2)) ∧ (flightBench (flying e) (flightOf e.1 e.2)).task = 1) ∧
    seatsOf (flightOf [] .store).seats = [0] ∧ (∃ x ∈ (getBench laneLive 0 0).vrows, x.reg = (DReg.v 3).code ∧ x.live.getLsbD 0 = true) ∧
    winCopy.deadline = some 0 ∧ (0 : Word).toNat < (flying ([], .copy winCopy)).bell.toNat ∧
    (flightTask lane (flightOf [] .store)).phase ≠ .restoring ∧
    handoverOk (flying ([], .tmma (tmmaCmd false))) (flightOf [] (.tmma (tmmaCmd false))) (tmmaCmd false) = true := by
  unfold Shaped; and_intros <;> decide +kernel
/-- ACopy: its elements, within the window, apart from each other. -/
theorem witness_copy :
    let s := flying ([], .copy winCopy)
    let f := flightOf [] (.copy winCopy)
    copyElems (withIndex s f winCopy) =
      [(0, .mem 0x100 false, 0x4000), (1, .mem 0x108 false, 0x4008)] ∧
    s.remote = [] ∧ hasPerm winCopy.src .remote = false ∧ hasPerm winCopy.dst .remote = false ∧ carriesTags winCopy = false ∧
    winPlace (flightTask s f) 0 0x4008 ≠ winPlace (flightTask s f) 0 0x4000 ∧
    winPlace (flightTask s f) 0 0x4008 ≠ winPlace (flightTask s f) 0 0x108 := by dsimp only; and_intros <;> decide +kernel
/-- ATmma: E4M3. -/
theorem witness_tmma_complete : tmElem (tmmaCmd true) = .flt fmtE4M3 8 := by decide +kernel
/-- Arrivals: the seat is done; a member that has been marked. -/
theorem witness_arrival :
    accessesBefore (flying ([], .arrival (th 0) 63 false 1)) 0 0 0 0 1 = true ∧
    getGroup (curTask (inGroup ⟨[th 0, th 1], [th 0], [], 0, 0, 0⟩)) 63 = ⟨[th 0, th 1], [th 0], [], 0, 0, 0⟩ := by
  and_intros <;> decide +kernel
/-- Waits: a pause, fences, a mailbox wait; a held line; a core whose seats have all exited. -/
def heldLine : HoldLine := ⟨0x400040, 0xFF, 5, [none, none, none, none], [none, none, none, none], 0⟩
def heldState : State := withTask (fun t => { t with cores := t.cores.map fun c => { c with hold := [heldLine] } }) lane
def allExited : State := withBench (fun b => { b with seats := b.seats.map fun x => { x with state := .exited } }) lane
theorem witness_waits :
    (∀ w ∈ [Wait.pause 0, .fence .dom .release, .fence .seat .acquire, .mbr 7 (.v 3) 0, .mbw 0 5 0],
      (getSeat (getBench (seat1Waits w lane) 0 0) 1).state = .blocked w ∧ Shaped (getBench (seat1Waits w lane) 0 0) ∧
        (getBench (seat1Waits w lane) 0 0).mode = .running) ∧
    fenceMet lane 0 0 1 .release = true ∧ coreTOf (curTask lane) 0 < (curTask lane).cores.length ∧
    (taskCore (curTask lane) 0).mail.length = 8 ∧ (∃ l ∈ (taskCore (curTask heldState) 0).hold, l.line = 0x400040) ∧
    coreExited allExited (curTask allExited) 0 = true := by unfold Shaped; and_intros <;> decide +kernel
/-- LiftsAndIdle: seat 31 skipped 527 times; 32 idle clocks. -/
def skipped : State :=
  withBench (fun b => putSeat b 31 { getSeat b 31 with skip := 527, pc := 0x10000040 })
    { lane with cores := lane.cores.map fun e => (e.1, { e.2 with ttIdle := [(0, 32)] }) }
theorem witness_lift :
    (getBench skipped 0 0).mode = .running ∧ (getSeat (getBench skipped 0 0) 31).state = .eligible ∧
    527 ≤ (getSeat (getBench skipped 0 0) 31).skip ∧ (∀ j, j < 32 → (getBench skipped 0 0).lifted.getLsbD j = false) ∧
    (∀ j, j < 32 → j ≠ 31 → (getSeat (getBench skipped 0 0) j).skip < (getSeat (getBench skipped 0 0) 31).skip) ∧
    32 ≤ (lookupKey (getCore skipped 0).ttIdle 0).getD 0 := by and_intros <;> decide +kernel
/-- AWord: a task bench. Replies: a saved task, whose image stands in memory. -/
def savedTask : State := withTask (fun t => { t with phase := .pool, saved := true, saveBase := 0xF000000000 }) lane
theorem witness_saved_reply : onTaskBench lane ∧ (curTask savedTask).saved = true ∧
    physValue savedTask (pendAt savedTask (curTask savedTask) 0 0 15) 1 ≠ 3 ∧
    isMgmt (pendAt savedTask (curTask savedTask) 0 0 15 + 8) = false := by unfold onTaskBench; and_intros <;> decide +kernel
/-! ### Witnesses for translation, hubs and other packages -/

/-- Five tables from 0x50000000 that map the page at 0x40000000 to the frame at 0x60000000, as an address space in front of the
others; the page after it is not mapped. -/
def tables : Mem :=
  [(0x50000000, 0x14000401), (0x50001000, 0x14000801), (0x50002008, 0x14000C01), (0x50003000, 0x14001001), (0x50004000, 0x1800001F)].foldl
    (fun m e => memStore m e.1 (bytesLE 8 e.2) false) State.reset.mem
def pagedSpace : ASpace := { ASpace.none_ with root := 0x50000000 }
def paged : State :=
  { lane with mem := tables, objs := ⟨962, 4, 0, 0, false, false, .aspace pagedSpace⟩ :: lane.objs, exportSlots := [(0, 4)], bell := 2000000 }
def walked (va : Nat) : Except TransErr WalkHit := walkFrom paged va .load 4 (pagedSpace.root.toNat / 4096) []
/-- AWalk: a page that is mapped and one that is not; a transfer in flight that renews its translation. -/
theorem witness_walk :
    (match walked 0x40000000 with
      | .ok h => h.level == 0 && pteRsw h.pte == 0 && h.at_ == 0x50004000
      | .error _ => false) = true ∧
    (match walked 0x40001000 with
      | .error (.page k) => k == 1
      | _ => false) = true ∧
    (taskSpace paged (curTask paged)).root = 0x50000000 ∧ pathAt (taskSpace paged (curTask paged)) 0x40000000 = .paged ∧
    canonical 0x40000000 = true ∧ paged.mem.wf = true ∧ (lookupKey paged.walkCache 0).isNone = true ∧ paged.skewed = [] ∧
    (curTask paged).requeues < 63 ∧ flightAccess (flightOf [] (.copy winCopy)) 0x40000000 = .load := by and_intros <;> decide +kernel
/-- SoftErrors: a line of the die part. -/
theorem witness_soft_error : let T := { curTask lane with dieHold := [⟨0x400040, 0xFF, 5, [none, none, none, none], [none, none, none, none], 0⟩] };
    ∃ l ∈ T.dieHold, l.line = (0x10001008 : Word).toNat / 64 ∧ l.tags.length = 4 ∧ l.poison.length = 4 ∧ ∀ x ∈ T.dieHold, x.line = l.line → x = l := by
  decide +kernel
/-- CachedTranslations: a flight of core 0. Shootdowns: a request in the queue; a list of the next. -/
theorem witness_caches :
    findFlight (flying ([], .store)) 0 = some (flightOf [] .store) ∧ dieOf 0 = 0 ∧ TlbUnit.core 0 ∉ lane.skewed ∧
    ({ lane.mgmt with sdqtail := 1 }).sdqdone ≠ 1 ∧ (0 : Word) ≤ lane.bell := by and_intros <;> decide +kernel
/-- Carve: way 2 of hub 0 beside one more, from 2 ways to 3, to 1, and where another object holds the way. -/
def carving (m : Nat) (live : List Nat) (other : List Obj) : State :=
  alsoObjs ([⟨969, 30, 0, 0, false, true, .carve 0 0 2 31 live (some m)⟩, ⟨964, 31, 0, 0, false, false, .notification 0 []⟩] ++ other) lane
theorem witness_carve :
    (findObj (carving 3 [] []) 969 30).map (·.data) = some (.carve 0 0 2 31 [] (some 3)) ∧ objGone (carving 3 [] []) 964 31 = false ∧
    wayTaken (carving 3 [] []) 30 0 2 3 = false ∧
    wayTaken (carving 3 [] [⟨969, 32, 0, 0, false, false, .carve 0 2 1 31 [] none⟩]) 30 0 2 3 = true ∧
    (∃ x ∈ [1], 0 + 1 ≤ x ∧ x < 0 + 2) := by and_intros <;> decide +kernel
/-- Hotness: a hub that samples, with room and full, and one that does not. PoolSegments: a valid and an invalid register. -/
def sampling (en full : Bool) (head : Word32) : State :=
  { lane with hot := lane.hot.map fun c => { c with en := en, full := full, head := head, period := 3, count := 15 } }
theorem witness_hotness :
    (getHot (sampling true false 3) 15).en = true ∧ ((getHot (sampling true false 3) 15).head - (getHot (sampling true false 3) 15).tail).toNat < 8192 ∧
    (getHot (sampling true true 8192) 0).full = true ∧ ((getHot (sampling true true 8192) 0).head - (getHot (sampling true true 8192) 0).tail).toNat = 8192 ∧
    2 ^ max 4 (getHot (sampling true false 3) 15).period ≤ (getHot (sampling true false 3) 15).count + 1 ∧ bits (0xF000 : Word) 15 12 = 15 ∧
    bits (0xF000 : Word) 55 52 ≠ 8 ∧ Nat.xor (Nat.xor 15 0) 0 = 15 ∧ (getHot { lane with hot := lane.hot.map fun c => { c with en := true } } 0).count + 1 < 2 ^ 4 ∧
    (getHot lane 0).en = false ∧ lane.hot.length = 16 ∧ lane.mgmt.poolseg.length = 64 ∧ (0x8000000000000000 : Word).getLsbD 63 = true := by
  and_intros <;> decide +kernel
/-- APageMigrates: a leaf that may be written; one that may not, with and without a live translation, to a frame of its own. -/
def frozenPage (s : State) : State := { s with mem := memStore s.mem 0x50004000 (bytesLE 8 0x1800001B) false }
def leafIs (s : State) (w : Bool) : Bool :=
  match walkFrom s 0x40000000 .load 4 (pagedSpace.root.toNat / 4096) [] with
  | .ok h => pteBit h.pte 2 == w && h.level == 0 && h.at_ == 0x50004000 && decide (h.pte < 2 ^ 64)
  | .error _ => false
def cachedPage : State := { paged with grants := [⟨0, 0x40000000, 0x1000, 3000000⟩] }
theorem witness_migration :
    (spaceOfAsn paged 0).map (·.root) = some 0x50000000 ∧ pathAt pagedSpace 0x40000000 = .paged ∧ leafIs paged true = true ∧
    leafIs (frozenPage paged) false = true ∧ leafIs (frozenPage cachedPage) false = true ∧ (frozenPage paged).mem.wf = true ∧
    pageCached (frozenPage paged) 0 0x40000000 0x1000 = false ∧ pageCached (frozenPage cachedPage) 0 0x40000000 0x1000 = true ∧ 0x50004000 + 8 ≤ 0x70000000 / 0x1000 * 0x1000 ∧ 0x70000000 / 4096 < 2 ^ 44 := by
  and_intros <;> decide +kernel
/-- Grants: a package just reset, one that serves, a page that is mapped and one that is not. -/
theorem witness_grants :
    (resetRefusal lane).isSome = true ∧ (resetRefusal paged).isNone = true ∧ slotSpace paged 0 = some 4 ∧ (∀ x ∈ paged.fenced, x.pkg ≠ 1) ∧
    (match hubTranslate paged (aspaceObj paged 4) 0x40001000 .load with
      | .error (.page k) => k == 1
      | _ => false) = true ∧
    (match hubTranslate paged (aspaceObj paged 4) 0x40000000 .load with
      | .ok (pa, some _, _) => pa == 0x60000000
      | _ => false) = true := by and_intros <;> decide +kernel
/-- RemoteAccesses, SlotBuffers, Marks: requests of package 1 to export slot 0, whose space has a heap. -/
def exporting : State := { lane with bell := 2000000, exportSlots := [(0, 4)], mem := memStore State.reset.mem 0x10002018 [4, 0, 0, 0, 64] false }
def remoteReq (op : RemoteOp) : RemoteReq := ⟨1, 7, 0, 0x10001000, 0x10001000, 0x10002000, op, (List.range (remoteSize op)).map (0x10001000 + ·), some 3000000, none⟩
def exportQuarantine : State := { exporting with quarantine := [⟨1, 4, 0x10001000, 0x1000, true, false, [], 0, none, none⟩] }
theorem witness_remote :
    reqExpired exporting (remoteReq (.load 8)) = false ∧ reqExpired { exporting with bell := 3000000 } (remoteReq (.load 8)) = true ∧
    exporting.pushBufs = [] ∧ exporting.mem.wf = true ∧
    (∀ n, n < 16 → isMgmt (0x10001000 + n) = false ∧ memPoison exporting.mem (0x10001000 + n) = false) ∧
    (refuses exporting 1).isNone = true ∧ behindMark exporting (remoteReq (.load 8)) = false ∧
    requestQuarantined exportQuarantine 4 0x10001000 0x10002000 = true ∧ requestQuarantined exporting 4 0x10001000 0x10002000 = false ∧
    slotDiscards exporting (remoteReq (.load 8)) = false ∧ exporting.heldIn = [] ∧ exporting.marksIn = [] ∧
    (∀ op ∈ [RemoteOp.load 1, .load 8, .load 16, .store [1] false false, .atomic .add false [(1, 0)]],
      (match hubBytes exporting (aspaceObj exporting 4) 0x10001000 (remoteAcc op) (remoteSize op) with
        | .ok (pas, u) => pas == (List.range (remoteSize op)).map (0x10001000 + ·) && u.pushBufs.isEmpty && u.mem.wf &&
            pas.all fun p => !isMgmt p && !memPoison u.mem p
        | .error _ => false) = true) := by and_intros <;> decide +kernel
/-- SlotBuffers: a reservation for a buffer of 4 slots of 64 bytes, with none and all of them in use. -/
def bufferFull : State := { exporting with mem := memStore exporting.mem 0x10002000 [4] false }
theorem witness_reserve : ∀ s ∈ [exporting, bufferFull],
    (match hubTranslate s (aspaceObj s 4) 0x10002000 .rmw with
      | .ok (pa, _, u) => pa == 0x10002000 && u.mem.wf && memValue u.mem (pa + 0x18) 4 == 4 && memValue u.mem (pa + 0x1C) 4 == 64 &&
          memValue u.mem (pa + 0x20) 4 == 0 && decide (memValue u.mem pa 8 ≤ 4) && memValue u.mem (pa + 0x10) 8 == 0
      | .error _ => false) = true := by decide +kernel
/-- The same: a slot at HEAD, complete and not; an `sret` in flight. -/
def slotAt (complete : Bool) : State :=
  { exporting with pushBufs := [⟨0, 0x10002000, [], [⟨0, 0x10002040, 64, if complete then [] else [0x10002040], complete, 2200000, 1, 7, false⟩]⟩] }
def sretCap : Cap := boundedCap 0x10002000 0x300 0 0x10002000 0x10003000 true
theorem witness_slots :
    pathAt (aspaceObj exporting 4) 0x10002000 = .heap ∧
    (0x10002000 : Word).toNat < (aspaceObj exporting 4).hbase.toNat + (aspaceObj exporting 4).hlimit.toNat ∧
    memValue exporting.mem 0x10002008 8 = 0 ∧ ((slotAt true).pushBufs.map fun b => b.slots.length) = [1] ∧ ((slotAt false).pushBufs.map fun b => b.slots.length) = [1] ∧
    hasPerm sretCap .remote = false ∧ (capCursor sretCap).toNat % 64 = 0 ∧ heldLines (curTask exporting) = [] ∧
    (match translate1 exporting 0 (aspaceObj exporting 4) (aspaceObj exporting 4).hspan 0x10002000 .rmw with
      | .ok (pa, v) => pa == 0x10002000 && v.mem.wf && v.pushBufs.isEmpty
      | .error _ => false) = true := by and_intros <;> decide +kernel
/-- PushesAndMarks: one of each in flight. -/
def pushKinds : List (List DReg × FlightKind) :=
  [([.v 3], .push 0 1 (.v 3) (some 0) winCap remoteCap 16), ([.v 3], .push 0 1 (.v 3) none winCap remoteCap 16), ([], .mark 0 1 1 [⟨0, 2, false, 0⟩] [(0, 1)]),
    ([], .sret sretCap 1 false 1)]
theorem witness_push_flights :
    (∀ e ∈ pushKinds, ((flying e).flights.map (·.id)).Nodup ∧ Shaped (flightBench (flying e) (flightOf e.1 e.2)) ∧
      (flightBench (flying e) (flightOf e.1 e.2)).task = 1) ∧
    lowestSeat (flightOf [] .store).seats < 32 ∧ (capCursor winCap).toNat + 16 ≤ windowEnd ∧ (curTask lane).requeues < 63 := by
  unfold Shaped; and_intros <;> decide +kernel
/-- A path set to package 1. -/
def pathTo (libs : List Nat) (since : Option Word) : PathSet := ⟨1, libs, [], since, none, libs, 0, [], []⟩
/-- Paths, CachedTranslations, Grants: a path to package 1 over library 2, a load that it carries, a target without a path since long, a pool without its link. -/
def onPath (ps : PathSet) (lib : Option Nat) : State :=
  { withFlight (flightOf [.v 3] (.remoteLoad 0 8 0 false)) lane with
    bell := 60000, links := [⟨2, 1, true⟩], paths := [ps], remote := [⟨0, 0, 1, 1, 0, lib, remoteReq (.load 8), false, 0, 0, [], none, some 0, []⟩] }
theorem witness_paths :
    2 ∈ (pathSetOf (onPath (pathTo [2] none) (some 2)) 1).libs ∧
    (∀ o ∈ (onPath (pathTo [2] none) (some 2)).remote, o.req = 0 ∧ o.target = 1 ∧ o.lib = some 2 ∧ o.body.op = .load 8) ∧
    (60000 : Word).toNat < ((60000 : Word) + 5).toNat ∧
    noPathDue (onPath (pathTo [] (some 5)) none) 1 = true ∧
    pathWaiters (onPath (pathTo [] (some 5)) none) 1 = [(0, BitVec.ofNat 64 (2 ^ 53 + 0x10001000))] ∧
    ({ lane with lock := { lane.lock with locked := true } } : State).lock.locked = true ∧ lane.skewed = [] ∧ (findFlight (onPath (pathTo [2] none) none) 0).isSome = true ∧
    (onPath (pathTo [2] none) none).remote.find? (fun o => o.req == 9) = none ∧
    pathFor (onPath (pathTo [] none) none) 1 (remoteReq (.load 8)).va = none ∧ (0 : Word).toNat + 10000 ≤ (60000 : Word).toNat ∧
    libLinked (onPath (pathTo [2] none) none) 2 = true ∧ libLinked lane 2 = false ∧
    ({ lane with poolWaits := [⟨0, .task 1 none, 2, 0⟩] } : State).poolWaits = [⟨0, .task (curTask lane).id none, 2, 0⟩] := by and_intros <;> decide +kernel
/-! ### Witnesses for tasks, the Dean and the monitor's runs -/

/-- Graph 1, node 2 and scheduling context 5 in front of the others; the task in the pool, with core 1 free for it. -/
def graph1 (g : GraphObj) : Obj := ⟨967, 1, 0, 0, false, false, .graph g⟩
def node2 (n : NodeObj) : Obj := ⟨968, 2, 0, 0, false, false, .node n⟩
def boundTo (cores : List Nat) : Obj := ⟨965, 5, 0, 0, false, false, .sched 0 false 0 (cores.map fun c => (c, 0))⟩
def aGraph : GraphObj := { GraphObj.none_ with nodes := [2], sched := 5, place := [3, 0, 0, 0, 0, 0, 0, 0, 0, 0] }
def aNode : NodeObj := { NodeObj.none_ with rows := 48, capRows := 16, code := 3, binCap := 2, count := 2, ckptArea := heapCap }
def firstObjs (os : List Obj) (s : State) : State := { s with objs := os ++ s.objs }
def pooledTask (f : Task → Task) (os : List Obj) : State :=
  firstObjs os { withTask (fun t => f { t with phase := .pool, cores := [] }) lane with cores := [(1, { Core.reset with feat := 0x3F })], bell := 2000000 }
def fits : List Obj := [graph1 aGraph, node2 aNode, boundTo [1]]
def theTask (s : State) : Task := (findTask s 1).getD Task.none_
/-- AbortedTasks, ThePool, MachineChecks, Records: tasks before and at the limit of aborts, and with each condition. -/
theorem witness_pool :
    (theTask (pooledTask id fits)).requeues < 63 ∧ 63 ≤ (theTask (pooledTask (fun t => { t with requeues := 63 }) fits)).requeues ∧
    inPool (theTask (pooledTask id fits)) = true ∧ (theTask (pooledTask id fits)).since.toNat + 1000000 ≤ (pooledTask id fits).bell.toNat ∧
    ParkCond.page ∈ (theTask (pooledTask (fun t => { t with conds := [.page] }) fits)).conds ∧
    (theTask (pooledTask (fun t => { t with conds := [.leasemax 5] }) fits)).conds = [.leasemax 5] ∧
    ParkCond.placement ∈ (theTask (pooledTask (fun t => { t with conds := [.placement] }) fits)).conds ∧
    ((pooledTask id fits).tasks.map (·.id)).Nodup ∧
    (getCore inMonitor 0).run.isSome = true ∧ (getBench inMonitor 0 (getCore inMonitor 0).tregs.tbench.toNat).task = 1 ∧
    (∃ c ∈ (curTask lane).cores, c.phys = 0) ∧ findFlight (flying ([], .remoteStore 0 1)) 0 = some (flightOf [] (.remoteStore 0 1)) := by
  and_intros <;> decide +kernel
/-- ABinTimer: one record of two, when the timer has run out. -/
def binned : State :=
  pooledTask id [graph1 { aGraph with bins := [(0, ⟨0, [⟨List.replicate 16 1, []⟩], some 5⟩)] }, node2 aNode]
theorem witness_bin_timer :
    graphOfNode binned 2 = some (1, 0) ∧ (binOf binned 1 0).timer = some 5 ∧ (5 : Word).toNat ≤ binned.bell.toNat ∧ (binOf binned 1 0).delivered ≠ [] := by
  and_intros <;> decide +kernel
/-- TasksAreAdmitted: a core that fits, none that fits, none with the features, a region that fails; a saved task. -/
def region (arg : Nat) : RegionDesc := ⟨1, 0, 0, 0, 16, 16, 1, 16, arg, false, 1, 0⟩
theorem witness_admission :
    (∀ sv ∈ [true, false], let s := pooledTask (fun t => { t with saved := sv }) fits;
      featPlaceable s (theTask s) = true ∧ formTeam s (theTask s) 0 = some [1] ∧ (regionsFault s (theTask s)).isNone = true ∧
        imagesWaiting s (theTask s) = false) ∧
    (let s := pooledTask id [graph1 aGraph, node2 aNode, boundTo []];
      featPlaceable s (theTask s) = true ∧ formTeam s (theTask s) 0 = none) ∧
    (let s := { pooledTask id fits with cores := [] };
      featPlaceable s (theTask s) = false) ∧
    (let s := pooledTask id [graph1 aGraph, node2 { aNode with regions := [region 0] }, boundTo [1]];
      formTeam s (theTask s) 0 = some [1] ∧ (regionsFault s (theTask s)).isSome = true) := by
  dsimp only; and_intros <;> decide +kernel
/-- Staging: a granule that has not landed, of a region in the heap. -/
def staging (ckpt : Bool) : State :=
  firstObjs [graph1 aGraph, node2 { aNode with regions := [region 0], args := heapCap :: List.replicate 15 Cap.null }]
    { withTask (fun t => { t with phase := .staging 0, fromCkpt := ckpt, cores := t.cores.map fun c => { c with staging := [⟨1, [0]⟩] } }) lane with
      bell := 2000000 }
theorem witness_staging :
    (∃ e ∈ (taskCore (theTask (staging false)) 0).staging, e.region = 1 ∧ 0 ∈ e.waiting) ∧
    (match granuleSource (taskNode (staging false) (theTask (staging false))) 0 1 0 with
      | some (_, a) => a == 0x10001000
      | none => false) = true ∧
    (match translateBytes (staging false) 0 (taskSpace (staging false) (theTask (staging false)))
        (taskSpace (staging false) (theTask (staging false))).hlimit .load 0x10001000 16 with
      | .ok (pas, u) => pas == (List.range 16).map (0x10001000 + ·) && (getCore u 0).spad.wf
      | .error _ => false) = true ∧
    hasPerm heapCap .remote = false ∧ (∀ j, j < 16 → isMgmt (0x10001000 + j) = false) ∧ (theTask (staging false)).cores ≠ [] ∧
    (theTask (staging false)).phase = .staging 0 ∧ (theTask (staging true)).fromCkpt = true ∧
    (0 : Word).toNat + leadOf (staging false) (theTask (staging false)) ≤ (staging false).bell.toNat ∧
    ¬((staging false).bell.toNat < (0 : Word).toNat + leadOf (staging false) (theTask (staging false))) ∧
    (lane.bell.toNat < (0 : Word).toNat + leadOf lane (theTask lane)) := by and_intros <;> decide +kernel
/-- TasksRetire: every thread has exited and one line is held; then the storers are at work, with a record for its own bin. -/
def retiring : State := withTask (fun t => { t with cores := t.cores.map fun c => { c with hold := [heldLine] } }) allExited
def storing (recs : List HeldRec) : State :=
  firstObjs [graph1 aGraph, node2 aNode] (withTask (fun t => { t with phase := .storing, heldRecs := recs, reserved := recs.map fun r => (r.graph, r.node) }) allExited)
theorem witness_retire :
    (theTask retiring).phase = .running ∧ (∀ c ∈ (theTask retiring).cores, c.staging = []) ∧ Machine.allExited retiring (theTask retiring) = true ∧ (∀ f ∈ retiring.flights, f.task ≠ 1) ∧
    (match publishPlan retiring (taskCore (theTask retiring) 0).phys (taskSpace retiring (theTask retiring)) (drained (theTask retiring)).dieHold with
      | .ok (ps, u) => ps.map (·.2) == [0x10001000] && u.mem.wf
      | .error _ => false) = true ∧
    (∀ rs ∈ [[], [(⟨1, 0, ⟨List.replicate 16 1, []⟩, 3, 2⟩ : HeldRec)]],
      (match storeRegions (storing rs) (theTask (storing rs)) with
        | .ok u => decide ((binOf u 1 0).delivered.length + 1 < (binNode u 1 0).count)
        | .error _ => false) = true ∧ (graphOf (storing rs) 1).doneep.tag = false ∧ ParkCond.page ∉ (theTask (storing rs)).conds) := by
  and_intros <;> decide +kernel
/-- TeamsHalt: a running and a halted team, a checkpoint area that stands and none; a seat stalled in `emit`; seats at endpoints. -/
def running (f : Task → Task) (n : NodeObj) : State :=
  firstObjs [graph1 { aGraph with edges := [(0, 0, false)] }, node2 n] { withTask f lane with bell := 2000000 }
def parkedSeats : State :=
  withBench (fun b => { b with seats := b.seats.map fun x => { x with state := .blocked (.send 20) } }) (running (fun t => { t with blockedSince := 5 }) aNode)
theorem witness_halts :
    (∀ c ∈ (theTask lane).cores, ((getCore lane c.phys).benches.map (·.1)).Nodup) ∧ (theTask lane).phase = .running ∧
    (theTask (running (fun t => { t with phase := .halted .checkpoint }) aNode)).phase = .halted .checkpoint ∧
    (ckptFault (running id aNode) (taskSpaceNum (running id aNode) (theTask (running id aNode))) (taskNode (running id aNode) (theTask (running id aNode)))).isNone = true ∧
    (ckptFault lane (taskSpaceNum lane (theTask lane)) (taskNode lane (theTask lane))).isSome = true ∧
    placesHeld (theTask (running (fun t => { t with reserved := [(1, 0)] }) aNode)) 1 0 = 1 ∧
    (graphOf (running id aNode) 1).edges = [(0, 0, false)] ∧ (5 : Word).toNat + 20000 ≤ (running id aNode).bell.toNat ∧
    endpointBlocked parkedSeats (theTask parkedSeats) = true ∧ (theTask parkedSeats).blockedSince ≠ 0 ∧
    (theTask parkedSeats).blockedSince.toNat + 4000 ≤ parkedSeats.bell.toNat := by and_intros <;> decide +kernel
/-- The same: a task of class 0 that has had no die, and one of class 3 that holds the accumulators of core 1. -/
def starving : State :=
  let s := pooledTask (fun t => { t with noDie := some 5 })
    [graph1 { aGraph with nodes := [2, 6] }, node2 { aNode with acc := true }, ⟨968, 6, 0, 0, false, false, .node { aNode with acc := true, prio := 3 }⟩,
      boundTo [1]]
  { s with
    cores := [(1, { Core.reset with feat := 0x3F, accTask := some 2, benches := [(0, { laneBench with task := 2 })] })]
    tasks := s.tasks ++ [{ curTask lane with id := 2, node := 1, cores := [⟨1, 0, [(1, 0)], 0, List.replicate 8 ⟨0, false, false, 0, false, false, [], []⟩, [], []⟩] }] }
theorem witness_starved :
    starved starving (theTask starving) = true ∧ inPool (theTask starving) = true ∧ (starving.tasks.map (·.id)).Nodup ∧
    (match enoughVictims (theTask starving) 0 (afterHalts starving) (victims starving 0 (effClass starving (theTask starving))) with
      | some vs => vs.map (·.id) == [2]
      | none => false) = true := by and_intros <;> decide +kernel
/-- The same: a checkpoint that can be taken. -/
def capturing : State := running (fun t => { t with phase := .halted .checkpoint }) { aNode with ckptSz := 0x400 }
theorem witness_checkpoint :
    (theTask capturing).haltQ = [] ∧ ckptClear capturing (theTask capturing) = true ∧
    (match takeCheckpoint capturing (theTask capturing) with
      | .ok _ => true
      | .error _ => false) = true := by and_intros <;> decide +kernel
/-- RunsOpen: a halted team with its bench queued to be saved, a placed one to be restored, and a fault to be handled. -/
def queued (why : TaskPhase) (f : Core → Core) : State :=
  let s := withTask (fun t => { t with phase := why }) lane
  { s with cores := s.cores.map fun e => (e.1, f e.2) }
theorem witness_runs :
    saveReady (queued (.halted .ownerPreempt) fun c => { c with saveQ := [0] }) 0 0 = true ∧
    restoreReady (queued .restoring fun c => { c with restoreQ := [0] }) 0 0 = true ∧
    (let s := queued .running fun c => { c with faultQ := [faultInfo], benches := [(0, { laneBench with mode := .faulted })] };
      runFree s 0 = true ∧ (faultReady s 0).map (·.slot) = some 0) := by dsimp only; and_intros <;> decide +kernel
/-- Records: one that was sent and not answered. AParkedSeat: a saved task whose seat waits at a notification. -/
def aRecord : FaultRec := { FaultRec.empty 0 0 with code := 0x42, sub := 1, sent := true }
def parkedTask : State :=
  pooledTask (fun t => { t with saved := true, saveBase := 0xF000000000, savedWaits := [(th 0, .recv 964 20 (.v 4) 0 true 9)] }) fits
theorem witness_records :
    aRecord.sent = true ∧ aRecord.answer = none ∧ ¬(aRecord.code = 0x50 ∧ aRecord.sub = 3) ∧
    lookupKey (theTask parkedTask).savedWaits ⟨0, 0, 0⟩ = some (.recv 964 20 (.v 4) 0 true 9) ∧ parkedTask.mem.wf = true ∧
    isMgmt 0xF000000000 = false ∧
    physValue parkedTask ((theTask parkedTask).saveBase.toNat + imgPlace (taskNode parkedTask (theTask parkedTask)) 0 0 +
      imgSecOff 48 16 (imgAcc (taskNode parkedTask (theTask parkedTask)) 0) 3) 8 ≤ 48 := by and_intros <;> decide +kernel
/-- ImageSections: a `bsave` of the monitor bench in flight, for bench 0 of its core. -/
def savingFlight (restore : Bool) : Flight :=
  ⟨0, 0, 0, 64, 0, some 0, 1, [], [], [], [], .image restore 3 (boundedCap 0x20000000 0x3C4 0 0x20000000 0x30000000 true), 0, []⟩
theorem witness_sections : ∀ r ∈ [true, false],
    let s := withFlight (savingFlight r) inMonitor;
    (s.flights.map (·.id)).Nodup ∧ Shaped (flightBench s (savingFlight r)) ∧ (flightBench s (savingFlight r)).task = 0 ∧
      (getCore s 0).tregs.tbench.toNat = 0 ∧ isMgmt 0x20000000 = false ∧ s.mem.wf = true ∧
      (findTask s (getBench s 0 0).task).isSome = true := by unfold Shaped; decide +kernel
/-! ### Witnesses for the board, revocation and the Registrar -/

/-- A member of board group 15 with a queue, the pass or not; a frame of another member. -/
def aMember (holds : Bool) (queue : List QueuedPost) : BoardGroup :=
  ⟨1, [0, 1], 0, true, true, 0, holds, 4, [], 0, queue, [], 0, none, false, 0, [(1, 3)], [⟨2, 1, 2, 3⟩, ⟨1, 0, 4, 0⟩]⟩
def onBoard (g : BoardGroup) (s : State) : State := { s with board := [(15, g)] }
def aPost (sent : Option Nat) : QueuedPost := ⟨1, th 1, 0, 1, 2, 3, sent⟩
def aFrame (n src kind : Nat) (gen : Word32) : Frame := sealFrame ⟨n, src, kind, 1, 0, 0, 4, 0, 0, gen, 0⟩
/-- HallPass: no pass, a pass with nothing queued, and one with a post that is ready. -/
theorem witness_hall_pass :
    (lookupKey (onBoard (aMember false []) lane).board 15).map (·.holds) = some false ∧ (aMember true []).members ≠ [] ∧
    ({ aMember true [aPost none] with service := [] } : BoardGroup).service = [] ∧ [aPost none].Nodup ∧
    (∀ x ∈ [aPost none], x.sent = none ∧ postReady lane x = true) := by and_intros <;> decide +kernel
/-- PostsAreAccepted: seat 1 waits for post 5, or for its own. -/
theorem witness_accepted :
    (∀ w ∈ [Wait.bwait 15 (.v 4) 0, .bwait 15 (.v 4) 5, .bpost 15 (.v 4)],
      (getSeat (getBench (seat1Waits w lane) 0 0) 1).state = .blocked w ∧ Shaped (getBench (seat1Waits w lane) 0 0)) ∧
    (aFrame 5 1 0 0).number = (aMember true []).last + 1 ∧ (aMember true []).last + 1 < (aFrame 6 1 0 0).number ∧ (aFrame 5 1 0 0).source ≠ lane.pkg ∧
    ((aMember true [aPost (some 5)]).queue.find? fun x => x.sent == some 5) = some (aPost (some 5)) ∧
    liveBench lane (curTask lane) (th 1) = some (0, 0) ∧ (aFrame 5 1 0 1).gen ≠ (aMember true []).gen := by
  unfold Shaped; and_intros <;> decide +kernel
/-- MembersKeep: a pass frame for this member, one with a damaged frame before it, one of a second regeneration; a join. -/
theorem witness_members :
    bits (aFrame 0 1 5 0).w1 5 0 ≠ (aFrame 0 1 5 0).member ∧ (aMember false []).aside = [] ∧
    ({ aMember false [] with aside := [aFrame 5 1 0 0] } : BoardGroup).last < ({ aFrame 0 1 5 0 with w0 := 5 } : Frame).w0.toNat ∧
    bits ({ aFrame 0 1 5 0 with w1 := 1 } : Frame).w1 5 0 = (aFrame 0 1 5 0).member ∧ (aFrame 0 1 5 0).source ≠ lane.pkg ∧
    ({ aMember false [] with isMember := false, rejoin := true } : BoardGroup).rejoin = true ∧ bits (aFrame 0 1 4 0).w1 10 0 = lane.pkg ∧ bits ({ aFrame 0 1 4 0 with w0 := 0 } : Frame).w0 5 0 = (aMember false []).me := by
  and_intros <;> decide +kernel
/-- TheBell: locked and not; a beacon of stratum 4, and one of stratum 1. -/
theorem witness_bell :
    State.reset.lock.locked = false ∧ (∀ m ∈ (aMember false []).strata, m.1 = 0 ∨ 2 < m.2) ∧ 4 ≤ bits ({ aFrame 0 1 1 0 with w1 := 4 } : Frame).w1 7 0 ∧
    bits ({ aFrame 0 1 1 0 with w1 := 1 } : Frame).w1 7 0 < 4 ∧ State.reset.lock.stratum ≠ 0 ∧ State.reset.nextTask = 1 ∧
    ([15].Nodup) := by and_intros <;> decide +kernel
/-- Notices, the sweep, the end of a revocation: one not joined, one being swept, one that is swept and one of a destruction. -/
def rev (joined swept : Bool) (waits : List Nat) : Revocation := ⟨1, 4, 0x10001000, 0x1000, joined, swept, waits, 0, none, none⟩
def revoking (r : Revocation) (step : Nat) : State :=
  alsoObjs [⟨964, 40, 0, 0, false, false, .notification 0 []⟩, ⟨970, 41, 0, 0, true, true, .key ⟨1, false, [], 0, none, false, []⟩⟩]
    (firstObjs [⟨962, 4, 0, 0, false, false, .aspace { ASpace.none_ with revn := objCap 964 40 0x3C1 }⟩]
      { lane with quarantine := [r], sweepStep := step })
theorem witness_revocation :
    (1 ≠ lane.pkg) ∧ sweeping (revoking (rev true false []) 1) (rev true false []) ∧ sweeping (revoking (rev true false []) 4) (rev true false []) ∧
    (rev false false []).joined = false ∧ capIn (rev true false []) (readC (getBench lane 0 0) 1 0) = true ∧
    taskSpaceNum (revoking (rev true false []) 1) (curTask lane) = 4 ∧ capNum (aspaceObj (revoking (rev true true []) 0) 4).revn = 40 ∧
    objGone (revoking (rev true true []) 0) 964 40 = false ∧ revokeQuiet (revoking (rev true true []) 0) (rev true true []) = true ∧
    (rev true true [7]).waitFor ≠ [] ∧ (rev true true [7]).deadline.toNat ≤ lane.bell.toNat ∧
    (findObj (revoking ⟨1, 4, 0, 0, true, true, [], 0, none, some (970, 41)⟩ 0) 970 41).isSome = true := by
  unfold sweeping; and_intros <;> decide +kernel

/-- A hart that waits for the Registrar with hc4, and objects of each kind that it operates on. -/
def asking : State :=
  { alsoObjs [⟨960, 50, 0, 0, false, false, .untyped 0x40000000 0x1000⟩, ⟨967, 51, 0, 0, false, false, .graph { aGraph with edges := [(0, 0, false)] }⟩,
      ⟨969, 52, 0, 0, false, false, .carve 0 0 2 31 [] none⟩, ⟨970, 53, 0, 0, false, true, .key ⟨1, false, [], 0, none, false, []⟩⟩,
      ⟨964, 54, 0, 0, true, false, .notification 0 []⟩, ⟨965, 55, 0, 0, false, false, .sched 0xF false 1000 [(3, 1)]⟩] (firstObjs [node2 aNode] lane) with
    harts := [(0, { Hart.reset with wait := .xcall 0 true 4 true true })], exportSlots := [(0, 4)] }
def ask (type num : Nat) (w1 w2 : Word) : RegReq := ⟨.hart 0, objCap type num 0x3C1, w1, w2, true⟩
/-- RequestsAreChecked: untagged, of another type, without INVOKE; none, gone, busy; and one that is accepted, for each operation. -/
theorem witness_requests :
    (getHart asking 0).wait = .xcall 0 true 4 true true ∧ (getHart asking 0).x.length = 32 ∧ (getHart asking 0).hc.length = 16 ∧
    Cap.null.tag = false ∧ capSeal (objCap 963 1 0x3C1) ≠ 960 ∧ hasPerm (objCap 960 50 0x3C0) .invoke = false ∧
    findObj asking 960 99 = none ∧ (findObj asking 964 54).map (·.dead) = some true ∧ (findObj asking 970 53).map (·.busy) = some true ∧
    ([(960, 50), (967, 51), (969, 52), (965, 55), (962, 4)].all fun e => let c := (ask e.1 e.2 0 0).cap
      c.tag && capSeal c == e.1 && hasPerm c .invoke && capNum c == e.2 &&
        match findObj asking e.1 e.2 with
        | some o => !o.dead && !o.busy
        | none => false) = true := by and_intros <;> decide +kernel
/-- Create: room in the untyped, and none; a free key identifier and seal type; a context's block at a hart's address. -/
theorem witness_create :
    lowestRun (takenRuns asking 50) 0x40000000 0x40001000 64 64 = some 0x40000000 ∧ lowestRun [(0, 64)] 0 64 64 64 = none ∧
    freeKid asking = some 2 ∧ freeSealType asking = some 1 ∧
    (match readBlock { asking with mem := memStore State.reset.mem 0x50000010 [0xE8, 3] false } (.hart 0) 0x50000000 24 with
      | some b => blkN b 8 1 == 0 && blkN b 0x10 8 == 1000
      | none => false) = true := by and_intros <;> decide +kernel
/-- TheRegistrarGives, Changes, Stops: what each clause asks beyond an accepted request. -/
def travelCap : Cap := withSeal (boundedCap 0x10001000 0x3C2 0 0x10001000 0x10002000 true) 1009 true
def boundSched : State := { asking with cores := (1, Core.reset) :: asking.cores }
theorem witness_registrar :
    (0x20000000 : Word).toNat + (0x1000 : Word).toNat ≤ 2 ^ 64 ∧ windowEnd ≤ (0x20000000 : Word).toNat ∧ (0 : Word).toNat < windowEnd ∧ 2 ^ 64 < (0xFFFFFFFFFFFFFFFF : Word).toNat + (2 : Word).toNat ∧
    (graphOf asking 51).edges.length = 1 ∧ travelCap.tag = true ∧ capSeal travelCap = 1009 ∧ capE travelCap < 48 ∧
    remotePkg (capCursor travelCap) = asking.pkg ∧ slotSpace asking (remoteSlot (capCursor travelCap)) = some 4 ∧
    requestQuarantined asking 4 0x10001000 0x10002000 = false ∧ requestQuarantined laneQuarantine 4 0x10001000 0x10002000 = true ∧
    (∀ e, e < 64 → ttByte (getCore boundSched 1) e < 128) ∧ (∃ k, k < 8 ∧ k ∉ slotsTaken boundSched 1) ∧
    lookupKey [(3, 1)] 3 = some 1 ∧ contextResident asking 55 3 = false ∧ contextResident lane 5 0 = true ∧
    (aspaceObj lane 4).hspan.toNat % 0x200000 = 0 ∧ (0x200000 : Word).toNat < (aspaceObj lane 4).hlimit.toNat ∧
    taskSpaceNum lane (curTask lane) = 4 ∧ (aspaceObj lane 4).exportSlot = none ∧ binFree asking 51 0 = 2 ∧
    (readBlock asking (.hart 0) 0x50000000 16).isSome = true := by and_intros <;> decide +kernel
theorem witness_registrar_stops :
    (0x10001000 : Word).toNat % 16 = 0 ∧ (0x1000 : Word).toNat ≤ 2 ^ 57 ∧ (asking.quarantine.filter fun r => r.target.isNone).length < 256 ∧
    (graphOf asking 51).parking.isNone = true ∧ (asking.tasks.filter fun T => T.graph == 51) = [] ∧
    (∃ T ∈ lane.tasks, T.graph = 1 ∧ T.cores ≠ [] ∧ T.phase = .running) ∧ onCore asking 9 = false ∧
    capSeal (ask 963 20 0 0).cap = 963 ∧ (getSeat (getBench (atEndpoint [⟨seat1, ⟨1, 2, 3, Cap.null⟩, 0, false, true⟩] [] (.send 20)) 0 0) 1).state = .blocked (.send 20) := by
  and_intros <;> decide +kernel
/-- RingsAreServed: a ring with one request, which the allocation service can answer, and not. -/
def serving (runs : List (Nat × Nat)) (entry : List (Nat × Nat)) : State :=
  { alsoObjs [⟨971, 21, 0, 0, false, false, .ring 0 4 0x30000000 22 [] 0⟩] lane with
    pools := [⟨4, [21], runs⟩]
    mem := (entry ++ [((0x30000000 : Nat), (1 : Nat))]).foldl (fun (m : Mem) (e : Nat × Nat) => memStore m e.1 (bytesLE 8 e.2) false) State.reset.mem }
def goodEntry : List (Nat × Nat) := [(0x30000058, 1), (0x30000060, 0x100), (0x30000068, 0x3C0)]
theorem witness_rings :
    (ringOf (serving [] goodEntry) 21).map (·.2.2.1) = some 0x30000000 ∧ memValue (serving [] goodEntry).mem 0x30000000 4 = 1 ∧
    memValue (serving [] goodEntry).mem 0x30000058 8 = 1 ∧ memValue (serving [] goodEntry).mem 0x30000060 8 = 0x100 ∧
    (0x3C0 : Nat) &&& 0x3C4 = 0x3C0 ∧ takeRun [] (ceilPow 0x100 (allocExp 0x100)) (2 ^ allocExp 0x100) 0x20000000 = none ∧
    (takeRun [(0x10001000, 0x1000)] (ceilPow 0x100 (allocExp 0x100)) (2 ^ allocExp 0x100) 0x20000000).map (·.1) = some 0x10001000 := by
  and_intros <;> decide +kernel
/-! ### Witnesses for bring-up, attestation, management, harts, steps and clocks -/

/-- BringUp: each state of a round; a timer that has run out; group 0 with this package as a member. -/
def booting (st : BootState) (leader : Option Nat) (timer : Option Word) : State :=
  { State.reset with
    boot := { Boot.reset with state := st, leader := leader, timer := timer }
    mgmt := { State.reset.mgmt with bootcfg := 0x8000000000000000 } }
theorem witness_boot :
    (booting .elect none none).boot.past = [] ∧ (booting .load (some 3) none).boot.closed = false ∧ (booting .load (some 3) (some 0)).boot.timer = some 0 ∧
    (booting .elect none none).mgmt.bootcfg.getLsbD 63 = true ∧ (0 : Word) ≤ State.reset.bell ∧ ((onBoard { aMember false [] with number := 0 } State.reset).board.map (·.1)).Nodup ∧
    ({ aMember false [] with number := 0 } : BoardGroup).isMember = true := by and_intros <;> decide +kernel
/-- ACheckedImage: whether a signature holds and what a hash is are the package's (`Config`), so an image that is accepted is given
for any that accept one; an image without bytes is not. -/
theorem witness_image (sig : ∀ h x, Config.signatureOk h x = true) (len : (Config.sha384 []).length = 48) (svn : bits State.reset.mgmt.svnmin 15 0 = 0) :
    let image := [(0x51 : Byte), 0x4F, 0x42, 0x39, 1, 0, 0, 0, 0, 0, 0, 0, 0, 0, 0, 0] ++ Config.sha384 [] ++ List.replicate 128 0
    let n := fun (o k : Nat) => valueLE ((image.drop o).take k)
    let payload := (image.drop 0xC0).take (n 8 8)
    n 0 4 = 0x39424F51 ∧ n 4 2 = 1 ∧ bits State.reset.mgmt.svnmin 15 0 ≤ n 6 2 ∧
      Config.signatureOk (image.take 0x40) ((image.drop 0x40).take 0x60) = true ∧ payload.length = n 8 8 ∧
      Config.sha384 payload = (image.drop 0x10).take 48 := by
  have n8 : valueLE ((([(0x51 : Byte), 0x4F, 0x42, 0x39, 1, 0, 0, 0, 0, 0, 0, 0, 0, 0, 0, 0] ++ Config.sha384 [] ++
      List.replicate 128 0).drop 8).take 8) = 0 := by simp; decide
  dsimp only
  rw [n8]
  refine ⟨by simp; decide, by simp; decide, by rw [svn]; exact Nat.zero_le _, sig _ _, by simp, ?_⟩
  simp [len]
theorem witness_no_image : ¬valueLE ((([] : List Byte).drop 0).take 4) = 0x39424F51 := by decide
/-- KeyObjects: a key before and after each part of a negotiation, and inside a session; a payload that is formed. -/
def aKey (n : Nat) (ses : Option Nat) (fin rel : Bool) : KeyObj := ⟨1, rel, [], n, ses, fin, []⟩
def withKey (k : KeyObj) : State := alsoObjs [⟨970, 60, 0, 0, false, false, .key k⟩] lane
def payload : List Byte := [1, 1, 0, 0] ++ List.replicate 32 7 ++ List.replicate 32 8
theorem witness_keys :
    (∀ n ∈ [0, 1, 2, 3], (findObj (withKey (aKey n none false false)) 970 60).map (·.data) = some (.key (aKey n none false false))) ∧
    (aKey 3 (some 5) true false).session = some 5 ∧ (aKey 3 (some 5) true true).released = true ∧ payload.length = 68 ∧
    valueLE (payload.take 1) = 1 ∧ valueLE ((payload.drop 1).take 1) = 1 ∧ (payload.drop 4).take 32 ≠ (payload.drop 36).take 32 := by
  and_intros <;> decide +kernel
/-- Management: an interrupt line of vector 255 bound to a notification. -/
def withLine : State := alsoObjs [⟨966, 61, 0, 0, false, false, .irq 255 63 62⟩, ⟨964, 62, 0, 0, false, false, .notification 0 []⟩] lane
theorem witness_management :
    (withLine.objs.filter fun x => !x.dead && match x.data with
      | .irq src _ _ => src == 255
      | _ => false) = [⟨966, 61, 0, 0, false, false, .irq 255 63 62⟩] ∧
    (findObj withLine 964 62).map (·.data) = some (.notification 0 []) ∧ State.reset.boot.state = .rom ∧ lane.boot.state ≠ .rom := by
  and_intros <;> decide +kernel
/-- Hart 0 in supervisor mode with stores that it has made. -/
def withStores (es : List HartStore) : State := { lane with harts := [(0, { Hart.reset with mode := .supervisor, stores := es })] }
/-- HartsAccess: a hart that runs and one that waits, at an address with and without poison. -/
theorem witness_hart_access :
    lane.mem.wf = true ∧ (getHart lane 0).x.length = 32 ∧ (getHart lane 0).hc.length = 16 ∧ isRegSpace 0x20000000 = false ∧
    isHotSpace 0x20000000 = false ∧ outOfReach 0x20000000 = false ∧ (ringAt lane 0x20000000).isNone = true ∧ (getHart lane 0).stores = [] ∧
    (∀ b ∈ [true, false], (getHart (withStores [⟨0x20000000, 4, 7, b⟩]) 0).stores = [⟨0x20000000, 4, 7, b⟩]) ∧
    (getHart (withStores [⟨0x20000000, 4, 7, true⟩]) 0).mode ≠ .machine ∧
    (ringAt (atRing State.reset.mem) 0x20000008).isSome = true ∧ isRegSpace 0x20000008 = false ∧ isHotSpace 0x20000008 = false ∧
    (∀ j, j < 8 → memPoison lane.mem (0x20000000 + j) = false) ∧
    memPoison (memStore lane.mem 0x20000000 (List.replicate 16 0) true) 0x20000000 = true ∧ 0x20000000 % 16 = 0 ∧
    (getHart lane 0).wait = .none ∧ (getHart asking 0).wait = .xcall 0 true 4 true true ∧
    (hartWord lane (getHart lane 0)).any isCustom0 = false ∧
    (let s := placeWord State.reset 32 0x0105010B
     (hartWord s (getHart s 0)).any isCustom0) = true := by and_intros <;> decide +kernel
/-- R1: an instruction of RISC-V leaves a register and the pc as it says. -/
theorem test_hart_own : (match exec (.hostHartAccess 0 0 (.own 5 7 0x1004 (some (.satp, 9)))) lane with
    | .next t => getX (getHart t 0) 5 == 7 && (getHart t 0).pc == 0x1004 && (getHart t 0).satp == 9
    | _ => false) = true := by decide +kernel

/-- AStepRuns: a bench inside a clause at an add, one at its header, a hart at `hcmov`, an event of the state and one of the agenda,
nothing to do, and a package out of service with and without a reset. -/
def placed : State := placeWord State.reset 32 0x00C40805
def only (i : Option Instr) (s : State) : Bool :=
  match acts s with
  | [.pass 0 0 p] => (match p.kind with
    | .instr j => some j == i
    | _ => false) && (match planBench s 0 0 with
    | .pass q => q.seats == p.seats && q.start == p.start && q.pc == p.pc && q.len == p.len
    | _ => false)
  | _ => false
theorem witness_step_pass : (getBench (choosing placed 0 0) 0 0).mode = .running ∧ outOfService placed = false ∧ only (decode32 0x00C40805).toOption placed = true ∧
    (getBench placed 0 0).mode = .running ∧ (getBench placed 0 0).misses = [] ∧ eligibleSeats (getBench placed 0 0) ≠ [] ∧
    (match fetchAt (selectPass (choosing placed 0 0) 0 0 0
        (lowestWord ((baseSeats (getBench (choosing placed 0 0) 0 0)).map fun k => (getSeat (getBench (choosing placed 0 0) 0 0) k).pc)) 4)
        (BitVec.ofNat 64 placeAddr) with
      | .ok (f, _) => f.word == 0x00C40805 && f.len == 4 && !f.isHeader
      | .error _ => false) = true := by and_intros <;> decide +kernel
def atHeader : State :=
  withBench (fun b => { b with seats := b.seats.map fun x => { x with must := 1 } })
    { placed with mem := memStore placed.mem placeAddr (bytesLE 4 0x07F80101 ++ bytesLE 4 0x00C40805) false }
theorem witness_step_header : only (decode32 0x00C40805).toOption atHeader = true := by decide +kernel
theorem witness_step_others :
    (match acts (placeWord State.reset 32 0x0105010B) with
      | [.hart 0] => true
      | _ => false) = true ∧
    (match acts { placed with cores := [], tasks := [], agenda := [.bellUnlock] } with
      | [.agenda 0] => true
      | _ => false) = true ∧
    (acts { placed with cores := [], tasks := [] }).isEmpty = true ∧ outOfService { State.reset with stopped := true } = true ∧
    fetchPoison { State.reset with mem := memStore State.reset.mem 0x1000 (List.replicate 16 0) true, harts := [(0, { Hart.reset with pc := 0x1000 })] } 0 = some 0x1000 ∧
    Event.packageReset ∈ ({ State.reset with agenda := [.packageReset] } : State).agenda := by and_intros <;> decide +kernel
/-- TheDeansClocks: the invariants hold at reset, and in a state whose tasks have their clocks running. -/
theorem witness_clocks : ParkClockInv State.reset ∧ StarvedClockInv State.reset ∧ ParkClockInv parkedSeats ∧ StarvedClockInv starving := by
  unfold ParkClockInv StarvedClockInv; and_intros <;> decide +kernel
/-! ### Witnesses for what happens later, for combined atomics, and for what the Registrar gives -/

/-- Every place of a list is performed at once where it stands. -/
def allNow (u : State) (n : Nat) (ps : List (Nat × Place)) : Bool :=
  ps.all fun p => match p.2 with
    | .win a => !winHeld u p.1 a n
    | .mem _ _ => !onMonitor u
    | .remote _ => false
/-- Loads, StoresPut: performed at their issue. -/
theorem witness_performed_now :
    (∀ i ∈ [Instr.ldImm 2 .d 1 (.v 3), .ldsImm 3 .w 2 (.v 3)],
      (formChecks lane i ((loadForm lane i).map (·.1)) [.ld] .load fun ps u => allNow u 8 ps) = true) ∧
    (∀ i ∈ [Instr.stImm 2 .d 1 (.v 3), .stsImm 3 .w 2 (.v 3)],
      (formChecks lane i ((dataStore lane i).map (·.1)) [.st] .store fun ps u => allNow u 8 ps && !u.sel.late) = true) := by
  and_intros <;> decide +kernel
/-- StoresMayBeMadeLater, Atom: passes that are not performed at their issue. -/
def laneLate : State := { lane with sel := { lane.sel with late := true } }
def laneLate1 : State := { lane1 with sel := { lane1.sel with late := true } }
theorem witness_late_pass :
    (formChecks laneLate (.stImm 2 .d 1 (.v 3)) ((dataStore laneLate (.stImm 2 .d 1 (.v 3))).map (·.1)) [.st] .store fun ps u =>
      u.sel.late && ps.length == 2) = true ∧
    given (accessChecks laneLate1 (.atomRelaxed .add (.v 0) .die false 1 (.v 3)) 1 (exactAddr laneLate1 1 (byReg laneLate1 (plainSrc (.v 0))))
      ⟨[.ld, .st], 8, .glob, 8, 4, .rmw⟩ (fun _ _ => none)) (fun ps u => u.sel.late && (ps.map (·.1) == [0])) = true := by
  and_intros <;> decide +kernel
/-- The same, in flight: a store of 4 bytes to the heap, and an `atom` of v3. -/
def lateItem (n v : Nat) : WinItem := ⟨0, 0x10001010, n, v, false, false, 0, 1, (List.range n).map (0x10001010 + ·), []⟩
def lateStore : Flight := flightOf [] (.stagedStore [lateItem 4 7])
def lateAtom : Flight := flightOf [.v 3] (.stagedAtom .loc .add false .relaxed true [lateItem 8 5])
theorem witness_late_store :
    inFlight (withFlight lateStore laneLive) lateStore ∧ readyItems (withFlight lateStore laneLive) lateStore = [lateItem 4 7] ∧
    (findTask (withFlight lateStore laneLive) lateStore.task).isSome = true ∧ windowEnd ≤ (lateItem 4 7).addr.toNat ∧
    flightCoreT (withFlight lateStore laneLive) lateStore < (curTask laneLive).cores.length := by
  unfold inFlight Shaped; and_intros <;> decide +kernel
theorem witness_late_atom :
    inFlight (withFlight lateAtom laneLive) lateAtom ∧ readyItems (withFlight lateAtom laneLive) lateAtom = [lateItem 8 5] ∧
    (findTask (withFlight lateAtom laneLive) lateAtom.task).isSome = true ∧ (curTask laneLive).dieHold = [] ∧
    (∀ c ∈ (curTask laneLive).cores, c.hold = []) ∧ memPoison laneLive.mem 0x10001010 = false ∧ laneLive.mem.wf = true := by
  unfold inFlight Shaped; and_intros <;> decide +kernel
/-- The store enters the hold when it is accepted; the atomic adds to what memory holds. -/
theorem test_late_store :
    after (exec (.storeAccepted 0) (withFlight lateStore laneLive)) (fun t =>
      ((findTask t 1).map fun x => holdByte (taskCore x 0).hold 0x10001010, t.flights.isEmpty)) = some (some (some 7), true) := by decide +kernel
theorem test_late_atom :
    after (exec (.atomicComplete 0 []) (withFlight lateAtom { laneLive with mem := memStore laneLive.mem 0x10001010 [37] false })) (fun t =>
      (v3 t, memValue t.mem 0x10001010 8, t.flights.isEmpty)) = some (37, 42, true) := by decide +kernel
/-- Messages, Notifications, Group: a seat with a load outstanding. -/
theorem witness_outstanding :
    accessesDone (withFlight (loadFlight (.v 9)) atReply) 0 0 0 = false ∧
    ∀ e ∈ endpointCases.drop 4, accessesDone (withFlight (loadFlight (.v 9)) e.1) 0 0 0 = false := by
  and_intros <;> decide +kernel
/-- Pushes and marks: a path to package 1, and none; a mark that waits for an earlier request. -/
def withPath (s : State) : State := { s with links := [⟨2, 1, true⟩], paths := [pathTo [2] none] }
theorem witness_push_path :
    (livePaths (withPath remoteBuf) (pathSetOf (withPath remoteBuf) 1)).length = 1 ∧ (withPath remoteBuf).remote = [] ∧
    (withPath remoteBuf).flights = [] ∧ remotePkg (capCursor (readC (cur (withPath remoteBuf)) 3 0)) = 1 ∧
    (pushFault (withPath remoteBuf) (.push 1 false (.v 6) 3) 1 3 (.v 6) 0).isNone = true ∧
    (markFault (withPath remoteBuf) (.mark 3) 3 0).isNone = true := by and_intros <;> decide +kernel
/-- The reservation goes out on the path of its buffer. -/
theorem test_push_goes_out :
    after (exec (.push 1 false (.v 6) 3) (withPath remoteBuf)) (fun t => t.outbox.map fun m => match m with
      | .reserve p l _ => (p, l)
      | _ => (0, 0)) = some [(1, 2)] := by decide +kernel
/-- PushesAndMarks: a source that can be read, and one behind an earlier store of its seat that waits. -/
def winPush : Flight := flightOf [.v 3] (.push 0 1 (.v 3) none (boundedCap 0x100 0x3C0 0 0x100 0x200 true) remoteCap 16)
theorem witness_push_source :
    inFlight (withFlight winPush laneLive) winPush ∧ pushReadable (withFlight winPush laneLive) winPush (boundedCap 0x100 0x3C0 0 0x100 0x200 true) 16 = true ∧
    (0x100 : Nat) + 16 ≤ windowEnd := by unfold inFlight Shaped; and_intros <;> decide +kernel
/-- Combined: two packages add to one location in the heap of an export slot. -/
def combined (k : Nat) : RemoteReq := { remoteReq (.atomic .add false [(BitVec.ofNat 64 (k + 1), 0)]) with src := k + 1, reqId := k }
theorem witness_combined :
    ([combined 0, combined 1].map (·.src)).Nodup ∧ slotSpace exporting (combined 0).slot = some 4 ∧
    (∀ r ∈ [combined 0, combined 1], r.slot = 0 ∧ r.va = (combined 0).va ∧ r.pas = (combined 0).pas ∧ (refuses exporting r.src).isNone = true ∧
      behindMark exporting r = false ∧ reqExpired exporting r = false ∧ requestQuarantined exporting 4 r.base r.top = false) ∧
    (∀ p ∈ (combined 0).pas, (poolCheck exporting p).isNone = true) ∧
    (combined 0).pas.map (poolPlace exporting) = (List.range 8).map (0x10001000 + ·) := by and_intros <;> decide +kernel
theorem test_combined :
    after (exec (.libraryAtomCombine [combined 0, combined 1]) exporting) (fun t => (memValue t.mem 0x10001000 8, t.outbox.map fun m => match m with
      | .answer p _ vs => (p, vs.map (·.1))
      | _ => (0, []))) = some (3, [(1, [0]), (2, [1])]) := by decide +kernel
/-- Grants, RemoteAccesses: a fenced package; a place whose line stands under the key identifier of its address. -/
theorem witness_fenced :
    (∃ x ∈ ({ paged with fenced := [⟨1, 5, 6, 7, false⟩] } : State).fenced, x.pkg = 1) ∧
    (match hubWalk paged (aspaceObj paged 4) 0x40001000 .load with
      | .error (.page k) => k == 1
      | _ => false) = true ∧
    (match hubWalk paged (aspaceObj paged 4) 0x40000000 .load with
      | .ok (pa, some _, _) => pa == 0x60000000
      | _ => false) = true ∧ viewed exporting.mem 0x10001000 = true := by and_intros <;> decide +kernel
/-- SlotBuffers: a queue that is full. -/
def aReserve (n : Nat) : PushReq := ⟨1, n, 0, 0x10002000, 0x10002000, 0x10003000, 64, false, none⟩
def queueFull : State :=
  { bufferFull with pushBufs := [⟨0, 0x10002000, (List.range 256).map aReserve, []⟩] }
theorem test_queue_full :
    after (exec (.pushReserve (aReserve 300)) queueFull) (fun t => t.outbox == [.refusal 1 (.queueFull 300) 0]) = some true := by decide +kernel
/-- AbortedTasks: nothing is under way for the task; a granted push is. -/
def granted : State := withFlight (flightOf [.v 3] (.push 0 1 (.v 3) (some 0) Cap.null remoteCap 16)) lane
theorem witness_aborts :
    (∀ a ∈ lane.aborts, a.1 ≠ 1) ∧ pushesOut lane 1 = false ∧ (∀ a ∈ granted.aborts, a.1 ≠ 1) ∧ (granted.flights.map (·.id)).Nodup ∧
    pushesOut granted 1 = true := by and_intros <;> decide +kernel
/-- TasksRetire: nothing of the storers is out, and something is. -/
theorem witness_storers : storersOut (storing []) 1 = false ∧
    storersOut { storing [] with stageReqs := [⟨0, 1, 0, 1, 0, 0, remoteReq (.store [1] false false), true, true⟩] } 1 = true := by
  and_intros <;> decide +kernel
/-- APageMigrates: the shootdown's EXPIRY has not passed, and has. -/
theorem witness_migration_expiry : (frozenPage paged).bell < (3000000 : Word) ∧ (1000000 : Word) ≤ (frozenPage paged).bell ∧
    liveExpiries (frozenPage cachedPage) (some 0) 0x40000000 0x1000 = [3000000] ∧ liveExpiries paged (some 0) 0x40000000 0x1000 = [] := by
  and_intros <;> decide +kernel
/-- Posts, membership, beacons, notices: frames whose CHECK is correct, and of each kind. -/
theorem witness_frames :
    (∀ f ∈ [aFrame 5 1 0 0, aFrame 0 1 5 0, aFrame 0 1 4 0, aFrame 0 1 1 0, aFrame 0 1 2 0], frameOk f = true) ∧
    frameOk { aFrame 5 1 0 0 with w0 := 9 } = false ∧ (aFrame 0 1 2 0).kind = 2 ∧
    bits (sealFrame { aFrame 0 1 2 0 with w0 := BitVec.ofNat 64 (2 ^ 53) }).w0 63 53 ≠ lane.pkg ∧
    (lookupKey (onBoard (aMember false []) lane).board 15).map (·.isMember) = some true := by and_intros <;> decide +kernel
/-- R434: the CHECK of a frame, as IEEE 802.3's CRC-32 of its 60 bytes gives it (by zlib). -/
theorem test_frame_check : (sealFrame ⟨5, 3, 0, 1, 7, 9, 4, -1, 6, 2, 0⟩).check = 0x0594870E := by decide +kernel
/-- BringUp: a frame of each message in group 0, and the boot word where there is none; package 0 may claim, and 1 where it is a
candidate. -/
def election (k : Nat) (w0 : Word) : Frame := sealFrame ⟨0, k, 3, k, 0, 0, w0, 0, 0, 0, 0⟩
def grouped (st : BootState) (leader : Option Nat) : State :=
  onBoard { aMember false [] with number := 0, me := 0, gen := 0, members := [0, 1] } (booting st leader none)
theorem witness_election :
    (electionGroup (grouped .elect none)).map (·.1) = some 15 ∧ (electionGroup (booting .elect none none)).isNone = true ∧
    (∀ e ∈ [(0, election 0 0), (1, election 0 0x4000000000000000), (2, election 0 0x8000000000000000)],
      frameOk e.2 = true ∧ e.2.gen = 0 ∧ e.2.kind = 3 ∧ bits e.2.w0 63 62 = e.1 ∧ bits e.2.w0 47 32 = 0 ∧ bits e.2.w0 10 0 = 0) ∧
    (grouped .elect none).mgmt.bootcfg.getLsbD 63 = true ∧ (grouped .load (some 0)).boot.closed = false ∧
    bits (bootWord 0 1 0) 63 48 = 0 ∧ bits (bootWord 0 1 0) 47 46 = 1 ∧ (booting .elect none none).pkg = 0 ∧
    ({ Boot.reset with asked := [0] } : Boot).asked.contains 0 = true := by and_intros <;> decide +kernel
/-- A CLAIM of this package that comes round names it the leader, and the load starts. -/
theorem test_claim : after (exec (.bootClaim 15 (.frame (election 0 0))) (grouped .elect none)) (fun t =>
    (t.boot.state, t.boot.leader, t.outbox.length)) = some (.load, some 0, 1) := by decide +kernel
/-- ACheckedImage: bytes that come while the round is open, and after it has closed. -/
theorem witness_load :
    (booting .load (some 0) none).boot.state = .load ∧ (booting .load (some 0) none).boot.closed = false ∧
    ({ booting .load (some 3) none with boot := { (booting .load (some 3) none).boot with closed := true } } : State).boot.closed = true ∧
    (booting .verify (some 3) none).boot.state = .verify ∧ (booting .verify (some 3) none).boot.attempts = 0 := by decide
/-- TheRegistrarGives, CreateGives: a region of MEMCAP whose rounding stays where it may, and one whose does not; a child untyped. -/
theorem witness_memcap :
    (let lo := 0x20000000; let hi := lo + 0x1000
     (hi + 1 - 1) / 1 * 1 - lo / 1 * 1 ≤ 3 * 2 ^ 17 ∧ windowEnd ≤ lo ∧ hi ≤ 2 ^ 64) ∧
    (let lo := 0x2000000; let hi := lo + 2 ^ 44; let e := 26
     (hi + 2 ^ e - 1) / 2 ^ e * 2 ^ e - lo / 2 ^ e * 2 ^ e ≤ 3 * 2 ^ (e + 17) ∧ lo / 2 ^ e * 2 ^ e < windowEnd) := by decide
theorem witness_create_untyped :
    (match readBlock { asking with mem := memStore State.reset.mem 0x50000000 [12] false } (.hart 0) 0x50000000 1 with
      | some b => blkN b 0 1 == 12
      | none => false) = true ∧
    lowestRun (takenRuns asking 50) 0x40000000 0x40002000 0x1000 0x1000 = some 0x40000000 ∧
    lowestRun (takenRuns asking 50 ++ [(0x40000000, 0x1000)]) 0x40000000 0x40002000 64 64 = some 0x40001000 := by
  and_intros <;> decide +kernel
/-- Each of them answers a hart that asks. -/
def status (o : Host.Outcome State Fault Refusal) : Option Word := after o fun t => nth (getHart t 0).x 13 9
theorem test_registrar_gives :
    [exec (.create (ask 960 50 963 0)) asking, exec (.mint (ask 967 51 0x77 0x20)) asking, exec (.memcap (ask 962 4 0x20000000 0x1000)) asking,
      exec (.memcap (ask 962 4 0x2000000 0x100000000000)) asking, exec (.carvecap (ask 969 52 0 0)) asking,
      exec (.emitcap (ask 967 51 0 0)) asking, exec (.admitCap ⟨.hart 0, travelCap, 0, 0, true⟩) asking].map status =
      [some 0, some 0, some 0, some 3, some 0, some 0, some 0] := by decide +kernel
/-- KeyObjects: a key exchange for each slot, and a message that is formed for the package's vendor number. -/
theorem witness_exchange : (⟨5, 0, []⟩ : KeyExchange).slot = 0 ∧ (⟨5, 1, []⟩ : KeyExchange).slot ≠ 0 ∧
    (⟨3, 2, Config.vendorId.toNat, payload⟩ : VendorMsg).vendor = Config.vendorId.toNat := by
  refine ⟨rfl, by decide, rfl⟩
/-- HostCapabilityAccesses, HartsAccess: the lines stand under the key identifier of their address; no ring stands there. -/
theorem witness_views :
    viewed lane1.mem 0x20000000 = true ∧ ringAt (atHart .machine 963 []) 0x20000000 = none ∧
    (∀ j, j < 16 → viewed lane.mem (0x20000000 + j) = true) := by and_intros <;> decide +kernel

end Sys2Proof.Tests
end

section
/-!
PROOF. Laws of seat masks, of bit fields and of lists by place.
-/
namespace Sys2Proof.Machine

/-! ## Seats and masks (R4) -/

theorem mem_seatsOf (m : SeatMask) (k : Nat) : k ∈ seatsOf m ↔ m.getLsbD k = true := by
  simp only [seatsOf, List.mem_filter, List.mem_range, and_iff_right_iff_imp]
  exact BitVec.lt_of_getLsbD
theorem nodup_seatsOf (m : SeatMask) : (seatsOf m).Nodup := List.nodup_range.filter _
theorem lt_of_mem_seatsOf {m : SeatMask} {k : Nat} (h : k ∈ seatsOf m) : k < 32 :=
  BitVec.lt_of_getLsbD ((mem_seatsOf m k).mp h)
theorem mem_issued (s : State) (k : Nat) : k ∈ issued s ↔ s.sel.seats.getLsbD k = true := mem_seatsOf _ k
theorem lt_of_mem_issued {s : State} {k : Nat} (h : k ∈ issued s) : k < 32 := lt_of_mem_seatsOf h
theorem getLsbD_seatBit (k j : Nat) : (seatBit k).getLsbD j = (decide (j < 32) && decide (k = j)) := by
  rw [seatBit, BitVec.getLsbD_ofNat, Nat.testBit_two_pow]
theorem sumBits_lt (f : Nat → Bool) (n : Nat) : (List.range n).foldl (fun acc i => acc + (f i).toNat * 2 ^ i) 0 < 2 ^ n := by
  induction n with
  | zero => simp
  | succ n ih =>
    rw [List.range_succ, List.foldl_append, List.foldl_cons, List.foldl_nil, Nat.pow_succ]
    cases f n <;> simp <;> omega
/-- The sum of chosen powers of two has the chosen bits. -/
theorem testBit_sumBits (f : Nat → Bool) (n j : Nat) :
    ((List.range n).foldl (fun acc i => acc + (f i).toNat * 2 ^ i) 0).testBit j = (decide (j < n) && f j) := by
  induction n with
  | zero => simp
  | succ n ih =>
    rw [List.range_succ, List.foldl_append, List.foldl_cons, List.foldl_nil, Nat.add_comm, Nat.mul_comm,
      Nat.testBit_two_pow_mul_add _ (sumBits_lt f n), ih]
    rcases Nat.lt_trichotomy j n with h | rfl | h
    · simp [h, Nat.lt_succ_of_lt h]
    · cases f j <;> simp
    · have hb : (f n).toNat.testBit (j - n) = false :=
        Nat.testBit_lt_two_pow (lt_of_le_of_lt (Bool.toNat_le _) (Nat.one_lt_two_pow (by omega)))
      simp [hb, Nat.not_lt.mpr h.le, Nat.not_lt.mpr (Nat.succ_le_of_lt h)]
theorem getLsbD_maskOf (f : Nat → Bool) (j : Nat) : (maskOf f).getLsbD j = (decide (j < 32) && f j) := by
  rw [maskOf, BitVec.getLsbD_ofNat, testBit_sumBits]
  simp

/-! ## Bit fields -/

/-- `putBits` as a number of three parts. -/
theorem putBits_eq (x lo n v : Nat) :
    putBits x lo n v = 2 ^ lo * (2 ^ n * (x / 2 ^ lo / 2 ^ n) + v % 2 ^ n) + x % 2 ^ lo := by
  have hx := Nat.div_add_mod x (2 ^ lo)
  have hy := Nat.div_add_mod (x / 2 ^ lo) (2 ^ n)
  unfold putBits
  have hz : x / 2 ^ lo % 2 ^ n * 2 ^ lo ≤ x / 2 ^ lo * 2 ^ lo := Nat.mul_le_mul_right _ (Nat.mod_le _ _)
  have hm : 2 ^ lo * (2 ^ n * (x / 2 ^ lo / 2 ^ n)) + x / 2 ^ lo % 2 ^ n * 2 ^ lo = 2 ^ lo * (x / 2 ^ lo) := by
    rw [Nat.mul_comm (_ % _), ← Nat.mul_add, hy]
  rw [Nat.mul_add, Nat.mul_comm (2 ^ lo) (v % 2 ^ n)]
  omega
theorem testBit_putBits (x lo n v i : Nat) :
    (putBits x lo n v).testBit i = if lo ≤ i ∧ i < lo + n then v.testBit (i - lo) else x.testBit i := by
  rw [putBits_eq, Nat.testBit_two_pow_mul_add _ (Nat.mod_lt _ (by positivity)),
    Nat.testBit_two_pow_mul_add _ (Nat.mod_lt _ (by positivity)), Nat.testBit_mod_two_pow, Nat.testBit_mod_two_pow,
    Nat.testBit_div_two_pow, Nat.testBit_div_two_pow]
  rcases Nat.lt_or_ge i lo with h | h
  · simp [h, Nat.not_le.mpr h]
  · rcases Nat.lt_or_ge (i - lo) n with h' | h'
    · have : i < lo + n := by omega
      simp [h, h', Nat.not_lt.mpr h, this]
    · have : ¬ i < lo + n := by omega
      simp [h, Nat.not_lt.mpr h, Nat.not_lt.mpr h', this, Nat.sub_add_cancel h', Nat.sub_add_cancel h]

/-! ## Lists by place -/

theorem length_foldl_setNth {α : Type} (vals : List (Nat × α)) (l : List α) :
    (vals.foldl (fun l v => setNth l v.1 v.2) l).length = l.length := by
  induction vals generalizing l with
  | nil => rfl
  | cons v vals ih => exact (ih _).trans (length_setNth _ _ _)
theorem nth_foldl_setNth {α : Type} (ks : List Nat) (f : Nat → α) (l : List α) (j : Nat) (d : α) (h : ∀ k ∈ ks, k < l.length) :
    nth ((ks.map fun k => (k, f k)).foldl (fun l v => setNth l v.1 v.2) l) j d = if j ∈ ks then f j else nth l j d := by
  induction ks generalizing l with
  | nil => simp
  | cons k ks ih =>
    rw [List.map_cons, List.foldl_cons, ih _ fun i hi => by simpa using h i (List.mem_cons_of_mem _ hi)]
    by_cases hj : j = k
    · subst hj; simp [nth_setNth_same _ _ _ _ (h j List.mem_cons_self)]
    · simp [hj, nth_setNth_other _ _ _ _ _ (Ne.symm hj)]
theorem nth_map {α β : Type} (l : List α) (g : α → β) (k : Nat) (d : α) : nth (l.map g) k (g d) = g (nth l k d) := by
  simp [nth]
theorem nth_eq_default {α : Type} (l : List α) (k : Nat) (d : α) (h : l.length ≤ k) : nth l k d = d := by
  simp [nth, h]
end Sys2Proof.Machine
end

section
/-!
PROOF. Laws of rows (R135, R136, R139): what a seat reads of one, and what the operations on rows do to it.
-/
namespace Sys2Proof.Machine

/-! ## One row -/

/-- What a seat reads of a row: its element, or the default where its live bit is clear. -/
def seatElem {α : Type} (x : Row α) (k : Nat) (d : α) : α := if x.live.getLsbD k then nth x.elems k d else d
/-- The poison of a seat's element of a row. -/
def seatPoison {α : Type} (x : Row α) (k : Nat) : Option Nat :=
  if x.live.getLsbD k && x.poison.getLsbD k then some (rowCause x k) else none
theorem rowRead_eq {α : Type} (rows : List (Row α)) (r k : Nat) (d : α) :
    rowRead rows r k d = (findRow rows r).elim d (seatElem · k d) := by
  unfold rowRead
  cases findRow rows r <;> rfl
theorem rowPoison_eq {α : Type} (rows : List (Row α)) (r k : Nat) :
    rowPoison rows r k = (findRow rows r).elim none (seatPoison · k) := by
  unfold rowPoison
  cases findRow rows r <;> rfl

section RowSet
variable {α : Type} (x : Row α) (k j : Nat) (v d : α) (p : Option Nat)

@[simp] theorem rowSet_reg : (rowSet x k v p).reg = x.reg := rfl
@[simp] theorem length_elems_rowSet : (rowSet x k v p).elems.length = x.elems.length := length_setNth _ _ _
theorem getLsbD_live_rowSet : (rowSet x k v p).live.getLsbD j = (x.live.getLsbD j || (seatBit k).getLsbD j) :=
  BitVec.getLsbD_or
theorem getLsbD_andNot (l m : SeatMask) : (l &&& ~~~m).getLsbD j = (l.getLsbD j && !m.getLsbD j) := by
  rw [BitVec.getLsbD_and, BitVec.getLsbD_not]
  rcases Nat.lt_or_ge j 32 with h | h
  · rw [decide_eq_true h, Bool.true_and]
  · rw [BitVec.getLsbD_of_ge _ _ h, Bool.false_and, Bool.false_and]
theorem getLsbD_poison_rowSet :
    (rowSet x k v p).poison.getLsbD j =
      if p.isSome then x.poison.getLsbD j || (seatBit k).getLsbD j else x.poison.getLsbD j && !(seatBit k).getLsbD j := by
  cases p
  · exact getLsbD_andNot _ _ _
  · exact BitVec.getLsbD_or
/-- A write sets the cause of its seat, and keeps those of the others (R139). -/
theorem rowCause_rowSet (hj : j < 32) :
    rowCause (rowSet x k v p) j = if k = j then p.getD 0 % 4 else rowCause x j := by
  have mod4 : ∀ y i : Nat, (y % 4).testBit i = (decide (i < 2) && y.testBit i) := fun y => Nat.testBit_mod_two_pow y 2
  refine Nat.eq_of_testBit_eq fun i => ?_
  rw [rowCause, mod4, Nat.testBit_div_two_pow, rowSet, BitVec.toNat_ofNat, Nat.testBit_mod_two_pow, testBit_putBits]
  rcases Nat.lt_or_ge i 2 with hi | hi
  · have h64 : i + 2 * j < 64 := by omega
    by_cases h : k = j
    · have hin : 2 * k ≤ i + 2 * j ∧ i + 2 * j < 2 * k + 2 := by omega
      rw [if_pos hin, if_pos h, mod4, h]
      simp [h64]
    · have hout : ¬(2 * k ≤ i + 2 * j ∧ i + 2 * j < 2 * k + 2) := by omega
      rw [if_neg hout, if_neg h, rowCause, mod4, Nat.testBit_div_two_pow]
      simp [h64]
  · by_cases h : k = j <;> simp [rowCause, mod4, h, Nat.not_lt.mpr hi]
theorem seatElem_rowSet_same (hk : k < x.elems.length) (h : k < 32) : seatElem (rowSet x k v p) k d = v := by
  have hv : nth (rowSet x k v p).elems k d = v := nth_setNth_same _ _ _ _ hk
  rw [seatElem, getLsbD_live_rowSet, getLsbD_seatBit, hv]
  simp [h]
theorem seatElem_rowSet_other (h : k ≠ j) : seatElem (rowSet x k v p) j d = seatElem x j d := by
  have e : nth (rowSet x k v p).elems j d = nth x.elems j d := nth_setNth_other _ _ _ _ _ h
  rw [seatElem, getLsbD_live_rowSet, getLsbD_seatBit, e]
  simp [seatElem, h]
theorem seatPoison_rowSet_same (h : k < 32) : seatPoison (rowSet x k v p) k = p.map (· % 4) := by
  rw [seatPoison, getLsbD_live_rowSet, getLsbD_poison_rowSet, getLsbD_seatBit, rowCause_rowSet _ _ _ _ _ h]
  cases p <;> simp [h]
theorem seatPoison_rowSet_other (h : k ≠ j) : seatPoison (rowSet x k v p) j = seatPoison x j := by
  rw [seatPoison, getLsbD_live_rowSet, getLsbD_poison_rowSet, getLsbD_seatBit]
  rcases Nat.lt_or_ge j 32 with hj | hj
  · rw [rowCause_rowSet _ _ _ _ _ hj]
    simp [seatPoison, h]
  · simp [seatPoison, h, BitVec.getLsbD_of_ge _ _ hj]
end RowSet

/-! ## Writing a value for each of some seats -/

/-- A row after a write of an element and its poison for each seat of a list. -/
def setSeats {α : Type} (x : Row α) (vals : List (Nat × α × Option Nat)) : Row α :=
  vals.foldl (fun y v => rowSet y v.1 v.2.1 v.2.2) x
@[simp] theorem setSeats_reg {α : Type} (x : Row α) (vals : List (Nat × α × Option Nat)) : (setSeats x vals).reg = x.reg := by
  induction vals generalizing x with
  | nil => rfl
  | cons v vals ih => exact ih (rowSet x v.1 v.2.1 v.2.2)
@[simp] theorem length_elems_setSeats {α : Type} (x : Row α) (vals : List (Nat × α × Option Nat)) :
    (setSeats x vals).elems.length = x.elems.length := by
  induction vals generalizing x with
  | nil => rfl
  | cons v vals ih => exact (ih (rowSet x v.1 v.2.1 v.2.2)).trans (length_elems_rowSet _ _ _ _)

section SetSeats
variable {α : Type} (x : Row α) (ks : List Nat) (v : Nat → α) (p : Nat → Option Nat) (j : Nat) (d : α)

theorem seatElem_setSeats (hx : x.elems.length = 32) (hk : ∀ k ∈ ks, k < 32) :
    seatElem (setSeats x (ks.map fun k => (k, v k, p k))) j d = if j ∈ ks then v j else seatElem x j d := by
  induction ks generalizing x with
  | nil => simp [setSeats]
  | cons k ks ih =>
    rw [List.map_cons, setSeats, List.foldl_cons, ← setSeats,
      ih _ (by simpa using hx) fun i hi => hk i (List.mem_cons_of_mem _ hi)]
    by_cases hj : j = k
    · subst hj
      have hj := hk j List.mem_cons_self
      simp [seatElem_rowSet_same _ _ _ _ _ (hx ▸ hj) hj]
    · simp [hj, seatElem_rowSet_other _ _ _ _ _ _ (Ne.symm hj)]
theorem seatPoison_setSeats (hk : ∀ k ∈ ks, k < 32) :
    seatPoison (setSeats x (ks.map fun k => (k, v k, p k))) j = if j ∈ ks then (p j).map (· % 4) else seatPoison x j := by
  induction ks generalizing x with
  | nil => simp [setSeats]
  | cons k ks ih =>
    rw [List.map_cons, setSeats, List.foldl_cons, ← setSeats, ih _ fun i hi => hk i (List.mem_cons_of_mem _ hi)]
    by_cases hj : j = k
    · subst hj
      simp [seatPoison_rowSet_same _ _ _ _ (hk j List.mem_cons_self)]
    · simp [hj, seatPoison_rowSet_other _ _ _ _ _ (Ne.symm hj)]
end SetSeats

/-! ## The rows of a bench -/

/-- At most one row for a register, each with an element for every seat (R134, R135). -/
def RowsShaped {α : Type} (rows : List (Row α)) : Prop := (rows.map (·.reg)).Nodup ∧ ∀ x ∈ rows, x.elems.length = 32

theorem findRow_cons {α : Type} (x : Row α) (rows : List (Row α)) (r : Nat) :
    findRow (x :: rows) r = if x.reg = r then some x else findRow rows r := by
  unfold findRow
  by_cases h : x.reg = r
  · simp [h]
  · rw [List.find?_cons_of_neg (by simpa using h), if_neg h]
theorem findRow_append {α : Type} (rows l : List (Row α)) (r : Nat) : findRow (rows ++ l) r = (findRow rows r).or (findRow l r) :=
  List.find?_append
theorem findRow_eq_none {α : Type} (rows : List (Row α)) (r : Nat) : findRow rows r = none ↔ ∀ x ∈ rows, x.reg ≠ r := by
  simp [findRow]
theorem mem_of_findRow {α : Type} {rows : List (Row α)} {r : Nat} {x : Row α} (h : findRow rows r = some x) : x ∈ rows :=
  List.mem_of_find?_eq_some h
/-- Changing the rows of one register, each to a row of that register. -/
theorem findRow_map {α : Type} (rows : List (Row α)) (r r' : Nat) (g : Row α → Row α) (hg : ∀ x, (g x).reg = x.reg) :
    findRow (rows.map fun x => if x.reg == r then g x else x) r' =
      (findRow rows r').map fun x => if r' = r then g x else x := by
  induction rows with
  | nil => rfl
  | cons x rows ih =>
    have hreg : (if x.reg == r then g x else x).reg = x.reg := by split <;> simp [hg]
    rw [List.map_cons, findRow_cons, findRow_cons, hreg, ih]
    by_cases h : x.reg = r'
    · simp [h]
    · simp [h]
theorem map_reg_map {α : Type} (rows : List (Row α)) (r : Nat) (g : Row α → Row α) (hg : ∀ x, (g x).reg = x.reg) :
    (rows.map fun x => if x.reg == r then g x else x).map (·.reg) = rows.map (·.reg) := by
  rw [List.map_map]
  refine List.map_congr_left fun x _ => ?_
  simp only [Function.comp]
  split <;> simp [hg]
theorem RowsShaped.map {α : Type} {rows : List (Row α)} (h : RowsShaped rows) (r : Nat) (g : Row α → Row α)
    (hg : ∀ x, (g x).reg = x.reg) (hl : ∀ x, (g x).elems.length = x.elems.length) :
    RowsShaped (rows.map fun x => if x.reg == r then g x else x) := by
  refine ⟨by rw [map_reg_map _ _ _ hg]; exact h.1, fun y hy => ?_⟩
  obtain ⟨x, hx, rfl⟩ := List.mem_map.mp hy
  split
  · rw [hl, h.2 x hx]
  · exact h.2 x hx

/-! ## Last reads (R137) -/

/-- A row after a last read by the seats of a mask. -/
def rowAfterLast {α : Type} (x : Row α) (m : SeatMask) : Row α := { x with live := x.live &&& ~~~m }
theorem clearLive_eq {α : Type} (rows : List (Row α)) (r : Nat) (m : SeatMask) :
    clearLive rows r m = rows.map fun x => if x.reg == r then rowAfterLast x m else x := rfl
theorem seatElem_rowAfterLast {α : Type} (x : Row α) (m : SeatMask) (k : Nat) (d : α) :
    seatElem (rowAfterLast x m) k d = if m.getLsbD k then d else seatElem x k d := by
  rw [seatElem, rowAfterLast, getLsbD_andNot]
  cases m.getLsbD k <;> simp [seatElem]
theorem seatPoison_rowAfterLast {α : Type} (x : Row α) (m : SeatMask) (k : Nat) :
    seatPoison (rowAfterLast x m) k = if m.getLsbD k then none else seatPoison x k := by
  rw [seatPoison, rowAfterLast, getLsbD_andNot]
  cases m.getLsbD k <;> simp [seatPoison, rowCause]

section ClearLive
variable {α : Type} {rows : List (Row α)} (r r' : Nat) (m : SeatMask) (k : Nat) (d : α)

theorem RowsShaped.clearLive (h : RowsShaped rows) : RowsShaped (clearLive rows r m) :=
  h.map r (rowAfterLast · m) (fun _ => rfl) fun _ => rfl
theorem rowRead_clearLive :
    rowRead (clearLive rows r m) r' k d = if r' = r ∧ m.getLsbD k = true then d else rowRead rows r' k d := by
  rw [rowRead_eq, rowRead_eq, clearLive_eq, findRow_map _ _ _ (rowAfterLast · m) fun _ => rfl]
  cases findRow rows r' with
  | none => simp
  | some x => by_cases h : r' = r <;> simp [h, seatElem_rowAfterLast]
theorem rowPoison_clearLive :
    rowPoison (clearLive rows r m) r' k = if r' = r ∧ m.getLsbD k = true then none else rowPoison rows r' k := by
  rw [rowPoison_eq, rowPoison_eq, clearLive_eq, findRow_map _ _ _ (rowAfterLast · m) fun _ => rfl]
  cases findRow rows r' with
  | none => simp
  | some x => by_cases h : r' = r <;> simp [h, seatPoison_rowAfterLast]
end ClearLive

/-! ## Writes (R136) -/

theorem writeRows_eq {α : Type} (rows : List (Row α)) (r : Nat) (d : α) (vals : List (Nat × α × Option Nat)) :
    writeRows rows r d vals =
      if (findRow rows r).isSome then rows.map fun x => if x.reg == r then setSeats x vals else x
      else rows ++ [setSeats (freshRow r d) vals] := by
  rw [findRow, List.isSome_find?]
  rfl

section WriteRows
variable {α : Type} {rows : List (Row α)} (r r' : Nat) (d : α) (vals : List (Nat × α × Option Nat))

/-- A write changes the register's own row, or adds a fresh one with the written elements. -/
theorem findRow_writeRows_same : findRow (writeRows rows r d vals) r =
    some (setSeats ((findRow rows r).getD (freshRow r d)) vals) := by
  rw [writeRows_eq]
  cases h : findRow rows r with
  | some x =>
    rw [Option.isSome_some, if_pos rfl, findRow_map _ _ _ _ fun _ => setSeats_reg _ _, h]
    simp
  | none => simp [findRow_append, findRow_cons, h, freshRow]
theorem findRow_writeRows_other (h : r' ≠ r) : findRow (writeRows rows r d vals) r' = findRow rows r' := by
  rw [writeRows_eq]
  cases findRow rows r with
  | some x =>
    rw [Option.isSome_some, if_pos rfl, findRow_map _ _ _ _ fun _ => setSeats_reg _ _]
    simp [h]
  | none => simp [freshRow, Ne.symm h, findRow]
theorem RowsShaped.writeRows (h : RowsShaped rows) : RowsShaped (writeRows rows r d vals) := by
  rw [writeRows_eq]
  cases hr : findRow rows r with
  | some x => exact h.map r (setSeats · vals) (fun _ => setSeats_reg _ _) fun _ => length_elems_setSeats _ _
  | none =>
    have hnew := (findRow_eq_none rows r).mp hr
    refine ⟨?_, fun x hx => ?_⟩
    · simpa [List.nodup_append, freshRow, h.1] using hnew
    · rcases List.mem_append.mp hx with hx | hx
      · exact h.2 x hx
      · rw [List.mem_singleton.mp hx, length_elems_setSeats]
        exact List.length_replicate
end WriteRows

section ReadWritten
variable {α : Type} {rows : List (Row α)} (r r' : Nat) (ks : List Nat) (v : Nat → α) (p : Nat → Option Nat) (k : Nat) (d : α)

theorem rowRead_writeRows_other (vals : List (Nat × α × Option Nat)) (h : r' ≠ r) :
    rowRead (writeRows rows r d vals) r' k d = rowRead rows r' k d := by
  rw [rowRead_eq, rowRead_eq, findRow_writeRows_other _ _ _ _ h]
theorem rowPoison_writeRows_other (vals : List (Nat × α × Option Nat)) (h : r' ≠ r) :
    rowPoison (writeRows rows r d vals) r' k = rowPoison rows r' k := by
  rw [rowPoison_eq, rowPoison_eq, findRow_writeRows_other _ _ _ _ h]
theorem rowRead_writeRows_same (h : RowsShaped rows) (hk : ∀ k ∈ ks, k < 32) :
    rowRead (writeRows rows r d (ks.map fun k => (k, v k, p k))) r k d = if k ∈ ks then v k else rowRead rows r k d := by
  rw [rowRead_eq, rowRead_eq, findRow_writeRows_same, Option.elim_some]
  cases hr : findRow rows r with
  | some x => exact seatElem_setSeats x ks v p k d (h.2 x (mem_of_findRow hr)) hk
  | none =>
    have hdead : seatElem (freshRow r d) k d = d := by simp [seatElem, freshRow]
    exact (seatElem_setSeats (freshRow r d) ks v p k d List.length_replicate hk).trans (by rw [hdead]; rfl)
theorem rowPoison_writeRows_same (hk : ∀ k ∈ ks, k < 32) :
    rowPoison (writeRows rows r d (ks.map fun k => (k, v k, p k))) r k =
      if k ∈ ks then (p k).map (· % 4) else rowPoison rows r k := by
  rw [rowPoison_eq, rowPoison_eq, findRow_writeRows_same, Option.elim_some]
  cases findRow rows r with
  | some x => exact seatPoison_setSeats x ks v p k hk
  | none =>
    have hdead : seatPoison (freshRow r d) k = none := by simp [seatPoison, freshRow]
    exact (seatPoison_setSeats (freshRow r d) ks v p k hk).trans (by rw [hdead]; rfl)
end ReadWritten

/-! ## Rows without a live element (R137) -/

/-- Does some seat still read the row? -/
def rowLive {α : Type} (x : Row α) : Bool := !(x.live == 0)
theorem seatElem_of_dead {α : Type} {x : Row α} (h : rowLive x = false) (k : Nat) (d : α) : seatElem x k d = d := by
  have h0 : x.live = 0 := by simpa [rowLive] using h
  simp [seatElem, h0]
theorem seatPoison_of_dead {α : Type} {x : Row α} (h : rowLive x = false) (k : Nat) : seatPoison x k = none := by
  have h0 : x.live = 0 := by simpa [rowLive] using h
  simp [seatPoison, h0]
/-- The rows that some seat still reads. -/
def liveRows {α : Type} (rows : List (Row α)) : List (Row α) := rows.filter rowLive

/-- The registers whose rows no seat reads. -/
def deadRegs {α : Type} (rows : List (Row α)) : List Nat := (rows.filter fun x => x.live == 0).map (·.reg)
theorem liveRows_of_no_deadRegs {α : Type} {rows : List (Row α)} (h : deadRegs rows = []) : liveRows rows = rows := by
  simpa [deadRegs, liveRows, rowLive] using h

section LiveRows
variable {α : Type} {rows : List (Row α)} (r k : Nat) (d : α)

theorem RowsShaped.liveRows (h : RowsShaped rows) : RowsShaped (liveRows rows) :=
  ⟨h.1.sublist (List.filter_sublist.map _), fun x hx => h.2 x (List.mem_of_mem_filter hx)⟩
theorem findRow_liveRows (h : RowsShaped rows) : findRow (liveRows rows) r = (findRow rows r).filter rowLive := by
  induction rows with
  | nil => rfl
  | cons x rows ih =>
    have hc := List.nodup_cons.mp h.1
    have ih := ih ⟨hc.2, fun y hy => h.2 y (List.mem_cons_of_mem _ hy)⟩
    rw [Machine.liveRows] at ih ⊢
    by_cases hx : x.reg = r
    · have hnone : findRow rows r = none :=
        (findRow_eq_none rows r).mpr fun y hy hyr => hc.1 (List.mem_map.mpr ⟨y, hy, hyr.trans hx.symm⟩)
      cases hl : rowLive x <;> simp [findRow_cons, Option.filter, hx, hl, ih, hnone]
    · cases hl : rowLive x <;> simp [findRow_cons, hx, hl, ih]
theorem rowRead_liveRows (h : RowsShaped rows) : rowRead (liveRows rows) r k d = rowRead rows r k d := by
  rw [rowRead_eq, rowRead_eq, findRow_liveRows _ h]
  cases findRow rows r with
  | none => rfl
  | some x => cases hl : rowLive x <;> simp [Option.filter, hl, seatElem_of_dead]
theorem rowPoison_liveRows (h : RowsShaped rows) : rowPoison (liveRows rows) r k = rowPoison rows r k := by
  rw [rowPoison_eq, rowPoison_eq, findRow_liveRows _ h]
  cases findRow rows r with
  | none => rfl
  | some x => cases hl : rowLive x <;> simp [Option.filter, hl, seatPoison_of_dead]
end LiveRows

end Sys2Proof.Machine
end

section
/-!
PROOF. Laws of a bench (R6, R7, R137): what the writes, the last reads, the advance of its seats and the freeing of its rows
change, and what each of them leaves alone.
-/
namespace Sys2Proof.Machine

/-! ## The shape of a bench -/

theorem shaped_iff (b : Bench) : Shaped b ↔
    RowsShaped b.vrows ∧ RowsShaped b.crows ∧ b.seats.length = 32 ∧ b.sregs.length = 16 ∧
      (b.preds.length = 8 ∧ ∀ p ∈ b.preds, p.length = 32) ∧ b.flags.length = 12 := by
  unfold Shaped RowsShaped
  tauto
theorem rowsShaped_vrows {b : Bench} (h : Shaped b) : RowsShaped b.vrows := ((shaped_iff b).mp h).1
theorem rowsShaped_crows {b : Bench} (h : Shaped b) : RowsShaped b.crows := by
  obtain ⟨-, hc, -⟩ := (shaped_iff b).mp h
  exact hc
theorem length_seats_of_shaped {b : Bench} (h : Shaped b) : b.seats.length = 32 := h.1
theorem length_sregs_of_shaped {b : Bench} (h : Shaped b) : b.sregs.length = 16 := by
  obtain ⟨-, -, -, hs, -⟩ := (shaped_iff b).mp h
  exact hs
theorem preds_of_shaped {b : Bench} (h : Shaped b) : b.preds.length = 8 ∧ ∀ p ∈ b.preds, p.length = 32 := by
  obtain ⟨-, -, -, -, hp, -⟩ := (shaped_iff b).mp h
  exact hp

/-- A bench without its registers, its seats and its operand cache: the rest of it. -/
def benchRest (b : Bench) : Bench :=
  { b with vrows := [], crows := [], sregs := [], preds := [], seats := [], opCache := [] }
theorem benchKept_of_rest {s t : State} (h : benchRest (cur t) = benchRest (cur s)) : BenchKept s t := by
  simp only [benchRest, Bench.mk.injEq] at h
  unfold BenchKept
  tauto

/-! ## Last reads (R137) -/

theorem lastReads_eq (b : Bench) (m : SeatMask) (srcs : List Src) :
    lastReads b m srcs =
      { b with
        vrows := (lastVs srcs).foldl (fun rows n => clearLive rows n m) b.vrows
        opCache := srcs.foldl cacheUse b.opCache } := by
  induction srcs generalizing b with
  | nil => rfl
  | cons a srcs ih =>
    rw [lastReads, List.foldl_cons, ← lastReads, ih]
    obtain ⟨r | r, u⟩ := a
    · cases u <;> simp [lastVs]
    · simp [lastVs]
theorem mem_lastVs (srcs : List Src) (n : Fin 48) : n.val ∈ lastVs srcs ↔ readsLast srcs (.v n) := by
  simp only [lastVs, List.mem_filterMap, readsLast, DReg.isV, true_and]
  constructor
  · rintro ⟨⟨r | r, u⟩, ha, h⟩
    · cases u <;> simp only [reduceCtorEq, Option.some.injEq] at h
      rwa [← Fin.ext h]
    · simp at h
  · exact fun h => ⟨_, h, rfl⟩
theorem rowsShaped_foldl_clearLive {α : Type} {rows : List (Row α)} (m : SeatMask) (ns : List Nat) (h : RowsShaped rows) :
    RowsShaped (ns.foldl (fun rows n => clearLive rows n m) rows) := by
  induction ns generalizing rows with
  | nil => exact h
  | cons n ns ih => exact ih (h.clearLive n m)
theorem rowRead_foldl_clearLive {α : Type} (rows : List (Row α)) (m : SeatMask) (ns : List Nat) (r k : Nat) (d : α) :
    rowRead (ns.foldl (fun rows n => clearLive rows n m) rows) r k d =
      if r ∈ ns ∧ m.getLsbD k = true then d else rowRead rows r k d := by
  induction ns generalizing rows with
  | nil => simp
  | cons n ns ih =>
    rw [List.foldl_cons, ih, rowRead_clearLive]
    by_cases hm : m.getLsbD k = true <;> by_cases h : r = n <;> simp [hm, h]
theorem rowPoison_foldl_clearLive {α : Type} (rows : List (Row α)) (m : SeatMask) (ns : List Nat) (r k : Nat) :
    rowPoison (ns.foldl (fun rows n => clearLive rows n m) rows) r k =
      if r ∈ ns ∧ m.getLsbD k = true then none else rowPoison rows r k := by
  induction ns generalizing rows with
  | nil => simp
  | cons n ns ih =>
    rw [List.foldl_cons, ih, rowPoison_clearLive]
    by_cases hm : m.getLsbD k = true <;> by_cases h : r = n <;> simp [hm, h]

section LastReads
variable (b : Bench) (m : SeatMask) (srcs : List Src)

@[simp] theorem benchRest_lastReads : benchRest (lastReads b m srcs) = benchRest b := by rw [lastReads_eq]; rfl
@[simp] theorem seats_lastReads : (lastReads b m srcs).seats = b.seats := by rw [lastReads_eq]
theorem shaped_lastReads (h : Shaped b) : Shaped (lastReads b m srcs) := by
  rw [lastReads_eq, shaped_iff]
  exact ⟨rowsShaped_foldl_clearLive m _ (rowsShaped_vrows h), ((shaped_iff b).mp h).2⟩
/-- A seat that reads a register for the last time finds it without a value afterwards; every other read is as before. -/
theorem readD_lastReads (r : DReg) (k : Nat) :
    (readsLast srcs r ∧ m.getLsbD k = true → readD (lastReads b m srcs) r k = 0 ∧ poisonD (lastReads b m srcs) r k = none) ∧
      (¬(readsLast srcs r ∧ m.getLsbD k = true) →
        readD (lastReads b m srcs) r k = readD b r k ∧ poisonD (lastReads b m srcs) r k = poisonD b r k) := by
  rw [lastReads_eq]
  cases r with
  | s n => exact ⟨fun h => absurd h.1 (by simp [readsLast, DReg.isV]), fun _ => ⟨rfl, rfl⟩⟩
  | v n =>
    rw [← mem_lastVs]
    simp only [readD, poisonD, rowRead_foldl_clearLive, rowPoison_foldl_clearLive]
    exact ⟨fun h => by simp [h], fun h => by simp [h]⟩
@[simp] theorem readC_lastReads (c : CReg) (k : Nat) : readC (lastReads b m srcs) c k = readC b c k := by rw [lastReads_eq]; rfl
@[simp] theorem poisonC_lastReads (c : CReg) (k : Nat) : poisonC (lastReads b m srcs) c k = poisonC b c k := by
  rw [lastReads_eq]; rfl
@[simp] theorem readP_lastReads (p : PReg) (k : Nat) : readP (lastReads b m srcs) p k = readP b p k := by rw [lastReads_eq]; rfl
end LastReads

/-! ## The advance of the seats -/

theorem mapIssued_eq (s : State) (b : Bench) (f : Nat → Seat → Seat) :
    mapIssued s b f = { b with seats := (mapIssued s b f).seats } := by
  unfold mapIssued
  induction issued s generalizing b with
  | nil => rfl
  | cons k ks ih => exact (ih _).trans rfl

section MapIssued
variable (s : State) (b : Bench) (f : Nat → Seat → Seat)

@[simp] theorem length_seats_mapIssued : (mapIssued s b f).seats.length = b.seats.length := by
  unfold mapIssued
  induction issued s generalizing b with
  | nil => rfl
  | cons k ks ih => exact (ih _).trans (length_setNth _ _ _)
theorem getSeat_foldl_putSeat (ks : List Nat) (hn : ks.Nodup) (hk : ∀ k ∈ ks, k < b.seats.length) (j : Nat) :
    getSeat (ks.foldl (fun b k => putSeat b k (f k (getSeat b k))) b) j =
      if j ∈ ks then f j (getSeat b j) else getSeat b j := by
  induction ks generalizing b with
  | nil => simp
  | cons k ks ih =>
    have hn := List.nodup_cons.mp hn
    rw [List.foldl_cons, ih _ hn.2 fun i hi => by simpa [putSeat] using hk i (List.mem_cons_of_mem _ hi)]
    by_cases hj : j = k
    · subst hj
      simp [hn.1, getSeat, putSeat, nth_setNth_same _ _ _ _ (hk j List.mem_cons_self)]
    · simp [hj, getSeat, putSeat, nth_setNth_other _ _ _ _ _ (Ne.symm hj)]
theorem getSeat_mapIssued (h : b.seats.length = 32) (k : Nat) :
    getSeat (mapIssued s b f) k = if k ∈ issued s then f k (getSeat b k) else getSeat b k :=
  getSeat_foldl_putSeat b f _ (nodup_seatsOf _) (fun _ hj => h ▸ lt_of_mem_issued hj) k
@[simp] theorem benchRest_mapIssued : benchRest (mapIssued s b f) = benchRest b := by rw [mapIssued_eq]; rfl
theorem shaped_mapIssued (h : Shaped b) : Shaped (mapIssued s b f) := by
  have hl := length_seats_mapIssued s b f
  rw [mapIssued_eq, shaped_iff]
  obtain ⟨hv, hc, hseats, hrest⟩ := (shaped_iff b).mp h
  exact ⟨hv, hc, hl.trans hseats, hrest⟩
@[simp] theorem readD_mapIssued (r : DReg) (k : Nat) : readD (mapIssued s b f) r k = readD b r k := by
  rw [mapIssued_eq]; cases r <;> rfl
@[simp] theorem poisonD_mapIssued (r : DReg) (k : Nat) : poisonD (mapIssued s b f) r k = poisonD b r k := by
  rw [mapIssued_eq]; cases r <;> rfl
@[simp] theorem readC_mapIssued (c : CReg) (k : Nat) : readC (mapIssued s b f) c k = readC b c k := by rw [mapIssued_eq]; rfl
@[simp] theorem poisonC_mapIssued (c : CReg) (k : Nat) : poisonC (mapIssued s b f) c k = poisonC b c k := by
  rw [mapIssued_eq]; rfl
@[simp] theorem readP_mapIssued (p : PReg) (k : Nat) : readP (mapIssued s b f) p k = readP b p k := by rw [mapIssued_eq]; rfl
end MapIssued

/-! ## The rows that become free (R137) -/

/-- The bench without the rows that no seat reads. -/
def freedBench (b : Bench) : Bench :=
  { b with
    vrows := liveRows b.vrows
    crows := liveRows b.crows
    opCache := b.opCache.filter fun r => !(deadRegs b.vrows).contains r }
theorem freedBench_of_no_deadRegs {b : Bench} (hv : deadRegs b.vrows = []) (hc : deadRegs b.crows = []) :
    freedBench b = b := by
  have hcache : b.opCache.filter (fun r => !(deadRegs b.vrows).contains r) = b.opCache := by simp [hv]
  rw [freedBench, liveRows_of_no_deadRegs hv, liveRows_of_no_deadRegs hc, hcache]

section FreedBench
variable (b : Bench)

@[simp] theorem benchRest_freedBench : benchRest (freedBench b) = benchRest b := rfl
@[simp] theorem getSeat_freedBench (k : Nat) : getSeat (freedBench b) k = getSeat b k := rfl
@[simp] theorem readP_freedBench (p : PReg) (k : Nat) : readP (freedBench b) p k = readP b p k := rfl
theorem shaped_freedBench (h : Shaped b) : Shaped (freedBench b) := by
  obtain ⟨hv, hc, hrest⟩ := (shaped_iff b).mp h
  exact (shaped_iff _).mpr ⟨hv.liveRows, hc.liveRows, hrest⟩
theorem readD_freedBench (h : Shaped b) (r : DReg) (k : Nat) : readD (freedBench b) r k = readD b r k := by
  cases r with
  | v n => exact rowRead_liveRows _ _ _ (rowsShaped_vrows h)
  | s n => rfl
theorem poisonD_freedBench (h : Shaped b) (r : DReg) (k : Nat) : poisonD (freedBench b) r k = poisonD b r k := by
  cases r with
  | v n => exact rowPoison_liveRows _ _ (rowsShaped_vrows h)
  | s n => rfl
theorem readC_freedBench (h : Shaped b) (c : CReg) (k : Nat) : readC (freedBench b) c k = readC b c k := by
  unfold readC
  rw [freedBench, rowRead_liveRows _ _ _ (rowsShaped_crows h)]
theorem poisonC_freedBench (h : Shaped b) (c : CReg) (k : Nat) : poisonC (freedBench b) c k = poisonC b c k := by
  unfold poisonC
  rw [freedBench, rowPoison_liveRows _ _ (rowsShaped_crows h)]
end FreedBench

/-! ## Writes of a data register (R7, R136) -/

section WriteD
variable (b : Bench) (d r : DReg) (k : Nat) (vals : List SeatVal)

theorem writeD_eq : writeD b d vals = { b with vrows := (writeD b d vals).vrows, sregs := (writeD b d vals).sregs } := by
  cases d with
  | v n => rfl
  | s n => cases vals <;> rfl
@[simp] theorem benchRest_writeD : benchRest (writeD b d vals) = benchRest b := by rw [writeD_eq]; rfl
@[simp] theorem seats_writeD : (writeD b d vals).seats = b.seats := by rw [writeD_eq]
@[simp] theorem readC_writeD (c : CReg) : readC (writeD b d vals) c k = readC b c k := by rw [writeD_eq]; rfl
@[simp] theorem poisonC_writeD (c : CReg) : poisonC (writeD b d vals) c k = poisonC b c k := by rw [writeD_eq]; rfl
@[simp] theorem readP_writeD (p : PReg) : readP (writeD b d vals) p k = readP b p k := by rw [writeD_eq]; rfl
theorem shaped_writeD (h : Shaped b) : Shaped (writeD b d vals) := by
  obtain ⟨hv, hc, hseats, hsregs, hrest⟩ := (shaped_iff b).mp h
  cases d with
  | v n => exact (shaped_iff _).mpr ⟨hv.writeRows _ _ _, hc, hseats, hsregs, hrest⟩
  | s n =>
    cases vals with
    | nil => exact h
    | cons x vals => exact (shaped_iff _).mpr ⟨hv, hc, hseats, (length_setNth _ _ _).trans hsregs, hrest⟩
theorem readD_writeD_other (h : r ≠ d) :
    readD (writeD b d vals) r k = readD b r k ∧ poisonD (writeD b d vals) r k = poisonD b r k := by
  cases d with
  | v n =>
    cases r with
    | s m => exact ⟨rfl, rfl⟩
    | v m =>
      have hne : m.val ≠ n.val := fun e => h (congrArg DReg.v (Fin.ext e))
      exact ⟨rowRead_writeRows_other _ _ _ _ _ hne, rowPoison_writeRows_other _ _ _ _ _ hne⟩
  | s n =>
    cases vals with
    | nil => exact ⟨rfl, rfl⟩
    | cons x vals =>
      cases r with
      | v m => exact ⟨rfl, rfl⟩
      | s m =>
        have hne : n.val ≠ m.val := fun e => h (congrArg DReg.s (Fin.ext e.symm))
        simp [writeD, readD, poisonD, nth_setNth_other _ _ _ _ _ hne]
theorem readD_writeD_v (n : Fin 48) (ks : List Nat) (v : Nat → Word) (x : Nat → Option Nat) (hb : Shaped b)
    (hk : ∀ k ∈ ks, k < 32) :
    readD (writeD b (.v n) (ks.map fun k => (k, v k, x k))) (.v n) k = if k ∈ ks then v k else readD b (.v n) k :=
  rowRead_writeRows_same _ ks v x k _ (rowsShaped_vrows hb) hk
theorem poisonD_writeD_v (n : Fin 48) (ks : List Nat) (v : Nat → Word) (x : Nat → Option Nat) (hk : ∀ k ∈ ks, k < 32) :
    poisonD (writeD b (.v n) (ks.map fun k => (k, v k, x k))) (.v n) k =
      if k ∈ ks then (x k).map (· % 4) else poisonD b (.v n) k :=
  rowPoison_writeRows_same _ ks v x k _ hk
/-- An s register takes the value of the first seat, for every seat (R7). -/
theorem readD_writeD_s (n : Fin 16) (j : Nat) (x : Word × Option Nat) (hb : Shaped b) :
    readD (writeD b (.s n) ((j, x) :: vals)) (.s n) k = x.1 ∧ poisonD (writeD b (.s n) ((j, x) :: vals)) (.s n) k = x.2 := by
  have hlt : n.val < b.sregs.length := (length_sregs_of_shaped hb).symm ▸ n.isLt
  simp [writeD, readD, poisonD, nth_setNth_same _ _ _ _ hlt]
end WriteD

/-! ## Writes of a capability register (R6, R136) -/

section WriteC
variable (b : Bench) (c e : CReg) (k : Nat) (vals : List SeatCap)

@[simp] theorem readC_zero : readC b 0 k = Cap.null := rfl
@[simp] theorem poisonC_zero : poisonC b 0 k = none := rfl
theorem readC_of_ne {e : CReg} (h : e ≠ 0) : readC b e k = rowRead b.crows e.val k Cap.null := if_neg h
theorem poisonC_of_ne {e : CReg} (h : e ≠ 0) : poisonC b e k = rowPoison b.crows e.val k := if_neg h
@[simp] theorem writeC_zero : writeC b 0 vals = b := rfl
theorem writeC_of_ne {c : CReg} (h : c ≠ 0) : writeC b c vals = { b with crows := writeRows b.crows c.val Cap.null vals } :=
  if_neg h
theorem writeC_eq : writeC b c vals = { b with crows := (writeC b c vals).crows } := by
  unfold writeC
  split <;> rfl
@[simp] theorem benchRest_writeC : benchRest (writeC b c vals) = benchRest b := by rw [writeC_eq]; rfl
@[simp] theorem seats_writeC : (writeC b c vals).seats = b.seats := by rw [writeC_eq]
@[simp] theorem readD_writeC (r : DReg) : readD (writeC b c vals) r k = readD b r k := by rw [writeC_eq]; cases r <;> rfl
@[simp] theorem poisonD_writeC (r : DReg) : poisonD (writeC b c vals) r k = poisonD b r k := by rw [writeC_eq]; cases r <;> rfl
@[simp] theorem readP_writeC (p : PReg) : readP (writeC b c vals) p k = readP b p k := by rw [writeC_eq]; rfl
theorem shaped_writeC (h : Shaped b) : Shaped (writeC b c vals) := by
  unfold writeC
  split
  · exact h
  · obtain ⟨hv, hc, hrest⟩ := (shaped_iff b).mp h
    exact (shaped_iff _).mpr ⟨hv, hc.writeRows _ _ _, hrest⟩
theorem readC_writeC_other (h : e ≠ c) :
    readC (writeC b c vals) e k = readC b e k ∧ poisonC (writeC b c vals) e k = poisonC b e k := by
  have hne : e.val ≠ c.val := fun he => h (Fin.ext he)
  rcases eq_or_ne c 0 with rfl | hc
  · simp
  rcases eq_or_ne e 0 with rfl | he
  · simp
  rw [writeC_of_ne _ _ hc, readC_of_ne _ _ he, poisonC_of_ne _ _ he, rowRead_writeRows_other _ _ _ _ _ hne,
    rowPoison_writeRows_other _ _ _ _ _ hne, readC_of_ne _ _ he, poisonC_of_ne _ _ he]
  exact ⟨rfl, rfl⟩
theorem readC_writeC_same (ks : List Nat) (v : Nat → Cap) (x : Nat → Option Nat) (hb : Shaped b) (hk : ∀ k ∈ ks, k < 32) :
    readC (writeC b c (ks.map fun k => (k, v k, x k))) c k =
      if c = 0 then Cap.null else if k ∈ ks then v k else readC b c k := by
  rcases eq_or_ne c 0 with rfl | hc
  · simp
  rw [writeC_of_ne _ _ hc, readC_of_ne _ _ hc, readC_of_ne _ _ hc, if_neg hc]
  exact rowRead_writeRows_same _ ks v x k _ (rowsShaped_crows hb) hk
end WriteC

/-! ## Writes of a predicate (R6, R54) -/

section WriteP
variable (b : Bench) (p q : PReg) (k : Nat) (vals : List (Nat × BitVec 8))

@[simp] theorem readP_zero : readP b 0 k = 0xFF := rfl
theorem readP_of_ne {q : PReg} (h : q ≠ 0) : readP b q k = nth (nth b.preds q.val []) k 0 := if_neg h
@[simp] theorem writeP_zero : writeP b 0 vals = b := rfl
theorem writeP_of_ne {p : PReg} (h : p ≠ 0) : writeP b p vals =
    { b with preds := setNth b.preds p.val (vals.foldl (fun l v => setNth l v.1 v.2) (nth b.preds p.val [])) } := if_neg h
theorem writeP_eq : writeP b p vals = { b with preds := (writeP b p vals).preds } := by
  unfold writeP
  split <;> rfl
@[simp] theorem benchRest_writeP : benchRest (writeP b p vals) = benchRest b := by rw [writeP_eq]; rfl
@[simp] theorem seats_writeP : (writeP b p vals).seats = b.seats := by rw [writeP_eq]
@[simp] theorem readD_writeP (r : DReg) : readD (writeP b p vals) r k = readD b r k := by rw [writeP_eq]; cases r <;> rfl
@[simp] theorem poisonD_writeP (r : DReg) : poisonD (writeP b p vals) r k = poisonD b r k := by rw [writeP_eq]; cases r <;> rfl
@[simp] theorem readC_writeP (c : CReg) : readC (writeP b p vals) c k = readC b c k := by rw [writeP_eq]; rfl
@[simp] theorem poisonC_writeP (c : CReg) : poisonC (writeP b p vals) c k = poisonC b c k := by rw [writeP_eq]; rfl
theorem length_preds_shaped {b : Bench} (h : Shaped b) (p : PReg) : (nth b.preds p.val []).length = 32 := by
  obtain ⟨h8, h32⟩ := preds_of_shaped h
  have hp : p.val < b.preds.length := by rw [h8]; exact p.isLt
  exact h32 _ (by simp [nth, hp])
theorem shaped_writeP (h : Shaped b) : Shaped (writeP b p vals) := by
  rcases eq_or_ne p 0 with rfl | hp
  · exact h
  obtain ⟨hv, hc, hseats, hsregs, ⟨h8, h32⟩, hflags⟩ := (shaped_iff b).mp h
  rw [writeP_of_ne _ _ hp]
  refine (shaped_iff _).mpr ⟨hv, hc, hseats, hsregs, ⟨(length_setNth _ _ _).trans h8, fun x hx => ?_⟩, hflags⟩
  rcases List.mem_or_eq_of_mem_set hx with hx | rfl
  · exact h32 x hx
  · rw [length_foldl_setNth, length_preds_shaped h]
theorem readP_writeP_other (h : q ≠ p) : readP (writeP b p vals) q k = readP b q k := by
  have hne : p.val ≠ q.val := fun he => h (Fin.ext he.symm)
  rcases eq_or_ne p 0 with rfl | hp
  · simp
  rcases eq_or_ne q 0 with rfl | hq
  · simp
  rw [writeP_of_ne _ _ hp, readP_of_ne _ _ hq, readP_of_ne _ _ hq, nth_setNth_other _ _ _ _ _ hne]
theorem readP_writeP_same (ks : List Nat) (v : Nat → BitVec 8) (hb : Shaped b) (hk : ∀ k ∈ ks, k < 32) :
    readP (writeP b p (ks.map fun k => (k, v k))) p k = if p = 0 then 0xFF else if k ∈ ks then v k else readP b p k := by
  rcases eq_or_ne p 0 with rfl | hp
  · simp
  have hlt : p.val < b.preds.length := by rw [(preds_of_shaped hb).1]; exact p.isLt
  rw [writeP_of_ne _ _ hp, readP_of_ne _ _ hp, readP_of_ne _ _ hp, nth_setNth_same _ _ _ _ hlt, if_neg hp]
  exact nth_foldl_setNth _ _ _ _ _ fun j hj => (length_preds_shaped hb p).symm ▸ hk j hj
end WriteP

end Sys2Proof.Machine
end

section
/-!
PROOF. Laws of a retirement (R87, R137): which benches and instructions in flight it touches, and what the selected bench
reads as afterwards.
-/
namespace Sys2Proof.Machine

/-! ## What lies outside the selected bench -/

theorem leavesOutside_refl (s : State) : LeavesOutside s s := ⟨rfl, rfl, fun _ _ _ => rfl, fun _ => rfl⟩
theorem leavesOutside_trans {s t u : State} (h : LeavesOutside s t) (h' : LeavesOutside t u) : LeavesOutside s u := by
  obtain ⟨he, hf, hb, hc⟩ := h
  obtain ⟨he', hf', hb', hc'⟩ := h'
  have hsel : t.sel = s.sel := by rw [he]
  rw [hsel] at hb'
  refine ⟨?_, hf'.trans hf, fun core slot hne => (hb' core slot hne).trans (hb core slot hne),
    fun core => (hc' core).trans (hc core)⟩
  rw [he', he]
theorem getBench_putBench_other (s : State) (k slot k' slot' : Nat) (b : Bench) (h : ¬(k' = k ∧ slot' = slot)) :
    getBench (putBench s k slot b) k' slot' = getBench s k' slot' := by
  by_cases hk : k = k'
  · subst hk
    exact getBench_putBench_slot s k slot slot' b fun e => h ⟨rfl, e.symm⟩
  · exact getBench_putBench_core s k k' slot slot' b hk
theorem getCore_putBench_rest (s : State) (k slot core : Nat) (b : Bench) :
    { getCore (putBench s k slot b) core with benches := [] } = { getCore s core with benches := [] } := by
  by_cases hk : k = core
  · subst hk
    rw [putBench, getCore_putCore_same]
  · rw [putBench, getCore_putCore_other _ _ _ _ hk]
theorem leavesOutside_putCur (s : State) (b : Bench) : LeavesOutside s (putCur s b) :=
  ⟨rfl, rfl, fun _ _ h => getBench_putBench_other s _ _ _ _ b h, fun core => getCore_putBench_rest s _ _ core b⟩
theorem leavesOutside_loseRows (s : State) (k slot : Nat) (vs cs : List Nat) : LeavesOutside s (loseRows s k slot vs cs) := by
  refine ⟨rfl, ?_, fun _ _ _ => rfl, fun _ => rfl⟩
  rw [loseRows, List.map_map]
  refine List.map_congr_left fun f _ => ?_
  simp only [Function.comp]
  split <;> rfl

/-! ## Freeing rows (R137) -/

theorem freeRows_eq (s : State) : freeRows s s.sel.core s.sel.slot =
    if (deadRegs (cur s).vrows).isEmpty && (deadRegs (cur s).crows).isEmpty then s
    else loseRows (putCur s (freedBench (cur s))) s.sel.core s.sel.slot (deadRegs (cur s).vrows) (deadRegs (cur s).crows) := rfl
theorem leavesOutside_freeRows (s : State) : LeavesOutside s (freeRows s s.sel.core s.sel.slot) := by
  rw [freeRows_eq]
  split
  · exact leavesOutside_refl s
  · exact leavesOutside_trans (leavesOutside_putCur s _) (leavesOutside_loseRows _ _ _ _ _)
theorem cur_freeRows (s : State) : cur (freeRows s s.sel.core s.sel.slot) = freedBench (cur s) := by
  rw [freeRows_eq]
  split
  case isTrue h =>
    rw [Bool.and_eq_true, List.isEmpty_iff, List.isEmpty_iff] at h
    exact (freedBench_of_no_deadRegs h.1 h.2).symm
  case isFalse => exact cur_putCur s _

/-! ## Retirement (R87) -/

section Retire
variable (s : State) (srcs : List Src) (closes : Bool) (eff : Bench → Bench)

/-- The selected bench after the last reads and the effect, with its seats past the instruction. -/
def retiredBench : Bench :=
  mapIssued s (eff (lastReads (cur s) s.sel.seats srcs)) fun _ x => pastSeat x s.sel.len closes
theorem leavesOutside_retireWith : LeavesOutside s (retireWith s srcs closes eff) :=
  leavesOutside_trans (leavesOutside_putCur s (retiredBench s srcs closes eff)) (leavesOutside_freeRows _)
theorem cur_retireWith : cur (retireWith s srcs closes eff) = freedBench (retiredBench s srcs closes eff) :=
  (cur_freeRows _).trans (congrArg freedBench (cur_putCur s _))

/-- An effect on a bench that keeps its shape and changes registers alone. -/
structure ChangesRegisters (eff : Bench → Bench) : Prop where
  shaped : ∀ b, Shaped b → Shaped (eff b)
  rest : ∀ b, benchRest (eff b) = benchRest b
  seats : ∀ b, (eff b).seats = b.seats

variable {s eff} (heff : ChangesRegisters eff) (h : Shaped (cur s))
include heff h

theorem shaped_retiredBench : Shaped (retiredBench s srcs closes eff) :=
  shaped_mapIssued _ _ _ (heff.shaped _ (shaped_lastReads _ _ _ h))
theorem shaped_retireWith : Shaped (cur (retireWith s srcs closes eff)) := by
  rw [cur_retireWith]
  exact shaped_freedBench _ (shaped_retiredBench srcs closes heff h)
theorem readD_retireWith (r : DReg) (k : Nat) :
    readD (cur (retireWith s srcs closes eff)) r k = readD (eff (lastReads (cur s) s.sel.seats srcs)) r k ∧
      poisonD (cur (retireWith s srcs closes eff)) r k = poisonD (eff (lastReads (cur s) s.sel.seats srcs)) r k := by
  have hb := shaped_retiredBench srcs closes heff h
  rw [cur_retireWith, readD_freedBench _ hb, poisonD_freedBench _ hb, retiredBench, readD_mapIssued, poisonD_mapIssued]
  exact ⟨rfl, rfl⟩
theorem readC_retireWith (c : CReg) (k : Nat) :
    readC (cur (retireWith s srcs closes eff)) c k = readC (eff (lastReads (cur s) s.sel.seats srcs)) c k ∧
      poisonC (cur (retireWith s srcs closes eff)) c k = poisonC (eff (lastReads (cur s) s.sel.seats srcs)) c k := by
  have hb := shaped_retiredBench srcs closes heff h
  rw [cur_retireWith, readC_freedBench _ hb, poisonC_freedBench _ hb, retiredBench, readC_mapIssued, poisonC_mapIssued]
  exact ⟨rfl, rfl⟩
theorem dataKept_retireWith (except : DReg → Prop)
    (hd : ∀ b r k, ¬except r → readD (eff b) r k = readD b r k ∧ poisonD (eff b) r k = poisonD b r k) :
    DataKept s (retireWith s srcs closes eff) srcs except := by
  intro r k hr
  obtain ⟨hread, hpoison⟩ := readD_retireWith srcs closes heff h r k
  obtain ⟨hread', hpoison'⟩ := hd (lastReads (cur s) s.sel.seats srcs) r k hr
  rw [hread, hpoison, hread', hpoison', mem_issued]
  exact readD_lastReads (cur s) s.sel.seats srcs r k
theorem capsKept_retireWith (except : CReg → Prop)
    (hc : ∀ b c k, ¬except c → readC (eff b) c k = readC b c k ∧ poisonC (eff b) c k = poisonC b c k) :
    CapsKept s (retireWith s srcs closes eff) except := by
  intro c k hne
  obtain ⟨hread, hpoison⟩ := readC_retireWith srcs closes heff h c k
  obtain ⟨hread', hpoison'⟩ := hc (lastReads (cur s) s.sel.seats srcs) c k hne
  rw [hread, hpoison, hread', hpoison', readC_lastReads, poisonC_lastReads]
  exact ⟨rfl, rfl⟩
omit heff h in
theorem readP_retireWith (p : PReg) (k : Nat) :
    readP (cur (retireWith s srcs closes eff)) p k = readP (eff (lastReads (cur s) s.sel.seats srcs)) p k := by
  rw [cur_retireWith, readP_freedBench, retiredBench, readP_mapIssued]
omit heff h in
theorem predsKept_retireWith (except : PReg → Prop) (hp : ∀ b p k, ¬except p → readP (eff b) p k = readP b p k) :
    PredsKept s (retireWith s srcs closes eff) except := by
  intro p k hne
  rw [readP_retireWith, hp _ _ _ hne, readP_lastReads]
omit h in
theorem benchKept_retireWith : BenchKept s (retireWith s srcs closes eff) := by
  refine benchKept_of_rest ?_
  rw [cur_retireWith, benchRest_freedBench, retiredBench, benchRest_mapIssued, heff.rest, benchRest_lastReads]
theorem seatsBecome_retireWith :
    SeatsBecome s (retireWith s srcs closes eff) fun _ x => pastSeat x s.sel.len closes := by
  have hseats : (eff (lastReads (cur s) s.sel.seats srcs)).seats = (cur s).seats := by rw [heff.seats, seats_lastReads]
  intro k
  rw [cur_retireWith, getSeat_freedBench, retiredBench,
    getSeat_mapIssued _ _ _ (by rw [hseats]; exact length_seats_of_shaped h), getSeat, hseats, ← getSeat]
end Retire

end Sys2Proof.Machine
end

section
/-!
PROOF. A pass that writes a register changes its destination alone (R6, R7, R87, R136, R137).
-/
namespace Sys2Proof.Machine

/-! ## The three effects -/

theorem changesRegisters_writing (s : State) (d : DReg) (v : Nat → Word) : ChangesRegisters (writing s d v) where
  shaped _ := shaped_writeD _ _ _
  rest _ := benchRest_writeD _ _ _
  seats _ := seats_writeD _ _ _
theorem changesRegisters_setting (s : State) (p : PReg) (v : Nat → BitVec 8) : ChangesRegisters (setting s p v) where
  shaped _ := shaped_writeP _ _ _
  rest _ := benchRest_writeP _ _ _
  seats _ := seats_writeP _ _ _
theorem changesRegisters_holding (s : State) (c : CReg) (v : Nat → Cap) : ChangesRegisters (holding s c v) where
  shaped _ := shaped_writeC _ _ _
  rest _ := benchRest_writeC _ _ _
  seats _ := seats_writeC _ _ _

/-! ## The destination -/

/-- The last reads clear elements of the issued seats alone. -/
theorem readD_lastReads_of_not_issued (s : State) (srcs : List Src) (k : Nat) (r : DReg) (hk : k ∉ issued s) :
    readD (lastReads (cur s) s.sel.seats srcs) r k = readD (cur s) r k ∧
      poisonD (lastReads (cur s) s.sel.seats srcs) r k = poisonD (cur s) r k :=
  (readD_lastReads (cur s) s.sel.seats srcs r k).2 fun hr => hk ((mem_issued s k).mpr hr.2)

section Destination
variable {s : State} (srcs : List Src) (closes : Bool) (h : Shaped (cur s)) (k : Nat)
include h

theorem readD_retire_writing_v (n : Fin 48) (v : Nat → Word) :
    (k ∈ issued s → readD (cur (retireWith s srcs closes (writing s (.v n) v))) (.v n) k = v k ∧
        poisonD (cur (retireWith s srcs closes (writing s (.v n) v))) (.v n) k = none) ∧
      (k ∉ issued s → readD (cur (retireWith s srcs closes (writing s (.v n) v))) (.v n) k = readD (cur s) (.v n) k ∧
        poisonD (cur (retireWith s srcs closes (writing s (.v n) v))) (.v n) k = poisonD (cur s) (.v n) k) := by
  obtain ⟨hread, hpoison⟩ := readD_retireWith srcs closes (changesRegisters_writing s (.v n) v) h (.v n) k
  have hl := shaped_lastReads (cur s) s.sel.seats srcs h
  rw [hread, hpoison, writing, readD_writeD_v _ _ _ _ _ _ hl fun _ => lt_of_mem_issued,
    poisonD_writeD_v _ _ _ _ _ _ fun _ => lt_of_mem_issued]
  refine ⟨fun hk => ?_, fun hk => ?_⟩
  · simp [hk]
  · rw [if_neg hk, if_neg hk]
    exact readD_lastReads_of_not_issued s srcs k _ hk
theorem readD_retire_writing_s (n : Fin 16) (v : Nat → Word) (hne : issued s ≠ []) :
    readD (cur (retireWith s srcs closes (writing s (.s n) v))) (.s n) k = v ((issued s).headD 0) ∧
      poisonD (cur (retireWith s srcs closes (writing s (.s n) v))) (.s n) k = none := by
  obtain ⟨hread, hpoison⟩ := readD_retireWith srcs closes (changesRegisters_writing s (.s n) v) h (.s n) k
  obtain ⟨j, ks, hj⟩ := List.exists_cons_of_ne_nil hne
  rw [hread, hpoison, writing, hj]
  exact readD_writeD_s _ k _ n j (v j, none) (shaped_lastReads (cur s) s.sel.seats srcs h)
theorem readP_retire_setting (p : PReg) (v : Nat → BitVec 8) :
    readP (cur (retireWith s srcs closes (setting s p v))) p k =
      if p = 0 then 0xFF else if k ∈ issued s then v k else readP (cur s) p k := by
  rw [readP_retireWith, setting,
    readP_writeP_same _ _ _ _ _ (shaped_lastReads _ _ _ h) fun _ => lt_of_mem_issued, readP_lastReads]
theorem readC_retire_holding (c : CReg) (v : Nat → Cap) :
    readC (cur (retireWith s srcs closes (holding s c v))) c k =
      if c = 0 then Cap.null else if k ∈ issued s then v k else readC (cur s) c k := by
  rw [(readC_retireWith srcs closes (changesRegisters_holding s c v) h c k).1, holding,
    readC_writeC_same _ _ _ _ _ _ (shaped_lastReads _ _ _ h) fun _ => lt_of_mem_issued, readC_lastReads]
end Destination

/-! ## The claims -/

theorem aDataRegisterPassChangesItsDestinationAlone : Claims.ADataRegisterPassChangesItsDestinationAlone := by
  intro s srcs closes d v h
  have heff := changesRegisters_writing s d v
  refine ⟨shaped_retireWith srcs closes heff h, leavesOutside_retireWith _ _ _ _,
    dataKept_retireWith srcs closes heff h _ fun _ _ _ => readD_writeD_other _ _ _ _ _,
    capsKept_retireWith srcs closes heff h _ fun _ _ _ _ => ⟨readC_writeD _ _ _ _ _, poisonC_writeD _ _ _ _ _⟩,
    predsKept_retireWith srcs closes _ fun _ _ _ _ => readP_writeD _ _ _ _ _, benchKept_retireWith srcs closes heff,
    seatsBecome_retireWith srcs closes heff h, ?_, ?_⟩
  · cases d with
    | v n => exact fun _ k => readD_retire_writing_v srcs closes h k n v
    | s n => intro hv; cases hv
  · cases d with
    | v n => intro hv; cases hv
    | s n => exact fun _ k => readD_retire_writing_s srcs closes h k n v
theorem aPredicatePassChangesItsPredicateAlone : Claims.APredicatePassChangesItsPredicateAlone := by
  intro s srcs closes p v h
  have heff := changesRegisters_setting s p v
  exact ⟨shaped_retireWith srcs closes heff h, leavesOutside_retireWith _ _ _ _,
    dataKept_retireWith srcs closes heff h _ fun _ _ _ _ => ⟨readD_writeP _ _ _ _ _, poisonD_writeP _ _ _ _ _⟩,
    capsKept_retireWith srcs closes heff h _ fun _ _ _ _ => ⟨readC_writeP _ _ _ _ _, poisonC_writeP _ _ _ _ _⟩,
    predsKept_retireWith srcs closes _ fun _ _ _ => readP_writeP_other _ _ _ _ _, benchKept_retireWith srcs closes heff,
    seatsBecome_retireWith srcs closes heff h, fun k => readP_retire_setting srcs closes h k p v⟩
theorem aCapabilityPassChangesItsRegisterAlone : Claims.ACapabilityPassChangesItsRegisterAlone := by
  intro s srcs closes c v h
  have heff := changesRegisters_holding s c v
  exact ⟨shaped_retireWith srcs closes heff h, leavesOutside_retireWith _ _ _ _,
    dataKept_retireWith srcs closes heff h _ fun _ _ _ _ => ⟨readD_writeC _ _ _ _ _, poisonD_writeC _ _ _ _ _⟩,
    capsKept_retireWith srcs closes heff h _ fun _ _ _ => readC_writeC_other _ _ _ _ _,
    predsKept_retireWith srcs closes _ fun _ _ _ _ => readP_writeC _ _ _ _ _, benchKept_retireWith srcs closes heff,
    seatsBecome_retireWith srcs closes heff h, fun k => readC_retire_holding srcs closes h k c v⟩

/-- Settles O10, from the laws of a retirement and of the three writes. -/
theorem aPassChangesItsDestinationAlone : Obligations.APassChangesItsDestinationAlone :=
  ⟨aDataRegisterPassChangesItsDestinationAlone, aPredicatePassChangesItsPredicateAlone,
    aCapabilityPassChangesItsRegisterAlone⟩

end Sys2Proof.Machine
end

section
/-!
PROOF. An operand fault retires nothing (R15, R88): which seat's fault is taken, how the bench stops, and what stays.
-/
namespace Sys2Proof.Machine

/-! ## The faults of a pass -/

theorem pairwise_lt_issued (s : State) : (issued s).Pairwise (· < ·) := List.pairwise_lt_range.filter _
/-- The first element that a partial map is defined on gives the first value. -/
theorem filterMap_eq_cons_of_first {ks : List Nat} (hs : ks.Pairwise (· < ·)) (f : Nat → Option OpFault) {k : Nat} {x : OpFault}
    (hk : k ∈ ks) (hx : f k = some x) (hfirst : ∀ j ∈ ks, j < k → f j = none) :
    ∃ xs, (ks.filterMap fun k => (f k).map fun x => (k, x)) = (k, x) :: xs := by
  induction ks with
  | nil => cases hk
  | cons j ks ih =>
    obtain ⟨hj, hs⟩ := List.pairwise_cons.mp hs
    rcases List.mem_cons.mp hk with rfl | hk
    · exact ⟨_, List.filterMap_cons_some (by rw [hx]; rfl)⟩
    · have hnone : f j = none := hfirst j List.mem_cons_self (hj k hk)
      rw [List.filterMap_cons_none (by rw [hnone]; rfl)]
      exact ih hs hk fun i hi => hfirst i (List.mem_cons_of_mem _ hi)
theorem any_faultsOf (s : State) (f : Nat → Option OpFault) (j : Nat) :
    (faultsOf s f).any (fun e => e.1 == j) = true ↔ j ∈ issued s ∧ (f j).isSome = true := by
  simp only [faultsOf, List.any_eq_true, List.mem_filterMap, Option.map_eq_some_iff, Option.isSome_iff_exists]
  constructor
  · rintro ⟨_, ⟨i, hi, y, hy, rfl⟩, hij⟩
    obtain rfl : i = j := by simpa using hij
    exact ⟨hi, y, hy⟩
  · rintro ⟨hj, y, hy⟩
    exact ⟨(j, y), ⟨j, hj, y, hy, rfl⟩, by simp⟩

/-! ## What a stopped bench keeps -/

/-- Where a seat stands: its PC, its recorded header and its place in the clause. -/
def seatPlace (x : Seat) : Word × Word × Nat := (x.pc, x.hdr, x.idx)
/-- The registers, predicates and flags of two benches are the same, and each seat stands at the same place. -/
structure SameStanding (b c : Bench) : Prop where
  vrows : c.vrows = b.vrows
  crows : c.crows = b.crows
  sregs : c.sregs = b.sregs
  preds : c.preds = b.preds
  flags : c.flags = b.flags
  place : ∀ j, seatPlace (getSeat c j) = seatPlace (getSeat b j)

theorem sameStanding_trans {a b c : Bench} (h : SameStanding a b) (h' : SameStanding b c) : SameStanding a c where
  vrows := h'.vrows.trans h.vrows
  crows := h'.crows.trans h.crows
  sregs := h'.sregs.trans h.sregs
  preds := h'.preds.trans h.preds
  flags := h'.flags.trans h.flags
  place j := (h'.place j).trans (h.place j)
theorem sameStanding_refl (b : Bench) : SameStanding b b := ⟨rfl, rfl, rfl, rfl, rfl, fun _ => rfl⟩
theorem readD_of_sameStanding {b c : Bench} (h : SameStanding b c) (r : DReg) (k : Nat) : readD c r k = readD b r k := by
  cases r
  · simp only [readD, h.vrows]
  · simp only [readD, h.sregs]
theorem readC_of_sameStanding {b c : Bench} (h : SameStanding b c) (r : CReg) (k : Nat) : readC c r k = readC b r k := by
  simp only [readC, h.crows]
theorem readP_of_sameStanding {b c : Bench} (h : SameStanding b c) (p : PReg) (k : Nat) : readP c p k = readP b p k := by
  simp only [readP, h.preds]
theorem seatPlace_freezeSeat (bell : Word) (x : Seat) : seatPlace (freezeSeat bell x) = seatPlace x := by
  unfold freezeSeat
  split <;> rfl
theorem sameStanding_haltBench (bell : Word) (b : Bench) : SameStanding b (haltBench bell b) := by
  unfold haltBench
  split
  · refine ⟨rfl, rfl, rfl, rfl, rfl, fun j => ?_⟩
    cases b.timers
    · rfl
    · have hj : nth (b.seats.map (freezeSeat bell)) j Seat.reset = freezeSeat bell (nth b.seats j Seat.reset) :=
        nth_map b.seats (freezeSeat bell) j Seat.reset
      simp only [getSeat, if_true, hj, seatPlace_freezeSeat]
  · exact sameStanding_refl b
/-- A bench that stops for a fault (R382). -/
def stoppedBench (bell : Word) (b : Bench) : Bench := { haltBench bell b with mode := .faulted }
theorem sameStanding_stoppedBench (bell : Word) (b : Bench) : SameStanding b (stoppedBench bell b) := by
  obtain ⟨hv, hc, hs, hp, hf, hplace⟩ := sameStanding_haltBench bell b
  exact ⟨hv, hc, hs, hp, hf, hplace⟩

/-! ## The state of a stopped bench -/

/-- Of the cores, the selected bench alone has changed, and nothing else of the package. -/
structure OnlyBenchChanged (s t : State) : Prop where
  outside : t = { s with cores := t.cores }
  bench : ∀ core slot, ¬(core = s.sel.core ∧ slot = s.sel.slot) → getBench t core slot = getBench s core slot
  core : ∀ core, core ≠ s.sel.core → getCore t core = getCore s core
  rest : ∀ core, { getCore t core with benches := [] } = { getCore s core with benches := [] }

theorem onlyBenchChanged_refl (s : State) : OnlyBenchChanged s s := ⟨rfl, fun _ _ _ => rfl, fun _ _ => rfl, fun _ => rfl⟩
theorem onlyBenchChanged_putCur (s : State) (b : Bench) : OnlyBenchChanged s (putCur s b) where
  outside := rfl
  bench _ _ h := getBench_putBench_other s _ _ _ _ b h
  core _ h := getCore_putCore_other s _ _ _ (Ne.symm h)
  rest core := getCore_putBench_rest s _ _ core b
theorem onlyBenchChanged_trans {s t u : State} (h : OnlyBenchChanged s t) (h' : OnlyBenchChanged t u) : OnlyBenchChanged s u := by
  have hsel : t.sel = s.sel := by rw [h.outside]
  obtain ⟨ho, hb, hc, hr⟩ := h'
  rw [hsel] at hb hc
  refine ⟨?_, fun core slot hne => (hb core slot hne).trans (h.bench core slot hne),
    fun core hne => (hc core hne).trans (h.core core hne), fun core => (hr core).trans (h.rest core)⟩
  rw [ho, h.outside]
/-- A bench some of whose seats are no longer due the fault that woke them. -/
def withoutWakes (b : Bench) (due : Nat → Bool) : Bench :=
  { b with seats := (List.range 32).map fun j => if due j then { getSeat b j with wake := none } else getSeat b j }
theorem endWakes_cases (s : State) (m : SeatMask) (x : OpFault) :
    endWakes s m x = s ∨ ∃ due, endWakes s m x = putCur s (withoutWakes (cur s) due) := by
  unfold endWakes
  dsimp only
  split
  · exact .inl rfl
  · exact .inr ⟨_, rfl⟩
theorem sameStanding_withoutWakes {b : Bench} (h : Shaped b) (due : Nat → Bool) : SameStanding b (withoutWakes b due) := by
  refine ⟨rfl, rfl, rfl, rfl, rfl, fun j => ?_⟩
  rcases Nat.lt_or_ge j 32 with hj | hj
  · have hseat : getSeat (withoutWakes b due) j = if due j then { getSeat b j with wake := none } else getSeat b j := by
      simp [withoutWakes, getSeat, nth, hj]
    rw [hseat]
    split <;> rfl
  · have hnew : (withoutWakes b due).seats.length ≤ j := by simpa [withoutWakes] using hj
    have hold : b.seats.length ≤ j := by rw [length_seats_of_shaped h]; exact hj
    rw [getSeat, nth_eq_default _ _ _ hnew, getSeat, nth_eq_default _ _ _ hold]
theorem onlyBenchChanged_endWakes (s : State) (m : SeatMask) (x : OpFault) : OnlyBenchChanged s (endWakes s m x) := by
  rcases endWakes_cases s m x with h | ⟨due, h⟩ <;> rw [h]
  · exact onlyBenchChanged_refl s
  · exact onlyBenchChanged_putCur s _
theorem sameStanding_endWakes {s : State} (hs : Shaped (cur s)) (m : SeatMask) (x : OpFault) :
    SameStanding (cur s) (cur (endWakes s m x)) := by
  rcases endWakes_cases s m x with h | ⟨due, h⟩ <;> rw [h]
  · exact sameStanding_refl _
  · rw [cur_putCur]
    exact sameStanding_withoutWakes hs due

/-! ## The bench stops (R382) -/

/-- A bench has stopped for a fault, which has joined the queue of its core; nothing else has changed. -/
structure Stopped (s t : State) (q : FaultInfo) : Prop where
  outside : t = { s with cores := t.cores }
  mode : (cur t).mode = .faulted
  standing : SameStanding (cur s) (cur t)
  bench : ∀ core slot, ¬(core = s.sel.core ∧ slot = s.sel.slot) → getBench t core slot = getBench s core slot
  core : ∀ core, core ≠ s.sel.core → getCore t core = getCore s core
  rest : { getCore t s.sel.core with benches := [], faultQ := [] } = { getCore s s.sel.core with benches := [], faultQ := [] }
  queue : (getCore t s.sel.core).faultQ = (getCore s s.sel.core).faultQ ++ [q]

/-- A fault joins the queue of the selected core. -/
def queueFaultOn (s : State) (q : FaultInfo) : State :=
  putCore s s.sel.core { getCore s s.sel.core with faultQ := (getCore s s.sel.core).faultQ ++ [q] }
theorem getBench_queueFaultOn (s : State) (q : FaultInfo) (core slot : Nat) :
    getBench (queueFaultOn s q) core slot = getBench s core slot := by
  unfold getBench queueFaultOn
  by_cases h : s.sel.core = core
  · rw [h, getCore_putCore_same]; rfl
  · rw [getCore_putCore_other _ _ _ _ h]
theorem stopBench_eq (s : State) (q : FaultInfo) (hq : q.slot = s.sel.slot) :
    stopBench s s.sel.core q = queueFaultOn (putCur s (stoppedBench s.bell (cur s))) q := by
  rw [stopBench, hq]
  rfl
theorem stopped_stopBench (s : State) (q : FaultInfo) (hq : q.slot = s.sel.slot) : Stopped s (stopBench s s.sel.core q) q := by
  have hput := onlyBenchChanged_putCur s (stoppedBench s.bell (cur s))
  rw [stopBench_eq s q hq]
  have hcur : cur (queueFaultOn (putCur s (stoppedBench s.bell (cur s))) q) = stoppedBench s.bell (cur s) :=
    (getBench_queueFaultOn _ _ _ _).trans (cur_putCur _ _)
  have hcore : getCore (queueFaultOn (putCur s (stoppedBench s.bell (cur s))) q) s.sel.core =
      { getCore (putCur s (stoppedBench s.bell (cur s))) s.sel.core with
        faultQ := (getCore (putCur s (stoppedBench s.bell (cur s))) s.sel.core).faultQ ++ [q] } := getCore_putCore_same _ _ _
  have hrest := hput.rest s.sel.core
  simp only [Core.mk.injEq] at hrest
  refine ⟨rfl, by rw [hcur]; rfl, by rw [hcur]; exact sameStanding_stoppedBench _ _,
    fun core slot h => (getBench_queueFaultOn _ _ _ _).trans (hput.bench core slot h),
    fun core h => (getCore_putCore_other _ _ _ _ (Ne.symm h)).trans (hput.core core h), ?_, ?_⟩
  · rw [hcore]
    simp [hrest]
  · rw [hcore]
    simp [hrest]
/-- A stop after a change of the selected bench that leaves its registers and its seats' places alone. -/
theorem stopped_after {s t u : State} {q : FaultInfo} (h : OnlyBenchChanged s t) (hs : SameStanding (cur s) (cur t))
    (h' : Stopped t u q) : Stopped s u q := by
  obtain ⟨ho, hm, hst, hb, hc, hr, hq⟩ := h'
  have hsel : t.sel = s.sel := by rw [h.outside]
  have hrest := h.rest s.sel.core
  simp only [Core.mk.injEq] at hrest
  rw [hsel] at hb hc hr hq
  refine ⟨?_, hm, sameStanding_trans hs hst, fun core slot hne => (hb core slot hne).trans (h.bench core slot hne),
    fun core hne => (hc core hne).trans (h.core core hne), ?_, ?_⟩
  · rw [ho, h.outside]
  · rw [hr]
    simp [hrest]
  · rw [hq]
    simp [hrest]

/-! ## The pass takes its first fault -/

theorem raiseFault_stops (s : State) (q : FaultInfo) (hslot : s.sel.slot ≠ 64) (hcode : q.code ≠ 0x20)
    (hremote : ¬(q.code = 0x40 ∧ q.sub = 1)) : raiseFault s q false = stopBench s s.sel.core q := by
  have hmon : onMonitor s = false := by simpa [onMonitor] using hslot
  simp [raiseFault, hmon, hcode, hremote]
/-- The fault of a pass whose lowest faulting seat is k. -/
def passFaultInfo (s : State) (f : Nat → Option OpFault) (k : Nat) (x : OpFault) : FaultInfo :=
  { slot := s.sel.slot, code := x.code, sub := x.sub, ifa := s.sel.pc, addr := x.addr
    mask := maskOf fun j => (faultsOf s f).any fun e => e.1 == j
    seat := k, resume := (getSeat (cur s) k).hdr, index := (getSeat (cur s) k).idx, past := false
    aux := x.aux, auxTag := x.auxTag, bell := s.bell }
theorem mask_passFaultInfo (s : State) (f : Nat → Option OpFault) (k : Nat) (x : OpFault) (j : Nat) (hj : j < 32) :
    (passFaultInfo s f k x).mask.getLsbD j = true ↔ j ∈ issued s ∧ (f j).isSome = true := by
  rw [passFaultInfo, getLsbD_maskOf, decide_eq_true hj, Bool.true_and, any_faultsOf]

section FirstFault
variable {s : State} {f : Nat → Option OpFault} {k : Nat} {x : OpFault} (hk : k ∈ issued s) (hx : f k = some x)
  (hfirst : ∀ j ∈ issued s, j < k → f j = none)
include hk hx hfirst

theorem guardPass_first (go : State) : guardPass s f go = .next (raiseFault
    (endWakes s (passFaultInfo s f k x).mask x) (passFaultInfo s f k x) x.pool) := by
  obtain ⟨xs, hxs⟩ : ∃ xs, faultsOf s f = (k, x) :: xs := filterMap_eq_cons_of_first (pairwise_lt_issued s) f hk hx hfirst
  simp only [guardPass, passFaultInfo, hxs, takeFaults]
theorem guardPass_stops (go : State) (hs : Shaped (cur s)) (hslot : s.sel.slot ≠ 64) (hpool : x.pool = false)
    (hcode : x.code ≠ 0x20) (hremote : ¬(x.code = 0x40 ∧ x.sub = 1)) :
    ∃ t, guardPass s f go = .next t ∧ Stopped s t (passFaultInfo s f k x) := by
  have hw := onlyBenchChanged_endWakes s (passFaultInfo s f k x).mask x
  have hsel : (endWakes s (passFaultInfo s f k x).mask x).sel = s.sel := by rw [hw.outside]
  refine ⟨_, guardPass_first hk hx hfirst go, ?_⟩
  rw [hpool, raiseFault_stops _ _ (by rw [hsel]; exact hslot) hcode hremote]
  exact stopped_after hw (sameStanding_endWakes hs _ _) (stopped_stopBench _ _ (by rw [hsel]; rfl))
end FirstFault

theorem anOperandFaultRetiresNothing : Claims.AnOperandFaultRetiresNothing := by
  intro s f go k x hs hslot hk hx hfirst hpool hcode hremote
  obtain ⟨t, ht, hstop⟩ := guardPass_stops hk hx hfirst go hs hslot hpool hcode hremote
  have hst := hstop.standing
  refine ⟨t, ht, hstop.outside, hstop.mode, hstop.bench, hstop.core, hstop.rest, readD_of_sameStanding hst,
    readC_of_sameStanding hst, readP_of_sameStanding hst, hst.flags, fun j => ?_,
    passFaultInfo s f k x, hstop.queue, rfl, rfl, rfl, rfl, rfl, rfl, rfl, rfl, rfl, rfl, rfl, mask_passFaultInfo s f k x⟩
  simpa [seatPlace] using hst.place j

end Sys2Proof.Machine
end

section
/-!
PROOF. Which operand fault a seat has (R138 to R140), and what registers without a row read (R136).
-/
namespace Sys2Proof.Machine

/-! ## Poison -/

/-- The first poisoned register read decides. -/
theorem poisonIn_first (b : Bench) (l m : List DReg) (r : DReg) (k c : Nat) (hl : ∀ x ∈ l, poisonD b x k = none)
    (hr : poisonD b r k = some c) : poisonIn b (l ++ r :: m) k = some (poisonFault r.code c) := by
  have hnone : (l.findSome? fun r => (poisonD b r k).map (poisonFault r.code)) = none := poisonIn_none b l k hl
  simp [poisonIn, List.findSome?_append, hnone, hr]
/-- The code of R139's cause, and the register in AUX. -/
theorem poisonFault_fields (r : DReg) (c : Nat) :
    ((poisonFault r.code c).code, (poisonFault r.code c).sub, (poisonFault r.code c).aux.toNat % 2 ^ 64) =
      (if c = 0 then 0x42 else if c = 1 then 0x41 else 0x40, 1, r.code) := by
  have hr : r.code < 18446744073709551616 := (Laws.WordLength.reg_lt r).trans (by norm_num)
  rcases c with _ | _ | c <;> simp [poisonFault, auxFault, hr]
theorem useFault_of_poison (s : State) (u : Uses) (k : Nat) (x : OpFault) (h : poisonIn (cur s) u.reads k = some x) :
    useFault s u k = some x := by
  rw [useFault, h]
theorem useFault_of_no_poison (s : State) (u : Uses) (k : Nat) (h : ∀ x ∈ u.reads, poisonD (cur s) x k = none)
    (hc : ∀ x ∈ u.creads, poisonC (cur s) x k = none) : useFault s u k = rowFault? s u.writes u.cwrites := by
  rw [useFault, poisonIn_none _ _ _ h, poisonInC_none _ _ _ hc]

/-! ## Rows (R138) -/

theorem newRows_nil {α : Type} (rows : List (Row α)) : newRows rows [] = 0 := rfl
theorem newRows_single {α : Type} (rows : List (Row α)) (r : Nat) :
    newRows rows [r] = if ∃ x ∈ rows, x.reg = r then 0 else 1 := by
  have hone : [r].eraseDups = [r] := rfl
  by_cases h : ∃ x ∈ rows, x.reg = r
  · have hany : (rows.any fun x => x.reg == r) = true := by simpa using h
    rw [newRows, hone, List.filter_cons, hany, if_pos h]
    rfl
  · have hany : (rows.any fun x => x.reg == r) = false := by simpa using h
    rw [newRows, hone, List.filter_cons, hany, if_neg h]
    rfl
theorem rowFault_v (s : State) (n : Fin 48) :
    (rowFault? s [.v n] []).map (fun f => (f.code, f.sub)) =
      if (∃ x ∈ (cur s).vrows, x.reg = n.val) ∨
        (cur s).vrows.length + lostV s s.sel.core s.sel.slot < (cur s).rowBudget then none else some (0x32, 1) := by
  have hds : (([.v n] : List DReg).filter DReg.isV).map DReg.code = [n.val] := rfl
  simp only [rowFault?, hds, newRows_single, List.filter_nil, List.map_nil, newRows_nil]
  by_cases hrow : ∃ x ∈ (cur s).vrows, x.reg = n.val
  · simp [hrow]
  · by_cases hroom : (cur s).vrows.length + lostV s s.sel.core s.sel.slot < (cur s).rowBudget
    · simp [hrow, hroom, Nat.not_lt.mpr (Nat.succ_le_of_lt hroom)]
    · simp [hrow, hroom, Nat.lt_succ_of_le (Nat.not_lt.mp hroom), auxFault]
theorem rowFault_c (s : State) (c : CReg) :
    (rowFault? s [] [c]).map (fun f => (f.code, f.sub)) =
      if c = 0 ∨ (∃ x ∈ (cur s).crows, x.reg = c.val) ∨
        (cur s).crows.length + lostC s s.sel.core s.sel.slot < (cur s).capBudget then none else some (0x32, 2) := by
  rcases eq_or_ne c 0 with rfl | h0
  · simp [rowFault?, newRows_nil]
  have hcs : ([c].filter fun c => c != 0).map (·.val) = [c.val] := by simp [h0]
  simp only [rowFault?, hcs, newRows_single, List.filter_nil, List.map_nil, newRows_nil]
  by_cases hrow : ∃ x ∈ (cur s).crows, x.reg = c.val
  · simp [hrow]
  · by_cases hroom : (cur s).crows.length + lostC s s.sel.core s.sel.slot < (cur s).capBudget
    · simp [hrow, hroom, Nat.not_lt.mpr (Nat.succ_le_of_lt hroom)]
    · simp [h0, hrow, hroom, Nat.lt_succ_of_le (Nat.not_lt.mp hroom), auxFault]

/-! ## The claim -/

theorem poisonThenRowsDecideTheOperandFault : Claims.PoisonThenRowsDecideTheOperandFault := by
  intro s u k
  refine ⟨fun l r m c hu hl hr => ?_, fun hd hc => ⟨fun n hw hcw => ?_, fun c hw hcw => ?_⟩⟩
  · rw [useFault_of_poison s u k _ (hu ▸ poisonIn_first (cur s) l m r k c hl hr), Option.map_some, poisonFault_fields]
  · rw [useFault_of_no_poison s u k hd hc, hw, hcw]
    exact rowFault_v s n
  · rw [useFault_of_no_poison s u k hd hc, hw, hcw]
    exact rowFault_c s c

/-! ## Registers without a row (R136) -/

theorem rowRead_of_no_row {α : Type} (rows : List (Row α)) (r k : Nat) (d : α) (h : ∀ x ∈ rows, x.reg ≠ r) :
    rowRead rows r k d = d ∧ rowPoison rows r k = none := by
  rw [rowRead_eq, rowPoison_eq, (findRow_eq_none rows r).mpr h]
  exact ⟨rfl, rfl⟩
theorem registersWithoutARowReadZero : Claims.RegistersWithoutARowReadZero := by
  intro b k
  refine ⟨fun n h => rowRead_of_no_row b.vrows n.val k 0 h, fun c h => ?_, readP_zero b k, readC_zero b k⟩
  rcases eq_or_ne c 0 with rfl | hc
  · exact ⟨readC_zero b k, poisonC_zero b k⟩
  · rw [readC_of_ne b k hc, poisonC_of_ne b k hc]
    exact rowRead_of_no_row b.crows c.val k Cap.null h

/-- Settles O11, from the stop of a faulting pass, the order of its operand faults, and the registers without a row. -/
theorem operandFaultsAndRows : Obligations.OperandFaultsAndRows :=
  ⟨anOperandFaultRetiresNothing, poisonThenRowsDecideTheOperandFault, registersWithoutARowReadZero⟩

end Sys2Proof.Machine
end

section
/-!
PROOF. Fields of a word, and the word of every instruction as a table of fields (R20 to R42, R356).
-/
namespace Sys2Proof
open Laws.WordLength (reg_lt use_lt width_lt fwidth_lt clauseW_lt rnd_lt cfmt_lt icond_lt fcond_lt scope_lt fenceOrd_lt memOrd_lt
  atomOp_lt mmaFmt_lt mmasFmt_lt tileFmt_lt)

/-! ## Fields of a word -/

/-- One field of a word: its width, its value, and that the value fits. -/
structure WField where
  bits : Nat
  val : Nat
  fits : val < 2 ^ bits

/-- The number of bits of adjacent fields. -/
def fieldBits : List WField → Nat
  | [] => 0
  | f :: fs => f.bits + fieldBits fs

/-- The number that adjacent fields make, the first one lowest. -/
def joinFields : List WField → Nat
  | [] => 0
  | f :: fs => f.val + 2 ^ f.bits * joinFields fs

/-- From bit `lo` upward, the word w holds the values of the fields. -/
def Holds (w : Nat) : Nat → List WField → Prop
  | _, [] => True
  | lo, f :: fs => fld w lo f.bits = f.val ∧ Holds w (lo + f.bits) fs

theorem fld_lt (w lo n : Nat) : fld w lo n < 2 ^ n := Nat.mod_lt _ (Nat.two_pow_pos n)
theorem fld_add (w lo n m : Nat) : fld w lo (n + m) = fld w lo n + 2 ^ n * fld w (lo + n) m := by
  simp only [fld]
  rw [pow_add, Nat.mod_mul, pow_add, Nat.div_div_eq_div_mul]
theorem fld_all {w n : Nat} (h : w < 2 ^ n) : fld w 0 n = w := by
  rw [fld, pow_zero, Nat.div_one, Nat.mod_eq_of_lt h]

/-- A word holds fields if and only if they make its bits. -/
theorem holds_iff (w : Nat) : ∀ (fs : List WField) (lo : Nat), Holds w lo fs ↔ fld w lo (fieldBits fs) = joinFields fs
  | [], lo => by simp [Holds, fieldBits, joinFields, fld, Nat.mod_one]
  | f :: fs, lo => by
    have hlow := fld_lt w lo f.bits
    rw [Holds, fieldBits, joinFields, fld_add, holds_iff w fs]
    constructor
    · rintro ⟨h, hs⟩
      rw [h, hs]
    · intro h
      have hmod := congrArg (· % 2 ^ f.bits) h
      simp only [Nat.add_mul_mod_self_left, Nat.mod_eq_of_lt hlow, Nat.mod_eq_of_lt f.fits] at hmod
      rw [hmod] at h
      exact ⟨hmod, Nat.eq_of_mul_eq_mul_left (Nat.two_pow_pos f.bits) (Nat.add_left_cancel h)⟩
theorem holds_iff_eq_join {w : Nat} {fs : List WField} (h : w < 2 ^ fieldBits fs) : Holds w 0 fs ↔ w = joinFields fs := by
  rw [holds_iff, fld_all h]

/-! ## The fields of the operands -/

@[simp] def lit (n c : Nat) (h : c < 2 ^ n := by decide) : WField := ⟨n, c, h⟩
@[simp] def zeros (n : Nat) : WField := ⟨n, 0, Nat.two_pow_pos n⟩
@[simp] def flag (b : Bool) : WField := ⟨1, b.toNat, b.toNat_lt⟩
@[simp] def bv {n : Nat} (x : BitVec n) : WField := ⟨n, x.toNat, x.isLt⟩
@[simp] def ix (n : Nat) (x : Fin (2 ^ n)) : WField := ⟨n, x.val, x.isLt⟩
@[simp] def DReg.field (d : DReg) : WField := ⟨6, d.code, reg_lt d⟩
@[simp] def Use.field (u : Use) : WField := ⟨2, u.code, use_lt u⟩
@[simp] def Src.fields (a : Src) : List WField := [a.reg.field, a.use.field]
@[simp] def Width.field (w : Width) : WField := ⟨2, w.code, width_lt w⟩
@[simp] def FWidth.field (f : FWidth) : WField := ⟨2, f.code, fwidth_lt f⟩
@[simp] def ClauseW.field (w : ClauseW) : WField := ⟨2, w.code, clauseW_lt w⟩
@[simp] def Rnd.field (r : Rnd) : WField := ⟨3, r.code, rnd_lt r⟩
@[simp] def Rnd.low (r : Rnd) : WField := ⟨2, r.code % 4, Nat.mod_lt _ (by decide)⟩
@[simp] def Rnd.high (r : Rnd) : WField := ⟨1, r.code / 4, Nat.div_lt_of_lt_mul (rnd_lt r)⟩
@[simp] def CFmt.field (f : CFmt) : WField := ⟨3, f.code, cfmt_lt f⟩
@[simp] def ICond.field (c : ICond) : WField := ⟨3, c.code, icond_lt c⟩
@[simp] def FCond.field (c : FCond) : WField := ⟨3, c.code, fcond_lt c⟩
@[simp] def Scope.field (s : Scope) : WField := ⟨3, s.code, scope_lt s⟩
@[simp] def FenceOrd.field (o : FenceOrd) : WField := ⟨2, o.code, fenceOrd_lt o⟩
@[simp] def MemOrd.field (o : MemOrd) : WField := ⟨2, o.code, memOrd_lt o⟩
@[simp] def AtomOp.low (o : AtomOp) : WField := ⟨3, o.code % 8, Nat.mod_lt _ (by decide)⟩
@[simp] def AtomOp.high (o : AtomOp) : WField := ⟨2, o.code / 8, Nat.div_lt_of_lt_mul (by have := atomOp_lt o; omega)⟩
@[simp] def MmaFmt.field (f : MmaFmt) : WField := ⟨3, f.code, Nat.lt_of_lt_of_le (mmaFmt_lt f) (by decide)⟩
@[simp] def MmasFmt.field (f : MmasFmt) : WField := ⟨3, f.code, Nat.lt_of_lt_of_le (mmasFmt_lt f) (by decide)⟩
@[simp] def TileFmt.field (f : TileFmt) : WField := ⟨3, f.code, tileFmt_lt f⟩
@[simp] def immLow (i : BitVec 12) : WField := ⟨5, i.toNat % 32, Nat.mod_lt _ (by decide)⟩
@[simp] def immHigh (i : BitVec 12) : WField := ⟨7, i.toNat / 32, Nat.div_lt_of_lt_mul i.isLt⟩

/-! ## The words of the instructions, field by field from bit 0 upward (R20 to R42, R356) -/

/-- A half-word (R20). -/
@[simp] def halfForm (op : Nat) (l : Bool) (a d : Fin 32) (h : op < 2 ^ 4 := by decide) : List WField :=
  [lit 1 0, lit 4 op h, ix 5 d, ix 5 a, flag l]
/-- A 32-bit word of a major (R23). -/
@[simp] def wordForm (major : Nat) (fs : List WField) (h : major < 2 ^ 6 := by decide) : List WField :=
  lit 1 1 :: lit 6 major h :: fs
/-- A word with D (R27). -/
@[simp] def dForm (major : Nat) (d : DReg) (fs : List WField) (h : major < 2 ^ 6 := by decide) : List WField :=
  wordForm major (d.field :: fs) h
/-- A word with D and A (R27). -/
@[simp] def daForm (major : Nat) (d : DReg) (a : Src) (fs : List WField) (h : major < 2 ^ 6 := by decide) : List WField :=
  dForm major d (a.fields ++ fs) h
/-- A word with D, A and B (R27). -/
@[simp] def dabForm (major : Nat) (d : DReg) (a b : Src) (fs : List WField) (h : major < 2 ^ 6 := by decide) : List WField :=
  daForm major d a (b.fields ++ fs) h
/-- A word of custom-0 (R356). -/
@[simp] def hostForm (fs : List WField) : List WField := lit 7 11 :: fs

/-- The words of the 16-bit forms (R20, R22). -/
def halfLayout : Instr → List WField
  | .mov16 l a d => halfForm 0 l a d
  | .add16 l a d => halfForm 1 l a d
  | .sub16 l a d => halfForm 2 l a d
  | .mul16 l a d => halfForm 3 l a d
  | .and16 l a d => halfForm 4 l a d
  | .or16 l a d => halfForm 5 l a d
  | .xor16 l a d => halfForm 6 l a d
  | .shl16 l a d => halfForm 7 l a d
  | .shr16 l a d => halfForm 8 l a d
  | .sar16 l a d => halfForm 9 l a d
  | .min16 l a d => halfForm 10 l a d
  | .max16 l a d => halfForm 11 l a d
  | .fadd16 l a d => halfForm 12 l a d
  | .fsub16 l a d => halfForm 13 l a d
  | .fmul16 l a d => halfForm 14 l a d
  | .fma16 l a d => halfForm 15 l a d
  | _ => []

/-- The words of clause headers and integer lane instructions (majors 0x00 to 0x0F). -/
def laneLayout : Instr → List WField
  | .clause n w setB setA wait => wordForm 0x00 [bv wait, bv setA, bv setB, w.field, flag n, zeros 2]
  | .add w b a d => dabForm 0x01 d a b [w.field, lit 1 0]
  | .sub w b a d => dabForm 0x01 d a b [w.field, lit 1 1]
  | .mul w b a d => dabForm 0x02 d a b [w.field, lit 1 0]
  | .mulh w b a d => dabForm 0x02 d a b [w.field, lit 1 1]
  | .mad w b a d => dabForm 0x03 d a b [w.field, lit 1 0]
  | .min w b a d => dabForm 0x04 d a b [w.field, lit 1 0]
  | .max w b a d => dabForm 0x04 d a b [w.field, lit 1 1]
  | .minu w b a d => dabForm 0x05 d a b [w.field, lit 1 0]
  | .maxu w b a d => dabForm 0x05 d a b [w.field, lit 1 1]
  | .abs w a d => daForm 0x06 d a [zeros 8, w.field, lit 1 0]
  | .neg w a d => daForm 0x06 d a [zeros 8, w.field, lit 1 1]
  | .shl w b a d => dabForm 0x07 d a b [w.field, lit 1 0]
  | .shr w b a d => dabForm 0x07 d a b [w.field, lit 1 1]
  | .sar w b a d => dabForm 0x08 d a b [w.field, lit 1 0]
  | .rot w b a d => dabForm 0x08 d a b [w.field, lit 1 1]
  | .clz w a d => daForm 0x09 d a [zeros 8, w.field, lit 1 0]
  | .ctz w a d => daForm 0x09 d a [zeros 8, w.field, lit 1 1]
  | .popc w a d => daForm 0x0A d a [zeros 8, w.field, lit 1 0]
  | .brev w a d => daForm 0x0A d a [zeros 8, w.field, lit 1 1]
  | .bfx w b a d => dabForm 0x0B d a b [w.field, lit 1 0]
  | .bfi w b a d => dabForm 0x0B d a b [w.field, lit 1 1]
  | .sel p w b a d => daForm 0x0C d a [b.field, w.field, ix 3 p]
  | .cvtI u wd sat ws a d => daForm 0x0D d a [ws.field, flag sat, zeros 5, wd.field, flag u]
  | .and b a d => dabForm 0x0E d a b [lit 3 0]
  | .or b a d => dabForm 0x0E d a b [lit 3 1]
  | .xor b a d => dabForm 0x0E d a b [lit 3 2]
  | .andn b a d => dabForm 0x0E d a b [lit 3 3]
  | .not a d => daForm 0x0E d a [zeros 8, lit 3 4]
  | .mov a d => daForm 0x0E d a [zeros 8, lit 3 5]
  | .perm b a d => dabForm 0x0E d a b [lit 3 6]
  | .pack w b a d => dabForm 0x0F d a b [w.field, lit 1 0]
  | .unpack w h a d => daForm 0x0F d a [flag h, zeros 7, w.field, lit 1 1]
  | _ => []

/-- The words of floats, modular lanes, exchanges and immediates (majors 0x10 to 0x1D). -/
def floatLayout : Instr → List WField
  | .fadd f b a d => dabForm 0x10 d a b [f.field, lit 1 0]
  | .fsub f b a d => dabForm 0x10 d a b [f.field, lit 1 1]
  | .fmul f b a d => dabForm 0x11 d a b [f.field, lit 1 0]
  | .fma f b a d => dabForm 0x11 d a b [f.field, lit 1 1]
  | .fnma f b a d => dabForm 0x12 d a b [f.field, lit 1 0]
  | .fscale f b a d => dabForm 0x12 d a b [f.field, lit 1 1]
  | .fmin f b a d => dabForm 0x13 d a b [f.field, lit 1 0]
  | .fmax f b a d => dabForm 0x13 d a b [f.field, lit 1 1]
  | .fabs f a d => daForm 0x14 d a [f.field, zeros 6, lit 3 0]
  | .fneg f a d => daForm 0x14 d a [f.field, zeros 6, lit 3 1]
  | .fclass f a d => daForm 0x14 d a [f.field, zeros 6, lit 3 2]
  | .fround r f a d => daForm 0x14 d a [f.field, r.field, zeros 3, lit 3 3]
  | .fcvt dst r src a d => daForm 0x15 d a [src.field, r.field, zeros 2, dst.field]
  | .frcp f a d => daForm 0x16 d a [f.field, zeros 6, lit 3 0]
  | .frsq f a d => daForm 0x16 d a [f.field, zeros 6, lit 3 1]
  | .fsqrt f a d => daForm 0x16 d a [f.field, zeros 6, lit 3 2]
  | .fexp2 f a d => daForm 0x16 d a [f.field, zeros 6, lit 3 3]
  | .flog2 f a d => daForm 0x16 d a [f.field, zeros 6, lit 3 4]
  | .fsin f a d => daForm 0x16 d a [f.field, zeros 6, lit 3 5]
  | .fcos f a d => daForm 0x16 d a [f.field, zeros 6, lit 3 6]
  | .ftanh f a d => daForm 0x16 d a [f.field, zeros 6, lit 3 7]
  | .modadd b a d => dabForm 0x18 d a b [lit 3 0]
  | .modsub b a d => dabForm 0x18 d a b [lit 3 1]
  | .modmul b a d => dabForm 0x18 d a b [lit 3 2]
  | .mred b a d => dabForm 0x18 d a b [lit 3 3]
  | .nttbf a d => daForm 0x18 d a [zeros 8, lit 3 4]
  | .inttbf a d => daForm 0x18 d a [zeros 8, lit 3 5]
  | .shfl b a d => dabForm 0x1A d a b [lit 3 0]
  | .shflx b a d => dabForm 0x1A d a b [lit 3 1]
  | .bcast k a d => daForm 0x1A d a [bv k, zeros 3, lit 3 2]
  | .ballot p d => dForm 0x1A d [ix 3 p, zeros 13, lit 3 3]
  | .voteAny p w q => wordForm 0x1A [ix 3 q, w.field, zeros 1, ix 3 p, zeros 13, lit 3 4]
  | .voteAll p w q => wordForm 0x1A [ix 3 q, w.field, zeros 1, ix 3 p, zeros 13, lit 3 5]
  | .matchSeats a d => daForm 0x1A d a [zeros 8, lit 3 6]
  | .scan w x fl o a d => daForm 0x1B d a [bv o, flag fl, flag x, zeros 3, w.field, lit 1 0]
  | .red w fl o a d => daForm 0x1B d a [bv o, flag fl, zeros 4, w.field, lit 1 1]
  | .li i d => dForm 0x1C d [bv i, lit 3 0]
  | .lih1 i d => dForm 0x1C d [bv i, lit 3 1]
  | .lih2 i d => dForm 0x1C d [bv i, lit 3 2]
  | .lih3 i d => dForm 0x1C d [bv i, lit 3 3]
  | .lih0 i d => dForm 0x1C d [bv i, lit 3 4]
  | .addi w i a d => dForm 0x1D d [a.field, bv i, w.field, lit 1 0]
  | _ => []

/-- The words of transfers, comparisons and predicates (majors 0x20 to 0x27). -/
def controlLayout : Instr → List WField
  | .exit => wordForm 0x21 [zeros 22, lit 3 2]
  | .yield => wordForm 0x21 [zeros 22, lit 3 3]
  | .bra o => wordForm 0x20 [zeros 6, bv o, lit 3 0]
  | .call o d => dForm 0x20 d [bv o, lit 3 1]
  | .brP o inv k => wordForm 0x20 [ix 3 k, flag inv, zeros 2, bv o, lit 3 2]
  | .brx ca cd => wordForm 0x21 [ix 4 cd, zeros 2, ix 4 ca, zeros 12, lit 3 0]
  | .ret a => wordForm 0x21 ([zeros 6] ++ a.fields ++ [zeros 8, lit 3 1])
  | .brk hi lo => wordForm 0x21 [zeros 6, bv lo, zeros 2, bv hi, zeros 2, lit 3 4]
  | .pause a => wordForm 0x21 ([zeros 6] ++ a.fields ++ [zeros 8, lit 3 5])
  | .cmp c b a w p => wordForm 0x24 ([ix 3 p, w.field, zeros 1] ++ a.fields ++ b.fields ++ [c.field])
  | .cmpi c i a w p => wordForm 0x25 ([ix 3 p, w.field, zeros 1] ++ a.fields ++ [bv i, c.field])
  | .fcmp c b a f p => wordForm 0x26 ([ix 3 p, f.field, zeros 1] ++ a.fields ++ b.fields ++ [c.field])
  | .pand b a d => wordForm 0x27 [ix 3 d, zeros 3, ix 3 a, zeros 5, ix 3 b, zeros 5, lit 3 0]
  | .por b a d => wordForm 0x27 [ix 3 d, zeros 3, ix 3 a, zeros 5, ix 3 b, zeros 5, lit 3 1]
  | .pxor b a d => wordForm 0x27 [ix 3 d, zeros 3, ix 3 a, zeros 5, ix 3 b, zeros 5, lit 3 2]
  | .pnot a d => wordForm 0x27 [ix 3 d, zeros 3, ix 3 a, zeros 13, lit 3 3]
  | _ => []

/-- The words of loads, stores, fences and atomics (majors 0x28 to 0x2F). -/
def memoryLayout : Instr → List WField
  | .ldIndex x sz c d => dForm 0x28 d ([ix 4 c, sz.field, lit 1 0, zeros 1] ++ x.fields ++ [lit 3 0])
  | .ldImm i sz c d => dForm 0x28 d [ix 4 c, sz.field, lit 1 1, bv i, lit 3 0]
  | .stIndex x sz c d => dForm 0x28 d ([ix 4 c, sz.field, lit 1 0, zeros 1] ++ x.fields ++ [lit 3 1])
  | .stImm i sz c d => dForm 0x28 d [ix 4 c, sz.field, lit 1 1, bv i, lit 3 1]
  | .ldpIndex x c d => dForm 0x28 d ([ix 4 c, zeros 2, lit 1 0, zeros 1] ++ x.fields ++ [lit 3 2])
  | .ldpImm i c d => dForm 0x28 d [ix 4 c, zeros 2, lit 1 1, bv i, lit 3 2]
  | .stpIndex x c d => dForm 0x28 d ([ix 4 c, zeros 2, lit 1 0, zeros 1] ++ x.fields ++ [lit 3 3])
  | .stpImm i c d => dForm 0x28 d [ix 4 c, zeros 2, lit 1 1, bv i, lit 3 3]
  | .ldsIndex x sz c d => dForm 0x29 d ([ix 4 c, sz.field, lit 1 0, zeros 1] ++ x.fields ++ [lit 3 0])
  | .ldsImm i sz c d => dForm 0x29 d [ix 4 c, sz.field, lit 1 1, bv i, lit 3 0]
  | .stsIndex x sz c d => dForm 0x29 d ([ix 4 c, sz.field, lit 1 0, zeros 1] ++ x.fields ++ [lit 3 1])
  | .stsImm i sz c d => dForm 0x29 d [ix 4 c, sz.field, lit 1 1, bv i, lit 3 1]
  | .ldfRIndex x c d => dForm 0x29 d ([ix 4 c, zeros 2, lit 1 0, zeros 1] ++ x.fields ++ [lit 3 2])
  | .ldfRImm i c d => dForm 0x29 d [ix 4 c, zeros 2, lit 1 1, bv i, lit 3 2]
  | .ldfCIndex x c d => dForm 0x29 d ([ix 4 c, zeros 2, lit 1 0, zeros 1] ++ x.fields ++ [lit 3 3])
  | .ldfCImm i c d => dForm 0x29 d [ix 4 c, zeros 2, lit 1 1, bv i, lit 3 3]
  | .stfRIndex x c d => dForm 0x29 d ([ix 4 c, zeros 2, lit 1 0, zeros 1] ++ x.fields ++ [lit 3 4])
  | .stfRImm i c d => dForm 0x29 d [ix 4 c, zeros 2, lit 1 1, bv i, lit 3 4]
  | .stfCIndex x c d => dForm 0x29 d ([ix 4 c, zeros 2, lit 1 0, zeros 1] ++ x.fields ++ [lit 3 5])
  | .stfCImm i c d => dForm 0x29 d [ix 4 c, zeros 2, lit 1 1, bv i, lit 3 5]
  | .ldcIndex x c cd => wordForm 0x2A ([ix 4 cd, zeros 2, ix 4 c, zeros 2, lit 1 0, zeros 1] ++ x.fields ++ [lit 3 0])
  | .ldcImm i c cd => wordForm 0x2A [ix 4 cd, zeros 2, ix 4 c, zeros 2, lit 1 1, bv i, lit 3 0]
  | .stcIndex x c cd => wordForm 0x2A ([ix 4 cd, zeros 2, ix 4 c, zeros 2, lit 1 0, zeros 1] ++ x.fields ++ [lit 3 1])
  | .stcImm i c cd => wordForm 0x2A [ix 4 cd, zeros 2, ix 4 c, zeros 2, lit 1 1, bv i, lit 3 1]
  | .prefIndex x c llc => wordForm 0x2A ([flag llc, zeros 5, ix 4 c, zeros 2, lit 1 0, zeros 1] ++ x.fields ++ [lit 3 2])
  | .prefImm i c llc => wordForm 0x2A [flag llc, zeros 5, ix 4 c, zeros 2, lit 1 1, bv i, lit 3 2]
  | .fence s o => wordForm 0x2A [o.field, zeros 9, s.field, zeros 8, lit 3 3]
  | .atomRelaxed op b s w32 c d => dForm 0x2B d [ix 4 c, flag w32, s.field, b.field, op.high, op.low]
  | .atomAcquire op b s w32 c d => dForm 0x2C d [ix 4 c, flag w32, s.field, b.field, op.high, op.low]
  | .atomRelease op b s w32 c d => dForm 0x2D d [ix 4 c, flag w32, s.field, b.field, op.high, op.low]
  | .atomAcqRel op b s w32 c d => dForm 0x2E d [ix 4 c, flag w32, s.field, b.field, op.high, op.low]
  | .atoms op b o w32 c d => dForm 0x2F d [ix 4 c, flag w32, zeros 1, o.field, b.field, op.high, op.low]
  | _ => []

/-- The words of capabilities, groups, mailboxes and copies (majors 0x30 to 0x36). -/
def capLayout : Instr → List WField
  | .cinc b sh ca cd => wordForm 0x30 ([ix 4 cd, zeros 2, ix 4 ca, bv sh] ++ b.fields ++ [lit 3 0])
  | .cset b ca cd => wordForm 0x30 ([ix 4 cd, zeros 2, ix 4 ca, zeros 4] ++ b.fields ++ [lit 3 1])
  | .cbnd b ca cd => wordForm 0x30 ([ix 4 cd, zeros 2, ix 4 ca, zeros 4] ++ b.fields ++ [lit 3 2])
  | .cperm b ca cd => wordForm 0x30 ([ix 4 cd, zeros 2, ix 4 ca, zeros 4] ++ b.fields ++ [lit 3 3])
  | .cseal cb ca cd => wordForm 0x30 [ix 4 cd, zeros 2, ix 4 ca, zeros 4, ix 4 cb, zeros 4, lit 3 4]
  | .cunseal cb ca cd => wordForm 0x30 [ix 4 cd, zeros 2, ix 4 ca, zeros 4, ix 4 cb, zeros 4, lit 3 5]
  | .cmov ca cd => wordForm 0x30 [ix 4 cd, zeros 2, ix 4 ca, zeros 12, lit 3 6]
  | .cclr ca cd => wordForm 0x30 [ix 4 cd, zeros 2, ix 4 ca, zeros 12, lit 3 7]
  | .cget slct ca d => dForm 0x31 d [ix 4 ca, zeros 4, bv slct, zeros 2, lit 3 0]
  | .ctest b ca w p => wordForm 0x31 ([ix 3 p, w.field, zeros 1, ix 4 ca, zeros 4] ++ b.fields ++ [lit 3 1])
  | .ceq cb ca w p => wordForm 0x31 [ix 3 p, w.field, zeros 1, ix 4 ca, zeros 4, ix 4 cb, zeros 4, lit 3 2]
  | .join g => wordForm 0x34 [ix 6 g, zeros 16, lit 3 0]
  | .leave g => wordForm 0x34 [ix 6 g, zeros 16, lit 3 1]
  | .arrive g => wordForm 0x34 [ix 6 g, zeros 16, lit 3 2]
  | .waitb g => wordForm 0x34 [ix 6 g, zeros 16, lit 3 3]
  | .bar g => wordForm 0x34 [ix 6 g, zeros 16, lit 3 4]
  | .mbw m a => wordForm 0x35 ([zeros 6] ++ a.fields ++ [ix 3 m, zeros 5, lit 3 0])
  | .mbr m d => dForm 0x35 d [zeros 8, ix 3 m, zeros 5, lit 3 1]
  | .mbtry m p d => dForm 0x35 d [ix 3 p, zeros 5, ix 3 m, zeros 5, lit 3 2]
  | .mbind m g => wordForm 0x35 [ix 6 g, zeros 8, ix 3 m, zeros 5, lit 3 3]
  | .cpyT q sz ca arr fb cd => wordForm 0x36 ([ix 4 cd, flag fb, flag arr, ix 4 ca, sz.field, zeros 2] ++ q.fields ++ [lit 3 0])
  | .cpyG q sz ca arr fb cd => wordForm 0x36 ([ix 4 cd, flag fb, flag arr, ix 4 ca, sz.field, zeros 2] ++ q.fields ++ [lit 3 1])
  | .cpyS q sz ca arr fb cd => wordForm 0x36 ([ix 4 cd, flag fb, flag arr, ix 4 ca, sz.field, zeros 2] ++ q.fields ++ [lit 3 2])
  | .cpySc q sz ca arr fb cd => wordForm 0x36 ([ix 4 cd, flag fb, flag arr, ix 4 ca, sz.field, zeros 2] ++ q.fields ++ [lit 3 3])
  | .cpyP q sz arr fb cd => wordForm 0x36 ([ix 4 cd, flag fb, flag arr, zeros 4, sz.field, zeros 2] ++ q.fields ++ [lit 3 4])
  | .seal d => wordForm 0x36 [zeros 14, d.field, zeros 2, lit 3 5]
  | _ => []

/-- The words of matrices, endpoints, fabric and system (majors 0x39 to 0x3E). -/
def systemLayout : Instr → List WField
  | .ckpt => wordForm 0x3D [zeros 22, lit 3 6]
  | .tret => wordForm 0x3E [zeros 22, lit 3 4]
  | .haltPark => wordForm 0x3E [zeros 6, lit 2 0, zeros 14, lit 3 7]
  | .haltFail => wordForm 0x3E [zeros 6, lit 2 1, zeros 14, lit 3 7]
  | .haltRequeue => wordForm 0x3E [zeros 6, lit 2 2, zeros 14, lit 3 7]
  | .mma fmt b a t => wordForm 0x39 ([ix 4 t, zeros 2] ++ a.fields ++ b.fields ++ [fmt.field])
  | .mmas fmt b a p t => wordForm 0x3A ([ix 4 t, bv p] ++ a.fields ++ b.fields ++ [fmt.field])
  | .mmod b a t => wordForm 0x3B ([ix 4 t, zeros 2] ++ a.fields ++ b.fields ++ [lit 3 0])
  | .aclr t => wordForm 0x3B [ix 4 t, zeros 18, lit 3 1]
  | .ald fmt c a t => wordForm 0x3B ([ix 4 t, zeros 2] ++ a.fields ++ [ix 4 c, zeros 1, fmt.field, lit 3 2])
  | .ast fmt r c a t => wordForm 0x3B ([ix 4 t, r.low] ++ a.fields ++ [ix 4 c, r.high, fmt.field, lit 3 3])
  | .tmma c q t => wordForm 0x3B ([ix 4 t, zeros 2] ++ q.fields ++ [ix 4 c, zeros 4, lit 3 4])
  | .send cb a ce => wordForm 0x3C ([ix 4 ce, zeros 2] ++ a.fields ++ [ix 4 cb, zeros 4, lit 3 0])
  | .recv cb a ce => wordForm 0x3C ([ix 4 ce, zeros 2] ++ a.fields ++ [ix 4 cb, zeros 4, lit 3 1])
  | .xcall cb a ce => wordForm 0x3C ([ix 4 ce, zeros 2] ++ a.fields ++ [ix 4 cb, zeros 4, lit 3 2])
  | .reply cb a => wordForm 0x3C ([zeros 6] ++ a.fields ++ [ix 4 cb, zeros 4, lit 3 3])
  | .notify a ce => wordForm 0x3C ([ix 4 ce, zeros 2] ++ a.fields ++ [zeros 8, lit 3 4])
  | .poll cb a ce => wordForm 0x3C ([ix 4 ce, zeros 2] ++ a.fields ++ [ix 4 cb, zeros 4, lit 3 5])
  | .sysc cb a ce => wordForm 0x3C ([ix 4 ce, zeros 2] ++ a.fields ++ [ix 4 cb, zeros 4, lit 3 6])
  | .push cb keep d ce => wordForm 0x3D [ix 4 ce, zeros 2, d.field, flag keep, zeros 1, ix 4 cb, zeros 4, lit 3 0]
  | .sret a ce => wordForm 0x3D ([ix 4 ce, zeros 2] ++ a.fields ++ [zeros 8, lit 3 1])
  | .mark ce => wordForm 0x3D [ix 4 ce, zeros 18, lit 3 2]
  | .bpost a k => wordForm 0x3D ([ix 4 k, zeros 2] ++ a.fields ++ [zeros 8, lit 3 3])
  | .bwait a k => wordForm 0x3D ([ix 4 k, zeros 2] ++ a.fields ++ [zeros 8, lit 3 4])
  | .emit a ce => wordForm 0x3D ([ix 4 ce, zeros 2] ++ a.fields ++ [zeros 8, lit 3 5])
  | .rd slct d => dForm 0x3E d [bv slct, zeros 2, lit 3 0]
  | .srd slct d => dForm 0x3E d [bv slct, zeros 2, lit 3 1]
  | .swr slct d => dForm 0x3E d [bv slct, zeros 2, lit 3 2]
  | .trap code => wordForm 0x3E [zeros 6, bv code, zeros 2, lit 3 3]
  | .bsave sec c => wordForm 0x3E [ix 4 c, zeros 2, lit 1 0, bv sec, zeros 12, lit 3 5]
  | .brest sec c => wordForm 0x3E [ix 4 c, zeros 2, lit 1 1, bv sec, zeros 12, lit 3 5]
  | .rmap b a d => daForm 0x3E d a [b.field, zeros 2, lit 3 6]
  | _ => []

/-- The words of the host capability instructions (R356). -/
def hostLayout : Instr → List WField
  | .hcld i rs1 hcd => hostForm [ix 4 hcd, zeros 1, lit 3 0, ix 5 rs1, bv i]
  | .hcst i hcs rs1 => hostForm [immLow i, lit 3 1, ix 5 rs1, ix 4 hcs, zeros 1, immHigh i]
  | .hcget slct hca rd => hostForm [ix 5 rd, lit 3 2, ix 4 hca, zeros 1, bv slct]
  | .hcinc rs2 hca hcd => hostForm [ix 4 hcd, zeros 1, lit 3 3, ix 4 hca, zeros 1, ix 5 rs2, lit 7 0]
  | .hcset rs2 hca hcd => hostForm [ix 4 hcd, zeros 1, lit 3 3, ix 4 hca, zeros 1, ix 5 rs2, lit 7 1]
  | .hcbnd rs2 hca hcd => hostForm [ix 4 hcd, zeros 1, lit 3 3, ix 4 hca, zeros 1, ix 5 rs2, lit 7 2]
  | .hcperm rs2 hca hcd => hostForm [ix 4 hcd, zeros 1, lit 3 3, ix 4 hca, zeros 1, ix 5 rs2, lit 7 3]
  | .hcmov hca hcd => hostForm [ix 4 hcd, zeros 1, lit 3 3, ix 4 hca, zeros 6, lit 7 4]
  | .hcclr hca hcd => hostForm [ix 4 hcd, zeros 1, lit 3 3, ix 4 hca, zeros 6, lit 7 5]
  | .hcseal hcb hca hcd => hostForm [ix 4 hcd, zeros 1, lit 3 3, ix 4 hca, zeros 1, ix 4 hcb, zeros 1, lit 7 6]
  | .hcunseal hcb hca hcd => hostForm [ix 4 hcd, zeros 1, lit 3 3, ix 4 hca, zeros 1, ix 4 hcb, zeros 1, lit 7 7]
  | .hcsend hcb hce => hostForm [zeros 5, lit 3 4, ix 4 hce, zeros 1, ix 4 hcb, zeros 1, lit 7 0]
  | .hcrecv hcb hce => hostForm [zeros 5, lit 3 4, ix 4 hce, zeros 1, ix 4 hcb, zeros 1, lit 7 1]
  | .hcxcall hcb hce => hostForm [zeros 5, lit 3 4, ix 4 hce, zeros 1, ix 4 hcb, zeros 1, lit 7 2]
  | .hcreply hcb hce => hostForm [zeros 5, lit 3 4, ix 4 hce, zeros 1, ix 4 hcb, zeros 1, lit 7 3]
  | .hcnotify rs2 hce => hostForm [zeros 5, lit 3 4, ix 4 hce, zeros 1, ix 5 rs2, lit 7 4]
  | .hcpoll hcb hce => hostForm [zeros 5, lit 3 4, ix 4 hce, zeros 1, ix 4 hcb, zeros 1, lit 7 5]
  | _ => []
end Sys2Proof
end

section
/-!
PROOF. Codes of the operands and the fields that a decoder reads; the encoder writes the fields of the tables, and the decoder
reads them back.
-/
namespace Sys2Proof

-- One theorem at a time, as in Laws/PerInstr.lean: theorems that wait for one another's equations each hold a thread.
set_option Elab.async false
open Laws.WordLength (reg_lt use_lt width_lt fwidth_lt clauseW_lt rnd_lt cfmt_lt icond_lt fcond_lt scope_lt fenceOrd_lt memOrd_lt
  atomOp_lt mmaFmt_lt mmasFmt_lt tileFmt_lt)

/-! ## Codes of the operands -/

@[simp] theorem ofCode_code_reg (d : DReg) : DReg.ofCode d.code = d := by
  cases d <;> simp [DReg.code, DReg.ofCode]
@[simp] theorem ofCode_code_use (u : Use) : Use.ofCode u.code = u := by cases u <;> rfl
@[simp] theorem ofCode_code_width (w : Width) : Width.ofCode w.code = w := by cases w <;> rfl
@[simp] theorem ofCode_code_fwidth (f : FWidth) : FWidth.ofCode f.code = f := by cases f <;> rfl
@[simp] theorem ofCode_code_clauseW (w : ClauseW) : ClauseW.ofCode w.code = w := by cases w <;> rfl
@[simp] theorem ofCode_code_rnd (r : Rnd) : Rnd.ofCode r.code = r := by cases r <;> rfl
@[simp] theorem ofCode_code_cfmt (f : CFmt) : CFmt.ofCode f.code = f := by cases f <;> rfl
@[simp] theorem ofCode_code_icond (c : ICond) : ICond.ofCode c.code = c := by cases c <;> rfl
@[simp] theorem ofCode_code_fcond (c : FCond) : FCond.ofCode c.code = c := by cases c <;> rfl
@[simp] theorem ofCode_code_scope (s : Scope) : Scope.ofCode s.code = s := by cases s <;> rfl
@[simp] theorem ofCode_code_fenceOrd (o : FenceOrd) : FenceOrd.ofCode o.code = o := by cases o <;> rfl
@[simp] theorem ofCode_code_memOrd (o : MemOrd) : MemOrd.ofCode o.code = o := by cases o <;> rfl
@[simp] theorem ofCode_code_atomOp (o : AtomOp) : AtomOp.ofCode o.code = o := by cases o <;> rfl
@[simp] theorem ofCode_code_mmaFmt (f : MmaFmt) : MmaFmt.ofCode f.code = f := by cases f <;> rfl
@[simp] theorem ofCode_code_mmasFmt (f : MmasFmt) : MmasFmt.ofCode f.code = f := by cases f <;> rfl
@[simp] theorem ofCode_code_tileFmt (f : TileFmt) : TileFmt.ofCode f.code = f := by cases f <;> rfl

/-! The same the other way round, for a field that a decoder reads. -/

@[simp] theorem code_ofCode_reg (w lo : Nat) : (DReg.ofCode (fld w lo 6)).code = fld w lo 6 := by
  have h := fld_lt w lo 6
  unfold DReg.ofCode
  split <;> simp only [DReg.code, Fin.val_ofNat] <;> omega
@[simp] theorem code_ofCode_use (w lo : Nat) : (Use.ofCode (fld w lo 2)).code = fld w lo 2 := by
  have h := fld_lt w lo 2
  generalize fld w lo 2 = n at *
  interval_cases n <;> rfl
@[simp] theorem code_ofCode_width (w lo : Nat) : (Width.ofCode (fld w lo 2)).code = fld w lo 2 := by
  have h := fld_lt w lo 2
  generalize fld w lo 2 = n at *
  interval_cases n <;> rfl
@[simp] theorem code_ofCode_fwidth (w lo : Nat) : (FWidth.ofCode (fld w lo 2)).code = fld w lo 2 := by
  have h := fld_lt w lo 2
  generalize fld w lo 2 = n at *
  interval_cases n <;> rfl
@[simp] theorem code_ofCode_clauseW (w lo : Nat) : (ClauseW.ofCode (fld w lo 2)).code = fld w lo 2 := by
  have h := fld_lt w lo 2
  generalize fld w lo 2 = n at *
  interval_cases n <;> rfl
@[simp] theorem code_ofCode_cfmt (w lo : Nat) : (CFmt.ofCode (fld w lo 3)).code = fld w lo 3 := by
  have h := fld_lt w lo 3
  generalize fld w lo 3 = n at *
  interval_cases n <;> rfl
@[simp] theorem code_ofCode_icond (w lo : Nat) : (ICond.ofCode (fld w lo 3)).code = fld w lo 3 := by
  have h := fld_lt w lo 3
  generalize fld w lo 3 = n at *
  interval_cases n <;> rfl
@[simp] theorem code_ofCode_fcond (w lo : Nat) : (FCond.ofCode (fld w lo 3)).code = fld w lo 3 := by
  have h := fld_lt w lo 3
  generalize fld w lo 3 = n at *
  interval_cases n <;> rfl
@[simp] theorem code_ofCode_scope (w lo : Nat) : (Scope.ofCode (fld w lo 3)).code = fld w lo 3 := by
  have h := fld_lt w lo 3
  generalize fld w lo 3 = n at *
  interval_cases n <;> rfl
@[simp] theorem code_ofCode_fenceOrd (w lo : Nat) : (FenceOrd.ofCode (fld w lo 2)).code = fld w lo 2 := by
  have h := fld_lt w lo 2
  generalize fld w lo 2 = n at *
  interval_cases n <;> rfl
@[simp] theorem code_ofCode_memOrd (w lo : Nat) : (MemOrd.ofCode (fld w lo 2)).code = fld w lo 2 := by
  have h := fld_lt w lo 2
  generalize fld w lo 2 = n at *
  interval_cases n <;> rfl
@[simp] theorem code_ofCode_tileFmt (w lo : Nat) : (TileFmt.ofCode (fld w lo 3)).code = fld w lo 3 := by
  have h := fld_lt w lo 3
  generalize fld w lo 3 = n at *
  interval_cases n <;> rfl
/-- The rounding codes that are not reserved (R41). -/
theorem code_ofCode_rnd : ∀ n < 8, Rnd.ofCode n ≠ .reserved → (Rnd.ofCode n).code = n := by decide
theorem code_ofCode_atomOp : ∀ n < 11, (AtomOp.ofCode n).code = n := by decide
theorem code_ofCode_mmaFmt : ∀ n < 5, (MmaFmt.ofCode n).code = n := by decide
theorem code_ofCode_mmasFmt : ∀ n < 5, (MmasFmt.ofCode n).code = n := by decide
@[simp] theorem fld_mod_of_le {w lo n m : Nat} (h : 2 ^ n ≤ m) : fld w lo n % m = fld w lo n :=
  Nat.mod_eq_of_lt (Nat.lt_of_lt_of_le (fld_lt w lo n) h)
@[simp] theorem fld_div_of_le {w lo n m : Nat} (h : 2 ^ n ≤ m) : fld w lo n / m = 0 :=
  Nat.div_eq_of_lt (Nat.lt_of_lt_of_le (fld_lt w lo n) h)
@[simp] theorem toNat_fld_one (w k : Nat) : (fld w k 1 == 1).toNat = fld w k 1 := by
  have := fld_lt w k 1
  obtain h | h : fld w k 1 = 0 ∨ fld w k 1 = 1 := by omega
  all_goals rw [h]; rfl
@[simp] theorem fld_one_ne_one (w k : Nat) : ¬ fld w k 1 = 1 ↔ fld w k 1 = 0 := by
  have := fld_lt w k 1
  omega

/-! ## The encoder writes the fields -/

theorem size_of_halfLayout {i : Instr} {f : WField} {fs : List WField} (h : halfLayout i = f :: fs) :
    f = lit 1 0 ∧ fieldBits (f :: fs) = 16 := by
  cases i <;> cases h <;> exact ⟨rfl, rfl⟩
theorem encode_of_halfLayout {i : Instr} {f : WField} {fs : List WField} (h : halfLayout i = f :: fs) :
    encode i = some (2, joinFields (f :: fs)) := by
  cases i <;> cases h <;> refine congrArg some (Prod.ext rfl ?_) <;>
    simp only [joinFields, lit, flag, ix] <;> omega
theorem size_of_laneLayout {i : Instr} {f : WField} {fs : List WField} (h : laneLayout i = f :: fs) :
    f = lit 1 1 ∧ fieldBits (f :: fs) = 32 := by
  cases i <;> cases h <;> exact ⟨rfl, rfl⟩
theorem encode_of_laneLayout {i : Instr} {f : WField} {fs : List WField} (h : laneLayout i = f :: fs) :
    encode i = some (4, joinFields (f :: fs)) := by
  cases i <;> cases h <;> refine congrArg some (Prod.ext rfl ?_) <;>
    simp only [joinFields, lit, zeros, flag, bv, ix, DReg.field, Use.field, Src.fields, Width.field, ClauseW.field,
      List.cons_append, List.nil_append] <;> omega
theorem size_of_floatLayout {i : Instr} {f : WField} {fs : List WField} (h : floatLayout i = f :: fs) :
    f = lit 1 1 ∧ fieldBits (f :: fs) = 32 := by
  cases i <;> cases h <;> exact ⟨rfl, rfl⟩
theorem encode_of_floatLayout {i : Instr} {f : WField} {fs : List WField} (h : floatLayout i = f :: fs) :
    encode i = some (4, joinFields (f :: fs)) := by
  cases i <;> cases h <;> refine congrArg some (Prod.ext rfl ?_) <;>
    simp only [joinFields, lit, zeros, flag, bv, ix, DReg.field, Use.field, Src.fields, Width.field, FWidth.field,
      Rnd.field, CFmt.field, List.cons_append, List.nil_append] <;> omega
theorem size_of_controlLayout {i : Instr} {f : WField} {fs : List WField} (h : controlLayout i = f :: fs) :
    f = lit 1 1 ∧ fieldBits (f :: fs) = 32 := by
  cases i <;> cases h <;> exact ⟨rfl, rfl⟩
theorem encode_of_controlLayout {i : Instr} {f : WField} {fs : List WField} (h : controlLayout i = f :: fs) :
    encode i = some (4, joinFields (f :: fs)) := by
  cases i <;> cases h <;> refine congrArg some (Prod.ext rfl ?_) <;>
    simp only [joinFields, lit, zeros, flag, bv, ix, DReg.field, Use.field, Src.fields, Width.field, FWidth.field,
      ICond.field, FCond.field, List.cons_append, List.nil_append] <;> omega
theorem size_of_memoryLayout {i : Instr} {f : WField} {fs : List WField} (h : memoryLayout i = f :: fs) :
    f = lit 1 1 ∧ fieldBits (f :: fs) = 32 := by
  cases i <;> cases h <;> exact ⟨rfl, rfl⟩
theorem encode_of_memoryLayout {i : Instr} {f : WField} {fs : List WField} (h : memoryLayout i = f :: fs) :
    encode i = some (4, joinFields (f :: fs)) := by
  cases i <;> cases h <;> refine congrArg some (Prod.ext rfl ?_) <;>
    simp only [joinFields, lit, zeros, flag, bv, ix, DReg.field, Use.field, Src.fields, Width.field, Scope.field,
      FenceOrd.field, MemOrd.field, AtomOp.low, AtomOp.high, List.cons_append, List.nil_append] <;> omega
theorem size_of_capLayout {i : Instr} {f : WField} {fs : List WField} (h : capLayout i = f :: fs) :
    f = lit 1 1 ∧ fieldBits (f :: fs) = 32 := by
  cases i <;> cases h <;> exact ⟨rfl, rfl⟩
theorem encode_of_capLayout {i : Instr} {f : WField} {fs : List WField} (h : capLayout i = f :: fs) :
    encode i = some (4, joinFields (f :: fs)) := by
  cases i <;> cases h <;> refine congrArg some (Prod.ext rfl ?_) <;>
    simp only [joinFields, lit, zeros, flag, bv, ix, DReg.field, Use.field, Src.fields, Width.field, List.cons_append,
      List.nil_append] <;> omega
theorem size_of_systemLayout {i : Instr} {f : WField} {fs : List WField} (h : systemLayout i = f :: fs) :
    f = lit 1 1 ∧ fieldBits (f :: fs) = 32 := by
  cases i <;> cases h <;> exact ⟨rfl, rfl⟩
theorem encode_of_systemLayout {i : Instr} {f : WField} {fs : List WField} (h : systemLayout i = f :: fs) :
    encode i = some (4, joinFields (f :: fs)) := by
  cases i <;> cases h <;> refine congrArg some (Prod.ext rfl ?_) <;>
    simp only [joinFields, lit, zeros, flag, bv, ix, DReg.field, Use.field, Src.fields, Rnd.low, Rnd.high,
      MmaFmt.field, MmasFmt.field, TileFmt.field, List.cons_append, List.nil_append] <;> omega
theorem size_of_hostLayout {i : Instr} {f : WField} {fs : List WField} (h : hostLayout i = f :: fs) :
    fieldBits (f :: fs) = 32 := by
  cases i <;> cases h <;> rfl
theorem encodeHost_of_hostLayout {i : Instr} {f : WField} {fs : List WField} (h : hostLayout i = f :: fs) :
    encodeHost i = some (joinFields (f :: fs)) := by
  cases i <;> cases h <;> refine congrArg some ?_ <;>
    simp only [joinFields, lit, zeros, bv, ix, immLow, immHigh] <;> omega

/-! ## The decoder of each major (R40) -/

section Majors
variable {w : Nat}
theorem decode32_major00 (h : fld w 1 6 = 0x00) : decode32 w = decodeMajor00 w := by rw [decode32, h]; rfl
theorem decode32_major01 (h : fld w 1 6 = 0x01) : decode32 w = decodeMajor01 w := by rw [decode32, h]; rfl
theorem decode32_major02 (h : fld w 1 6 = 0x02) : decode32 w = decodeMajor02 w := by rw [decode32, h]; rfl
theorem decode32_major03 (h : fld w 1 6 = 0x03) : decode32 w = decodeMajor03 w := by rw [decode32, h]; rfl
theorem decode32_major04 (h : fld w 1 6 = 0x04) : decode32 w = decodeMajor04 w := by rw [decode32, h]; rfl
theorem decode32_major05 (h : fld w 1 6 = 0x05) : decode32 w = decodeMajor05 w := by rw [decode32, h]; rfl
theorem decode32_major06 (h : fld w 1 6 = 0x06) : decode32 w = decodeMajor06 w := by rw [decode32, h]; rfl
theorem decode32_major07 (h : fld w 1 6 = 0x07) : decode32 w = decodeMajor07 w := by rw [decode32, h]; rfl
theorem decode32_major08 (h : fld w 1 6 = 0x08) : decode32 w = decodeMajor08 w := by rw [decode32, h]; rfl
theorem decode32_major09 (h : fld w 1 6 = 0x09) : decode32 w = decodeMajor09 w := by rw [decode32, h]; rfl
theorem decode32_major0A (h : fld w 1 6 = 0x0A) : decode32 w = decodeMajor0A w := by rw [decode32, h]; rfl
theorem decode32_major0B (h : fld w 1 6 = 0x0B) : decode32 w = decodeMajor0B w := by rw [decode32, h]; rfl
theorem decode32_major0C (h : fld w 1 6 = 0x0C) : decode32 w = decodeMajor0C w := by rw [decode32, h]; rfl
theorem decode32_major0D (h : fld w 1 6 = 0x0D) : decode32 w = decodeMajor0D w := by rw [decode32, h]; rfl
theorem decode32_major0E (h : fld w 1 6 = 0x0E) : decode32 w = decodeMajor0E w := by rw [decode32, h]; rfl
theorem decode32_major0F (h : fld w 1 6 = 0x0F) : decode32 w = decodeMajor0F w := by rw [decode32, h]; rfl
theorem decode32_major10 (h : fld w 1 6 = 0x10) : decode32 w = decodeMajor10 w := by rw [decode32, h]; rfl
theorem decode32_major11 (h : fld w 1 6 = 0x11) : decode32 w = decodeMajor11 w := by rw [decode32, h]; rfl
theorem decode32_major12 (h : fld w 1 6 = 0x12) : decode32 w = decodeMajor12 w := by rw [decode32, h]; rfl
theorem decode32_major13 (h : fld w 1 6 = 0x13) : decode32 w = decodeMajor13 w := by rw [decode32, h]; rfl
theorem decode32_major14 (h : fld w 1 6 = 0x14) : decode32 w = decodeMajor14 w := by rw [decode32, h]; rfl
theorem decode32_major15 (h : fld w 1 6 = 0x15) : decode32 w = decodeMajor15 w := by rw [decode32, h]; rfl
theorem decode32_major16 (h : fld w 1 6 = 0x16) : decode32 w = decodeMajor16 w := by rw [decode32, h]; rfl
theorem decode32_major18 (h : fld w 1 6 = 0x18) : decode32 w = decodeMajor18 w := by rw [decode32, h]; rfl
theorem decode32_major1A (h : fld w 1 6 = 0x1A) : decode32 w = decodeMajor1A w := by rw [decode32, h]; rfl
theorem decode32_major1B (h : fld w 1 6 = 0x1B) : decode32 w = decodeMajor1B w := by rw [decode32, h]; rfl
theorem decode32_major1C (h : fld w 1 6 = 0x1C) : decode32 w = decodeMajor1C w := by rw [decode32, h]; rfl
theorem decode32_major1D (h : fld w 1 6 = 0x1D) : decode32 w = decodeMajor1D w := by rw [decode32, h]; rfl
theorem decode32_major20 (h : fld w 1 6 = 0x20) : decode32 w = decodeMajor20 w := by rw [decode32, h]; rfl
theorem decode32_major21 (h : fld w 1 6 = 0x21) : decode32 w = decodeMajor21 w := by rw [decode32, h]; rfl
theorem decode32_major24 (h : fld w 1 6 = 0x24) : decode32 w = decodeMajor24 w := by rw [decode32, h]; rfl
theorem decode32_major25 (h : fld w 1 6 = 0x25) : decode32 w = decodeMajor25 w := by rw [decode32, h]; rfl
theorem decode32_major26 (h : fld w 1 6 = 0x26) : decode32 w = decodeMajor26 w := by rw [decode32, h]; rfl
theorem decode32_major27 (h : fld w 1 6 = 0x27) : decode32 w = decodeMajor27 w := by rw [decode32, h]; rfl
theorem decode32_major28 (h : fld w 1 6 = 0x28) : decode32 w = decodeMajor28 w := by rw [decode32, h]; rfl
theorem decode32_major29 (h : fld w 1 6 = 0x29) : decode32 w = decodeMajor29 w := by rw [decode32, h]; rfl
theorem decode32_major2A (h : fld w 1 6 = 0x2A) : decode32 w = decodeMajor2A w := by rw [decode32, h]; rfl
theorem decode32_major2B (h : fld w 1 6 = 0x2B) : decode32 w = decodeMajor2B w := by rw [decode32, h]; rfl
theorem decode32_major2C (h : fld w 1 6 = 0x2C) : decode32 w = decodeMajor2C w := by rw [decode32, h]; rfl
theorem decode32_major2D (h : fld w 1 6 = 0x2D) : decode32 w = decodeMajor2D w := by rw [decode32, h]; rfl
theorem decode32_major2E (h : fld w 1 6 = 0x2E) : decode32 w = decodeMajor2E w := by rw [decode32, h]; rfl
theorem decode32_major2F (h : fld w 1 6 = 0x2F) : decode32 w = decodeMajor2F w := by rw [decode32, h]; rfl
theorem decode32_major30 (h : fld w 1 6 = 0x30) : decode32 w = decodeMajor30 w := by rw [decode32, h]; rfl
theorem decode32_major31 (h : fld w 1 6 = 0x31) : decode32 w = decodeMajor31 w := by rw [decode32, h]; rfl
theorem decode32_major34 (h : fld w 1 6 = 0x34) : decode32 w = decodeMajor34 w := by rw [decode32, h]; rfl
theorem decode32_major35 (h : fld w 1 6 = 0x35) : decode32 w = decodeMajor35 w := by rw [decode32, h]; rfl
theorem decode32_major36 (h : fld w 1 6 = 0x36) : decode32 w = decodeMajor36 w := by rw [decode32, h]; rfl
theorem decode32_major39 (h : fld w 1 6 = 0x39) : decode32 w = decodeMajor39 w := by rw [decode32, h]; rfl
theorem decode32_major3A (h : fld w 1 6 = 0x3A) : decode32 w = decodeMajor3A w := by rw [decode32, h]; rfl
theorem decode32_major3B (h : fld w 1 6 = 0x3B) : decode32 w = decodeMajor3B w := by rw [decode32, h]; rfl
theorem decode32_major3C (h : fld w 1 6 = 0x3C) : decode32 w = decodeMajor3C w := by rw [decode32, h]; rfl
theorem decode32_major3D (h : fld w 1 6 = 0x3D) : decode32 w = decodeMajor3D w := by rw [decode32, h]; rfl
theorem decode32_major3E (h : fld w 1 6 = 0x3E) : decode32 w = decodeMajor3E w := by rw [decode32, h]; rfl
end Majors

/-! ## The decoder reads the fields back -/

theorem decode32_of_laneLayout {i : Instr} {f : WField} {fs : List WField} {w : Nat} (h : laneLayout i = f :: fs)
    (hw : Holds w 0 (f :: fs)) (hwf : i.wf = true) : decode32 w = .ok i := by
  cases i <;> cases h <;> simp [Holds] at hw <;>
    simp [hw, hwf, chk, chkHeader, decode32_major00, decode32_major01, decode32_major02, decode32_major03, decode32_major04, decode32_major05, decode32_major06, decode32_major07, decode32_major08, decode32_major09, decode32_major0A, decode32_major0B, decode32_major0C, decode32_major0D, decode32_major0E, decode32_major0F,
      decodeMajor00, decodeMajor01, decodeMajor02, decodeMajor03, decodeMajor04, decodeMajor05, decodeMajor06, decodeMajor07, decodeMajor08, decodeMajor09, decodeMajor0A, decodeMajor0B, decodeMajor0C, decodeMajor0D, decodeMajor0E, decodeMajor0F]
theorem decode32_of_floatLayout {i : Instr} {f : WField} {fs : List WField} {w : Nat} (h : floatLayout i = f :: fs)
    (hw : Holds w 0 (f :: fs)) (hwf : i.wf = true) : decode32 w = .ok i := by
  cases i <;> cases h <;> simp [Holds] at hw <;>
    simp [hw, hwf, chk, decode32_major10, decode32_major11, decode32_major12, decode32_major13, decode32_major14, decode32_major15, decode32_major16, decode32_major18, decode32_major1A, decode32_major1B, decode32_major1C, decode32_major1D,
      decodeMajor10, decodeMajor11, decodeMajor12, decodeMajor13, decodeMajor14, decodeMajor15, decodeMajor16, decodeMajor18, decodeMajor1A, decodeMajor1B, decodeMajor1C, decodeMajor1D]
theorem decode32_of_controlLayout {i : Instr} {f : WField} {fs : List WField} {w : Nat} (h : controlLayout i = f :: fs)
    (hw : Holds w 0 (f :: fs)) (hwf : i.wf = true) : decode32 w = .ok i := by
  cases i <;> cases h <;> simp [Holds] at hw <;>
    simp [hw, hwf, chk, decode32_major20, decode32_major21, decode32_major24, decode32_major25, decode32_major26, decode32_major27,
      decodeMajor20, decodeMajor21, decodeMajor24, decodeMajor25, decodeMajor26, decodeMajor27]
theorem decode32_of_memoryLayout {i : Instr} {f : WField} {fs : List WField} {w : Nat} (h : memoryLayout i = f :: fs)
    (hw : Holds w 0 (f :: fs)) (hwf : i.wf = true) : decode32 w = .ok i := by
  cases i <;> cases h <;> simp [Holds] at hw <;>
    simp [hw, hwf, chk, Nat.mod_add_div, atomOp_lt, decode32_major28, decode32_major29, decode32_major2A, decode32_major2B, decode32_major2C, decode32_major2D, decode32_major2E, decode32_major2F,
      decodeMajor28, decodeMajor29, decodeMajor2A, decodeMajor2B, decodeMajor2C, decodeMajor2D, decodeMajor2E, decodeMajor2F]
theorem decode32_of_capLayout {i : Instr} {f : WField} {fs : List WField} {w : Nat} (h : capLayout i = f :: fs)
    (hw : Holds w 0 (f :: fs)) (hwf : i.wf = true) : decode32 w = .ok i := by
  cases i <;> cases h <;> simp [Holds] at hw <;>
    simp [hw, hwf, chk, decode32_major30, decode32_major31, decode32_major34, decode32_major35, decode32_major36,
      decodeMajor30, decodeMajor31, decodeMajor34, decodeMajor35, decodeMajor36]
theorem decode32_of_systemLayout {i : Instr} {f : WField} {fs : List WField} {w : Nat} (h : systemLayout i = f :: fs)
    (hw : Holds w 0 (f :: fs)) (hwf : i.wf = true) : decode32 w = .ok i := by
  cases i <;> cases h <;> simp [Holds] at hw <;>
    simp [hw, hwf, chk, Nat.mod_add_div, mmaFmt_lt, mmasFmt_lt, decode32_major39, decode32_major3A, decode32_major3B, decode32_major3C, decode32_major3D, decode32_major3E,
      decodeMajor39, decodeMajor3A, decodeMajor3B, decodeMajor3C, decodeMajor3D, decodeMajor3E]
theorem decode16_of_halfLayout {i : Instr} {f : WField} {fs : List WField} {w : Nat} (h : halfLayout i = f :: fs)
    (hw : Holds w 0 (f :: fs)) : decode16 w = i := by
  cases i <;> cases h <;> simp [Holds] at hw <;> simp [hw, decode16]
theorem decodeHost_of_hostLayout {i : Instr} {f : WField} {fs : List WField} {w : Nat} (h : hostLayout i = f :: fs)
    (hw : Holds w 0 (f :: fs)) (hwf : i.wf = true) : decodeHost w = .ok i := by
  cases i <;> cases h <;> simp [Holds] at hw <;> simp [hw, hwf, chk, decodeHost, Nat.mod_add_div]
end Sys2Proof
end

section
/-!
PROOF. What a decoder gives stands in the tables, with the fields that its word holds.
-/
namespace Sys2Proof

-- One theorem at a time, as in Laws/PerInstr.lean: theorems that wait for one another's equations each hold a thread.
set_option Elab.async false

/-! ## What a decoder gives is the word's instruction -/

/-- An answer of a decoder for w is sound: an instruction that it gives is well formed and has a word in the table, whose fields w
holds. -/
def Sound (T : Instr → List WField) (w : Nat) (r : Except DecodeErr Instr) : Prop :=
  ∀ i, r = .ok i → i.wf = true ∧ T i ≠ [] ∧ Holds w 0 (T i)

@[simp] theorem sound_error (T : Instr → List WField) (w : Nat) (e : DecodeErr) : Sound T w (.error e) :=
  fun _ h => by cases h
@[simp] theorem sound_chk (T : Instr → List WField) (w : Nat) (zero : Bool) (i : Instr) :
    Sound T w (chk zero i) ↔ (zero = true → i.wf = true → T i ≠ [] ∧ Holds w 0 (T i)) := by
  cases zero <;> cases hwf : i.wf <;> simp [Sound, chk, hwf]
@[simp] theorem sound_chkHeader (T : Instr → List WField) (w : Nat) (zero : Bool) (i : Instr) :
    Sound T w (chkHeader zero i) ↔ (zero = true → i.wf = true → T i ≠ [] ∧ Holds w 0 (T i)) := by
  cases zero <;> cases hwf : i.wf <;> simp [Sound, chkHeader, hwf]
@[simp] theorem sound_ite (T : Instr → List WField) (w : Nat) (c : Prop) [Decidable c] (x y : Except DecodeErr Instr) :
    Sound T w (if c then x else y) ↔ (c → Sound T w x) ∧ (¬ c → Sound T w y) := by
  by_cases h : c <;> simp [h]

/-- The last of the eight values of SEL (R40). -/
theorem fld_three_eq_seven {w lo : Nat} (h0 : fld w lo 3 ≠ 0) (h1 : fld w lo 3 ≠ 1) (h2 : fld w lo 3 ≠ 2) (h3 : fld w lo 3 ≠ 3)
    (h4 : fld w lo 3 ≠ 4) (h5 : fld w lo 3 ≠ 5) (h6 : fld w lo 3 ≠ 6) : fld w lo 3 = 7 := by
  have := fld_lt w lo 3
  omega

/-! A well-formed instruction carries no reserved rounding code (R41). -/

theorem fround_rnd {r : Rnd} {f : FWidth} {a : Src} {d : DReg} (h : (Instr.fround r f a d).wf = true) : r ≠ .reserved := by
  rintro rfl
  exact absurd ((Bool.and_eq_true_iff.mp h).2 : Rnd.reserved.isDirected = true) (by decide)
theorem fcvt_rnd {dst src : CFmt} {r : Rnd} {a : Src} {d : DReg} (h : (Instr.fcvt dst r src a d).wf = true) : r ≠ .reserved := by
  rintro rfl
  exact absurd ((Bool.and_eq_true_iff.mp (Bool.and_eq_true_iff.mp h).1).2 : (Rnd.reserved != .reserved) = true) (by decide)
theorem ast_rnd {f : TileFmt} {r : Rnd} {c : CReg} {a : Src} {t : Fin 16} (h : (Instr.ast f r c a t).wf = true) :
    r ≠ .reserved := by
  rintro rfl
  exact absurd ((Bool.and_eq_true_iff.mp h).2 : astRndOk f .reserved = true) (by simp [astRndOk])

section MajorSound
variable {w : Nat} (ho : fld w 0 1 = 1)
include ho

theorem major00_sound (hm : fld w 1 6 = 0x00) : Sound laneLayout w (decodeMajor00 w) := by
  simp +contextual [decodeMajor00, laneLayout, Holds, ho, hm]
theorem major01_sound (hm : fld w 1 6 = 0x01) : Sound laneLayout w (decodeMajor01 w) := by
  simp +contextual [decodeMajor01, laneLayout, Holds, ho, hm]
theorem major02_sound (hm : fld w 1 6 = 0x02) : Sound laneLayout w (decodeMajor02 w) := by
  simp +contextual [decodeMajor02, laneLayout, Holds, ho, hm]
theorem major03_sound (hm : fld w 1 6 = 0x03) : Sound laneLayout w (decodeMajor03 w) := by
  simp +contextual [decodeMajor03, laneLayout, Holds, ho, hm]
theorem major04_sound (hm : fld w 1 6 = 0x04) : Sound laneLayout w (decodeMajor04 w) := by
  simp +contextual [decodeMajor04, laneLayout, Holds, ho, hm]
theorem major05_sound (hm : fld w 1 6 = 0x05) : Sound laneLayout w (decodeMajor05 w) := by
  simp +contextual [decodeMajor05, laneLayout, Holds, ho, hm]
theorem major06_sound (hm : fld w 1 6 = 0x06) : Sound laneLayout w (decodeMajor06 w) := by
  simp +contextual [decodeMajor06, laneLayout, Holds, ho, hm]
theorem major07_sound (hm : fld w 1 6 = 0x07) : Sound laneLayout w (decodeMajor07 w) := by
  simp +contextual [decodeMajor07, laneLayout, Holds, ho, hm]
theorem major08_sound (hm : fld w 1 6 = 0x08) : Sound laneLayout w (decodeMajor08 w) := by
  simp +contextual [decodeMajor08, laneLayout, Holds, ho, hm]
theorem major09_sound (hm : fld w 1 6 = 0x09) : Sound laneLayout w (decodeMajor09 w) := by
  simp +contextual [decodeMajor09, laneLayout, Holds, ho, hm]
theorem major0A_sound (hm : fld w 1 6 = 0x0A) : Sound laneLayout w (decodeMajor0A w) := by
  simp +contextual [decodeMajor0A, laneLayout, Holds, ho, hm]
theorem major0B_sound (hm : fld w 1 6 = 0x0B) : Sound laneLayout w (decodeMajor0B w) := by
  simp +contextual [decodeMajor0B, laneLayout, Holds, ho, hm]
theorem major0C_sound (hm : fld w 1 6 = 0x0C) : Sound laneLayout w (decodeMajor0C w) := by
  simp +contextual [decodeMajor0C, laneLayout, Holds, ho, hm]
theorem major0D_sound (hm : fld w 1 6 = 0x0D) : Sound laneLayout w (decodeMajor0D w) := by
  simp +contextual [decodeMajor0D, laneLayout, Holds, ho, hm]
theorem major0E_sound (hm : fld w 1 6 = 0x0E) : Sound laneLayout w (decodeMajor0E w) := by
  unfold decodeMajor0E
  split <;> simp +contextual [laneLayout, Holds, *]
theorem major0F_sound (hm : fld w 1 6 = 0x0F) : Sound laneLayout w (decodeMajor0F w) := by
  simp +contextual [decodeMajor0F, laneLayout, Holds, ho, hm]
theorem major10_sound (hm : fld w 1 6 = 0x10) : Sound floatLayout w (decodeMajor10 w) := by
  simp +contextual [decodeMajor10, floatLayout, Holds, ho, hm]
theorem major11_sound (hm : fld w 1 6 = 0x11) : Sound floatLayout w (decodeMajor11 w) := by
  simp +contextual [decodeMajor11, floatLayout, Holds, ho, hm]
theorem major12_sound (hm : fld w 1 6 = 0x12) : Sound floatLayout w (decodeMajor12 w) := by
  simp +contextual [decodeMajor12, floatLayout, Holds, ho, hm]
theorem major13_sound (hm : fld w 1 6 = 0x13) : Sound floatLayout w (decodeMajor13 w) := by
  simp +contextual [decodeMajor13, floatLayout, Holds, ho, hm]
theorem major14_sound (hm : fld w 1 6 = 0x14) : Sound floatLayout w (decodeMajor14 w) := by
  unfold decodeMajor14
  split <;> simp +contextual [floatLayout, Holds, *]
  exact fun _ hwf => (code_ofCode_rnd _ (fld_lt w 23 3) (fround_rnd hwf)).symm
theorem major15_sound (hm : fld w 1 6 = 0x15) : Sound floatLayout w (decodeMajor15 w) := by
  simp +contextual [decodeMajor15, floatLayout, Holds, ho, hm]
  exact fun _ hwf => (code_ofCode_rnd _ (fld_lt w 24 3) (fcvt_rnd hwf)).symm
theorem major16_sound (hm : fld w 1 6 = 0x16) : Sound floatLayout w (decodeMajor16 w) := by
  unfold decodeMajor16
  split <;> simp +contextual [floatLayout, Holds, *]
  exact fun _ _ => fld_three_eq_seven ‹_› ‹_› ‹_› ‹_› ‹_› ‹_› ‹_›
theorem major18_sound (hm : fld w 1 6 = 0x18) : Sound floatLayout w (decodeMajor18 w) := by
  unfold decodeMajor18
  split <;> simp +contextual [floatLayout, Holds, *]
theorem major1A_sound (hm : fld w 1 6 = 0x1A) : Sound floatLayout w (decodeMajor1A w) := by
  unfold decodeMajor1A
  split <;> simp +contextual [floatLayout, Holds, *]
theorem major1B_sound (hm : fld w 1 6 = 0x1B) : Sound floatLayout w (decodeMajor1B w) := by
  simp +contextual [decodeMajor1B, floatLayout, Holds, ho, hm]
theorem major1C_sound (hm : fld w 1 6 = 0x1C) : Sound floatLayout w (decodeMajor1C w) := by
  unfold decodeMajor1C
  split <;> simp +contextual [floatLayout, Holds, *]
theorem major1D_sound (hm : fld w 1 6 = 0x1D) : Sound floatLayout w (decodeMajor1D w) := by
  simp +contextual [decodeMajor1D, floatLayout, Holds, ho, hm]
theorem major20_sound (hm : fld w 1 6 = 0x20) : Sound controlLayout w (decodeMajor20 w) := by
  unfold decodeMajor20
  split <;> simp +contextual [controlLayout, Holds, *]
theorem major21_sound (hm : fld w 1 6 = 0x21) : Sound controlLayout w (decodeMajor21 w) := by
  unfold decodeMajor21
  split <;> simp +contextual [controlLayout, Holds, *]
theorem major24_sound (hm : fld w 1 6 = 0x24) : Sound controlLayout w (decodeMajor24 w) := by
  simp +contextual [decodeMajor24, controlLayout, Holds, ho, hm]
theorem major25_sound (hm : fld w 1 6 = 0x25) : Sound controlLayout w (decodeMajor25 w) := by
  simp +contextual [decodeMajor25, controlLayout, Holds, ho, hm]
theorem major26_sound (hm : fld w 1 6 = 0x26) : Sound controlLayout w (decodeMajor26 w) := by
  simp +contextual [decodeMajor26, controlLayout, Holds, ho, hm]
theorem major27_sound (hm : fld w 1 6 = 0x27) : Sound controlLayout w (decodeMajor27 w) := by
  unfold decodeMajor27
  split <;> simp +contextual [controlLayout, Holds, *]
theorem major28_sound (hm : fld w 1 6 = 0x28) : Sound memoryLayout w (decodeMajor28 w) := by
  unfold decodeMajor28
  split <;> simp +contextual [memoryLayout, Holds, *]
theorem major29_sound (hm : fld w 1 6 = 0x29) : Sound memoryLayout w (decodeMajor29 w) := by
  unfold decodeMajor29
  split <;> simp +contextual [memoryLayout, Holds, *]
theorem major2A_sound (hm : fld w 1 6 = 0x2A) : Sound memoryLayout w (decodeMajor2A w) := by
  unfold decodeMajor2A
  split <;> simp +contextual [memoryLayout, Holds, *]
theorem major2B_sound (hm : fld w 1 6 = 0x2B) : Sound memoryLayout w (decodeMajor2B w) := by
  simp +contextual [decodeMajor2B, memoryLayout, Holds, ho, hm, code_ofCode_atomOp, Nat.add_mul_div_left]
theorem major2C_sound (hm : fld w 1 6 = 0x2C) : Sound memoryLayout w (decodeMajor2C w) := by
  simp +contextual [decodeMajor2C, memoryLayout, Holds, ho, hm, code_ofCode_atomOp, Nat.add_mul_div_left]
theorem major2D_sound (hm : fld w 1 6 = 0x2D) : Sound memoryLayout w (decodeMajor2D w) := by
  simp +contextual [decodeMajor2D, memoryLayout, Holds, ho, hm, code_ofCode_atomOp, Nat.add_mul_div_left]
theorem major2E_sound (hm : fld w 1 6 = 0x2E) : Sound memoryLayout w (decodeMajor2E w) := by
  simp +contextual [decodeMajor2E, memoryLayout, Holds, ho, hm, code_ofCode_atomOp, Nat.add_mul_div_left]
theorem major2F_sound (hm : fld w 1 6 = 0x2F) : Sound memoryLayout w (decodeMajor2F w) := by
  simp +contextual [decodeMajor2F, memoryLayout, Holds, ho, hm, code_ofCode_atomOp, Nat.add_mul_div_left]
theorem major30_sound (hm : fld w 1 6 = 0x30) : Sound capLayout w (decodeMajor30 w) := by
  unfold decodeMajor30
  split <;> simp +contextual [capLayout, Holds, *]
  exact fun _ _ _ => fld_three_eq_seven ‹_› ‹_› ‹_› ‹_› ‹_› ‹_› ‹_›
theorem major31_sound (hm : fld w 1 6 = 0x31) : Sound capLayout w (decodeMajor31 w) := by
  unfold decodeMajor31
  split <;> simp +contextual [capLayout, Holds, *]
theorem major34_sound (hm : fld w 1 6 = 0x34) : Sound capLayout w (decodeMajor34 w) := by
  unfold decodeMajor34
  split <;> simp +contextual [capLayout, Holds, *]
theorem major35_sound (hm : fld w 1 6 = 0x35) : Sound capLayout w (decodeMajor35 w) := by
  unfold decodeMajor35
  split <;> simp +contextual [capLayout, Holds, *]
theorem major36_sound (hm : fld w 1 6 = 0x36) : Sound capLayout w (decodeMajor36 w) := by
  unfold decodeMajor36
  split <;> simp +contextual [capLayout, Holds, *]
theorem major39_sound (hm : fld w 1 6 = 0x39) : Sound systemLayout w (decodeMajor39 w) := by
  simp +contextual [decodeMajor39, systemLayout, Holds, ho, hm, code_ofCode_mmaFmt]
theorem major3A_sound (hm : fld w 1 6 = 0x3A) : Sound systemLayout w (decodeMajor3A w) := by
  simp +contextual [decodeMajor3A, systemLayout, Holds, ho, hm, code_ofCode_mmasFmt]
theorem major3B_sound (hm : fld w 1 6 = 0x3B) : Sound systemLayout w (decodeMajor3B w) := by
  unfold decodeMajor3B
  split <;> simp +contextual [systemLayout, Holds, *]
  intro hwf
  have hlow := fld_lt w 11 2
  have hhigh := fld_lt w 25 1
  have hcode := code_ofCode_rnd (fld w 11 2 + 4 * fld w 25 1) (by omega) (ast_rnd hwf)
  omega
theorem major3C_sound (hm : fld w 1 6 = 0x3C) : Sound systemLayout w (decodeMajor3C w) := by
  unfold decodeMajor3C
  split <;> simp +contextual [systemLayout, Holds, *]
theorem major3D_sound (hm : fld w 1 6 = 0x3D) : Sound systemLayout w (decodeMajor3D w) := by
  unfold decodeMajor3D
  split <;> simp +contextual [systemLayout, Holds, *]
theorem major3E_sound (hm : fld w 1 6 = 0x3E) : Sound systemLayout w (decodeMajor3E w) := by
  unfold decodeMajor3E
  split
  case h_8 =>
    have hsel : fld w 29 3 = 7 := fld_three_eq_seven ‹_› ‹_› ‹_› ‹_› ‹_› ‹_› ‹_›
    split <;> simp +contextual [systemLayout, Holds, *]
  all_goals simp +contextual [systemLayout, Holds, *]

end MajorSound

/-! The half-words and the host words. -/

theorem decode16_sound {w : Nat} (he : fld w 0 1 = 0) : halfLayout (decode16 w) ≠ [] ∧ Holds w 0 (halfLayout (decode16 w)) := by
  unfold decode16
  split
  case h_16 =>
    have hop := fld_lt w 1 4
    simp only [imp_false] at *
    simp [halfLayout, Holds, he]
    omega
  all_goals simp [halfLayout, Holds, *]
theorem decodeHost_sound (w : Nat) : Sound hostLayout w (decodeHost w) := by
  unfold decodeHost
  simp only [sound_ite, sound_error, implies_true, true_and]
  intro hop
  replace hop : fld w 0 7 = 11 := by simpa using hop
  split
  case h_2 =>
    simp +contextual [hostLayout, Holds, *]
    have hlow := fld_lt w 7 5
    have hhigh := fld_lt w 25 7
    omega
  case h_4 => split <;> simp +contextual [hostLayout, Holds, *]
  case h_5 => split <;> simp +contextual [hostLayout, Holds, *]
  all_goals simp +contextual [hostLayout, Holds, *]
end Sys2Proof
end

section
/-!
PROOF. Decoding and encoding agree (O56).
-/
namespace Sys2Proof

/-! ## Both directions -/

/-- A table of words of n bytes: bit 0 of a word tells its length (R18), its fields fill it, and make the number that the encoder
gives. -/
def WordTable (n : Nat) (T : Instr → List WField) : Prop :=
  ∀ (i : Instr) (f : WField) (fs : List WField), T i = f :: fs →
    (f.bits = 1 ∧ f.val = n / 4) ∧ fieldBits (f :: fs) = 8 * n ∧ encode i = some (n, joinFields (f :: fs))

theorem wordTable_half : WordTable 2 halfLayout := fun _ _ _ h =>
  have ⟨hf, hbits⟩ := size_of_halfLayout h
  ⟨hf ▸ ⟨rfl, rfl⟩, hbits, encode_of_halfLayout h⟩
theorem wordTable_lane : WordTable 4 laneLayout := fun _ _ _ h =>
  have ⟨hf, hbits⟩ := size_of_laneLayout h
  ⟨hf ▸ ⟨rfl, rfl⟩, hbits, encode_of_laneLayout h⟩
theorem wordTable_float : WordTable 4 floatLayout := fun _ _ _ h =>
  have ⟨hf, hbits⟩ := size_of_floatLayout h
  ⟨hf ▸ ⟨rfl, rfl⟩, hbits, encode_of_floatLayout h⟩
theorem wordTable_control : WordTable 4 controlLayout := fun _ _ _ h =>
  have ⟨hf, hbits⟩ := size_of_controlLayout h
  ⟨hf ▸ ⟨rfl, rfl⟩, hbits, encode_of_controlLayout h⟩
theorem wordTable_memory : WordTable 4 memoryLayout := fun _ _ _ h =>
  have ⟨hf, hbits⟩ := size_of_memoryLayout h
  ⟨hf ▸ ⟨rfl, rfl⟩, hbits, encode_of_memoryLayout h⟩
theorem wordTable_cap : WordTable 4 capLayout := fun _ _ _ h =>
  have ⟨hf, hbits⟩ := size_of_capLayout h
  ⟨hf ▸ ⟨rfl, rfl⟩, hbits, encode_of_capLayout h⟩
theorem wordTable_system : WordTable 4 systemLayout := fun _ _ _ h =>
  have ⟨hf, hbits⟩ := size_of_systemLayout h
  ⟨hf ▸ ⟨rfl, rfl⟩, hbits, encode_of_systemLayout h⟩

theorem encode_of_holds {n w : Nat} {T : Instr → List WField} {i : Instr} (hT : WordTable n T) (hw : w < 2 ^ (8 * n)) (hne : T i ≠ [])
    (h : Holds w 0 (T i)) : encode i = some (n, w) := by
  obtain ⟨f, fs, hfs⟩ := List.exists_cons_of_ne_nil hne
  obtain ⟨-, hbits, henc⟩ := hT i f fs hfs
  rw [hfs, holds_iff_eq_join (by rwa [hbits])] at h
  rw [henc, h]
theorem encode_of_sound {w : Nat} {T : Instr → List WField} {r : Except DecodeErr Instr} {i : Instr} (hT : WordTable 4 T)
    (hw : w < 2 ^ 32) (hs : Sound T w r) (h : r = .ok i) : i.wf = true ∧ encode i = some (4, w) := by
  obtain ⟨hwf, hne, hold⟩ := hs i h
  exact ⟨hwf, encode_of_holds hT hw hne hold⟩
theorem fld_zero_one (w : Nat) : fld w 0 1 = w % 2 := by simp [fld]

theorem encode_of_decode32 {w : Nat} {i : Instr} (hw : w < 2 ^ 32) (hodd : w % 2 = 1) (h : decode32 w = .ok i) :
    i.wf = true ∧ encode i = some (4, w) := by
  have ho : fld w 0 1 = 1 := (fld_zero_one w).trans hodd
  unfold decode32 at h
  split at h
  · exact encode_of_sound wordTable_lane hw (major00_sound ho ‹_›) h
  · exact encode_of_sound wordTable_lane hw (major01_sound ho ‹_›) h
  · exact encode_of_sound wordTable_lane hw (major02_sound ho ‹_›) h
  · exact encode_of_sound wordTable_lane hw (major03_sound ho ‹_›) h
  · exact encode_of_sound wordTable_lane hw (major04_sound ho ‹_›) h
  · exact encode_of_sound wordTable_lane hw (major05_sound ho ‹_›) h
  · exact encode_of_sound wordTable_lane hw (major06_sound ho ‹_›) h
  · exact encode_of_sound wordTable_lane hw (major07_sound ho ‹_›) h
  · exact encode_of_sound wordTable_lane hw (major08_sound ho ‹_›) h
  · exact encode_of_sound wordTable_lane hw (major09_sound ho ‹_›) h
  · exact encode_of_sound wordTable_lane hw (major0A_sound ho ‹_›) h
  · exact encode_of_sound wordTable_lane hw (major0B_sound ho ‹_›) h
  · exact encode_of_sound wordTable_lane hw (major0C_sound ho ‹_›) h
  · exact encode_of_sound wordTable_lane hw (major0D_sound ho ‹_›) h
  · exact encode_of_sound wordTable_lane hw (major0E_sound ho ‹_›) h
  · exact encode_of_sound wordTable_lane hw (major0F_sound ho ‹_›) h
  · exact encode_of_sound wordTable_float hw (major10_sound ho ‹_›) h
  · exact encode_of_sound wordTable_float hw (major11_sound ho ‹_›) h
  · exact encode_of_sound wordTable_float hw (major12_sound ho ‹_›) h
  · exact encode_of_sound wordTable_float hw (major13_sound ho ‹_›) h
  · exact encode_of_sound wordTable_float hw (major14_sound ho ‹_›) h
  · exact encode_of_sound wordTable_float hw (major15_sound ho ‹_›) h
  · exact encode_of_sound wordTable_float hw (major16_sound ho ‹_›) h
  · exact encode_of_sound wordTable_float hw (major18_sound ho ‹_›) h
  · exact encode_of_sound wordTable_float hw (major1A_sound ho ‹_›) h
  · exact encode_of_sound wordTable_float hw (major1B_sound ho ‹_›) h
  · exact encode_of_sound wordTable_float hw (major1C_sound ho ‹_›) h
  · exact encode_of_sound wordTable_float hw (major1D_sound ho ‹_›) h
  · exact encode_of_sound wordTable_control hw (major20_sound ho ‹_›) h
  · exact encode_of_sound wordTable_control hw (major21_sound ho ‹_›) h
  · exact encode_of_sound wordTable_control hw (major24_sound ho ‹_›) h
  · exact encode_of_sound wordTable_control hw (major25_sound ho ‹_›) h
  · exact encode_of_sound wordTable_control hw (major26_sound ho ‹_›) h
  · exact encode_of_sound wordTable_control hw (major27_sound ho ‹_›) h
  · exact encode_of_sound wordTable_memory hw (major28_sound ho ‹_›) h
  · exact encode_of_sound wordTable_memory hw (major29_sound ho ‹_›) h
  · exact encode_of_sound wordTable_memory hw (major2A_sound ho ‹_›) h
  · exact encode_of_sound wordTable_memory hw (major2B_sound ho ‹_›) h
  · exact encode_of_sound wordTable_memory hw (major2C_sound ho ‹_›) h
  · exact encode_of_sound wordTable_memory hw (major2D_sound ho ‹_›) h
  · exact encode_of_sound wordTable_memory hw (major2E_sound ho ‹_›) h
  · exact encode_of_sound wordTable_memory hw (major2F_sound ho ‹_›) h
  · exact encode_of_sound wordTable_cap hw (major30_sound ho ‹_›) h
  · exact encode_of_sound wordTable_cap hw (major31_sound ho ‹_›) h
  · exact encode_of_sound wordTable_cap hw (major34_sound ho ‹_›) h
  · exact encode_of_sound wordTable_cap hw (major35_sound ho ‹_›) h
  · exact encode_of_sound wordTable_cap hw (major36_sound ho ‹_›) h
  · exact encode_of_sound wordTable_system hw (major39_sound ho ‹_›) h
  · exact encode_of_sound wordTable_system hw (major3A_sound ho ‹_›) h
  · exact encode_of_sound wordTable_system hw (major3B_sound ho ‹_›) h
  · exact encode_of_sound wordTable_system hw (major3C_sound ho ‹_›) h
  · exact encode_of_sound wordTable_system hw (major3D_sound ho ‹_›) h
  · exact encode_of_sound wordTable_system hw (major3E_sound ho ‹_›) h
  · cases h
theorem encode_of_decode16 {w : Nat} (hw : w < 2 ^ 16) (heven : w % 2 = 0) : encode (decode16 w) = some (2, w) :=
  have ⟨hne, h⟩ := decode16_sound ((fld_zero_one w).trans heven)
  encode_of_holds wordTable_half hw hne h
theorem decode16_wf (w : Nat) : (decode16 w).wf = true := by
  unfold decode16
  split <;> rfl
theorem encodeHost_of_decodeHost {w : Nat} {i : Instr} (hw : w < 2 ^ 32) (h : decodeHost w = .ok i) :
    i.wf = true ∧ encodeHost i = some w := by
  obtain ⟨hwf, hne, hold⟩ := decodeHost_sound w i h
  obtain ⟨f, fs, hfs⟩ := List.exists_cons_of_ne_nil hne
  rw [hfs, holds_iff_eq_join (by rwa [size_of_hostLayout hfs])] at hold
  exact ⟨hwf, by rw [encodeHost_of_hostLayout hfs, hold]⟩

/-- The tables of the device words. -/
def deviceTables : List (Instr → List WField) :=
  [halfLayout, laneLayout, floatLayout, controlLayout, memoryLayout, capLayout, systemLayout]

theorem exists_table {i : Instr} {n w : Nat} (h : encode i = some (n, w)) : ∃ T ∈ deviceTables, ∃ f fs, T i = f :: fs := by
  have hany : (deviceTables.any fun T => !(T i).isEmpty) = true := by cases i <;> cases h <;> rfl
  obtain ⟨T, hT, hne⟩ := List.any_eq_true.mp hany
  exact ⟨T, hT, List.exists_cons_of_ne_nil (by simpa using hne)⟩
theorem exists_hostFields {i : Instr} {w : Nat} (h : encodeHost i = some w) : ∃ f fs, hostLayout i = f :: fs := by
  have hne : (!(hostLayout i).isEmpty) = true := by cases i <;> cases h <;> rfl
  exact List.exists_cons_of_ne_nil (by simpa using hne)

theorem joinFields_lt : ∀ fs : List WField, joinFields fs < 2 ^ fieldBits fs
  | [] => Nat.one_pos
  | f :: fs => by
    rw [joinFields, fieldBits, pow_add]
    calc f.val + 2 ^ f.bits * joinFields fs < 2 ^ f.bits * (joinFields fs + 1) := by
          rw [Nat.mul_add_one, Nat.add_comm]
          exact Nat.add_lt_add_left f.fits _
      _ ≤ 2 ^ f.bits * 2 ^ fieldBits fs := Nat.mul_le_mul_left _ (joinFields_lt fs)
theorem holds_joinFields (fs : List WField) : Holds (joinFields fs) 0 fs := (holds_iff_eq_join (joinFields_lt fs)).mpr rfl

/-- The word of an instruction in a table: its length, its bit 0, its range, and the fields that it holds. -/
theorem word_of_table {n v w : Nat} {T : Instr → List WField} {i : Instr} {f : WField} {fs : List WField} (hT : WordTable n T)
    (hfs : T i = f :: fs) (h : encode i = some (v, w)) :
    v = n ∧ w % 2 = n / 4 ∧ w < 2 ^ (8 * n) ∧ Holds w 0 (f :: fs) := by
  obtain ⟨⟨hbit, hval⟩, hbits, henc⟩ := hT i f fs hfs
  obtain ⟨rfl, rfl⟩ : n = v ∧ joinFields (f :: fs) = w := by simpa [henc] using h
  have hold := holds_joinFields (f :: fs)
  refine ⟨rfl, ?_, hbits ▸ joinFields_lt _, hold⟩
  rw [← fld_zero_one, ← hval, ← hold.1, hbit]

theorem decodeBytes_word {w : Nat} (hw : w < 2 ^ 32) (hodd : w % 2 = 1) (rest : List Byte) :
    decodeBytes (wordBytes 32 w ++ rest) = some (decode32 w, 4, rest) := by
  have hbytes : wordBytes 32 w = [BitVec.ofNat 8 w, BitVec.ofNat 8 (w / 2 ^ 8), BitVec.ofNat 8 (w / 2 ^ 16),
      BitVec.ofNat 8 (w / 2 ^ 24)] := by simp [wordBytes, List.range_succ]
  have hlow : (w % 256 + 256 * (w / 256 % 256)) % 2 = 1 := by omega
  have hall : w % 256 + 256 * (w / 256 % 256) + 65536 * (w / 65536 % 256 + 256 * (w / 16777216 % 256)) = w := by omega
  simp [hbytes, decodeBytes, halfOf, hlow, hall]
theorem decodeBytes_half {w : Nat} (hw : w < 2 ^ 16) (heven : w % 2 = 0) (rest : List Byte) :
    decodeBytes (wordBytes 16 w ++ rest) = some (.ok (decode16 w), 2, rest) := by
  have hbytes : wordBytes 16 w = [BitVec.ofNat 8 w, BitVec.ofNat 8 (w / 2 ^ 8)] := by simp [wordBytes, List.range_succ]
  have hall : w % 256 + 256 * (w / 256 % 256) = w := by omega
  simp [hbytes, decodeBytes, halfOf, hall, heven]

/-- A table of 32-bit words that `decode32` reads back gives the first claim for its instructions. -/
theorem decodeBytes_of_table {T : Instr → List WField} {i : Instr} {n w : Nat} (hT : WordTable 4 T)
    (hdec : ∀ {f : WField} {fs : List WField} {v : Nat}, T i = f :: fs → Holds v 0 (f :: fs) → i.wf = true → decode32 v = .ok i)
    (hne : ∃ f fs, T i = f :: fs) (hwf : i.wf = true) (h : encode i = some (n, w)) (rest : List Byte) :
    decodeBytes (wordBytes (8 * n) w ++ rest) = some (.ok i, n, rest) := by
  obtain ⟨f, fs, hfs⟩ := hne
  obtain ⟨rfl, hodd, hw, hold⟩ := word_of_table hT hfs h
  rw [decodeBytes_word hw hodd, hdec hfs hold hwf]
theorem decodeBytes_of_half {i : Instr} {n w : Nat} (hne : ∃ f fs, halfLayout i = f :: fs) (h : encode i = some (n, w))
    (rest : List Byte) : decodeBytes (wordBytes (8 * n) w ++ rest) = some (.ok i, n, rest) := by
  obtain ⟨f, fs, hfs⟩ := hne
  obtain ⟨rfl, heven, hw, hold⟩ := word_of_table wordTable_half hfs h
  rw [decodeBytes_half hw heven, decode16_of_halfLayout hfs hold]

theorem everyWellFormedInstructionIsDecodedFromItsWord : Claims.EveryWellFormedInstructionIsDecodedFromItsWord := by
  refine ⟨fun i n w rest hwf h => ?_, fun i w hwf h => ?_⟩
  · obtain ⟨T, hT, hne⟩ := exists_table h
    simp only [deviceTables, List.mem_cons, List.not_mem_nil, or_false] at hT
    obtain rfl | rfl | rfl | rfl | rfl | rfl | rfl := hT
    · exact decodeBytes_of_half hne h rest
    · exact decodeBytes_of_table wordTable_lane decode32_of_laneLayout hne hwf h rest
    · exact decodeBytes_of_table wordTable_float decode32_of_floatLayout hne hwf h rest
    · exact decodeBytes_of_table wordTable_control decode32_of_controlLayout hne hwf h rest
    · exact decodeBytes_of_table wordTable_memory decode32_of_memoryLayout hne hwf h rest
    · exact decodeBytes_of_table wordTable_cap decode32_of_capLayout hne hwf h rest
    · exact decodeBytes_of_table wordTable_system decode32_of_systemLayout hne hwf h rest
  · obtain ⟨f, fs, hfs⟩ := exists_hostFields h
    obtain rfl : joinFields (f :: fs) = w := by simpa [encodeHost_of_hostLayout hfs] using h
    exact ⟨size_of_hostLayout hfs ▸ joinFields_lt _, decodeHost_of_hostLayout hfs (holds_joinFields _) hwf⟩

theorem everyDecodedWordIsItsInstructionsWord : Claims.EveryDecodedWordIsItsInstructionsWord :=
  ⟨fun _ _ hw hodd h => encode_of_decode32 hw hodd h, fun w hw heven => ⟨decode16_wf w, encode_of_decode16 hw heven⟩,
    fun _ _ hw h => encodeHost_of_decodeHost hw h⟩

/-- Settles O56: a table of fields for each instruction's word, which the encoder joins and the decoder reads. -/
theorem decodingAndEncodingAgree : Obligations.DecodingAndEncodingAgree :=
  ⟨everyWellFormedInstructionIsDecodedFromItsWord, everyDecodedWordIsItsInstructionsWord⟩
end Sys2Proof
end

section
/-!
PROOF. Words written out from the field tables, the registers of the management space, and the state after reset.
-/
namespace Sys2Proof.Machine
open Sys2Proof

/-- Settles O57. Each word is a literal, and the decoder evaluates on it. -/
theorem wordsOfTheManualDecode : Obligations.WordsOfTheManualDecode := by
  unfold Obligations.WordsOfTheManualDecode
  and_intros <;> decide

/-! ## Reads of the management space (R453) -/

theorem mgmtRead_bgassign (s : State) (k : Nat) (h : k < 16) : mgmtRead s (0x300 + 8 * k) = nth s.mgmt.bgassign k 0 := by
  have hk : (0x300 + 8 * k - 0x300) / 8 = k := by omega
  rw [mgmtRead, if_pos (by omega), hk] <;> omega
theorem mgmtRead_poolseg (s : State) (k : Nat) (h : k < 64) : mgmtRead s (0x1000 + 8 * k) = nth s.mgmt.poolseg k 0 := by
  have hk : (0x1000 + 8 * k - 0x1000) / 8 = k := by omega
  rw [mgmtRead, if_neg (by omega), if_pos (by omega), hk] <;> omega
theorem mgmtRead_hotctl (s : State) (h : Nat) (hh : h < 16) : mgmtRead s (0x2000 + 0x100 * h) =
    BitVec.ofNat 64 ((getHot s h).en.toNat * 32 + (getHot s h).period) := by
  have hhub : (0x2000 + 0x100 * h - 0x2000) / 0x100 = h := by omega
  have hreg : (0x2000 + 0x100 * h) % 0x100 = 0 := by omega
  rw [mgmtRead, if_neg (by omega), if_neg (by omega), if_pos (by omega), hhub, hreg]
  · rfl
  all_goals omega
theorem mgmtRead_hothead (s : State) (h : Nat) (hh : h < 16) : mgmtRead s (0x2008 + 0x100 * h) = (getHot s h).head.setWidth 64 := by
  have hhub : (0x2008 + 0x100 * h - 0x2000) / 0x100 = h := by omega
  have hreg : (0x2008 + 0x100 * h) % 0x100 = 8 := by omega
  rw [mgmtRead, if_neg (by omega), if_neg (by omega), if_pos (by omega), hhub, hreg]
  · rfl
  all_goals omega
theorem mgmtRead_hottail (s : State) (h : Nat) (hh : h < 16) : mgmtRead s (0x2010 + 0x100 * h) = (getHot s h).tail.setWidth 64 := by
  have hhub : (0x2010 + 0x100 * h - 0x2000) / 0x100 = h := by omega
  have hreg : (0x2010 + 0x100 * h) % 0x100 = 0x10 := by omega
  rw [mgmtRead, if_neg (by omega), if_neg (by omega), if_pos (by omega), hhub, hreg]
  · rfl
  all_goals omega
theorem mgmtRead_pathn (s : State) (t : Nat) (h : t < 2048) : mgmtRead s (0x4000 + t) = pathBytes s t := by
  rw [mgmtRead, if_neg (by omega), if_neg (by omega), if_neg (by omega), if_pos (by omega), Nat.add_sub_cancel_left] <;> omega

/-! ## The state after reset -/

theorem nth_replicate {α : Type} (n k : Nat) (x : α) : nth (List.replicate n x) k x = x := by
  by_cases h : k < n
  · simp [nth, h]
  · exact nth_eq_default _ _ _ (by simpa using h)

theorem getCore_reset (core : Nat) : getCore State.reset core = Core.reset := rfl
theorem getSeat_reset (core slot k : Nat) : getSeat (getBench State.reset core slot) k = Seat.reset := nth_replicate 32 k Seat.reset
theorem ttEntry_reset (e : Nat) : ttEntry Core.reset e = (false, false, 0) := by
  have h : nth Core.reset.tt (e / 8) 0 = 0 := nth_replicate 8 _ 0
  rw [ttEntry, h]
  simp
theorem getHot_reset (h : Nat) : getHot State.reset h = HotCtl.reset := nth_replicate 16 h HotCtl.reset
/-- No path set exists, so each target has no live path. -/
theorem livePaths_reset (t : Nat) : livePaths State.reset (pathSetOf State.reset t) = [] := rfl
theorem pathBytes_reset (t : Nat) : pathBytes State.reset t = 0 := by
  simp only [pathBytes, livePaths_reset]
  decide

theorem parkClockInv_of_noTasks {s : State} (h : s.tasks = []) : ParkClockInv s := by simp [ParkClockInv, h]
theorem starvedClockInv_of_noTasks {s : State} (h : s.tasks = []) : StarvedClockInv s := by simp [StarvedClockInv, h]

/-- Settles O60. The fields of the reset state are literals; the arrays of the management space are read through their lemmas. -/
theorem resetLeavesWhatTheTablesGive : Obligations.ResetLeavesWhatTheTablesGive := by
  unfold Obligations.ResetLeavesWhatTheTablesGive
  refine ⟨fun core => ?_, ?_⟩
  · rw [getCore_reset]
    exact ⟨rfl, fun slot k => by rw [getSeat_reset]; rfl, rfl, rfl, rfl, rfl, rfl, rfl, rfl, rfl, fun e _ => ttEntry_reset e,
      fun _ => rfl, rfl, rfl⟩
  refine ⟨rfl, rfl, rfl, rfl, rfl, rfl, rfl, rfl, rfl, rfl, rfl, rfl, by decide, rfl, rfl, rfl, rfl, rfl, fun k hk => ?_, fun k hk => ?_,
    fun h hh => ?_, fun t ht => ?_, rfl, rfl, rfl, rfl, rfl, rfl, parkClockInv_of_noTasks rfl, starvedClockInv_of_noTasks rfl⟩
  · rw [mgmtRead_bgassign _ _ hk]; exact nth_replicate 16 k 0
  · rw [mgmtRead_poolseg _ _ hk]; exact nth_replicate 64 k 0
  · rw [mgmtRead_hotctl _ _ hh, mgmtRead_hothead _ _ hh, mgmtRead_hottail _ _ hh, getHot_reset]
    exact ⟨rfl, rfl, rfl⟩
  · rw [mgmtRead_pathn _ _ ht, pathBytes_reset]

end Sys2Proof.Machine
end

section
/-!
PROOF. Laws of a pass that moves its seats in any way (R35, R87, R137), and the passes of headers and transfers (R29 to R36,
R90 to R95).
-/
namespace Sys2Proof.Machine
open Sys2Proof

/-! ## A pass that moves its seats -/

/-- The last reads, an effect on the bench, a move of each issued seat, and the rows that became free. -/
def moveWith (s : State) (srcs : List Src) (eff : Bench → Bench) (move : Nat → Seat → Seat) : State :=
  freeRows (putCur s (mapIssued s (eff (lastReads (cur s) s.sel.seats srcs)) move)) s.sel.core s.sel.slot
theorem retireWith_eq_moveWith (s : State) (srcs : List Src) (closes : Bool) (eff : Bench → Bench) :
    retireWith s srcs closes eff = moveWith s srcs eff fun _ x => pastSeat x s.sel.len closes := rfl

/-- An effect on a bench that keeps its shape and its seats. -/
structure KeepsSeats (eff : Bench → Bench) : Prop where
  shaped : ∀ b, Shaped b → Shaped (eff b)
  seats : ∀ b, (eff b).seats = b.seats
theorem keepsSeats_id : KeepsSeats id := ⟨fun _ h => h, fun _ => rfl⟩
theorem keepsSeats_of_changesRegisters {eff : Bench → Bench} (h : ChangesRegisters eff) : KeepsSeats eff := ⟨h.shaped, h.seats⟩

section Moves
variable (s : State) (srcs : List Src) (eff : Bench → Bench) (move : Nat → Seat → Seat)

theorem leavesOutside_moveWith : LeavesOutside s (moveWith s srcs eff move) :=
  leavesOutside_trans (leavesOutside_putCur s _) (leavesOutside_freeRows _)
theorem cur_moveWith : cur (moveWith s srcs eff move) =
    freedBench (mapIssued s (eff (lastReads (cur s) s.sel.seats srcs)) move) :=
  (cur_freeRows _).trans (congrArg freedBench (cur_putCur s _))
theorem benchRest_moveWith : benchRest (cur (moveWith s srcs eff move)) = benchRest (eff (lastReads (cur s) s.sel.seats srcs)) := by
  rw [cur_moveWith, benchRest_freedBench, benchRest_mapIssued]
theorem benchKept_moveWith (hr : ∀ b, benchRest (eff b) = benchRest b) : BenchKept s (moveWith s srcs eff move) :=
  benchKept_of_rest (by rw [benchRest_moveWith, hr, benchRest_lastReads])
theorem readP_moveWith (p : PReg) (k : Nat) :
    readP (cur (moveWith s srcs eff move)) p k = readP (eff (lastReads (cur s) s.sel.seats srcs)) p k := by
  rw [cur_moveWith, readP_freedBench, readP_mapIssued]
theorem predsKept_moveWith (except : PReg → Prop) (hp : ∀ b p k, ¬except p → readP (eff b) p k = readP b p k) :
    PredsKept s (moveWith s srcs eff move) except := fun p k hne => by
  rw [readP_moveWith, hp _ _ _ hne, readP_lastReads]

variable {s eff} (heff : KeepsSeats eff) (h : Shaped (cur s))
include heff h

theorem shaped_movedBench : Shaped (mapIssued s (eff (lastReads (cur s) s.sel.seats srcs)) move) :=
  shaped_mapIssued _ _ _ (heff.shaped _ (shaped_lastReads _ _ _ h))
theorem readD_moveWith (r : DReg) (k : Nat) :
    readD (cur (moveWith s srcs eff move)) r k = readD (eff (lastReads (cur s) s.sel.seats srcs)) r k ∧
      poisonD (cur (moveWith s srcs eff move)) r k = poisonD (eff (lastReads (cur s) s.sel.seats srcs)) r k := by
  have hb := shaped_movedBench srcs move heff h
  rw [cur_moveWith, readD_freedBench _ hb, poisonD_freedBench _ hb, readD_mapIssued, poisonD_mapIssued]
  exact ⟨rfl, rfl⟩
theorem readC_moveWith (c : CReg) (k : Nat) :
    readC (cur (moveWith s srcs eff move)) c k = readC (eff (lastReads (cur s) s.sel.seats srcs)) c k ∧
      poisonC (cur (moveWith s srcs eff move)) c k = poisonC (eff (lastReads (cur s) s.sel.seats srcs)) c k := by
  have hb := shaped_movedBench srcs move heff h
  rw [cur_moveWith, readC_freedBench _ hb, poisonC_freedBench _ hb, readC_mapIssued, poisonC_mapIssued]
  exact ⟨rfl, rfl⟩
theorem dataKept_moveWith (except : DReg → Prop)
    (hd : ∀ b r k, ¬except r → readD (eff b) r k = readD b r k ∧ poisonD (eff b) r k = poisonD b r k) :
    DataKept s (moveWith s srcs eff move) srcs except := by
  intro r k hr
  obtain ⟨hread, hpoison⟩ := readD_moveWith srcs move heff h r k
  obtain ⟨hread', hpoison'⟩ := hd (lastReads (cur s) s.sel.seats srcs) r k hr
  rw [hread, hpoison, hread', hpoison', mem_issued]
  exact readD_lastReads (cur s) s.sel.seats srcs r k
theorem capsKept_moveWith (except : CReg → Prop)
    (hc : ∀ b c k, ¬except c → readC (eff b) c k = readC b c k ∧ poisonC (eff b) c k = poisonC b c k) :
    CapsKept s (moveWith s srcs eff move) except := by
  intro c k hne
  obtain ⟨hread, hpoison⟩ := readC_moveWith srcs move heff h c k
  obtain ⟨hread', hpoison'⟩ := hc (lastReads (cur s) s.sel.seats srcs) c k hne
  rw [hread, hpoison, hread', hpoison', readC_lastReads, poisonC_lastReads]
  exact ⟨rfl, rfl⟩
theorem seatsBecome_moveWith : SeatsBecome s (moveWith s srcs eff move) move := by
  have hseats : (eff (lastReads (cur s) s.sel.seats srcs)).seats = (cur s).seats := by rw [heff.seats, seats_lastReads]
  intro k
  rw [cur_moveWith, getSeat_freedBench, getSeat_mapIssued _ _ _ (by rw [hseats]; exact length_seats_of_shaped h), getSeat, hseats,
    ← getSeat]
end Moves

/-! ## Headers (R29, R32) -/

/-- The word of a header, with its fields where R29 puts them. -/
def headerWord (n : Bool) (w : ClauseW) (setB setA : BitVec 4) (wait : BitVec 12) : Nat :=
  1 + 2 ^ 7 * wait.toNat + 2 ^ 19 * setA.toNat + 2 ^ 23 * setB.toNat + 2 ^ 27 * w.code + 2 ^ 29 * n.toNat

section Header
variable (n : Bool) (w : ClauseW) (setB setA : BitVec 4) (wait : BitVec 12)

theorem encode_clause : encode (.clause n w setB setA wait) = some (4, headerWord n w setB setA wait) := by
  rw [encode, headerWord]
  congr 2
  omega
theorem headerWord_lt : headerWord n w setB setA wait < 2 ^ 32 := by
  have hw : w.code < 4 := by cases w <;> decide
  have hn := n.toNat_lt
  unfold headerWord
  omega
/-- Bit 7 + k of a header is flag k of WAIT. -/
theorem fld_headerWord_wait (k : Nat) (hk : k < 12) :
    fld (headerWord n w setB setA wait) (7 + k) 1 = (wait.getLsbD k).toNat := by
  have hdiv : headerWord n w setB setA wait / 2 ^ 7 =
      2 ^ 12 * (setA.toNat + 2 ^ 4 * setB.toNat + 2 ^ 8 * w.code + 2 ^ 10 * n.toNat) + wait.toNat := by
    unfold headerWord
    omega
  rw [fld, Nat.pow_add, ← Nat.div_div_eq_div_mul, hdiv, Nat.pow_one, ← Nat.toNat_testBit,
    Nat.testBit_two_pow_mul_add _ wait.isLt, if_pos hk, BitVec.getLsbD]
theorem waitClear_headerWord (b : Bench) :
    waitClear b (headerWord n w setB setA wait) = true ↔ ∀ k, k < 12 → wait.getLsbD k = true → flagOf b k = 0 := by
  simp only [waitClear, List.all_eq_true, List.mem_range, Bool.or_eq_true, beq_iff_eq]
  refine forall₂_congr fun k hk => ?_
  rw [fld_headerWord_wait n w setB setA wait k hk]
  cases wait.getLsbD k <;> simp
/-- The bench once the seats have entered the clause: its N hold does not cover them (R36). -/
def enteredBench (s : State) : Bench :=
  let b := mapIssued s (cur s) fun _ x => enterSeat s.sel.pc (BitVec.ofNat 32 (headerWord n w setB setA wait)) x
  { b with nfree := b.nfree &&& ~~~ s.sel.seats }
theorem exec_clause (s : State) : exec (.clause n w setB setA wait) s =
    if waitClear (cur s) (headerWord n w setB setA wait) then .next (putCur s (enteredBench n w setB setA wait s)) else .next s := by
  change execClause n w setB setA wait s = _
  simp only [execClause, encode_clause, Option.map_some, Option.getD_some, enteredBench]
theorem enteredBench_eq (s : State) : enteredBench n w setB setA wait s =
    { cur s with seats := (enteredBench n w setB setA wait s).seats, nfree := (cur s).nfree &&& ~~~ s.sel.seats } := by
  rw [enteredBench, mapIssued_eq]
theorem registers_enteredBench (s : State) (k : Nat) :
    (∀ r, readD (enteredBench n w setB setA wait s) r k = readD (cur s) r k) ∧
      (∀ r, poisonD (enteredBench n w setB setA wait s) r k = poisonD (cur s) r k) ∧
      (∀ c, readC (enteredBench n w setB setA wait s) c k = readC (cur s) c k) ∧
      (∀ c, poisonC (enteredBench n w setB setA wait s) c k = poisonC (cur s) c k) ∧
      ∀ p, readP (enteredBench n w setB setA wait s) p k = readP (cur s) p k := by
  rw [enteredBench_eq]
  exact ⟨fun r => by cases r <;> rfl, fun r => by cases r <;> rfl, fun _ => rfl, fun _ => rfl, fun _ => rfl⟩
theorem benchKept_enteredBench (s : State) : BenchKept s (putCur s (enteredBench n w setB setA wait s)) := by
  rw [BenchKept, cur_putCur, enteredBench_eq]
  exact ⟨rfl, rfl, rfl, rfl, rfl, rfl, rfl, rfl, rfl, rfl⟩
end Header

/-- A pass without last reads keeps the data registers that read as before. -/
theorem dataKept_of_reads {s t : State} (except : DReg → Prop)
    (h : ∀ r k, ¬except r → readD (cur t) r k = readD (cur s) r k ∧ poisonD (cur t) r k = poisonD (cur s) r k) :
    DataKept s t [] except := fun r k hr => ⟨fun hl => absurd hl.1.2 List.not_mem_nil, fun _ => h r k hr⟩

/-- Settles O12. The word has each flag of WAIT at its bit, so `waitClear` asks for just the flags that WAIT names. -/
theorem aHeaderWaitsForItsFlags : Obligations.AHeaderWaitsForItsFlags := by
  intro n w setB setA wait s h
  rw [exec_clause]
  refine ⟨fun ⟨k, hk, hname, hbusy⟩ => ?_, fun hfree => ?_⟩
  · exact if_neg fun hclear => hbusy ((waitClear_headerWord n w setB setA wait (cur s)).mp hclear k hk hname)
  · choose hD hPoison hC hPoisonC hP using registers_enteredBench n w setB setA wait s
    refine ⟨_, if_pos ((waitClear_headerWord n w setB setA wait (cur s)).mpr hfree), leavesOutside_putCur s _,
      dataKept_of_reads _ fun r k _ => ?_, fun c k _ => ?_, fun p k _ => ?_, benchKept_enteredBench n w setB setA wait s,
      BitVec.ofNat 32 (headerWord n w setB setA wait), ?_, fun k => ?_⟩
    · rw [cur_putCur]
      exact ⟨hD k r, hPoison k r⟩
    · rw [cur_putCur]
      exact ⟨hC k c, hPoisonC k c⟩
    · rw [cur_putCur]
      exact hP k p
    · exact (BitVec.toNat_ofNat _ _).trans (Nat.mod_eq_of_lt (headerWord_lt n w setB setA wait))
    · rw [cur_putCur]
      exact getSeat_mapIssued s (cur s) _ (length_seats_of_shaped h) k

/-! ## Transfers (R90 to R95) -/

/-- Where a transfer leaves a seat: at its target, or past the instruction where it has none (R35, R90). -/
def jumpTo (s : State) (target : Nat → Option Word) (k : Nat) (x : Seat) : Seat :=
  match target k with
  | some a => jumpSeat x a
  | none => pastSeat x s.sel.len true
theorem jumpWith_eq_moveWith (s : State) (srcs : List Src) (target : Nat → Option Word) (eff : Bench → Bench) :
    jumpWith s srcs target eff = moveWith s srcs eff (jumpTo s target) := rfl
theorem jumpTo_some {s : State} {target : Nat → Option Word} {k : Nat} {a : Word} (h : target k = some a) (x : Seat) :
    jumpTo s target k x = jumpSeat x a := by rw [jumpTo, h]
theorem jumpTo_none {s : State} {target : Nat → Option Word} {k : Nat} (h : target k = none) (x : Seat) :
    jumpTo s target k x = pastSeat x s.sel.len true := by rw [jumpTo, h]

/-- A transfer that writes no register. -/
theorem jump_keeps {s : State} (h : Shaped (cur s)) (srcs : List Src) (target : Nat → Option Word) :
    LeavesOutside s (jumpWith s srcs target id) ∧ DataKept s (jumpWith s srcs target id) srcs (fun _ => False) ∧
      CapsKept s (jumpWith s srcs target id) (fun _ => False) ∧ PredsKept s (jumpWith s srcs target id) (fun _ => False) ∧
      BenchKept s (jumpWith s srcs target id) ∧ SeatsBecome s (jumpWith s srcs target id) (jumpTo s target) := by
  rw [jumpWith_eq_moveWith]
  exact ⟨leavesOutside_moveWith _ _ _ _, dataKept_moveWith _ _ keepsSeats_id h _ fun _ _ _ _ => ⟨rfl, rfl⟩,
    capsKept_moveWith _ _ keepsSeats_id h _ fun _ _ _ _ => ⟨rfl, rfl⟩, predsKept_moveWith _ _ _ _ _ fun _ _ _ _ => rfl,
    benchKept_moveWith _ _ _ _ fun _ => rfl, seatsBecome_moveWith _ _ keepsSeats_id h⟩

/-- A register that is written with one value reads as that value for every issued seat. -/
theorem readD_move_writing {s : State} (h : Shaped (cur s)) (srcs : List Src) (move : Nat → Seat → Seat) (d : DReg) (x : Word)
    {k : Nat} (hk : k ∈ issued s) : readD (cur (moveWith s srcs (writing s d fun _ => x) move)) d k = x := by
  have hl := shaped_lastReads (cur s) s.sel.seats srcs h
  rw [(readD_moveWith srcs move (keepsSeats_of_changesRegisters (changesRegisters_writing s d _)) h d k).1, writing]
  cases d with
  | v n => rw [readD_writeD_v _ _ _ _ _ _ hl fun _ => lt_of_mem_issued, if_pos hk]
  | s n =>
    obtain ⟨j, ks, hj⟩ := List.exists_cons_of_ne_nil (List.ne_nil_of_mem hk)
    rw [hj]
    exact (readD_writeD_s _ k _ n j (x, none) hl).1
theorem oddTarget_of_even {a : Word} (h : a.toNat % 2 = 0) : oddTarget a = none := by
  have hbit : a.getLsbD 0 = false := by simpa [BitVec.getLsbD, Nat.testBit_zero] using h
  rw [oddTarget, hbit, if_neg Bool.false_ne_true]

section Transfers
variable {s : State} (o : BitVec 16) (d : DReg) (inv : Bool) (p : PReg) (a : Src)

theorem exec_bra : exec (.bra o) s = .next (jumpWith s [] (fun _ => some (relTarget s o)) id) := rfl
theorem exec_call (h : OperandsClear s [] [] [d] []) : exec (.call o d) s =
    .next (moveWith s [] (writing s d fun _ => linkOf s) (jumpTo s fun _ => some (relTarget s o))) :=
  guardPass_clear _ _ _ fun k hk => useFault_clear s (usesOf (.call o d)) h k hk
/-- The target of a seat in `br.p`, if it transfers (R91). -/
def brTarget (s : State) (o : BitVec 16) (inv : Bool) (p : PReg) (k : Nat) : Option Word :=
  if Bool.xor ((readP (cur s) p k).getLsbD 0) inv then some (relTarget s o) else none
theorem brTarget_taken {k : Nat} (h : (readP (cur s) p k).getLsbD 0 = !inv) : brTarget s o inv p k = some (relTarget s o) :=
  if_pos (Bool.xor_iff_ne.mpr (Bool.eq_not.mp h))
theorem brTarget_passed {k : Nat} (h : ¬(readP (cur s) p k).getLsbD 0 = !inv) : brTarget s o inv p k = none :=
  if_neg fun hx => h (Bool.eq_not.mpr (Bool.xor_iff_ne.mp hx))
theorem exec_brP : exec (.brP o inv p) s = .next (jumpWith s [] (brTarget s o inv p) id) := rfl
theorem exec_ret (h : OperandsClear s [a.reg] [] [] []) (heven : ∀ k ∈ issued s, (srcV s a k).toNat % 2 = 0) :
    exec (.ret a) s = .next (jumpWith s [a] (fun k => some (srcV s a k)) id) :=
  guardPass_clear _ _ _ fun k hk => by
    rw [useFault_clear s (usesOf (.ret a)) h k hk]
    exact oddTarget_of_even (heven k hk)
end Transfers

theorem transfersSendEachSeatToItsTarget : Claims.TransfersSendEachSeatToItsTarget := by
  intro s o d inv p a h
  refine ⟨⟨_, exec_bra o, jump_keeps h _ _⟩, fun hclear => ⟨_, exec_call o d hclear, ?_⟩, ⟨_, exec_brP o inv p, ?_⟩,
    fun hclear heven => ⟨_, exec_ret a hclear heven, jump_keeps h _ _⟩⟩
  case refine_1 =>
    have hw := changesRegisters_writing s d fun _ => linkOf s
    have heff := keepsSeats_of_changesRegisters hw
    exact ⟨leavesOutside_moveWith _ _ _ _, dataKept_moveWith _ _ heff h _ fun _ _ _ => readD_writeD_other _ _ _ _ _,
      capsKept_moveWith _ _ heff h _ fun _ _ _ _ => ⟨readC_writeD _ _ _ _ _, poisonC_writeD _ _ _ _ _⟩,
      predsKept_moveWith _ _ _ _ _ fun _ _ _ _ => readP_writeD _ _ _ _ _, benchKept_moveWith _ _ _ _ hw.rest,
      fun k hk => readD_move_writing h _ _ d _ hk, seatsBecome_moveWith _ _ heff h⟩
  case refine_2 =>
    obtain ⟨hout, hdata, hcaps, hpreds, hbench, hseats⟩ := jump_keeps h [] (brTarget s o inv p)
    refine ⟨hout, hdata, hcaps, hpreds, hbench, fun k => (hseats k).trans (if_congr Iff.rfl ?_ rfl)⟩
    by_cases hp : (readP (cur s) p k).getLsbD 0 = !inv
    · rw [jumpTo_some (brTarget_taken o inv p hp)]
      exact (if_pos hp).symm
    · rw [jumpTo_none (brTarget_passed o inv p hp)]
      exact (if_neg hp).symm

/-! ## The lowest issued seat -/

theorem head_mem_issued {s : State} (h : issued s ≠ []) : (issued s).headD 0 ∈ issued s := by
  obtain ⟨j, ks, hj⟩ := List.exists_cons_of_ne_nil h
  simp [hj]
theorem not_lt_head_issued {s : State} {j : Nat} (hj : j ∈ issued s) : ¬j < (issued s).headD 0 := by
  have hp := pairwise_lt_issued s
  obtain ⟨i, ks, hi⟩ := List.exists_cons_of_ne_nil (List.ne_nil_of_mem hj)
  rw [hi] at hj hp ⊢
  rcases List.mem_cons.mp hj with rfl | hj
  · exact lt_irrefl _
  · exact Nat.not_lt.mpr (Nat.le_of_lt ((List.pairwise_cons.mp hp).1 j hj))

/-! ## A fault that stops the bench (R382) -/

/-- A fault that neither aborts the task nor waits: its bench stops. -/
def StopsBench (x : OpFault) : Prop := x.pool = false ∧ x.code ≠ 0x20 ∧ ¬(x.code = 0x40 ∧ x.sub = 1)
theorem stopsBench_capFault (sub : Nat) (c : Cap) (a : Word) : StopsBench (capFault 0x12 sub c a) := ⟨rfl, nofun, nofun⟩

/-! ## A bench that stops keeps its code capability -/

theorem code_stoppedBench (bell : Word) (b : Bench) : (stoppedBench bell b).code = b.code := by
  unfold stoppedBench haltBench
  split <;> rfl
theorem cur_stopBench (s : State) (q : FaultInfo) (hq : q.slot = s.sel.slot) :
    cur (stopBench s s.sel.core q) = stoppedBench s.bell (cur s) := by
  rw [stopBench_eq s q hq]
  exact (getBench_queueFaultOn _ _ _ _).trans (cur_putCur _ _)
theorem code_endWakes (s : State) (m : SeatMask) (x : OpFault) : (cur (endWakes s m x)).code = (cur s).code := by
  rcases endWakes_cases s m x with h | ⟨due, h⟩ <;> rw [h]
  rw [cur_putCur]
  rfl
theorem code_guardPass {s : State} {f : Nat → Option OpFault} {k : Nat} {x : OpFault} (hk : k ∈ issued s) (hx : f k = some x)
    (hfirst : ∀ j ∈ issued s, j < k → f j = none) (hslot : s.sel.slot ≠ 64) (hstops : StopsBench x) {go t : State} (h : guardPass s f go = .next t) :
    (cur t).code = (cur s).code := by
  obtain ⟨hpool, hcode, hremote⟩ := hstops
  have hsel := congrArg State.sel (onlyBenchChanged_endWakes s (passFaultInfo s f k x).mask x).outside
  rw [guardPass_first hk hx hfirst, hpool, raiseFault_stops _ _ (by rwa [hsel]) hcode hremote, Host.Outcome.next.injEq] at h
  rw [← h, cur_stopBench _ _ (by rw [hsel]; rfl), code_stoppedBench, code_endWakes]

/-! ## Transfers through a capability (R93 to R95) -/

/-- A capability that `brx` may go through: executable, unsealed, not quarantined (R93). -/
def MayEnter (s : State) (c : Cap) : Prop :=
  c.tag = true ∧ capE c < 48 ∧ capSeal c = 0 ∧ hasPerm c .ex = true ∧ benchQuarantine s c = false

section Brx
variable {s : State} {ca cd : CReg}

/-- A seat whose capability may be entered faults only on a transfer that crosses without being bench-wide, or on an odd
target. -/
theorem brxFault_of_mayEnter {k : Nat} (h : MayEnter s (readC (cur s) ca k)) : brxFault s ca k =
    if ((issued s).any fun k => crossObject s (readC (cur s) ca k)) && !benchWide s ca then
      some (capFault 0x12 2 (readC (cur s) ca k) 0)
    else oddTarget (capCursor (readC (cur s) ca k)) := by
  obtain ⟨htag, he, hseal, hex, hq⟩ := h
  simp [brxFault, htag, Nat.not_le.mpr he, hseal, hex, hq]
theorem benchWide_iff : benchWide s ca = true ↔
    (∀ k, k < 32 → (getSeat (cur s) k).state = .exited ∨ k ∈ issued s) ∧
      ∀ k ∈ issued s, sameButCursor (readC (cur s) ca k) (readC (cur s) ca ((issued s).headD 0)) = true := by
  simp only [benchWide, Bool.and_eq_true, List.all_eq_true, List.mem_range, Bool.or_eq_true, beq_iff_eq, mem_issued]
  rfl
theorem crosses_iff : ((issued s).any fun k => crossObject s (readC (cur s) ca k)) = true ↔
    ∃ k ∈ issued s, sameButCursor (readC (cur s) ca k) (cur s).code = false := by
  simp [crossObject]

theorem flags_writeC (b : Bench) (c : CReg) (vals : List SeatCap) : (writeC b c vals).flags = b.flags := by rw [writeC_eq]
theorem flags_lastReads (b : Bench) (m : SeatMask) (srcs : List Src) : (lastReads b m srcs).flags = b.flags := by rw [lastReads_eq]
/-- What `brx` does to the bench: the link, and the code capability (R94, R141). -/
def brxEffect (s : State) (ca cd : CReg) (b : Bench) : Bench :=
  { holding s cd (fun _ => withCursor (cur s).code (linkOf s)) b with
      code := readC (cur s) ca (lowestSeat s.sel.seats)
      opCache := if sameButCursor (readC (cur s) ca (lowestSeat s.sel.seats)) b.code then b.opCache else [] }
theorem keepsSeats_brxEffect : KeepsSeats (brxEffect s ca cd) where
  shaped _ h := shaped_writeC _ _ _ h
  seats _ := seats_writeC _ _ _
theorem exec_brx (hclear : OperandsClear s [] [ca] [] [cd]) (hf : ∀ k ∈ issued s, brxFault s ca k = none) :
    exec (.brx ca cd) s =
      .next (moveWith s [] (brxEffect s ca cd) (jumpTo s fun k => some (capCursor (readC (cur s) ca k)))) :=
  guardPass_clear _ _ _ fun k hk => by
    rw [useFault_clear s (usesOf (.brx ca cd)) hclear k hk]
    exact hf k hk
theorem readD_brxEffect (b : Bench) (r : DReg) (k : Nat) :
    readD (brxEffect s ca cd b) r k = readD b r k ∧ poisonD (brxEffect s ca cd b) r k = poisonD b r k := by
  have h := And.intro (readD_writeC b cd k ((issued s).map fun k => (k, withCursor (cur s).code (linkOf s), none)) r)
    (poisonD_writeC b cd k ((issued s).map fun k => (k, withCursor (cur s).code (linkOf s), none)) r)
  cases r <;> exact h
theorem readC_brxEffect_other (b : Bench) (c : CReg) (k : Nat) (h : c ≠ cd) :
    readC (brxEffect s ca cd b) c k = readC b c k ∧ poisonC (brxEffect s ca cd b) c k = poisonC b c k :=
  readC_writeC_other b cd c k ((issued s).map fun k => (k, withCursor (cur s).code (linkOf s), none)) h
theorem readP_brxEffect (b : Bench) (p : PReg) (k : Nat) : readP (brxEffect s ca cd b) p k = readP b p k :=
  readP_writeC b cd k ((issued s).map fun k => (k, withCursor (cur s).code (linkOf s), none)) p
theorem flags_brxEffect (srcs : List Src) : (brxEffect s ca cd (lastReads (cur s) s.sel.seats srcs)).flags = (cur s).flags :=
  (flags_writeC _ _ _).trans (flags_lastReads _ _ _)
/-- The fault of a seat in `brx`: of its operands, then of its capability (R93). -/
def brxSeatFault (s : State) (ca cd : CReg) (k : Nat) : Option OpFault :=
  (useFault s (usesOf (.brx ca cd)) k).orElse fun _ => brxFault s ca k
end Brx

theorem brxTransfersThroughAnExecutableCapability : Claims.BrxTransfersThroughAnExecutableCapability := by
  intro s ca cd h hclear
  dsimp only
  intro hgood
  refine ⟨fun heven hsame => ?_, fun hcross hnarrow hslot => ?_⟩
  · have hf : ∀ k ∈ issued s, brxFault s ca k = none := fun k hk => by
      rw [brxFault_of_mayEnter (hgood k hk), oddTarget_of_even (heven k hk), if_neg]
      rw [Bool.and_eq_true, crosses_iff, Bool.not_eq_true', ← Bool.not_eq_true, benchWide_iff]
      rintro ⟨⟨j, hj, hne⟩, hwide⟩
      rcases hsame with hsame | hsame
      · exact Bool.false_ne_true (hne.symm.trans (hsame j hj))
      · exact hwide hsame
    have heff : KeepsSeats (brxEffect s ca cd) := keepsSeats_brxEffect
    have hrest := benchRest_moveWith s [] (brxEffect s ca cd) (jumpTo s fun k => some (capCursor (readC (cur s) ca k)))
    refine ⟨_, exec_brx hclear hf, leavesOutside_moveWith _ _ _ _,
      dataKept_moveWith _ _ heff h _ fun _ _ _ _ => readD_brxEffect _ _ _, capsKept_moveWith _ _ heff h _ fun _ _ _ => readC_brxEffect_other _ _ _,
      predsKept_moveWith _ _ _ _ _ fun _ _ _ _ => readP_brxEffect _ _ _,
      (congrArg Bench.flags hrest).trans (flags_brxEffect (ca := ca) (cd := cd) _), congrArg Bench.code hrest, fun k hk => ?_, seatsBecome_moveWith _ _ heff h⟩
    rw [(readC_moveWith _ _ heff h cd k).1]
    exact (readC_writeC_same _ _ _ _ _ _ (shaped_lastReads _ _ _ h) fun _ => lt_of_mem_issued).trans (if_congr Iff.rfl rfl (if_pos hk))
  · have hone : ∀ k ∈ issued s, brxSeatFault s ca cd k = some (capFault 0x12 2 (readC (cur s) ca k) 0) := fun k hk => by
      rw [brxSeatFault, useFault_clear s (usesOf (.brx ca cd)) hclear k hk, Option.orElse_none, brxFault_of_mayEnter (hgood k hk), if_pos]
      rw [Bool.and_eq_true, crosses_iff, Bool.not_eq_true', ← Bool.not_eq_true, benchWide_iff]
      refine ⟨hcross, fun ⟨hall, hsame⟩ => ?_⟩
      rcases hnarrow with ⟨k, hk, hlive, hout⟩ | ⟨k, hk, hne⟩
      · exact (hall k hk).elim hlive hout
      · exact Bool.false_ne_true (hne.symm.trans (hsame k hk))
    obtain ⟨j, hj, -⟩ := id hcross
    have hhead := head_mem_issued (List.ne_nil_of_mem hj)
    have hfirst : ∀ i ∈ issued s, i < (issued s).headD 0 → brxSeatFault s ca cd i = none :=
      fun i hi hlt => absurd hlt (not_lt_head_issued hi)
    have hstops := stopsBench_capFault 2 (readC (cur s) ca ((issued s).headD 0)) 0
    obtain ⟨hpool, hcode, hremote⟩ := id hstops
    obtain ⟨t, ht, hstop⟩ := guardPass_stops hhead (hone _ hhead) hfirst (moveWith s [] (brxEffect s ca cd)
      (jumpTo s fun k => some (capCursor (readC (cur s) ca k)))) h hslot hpool hcode hremote
    exact ⟨t, ht, hstop.mode, code_guardPass hhead (hone _ hhead) hfirst hslot hstops ht, _, hstop.queue, rfl, rfl⟩

/-- Settles O13, from the laws of a pass that moves its seats and the order of the checks of `brx`. -/
theorem transfersReachTheirTargets : Obligations.TransfersReachTheirTargets :=
  ⟨transfersSendEachSeatToItsTarget, brxTransfersThroughAnExecutableCapability⟩

end Sys2Proof.Machine
end

section
/-!
PROOF. The checks of an instruction as a whole (R43, R44, R252, R334, R337): they fault before any operand is looked at.
-/
namespace Sys2Proof.Machine
open Sys2Proof

/-! ## A fault of the instruction as a whole (R43) -/

theorem faultsOf_const (s : State) (x : OpFault) : faultsOf s (fun _ => some x) = (issued s).map fun k => (k, x) := by
  simp [faultsOf, List.filterMap_eq_map']
/-- It is the fault of a pass each of whose seats has it. -/
theorem passFault_eq_guardPass (s : State) (x : OpFault) : passFault s x = guardPass s (fun _ => some x) s := by
  rw [passFault, guardPass, ← faultsOf_const]
  cases faultsOf s fun _ => some x <;> rfl
theorem poisonD_of_sameStanding {b c : Bench} (h : SameStanding b c) (r : DReg) (k : Nat) : poisonD c r k = poisonD b r k := by
  cases r
  · simp only [poisonD, h.vrows]
  · simp only [poisonD, h.sregs]
theorem poisonC_of_sameStanding {b c : Bench} (h : SameStanding b c) (r : CReg) (k : Nat) : poisonC c r k = poisonC b r k := by
  simp only [poisonC, h.crows]

section TakesFault
variable {s : State} (hs : Shaped (cur s)) (hb : onTaskBench s) {x : OpFault} (hx : StopsBench x)
include hs hb hx

theorem passFault_takesFault : ∃ t, passFault s x = .next t ∧ takesFault s t x.code x.sub := by
  obtain ⟨hslot, hissued⟩ := hb
  obtain ⟨hpool, hcode, hremote⟩ := hx
  obtain ⟨t, ht, hstop⟩ := guardPass_stops (f := fun _ => some x) (head_mem_issued hissued) rfl
    (fun j hj hlt => absurd hlt (not_lt_head_issued hj)) s hs hslot hpool hcode hremote
  have hst := hstop.standing
  rw [passFault_eq_guardPass]
  refine ⟨t, ht, hstop.outside, hstop.mode, fun k => congrArg (·.1) (hst.place k),
    dataKept_of_reads _ fun r k _ => ⟨readD_of_sameStanding hst r k, poisonD_of_sameStanding hst r k⟩,
    fun c k _ => ⟨readC_of_sameStanding hst c k, poisonC_of_sameStanding hst c k⟩, fun p k _ => readP_of_sameStanding hst p k,
    hst.flags, _, hstop.queue, rfl, rfl, rfl, rfl, rfl, rfl, rfl, fun k hk => ?_, rfl, rfl⟩
  rw [mask_passFaultInfo s _ _ _ k hk]
  simp
/-- A check of the instruction as a whole that fails decides, whatever comes after it. -/
theorem demand_takesFault {f : Option OpFault} (hf : f = some x) (go : Host.Outcome State Fault Refusal) :
    ∃ t, demand s f go = .next t ∧ takesFault s t x.code x.sub := by
  rw [hf]
  exact passFault_takesFault hs hb hx
end TakesFault

/-! ## The checks -/

theorem stopsBench_auxFault {code sub aux : Nat} (h : code ≠ 0x20 ∧ ¬(code = 0x40 ∧ sub = 1)) : StopsBench (auxFault code sub aux) :=
  ⟨rfl, h.1, h.2⟩
theorem featureFault_of_absent {s : State} {n : Nat} (h : (declaredMask s).getLsbD n = false) :
    ∃ aux, featureFault s n = some (auxFault 0x50 1 aux) := ⟨_, by rw [featureFault, h]; rfl⟩
theorem accFault_of_not_held {s : State} (h : (getCore s s.sel.core).accTask ≠ some (cur s).task) :
    accFault s = some (plainFault 0x50 2) := by simp [accFault, h]
theorem onMonitor_of_onTaskBench {s : State} (h : onTaskBench s) : onMonitor s = false := by simp [onMonitor, h.1]
theorem monitorOnly_of_onTaskBench {s : State} (h : onTaskBench s) (i : Instr) : monitorOnly s i = some (illegalFault i 2) := by
  rw [monitorOnly, onMonitor_of_onTaskBench h]
  rfl
theorem runOpen_of_onTaskBench {s : State} (h : onTaskBench s) (i : Instr) : runOpen s i = some (illegalFault i 2) := by
  rw [runOpen, onMonitor_of_onTaskBench h]
  rfl
theorem srdFault_of_monitor {s : State} {n : Nat} {v : Word} (h : sysRead s n = some (true, v)) (i : Instr) :
    srdFault s i n = monitorOnly s i := by rw [srdFault, h]
theorem sysRead_timetable (s : State) {n : Nat} (h : 0x120 ≤ n ∧ n < 0x128) : ∃ v, sysRead s n = some (true, v) := by
  rw [sysRead, if_pos h]
  · exact ⟨_, rfl⟩
  all_goals omega
/-- The registers of the monitor bench (R334). -/
theorem sysRead_monitor (s : State) {n : Nat}
    (h : n = 0x113 ∨ 0x120 ≤ n ∧ n ≤ 0x127 ∨ 0x200 ≤ n ∧ n ≤ 0x207) : ∃ v, sysRead s n = some (true, v) := by
  rcases h with rfl | h | ⟨hlo, hhi⟩
  · exact ⟨_, rfl⟩
  · exact sysRead_timetable s (by omega)
  · interval_cases n <;> exact ⟨_, rfl⟩
theorem swrFault_of_monitor {s : State} (hb : onTaskBench s) (i : Instr) {n : Nat} (h : n ≠ 0x100) :
    swrFault s i n = some (illegalFault i 2) := by
  rw [swrFault, if_neg h, monitorOnly_of_onTaskBench hb, ite_self]

/-! ## The instructions that they guard -/

section Guarded
variable {s : State} {i : Instr} (hs : Shaped (cur s)) (hb : onTaskBench s)
include hs hb

theorem undeclaredFeature_faults {n : Nat} (hi : featureOf i = some n) (h : (declaredMask s).getLsbD n = false) :
    ∃ t, exec i s = .next t ∧ takesFault s t 0x50 1 := by
  obtain ⟨aux, hf⟩ := featureFault_of_absent h
  have hx : StopsBench (auxFault 0x50 1 aux) := stopsBench_auxFault (by decide)
  unfold featureOf at hi
  split at hi <;> cases hi <;> exact demand_takesFault hs hb hx hf _
theorem matrixWithoutFile_faults (hi : (∃ f b a t, i = .mma f b a t) ∨ (∃ t, i = .aclr t) ∨ (∃ f c a t, i = .ald f c a t) ∨
    (∃ f r c a t, i = .ast f r c a t)) (h : (getCore s s.sel.core).accTask ≠ some (cur s).task) :
    ∃ t, exec i s = .next t ∧ takesFault s t 0x50 2 := by
  have hx : StopsBench (plainFault 0x50 2) := ⟨rfl, by decide, by decide⟩
  have hf := accFault_of_not_held h
  rcases hi with ⟨f, b, a, t, rfl⟩ | ⟨t, rfl⟩ | ⟨f, c, a, t, rfl⟩ | ⟨f, r, c, a, t, rfl⟩ <;>
    exact demand_takesFault hs hb hx hf _
theorem privileged_faults (hi : isPrivileged i) : ∃ t, exec i s = .next t ∧ takesFault s t 0x01 2 := by
  have hx : StopsBench (illegalFault i 2) := stopsBench_auxFault (by decide)
  have hopen := demand_takesFault hs hb hx (runOpen_of_onTaskBench hb i)
  have hmon := monitorOnly_of_onTaskBench hb i
  have hread : ∀ {n : Nat}, n = 0x113 ∨ 0x120 ≤ n ∧ n ≤ 0x127 ∨ 0x200 ≤ n ∧ n ≤ 0x207 →
      srdFault s i n = some (illegalFault i 2) := fun {n} hn => by
    obtain ⟨v, hv⟩ := sysRead_monitor s hn
    rw [srdFault_of_monitor hv, hmon]
  rcases hi with rfl | rfl | rfl | rfl | ⟨n, c, rfl⟩ | ⟨n, c, rfl⟩ | ⟨b, a, d, rfl⟩ | ⟨d, rfl⟩ | ⟨d, rfl⟩ | ⟨n, d, rfl, hn⟩ |
    ⟨n, d, rfl, hn⟩
  exacts [hopen _, hopen _, hopen _, hopen _, hopen _, hopen _, hopen _,
    demand_takesFault (f := rdPrivilege s _ 15) hs hb hx hmon _, demand_takesFault hs hb hx (hread (.inl rfl)) _,
    demand_takesFault hs hb hx (hread (.inr hn)) _, demand_takesFault hs hb hx (swrFault_of_monitor hb _ hn) _]
end Guarded

/-- Settles O32: the check of each instruction stands before everything else that it does. -/
theorem featuresAndPrivilegeAreCheckedBeforeOperands : Obligations.FeaturesAndPrivilegeAreCheckedBeforeOperands :=
  fun _ _ hs hb => ⟨fun _ hi h => undeclaredFeature_faults hs hb hi h, fun hi h => matrixWithoutFile_faults hs hb hi h,
    fun hi => privileged_faults hs hb hi⟩

end Sys2Proof.Machine
end

section
/-!
PROOF. What a step does (R18, R29, R127, R440): the bench's plan, the decoded instruction, the events.
-/
namespace Sys2Proof.Machine
open Sys2Proof

/-! ## Fetched words (R18) -/

theorem halfWord_lt (x y : Byte) : x.toNat + 256 * y.toNat < 2 ^ 16 := by
  have hx := x.isLt
  have hy := y.isLt
  omega
theorem lt_of_fetchHalf {s st : State} {pc : Word} {prev : Option (Nat × List Byte)} {lo : Nat} {l : Nat × List Byte}
    (h : fetchHalf s pc prev = .ok (lo, l, st)) : lo < 2 ^ 16 := by
  unfold fetchHalf at h
  dsimp only at h
  split at h
  · cases h
  split at h
  · cases h
  split at h
  · cases h
  split at h
  · split at h
    · cases h
    · cases h
      exact halfWord_lt _ _
  · split at h
    · cases h
    split at h
    · cases h
    · cases h
      exact halfWord_lt _ _

/-- A fetched word is an even half-word, or an odd word of two half-words. -/
theorem fetchAt_word {s st : State} {pc : Word} {f : Fetched} (h : fetchAt s pc = .ok (f, st)) :
    f.len = 2 ∧ f.word % 2 = 0 ∧ f.word < 2 ^ 16 ∨ f.len = 4 ∧ f.word % 2 = 1 ∧ f.word < 2 ^ 32 := by
  unfold fetchAt at h
  split at h
  · cases h
  split at h
  · cases h
  next lo l s1 hlo =>
    have hlo' := lt_of_fetchHalf hlo
    split at h
    · cases h
      exact .inl ⟨rfl, ‹_›, hlo'⟩
    split at h
    · cases h
    next hi _ _ hhi =>
      have hhi' := lt_of_fetchHalf hhi
      cases h
      refine .inr ⟨rfl, ?_, ?_⟩ <;> simp only <;> omega
/-- What stands at a fetched word is what the decoder reads from its bytes. -/
theorem kindAt_of_decodeBytes {s st : State} {pc : Word} {f : Fetched} (h : fetchAt s pc = .ok (f, st)) {i : Instr}
    (hd : decodeBytes (wordBytes (8 * f.len) f.word) = some (.ok i, f.len, [])) : kindAt f = .instr i := by
  rcases fetchAt_word h with ⟨hlen, heven, hw⟩ | ⟨hlen, hodd, hw⟩
  · rw [hlen, ← List.append_nil (wordBytes _ _), decodeBytes_half hw heven] at hd
    obtain rfl : decode16 f.word = i := by simpa using hd
    rw [kindAt, if_pos hlen]
  · rw [hlen, ← List.append_nil (wordBytes _ _), decodeBytes_word hw hodd] at hd
    have hi : decode32 f.word = .ok i := by simpa using hd
    rw [kindAt, if_neg (by omega), hi]

/-! ## Events -/

theorem runEvent_of_rowOf {i : Instr} {e : Event} (h : rowOf i e) (s : State) : runEvent e s = exec i s := by
  cases e <;> cases h <;> rfl
theorem exists_rowOf (e : Event) : ∃ i, rowOf i e := by cases e <;> exact ⟨_, rfl⟩

/-- The event that runs a row of the opcode table which no word encodes. -/
def eventOf : Instr → Option Event
  | .liftPass core slot => some (.liftPass core slot)
  | .pipeIdleClock core pipe => some (.pipeIdleClock core pipe)
  | .loadComplete id reply => some (.loadComplete id reply)
  | .storeAccepted id => some (.storeAccepted id)
  | .atomicComplete id reply => some (.atomicComplete id reply)
  | .holdLineDrain task coreT line => some (.holdLineDrain task coreT line)
  | .groupArrivalApply id => some (.groupArrivalApply id)
  | .pauseWake core slot seat => some (.pauseWake core slot seat)
  | .fenceContinue core slot seat => some (.fenceContinue core slot seat)
  | .mbxTimeout core slot seat => some (.mbxTimeout core slot seat)
  | .goneMaskSet task coreT => some (.goneMaskSet task coreT)
  | .copyComplete id => some (.copyComplete id)
  | .promiseMissed id => some (.promiseMissed id)
  | .matrixUnitDone id => some (.matrixUnitDone id)
  | .tmmaHandover id => some (.tmmaHandover id)
  | .tmmaComplete id => some (.tmmaComplete id)
  | .matrixFlagFall id => some (.matrixFlagFall id)
  | .tileRowsDone id => some (.tileRowsDone id)
  | .pageWalk task core va acc => some (.pageWalk task core va acc)
  | .leaseExpire unit => some (.leaseExpire unit)
  | .hubReturnExpired id => some (.hubReturnExpired id)
  | .sdqtailWrite v => some (.sdqtailWrite v)
  | .shootdownRequest => some (.shootdownRequest)
  | .bellSkewDetect r => some (.bellSkewDetect r)
  | .skewRecovery r => some (.skewRecovery r)
  | .translationRenewal id va => some (.translationRenewal id va)
  | .grantRequest m slot va acc => some (.grantRequest m slot va acc)
  | .remoteAccessPerform req => some (.remoteAccessPerform req)
  | .remoteReplyDeadline id => some (.remoteReplyDeadline id)
  | .remoteAckDeadline id => some (.remoteAckDeadline id)
  | .savedReplyApply task coreT benchT record reply => some (.savedReplyApply task coreT benchT record reply)
  | .carveComplete carve => some (.carveComplete carve)
  | .softError e => some (.softError e)
  | .hotnessSample hub die flags pa asn => some (.hotnessSample hub die flags pa asn)
  | .hotctlWrite hub v => some (.hotctlWrite hub v)
  | .hottailWrite hub v => some (.hottailWrite hub v)
  | .pageMigration asn va frame => some (.pageMigration asn va frame)
  | .icacheInvalidate due asn va len => some (.icacheInvalidate due asn va len)
  | .binTimerExpire node => some (.binTimerExpire node)
  | .emitStallTimeout core slot seat => some (.emitStallTimeout core slot seat)
  | .priorityAging task => some (.priorityAging task)
  | .taskAdmit task die => some (.taskAdmit task die)
  | .stagingGranuleLand task coreT region granule => some (.stagingGranuleLand task coreT region granule)
  | .stagingPageFault task va sub => some (.stagingPageFault task va sub)
  | .taskDispatch task => some (.taskDispatch task)
  | .deanPreempt task => some (.deanPreempt task)
  | .taskRetire task => some (.taskRetire task)
  | .taskRetireRelease task => some (.taskRetireRelease task)
  | .taskAbort task cause => some (.taskAbort task cause)
  | .pagerResident task => some (.pagerResident task)
  | .implicitCheckpoint task bin => some (.implicitCheckpoint task bin)
  | .timetableIdleAdvance core pipe => some (.timetableIdleAdvance core pipe)
  | .teamHalt task why => some (.teamHalt task why)
  | .parkBlockedTask task => some (.parkBlockedTask task)
  | .parkedDelivery task coreT benchT seat d => some (.parkedDelivery task coreT benchT seat d)
  | .saveRunOpen core slot => some (.saveRunOpen core slot)
  | .restoreRunOpen core slot => some (.restoreRunOpen core slot)
  | .faultRunOpen core => some (.faultRunOpen core)
  | .faultDisposition task w0 => some (.faultDisposition task w0)
  | .featChangeRetest task => some (.featChangeRetest task)
  | .machineCheck sub core task aux => some (.machineCheck sub core task aux)
  | .pushReserve req => some (.pushReserve req)
  | .pushPublish buf k => some (.pushPublish buf k)
  | .pushReply id v => some (.pushReply id v)
  | .pushReplyDeadline id => some (.pushReplyDeadline id)
  | .pushSlotTimeout buf k => some (.pushSlotTimeout buf k)
  | .sretPerform id => some (.sretPerform id)
  | .markReplicaArrive src mark path n => some (.markReplicaArrive src mark path n)
  | .markDone id => some (.markDone id)
  | .markTimeout id => some (.markTimeout id)
  | .linkFail lib => some (.linkFail lib)
  | .linkRetrainDone lib => some (.linkRetrainDone lib)
  | .pathSetChange target => some (.pathSetChange target)
  | .libraryReport lib id r => some (.libraryReport lib id r)
  | .remoteRefusal id ns => some (.remoteRefusal id ns)
  | .pathSilenceTimeout target lib => some (.pathSilenceTimeout target lib)
  | .pathProbe target lib answered => some (.pathProbe target lib answered)
  | .noPathTimeout target => some (.noPathTimeout target)
  | .poolLinkTimeout id => some (.poolLinkTimeout id)
  | .libraryAtomCombine reqs => some (.libraryAtomCombine reqs)
  | .poolsegWrite seg v => some (.poolsegWrite seg v)
  | .poolsegUnmapDone seg => some (.poolsegUnmapDone seg)
  | .hallPassReceive grp => some (.hallPassReceive grp)
  | .programPost grp f => some (.programPost grp f)
  | .passFrame grp f => some (.passFrame grp f)
  | .hallPassRegenerate grp => some (.hallPassRegenerate grp)
  | .membership grp m => some (.membership grp m)
  | .bgctlWrite v => some (.bgctlWrite v)
  | .bellBeaconSend => some (.bellBeaconSend)
  | .bellBeacon grp f => some (.bellBeacon grp f)
  | .bellUnlock => some (.bellUnlock)
  | .revocationNotice via slot base len num => some (.revocationNotice via slot base len num)
  | .revocationAck src num => some (.revocationAck src num)
  | .revocationFence src num => some (.revocationFence src num)
  | .eraserSweep => some (.eraserSweep)
  | .revocationComplete num => some (.revocationComplete num)
  | .destroyComplete type num => some (.destroyComplete type num)
  | .create req => some (.create req)
  | .mint req => some (.mint req)
  | .destroy req => some (.destroy req)
  | .revoke req => some (.revoke req)
  | .memcap req => some (.memcap req)
  | .bind req => some (.bind req)
  | .unbind req => some (.unbind req)
  | .carve req => some (.carve req)
  | .carvecap req => some (.carvecap req)
  | .heap req => some (.heap req)
  | .inject req => some (.inject req)
  | .emitcap req => some (.emitcap req)
  | .exportSpace req => some (.exportSpace req)
  | .admitCap req => some (.admitCap req)
  | .preemptPark req => some (.preemptPark req)
  | .preemptRelease req => some (.preemptRelease req)
  | .ringDoneWrite ring done => some (.ringDoneWrite ring done)
  | .serviceAlloc ring => some (.serviceAlloc ring)
  | .packageReset => some (.packageReset)
  | .bootClaim grp m => some (.bootClaim grp m)
  | .bootReady grp m hash lib leasemax => some (.bootReady grp m hash lib leasemax)
  | .bootTimeout grp m => some (.bootTimeout grp m)
  | .bootTimerExpire => some (.bootTimerExpire)
  | .imageVerify image => some (.imageVerify image)
  | .bootctlWrite v => some (.bootctlWrite v)
  | .getVersion key => some (.getVersion key)
  | .getCapabilities key => some (.getCapabilities key)
  | .negotiateAlgorithms key ok => some (.negotiateAlgorithms key ok)
  | .getDigests key => some (.getDigests key)
  | .getCertificate key slot => some (.getCertificate key slot)
  | .challenge key slot nonce => some (.challenge key slot nonce)
  | .getMeasurements key index => some (.getMeasurements key index)
  | .keyExchange key m => some (.keyExchange key m)
  | .finish key session ok => some (.finish key session ok)
  | .endSession key session => some (.endSession key session)
  | .keyRelease key session m => some (.keyRelease key session m)
  | .unsupportedRequest key code => some (.unsupportedRequest key code)
  | .powerThrottle l => some (.powerThrottle l)
  | .mgmtRegisterWrite offset v by_ => some (.mgmtRegisterWrite offset v by_)
  | .illegalWord word kind => some (.illegalWord word kind)
  | .pcieMsiVector n => some (.pcieMsiVector n)
  | .boardFibreLoss grp => some (.boardFibreLoss grp)
  | .frameCheckFail grp f => some (.frameCheckFail grp f)
  | .checkpointComplete task => some (.checkpointComplete task)
  | .imageSectionComplete id => some (.imageSectionComplete id)
  | .pushGrant id k pos => some (.pushGrant id k pos)
  | .hostTrapWithdraw hart cause => some (.hostTrapWithdraw hart cause)
  | .hostHartAccess hart pa acc => some (.hostHartAccess hart pa acc)
  | .leasemaxRequeueWait task => some (.leasemaxRequeueWait task)
  | _ => none
theorem rowOf_of_eventOf {i : Instr} {e : Event} (h : eventOf i = some e) : rowOf i e := by cases i <;> cases h <;> rfl
/-- An instruction that no word encodes is the row of an event. -/
theorem eventOf_isSome {i : Instr} (h : encode i = none) (hh : encodeHost i = none) : (eventOf i).isSome = true := by
  cases i <;> cases h <;> cases hh <;> rfl
theorem word_or_row (i : Instr) : (∃ n w, encode i = some (n, w)) ∨ (∃ w, encodeHost i = some w) ∨ ∃ e, rowOf i e := by
  rcases he : encode i with _ | ⟨n, w⟩
  case some => exact .inl ⟨n, w, rfl⟩
  rcases hh : encodeHost i with _ | w
  case some => exact .inr (.inl ⟨w, rfl⟩)
  obtain ⟨e, hev⟩ := Option.isSome_iff_exists.mp (eventOf_isSome he hh)
  exact .inr (.inr ⟨e, rowOf_of_eventOf hev⟩)

/-! ## Plans -/

theorem planBench_of_canBegin {s : State} {core slot : Nat} {p : Pass} (h : canBegin s core slot = some p) :
    planBench s core slot = .pass p := by
  unfold canBegin at h
  split at h
  next q hq =>
    have hp : q = p := by
      split at h
      · simpa using h
      split at h
      · split at h <;> simp_all
      · cases h
    rw [hq, hp]
  · cases h
/-- What a pipe takes is a pass that one of its benches, or the monitor bench, can begin. -/
theorem canBegin_of_pipeNext {s : State} {core pipe slot : Nat} {p : Pass} (h : pipeNext s core pipe = some (slot, p)) :
    canBegin s core slot = some p := by
  have htake : ∀ k, (canBegin s core k).map (fun p => (k, p)) = some (slot, p) → canBegin s core slot = some p := fun k hk => by
    obtain ⟨q, hq, hkq⟩ := Option.map_eq_some_iff.mp hk
    cases hkq
    exact hq
  have helse : ∀ j k, (((canBegin s core j).map fun p => (j, p)).orElse fun _ => (canBegin s core k).map fun p => (k, p)) =
      some (slot, p) → canBegin s core slot = some p := fun j k hjk => by
    rw [Option.orElse_eq_or, Option.or_eq_some_iff] at hjk
    exact hjk.elim (htake j) fun hk => htake k hk.2
  unfold pipeNext at h
  dsimp only at h
  split at h
  next hmon =>
    cases h
    split at hmon
    · exact hmon
    · cases hmon
  next =>
    split at h
    · exact htake _ h
    split at h
    · exact helse _ _ h
    · exact helse _ _ h
theorem planBench_of_mem_acts {s : State} {core slot : Nat} {p : Pass} (h : Act.pass core slot p ∈ acts s) :
    planBench s core slot = .pass p := by
  simp only [acts, List.mem_append, List.mem_map, List.mem_flatMap, List.mem_filterMap, reduceCtorEq, and_false, exists_false,
    or_false] at h
  rcases h with ⟨e, -, hpass⟩ | ⟨k, -, hk⟩
  · simp only [corePasses, List.mem_filterMap, Option.map_eq_some_iff] at hpass
    obtain ⟨pipe, -, x, hx, hact⟩ := hpass
    cases hact
    exact planBench_of_canBegin (canBegin_of_pipeNext hx)
  · split at hk
    · split at hk <;> cases hk
    · cases hk

/-- A plan at an instruction is its admission. -/
theorem planWord_instr {s : State} {core slot : Nat} {f : Fetched} {i : Instr} (h : kindAt f = .instr i) (p : Pass) :
    planWord s core slot p f = admission s core slot { p with len := f.len, kind := .instr i } i := by
  simp only [planWord, h]
/-- A plan at a header whose flags are free and whose clause begins with an instruction is the admission of that one. -/
theorem planHeader_instr {s st' : State} {core slot : Nat} {p : Pass} {f g : Fetched} {h i : Instr}
    (hclear : waitClear (getBench s core slot) f.word = true) (hh : decode32 f.word = .ok h)
    (hg : fetchAt p.st (p.pc + 4) = .ok (g, st')) (hbody : g.isHeader = false) (hi : kindAt g = .instr i) :
    planHeader s core slot p f = admission s core slot
      { p with start := true, hdr := p.pc, hdrWord := BitVec.ofNat 32 f.word, pc := p.pc + 4, len := g.len, kind := .instr i
               st := st' } i := by
  simp only [planHeader, hclear, hh, hg, hbody, planWord_instr hi, Bool.not_true, Bool.false_eq_true, if_false]

section PlanBench
variable {s u st : State} {core slot : Nat} {b : Bench} {pc : Word} {f : Fetched} {i : Instr}
  (hu : choosing s core slot = u) (hb : getBench u core slot = b) (hpc : basePc b = pc) (hmode : b.mode = .running)
  (hmiss : b.misses = []) (helig : eligibleSeats b ≠ []) (hf : fetchAt (selectPass u core slot 0 pc 4) pc = .ok (f, st))
include hu hb hpc hmode hmiss helig hf

/-- The plan of a bench that runs, inside a clause. -/
theorem planBench_inClause (hbody : f.isHeader = false) (hmust : (getSeat b ((seatsAt b pc false).headD 0)).must = 0)
    (hi : kindAt f = .instr i) :
    planBench s core slot = admission u core slot
      ⟨maskOf fun k => (seatsAt b pc false).contains k, false, (getSeat b ((seatsAt b pc false).headD 0)).hdr,
        (getSeat b ((seatsAt b pc false).headD 0)).hdrWord, pc, f.len, .instr i, st⟩ i := by
  unfold planBench
  rw [hu]
  dsimp only
  rw [hb, if_neg (by simp [hmode, helig])]
  simp only [hmiss, hpc, hf, hbody, hmust, planWord_instr hi, Bool.false_eq_true, if_false, ne_eq, not_true_eq_false]
/-- The plan of a bench that runs, at a header whose flags are free and whose clause begins with an instruction. -/
theorem planBench_atHeader {g : Fetched} {st' : State} {h : Instr} (hhead : f.isHeader = true) (hh : decode32 f.word = .ok h)
    (hclear : waitClear b f.word = true) (hg : fetchAt st (pc + 4) = .ok (g, st')) (hbody : g.isHeader = false)
    (hi : kindAt g = .instr i) :
    planBench s core slot = admission u core slot
      ⟨maskOf fun k => (seatsAt b pc true).contains k, true, pc, BitVec.ofNat 32 f.word, pc + 4, g.len, .instr i, st'⟩ i := by
  unfold planBench
  rw [hu]
  dsimp only
  rw [hb, if_neg (by simp [hmode, helig])]
  simp only [hmiss, hpc, hf, hhead, if_true]
  exact planHeader_instr (hb ▸ hclear) hh hg hbody hi
end PlanBench

/-! ## One step -/

section InService
variable {s : State} (hin : outOfService s = false)
include hin

theorem step_of_act {a : Act} (h : chooseAct s = some a) : step s = onNext (runAct s a) settle := by
  rw [step, stepOnce, hin, h]
  rfl
theorem step_of_none (h : chooseAct s = none) : step s = .next (settle s) := by
  rw [step, stepOnce, hin, h]
  rfl
end InService

theorem onNext_onNext (o : Host.Outcome State Fault Refusal) (f g : State → State) :
    onNext (onNext o f) g = onNext o fun s => g (f s) := by cases o <;> rfl
theorem runAgenda_of_rowOf {s : State} {k : Nat} {e : Event} {i : Instr} (hk : s.agenda[k]? = some e) (hr : rowOf i e) :
    runAgenda s k = exec i { s with agenda := s.agenda.eraseIdx k } := by
  rw [runAgenda, hk]
  exact runEvent_of_rowOf hr _
/-- Out of service, a reset of the agenda is found where it stands. -/
theorem resetIndex_of_mem {s : State} (h : Event.packageReset ∈ s.agenda) :
    ∃ k, resetIndex s = some k ∧ s.agenda[k]? = some .packageReset := by
  obtain ⟨k, hk⟩ := Option.isSome_iff_exists.mp ((List.findIdx?_isSome (p := fun e => e == Event.packageReset)).trans
    (List.any_eq_true.mpr ⟨_, h, beq_self_eq_true _⟩))
  obtain ⟨hlt, hp, -⟩ := List.findIdx?_eq_some_iff_getElem.mp hk
  exact ⟨k, hk, by rw [List.getElem?_eq_getElem hlt, eq_of_beq hp]⟩
theorem resetIndex_of_not_mem {s : State} (h : Event.packageReset ∉ s.agenda) : resetIndex s = none :=
  List.findIdx?_eq_none_iff.mpr fun _ he => beq_eq_false_iff_ne.mpr fun heq => h (heq ▸ he)

/-- Settles O58: the choice of an act, the plan of a bench and the run of an event, each by its own lemma. -/
theorem aStepRunsTheDecodedInstruction : Obligations.AStepRunsTheDecodedInstruction := by
  refine ⟨fun s core slot p i hin hact hkind => ?_, fun s core slot p => planBench_of_mem_acts, fun s core slot f st => ?_,
    fun s h i hin hact => ⟨fun hclean hword => ?_, fun g hg => ?_⟩, fun s e i hin hact hr => ?_,
    fun s k e i hin hact hk hr => ?_, exists_rowOf, fun s hin hact => step_of_none hin hact, fun s hout hno => ?_,
    fun s hout hmem => ?_, word_or_row⟩
  · rw [step_of_act hin hact, runAct, runPass, hkind]
    dsimp only
    rw [onNext_onNext]
  · intro u b pc hmode hmiss helig hf
    refine ⟨fun i hbody hd hmust => ?_, fun i h g st' hhead hh hclear hg hbody hd => ?_⟩
    · exact planBench_inClause rfl rfl rfl hmode hmiss helig hf hbody hmust (kindAt_of_decodeBytes hf hd)
    · exact planBench_atHeader rfl rfl rfl hmode hmiss helig hf hhead hh hclear hg hbody (kindAt_of_decodeBytes hg hd)
  · rw [step_of_act hin hact, runAct, runHart, hclean, hword]
  · rw [step_of_act hin hact, runAct, runHart, hg]
    rfl
  · rw [step_of_act hin hact, runAct, runEvent_of_rowOf hr]
  · rw [step_of_act hin hact, runAct, runAgenda_of_rowOf hk hr]
  · rw [step, stepOnce, hout, resetIndex_of_not_mem hno]
    rfl
  · obtain ⟨k, hk, hat⟩ := resetIndex_of_mem hmem
    refine ⟨k, hat, ?_⟩
    rw [step, stepOnce, hout, hk, ← runAgenda_of_rowOf hat rfl]
    rfl

end Sys2Proof.Machine
end

section
/-!
PROOF. The 16-bit forms (R22, R26, R86, R87).
-/
namespace Sys2Proof.Machine
open Sys2Proof

/-! ## The half-word 0 (R22, R87) -/

theorem exec_halfZero (s : State) : exec (.mov16 false 0 0) s = .next (advance s false) := by
  change execMov16 false 0 0 s = _
  rw [execMov16, if_pos (by decide)]
/-- An advance moves the seats and does nothing else to the bench. -/
theorem cur_advance (s : State) (closes : Bool) : cur (advance s closes) =
    { cur s with seats := (mapIssued s (cur s) fun _ x => pastSeat x s.sel.len closes).seats } := by
  rw [advance, cur_putCur, mapIssued_eq]

/-! ## The other forms -/

/-- The source A of a 16-bit form, read last where L is set (R86). -/
def halfA (l : Bool) (a : Fin 32) : Src := ⟨lowV a, if l then .last else .plain⟩
/-- Two instructions with one outcome. -/
def SameEffect (s : State) (i j : Instr) : Prop := ∃ t, exec i s = .next t ∧ exec j s = .next t

/-- Lane passes over the same sources, with the same values, have one outcome. -/
theorem sameEffect_of_lanes {s : State} {i j : Instr} {srcs : List Src} {d : DReg} {val : Nat → Word}
    (hi : exec i s = lanePass s i srcs d val) (hj : exec j s = lanePass s j srcs d val)
    (hci : OperandsClear s (usesOf i).reads (usesOf i).creads (usesOf i).writes (usesOf i).cwrites)
    (hcj : OperandsClear s (usesOf j).reads (usesOf j).creads (usesOf j).writes (usesOf j).cwrites)
    (hcl : closesClause i = closesClause j) : SameEffect s i j :=
  ⟨_, hi.trans (lanePass_clear s i srcs d val hci), hj.trans (hcl ▸ lanePass_clear s j srcs d val hcj)⟩
theorem sameEffect_mov16 (l : Bool) (a d : Fin 32) {s : State} (h0 : l = true ∨ a ≠ 0 ∨ d ≠ 0)
    (h : OperandsClear s [] [] [lowV d] []) : SameEffect s (.mov16 l a d) (.mov (halfA l a) (lowV d)) := by
  have hne : ¬(!l ∧ a = 0 ∧ d = 0) := by
    rintro ⟨hl, ha, hd⟩
    simp [ha, hd, (Bool.not_eq_true' l).mp hl] at h0
  refine ⟨_, ?_, benchPass_clear s (.mov (halfA l a) (lowV d)) _ _ h⟩
  change execMov16 l a d s = _
  rw [execMov16, if_neg hne]
  exact benchPass_clear s (.mov16 l a d) _ _ h

theorem decodeBytes_even (lo hi : Byte) (rest : List Byte) (h : lo.toNat % 2 = 0) :
    decodeBytes (lo :: hi :: rest) = some (.ok (decode16 (lo.toNat + 256 * hi.toNat)), 2, rest) := by
  have heven : ((lo.toNat + 256 * hi.toNat) % 2 == 0) = true := by simp; omega
  simp only [decodeBytes, halfOf, heven, if_true]

/-- Settles O8: a 16-bit form and its equivalent are lane passes over the same sources with the same values. -/
theorem halfWordFormsAreTheirFullWordEquivalents : Obligations.HalfWordFormsAreTheirFullWordEquivalents := by
  intro l a d s
  refine ⟨decodeBytes_even, by decide, fun hs => ?_, sameEffect_mov16 l a d, fun h => ?_, fun h => ?_⟩
  · refine ⟨_, exec_halfZero s, leavesOutside_putCur s _, ?_⟩
    have hseats : SeatsBecome s (advance s false) fun _ x => pastSeat x s.sel.len false := fun k => by
      rw [advance, cur_putCur, getSeat_mapIssued s _ _ (length_seats_of_shaped hs)]
    refine ⟨?_, ?_, ?_, fun p k _ => ?_, benchKept_of_rest ?_, hseats⟩ <;> rw [cur_advance] <;> rfl
  · and_intros <;> exact sameEffect_of_lanes rfl rfl h h rfl
  · exact sameEffect_of_lanes rfl rfl h h rfl

end Sys2Proof.Machine
end

section
/-!
PROOF. Laws of instructions in flight (R31, R106, R136, R137): how one is found, what lands in the bench that issued it, and how it ends.
-/
namespace Sys2Proof.Machine
open Sys2Proof

/-! ## Finding and dropping an instruction in flight -/

theorem eq_of_id_eq {l : List Flight} (hn : (l.map (·.id)).Nodup) {f g : Flight} (hf : f ∈ l) (hg : g ∈ l) (h : g.id = f.id) : g = f :=
  List.inj_on_of_nodup_map hn hg hf h
theorem findFlight_of_mem {s : State} (hn : (s.flights.map (·.id)).Nodup) {f : Flight} (hf : f ∈ s.flights) :
    findFlight s f.id = some f := by
  obtain ⟨g, hg⟩ := Option.isSome_iff_exists.mp 
    ((List.find?_isSome (p := fun g => g.id == f.id)).mpr ⟨f, hf, beq_self_eq_true f.id⟩)
  rw [findFlight, hg, eq_of_id_eq hn hf (List.mem_of_find?_eq_some hg) (by simpa using List.find?_some hg)]
theorem findFlight_of_inFlight {s : State} {f : Flight} (h : inFlight s f) : findFlight s f.id = some f := findFlight_of_mem h.1 h.2.1
theorem flights_dropFlight {s : State} {f : Flight} (h : inFlight s f) : (dropFlight s f.id).flights = s.flights.filter (· ≠ f) := by
  refine List.filter_congr fun g hg => ?_
  by_cases hgf : g = f
  · simp [hgf]
  · have hid : g.id ≠ f.id := fun hid => hgf (eq_of_id_eq h.1 h.2.1 hg hid)
    simp [hgf, hid]

/-! ## The bench of an instruction in flight -/

/-- Only the bench that issued an instruction in flight has changed, to b. -/
structure FlightBenchBecomes (s t : State) (f : Flight) (b : Bench) : Prop where
  outside : t = { s with cores := t.cores }
  bench : flightBench t f = b
  others : ∀ core slot, ¬(core = f.core ∧ slot = f.slot) → getBench t core slot = getBench s core slot
  rest : ∀ core, { getCore t core with benches := [] } = { getCore s core with benches := [] }

theorem FlightBenchBecomes.trans {s t u : State} {f : Flight} {b c : Bench} (h : FlightBenchBecomes s t f b)
    (h' : FlightBenchBecomes t u f c) : FlightBenchBecomes s u f c where
  outside := by rw [h'.outside, h.outside]
  bench := h'.bench
  others core slot hne := (h'.others core slot hne).trans (h.others core slot hne)
  rest core := (h'.rest core).trans (h.rest core)
theorem flightBenchBecomes_onFlightBench {s : State} {f : Flight} (h : (flightBench s f).task = f.task) (g : Bench → Bench) :
    FlightBenchBecomes s (onFlightBench s f g) f (g (flightBench s f)) := by
  have heq : onFlightBench s f g = putBench s f.core f.slot (g (flightBench s f)) := if_pos (by simpa [flightBench] using h)
  rw [heq]
  exact ⟨rfl, getBench_putBench_same _ _ _ _, fun core slot hne => getBench_putBench_other _ _ _ _ _ _ hne,
    fun core => getCore_putBench_rest _ _ _ _ _⟩
theorem inFlight_of_becomes {s t : State} {f : Flight} {b : Bench} (h : inFlight s f) (ht : FlightBenchBecomes s t f b)
    (hb : Shaped b) (htask : b.task = f.task) : inFlight t f := by
  obtain ⟨hn, hf, -, -⟩ := h
  rw [inFlight, ht.bench, ht.outside]
  exact ⟨hn, hf, hb, htask⟩

/-! ## The end of an instruction (R31) -/

theorem flagOf_lowerFlag (b : Bench) (hlen : b.flags.length = 12) (flag : Option Nat) (n : Nat) :
    flagOf (lowerFlag b flag) n = flagOf b n - if flag = some n then 1 else 0 := by
  rcases flag with _ | k
  · simp [lowerFlag]
  rw [lowerFlag, flagOf]
  by_cases hk : k = n
  · subst hk
    rcases Nat.lt_or_ge k 12 with hlt | hge
    · simp [nth_setNth_same _ _ _ _ (hlen ▸ hlt)]
    · have h0 : flagOf b k = 0 := nth_eq_default _ _ _ (hlen ▸ hge)
      have h0' : nth (setNth b.flags k 0) k 0 = 0 := nth_eq_default _ _ _ (by rw [length_setNth, hlen]; exact hge)
      simp [h0, h0']
  · simp [nth_setNth_other _ _ _ _ _ hk, flagOf, hk]
theorem lowerFlag_eq (b : Bench) (flag : Option Nat) : lowerFlag b flag = { b with flags := (lowerFlag b flag).flags } := by
  cases flag <;> rfl
/-- An instruction that ends is gone, and its flag falls with the last part of its pass. -/
theorem endsAlone_endFlight {s : State} {f : Flight} (h : inFlight s f) : endsAlone s (endFlight s f) f := by
  have hfl := flights_dropFlight h
  obtain ⟨hn, hf, hs, htask⟩ := h
  have hmate : ((dropFlight s f.id).flights.any fun x => x.mate == f.mate) = true ↔ ¬∀ g ∈ s.flights, g.mate = f.mate → g = f := by
    rw [hfl]
    simp only [List.any_eq_true, List.mem_filter, beq_iff_eq, decide_eq_true_eq]
    push Not
    exact exists_congr fun g => by tauto
  have hlen : (flightBench s f).flags.length = 12 := ((shaped_iff _).mp hs).2.2.2.2.2
  unfold endFlight
  dsimp only
  split
  case isTrue hany =>
    refine ⟨by rw [← hfl]; rfl, fun n => ?_, fun _ => rfl, fun _ _ _ => rfl, rfl⟩
    rw [if_neg fun hlast => hmate.mp hany hlast.2]
    rfl
  case isFalse hany =>
    have hb := flightBenchBecomes_onFlightBench (s := dropFlight s f.id) htask fun b => lowerFlag b f.flag
    refine ⟨?_, fun n => ?_, hb.rest, hb.others, ?_⟩
    · rw [← hfl]
      exact hb.outside
    · rw [hb.bench]
      refine (flagOf_lowerFlag _ hlen _ n).trans ?_
      have hlast := not_not.mp fun hno => hany (hmate.mpr hno)
      exact congrArg _ (if_congr (and_iff_left hlast).symm rfl rfl)
    · rw [hb.bench]
      exact lowerFlag_eq _ _

/-! ## An instruction that goes on -/

theorem findFlight_putFlight (s : State) (f : Flight) (id : Nat) :
    findFlight (putFlight s f) id = if id = f.id then (findFlight s id).map fun _ => f else findFlight s id := by
  simp only [findFlight, putFlight]
  induction s.flights with
  | nil => simp
  | cons g l ih =>
    rw [List.map_cons, List.find?_cons, List.find?_cons, ih]
    by_cases hg : g.id = f.id <;> by_cases hid : id = f.id
    · simp [hg, hid]
    · have hne : (f.id == id) = false := by simpa using Ne.symm hid
      simp [hg, hid, hne]
    · have hne : (g.id == f.id) = false := by simpa using hg
      simp [hid, hne]
    · have hne : (g.id == f.id) = false := by simpa using hg
      simp [hid, hne]
theorem goesOnAs_putFlight {s t : State} {f : Flight} {k : FlightKind} (h : inFlight s f)
    (ht : t.flights = (putFlight s { f with kind := k }).flights) : goesOnAs s t f k := by
  have hfind : ∀ id, findFlight t id = findFlight (putFlight s { f with kind := k }) id := fun id => by rw [findFlight, ht, findFlight]
  refine ⟨?_, fun id hid => ?_⟩
  · rw [hfind, findFlight_putFlight, if_pos rfl, findFlight_of_inFlight h]
    rfl
  · rw [hfind, findFlight_putFlight, if_neg hid]

/-! ## What lands in a row (R136, R137) -/

/-- A row after the values of some seats have landed: those of seats whose element is still live. -/
def landVals {α : Type} (x : Row α) (vals : List (Nat × α × Option Nat)) : Row α :=
  vals.foldl (fun y v => if y.live.getLsbD v.1 then rowSet y v.1 v.2.1 v.2.2 else y) x
theorem landRow_eq {α : Type} (rows : List (Row α)) (r : Nat) (vals : List (Nat × α × Option Nat)) :
    landRow rows r vals = rows.map fun x => if x.reg == r then landVals x vals else x := rfl

section LandVals
variable {α : Type} (x : Row α) (vals : List (Nat × α × Option Nat)) (d : α)

theorem landVals_cons (v : Nat × α × Option Nat) :
    landVals x (v :: vals) = landVals (if x.live.getLsbD v.1 then rowSet x v.1 v.2.1 v.2.2 else x) vals := rfl
@[simp] theorem landVals_reg : (landVals x vals).reg = x.reg := by
  induction vals generalizing x with
  | nil => rfl
  | cons v vals ih => rw [landVals_cons, ih]; split <;> rfl
@[simp] theorem length_elems_landVals : (landVals x vals).elems.length = x.elems.length := by
  induction vals generalizing x with
  | nil => rfl
  | cons v vals ih => rw [landVals_cons, ih]; split <;> simp
theorem seat_landVals_other {k : Nat} (hk : k ∉ vals.map (·.1)) :
    seatElem (landVals x vals) k d = seatElem x k d ∧ seatPoison (landVals x vals) k = seatPoison x k := by
  induction vals generalizing x with
  | nil => exact ⟨rfl, rfl⟩
  | cons v vals ih =>
    rw [List.map_cons, List.mem_cons, not_or] at hk
    obtain ⟨he, hp⟩ := ih (if x.live.getLsbD v.1 then rowSet x v.1 v.2.1 v.2.2 else x) hk.2
    rw [landVals_cons, he, hp]
    split
    · exact ⟨seatElem_rowSet_other _ _ _ _ _ _ (Ne.symm hk.1), seatPoison_rowSet_other _ _ _ _ _ (Ne.symm hk.1)⟩
    · exact ⟨rfl, rfl⟩
/-- The value of a live seat lands. -/
theorem seat_landVals {k : Nat} {v : α} {p : Option Nat} (hn : (vals.map (·.1)).Nodup) (hmem : (k, v, p) ∈ vals)
    (hlive : x.live.getLsbD k = true) (hlen : x.elems.length = 32) (hk : k < 32) :
    seatElem (landVals x vals) k d = v ∧ seatPoison (landVals x vals) k = p.map (· % 4) := by
  induction vals generalizing x with
  | nil => cases hmem
  | cons w vals ih =>
    rw [List.map_cons, List.nodup_cons] at hn
    rw [landVals_cons]
    rcases List.mem_cons.mp hmem with rfl | hmem
    · obtain ⟨he, hp⟩ := seat_landVals_other (rowSet x k v p) vals d hn.1
      rw [if_pos hlive, he, hp]
      exact ⟨seatElem_rowSet_same _ _ _ _ _ (hlen ▸ hk) hk, seatPoison_rowSet_same _ _ _ _ hk⟩
    · refine ih _ hn.2 hmem ?_ ?_ <;> split
      · rw [getLsbD_live_rowSet, hlive, Bool.true_or]
      · exact hlive
      · rw [length_elems_rowSet, hlen]
      · exact hlen
end LandVals

theorem findRow_of_mem {α : Type} {rows : List (Row α)} (h : RowsShaped rows) {x : Row α} (hx : x ∈ rows) :
    findRow rows x.reg = some x := by
  obtain ⟨y, hy⟩ := Option.isSome_iff_exists.mp ((List.find?_isSome (p := fun y => y.reg == x.reg)).mpr ⟨x, hx, beq_self_eq_true x.reg⟩)
  have hreg : y.reg = x.reg := by simpa using List.find?_some hy
  rw [findRow, hy, List.inj_on_of_nodup_map h.1 (List.mem_of_find?_eq_some hy) hx hreg]

/-! ## What lands in a data register -/

section LandD
variable (b : Bench) (d r : DReg) (k : Nat) (vals : List SeatVal)

theorem landD_eq : landD b d vals = { b with vrows := (landD b d vals).vrows, sregs := (landD b d vals).sregs } := by
  cases d with
  | v n => rfl
  | s n => exact writeD_eq b (.s n) vals
theorem shaped_landD (h : Shaped b) : Shaped (landD b d vals) := by
  cases d with
  | s n => exact shaped_writeD b (.s n) vals h
  | v n =>
    obtain ⟨hv, hrest⟩ := (shaped_iff b).mp h
    exact (shaped_iff _).mpr ⟨hv.map n.val (landVals · vals) (fun _ => landVals_reg _ _) fun _ => length_elems_landVals _ _, hrest⟩
theorem readD_landD_other (h : r ≠ d) :
    readD (landD b d vals) r k = readD b r k ∧ poisonD (landD b d vals) r k = poisonD b r k := by
  cases d with
  | s n => exact readD_writeD_other b (.s n) r k vals h
  | v n =>
    cases r with
    | s m => exact ⟨rfl, rfl⟩
    | v m =>
      have hne : m.val ≠ n.val := fun e => h (congrArg DReg.v (Fin.ext e))
      have hrow : findRow (landRow b.vrows n.val vals) m.val = findRow b.vrows m.val := by
        rw [landRow_eq, findRow_map _ _ _ _ fun _ => landVals_reg _ _]
        simp [hne]
      simp only [landD, readD, poisonD, rowRead_eq, rowPoison_eq, hrow, and_self]
/-- The value of a seat lands in its register, where its element is live; an s register takes the one value. -/
theorem readD_landD_same {v : Word} {p : Option Nat} (hb : Shaped b) (hn : (vals.map (·.1)).Nodup) (hmem : (k, v, p) ∈ vals)
    (hk : k < 32) (hp : ∀ c, p = some c → c < 4)
    (hrow : d.isV = true → ∃ x ∈ b.vrows, x.reg = d.code ∧ x.live.getLsbD k = true)
    (hone : d.isV = false → vals = [(k, v, p)]) : readD (landD b d vals) d k = v ∧ poisonD (landD b d vals) d k = p := by
  cases d with
  | s n =>
    rw [hone rfl]
    exact readD_writeD_s b k [] n k (v, p) hb
  | v n =>
    obtain ⟨x, hx, hreg, hlive⟩ := hrow rfl
    have hv := rowsShaped_vrows hb
    obtain ⟨he, hpo⟩ := seat_landVals x vals 0 hn hmem hlive (hv.2 x hx) hk
    have hp4 : p.map (· % 4) = p := by
      cases p with
      | none => rfl
      | some c => simp [Nat.mod_eq_of_lt (hp c rfl)]
    have hfind : findRow (landRow b.vrows n.val vals) n.val = some (landVals x vals) := by
      rw [landRow_eq, findRow_map _ _ _ _ fun _ => landVals_reg _ _, ← show x.reg = n.val from hreg, findRow_of_mem hv hx]
      simp
    simp only [landD, readD, poisonD, rowRead_eq, rowPoison_eq, hfind, Option.elim_some, he, hpo, hp4, and_self]
end LandD

end Sys2Proof.Machine
end

section
/-!
PROOF. How instructions in flight end or go on (R31, R106, R181, R258, R263, R270, R276, R395).
-/
namespace Sys2Proof.Machine
open Sys2Proof

/-! ## Values land, then the instruction ends -/

/-- An instruction has ended: its bench stands as b but for its flags, of which its own has fallen. -/
structure EndsWith (s t : State) (f : Flight) (b : Bench) : Prop where
  outside : t = { s with cores := t.cores, flights := s.flights.filter (· ≠ f) }
  flag : flagFalls s t f
  bench : flightBench t f = { b with flags := (flightBench t f).flags }

theorem endsWith_endFlight {s u : State} {f : Flight} {b : Bench} (h : inFlight s f) (hu : FlightBenchBecomes s u f b)
    (hb : Shaped b) (htask : b.task = f.task) (hflags : b.flags = (flightBench s f).flags) : EndsWith s (endFlight u f) f b := by
  have hfl : u.flights = s.flights := by rw [hu.outside]
  obtain ⟨hout, hflag, -, -, hbench⟩ := endsAlone_endFlight (inFlight_of_becomes h hu hb htask)
  refine ⟨?_, fun n => ?_, ?_⟩
  · rw [hout, hu.outside]
  · rw [hflag n, hfl, hu.bench, flagOf, hflags]
    rfl
  · rw [hbench, hu.bench]
theorem EndsWith.notMem {s t : State} {f : Flight} {b : Bench} (h : EndsWith s t f b) : f ∉ t.flights := by
  rw [h.outside]
  simp
theorem EndsWith.id_ne {s t : State} {f : Flight} {b : Bench} (h : EndsWith s t f b) (hf : inFlight s f) :
    ∀ g ∈ t.flights, g.id ≠ f.id := by
  rw [h.outside]
  intro g hg hid
  obtain ⟨hg, hne⟩ := List.mem_filter.mp hg
  exact of_decide_eq_true hne (eq_of_id_eq hf.1 hf.2.1 hg hid)
theorem EndsWith.readD {s t : State} {f : Flight} {b : Bench} (h : EndsWith s t f b) (r : DReg) (k : Nat) :
    readD (flightBench t f) r k = Machine.readD b r k ∧ poisonD (flightBench t f) r k = poisonD b r k := by
  rw [h.bench]
  cases r <;> exact ⟨rfl, rfl⟩

theorem flags_landD (b : Bench) (d : DReg) (vals : List SeatVal) : (landD b d vals).flags = b.flags := by rw [landD_eq]
theorem task_landD (b : Bench) (d : DReg) (vals : List SeatVal) : (landD b d vals).task = b.task := by rw [landD_eq]
/-- The values of one register land in the bench that issued the instruction. -/
theorem landData_single {s : State} {f : Flight} (h : inFlight s f) {d : DReg} (hd : f.vdests = [d]) (vals : List SeatVal) :
    FlightBenchBecomes s (landData s f [(d, vals)]) f (landD (flightBench s f) d vals) := by
  have hb := flightBenchBecomes_onFlightBench h.2.2.2 fun b =>
    [(d, vals)].foldl (fun b v => if f.vdests.contains v.1 then landD b v.1 v.2 else b) b
  have heq : [(d, vals)].foldl (fun b v => if f.vdests.contains v.1 then landD b v.1 v.2 else b) (flightBench s f) =
      landD (flightBench s f) d vals := by simp [hd]
  rwa [heq] at hb
/-- An instruction in flight with one destination ends with the values of its seats in it. -/
theorem endsWith_landData {s : State} {f : Flight} (h : inFlight s f) {d : DReg} (hd : f.vdests = [d]) (vals : List SeatVal) :
    EndsWith s (endFlight (landData s f [(d, vals)]) f) f (landD (flightBench s f) d vals) :=
  endsWith_endFlight h (landData_single h hd vals) (shaped_landD _ _ _ h.2.2.1) ((task_landD _ _ _).trans h.2.2.2) (flags_landD _ _ _)
theorem landCaps_nil {s : State} {f : Flight} (h : inFlight s f) : FlightBenchBecomes s (landCaps s f []) f (flightBench s f) :=
  flightBenchBecomes_onFlightBench h.2.2.2 id
/-- An instruction in flight with one destination ends with the values of its seats in it, and no capability. -/
theorem endsWith_landCaps_landData {s : State} {f : Flight} (h : inFlight s f) {d : DReg} (hd : f.vdests = [d]) (vals : List SeatVal) :
    EndsWith s (endFlight (landCaps (landData s f [(d, vals)]) f []) f) f (landD (flightBench s f) d vals) := by
  have hu := landData_single h hd vals
  have hb := shaped_landD (flightBench s f) d vals h.2.2.1
  have htask := (task_landD (flightBench s f) d vals).trans h.2.2.2
  have hcaps := landCaps_nil (inFlight_of_becomes h hu hb htask)
  rw [hu.bench] at hcaps
  exact endsWith_endFlight h (hu.trans hcaps) hb htask (flags_landD _ _ _)

/-! ## Answers of other packages -/

theorem goOut_fst_eq (s : State) (before : List RemoteOut) (o : RemoteOut) :
    (goOut s before o).1 = { s with outbox := (goOut s before o).1.outbox } := by
  unfold goOut
  split
  · rfl
  · split
    · rfl
    · split <;> rfl
    · split <;> rfl
theorem sendHeldFrom_eq (s : State) (done l : List RemoteOut) : ∃ r o, sendHeldFrom s done l = { s with remote := r, outbox := o } := by
  induction l generalizing s done with
  | nil => exact ⟨done, s.outbox, rfl⟩
  | cons x l ih =>
    obtain ⟨r, o, h⟩ := ih (goOut s done x).1 (done ++ [(goOut s done x).2])
    refine ⟨r, o, h.trans ?_⟩
    rw [goOut_fst_eq]
/-- Answers change only what waits for other packages and what goes out to them. -/
theorem answered_eq (s : State) (id : Nat) (m : SeatMask) : ∃ r o, answered s id m = { s with remote := r, outbox := o } := by
  obtain ⟨r, o, h⟩ := sendHeldFrom_eq { s with remote := s.remote.filterMap fun o =>
    if o.flight == id then (if o.seats &&& ~~~ m == 0 then none else some { o with seats := o.seats &&& ~~~ m }) else some o } []
    (s.remote.filterMap fun o =>
      if o.flight == id then (if o.seats &&& ~~~ m == 0 then none else some { o with seats := o.seats &&& ~~~ m }) else some o)
  exact ⟨r, o, h⟩

/-! ## A deadline that poisons every seat (R395) -/

theorem filter_eq_lowestSeat {m : SeatMask} {k : Nat} (hk : k ∈ seatsOf m) :
    (seatsOf m).filter (fun j => j == lowestSeat m) = [lowestSeat m] := by
  have hn := nodup_seatsOf m
  obtain ⟨j, ks, hj⟩ := List.exists_cons_of_ne_nil (List.ne_nil_of_mem hk)
  rw [hj] at hn
  have hnot : ∀ i ∈ ks, ¬i = j := by
    rintro _ hi rfl
    exact (List.nodup_cons.mp hn).1 hi
  rw [lowestSeat, hj]
  simpa using hnot
theorem lowestSeat_mem {m : SeatMask} {k : Nat} (hk : k ∈ seatsOf m) : lowestSeat m ∈ seatsOf m := by
  obtain ⟨j, ks, hj⟩ := List.exists_cons_of_ne_nil (List.ne_nil_of_mem hk)
  simp [lowestSeat, hj]
theorem andNot_seatsOf (m : SeatMask) : m &&& ~~~(maskOf fun k => (seatsOf m).contains k) = 0 := by
  refine BitVec.eq_of_getLsbD_eq fun k hk => ?_
  rw [getLsbD_andNot, getLsbD_maskOf]
  by_cases hm : m.getLsbD k = true
  · simp [mem_seatsOf, hm, hk]
  · simp [hm]
/-- The values of a data register that a deadline delivers: 0 with poison of cause 1, for an s register of the lowest seat. -/
def lateVals1 (d : DReg) (m : SeatMask) : List SeatVal :=
  ((seatsOf m).filter fun k => d.isV || k == lowestSeat m).map fun k => (k, 0, some 1)
theorem landSeats_all (s : State) (f : Flight) {d : DReg} (hd : f.vdests = [d]) (hc : f.cdests = []) :
    landSeats s f (seatsOf f.seats) (fun _ _ => 0) (fun _ => Cap.null) (fun _ => some 1) =
      endFlight (landCaps (landData s f [(d, lateVals1 d f.seats)]) f []) f := by
  unfold landSeats
  simp only [andNot_seatsOf, if_true, hd, hc]
  rfl
theorem poisonD_landD_lateVals1 {b : Bench} {d : DReg} {m : SeatMask} {k : Nat} (hb : Shaped b) (hk : k ∈ seatsOf m)
    (hrow : d.isV = true → ∃ x ∈ b.vrows, x.reg = d.code ∧ x.live.getLsbD k = true) :
    poisonD (landD b d (lateVals1 d m)) d k = some 1 := by
  have hone : ∀ c, some 1 = some c → c < 4 := by rintro _ ⟨⟩; decide
  cases d with
  | v n =>
    refine (readD_landD_same b (.v n) k (lateVals1 (.v n) m) (v := 0) hb ?_ ?_ (lt_of_mem_seatsOf hk) hone hrow nofun).2
    · rw [lateVals1, List.map_map]
      exact (List.map_id _).symm ▸ (nodup_seatsOf m).filter _
    · exact List.mem_map.mpr ⟨k, List.mem_filter.mpr ⟨hk, rfl⟩, rfl⟩
  | s n =>
    have hlow := lowestSeat_mem hk
    have hvals : lateVals1 (.s n) m = [(lowestSeat m, 0, some 1)] := by
      rw [lateVals1]
      simp only [DReg.isV, Bool.false_or]
      rw [filter_eq_lowestSeat hk]
      rfl
    have h := (readD_landD_same b (.s n) (lowestSeat m) (lateVals1 (.s n) m) (v := 0) hb (by rw [hvals]; simp) (by rw [hvals]; simp)
      (lt_of_mem_seatsOf hlow) hone nofun fun _ => hvals).2
    exact h

/-! ## A missed promise (R181) -/

theorem mem_insertMiss (l : List Miss) (m x : Miss) : x ∈ insertMiss l m ↔ x = m ∨ x ∈ l := by
  have hle := le_or_gt x.deadline.toNat m.deadline.toNat
  simp only [insertMiss, List.mem_append, List.mem_filter, List.mem_singleton, decide_eq_true_eq]
  tauto
theorem noteMiss_becomes {s : State} {f : Flight} {c : CopyCmd} {d : Word} (h : inFlight s f) (hd : c.deadline = some d)
    (hlate : d.toNat < s.bell.toNat) : FlightBenchBecomes s (noteMiss s f c) f
      { flightBench s f with misses := insertMiss (flightBench s f).misses ⟨lowestSeat f.seats, c.batch, d⟩ } := by
  have heq : noteMiss s f c = onFlightBench s f fun b =>
      { b with misses := insertMiss b.misses ⟨lowestSeat f.seats, c.batch, d⟩ } := by
    rw [noteMiss, hd]
    exact if_pos hlate
  rw [heq]
  exact flightBenchBecomes_onFlightBench h.2.2.2 _

/-! ## A hand-over (R270) -/

theorem getTile_putTile (s : State) (core k : Nat) (x : Tile) (core' k' : Nat) :
    getTile (putTile s core k x) core' k' = if core' = core ∧ k' = k then x else getTile s core' k' := by
  by_cases hc : core' = core
  · subst hc
    rw [getTile, putTile, getCore_putCore_same]
    by_cases hk : k' = k
    · subst hk
      simp [lookupKey_putKey_same]
    · simp [lookupKey_putKey_other _ _ _ _ (Ne.symm hk), hk, getTile]
  · rw [if_neg fun h => hc h.1, getTile, putTile, getCore_putCore_other _ _ _ _ (Ne.symm hc), getTile]
/-- Zero in the tiles from a base on. -/
def zeroTiles (s : State) (core base : Nat) (qs : List Nat) : State :=
  qs.foldl (fun s q => putTile s core (base + q) Tile.zero) s
theorem zeroTiles_outside (s : State) (core base : Nat) (qs : List Nat) :
    zeroTiles s core base qs = { s with cores := (zeroTiles s core base qs).cores } := by
  induction qs generalizing s with
  | nil => rfl
  | cons q qs ih => exact (ih (putTile s core (base + q) Tile.zero)).trans rfl
theorem mem_zeroTiles (s : State) (core base : Nat) (qs : List Nat) : (zeroTiles s core base qs).mem = s.mem := by
  rw [zeroTiles_outside]
theorem tasks_zeroTiles (s : State) (core base : Nat) (qs : List Nat) : (zeroTiles s core base qs).tasks = s.tasks := by
  rw [zeroTiles_outside]
theorem flights_zeroTiles (s : State) (core base : Nat) (qs : List Nat) : (zeroTiles s core base qs).flights = s.flights := by
  rw [zeroTiles_outside]
theorem getTile_zeroTiles (s : State) (core base : Nat) (qs : List Nat) (core' k : Nat) :
    getTile (zeroTiles s core base qs) core' k = if core' = core ∧ ∃ q ∈ qs, k = base + q then Tile.zero else getTile s core' k := by
  induction qs generalizing s with
  | nil => simp [zeroTiles]
  | cons q qs ih =>
    have hstep : zeroTiles s core base (q :: qs) = zeroTiles (putTile s core (base + q) Tile.zero) core base qs := rfl
    rw [hstep, ih, getTile_putTile]
    by_cases hc : core' = core <;> by_cases hq : k = base + q <;> by_cases hr : ∃ q ∈ qs, k = base + q <;> simp [hc, hq, hr]
theorem tmACC_iff (c : TmmaCmd) : tmACC c = true ↔ bits c.q2 37 37 = 1 := by
  rw [tmACC, bitOf, bits, BitVec.getLsbD, Nat.testBit_eq_decide_div_mod_eq, decide_eq_true_eq]
  rfl

/-- A handed-over `tmma` has begun. -/
def beginTmma (s : State) (f : Flight) (c : TmmaCmd) : State := putFlight s { f with kind := .tmma { c with started := true } }
theorem exec_tmmaHandover {s : State} {f : Flight} {c : TmmaCmd} (h : inFlight s f) (hk : f.kind = .tmma c)
    (hstarted : c.started = false) (hnext : c.nextChunk = 0) (hok : handoverOk s f c = true) : exec (.tmmaHandover f.id) s =
      .next (if tmACC c then beginTmma s f c else zeroTiles (beginTmma s f c) f.core c.tile (List.range 4)) := by
  have hgo : (!c.started && handoverOk s f c) = true := by simp [hstarted, hok]
  have hacc : (tmACC c || decide (c.nextChunk ≠ 0)) = tmACC c := by simp [hnext]
  simp only [exec, execTmmaHandover, findFlight_of_inFlight h, hk, hgo, hacc, if_true]
  rfl

theorem instructionsInFlightEnd : Claims.InstructionsInFlightEnd := by
  intro s f h
  have hfind := findFlight_of_inFlight h
  refine ⟨fun hk => ⟨_, ?_, endsAlone_endFlight h⟩, fun hk => ⟨_, ?_, endsAlone_endFlight h⟩,
    fun hk => ⟨_, ?_, endsAlone_endFlight h⟩, fun hk => ⟨putFlight s { f with kind := .matrix true }, ?_, rfl, goesOnAs_putFlight h rfl⟩,
    fun r n m a d hk hd hc => ?deadline, fun c d hk hd hlate => ?promise, fun c hk hstarted hnext _ hok => ?handover⟩
  case refine_1 => simp only [exec, execStoreAccepted, hfind, hk]
  case refine_2 => simp only [exec, execTileRowsDone, hfind, hk]
  case refine_3 => simp only [exec, execMatrixFlagFall, hfind, hk]
  case refine_4 => simp only [exec, execMatrixUnitDone, hfind, hk]
  case deadline =>
    obtain ⟨rem, out, hans⟩ := answered_eq s f.id f.seats
    have h' : inFlight { s with remote := rem, outbox := out } f := h
    have hends := endsWith_landCaps_landData h' hd (lateVals1 d f.seats)
    refine ⟨_, ?_, ?_, hends.id_ne h', hends.flag, fun k hk hrow => ?_⟩
    · simp only [exec, execRemoteReplyDeadline, hfind, hk, hans, landSeats_all _ f hd hc]
    · rw [hends.outside]
    · rw [(hends.readD d k).2]
      exact poisonD_landD_lateVals1 h'.2.2.1 hk hrow
  case promise =>
    have hnote := noteMiss_becomes h hd hlate
    refine ⟨putFlight (noteMiss s f c) { f with kind := .copy { c with deadline := none } }, ?_, ?_, goesOnAs_putFlight h ?_, fun x => ?_⟩
    · simp only [exec, execPromiseMissed, hfind, hk, hd, hlate, if_true]
    · rw [hnote.outside]
      rfl
    · rw [hnote.outside]
      rfl
    · have hmiss := congrArg Bench.misses hnote.bench
      exact (iff_of_eq (congrArg (x ∈ ·) hmiss)).trans (mem_insertMiss _ _ x)
  case handover =>
    have hexec := exec_tmmaHandover h hk hstarted hnext hok
    by_cases hacc : tmACC c = true
    · refine ⟨beginTmma s f c, by rw [hexec, if_pos hacc], rfl, rfl, goesOnAs_putFlight h rfl, fun core k => ?_⟩
      rw [if_neg]
      · rfl
      · rintro ⟨-, -, -, h0⟩
        exact absurd (((tmACC_iff c).mp hacc).symm.trans h0) (by decide)
    · refine ⟨zeroTiles (beginTmma s f c) f.core c.tile (List.range 4), by rw [hexec, if_neg hacc], mem_zeroTiles _ _ _ _, tasks_zeroTiles _ _ _ _,
        goesOnAs_putFlight h (flights_zeroTiles _ _ _ _), fun core k => ?_⟩
      rw [getTile_zeroTiles]
      refine if_congr (and_congr_right fun _ => ?_) rfl rfl
      have h0 : bits c.q2 37 37 = 0 := by
        have hlt : bits c.q2 37 37 < 2 := Nat.mod_lt _ (by decide)
        have hne : bits c.q2 37 37 ≠ 1 := fun h1 => hacc ((tmACC_iff c).mpr h1)
        omega
      constructor
      · rintro ⟨q, hq, rfl⟩
        have := List.mem_range.mp hq
        omega
      · rintro ⟨hle, hlt, -⟩
        exact ⟨k - c.tile, List.mem_range.mpr (by omega), by omega⟩

end Sys2Proof.Machine
end

section
/-!
PROOF. Replies that reach saved images (R396): what a store to memory leaves and gives back, what a write into an image
leaves, and what the end of a saved load leaves of the records.
-/
namespace Sys2Proof.Machine
open Sys2Proof

/-! ## Bytes that are stored and read back (R16, R104) -/

theorem valueLE_bytesLE (n v : Nat) : valueLE (bytesLE n v) = v % 256 ^ n := by
  induction n generalizing v with
  | zero => simp [valueLE, bytesLE, Nat.mod_one]
  | succ n ih =>
    have hcons : bytesLE (n + 1) v = BitVec.ofNat 8 v :: bytesLE n (v / 256) := by
      simp only [bytesLE, List.range_succ_eq_map, List.map_cons, List.map_map, pow_zero, Nat.div_one]
      refine congrArg _ (List.map_congr_left fun k _ => ?_)
      rw [Function.comp_apply, Nat.pow_succ', ← Nat.div_div_eq_div_mul]
    have hval : valueLE (bytesLE (n + 1) v) = v % 256 + 256 * valueLE (bytesLE n (v / 256)) := by
      rw [hcons]
      rfl
    rw [hval, ih, pow_succ', Nat.mod_mul]
@[simp] theorem length_bytesLE (n v : Nat) : (bytesLE n v).length = n := by simp [bytesLE]
theorem valueLE_lt (l : List Byte) : valueLE l < 256 ^ l.length := by
  induction l with
  | nil => decide
  | cons b l ih =>
    have hval : valueLE (b :: l) = b.toNat + 256 * valueLE l := rfl
    have hb := b.isLt
    rw [hval, List.length_cons, pow_succ']
    omega
theorem memPutBytes_cons (m : Mem) (a : Nat) (b : Byte) (bs : List Byte) :
    memPutBytes m a (b :: bs) = memPutBytes (memSetByte m a b) (a + 1) bs := rfl
theorem memByte_memPutBytes_other (m : Mem) (a : Nat) (bs : List Byte) {x : Nat} (h : m.wf = true) (hx : x < a ∨ a + bs.length ≤ x) :
    memByte (memPutBytes m a bs) x = memByte m x := by
  induction bs generalizing m a with
  | nil => rfl
  | cons b bs ih =>
    rw [List.length_cons] at hx
    rw [memPutBytes_cons, ih _ _ (memSetByte_wf _ _ _ h) (by omega), memByte_memSetByte _ _ _ _ h, if_neg (by omega)]
theorem memByte_memPutBytes (m : Mem) (a : Nat) (bs : List Byte) {i : Nat} (h : m.wf = true) (hi : i < bs.length) :
    memByte (memPutBytes m a bs) (a + i) = bs[i] := by
  induction bs generalizing m a i with
  | nil => cases hi
  | cons b bs ih =>
    rw [memPutBytes_cons]
    cases i with
    | zero =>
      rw [memByte_memPutBytes_other _ _ _ (memSetByte_wf _ _ _ h) (.inl (by omega)), memByte_memSetByte _ _ _ _ h]
      simp
    | succ i =>
      rw [show a + (i + 1) = a + 1 + i by omega, ih _ _ (memSetByte_wf _ _ _ h) (by simpa using hi)]
      rfl
theorem memByte_memTouch (m : Mem) (a n : Nat) (p : Bool) (x : Nat) : memByte (memTouch m a n p) x = memByte m x := by
  refine foldl_keeps (fun u => memByte u x = memByte m x) _ _ _ rfl fun u g hu => ?_
  dsimp only
  split
  · exact hu
  · split <;> exact hu
theorem memByte_memStore_other (m : Mem) (a : Nat) (bs : List Byte) (p : Bool) {x : Nat} (h : m.wf = true)
    (hx : x < a ∨ a + bs.length ≤ x) : memByte (memStore m a bs p) x = memByte m x :=
  (memByte_memTouch _ _ _ _ _).trans (memByte_memPutBytes_other _ _ _ h hx)
theorem memBytes_memStore (m : Mem) (a : Nat) (bs : List Byte) (p : Bool) (h : m.wf = true) :
    memBytes (memStore m a bs p) a bs.length = bs := by
  refine List.ext_getElem (by simp [memBytes]) fun i _ hi => ?_
  simp only [memBytes, List.getElem_map, List.getElem_range]
  exact (memByte_memTouch _ _ _ _ _).trans (memByte_memPutBytes _ _ _ h hi)
theorem physValue_congr {s t : State} {a n : Nat} (h : ∀ i, i < n → memByte t.mem (a + i) = memByte s.mem (a + i)) :
    physValue t a n = physValue s a n := by
  have hbytes : memBytes t.mem a n = memBytes s.mem a n := List.map_congr_left fun i hi => h i (List.mem_range.mp hi)
  rw [physValue, physBytes, hbytes, physValue, physBytes]
theorem physValue_lt (s : State) (a n : Nat) : physValue s a n < 256 ^ n := by
  have h := valueLE_lt (physBytes s a n)
  have hlen : (physBytes s a n).length = n := by
    unfold physBytes
    split <;> simp [memBytes]
  rwa [hlen] at h

/-! ## Writes into an image -/

/-- Memory has been written, and perhaps the tag summary with it. -/
structure ImageWritten (s t : State) : Prop where
  outside : t = { s with mem := t.mem, tagSummary := t.tagSummary }
  wf : s.mem.wf = true → t.mem.wf = true

theorem imageWritten_refl (s : State) : ImageWritten s s := ⟨rfl, id⟩
theorem ImageWritten.trans {s t u : State} (h : ImageWritten s t) (h' : ImageWritten t u) : ImageWritten s u :=
  ⟨by rw [h'.outside, h.outside], h'.wf ∘ h.wf⟩
/-- A number stored in memory. -/
def putNumber (s : State) (a n v : Nat) : State := { s with mem := memStore s.mem a (bytesLE n v) false }
theorem imageWritten_putNumber (s : State) (a n v : Nat) : ImageWritten s (putNumber s a n v) := ⟨rfl, memStore_wf _ _ _ _⟩
theorem imageWritten_physStoreCap (s : State) (a : Nat) (c : Cap) (p : Bool) : ImageWritten s (physStoreCap s a c p) := by
  refine ⟨?_, physStoreCap_wf _ _ _ _⟩
  unfold physStoreCap
  split
  · rfl
  · dsimp only
    split <;> rfl
theorem memByte_putNumber_other {s : State} (h : s.mem.wf = true) {a n v x : Nat} (hx : x < a ∨ a + n ≤ x) :
    memByte (putNumber s a n v).mem x = memByte s.mem x :=
  memByte_memStore_other _ _ _ _ h (by rwa [length_bytesLE])
theorem physValue_putNumber {s : State} (h : s.mem.wf = true) {a n v : Nat} (ha : isMgmt a = false) :
    physValue (putNumber s a n v) a n = v % 256 ^ n := by
  have hb := memBytes_memStore s.mem a (bytesLE n v) false h
  rw [length_bytesLE] at hb
  rw [physValue, physBytes, if_neg (by simp [ha]), putNumber, hb, valueLE_bytesLE]
theorem physValue_putMask {s : State} (h : s.mem.wf = true) {a : Nat} (x : SeatMask) (ha : isMgmt a = false) :
    physValue (putNumber s a 4 x.toNat) a 4 = x.toNat :=
  (physValue_putNumber h ha).trans (Nat.mod_eq_of_lt x.isLt)
theorem imageWritten_imgWriteD (s : State) (img rows caprows : Nat) (acc : Bool) (r : DReg) (k : Nat) (v : Word) (p : Option Nat) :
    ImageWritten s (imgWriteD s img rows caprows acc r k v p) := by
  unfold imgWriteD
  split
  · exact ((imageWritten_putNumber ..).trans (imageWritten_putNumber ..)).trans (imageWritten_putNumber ..)
  · split
    · exact imageWritten_refl s
    · exact (((imageWritten_putNumber ..).trans (imageWritten_putNumber ..)).trans (imageWritten_putNumber ..)).trans
        (imageWritten_putNumber ..)
theorem imageWritten_imgWriteC (s : State) (img rows caprows : Nat) (acc : Bool) (r : CReg) (k : Nat) (c : Cap) (p : Option Nat) :
    ImageWritten s (imgWriteC s img rows caprows acc r k c p) := by
  unfold imgWriteC
  split
  · exact imageWritten_refl s
  · exact ((((imageWritten_putNumber ..).trans (imageWritten_putNumber ..)).trans (imageWritten_putNumber ..)).trans
      (imageWritten_putNumber ..)).trans (imageWritten_physStoreCap ..)
theorem imageWritten_savedWrite (s : State) (t : Task) (coreT benchT code k : Nat) (v : Word) (c : Cap) (p : Option Nat) :
    ImageWritten s (savedWrite s t coreT benchT code k v c p) := by
  unfold savedWrite
  dsimp only
  split
  · exact imageWritten_imgWriteD ..
  · exact imageWritten_imgWriteC ..
theorem imageWritten_foldl {α : Type} (s : State) (l : List α) {f : State → α → State} (h : ∀ u x, ImageWritten u (f u x)) :
    ImageWritten s (l.foldl f s) :=
  foldl_keeps (ImageWritten s) f l s (imageWritten_refl s) fun u x hu => hu.trans (h u x)

/-! ## The end of saved loads -/

/-- What the end of saved loads of a task leaves: the objects, the task's place in the save space, and memory from an address on. -/
structure SettleKeeps (id : Word) (lo : Nat) (s t : State) : Prop where
  objs : t.objs = s.objs
  wf : s.mem.wf = true → t.mem.wf = true
  bytes : s.mem.wf = true → ∀ x, lo ≤ x → memByte t.mem x = memByte s.mem x
  task : ∀ T, findTask s id = some T → ∃ U, findTask t id = some U ∧ U.saveBase = T.saveBase ∧ U.graph = T.graph ∧ U.node = T.node

theorem settleKeeps_refl (id : Word) (lo : Nat) (s : State) : SettleKeeps id lo s s :=
  ⟨rfl, fun h => h, fun _ _ _ => rfl, fun T h => ⟨T, h, rfl, rfl, rfl⟩⟩
theorem SettleKeeps.trans {id : Word} {lo : Nat} {s t u : State} (h : SettleKeeps id lo s t) (h' : SettleKeeps id lo t u) :
    SettleKeeps id lo s u where
  objs := h'.objs.trans h.objs
  wf hs := h'.wf (h.wf hs)
  bytes hs x hx := (h'.bytes (h.wf hs) x hx).trans (h.bytes hs x hx)
  task T hT := by
    obtain ⟨U, hU, hbase, hgraph, hnode⟩ := h.task T hT
    obtain ⟨V, hV, hbase', hgraph', hnode'⟩ := h'.task U hU
    exact ⟨V, hV, hbase'.trans hbase, hgraph'.trans hgraph, hnode'.trans hnode⟩
theorem settleKeeps_answered (id : Word) (lo : Nat) (s : State) (i : Nat) (m : SeatMask) : SettleKeeps id lo s (answered s i m) := by
  obtain ⟨r, o, h⟩ := answered_eq s i m
  rw [h]
  exact ⟨rfl, fun hs => hs, fun _ _ _ => rfl, fun T hT => ⟨T, hT, rfl, rfl, rfl⟩⟩
/-- Another list of saved instructions in flight. -/
theorem settleKeeps_putTask {id : Word} (lo : Nat) {s : State} {T : Task} (hT : findTask s id = some T) (l : List (Thread × Flight)) :
    SettleKeeps id lo s (putTask s { T with savedFlights := l }) := by
  obtain rfl : T.id = id := by simpa using List.find?_some hT
  refine ⟨rfl, fun hs => hs, fun _ _ _ => rfl, fun U hU => ?_⟩
  obtain rfl : T = U := Option.some.inj (hT.symm.trans hU)
  exact ⟨_, findTask_putTask s { T with savedFlights := l } T hT, rfl, rfl, rfl⟩
/-- The address of a flag in an image (R369). -/
def imgFlagAt (s : State) (T : Task) (coreT benchT k : Nat) : Nat :=
  T.saveBase.toNat + imgPlace (taskNode s T) coreT benchT + 0x2C0 + k
theorem settleKeeps_putNumber (id : Word) {lo a n v : Nat} (s : State) (h : a + n ≤ lo) : SettleKeeps id lo s (putNumber s a n v) :=
  ⟨rfl, memStore_wf _ _ _ _, fun hs _ hx => memByte_putNumber_other hs (.inr (h.trans hx)), fun T hT => ⟨T, hT, rfl, rfl, rfl⟩⟩
theorem settleKeeps_endSaved {id : Word} {lo : Nat} {s : State} {T : Task} (hT : findTask s id = some T) (th : Thread) (f : Flight)
    (hflag : ∀ k, f.flag = some k → imgFlagAt s T th.coreT th.benchT k < lo) : SettleKeeps id lo s (endSaved s T th f) := by
  have hput := settleKeeps_putTask lo hT (T.savedFlights.filter fun e => !(e.2.id == f.id))
  unfold endSaved
  dsimp only
  split
  · exact hput
  · rename_i k hk
    split
    · exact hput
    · exact hput.trans (settleKeeps_putNumber id _ (Nat.succ_le_of_lt (hflag k hk)))
theorem findTask_answered (s : State) (i : Nat) (m : SeatMask) (id : Word) : findTask (answered s i m) id = findTask s id := by
  obtain ⟨r, o, h⟩ := answered_eq s i m
  rw [h]
  rfl
theorem imgFlagAt_answered (s : State) (i : Nat) (m : SeatMask) (T : Task) (coreT benchT k : Nat) :
    imgFlagAt (answered s i m) T coreT benchT k = imgFlagAt s T coreT benchT k := by
  obtain ⟨r, o, h⟩ := answered_eq s i m
  rw [h]
  rfl
theorem settleKeeps_savedSettleOne {id : Word} {lo : Nat} {s : State} {T : Task} (hT : findTask s id = some T) (th : Thread) (f : Flight)
    (hflag : ∀ k, f.flag = some k → imgFlagAt s T th.coreT th.benchT k < lo) : SettleKeeps id lo s (savedSettleOne s id th f) := by
  have hkeeps := settleKeeps_answered id lo s f.id (f.seats &&& ~~~(f.seats &&& savedWaiting s T th.coreT th.benchT (flightCodes f)))
  simp only [savedSettleOne, hT]
  split
  · refine hkeeps.trans (settleKeeps_endSaved ((findTask_answered ..).trans hT) th f fun k hk => ?_)
    rw [imgFlagAt_answered]
    exact hflag k hk
  · exact hkeeps.trans (settleKeeps_putTask lo ((findTask_answered ..).trans hT) _)
theorem SettleKeeps.imgFlagAt {id : Word} {lo : Nat} {s t : State} {T : Task} (h : SettleKeeps id lo s t) (hT : findTask s id = some T) :
    ∃ U, findTask t id = some U ∧ ∀ coreT benchT k, imgFlagAt t U coreT benchT k = Machine.imgFlagAt s T coreT benchT k := by
  obtain ⟨U, hU, hbase, hgraph, hnode⟩ := h.task T hT
  refine ⟨U, hU, fun coreT benchT k => ?_⟩
  have htask : taskNode t U = taskNode s T := by
    simp only [taskNode, nodeObjOf, graphOf, findObj, h.objs, hgraph, hnode]
  rw [Machine.imgFlagAt, Machine.imgFlagAt, hbase, htask]
/-- The saved loads of a task settle one after another below an address above the flags of their images. -/
theorem settleKeeps_foldl {id : Word} {lo : Nat} {s : State} {T : Task} (hT : findTask s id = some T) (l : List (Thread × Flight))
    (hflag : ∀ e ∈ l, ∀ k, e.2.flag = some k → imgFlagAt s T e.1.coreT e.1.benchT k < lo) :
    SettleKeeps id lo s (l.foldl (fun s e => savedSettleOne s id e.1 e.2) s) := by
  induction l generalizing s T with
  | nil => exact settleKeeps_refl id lo s
  | cons e l ih =>
    have hone := settleKeeps_savedSettleOne hT e.1 e.2 (hflag e (List.mem_cons_self ..))
    obtain ⟨U, hU, hat⟩ := hone.imgFlagAt hT
    exact hone.trans (ih hU fun e' he k hk => by rw [hat]; exact hflag e' (List.mem_cons_of_mem _ he) k hk)

/-! ## The records of section 7 -/

theorem contains_filter_seatsOf (m : SeatMask) (p : Nat → Bool) (k : Nat) :
    ((seatsOf m).filter p).contains k = (m.getLsbD k && p k) := by
  rw [Bool.eq_iff_iff, List.contains_iff_mem, List.mem_filter, mem_seatsOf, Bool.and_eq_true]

section Records
variable {s : State} {T : Task} (c b n : Nat)

/-- The flags of an image lie below its records. -/
theorem imgFlagAt_lt_pendAt {k : Nat} (hk : k < 12) : imgFlagAt s T c b k < pendAt s T c b n := by
  have hoff : 0x400 ≤ imgSecOff (taskNode s T).rows (taskNode s T).capRows (imgAcc (taskNode s T) b) 7 := by
    simp [imgSecOff, List.range_succ, imgSecSize]
  simp only [imgFlagAt, pendAt]
  omega
theorem savedHeld_eq_zero (code : Nat) (hload : ∀ e ∈ T.savedFlights, ∀ d cd is, e.2.kind ≠ .stagedLoad d cd is)
    (hatom : ∀ e ∈ T.savedFlights, ∀ w op w32 ord wide is, e.2.kind ≠ .stagedAtom w op w32 ord wide is) :
    savedHeld T c b code = 0 := by
  unfold savedHeld
  generalize T.savedFlights = l at hload hatom
  induction l with
  | nil => rfl
  | cons e l ih =>
    rw [List.foldl_cons]
    have hstep := ih (fun e' he => hload e' (List.mem_cons_of_mem _ he)) fun e' he => hatom e' (List.mem_cons_of_mem _ he)
    have hl := hload e (List.mem_cons_self ..)
    have ha := hatom e (List.mem_cons_self ..)
    split
    · split
      · exact absurd ‹_› (hl _ _ _)
      · exact absurd ‹_› (ha _ _ _ _ _ _)
      · exact hstep
    · exact hstep
/-- Once an image is written, the end of its saved loads leaves its records. -/
theorem settleKeeps_savedSettle {u v : State} (hT : findTask s T.id = some T) (hflags : ∀ e ∈ T.savedFlights, ∀ k, e.2.flag = some k → k < 12)
    (hu : ImageWritten s u) (code : Nat) (hv : ImageWritten u v) :
    SettleKeeps T.id (pendAt s T c b n) v (savedSettle v T.id c b code) := by
  have hout := (hu.trans hv).outside
  have hTv : findTask v T.id = some T := by
    rw [hout]
    exact hT
  have hat : ∀ k, imgFlagAt v T c b k = imgFlagAt s T c b k := fun k => by
    rw [hout]
    rfl
  simp only [savedSettle, hTv]
  refine settleKeeps_foldl hTv _ fun e he k hk => ?_
  obtain ⟨he, hmine⟩ := List.mem_filter.mp he
  simp only [Bool.and_eq_true, beq_iff_eq] at hmine
  obtain ⟨⟨hc, hb⟩, -⟩ := hmine
  rw [hc, hb, hat]
  exact imgFlagAt_lt_pendAt c b n (hflags e he k hk)

theorem pendWaiting_of_noneHeld (hheld : ∀ code, savedHeld T c b code = 0) :
    pendWaiting s T c b (pendAt s T c b n) = BitVec.ofNat 32 (physValue s (pendAt s T c b n + 4) 4) := by
  rw [pendWaiting, hheld]
  exact BitVec.and_allOnes

variable (hT : findTask s T.id = some T) (hwf : s.mem.wf = true) (hflags : ∀ e ∈ T.savedFlights, ∀ k, e.2.flag = some k → k < 12)
include hT hwf hflags

/-- A number of a record stands after the saved loads have ended. -/
theorem physValue_savedSettle {u v : State} (off code : Nat) (hu : ImageWritten s u) (hv : ImageWritten u v) :
    physValue (savedSettle v T.id c b code) (pendAt s T c b n + off) 4 = physValue v (pendAt s T c b n + off) 4 := by
  have hkeeps := settleKeeps_savedSettle c b n hT hflags hu code hv
  exact physValue_congr fun i _ => hkeeps.bytes ((hu.trans hv).wf hwf) _ (by omega)

variable (hheld : ∀ code, savedHeld T c b code = 0) (hmgmt : isMgmt (pendAt s T c b n + 4) = false)
include hheld hmgmt

/-- Replies clear the seats that they answer in the record. -/
theorem waiting_savedLand (rs : List SeatReply) {k : Nat} (hk : k < 32) :
    (physValue (savedLand s T c b n rs) (pendAt s T c b n + 4) 4).testBit k =
      ((physValue s (pendAt s T c b n + 4) 4).testBit k && !(rs.any fun r => r.seat == k)) := by
  let left : SeatMask := BitVec.ofNat 32 (physValue s (pendAt s T c b n + 4) 4) &&&
    ~~~(maskOf fun k => ((seatsOf (pendWaiting s T c b (pendAt s T c b n))).filter fun k => rs.any fun r => r.seat == k).contains k)
  obtain ⟨u, code, hu, hland⟩ : ∃ u code, ImageWritten s u ∧
      savedLand s T c b n rs = savedSettle (putNumber u (pendAt s T c b n + 4) 4 left.toNat) T.id c b code :=
    ⟨_, _, imageWritten_foldl s _ fun _ _ => imageWritten_savedWrite .., rfl⟩
  rw [hland, physValue_savedSettle c b n hT hwf hflags 4 code hu (imageWritten_putNumber ..), physValue_putMask (hu.wf hwf) left hmgmt,
    BitVec.testBit_toNat, getLsbD_andNot, getLsbD_maskOf, pendWaiting_of_noneHeld c b n hheld,
    contains_filter_seatsOf, BitVec.getLsbD_ofNat]
  cases (physValue s (pendAt s T c b n + 4) 4).testBit k <;> simp [hk]
/-- A deadline clears all seats of the record and notes them as timed out. -/
theorem waiting_savedLate (hmgmt' : isMgmt (pendAt s T c b n + 8) = false) :
    physValue (savedLate s T c b n) (pendAt s T c b n + 4) 4 = 0 ∧
      ∀ k, k < 32 → (physValue s (pendAt s T c b n + 4) 4).testBit k = true →
        (physValue (savedLate s T c b n) (pendAt s T c b n + 8) 4).testBit k = true := by
  let all : SeatMask := BitVec.ofNat 32 (physValue s (pendAt s T c b n + 4) 4)
  let late : Nat := Nat.lor (physValue s (pendAt s T c b n + 8) 4) (pendWaiting s T c b (pendAt s T c b n)).toNat
  let left : SeatMask := all &&& ~~~pendWaiting s T c b (pendAt s T c b n)
  obtain ⟨u, code, hu, hlate⟩ : ∃ u code, ImageWritten s u ∧ savedLate s T c b n =
      savedSettle (putNumber (putNumber u (pendAt s T c b n + 8) 4 late) (pendAt s T c b n + 4) 4 left.toNat) T.id c b code :=
    ⟨_, _, imageWritten_foldl s _ fun _ _ => imageWritten_savedWrite .., rfl⟩
  have hw : ImageWritten u (putNumber u (pendAt s T c b n + 8) 4 late) := imageWritten_putNumber ..
  have hwait := pendWaiting_of_noneHeld (s := s) c b n hheld
  rw [hlate]
  refine ⟨?_, fun k hk hbit => ?_⟩
  · have hleft : left = 0 := by
      simp only [left, all, hwait]
      exact BitVec.and_not_self _
    rw [physValue_savedSettle c b n hT hwf hflags 4 code (hu.trans hw) (imageWritten_putNumber ..),
      physValue_putNumber ((hu.trans hw).wf hwf) hmgmt, hleft]
    rfl
  · have hold : late < 256 ^ 4 := Nat.or_lt_two_pow (n := 32) (physValue_lt _ _ _) (BitVec.isLt _)
    have hnew : physValue (putNumber (putNumber u (pendAt s T c b n + 8) 4 late) (pendAt s T c b n + 4) 4 left.toNat)
        (pendAt s T c b n + 8) 4 = late := by
      rw [physValue_congr fun i hi => memByte_putNumber_other ((hu.trans hw).wf hwf) (.inr (by omega)),
        physValue_putNumber (hu.wf hwf) hmgmt', Nat.mod_eq_of_lt hold]
    rw [physValue_savedSettle c b n hT hwf hflags 8 code (hu.trans hw) (imageWritten_putNumber ..), hnew]
    refine (Nat.testBit_or _ _ _).trans ?_
    rw [BitVec.testBit_toNat, hwait, BitVec.getLsbD_ofNat, hbit]
    simp [hk]
end Records

theorem repliesReachSavedImages : Claims.RepliesReachSavedImages := by
  intro s T c b n rs hT hsaved hwf hflags hkinds
  dsimp only
  intro hkind hmgmt hmgmt'
  have hheld : ∀ code, savedHeld T c b code = 0 := fun code => savedHeld_eq_zero c b code
    (fun e he d cd is hk => by have := hkinds e he; rw [hk] at this; exact this)
    (fun e he w op w32 ord wide is hk => by have := hkinds e he; rw [hk] at this; exact this)
  have hexec : ∀ rs, exec (.savedReplyApply T.id c b n rs) s =
      .next (if rs.isEmpty then savedLate s T c b n else savedLand s T c b n rs) := fun rs => by
    have hgo : ¬((!T.saved) = true ∨ physValue s (pendAt s T c b n) 1 = 3) := by simp [hsaved, hkind]
    simp only [exec, execSavedReplyApply, show findTask s T.id = some T from hT, if_neg hgo]
  have hlate := waiting_savedLate c b n hT hwf hflags hheld hmgmt hmgmt'
  refine ⟨fun hrs => ⟨_, (hexec rs).trans ?_, fun k => waiting_savedLand c b n hT hwf hflags hheld hmgmt rs⟩,
    _, hexec [], hlate.1, hlate.2⟩
  rw [if_neg (by simpa using hrs)]

/-- Settles O36: the flags and registers of the issuing bench, and the records of a saved image. -/
theorem instructionsInFlightEndOnce : Obligations.InstructionsInFlightEndOnce :=
  ⟨instructionsInFlightEnd, repliesReachSavedImages⟩

end Sys2Proof.Machine
end

section
/-!
PROOF. How a load or an atomic completes (R106, R171, R190, R193, R229).
-/
namespace Sys2Proof.Machine
open Sys2Proof

/-! ## The value of a seat has landed, and its instruction is gone -/

/-- A value of an instruction in flight has landed in its one destination, and the instruction has ended. -/
def Lands (s t : State) (f : Flight) (d : DReg) (k : Nat) (v : Word) (q : Option Nat) : Prop :=
  f ∉ t.flights ∧ t.mem = s.mem ∧ readD (flightBench t f) d k = v ∧ poisonD (flightBench t f) d k = q ∧
    (∀ r j, r ≠ d → readD (flightBench t f) r j = readD (flightBench s f) r j) ∧ flagFalls s t f
/-- The values that land in a register bring the one of a seat. -/
structure BringsValue (b : Bench) (d : DReg) (vals : List SeatVal) (k : Nat) (v : Word) (q : Option Nat) : Prop where
  nodup : (vals.map (·.1)).Nodup
  mem : (k, v, q) ∈ vals
  seat : k < 32
  cause : ∀ c, q = some c → c < 4
  row : d.isV = true → ∃ x ∈ b.vrows, x.reg = d.code ∧ x.live.getLsbD k = true
  one : d.isV = false → vals = [(k, v, q)]

theorem lands_of_endsWith {s t : State} {f : Flight} {d : DReg} {vals : List SeatVal} {k : Nat} {v : Word} {q : Option Nat}
    (h : inFlight s f) (ht : EndsWith s t f (landD (flightBench s f) d vals)) (hv : BringsValue (flightBench s f) d vals k v q) :
    Lands s t f d k v q := by
  obtain ⟨hval, hpoison⟩ := readD_landD_same _ _ _ _ h.2.2.1 hv.nodup hv.mem hv.seat hv.cause hv.row hv.one
  refine ⟨ht.notMem, by rw [ht.outside], ?_, ?_, fun r j hr => ?_, ht.flag⟩
  · rw [(ht.readD d k).1, hval]
  · rw [(ht.readD d k).2, hpoison]
  · rw [(ht.readD r j).1, (readD_landD_other _ _ _ _ _ hr).1]

/-! ## Late reads (R190, R193, R229) -/

/-- The values of one register with the late reads of a load performed now. -/
def lateVal (vs : List (LateRead × Seen)) (v : SeatVal) : SeatVal :=
  match vs.find? fun x => x.1.seat == v.1 with
  | some x => (v.1, nth (loadWords x.2.bytes) 0 0, if x.2.poison then some 0 else none)
  | none => v
theorem lateData_single (vs : List (LateRead × Seen)) (d : DReg) (vals : List SeatVal) :
    lateData vs [(d, vals)] = [(d, vals.map (lateVal vs))] := rfl
theorem lateVal_fst (vs : List (LateRead × Seen)) (v : SeatVal) : (lateVal vs v).1 = v.1 := by
  unfold lateVal
  split <;> rfl
theorem lateVal_same (l : LateRead) (x : Seen) (v : Word) (q : Option Nat) :
    lateVal [(l, x)] (l.seat, v, q) = (l.seat, BitVec.ofNat 64 (valueLE (x.bytes.take 8)), if x.poison then some 0 else none) := by
  simp [lateVal, loadWords, nth]
/-- The values of a load bring a seat's value as it is seen now. -/
theorem BringsValue.late {b : Bench} {d : DReg} {vals : List SeatVal} {l : LateRead} {v : Word} {q : Option Nat}
    (h : BringsValue b d vals l.seat v q) (x : Seen) : BringsValue b d (vals.map (lateVal [(l, x)])) l.seat
      (BitVec.ofNat 64 (valueLE (x.bytes.take 8))) (if x.poison then some 0 else none) where
  nodup := by
    have heq : (vals.map (lateVal [(l, x)])).map (·.1) = vals.map (·.1) := by simp [lateVal_fst]
    rw [heq]
    exact h.nodup
  mem := List.mem_map.mpr ⟨_, h.mem, lateVal_same l x v q⟩
  seat := h.seat
  cause c hc := by
    split at hc
    · cases hc
      decide
    · cases hc
  row := h.row
  one hs := by rw [h.one hs, List.map_singleton, lateVal_same]
/-- While no entry that may have served an access has expired, its places stand. -/
theorem leaseOver_of_lasting (s : State) (leases : List (List Word)) (h : ∀ es ∈ leases, ∀ e ∈ es, s.bell < e) :
    ∃ n, leaseOver s leases = (false, { s with draws := n }) := by
  induction leases generalizing s with
  | nil => exact ⟨s.draws, rfl⟩
  | cons es rest ih =>
    cases es with
    | nil => exact ih s fun es hes => h es (List.mem_cons_of_mem _ hes)
    | cons e es =>
      obtain ⟨n, hn⟩ := ih (draw s (es.length + 1)).2 fun es' hes => h es' (List.mem_cons_of_mem _ hes)
      have hmem : nth (e :: es) (draw s (es.length + 1)).1 e ∈ e :: es := by
        rw [nth, List.getD_eq_getElem?_getD]
        cases hget : (e :: es)[(draw s (es.length + 1)).1]? with
        | none => exact List.mem_cons_self ..
        | some y => exact List.mem_of_getElem? hget
      have hlast := BitVec.not_le.mpr (h _ (List.mem_cons_self ..) _ hmem)
      refine ⟨n, ?_⟩
      simp only [leaseOver]
      rw [hn]
      exact congrArg (fun b => (b, { s with draws := n })) (decide_eq_false hlast)
/-- A late read sees its place as it stands now, or was performed before. -/
theorem lateSeen_of_lasting (s : State) (f : Flight) (l : LateRead) (h : ∀ es ∈ l.leases, ∀ e ∈ es, s.bell < e) :
    ∃ x n, lateSeen s f l = .ok (x, { s with draws := n }) ∧ ∀ y, x = some y →
      (l.pas = [] ∧ y = seeWindow s (flightTask s f) (flightCoreT s f) l.addr l.size) ∨
        y = seeMem s (flightTask s f) (flightCoreT s f) l.addr l.pas := by
  unfold lateSeen
  dsimp only
  split
  · rename_i hpas
    refine ⟨_, s.draws, rfl, fun y hy => .inl ⟨List.isEmpty_iff.mp hpas, ?_⟩⟩
    split at hy
    · exact (Option.some.inj hy).symm
    · cases hy
  · obtain ⟨n, hn⟩ := leaseOver_of_lasting s l.leases h
    refine ⟨some (seeMem { s with draws := n } (flightTask s f) (flightCoreT s f) l.addr l.pas), n, ?_, fun y hy => .inr ?_⟩
    · simp only [placesNow, hn]
    · exact (Option.some.inj hy).symm
/-- A load with one late read ends with the values of its issue, or with what that read sees now. -/
theorem landLoad_one {s : State} {f : Flight} {l : LateRead} (hl : f.late = [l]) (h : ∀ es ∈ l.leases, ∀ e ∈ es, s.bell < e)
    (d : DReg) (vals : List SeatVal) : ∃ n w, landLoad s f [(d, vals)] [] =
        endFlight (landCaps (landData { s with draws := n } f [(d, w)]) f []) f ∧
      (w = vals ∨ ∃ x, ((l.pas = [] ∧ x = seeWindow s (flightTask s f) (flightCoreT s f) l.addr l.size) ∨
        x = seeMem s (flightTask s f) (flightCoreT s f) l.addr l.pas) ∧ w = vals.map (lateVal [(l, x)])) := by
  have hnone : vals.map (lateVal []) = vals := List.map_id _
  unfold landLoad
  rw [hl]
  simp only [List.isEmpty_cons, Bool.false_eq_true, if_false, List.filter_cons, List.filter_nil]
  by_cases hfirst : (draw s 33).1 ≤ l.seat
  · obtain ⟨x, n, hseen, hx⟩ := lateSeen_of_lasting (draw s 33).2 f l h
    refine ⟨n, vals.map (lateVal (x.toList.map fun y => (l, y))), ?_, ?_⟩
    · simp only [decide_eq_true hfirst, if_true, lateVals, hseen, List.append_nil, lateData_single]
      rfl
    · cases x with
      | none => exact .inl hnone
      | some y => exact .inr ⟨y, hx y rfl, rfl⟩
  · refine ⟨(draw s 33).2.draws, vals, ?_, .inl rfl⟩
    simp only [decide_eq_false hfirst, Bool.false_eq_true, if_false, lateVals, lateData_single, hnone]
    rfl

theorem loadCompletionWritesTheDestination : Claims.LoadCompletionWritesTheDestination := by
  intro s f d vs k v q atomic h hkind hd hmem hn hk hq hrow hone
  have hfind := findFlight_of_inFlight h
  have hv : BringsValue (flightBench s f) d vs k v q := ⟨hn, hmem, hk, hq, hrow, hone⟩
  refine ⟨fun hnow => ?_, fun hload l hl hseat hleases => ?_⟩
  · cases atomic with
    | true =>
      refine ⟨_, ?_, lands_of_endsWith h (endsWith_landData h hd vs) hv⟩
      simp only [if_true, exec, execAtomicComplete, hfind, hkind]
    | false =>
      have hlate : f.late = [] := hnow.resolve_left Bool.false_ne_true
      refine ⟨_, ?_, lands_of_endsWith h (endsWith_landCaps_landData h hd vs) hv⟩
      simp only [Bool.false_eq_true, if_false, exec, execLoadComplete, hfind, hkind, landLoad, hlate, List.isEmpty_nil, if_true]
  · subst hload hseat
    obtain ⟨n, w, hland, hw⟩ := landLoad_one hl hleases d vs
    have h' : inFlight { s with draws := n } f := h
    refine ⟨endFlight (landCaps (landData { s with draws := n } f [(d, w)]) f []) f, ?_, ?_⟩
    · simp only [Bool.false_eq_true, if_false, exec, execLoadComplete, hfind, hkind, hland]
    · rcases hw with rfl | ⟨x, hx, rfl⟩
      · exact .inl (lands_of_endsWith (s := { s with draws := n }) h' (endsWith_landCaps_landData h' hd w) hv)
      · exact .inr ⟨x, hx, lands_of_endsWith (s := { s with draws := n }) h' (endsWith_landCaps_landData h' hd _) (hv.late x)⟩

end Sys2Proof.Machine
end

section
/-!
PROOF. What the checks and the translation of an access leave alone (R102, R223 to R229, R244): every bench and every scratchpad.
-/
namespace Sys2Proof.Machine
open Sys2Proof

/-- The pass, every bench and every scratchpad are as before. -/
structure LeavesBenches (s t : State) : Prop where
  sel : t.sel = s.sel
  bench : ∀ core slot, getBench t core slot = getBench s core slot
  spad : ∀ core, (getCore t core).spad = (getCore s core).spad

theorem leavesBenches_refl (s : State) : LeavesBenches s s := ⟨rfl, fun _ _ => rfl, fun _ => rfl⟩
theorem LeavesBenches.trans {s t u : State} (h : LeavesBenches s t) (h' : LeavesBenches t u) : LeavesBenches s u :=
  ⟨h'.sel.trans h.sel, fun core slot => (h'.bench core slot).trans (h.bench core slot), fun core => (h'.spad core).trans (h.spad core)⟩
theorem leavesBenches_of_cores {s t : State} (hsel : t.sel = s.sel) (hcores : t.cores = s.cores) : LeavesBenches s t := by
  have hcore : ∀ core, getCore t core = getCore s core := fun core => by rw [getCore, hcores, getCore]
  exact ⟨hsel, fun core slot => by rw [getBench, hcore, getBench], fun core => by rw [hcore]⟩
theorem LeavesBenches.cur_eq {s t : State} (h : LeavesBenches s t) : cur t = cur s := by rw [cur, h.sel, h.bench, cur]
theorem LeavesBenches.issued_eq {s t : State} (h : LeavesBenches s t) : issued t = issued s := by rw [issued, h.sel, issued]

/-! ## Translation -/

theorem leavesBenches_openView (s : State) (a : Nat) : LeavesBenches s (openView s a) := by
  unfold openView
  split
  · exact leavesBenches_refl s
  · exact leavesBenches_of_cores rfl rfl
theorem leavesBenches_walkStart (s : State) (core : Nat) (sp : ASpace) (va : Nat) : LeavesBenches s (walkStart s core sp va).2 := by
  unfold walkStart
  dsimp only
  split
  · exact leavesBenches_refl s
  · split <;> exact leavesBenches_of_cores rfl rfl
theorem leavesBenches_ite_mem (s : State) (c : Prop) [Decidable c] (m : Mem) (h h' : WalkHit) :
    LeavesBenches s (if c then (s, h) else ({ s with mem := m }, h')).1 := by
  split
  · exact leavesBenches_refl s
  · exact leavesBenches_of_cores rfl rfl
theorem leavesBenches_setAD (s : State) (h : WalkHit) (acc : Access) : LeavesBenches s (setAD s h acc).1 :=
  leavesBenches_ite_mem ..
theorem leavesBenches_walkKeep (s : State) (core asn va : Nat) (passed : List (Nat × Nat)) :
    LeavesBenches s (walkKeep s core asn va passed) := by
  unfold walkKeep
  dsimp only
  split
  · exact leavesBenches_refl s
  · exact leavesBenches_of_cores rfl rfl
/-- Another part of a core than its benches and its scratchpad is changed. -/
theorem leavesBenches_putCore (s : State) (core : Nat) (c : Core) (hb : c.benches = (getCore s core).benches)
    (hs : c.spad = (getCore s core).spad) : LeavesBenches s (putCore s core c) := by
  have hcore : ∀ k, (getCore (putCore s core c) k).benches = (getCore s k).benches ∧
      (getCore (putCore s core c) k).spad = (getCore s k).spad := fun k => by
    rcases eq_or_ne core k with rfl | hne
    · rw [getCore_putCore_same]
      exact ⟨hb, hs⟩
    · rw [getCore_putCore_other _ _ _ _ hne]
      exact ⟨rfl, rfl⟩
  exact ⟨rfl, fun k slot => by rw [getBench, coreBench, (hcore k).1, getBench, coreBench], fun k => (hcore k).2⟩
theorem leavesBenches_tlbInstall (s : State) (core : Nat) (e : TlbEntry) : LeavesBenches s (tlbInstall s core e) := by
  unfold tlbInstall
  split
  · exact leavesBenches_refl s
  · exact (leavesBenches_putCore s core { getCore s core with tlb := (e :: (getCore s core).tlb).take 128 } rfl rfl).trans
      (leavesBenches_of_cores rfl rfl)

section Translation
variable {s t : State} {core : Nat} {sp : ASpace} {lim : Word} {acc : Access}

theorem leavesBenches_walk {va : Nat} {e : TlbEntry} (h : walk s core sp va acc = .ok (e, t)) : LeavesBenches s t := by
  have hstart := leavesBenches_walkStart s core sp va
  unfold walk at h
  split at h
  · cases h
  · dsimp only at h
    split at h
    · cases h
    · rename_i hit _
      have hset := leavesBenches_setAD (walkStart s core sp va).2 hit acc
      cases h
      exact ((hstart.trans hset).trans (leavesBenches_walkKeep ..)).trans (leavesBenches_tlbInstall ..)
theorem leavesBenches_translatePaged {va p : Nat} (h : translatePaged s core sp va acc = .ok (p, t)) : LeavesBenches s t := by
  have hwalk : ∀ u : State, (match walk u core sp va acc with
      | .error e => Except.error e
      | .ok (e, s') => .ok (tlbPa e va, s')) = .ok (p, t) → LeavesBenches u t := fun u hu => by
    split at hu
    · cases hu
    · rename_i hw
      cases hu
      exact leavesBenches_walk hw
  unfold translatePaged at h
  dsimp only at h
  split at h
  · cases h
  · split at h
    · exact hwalk s h
    · have hdraw : LeavesBenches s (draw s (((tlbFor s core sp.asn va).filter fun e => tlbAllows e acc).length + 1)).2 :=
        leavesBenches_of_cores rfl rfl
      split at h
      · split at h
        · cases h
        · cases h
          exact hdraw
      · exact hdraw.trans (hwalk _ h)
theorem leavesBenches_placeOf {a p : Nat} (h : placeOf s core sp lim a acc = .ok (p, t)) : LeavesBenches s t := by
  unfold placeOf at h
  split at h
  · split at h
    · cases h
      exact leavesBenches_refl _
    · cases h
  · split at h
    · cases h
      exact leavesBenches_refl _
    · cases h
  · split at h
    · cases h
    · rename_i hpaged
      split at h
      · cases h
      · cases h
        exact leavesBenches_translatePaged hpaged
theorem leavesBenches_translate1 {a p : Nat} (h : translate1 s core sp lim a acc = .ok (p, t)) : LeavesBenches s t := by
  unfold translate1 at h
  split at h
  · cases h
  · rename_i hplace
    cases h
    exact (leavesBenches_placeOf hplace).trans (leavesBenches_openView _ _)
theorem leavesBenches_translateBytes {a n : Nat} {pas : List Nat} (h : translateBytes s core sp lim acc a n = .ok (pas, t)) :
    LeavesBenches s t := by
  induction n generalizing pas t with
  | zero =>
    cases h
    exact leavesBenches_refl s
  | succ n ih =>
    unfold translateBytes at h
    split at h
    · cases h
    · rename_i hrest
      have hkeeps := ih hrest
      split at h
      · split at h
        · cases h
          exact hkeeps.trans (leavesBenches_openView _ _)
        · split at h
          · cases h
          · rename_i hone
            cases h
            exact hkeeps.trans (leavesBenches_translate1 hone)
      · split at h
        · cases h
        · rename_i hone
          cases h
          exact hkeeps.trans (leavesBenches_translate1 hone)
theorem leavesBenches_translateRange {a n : Nat} {pas : List Nat} (h : translateRange s core sp lim acc a n = .ok (pas, t)) :
    LeavesBenches s t := by
  unfold translateRange at h
  split at h
  · cases h
  · exact leavesBenches_translateBytes h
end Translation

/-! ## The checks of a pass (R88, R102) -/

theorem leavesBenches_checkAccess {s t : State} {c : Cap} {a : Int} {k : Ask} {extra : Bool → Option OpFault} {p : Place}
    (h : checkAccess s c a k extra = .ok (p, t)) : LeavesBenches s t := by
  unfold checkAccess at h
  dsimp only at h
  repeat' split at h
  all_goals cases h
  · exact leavesBenches_refl _
  · exact leavesBenches_refl _
  · exact leavesBenches_translateRange ‹_›
theorem runSeats_ok {α : Type} {s t : State} {f : State → Nat → Except OpFault (α × State)} {ks : List Nat} {vs : List (Nat × α)}
    (hf : ∀ u k v u', f u k = .ok (v, u') → LeavesBenches u u') (h : runSeats s f ks = .ok (vs, t)) :
    vs.map (·.1) = ks ∧ LeavesBenches s t := by
  induction ks generalizing s t vs with
  | nil =>
    cases h
    exact ⟨rfl, leavesBenches_refl _⟩
  | cons k ks ih =>
    unfold runSeats at h
    split at h
    · rename_i hone
      split at h
      · rename_i hrest
        obtain ⟨hseats, hkeeps⟩ := ih hrest
        cases h
        exact ⟨by rw [List.map_cons, hseats], (hf _ _ _ _ hone).trans hkeeps⟩
      · cases h
    · split at h <;> cases h
/-- The checks of a pass give a place for each issued seat, and leave every bench and every scratchpad. -/
theorem accessChecks_ok {s u : State} {i : Instr} {c : CReg} {addr : Nat → Int} {k : Ask} {extra : Nat → Bool → Option OpFault}
    {ps : List (Nat × Place)} (h : accessChecks s i c addr k extra = .ok (ps, u)) : ps.map (·.1) = issued s ∧ LeavesBenches s u := by
  refine runSeats_ok (fun u k v u' hone => ?_) h
  split at hone
  · cases hone
  · exact leavesBenches_checkAccess hone

end Sys2Proof.Machine
end

section
/-!
PROOF. How a load issues (R102, R103, R106, R132, R136, R193): what becomes pending, and what goes in flight.
-/
namespace Sys2Proof.Machine
open Sys2Proof

/-! ## Pending destinations (R136) -/

/-- An effect that makes registers pending: it keeps the shape, the seats, the flags and the predicates, and every register but those. -/
structure MakesPending (D : DReg → Prop) (C : CReg → Prop) (eff : Bench → Bench) : Prop where
  keeps : KeepsSeats eff
  data : ∀ b r k, ¬D r → readD (eff b) r k = readD b r k ∧ poisonD (eff b) r k = poisonD b r k
  caps : ∀ b c k, ¬C c → readC (eff b) c k = readC b c k ∧ poisonC (eff b) c k = poisonC b c k
  preds : ∀ b p k, readP (eff b) p k = readP b p k
  flags : ∀ b, (eff b).flags = b.flags

section Pending
variable {D : DReg → Prop} {C : CReg → Prop}

theorem makesPending_id : MakesPending D C id :=
  ⟨keepsSeats_id, fun _ _ _ _ => ⟨rfl, rfl⟩, fun _ _ _ _ => ⟨rfl, rfl⟩, fun _ _ _ => rfl, fun _ => rfl⟩
theorem MakesPending.comp {f g : Bench → Bench} (h : MakesPending D C f) (h' : MakesPending D C g) :
    MakesPending D C fun b => g (f b) where
  keeps := ⟨fun b hb => h'.keeps.shaped _ (h.keeps.shaped b hb), fun b => (h'.keeps.seats _).trans (h.keeps.seats b)⟩
  data b r k hr := by rw [(h'.data _ r k hr).1, (h'.data _ r k hr).2]; exact h.data b r k hr
  caps b c k hc := by rw [(h'.caps _ c k hc).1, (h'.caps _ c k hc).2]; exact h.caps b c k hc
  preds b p k := (h'.preds _ p k).trans (h.preds b p k)
  flags b := (h'.flags _).trans (h.flags b)
theorem makesPending_foldl {α : Type} (l : List α) (f : Bench → α → Bench) (h : ∀ x ∈ l, MakesPending D C fun b => f b x) :
    MakesPending D C fun b => l.foldl f b := by
  induction l with
  | nil => exact makesPending_id
  | cons x l ih => exact (h x (List.mem_cons_self ..)).comp (ih fun y hy => h y (List.mem_cons_of_mem _ hy))
theorem makesPending_markD (seats : List Nat) {d : DReg} (hd : D d) : MakesPending D C fun b => markD b seats d := by
  have heq : ∃ vals : Bench → List SeatVal, (fun b => markD b seats d) = fun b => writeD b d (vals b) := by
    cases d with
    | v n => exact ⟨fun b => seats.map fun k => (k, rowRead b.vrows n.val k 0, rowPoison b.vrows n.val k), rfl⟩
    | s n => exact ⟨fun _ => [], rfl⟩
  obtain ⟨vals, heq⟩ := heq
  rw [heq]
  exact ⟨⟨fun b hb => shaped_writeD _ _ _ hb, fun b => seats_writeD _ _ _⟩,
    fun b r k hr => readD_writeD_other _ _ _ _ _ fun he => hr (he ▸ hd), fun b c k _ => ⟨readC_writeD _ _ _ _ _, poisonC_writeD _ _ _ _ _⟩,
    fun b p k => readP_writeD _ _ _ _ _, fun b => by rw [writeD_eq]⟩
theorem makesPending_markC (seats : List Nat) {c : CReg} (hc : C c) : MakesPending D C fun b => markC b seats c := by
  have heq : (fun b => markC b seats c) = fun b => writeC b c (seats.map fun k =>
      (k, rowRead b.crows c.val k Cap.null, rowPoison b.crows c.val k)) := rfl
  rw [heq]
  exact ⟨⟨fun b hb => shaped_writeC _ _ _ hb, fun b => seats_writeC _ _ _⟩,
    fun b r k _ => ⟨readD_writeC _ _ _ _ _, poisonD_writeC _ _ _ _ _⟩, fun b e k he => readC_writeC_other _ _ _ _ _ fun hec => he (hec ▸ hc),
    fun b p k => readP_writeC _ _ _ _ _, fun b => flags_writeC _ _ _⟩
end Pending

/-! ## The flag of a pass rises (R31) -/

theorem raiseFlag_eq (b : Bench) (flag : Option Nat) (n : Nat) :
    raiseFlag b flag n = { b with flags := (raiseFlag b flag n).flags } := by
  cases flag <;> rfl
theorem shaped_raiseFlag {b : Bench} (flag : Option Nat) (n : Nat) (h : Shaped b) : Shaped (raiseFlag b flag n) := by
  obtain ⟨hv, hc, hseats, hsregs, hpreds, hflags⟩ := (shaped_iff b).mp h
  cases flag with
  | none => exact h
  | some k => exact (shaped_iff _).mpr ⟨hv, hc, hseats, hsregs, hpreds, (length_setNth _ _ _).trans hflags⟩
theorem flagOf_raiseFlag (b : Bench) (hlen : b.flags.length = 12) (flag : Option Nat) (k n : Nat) :
    flagOf (raiseFlag b flag n) k = flagOf b k + if flag = some k ∧ k < 12 then n else 0 := by
  cases flag with
  | none => simp [raiseFlag]
  | some f =>
    rw [raiseFlag, flagOf]
    by_cases hf : f = k
    · subst hf
      rcases Nat.lt_or_ge f 12 with hlt | hge
      · simp [nth_setNth_same _ _ _ _ (hlen ▸ hlt), hlt]
      · have h0 : flagOf b f = 0 := nth_eq_default _ _ _ (hlen ▸ hge)
        have h0' : nth (setNth b.flags f (flagOf b f + n)) f 0 = 0 := nth_eq_default _ _ _ (by rw [length_setNth, hlen]; exact hge)
        rw [h0', h0, if_neg fun h => absurd h.2 (Nat.not_lt.mpr hge)]
    · simp [nth_setNth_other _ _ _ _ _ hf, flagOf, hf]

/-- The registers of a pass become pending. -/
def marking (seats : List Nat) (ds : List DReg) (cd : Option CReg) (b : Bench) : Bench :=
  cd.toList.foldl (fun b c => markC b seats c) (ds.foldl (fun b d => markD b seats d) b)
theorem markPass_eq (seats : List Nat) (ds : List DReg) (cd : Option CReg) (flag : Option Nat) (b : Bench) :
    markPass seats ds cd.toList flag b = raiseFlag (marking seats ds cd b) flag 1 := rfl
theorem makesPending_marking (seats : List Nat) (ds : List DReg) (cd : Option CReg) :
    MakesPending (· ∈ ds) (some · = cd) (marking seats ds cd) :=
  (makesPending_foldl ds _ fun _ hd => makesPending_markD seats hd).comp
    (makesPending_foldl cd.toList _ fun _ hc => makesPending_markC seats (Option.mem_toList.mp hc).symm)

section MarkPass
variable (seats : List Nat) (ds : List DReg) (cd : Option CReg) (flag : Option Nat)

theorem keepsSeats_markPass : KeepsSeats (markPass seats ds cd.toList flag) where
  shaped b hb := by
    rw [markPass_eq]
    exact shaped_raiseFlag _ _ ((makesPending_marking seats ds cd).keeps.shaped b hb)
  seats b := by
    rw [markPass_eq, raiseFlag_eq]
    exact (makesPending_marking seats ds cd).keeps.seats b
theorem readD_markPass (b : Bench) (r : DReg) (k : Nat) (hr : ¬r ∈ ds) :
    readD (markPass seats ds cd.toList flag b) r k = readD b r k ∧ poisonD (markPass seats ds cd.toList flag b) r k = poisonD b r k := by
  rw [markPass_eq, raiseFlag_eq]
  have h := (makesPending_marking seats ds cd).data b r k hr
  cases r <;> exact h
theorem readC_markPass (b : Bench) (c : CReg) (k : Nat) (hc : ¬some c = cd) :
    readC (markPass seats ds cd.toList flag b) c k = readC b c k ∧ poisonC (markPass seats ds cd.toList flag b) c k = poisonC b c k := by
  rw [markPass_eq, raiseFlag_eq]
  exact (makesPending_marking seats ds cd).caps b c k hc
theorem readP_markPass (b : Bench) (p : PReg) (k : Nat) : readP (markPass seats ds cd.toList flag b) p k = readP b p k := by
  rw [markPass_eq, raiseFlag_eq]
  exact (makesPending_marking seats ds cd).preds b p k
theorem flagOf_markPass {b : Bench} (hb : Shaped b) (k : Nat) :
    flagOf (markPass seats ds cd.toList flag b) k = flagOf b k + if flag = some k ∧ k < 12 then 1 else 0 := by
  have hm := makesPending_marking seats ds cd
  have hlen : (marking seats ds cd b).flags.length = 12 := ((shaped_iff _).mp (hm.keeps.shaped b hb)).2.2.2.2.2
  rw [markPass_eq, flagOf_raiseFlag _ hlen, flagOf, hm.flags, flagOf]
end MarkPass

/-! ## What a load delivers (R103, R318) -/

theorem valueLE_take (n : Nat) (l : List Byte) : valueLE (l.take n) = valueLE l % 256 ^ n := by
  induction n generalizing l with
  | zero => simp [valueLE, Nat.mod_one]
  | succ n ih =>
    cases l with
    | nil => simp [valueLE]
    | cons b l =>
      have hval : ∀ l : List Byte, valueLE (b :: l) = b.toNat + 256 * valueLE l := fun _ => rfl
      have hb := b.isLt
      rw [List.take_succ_cons, hval, hval, ih, pow_succ', Nat.mod_mul, show (b.toNat + 256 * valueLE l) % 256 = b.toNat by omega,
        show (b.toNat + 256 * valueLE l) / 256 = valueLE l by omega]
/-- Each register of a load takes its eight bytes, little-endian and zero-extended. -/
theorem nth_loadWords (bs : List Byte) {j : Nat} (hj : j < 2) :
    nth (loadWords bs) j 0 = BitVec.ofNat 64 (valueLE ((bs.drop (8 * j)).take 8)) := by
  rcases Nat.lt_succ_iff_lt_or_eq.mp hj with h0 | rfl
  · obtain rfl := Nat.lt_one_iff.mp h0
    rfl
  · refine BitVec.eq_of_toNat_eq ?_
    simp only [loadWords, nth, valueLE_take, BitVec.toNat_ofNat]
    exact (Nat.mod_mod _ _).symm
theorem filterMap_range_eq_mapIdx {α β : Type} (l : List α) (g : Nat → α → β) :
    ((List.range l.length).filterMap fun j => (l[j]?).map (g j)) = l.mapIdx g := by
  induction l generalizing g with
  | nil => rfl
  | cons x l ih =>
    rw [List.length_cons, List.range_succ_eq_map, List.mapIdx_cons, ← ih, List.filterMap_cons, List.filterMap_map]
    rfl
/-- What the j-th register of a load takes from the seats that write it. -/
def seatVals (low : Nat) (seen : List (Nat × Seen)) (j : Nat) (d : DReg) : List SeatVal :=
  (seen.filter fun e => d.isV || e.1 == low).map fun e => (e.1, nth (loadWords e.2.bytes) j 0, if e.2.poison then some 0 else none)
theorem destVals_eq (low : Nat) (ds : List DReg) (seen : List (Nat × Seen)) :
    destVals low ds seen = ds.mapIdx fun j d => (d, seatVals low seen j d) :=
  filterMap_range_eq_mapIdx ds fun j d => (d, seatVals low seen j d)
theorem bits_loadedCap (s : State) (space : Nat) (window ldc : Bool) (x : Seen) :
    (loadedCap s space window ldc x).bits = BitVec.ofNat 128 (valueLE x.bytes) := by
  unfold loadedCap transferCap
  split <;> rfl
theorem tag_loadedCap {s : State} {space : Nat} {window ldc : Bool} {x : Seen} (h : (loadedCap s space window ldc x).tag = true) :
    x.tag = true ∧ x.poison = false ∧ (window = true ∨ ldc = true) := by
  unfold loadedCap transferCap at h
  split at h
  · exact absurd h Bool.false_ne_true
  · simpa [capOfBytes, and_assoc] using h

end Sys2Proof.Machine
end

section
/-!
PROOF. A pass of loads whose checks pass (R101 to R107, R132, R190, R193, R318, R362).
-/
namespace Sys2Proof.Machine
open Sys2Proof

/-! ## The forms of the loads (R101, R105, R146, R317) -/

theorem widthBytes_eq (sz : Width) : widthBytes sz = sizeOf_ sz := by cases sz <;> rfl
theorem fragAddr_eq (s : State) (c : CReg) (off : Nat → Int) (stride : Nat) :
    (fun k => fragAddr s c (off k) stride k) = fun k => exactAddr s c off k + stride * k := by
  funext k
  rw [fragAddr, addrOf, exactAddr, Int.ofNat_eq_natCast (stride * k), Nat.cast_mul]
theorem exec_of_loadForm {s : State} {i : Instr} {m : MemForm} {ds : List DReg} {cd : Option CReg} (h : loadForm s i = some (m, ds, cd)) :
    exec i s = loadPass s i m.srcs m.c m.addr (m.ask [.ld] .load) ds cd := by
  have hfrag := fragAddr_eq s
  unfold loadForm at h
  dsimp only at h
  split at h <;> cases h
  case h_1 x sz c d =>
    rw [← widthBytes_eq]
    rfl
  case h_2 j sz c d =>
    rw [← widthBytes_eq]
    rfl
  case h_5 x sz c d =>
    rw [← widthBytes_eq]
    rfl
  case h_6 j sz c d =>
    rw [← widthBytes_eq]
    rfl
  case h_7 x c d => exact congrArg (fun addr => loadPass s (.ldfRIndex x c d) [x] c addr (askFrag .ld .load) [d] none) (hfrag c (byReg s x) 8)
  case h_8 j c d => exact congrArg (fun addr => loadPass s (.ldfRImm j c d) [] c addr (askFrag .ld .load) [d] none) (hfrag c (byImm j 8) 8)
  case h_9 x c d => exact congrArg (fun addr => loadPass s (.ldfCIndex x c d) [x] c addr (askFrag .ld .load) [d] none) (hfrag c (byReg s x) 512)
  case h_10 j c d => exact congrArg (fun addr => loadPass s (.ldfCImm j c d) [] c addr (askFrag .ld .load) [d] none) (hfrag c (byImm j 8) 512)
  all_goals rfl
/-- A load writes one or two registers, or a capability register from 16 bytes. -/
theorem size_of_loadForm {s : State} {i : Instr} {m : MemForm} {ds : List DReg} {cd : Option CReg} (h : loadForm s i = some (m, ds, cd)) :
    ds.length ≤ 2 ∧ ∀ c, cd = some c → m.n = 16 := by
  unfold loadForm at h
  dsimp only at h
  split at h <;> cases h
  all_goals exact ⟨by simp, by simp⟩

/-! ## Reads of the same seats that come before (R104, R193) -/

theorem leavesBenches_settleOver (u : State) (n : Nat) (ps : List (Nat × Place)) : LeavesBenches u (settleOver u n ps) :=
  leavesBenches_of_cores rfl rfl

/-! ## What goes in flight -/

section Issue
variable (u : State) (srcs : List Src) (c : CReg) (n : Nat) (ds : List DReg) (cd : Option CReg) (ps : List (Nat × Place))

/-- The capabilities that a load delivers. -/
def loadCaps : List (CReg × List SeatCap) :=
  cd.toList.map fun r => (r, ps.map fun p =>
    (p.1, loadedCap u (taskSpaceNum u (curTask u)) (match p.2 with
      | .win _ => true
      | _ => false) (hasPerm (readC (cur u) c p.1) .ldc) (seePlace u p.2 n), if (seePlace u p.2 n).poison then some 0 else none))
/-- What each seat of a load sees at its issue. -/
def loadSeen : List (Nat × Seen) := ps.map fun p => (p.1, seePlace u p.2 n)
/-- A pass of loads in flight. -/
def issuedLoad (task : Word) : Flight :=
  { id := u.nextId, mate := u.nextId, core := u.sel.core, slot := u.sel.slot, task := task, flag := passFlag u false
    seats := seatsIn ps, vdests := partDests (lowestSeat u.sel.seats) (seatsIn ps) ds, cdests := cd.toList.filter (· != 0)
    vlost := [], clost := [], kind := .load (destVals (lowestSeat u.sel.seats) ds (loadSeen u n ps)) (loadCaps u c n cd ps) false
    deadline := 0, late := lateReads u c n ps }
/-- The bench after the issue: its destinations are pending and its seats have gone on. -/
def loadRetired : State :=
  moveWith (settleOver u n ps) srcs (markPass (issued u) ds cd.toList (passFlag u false)) fun _ x => pastSeat x u.sel.len false

theorem loadRetired_outside : loadRetired u srcs n ds cd ps =
    { u with cores := (loadRetired u srcs n ds cd ps).cores, flights := (loadRetired u srcs n ds cd ps).flights } :=
  (leavesOutside_moveWith _ _ _ _).1.trans rfl
theorem issueLoad_near (i : Instr) (hsplit : splitPlaces u n ps = ([], [], ps)) (hne : ps ≠ []) :
    ∃ t task, issueLoad u i srcs c n ds cd ps = t ∧ t.cores = (loadRetired u srcs n ds cd ps).cores ∧
      t = { u with cores := t.cores, flights := t.flights, nextId := u.nextId + 1 } ∧ issuedLoad u c n ds cd ps task ∈ t.flights := by
  have hout := loadRetired_outside u srcs n ds cd ps
  have hempty : ps.isEmpty = false := by simpa using hne
  let part : FlightPart := ⟨seatsIn ps, partDests (lowestSeat u.sel.seats) (seatsIn ps) ds, cd.toList,
    .load (destVals (lowestSeat u.sel.seats) ds (loadSeen u n ps)) (loadCaps u c n cd ps) false, 0⟩
  have hissue : issueLoad u i srcs c n ds cd ps =
      putLate (addParts (loadRetired u srcs n ds cd ps) (passFlag u false) [part]) u.nextId (lateReads u c n ps) := by
    simp only [issueLoad, hsplit, hempty, List.isEmpty_nil, if_true, Bool.false_eq_true, if_false, List.append_nil]
    rfl
  refine ⟨_, (cur (loadRetired u srcs n ds cd ps)).task, hissue, rfl, ?_, ?_⟩
  · rw [hout]
    rfl
  · refine List.mem_map.mpr ⟨{ issuedLoad u c n ds cd ps (cur (loadRetired u srcs n ds cd ps)).task with late := [] }, ?_, if_pos rfl⟩
    refine List.mem_append_right _ ?_
    rw [hout]
    exact List.mem_singleton.mpr rfl
end Issue

/-! ## The accesses of a pass that go in flight as they stand -/

theorem place_cases {u : State} {n : Nat} {p : Nat × Place} (h : performedNow u n p ∨ ∃ a pas, p.2 = .mem a pas) :
    (∃ a, p.2 = .win a ∧ winHeld u p.1 a n = false) ∨ ∃ a pas, p.2 = .mem a pas := by
  rcases h with h | h
  · obtain ⟨k, p⟩ := p
    cases p with
    | win a => exact .inl ⟨a, rfl, h⟩
    | mem a pas => exact .inr ⟨a, pas, rfl⟩
    | remote va => exact h.elim
  · exact .inr h
theorem splitPlaces_near {u : State} {n : Nat} {ps : List (Nat × Place)}
    (h : ∀ p ∈ ps, performedNow u n p ∨ ∃ a pas, p.2 = .mem a pas) : splitPlaces u n ps = ([], [], ps) := by
  refine Prod.ext (List.filter_eq_nil_iff.mpr fun p hp => ?_)
    (Prod.ext (List.filterMap_eq_nil_iff.mpr fun p hp => ?_) (List.filter_eq_self.mpr fun p hp => ?_)) <;>
  · rcases place_cases (h p hp) with ⟨a, ha, hheld⟩ | ⟨a, pas, ha⟩
    · simp [ha, hheld]
    · simp [ha]
theorem mem_lateReads {u : State} {c : CReg} {n : Nat} {ps : List (Nat × Place)} {l : LateRead} (h : l ∈ lateReads u c n ps) :
    ∃ p ∈ ps, l.seat = p.1 ∧ l.size = n ∧ ((p.2 = .win l.addr ∧ l.pas = []) ∨ p.2 = .mem l.addr l.pas) := by
  unfold lateReads at h
  split at h
  · cases h
  · obtain ⟨⟨k, p⟩, hp, hl⟩ := List.mem_filterMap.mp h
    cases p <;> cases hl
    · exact ⟨_, hp, rfl, rfl, .inl ⟨rfl, rfl⟩⟩
    · exact ⟨_, hp, rfl, rfl, .inr rfl⟩

section Seats
variable {s : State} {ps : List (Nat × Place)} (hps : ps.map (·.1) = issued s)
include hps

theorem getLsbD_seatsIn (k : Nat) : (seatsIn ps).getLsbD k = true ↔ k ∈ issued s := by
  have hany : (ps.any fun p => p.1 == k) = true ↔ k ∈ issued s := by
    rw [← hps, List.any_eq_true, List.mem_map]
    simp only [beq_iff_eq]
  rw [seatsIn, getLsbD_maskOf, Bool.and_eq_true, decide_eq_true_eq, hany, and_iff_right_iff_imp]
  exact lt_of_mem_issued
theorem partDests_issued (hne : issued s ≠ []) (ds : List DReg) : partDests (lowestSeat s.sel.seats) (seatsIn ps) ds = ds := by
  have hlow : (seatsIn ps).getLsbD (lowestSeat s.sel.seats) = true := (getLsbD_seatsIn hps _).mpr (head_mem_issued hne)
  exact List.filter_eq_self.mpr fun d _ => by rw [hlow, Bool.or_true]
end Seats

section Values
variable (u : State) (c : CReg) (n : Nat) (ps : List (Nat × Place))

/-- The value of a register for a seat that writes it. -/
theorem mem_seatVals (low : Nat) {j : Nat} (hj : j < 2) (d : DReg) {p : Nat × Place} (hp : p ∈ ps) (hd : d.isV = true ∨ p.1 = low) :
    (p.1, BitVec.ofNat 64 (valueLE (((seePlace u p.2 n).bytes.drop (8 * j)).take 8)),
      if (seePlace u p.2 n).poison then some 0 else none) ∈ seatVals low (loadSeen u n ps) j d := by
  refine List.mem_map.mpr ⟨(p.1, seePlace u p.2 n), List.mem_filter.mpr ⟨List.mem_map.mpr ⟨p, hp, rfl⟩, ?_⟩, ?_⟩
  · simpa using hd
  · rw [nth_loadWords _ hj]
theorem mem_loadCaps (r : CReg) : ∃ vs, loadCaps u c n (some r) ps = [(r, vs)] ∧ ∀ p ∈ ps, ∃ x q, (p.1, x, q) ∈ vs ∧
    x.bits = BitVec.ofNat 128 (valueLE (seePlace u p.2 n).bytes) ∧ (q = if (seePlace u p.2 n).poison then some 0 else none) ∧
    (x.tag = true → (seePlace u p.2 n).tag = true ∧ (seePlace u p.2 n).poison = false ∧
      ((∃ a, p.2 = .win a) ∨ hasPerm (readC (cur u) c p.1) .ldc = true)) := by
  refine ⟨_, rfl, fun p hp => ⟨_, _, List.mem_map.mpr ⟨p, hp, rfl⟩, bits_loadedCap .., rfl, fun htag => ?_⟩⟩
  obtain ⟨htag, hpoison, hldc⟩ := tag_loadedCap htag
  refine ⟨htag, hpoison, hldc.imp_left fun hwin => ?_⟩
  obtain ⟨k, p⟩ := p
  cases p with
  | win a => exact ⟨a, rfl⟩
  | mem a pas => exact absurd hwin Bool.false_ne_true
  | remote va => exact absurd hwin Bool.false_ne_true
end Values

/-! ## What the issue leaves of the bench -/

section Bench
variable {s v w t : State} (hv : LeavesBenches s v) (ht : cur t = cur w)
include hv ht

theorem LeavesBenches.seatsBecome {f : Nat → Seat → Seat} (h : SeatsBecome v w f) : SeatsBecome s t f := fun k => by
  rw [ht, h k, hv.issued_eq, hv.cur_eq]
theorem LeavesBenches.dataKept {srcs : List Src} {except : DReg → Prop} (h : DataKept v w srcs except) : DataKept s t srcs except := by
  intro r k hr
  have hread := h r k hr
  rwa [hv.issued_eq, hv.cur_eq, ← ht] at hread
theorem LeavesBenches.capsKept {except : CReg → Prop} (h : CapsKept v w except) : CapsKept s t except := fun r k hr => by
  have hread := h r k hr
  rwa [hv.cur_eq, ← ht] at hread
theorem LeavesBenches.predsKept {except : PReg → Prop} (h : PredsKept v w except) : PredsKept s t except := fun p k hp => by
  have hread := h p k hp
  rwa [hv.cur_eq, ← ht] at hread
end Bench

section Retired
variable {u : State} (h : Shaped (cur u)) (srcs : List Src) (n : Nat) (ds : List DReg) (cd : Option CReg) (ps : List (Nat × Place))
include h

theorem flagOf_loadRetired (k : Nat) : flagOf (cur (loadRetired u srcs n ds cd ps)) k =
    flagOf (cur u) k + if passFlag u false = some k ∧ k < 12 then 1 else 0 := by
  have hrest := benchRest_moveWith (settleOver u n ps) srcs (markPass (issued u) ds cd.toList (passFlag u false))
    fun _ x => pastSeat x u.sel.len false
  have hflags := congrArg Bench.flags hrest
  have hmark := flagOf_markPass (issued u) ds cd (passFlag u false) (shaped_lastReads (cur u) u.sel.seats srcs h) k
  have hlast : flagOf (lastReads (cur u) u.sel.seats srcs) k = flagOf (cur u) k := by rw [flagOf, flags_lastReads, flagOf]
  rw [hlast] at hmark
  exact (congrArg (nth · k 0) hflags).trans hmark
theorem registers_loadRetired :
    SeatsBecome (settleOver u n ps) (loadRetired u srcs n ds cd ps) (fun _ x => pastSeat x u.sel.len false) ∧
      DataKept (settleOver u n ps) (loadRetired u srcs n ds cd ps) srcs (· ∈ ds) ∧
      CapsKept (settleOver u n ps) (loadRetired u srcs n ds cd ps) (some · = cd) ∧
      PredsKept (settleOver u n ps) (loadRetired u srcs n ds cd ps) (fun _ => False) := by
  have heff := keepsSeats_markPass (issued u) ds cd (passFlag u false)
  have hs : Shaped (cur (settleOver u n ps)) := h
  exact ⟨seatsBecome_moveWith _ _ heff hs, dataKept_moveWith _ _ heff hs _ (readD_markPass _ _ _ _),
    capsKept_moveWith _ _ heff hs _ (readC_markPass _ _ _ _), predsKept_moveWith _ _ _ _ _ fun _ _ _ _ => readP_markPass _ _ _ _ _ _ _⟩
end Retired

theorem loadsPutWhatTheySeeInFlight : Claims.LoadsPutWhatTheySeeInFlight := by
  intro s u i m ds cd ps hs hform hne hchecks hnow
  obtain ⟨hps, hu⟩ := accessChecks_ok hchecks
  obtain ⟨hlen, hsize⟩ := size_of_loadForm hform
  have hcur := hu.cur_eq
  have hpsne : ps ≠ [] := by
    rintro rfl
    exact hne hps.symm
  obtain ⟨t, task, hissue, hcores, hout, hf⟩ := issueLoad_near u m.srcs m.c m.n ds cd ps i (splitPlaces_near hnow) hpsne
  have hflag : passFlag u false = passFlag s false := by rw [passFlag, curHeader, hcur, hu.sel, passFlag, curHeader]
  have hlow : lowestSeat u.sel.seats = (issued s).headD 0 := by rw [hu.sel]; rfl
  have hsettled := hu.trans (leavesBenches_settleOver u m.n ps)
  have hsel : t.sel = (loadRetired u m.srcs m.n ds cd ps).sel := by rw [hout, loadRetired_outside]
  have hcurt : cur t = cur (loadRetired u m.srcs m.n ds cd ps) := by
    rw [cur, getBench, getCore, hcores, hsel]
    rfl
  have hsu : Shaped (cur u) := hcur ▸ hs
  obtain ⟨hseats, hdata, hcaps, hpreds⟩ := registers_loadRetired hsu m.srcs m.n ds cd ps
  refine ⟨t, issuedLoad u m.c m.n ds cd ps task, _, _, ?_, hout, hf, rfl, congrArg (·.core) hu.sel, congrArg (·.slot) hu.sel, hflag,
    fun k _ => getLsbD_seatsIn hps k, ?_, rfl, rfl, fun l hl => mem_lateReads hl, fun j d hj => ?_, fun c hc => ?_, ?_,
    hsettled.dataKept hcurt hdata, hsettled.capsKept hcurt hcaps, hsettled.predsKept hcurt hpreds, fun core => ?_, fun k => ?_⟩
  · rw [exec_of_loadForm hform, loadPass, hchecks]
    exact congrArg _ hissue
  · rw [issuedLoad, hu.sel]
    exact partDests_issued hps hne ds
  · have hj2 : j < 2 := lt_of_lt_of_le (List.getElem?_eq_some_iff.mp hj).1 hlen
    refine ⟨seatVals (lowestSeat u.sel.seats) (loadSeen u m.n ps) j d, ?_, fun p hp hd => ?_⟩
    · rw [destVals_eq, List.getElem?_mapIdx, hj]
      rfl
    · rw [← hlow] at hd
      exact mem_seatVals u m.n ps _ hj2 d hp hd
  · subst hc
    rw [← hsize c rfl, ← hcur]
    exact mem_loadCaps u m.c m.n ps c
  · rw [← hu.sel]
    exact hsettled.seatsBecome hcurt hseats
  · have hleaves := (leavesOutside_moveWith (settleOver u m.n ps) m.srcs (markPass (issued u) ds cd.toList (passFlag u false))
      fun _ x => pastSeat x u.sel.len false).2.2.2 core
    rw [getCore, hcores]
    exact (congrArg Core.spad hleaves).trans (hsettled.spad core)
  · rw [hcurt, flagOf_loadRetired hsu, hcur, hflag]

/-- Settles O16: what a load puts in flight, and what its completion writes. -/
theorem loadsReadUntilTheyComplete : Obligations.LoadsReadUntilTheyComplete :=
  ⟨loadsPutWhatTheySeeInFlight, loadCompletionWritesTheDestination⟩

end Sys2Proof.Machine
end

section
/-!
PROOF. Laws of integer elements (R53 to R55, R69 to R71): the value of each operation on one sub-element.
-/
namespace Sys2Proof.Machine

/-! ## Narrowing and the signed reading (R54, R55) -/

theorem ofNat_wrap (w : Nat) (x : Int) : Int.ofNat (wrap w x) = x % 2 ^ w := by
  have h : (Int.ofNat (2 ^ w)) = (2 : Int) ^ w := by simp
  rw [wrap, h]
  exact Int.toNat_of_nonneg (Int.emod_nonneg _ (by positivity))
theorem wrap_lt (w : Nat) (x : Int) : wrap w x < 2 ^ w := by
  have h : (wrap w x : Int) < 2 ^ w := (ofNat_wrap w x).trans_lt (Int.emod_lt_of_pos _ (by positivity))
  exact_mod_cast h
@[simp] theorem wrap_mod (w : Nat) (x : Int) : wrap w x % 2 ^ w = wrap w x := Nat.mod_eq_of_lt (wrap_lt w x)
@[simp] theorem elem_mod (x : Word) (i w : Nat) : elem x i w % 2 ^ w = elem x i w := Nat.mod_eq_of_lt (elem_lt x i w)
theorem sx_eq_signedOf {w x : Nat} (h : x < 2 ^ w) : sx w x = signedOf w x := by
  simp [sx, signedOf, Nat.mod_eq_of_lt h]
theorem sx_elem (w : Nat) (x : Word) (j : Nat) : sx w (elem x j w) = se w x j := sx_eq_signedOf (elem_lt x j w)
/-- The signed reading differs from the number by a multiple of 2^w. -/
theorem signedOf_emod (w x : Nat) : signedOf w x % 2 ^ w = (x : Int) % 2 ^ w := by
  unfold signedOf
  split
  · rfl
  · rw [Int.sub_emod_right]
theorem ofNat_mod_two_pow (w x : Nat) : Int.ofNat (x % 2 ^ w) = (x : Int) % 2 ^ w := by simp

section Elements
variable (w : Nat)

theorem ofNat_addE (x y : Nat) : Int.ofNat (addE w x y % 2 ^ w) = ((x : Int) + y) % 2 ^ w := by
  rw [addE, Nat.mod_mod, ofNat_mod_two_pow, Nat.cast_add]
theorem ofNat_subE {x y : Nat} (hy : y < 2 ^ w) : Int.ofNat (subE w x y % 2 ^ w) = ((x : Int) - y) % 2 ^ w := by
  have h : ((x + 2 ^ w - y : Nat) : Int) = (x : Int) - y + 2 ^ w := by
    rw [Nat.cast_sub (by omega)]
    push_cast
    ring
  rw [subE, Nat.mod_mod, ofNat_mod_two_pow, h, Int.add_emod_right]
theorem ofNat_mulE (x y : Nat) : Int.ofNat (mulE w x y % 2 ^ w) = ((x : Int) * y) % 2 ^ w := by
  rw [mulE, Nat.mod_mod, ofNat_mod_two_pow, Nat.cast_mul]
theorem ofNat_madE (d x y : Nat) : Int.ofNat (addE w d (mulE w x y) % 2 ^ w) = ((d : Int) + x * y) % 2 ^ w := by
  have h : addE w d (mulE w x y) = addE w d (x * y) := Nat.add_mod_mod _ _ _
  rw [h, ofNat_addE, Nat.cast_mul]
theorem ofNat_minE {x y : Nat} (hx : x < 2 ^ w) (hy : y < 2 ^ w) :
    Int.ofNat (minE w x y % 2 ^ w) = min (signedOf w x) (signedOf w y) % 2 ^ w := by
  rw [minE, sx_eq_signedOf hx, sx_eq_signedOf hy, ofNat_mod_two_pow]
  split
  case isTrue h => rw [min_eq_left h, signedOf_emod]
  case isFalse h => rw [min_eq_right (not_le.mp h).le, signedOf_emod]
theorem ofNat_maxE {x y : Nat} (hx : x < 2 ^ w) (hy : y < 2 ^ w) :
    Int.ofNat (maxE w x y % 2 ^ w) = max (signedOf w x) (signedOf w y) % 2 ^ w := by
  rw [maxE, sx_eq_signedOf hx, sx_eq_signedOf hy, ofNat_mod_two_pow]
  split
  case isTrue h => rw [max_eq_right h, signedOf_emod]
  case isFalse h => rw [max_eq_left (not_le.mp h).le, signedOf_emod]
theorem minuE_eq_min (x y : Nat) : minuE x y = min x y := (min_def x y).symm
theorem maxuE_eq_max (x y : Nat) : maxuE x y = max x y := (max_def x y).symm
theorem ofNat_negE {x : Nat} (hx : x < 2 ^ w) : Int.ofNat (negE w x % 2 ^ w) = -(x : Int) % 2 ^ w := by
  rw [negE, ofNat_subE w hx, Nat.cast_zero, zero_sub]
theorem ofNat_absE {x : Nat} (hx : x < 2 ^ w) : Int.ofNat (absE w x % 2 ^ w) = |signedOf w x| % 2 ^ w := by
  rw [absE, sx_eq_signedOf hx]
  split
  case isTrue h => rw [abs_of_nonneg h, signedOf_emod, ofNat_mod_two_pow]
  case isFalse h =>
    have hneg : signedOf w x = x - 2 ^ w := by
      unfold signedOf at h ⊢
      split at h
      · omega
      · rename_i hbig; rw [if_neg hbig]
    rw [abs_of_neg (not_le.mp h), ← negE, ofNat_negE w hx, hneg, neg_sub, sub_eq_neg_add, Int.add_emod_right]

/-! ## Bit counts (R70) -/

theorem clzN_eq {x : Nat} (hx : x < 2 ^ w) : clzN w x = if x = 0 then w else w - 1 - Nat.log2 x := by
  induction w with
  | zero => simp [clzN]
  | succ w ih =>
    rcases Nat.lt_or_ge x (2 ^ w) with h | h
    · have hlog (h0 : x ≠ 0) : Nat.log2 x < w := (Nat.log2_lt h0).mpr h
      rw [clzN, Nat.div_eq_of_lt h, if_neg (by decide), ih h]
      split
      · omega
      · have := hlog ‹_›; omega
    · have h0 : x ≠ 0 := (Nat.two_pow_pos w |>.trans_le h).ne'
      have h1 : x / 2 ^ w = 1 := Nat.div_eq_of_lt_le (by omega) (by rw [pow_succ] at hx; omega)
      have hlog : Nat.log2 x = w := (Nat.log2_eq_iff h0).mpr ⟨h, hx⟩
      rw [clzN, h1, if_pos rfl, if_neg h0, hlog]
      omega
theorem clzN_le (x : Nat) : clzN w x ≤ w := by
  induction w with
  | zero => simp [clzN]
  | succ w ih => rw [clzN]; split <;> omega
theorem ctzN_spec (x : Nat) :
    ctzN w x ≤ w ∧ (∀ i, i < ctzN w x → x.testBit i = false) ∧ (ctzN w x < w → x.testBit (ctzN w x) = true) := by
  induction w generalizing x with
  | zero => simp [ctzN]
  | succ w ih =>
    rw [ctzN]
    split
    case isTrue h => simp [Nat.testBit_zero, h]
    case isFalse h =>
      obtain ⟨hle, hzero, hone⟩ := ih (x / 2)
      refine ⟨by omega, fun i hi => ?_, fun hlt => ?_⟩
      · cases i with
        | zero => simp [Nat.testBit_zero, h]
        | succ i => rw [Nat.testBit_succ]; exact hzero i (by omega)
      · rw [Nat.add_comm, Nat.testBit_succ]
        exact hone (by omega)
theorem popN_eq (x : Nat) : popN w x = ((List.range w).filter fun i => x.testBit i).length := by
  induction w generalizing x with
  | zero => rfl
  | succ w ih =>
    have htail : (List.filter (fun i => x.testBit i) (List.map Nat.succ (List.range w))).length = popN w (x / 2) := by
      rw [List.filter_map, List.length_map, ih]
      simp [Function.comp_def, Nat.testBit_succ]
    rw [popN, List.range_succ_eq_map, List.filter_cons, ← htail, Nat.testBit_zero]
    rcases Nat.mod_two_eq_zero_or_one x with h | h <;> simp [h, Nat.add_comm]
theorem popN_le (x : Nat) : popN w x ≤ w :=
  (popN_eq w x).trans_le ((List.length_filter_le _ _).trans_eq List.length_range)
theorem revN_lt (x : Nat) : revN w x < 2 ^ w := by
  induction w generalizing x with
  | zero => simp [revN]
  | succ w ih =>
    have h := ih (x / 2)
    rcases Nat.mod_two_eq_zero_or_one x with h2 | h2 <;> rw [revN, h2, pow_succ] <;> omega
theorem testBit_revN (x : Nat) {i : Nat} (hi : i < w) : (revN w x).testBit (w - 1 - i) = x.testBit i := by
  induction w generalizing x i with
  | zero => omega
  | succ w ih =>
    rw [revN, Nat.mul_comm, Nat.testBit_two_pow_mul_add _ (revN_lt w (x / 2))]
    cases i with
    | zero => rw [Nat.testBit_zero]; rcases Nat.mod_two_eq_zero_or_one x with h | h <;> simp [h]
    | succ i =>
      have hsub : w + 1 - 1 - (i + 1) = w - 1 - i := by omega
      rw [hsub, if_pos (by omega), ih _ (by omega), Nat.testBit_succ]
theorem testBit_rotl {x k i : Nat} (hx : x < 2 ^ w) (hk : k < w) (hi : i < w) :
    (rotl w x k).testBit ((i + k) % w) = x.testBit i := by
  have hhigh : x / 2 ^ (w - k) < 2 ^ k := by
    rw [Nat.div_lt_iff_lt_mul (by positivity), ← pow_add, Nat.add_sub_cancel' hk.le]
    exact hx
  rw [rotl, Nat.testBit_mod_two_pow, Nat.mul_comm, Nat.testBit_two_pow_mul_add _ hhigh]
  rcases Nat.lt_or_ge (i + k) w with h | h
  · simp [Nat.mod_eq_of_lt h, h]
  · have hmod : (i + k) % w = i + k - w := by
      rw [Nat.mod_eq_sub_mod h, Nat.mod_eq_of_lt (by omega)]
    have hback : i + k - w + (w - k) = i := by omega
    rw [hmod, if_pos (by omega), Nat.testBit_div_two_pow, hback, decide_eq_true (by omega), Bool.true_and]
end Elements

/-! ## Bit fields (R71) -/

theorem two_pow_log2_widthBits (w : Width) : 2 ^ Nat.log2 (widthBits w) = widthBits w := by cases w <;> decide
theorem fieldOf_widthBits (w : Width) (b : Nat) : fieldOf (widthBits w) b =
    (b % widthBits w, min (b / widthBits w % (2 * widthBits w)) (widthBits w - b % widthBits w)) := by
  rw [fieldOf, pow_succ, two_pow_log2_widthBits, Nat.mul_comm]
theorem bfxE_lt {w a : Nat} (b : Nat) (ha : a < 2 ^ w) : bfxE w a b < 2 ^ w :=
  (Nat.mod_le _ _).trans_lt ((Nat.div_le_self _ _).trans_lt ha)

end Sys2Proof.Machine
end

section
/-!
PROOF. Integer arithmetic, shifts, bit counts and bit fields (R69 to R71): the elements of their tables.
-/
namespace Sys2Proof.Machine

/-! ## Passes that write the elements of D -/

section Lanes
variable {i : Instr} {rd : List DReg} {d : DReg} {n : Nat} {w : Width} {a b : Src} {rel : State → Nat → Nat → Nat → Prop}

/-- A lane pass whose operands do not fault retires and writes the value that it computes. -/
theorem exec_of_lanePass {s : State} {srcs : List Src} {val : Nat → Word} (hexec : exec i s = lanePass s i srcs d val)
    (hopen : closesClause i = false)
    (hclear : OperandsClear s (usesOf i).reads (usesOf i).creads (usesOf i).writes (usesOf i).cwrites) :
    exec i s = .next (retireWith s srcs false (writing s d val)) := by
  rw [hexec, lanePass_clear s i srcs d val hclear, hopen]
theorem givesElems_of_lanePass {srcs : List Src} (val : State → Nat → Word) (hexec : ∀ s, exec i s = lanePass s i srcs d (val s))
    (huses : usesOf i = usesD rd d) (hopen : closesClause i = false)
    (hval : ∀ s k j, j < 64 / n → rel s k j (elem (val s k) j n)) : GivesElems i rd srcs d n rel := fun s h =>
  ⟨val s, exec_of_lanePass (hexec s) hopen (by rw [huses]; exact h), fun k _ j => hval s k j⟩
theorem givesWord_of_lanePass {srcs : List Src} (val : State → Nat → Word) (hexec : ∀ s, exec i s = lanePass s i srcs d (val s))
    (huses : usesOf i = usesD rd d) (hopen : closesClause i = false) : GivesWord i rd srcs d val := fun s h =>
  exec_of_lanePass (hexec s) hopen (by rw [huses]; exact h)
theorem givesElems_lane1 {op : Nat → Nat → Nat} (hexec : ∀ s, exec i s = lane1Pass s i w a d op) (huses : usesOf i = usesD rd d)
    (hopen : closesClause i = false)
    (hval : ∀ s k j, rel s k j (op (widthBits w) (elem (srcV s a k) j (widthBits w)) % 2 ^ widthBits w)) :
    GivesElems i rd [a] d (widthBits w) rel :=
  givesElems_of_lanePass _ hexec huses hopen fun s k j hj => by
    rw [lane1, elem_lanes _ _ _ hj]
    exact hval s k j
theorem givesElems_lane2 {op : Nat → Nat → Nat → Nat} (hexec : ∀ s, exec i s = lane2Pass s i w b a d op)
    (huses : usesOf i = usesD rd d) (hopen : closesClause i = false)
    (hval : ∀ s k j, rel s k j (op (widthBits w) (elem (srcV s a k) j (widthBits w)) (elem (srcV s b k) j (widthBits w)) %
      2 ^ widthBits w)) :
    GivesElems i rd [a, b] d (widthBits w) rel :=
  givesElems_of_lanePass _ hexec huses hopen fun s k j hj => by
    rw [lane2, elem_lanes _ _ _ hj]
    exact hval s k j
theorem givesElems_lane3 {op : Nat → Nat → Nat → Nat → Nat} (hexec : ∀ s, exec i s = lane3Pass s i w b a d op)
    (huses : usesOf i = usesD rd d) (hopen : closesClause i = false)
    (hval : ∀ s k j, rel s k j (op (widthBits w) (elem (readD (cur s) d k) j (widthBits w)) (elem (srcV s a k) j (widthBits w))
      (elem (srcV s b k) j (widthBits w)) % 2 ^ widthBits w)) :
    GivesElems i rd [a, b] d (widthBits w) rel :=
  givesElems_of_lanePass _ hexec huses hopen fun s k j hj => by
    rw [lane3, elem_lanes _ _ _ hj]
    exact hval s k j
end Lanes

theorem widthBits_pos (w : Width) : 0 < widthBits w := by cases w <;> decide
/-- A count up to the width fits an element of the width. -/
theorem mod_of_le_widthBits {w : Width} {x : Nat} (h : x ≤ widthBits w) : x % 2 ^ widthBits w = x :=
  Nat.mod_eq_of_lt (h.trans_lt Nat.lt_two_pow_self)

/-! ## The tables -/

theorem integerArithmeticGivesTheElementsOfItsTables : Claims.IntegerArithmeticGivesTheElementsOfItsTables := by
  intro w b a d
  have hlt := fun (x : Word) (j : Nat) => elem_lt x j (widthBits w)
  refine ⟨?add, ?sub, ?mul, ?mulh, ?mad, ?min, ?max, ?minu, ?maxu, ?abs, ?neg⟩
  case add => exact givesElems_lane2 (fun _ => rfl) rfl rfl fun _ _ _ => ofNat_addE _ _ _
  case sub => exact givesElems_lane2 (fun _ => rfl) rfl rfl fun _ _ _ => ofNat_subE _ (hlt _ _)
  case mul => exact givesElems_lane2 (fun _ => rfl) rfl rfl fun _ _ _ => ofNat_mulE _ _ _
  case mulh =>
    exact givesElems_lane2 (fun _ => rfl) rfl rfl fun _ _ _ => by rw [mulhE, wrap_mod, ofNat_wrap, sx_elem, sx_elem]
  case mad => exact givesElems_lane3 (fun _ => rfl) rfl rfl fun _ _ _ => ofNat_madE _ _ _ _
  case min => exact givesElems_lane2 (fun _ => rfl) rfl rfl fun _ _ _ => ofNat_minE _ (hlt _ _) (hlt _ _)
  case max => exact givesElems_lane2 (fun _ => rfl) rfl rfl fun _ _ _ => ofNat_maxE _ (hlt _ _) (hlt _ _)
  case minu =>
    exact givesElems_lane2 (fun _ => rfl) rfl rfl fun _ _ _ => by
      rw [minuE_eq_min, ofNat_mod_two_pow, Nat.cast_min]; rfl
  case maxu =>
    exact givesElems_lane2 (fun _ => rfl) rfl rfl fun _ _ _ => by
      rw [maxuE_eq_max, ofNat_mod_two_pow, Nat.cast_max]; rfl
  case abs => exact givesElems_lane1 (fun _ => rfl) rfl rfl fun _ _ _ => ofNat_absE _ (hlt _ _)
  case neg => exact givesElems_lane1 (fun _ => rfl) rfl rfl fun _ _ _ => ofNat_negE _ (hlt _ _)

theorem shiftsGiveTheElementsOfTheirTable : Claims.ShiftsGiveTheElementsOfTheirTable := by
  intro w b a d n c
  refine ⟨?shl, ?shr, ?sar, ?rot⟩
  case shl =>
    exact givesElems_lane2 (fun _ => rfl) rfl rfl fun _ _ _ => by
      rw [shlE, Nat.mod_mod, ofNat_mod_two_pow]; push_cast; rfl
  case shr =>
    exact givesElems_lane2 (fun _ => rfl) rfl rfl fun _ _ _ => by
      rw [shrE, ofNat_mod_two_pow]; push_cast; rfl
  case sar =>
    exact givesElems_lane2 (fun _ => rfl) rfl rfl fun _ _ _ => by rw [sarE, wrap_mod, ofNat_wrap, sx_elem]
  case rot =>
    exact givesElems_lane2 (fun _ => rfl) rfl rfl fun _ _ _ i hi => by
      have hpos := widthBits_pos w
      rw [Nat.testBit_mod_two_pow, decide_eq_true (Nat.mod_lt _ hpos), Bool.true_and]
      exact testBit_rotl _ (elem_lt _ _ _) (Nat.mod_lt _ hpos) hi

theorem bitCountsGiveTheElementsOfTheirTable : Claims.BitCountsGiveTheElementsOfTheirTable := by
  intro w a d n x
  refine ⟨?clz, ?ctz, ?popc, ?brev⟩
  case clz =>
    exact givesElems_lane1 (fun _ => rfl) rfl rfl fun _ _ _ => by
      rw [mod_of_le_widthBits (clzN_le _ _), clzN_eq _ (elem_lt _ _ _)]
  case ctz =>
    exact givesElems_lane1 (fun _ => rfl) rfl rfl fun _ _ _ => by
      rw [mod_of_le_widthBits (ctzN_spec _ _).1]
      exact ctzN_spec _ _
  case popc =>
    exact givesElems_lane1 (fun _ => rfl) rfl rfl fun _ _ _ => by
      rw [mod_of_le_widthBits (popN_le _ _), popN_eq]
  case brev =>
    exact givesElems_lane1 (fun _ => rfl) rfl rfl fun _ _ _ i hi => by
      rw [Nat.mod_eq_of_lt (revN_lt _ _)]
      exact testBit_revN _ _ hi

/-- Settles O1: the value of each operation on one sub-element, under the pass that applies it to every sub-element. -/
theorem integerInstructionsGiveTheElementsOfTheirTables : Obligations.IntegerInstructionsGiveTheElementsOfTheirTables :=
  ⟨integerArithmeticGivesTheElementsOfItsTables, shiftsGiveTheElementsOfTheirTable, bitCountsGiveTheElementsOfTheirTable⟩

/-- Settles O2: a bit field is a quotient and a remainder, and its insertion replaces the bits of its places. -/
theorem bitFieldsGiveTheElementsOfR71 : Obligations.BitFieldsGiveTheElementsOfR71 := by
  intro w b a d n pos len
  refine ⟨?bfxWord, ?bfiWord, ?bfx, ?bfi⟩
  case bfxWord => simp only [encode, Option.some.injEq, Prod.mk.injEq, true_and]; ring
  case bfiWord => simp only [encode, Option.some.injEq, Prod.mk.injEq, true_and]; ring
  case bfx =>
    exact givesElems_lane2 (fun _ => rfl) rfl rfl fun _ _ _ => by
      rw [Nat.mod_eq_of_lt (bfxE_lt _ (elem_lt _ _ _)), bfxE, fieldOf_widthBits]
  case bfi =>
    exact givesElems_lane3 (fun _ => rfl) rfl rfl fun _ _ _ i hi => by
      rw [Nat.testBit_mod_two_pow, decide_eq_true hi, Bool.true_and, bfiE, fieldOf_widthBits, testBit_putBits]

end Sys2Proof.Machine
end

section
/-!
PROOF. Logic, constants, moves, selections and width conversions (R72 to R77, R140).
-/
namespace Sys2Proof.Machine

/-! ## Replaced fields and elements above (R53, R54) -/

theorem testBit_elem (x : Word) (j w i : Nat) : (elem x j w).testBit i = (decide (i < w) && x.getLsbD (w * j + i)) := by
  rw [elem, Nat.testBit_mod_two_pow, Nat.testBit_div_two_pow, Nat.add_comm, BitVec.getLsbD]
/-- A replaced sub-element, and the others as before. -/
theorem elem_putWord (x : Word) {q j w v : Nat} (hq : w * q + w ≤ 64) (hj : w * j + w ≤ 64) :
    elem (putWord x (w * q) w v) j w = if j = q then v % 2 ^ w else elem x j w := by
  refine Nat.eq_of_testBit_eq fun i => ?_
  rw [testBit_elem, putWord, BitVec.getLsbD_ofNat, testBit_putBits]
  rcases Nat.lt_or_ge i w with hi | hi
  · have h64 : w * j + i < 64 := by omega
    rcases eq_or_ne j q with rfl | hne
    · have hin : w * j ≤ w * j + i ∧ w * j + i < w * j + w := by omega
      rw [if_pos hin, if_pos rfl, Nat.testBit_mod_two_pow, Nat.add_sub_cancel_left, decide_eq_true h64, Bool.true_and]
    · have hout : ¬(w * q ≤ w * j + i ∧ w * j + i < w * q + w) := by
        rcases Nat.lt_or_gt_of_ne hne with h | h
        · have : w * (j + 1) ≤ w * q := Nat.mul_le_mul_left w h
          rw [Nat.mul_succ] at this
          omega
        · have : w * (q + 1) ≤ w * j := Nat.mul_le_mul_left w h
          rw [Nat.mul_succ] at this
          omega
      rw [if_neg hout, if_neg hne, testBit_elem, decide_eq_true h64, Bool.true_and, BitVec.getLsbD]
  · rw [decide_eq_false (Nat.not_lt.mpr hi), Bool.false_and]
    split
    · rw [Nat.testBit_mod_two_pow, decide_eq_false (Nat.not_lt.mpr hi), Bool.false_and]
    · rw [testBit_elem, decide_eq_false (Nat.not_lt.mpr hi), Bool.false_and]
/-- Above the elements that a register is made of, it holds 0. -/
theorem elem_ofElems_above (n w : Nat) (f : Nat → Nat) {j : Nat} (hj : n ≤ j) : elem (ofElems n w f) j w = 0 := by
  have hsum := sumElems_lt w f n
  have hpow : 2 ^ (w * n) ≤ 2 ^ (w * j) := Nat.pow_le_pow_right (by norm_num) (Nat.mul_le_mul_left w hj)
  rw [elem, ofElems, BitVec.toNat_ofNat, Nat.div_eq_of_lt, Nat.zero_mod]
  exact (Nat.mod_le _ _).trans_lt (hsum.trans_le hpow)
theorem elem_ofElems_ite (n w : Nat) (f : Nat → Nat) (j : Nat) (hw : w * n ≤ 64) :
    elem (ofElems n w f) j w = if j < n then f j % 2 ^ w else 0 := by
  split
  · exact elem_ofElems n w f j ‹_› hw
  · exact elem_ofElems_above n w f (Nat.not_lt.mp ‹_›)

/-! ## The values -/

/-- The element of a constant move to position q (R76). -/
theorem elem_lihW {q j : Nat} (imm : BitVec 16) (x : Word) (hq : q < 4) (hj : j < 64 / 16) :
    elem (lihW q imm x) j 16 = if j = q then imm.toNat else elem x j 16 := by
  rw [lihW, elem_putWord x (by omega) (by omega), Nat.mod_eq_of_lt imm.isLt]
theorem elem_permW (x y : Word) {j : Nat} (hj : j < 64 / 8) :
    elem (permW x y) j 8 = if 128 ≤ elem y j 8 then 0 else elem x (elem y j 8 % 8) 8 := by
  have hlt := elem_lt y j 8
  have htop : elem y j 8 / 128 % 2 = 1 ↔ 128 ≤ elem y j 8 := by omega
  rw [permW, elem_lanes _ _ _ hj]
  simp only [htop]
  split
  · rfl
  · exact elem_mod _ _ _
theorem elem_selW (w : Width) (p : BitVec 8) (x y : Word) {j : Nat} (hj : j < 64 / widthBits w) :
    elem (selW w p x y) j (widthBits w) = if p.getLsbD j then elem x j (widthBits w) else elem y j (widthBits w) := by
  rw [selW, elem_lanes _ _ _ hj]
  split <;> exact elem_mod _ _ _
/-- What `cvt.i` narrows: the element, or the bound that it saturates to (R74). -/
def cvtIValue (u sat : Bool) (d s : Nat) (x : Word) (j : Nat) : Int :=
  let e := if u then ue s x j else se s x j
  if sat ∧ d < s then
    (if u then min (max e 0) (2 ^ d - 1) else min (max e (-(2 ^ (d - 1)))) (2 ^ (d - 1) - 1))
  else e
theorem elem_cvtIW (u sat : Bool) (wd ws : Width) (x : Word) (j : Nat) :
    elem (cvtIW u sat wd ws x) j (widthBits wd) =
      if j < 64 / max (widthBits wd) (widthBits ws) then wrap (widthBits wd) (cvtIValue u sat (widthBits wd) (widthBits ws) x j)
      else 0 := by
  have hw : widthBits wd * (64 / max (widthBits wd) (widthBits ws)) ≤ 64 :=
    (Nat.mul_le_mul_right _ (le_max_left _ _)).trans (Nat.mul_div_le _ _)
  rw [cvtIW, elem_ofElems_ite _ _ _ _ hw]
  simp only [wrap_mod, sx_elem, cvtIValue]
  cases u <;> simp [ue]
theorem widthBits_half {w : Width} (h : w ≠ .b) :
    widthBits w / 2 * (2 * (64 / widthBits w)) = 64 ∧ 64 / (widthBits w / 2) = 2 * (64 / widthBits w) := by
  cases w
  case b => exact absurd rfl h
  all_goals decide
theorem elem_packW {w : Width} (hw : w ≠ .b) (x y : Word) {j : Nat} (hj : j < 64 / (widthBits w / 2)) :
    elem (packW w x y) j (widthBits w / 2) = if j < 64 / widthBits w then elem x j (widthBits w) % 2 ^ (widthBits w / 2)
      else elem y (j - 64 / widthBits w) (widthBits w) % 2 ^ (widthBits w / 2) := by
  obtain ⟨hfit, hcount⟩ := widthBits_half hw
  rw [packW, elem_ofElems _ _ _ _ (hcount ▸ hj) hfit.le]
  split <;> rfl
theorem elem_unpackW {w : Width} (h : Bool) (x : Word) {j : Nat} (hj : j < 64 / widthBits w) :
    Int.ofNat (elem (unpackW w h x) j (widthBits w)) =
      se (widthBits w / 2) x (j + if h then 64 / widthBits w else 0) % 2 ^ widthBits w := by
  rw [unpackW, elem_ofElems _ _ _ _ hj (Nat.mul_div_le _ _), wrap_mod, ofNat_wrap, sx_elem]
  cases h <;> simp

/-! ## The claims -/

/-- A constant move to position q gives the constant there and leaves the other positions. -/
theorem givesElems_lihW {q : Nat} {i : Instr} {imm : BitVec 16} {d : DReg} (hq : q < 4)
    (hexec : ∀ s, exec i s = lanePass s i [] d fun k => lihW q imm (readD (cur s) d k)) (huses : usesOf i = usesD [d] d)
    (hopen : closesClause i = false) :
    GivesElems i [d] [] d 16 (fun s k j r => r = if j = q then imm.toNat else elem (readD (cur s) d k) j 16) :=
  givesElems_of_lanePass _ hexec huses hopen fun _ _ _ hj => elem_lihW imm _ hq hj

theorem logicAndConstantsGiveTheirValues : Claims.LogicAndConstantsGiveTheirValues := by
  intro w b a d imm imm10
  refine ⟨?and, ?or, ?xor, ?andn, ?not, ?perm, ?li, ?lih0, ?lih1, ?lih2, ?lih3, ?addi⟩
  case and | or | xor | andn | not | li => exact givesWord_of_lanePass _ (fun _ => rfl) rfl rfl
  case perm => exact givesElems_of_lanePass _ (fun _ => rfl) rfl rfl fun _ _ _ hj => elem_permW _ _ hj
  case lih0 => exact givesElems_lihW (q := 0) (by decide) (fun _ => rfl) rfl rfl
  case lih1 => exact givesElems_lihW (q := 1) (by decide) (fun _ => rfl) rfl rfl
  case lih2 => exact givesElems_lihW (q := 2) (by decide) (fun _ => rfl) rfl rfl
  case lih3 => exact givesElems_lihW (q := 3) (by decide) (fun _ => rfl) rfl rfl
  case addi =>
    refine givesElems_lane1 (fun _ => rfl) rfl rfl fun _ _ _ => ?_
    have hwrap : (wrap (widthBits w) imm10.toInt : Int) = imm10.toInt % 2 ^ widthBits w := ofNat_wrap _ _
    rw [ofNat_addE, hwrap, Int.add_emod, Int.emod_emod, ← Int.add_emod]
    rfl

theorem any_range (n : Nat) (f : Nat → Bool) : (List.range n).any f = decide (∃ j, j < n ∧ f j = true) := by
  rw [Bool.eq_iff_iff]
  simp
/-- The poison of a selection: that of A where A supplies a sub-element, else that of B where B supplies one (R140). -/
theorem selPoison_of_a {s : State} {p : BitVec 8} {w : Width} {b : DReg} {a : Src} {k c : Nat}
    (hc : poisonD (cur s) a.reg k = some c) (hsel : ∃ j, j < 64 / widthBits w ∧ p.getLsbD j = true) :
    selPoison s p w b a k = some c := by
  rw [selPoison, any_range, hc, decide_eq_true hsel]
theorem selPoison_of_not_a {s : State} {p : BitVec 8} {w : Width} {b : DReg} {a : Src} {k : Nat}
    (h : poisonD (cur s) a.reg k = none ∨ ∀ j, j < 64 / widthBits w → p.getLsbD j = false) :
    selPoison s p w b a k =
      if ∃ j, j < 64 / widthBits w ∧ p.getLsbD j = false then poisonD (cur s) b k else none := by
  rw [selPoison, any_range, any_range]
  simp only [Bool.not_eq_true', decide_eq_true_eq]
  rcases h with h | h
  · rw [h]
  · have hnone : ¬∃ j, j < 64 / widthBits w ∧ p.getLsbD j = true := by
      rintro ⟨j, hj, hb⟩
      exact absurd hb (by simp [h j hj])
    rw [decide_eq_false hnone]
    cases poisonD (cur s) a.reg k <;> rfl
theorem movesAndSelectionsCarryValueAndPoison : Claims.MovesAndSelectionsCarryValueAndPoison := by
  intro w p b a d s h
  refine ⟨benchPass_clear s (.mov a d) [a] _ h, _, fun k => selPoison s (readP (cur s) p k) w b a k,
    benchPass_clear s (.sel p w b a d) [a] _ h, fun k _ => ⟨fun j hj => elem_selW w _ _ _ hj, ?_, ?_⟩⟩
  · exact fun c hc hsel => selPoison_of_a hc hsel
  · exact fun hnot => selPoison_of_not_a hnot

theorem widthConversionsGiveTheElementsOfR74R75 : Claims.WidthConversionsGiveTheElementsOfR74R75 := by
  intro u sat h wd ws b a d
  refine ⟨?cvt, fun hs => ?pack, fun _ => ?unpack⟩
  case cvt =>
    refine givesElems_of_lanePass _ (fun _ => rfl) rfl rfl fun s k j _ => ?_
    rw [elem_cvtIW]
    split
    · exact ofNat_wrap _ _
    · rfl
  case pack => exact givesElems_of_lanePass _ (fun _ => rfl) rfl rfl fun _ _ _ hj => elem_packW hs _ _ hj
  case unpack => exact givesElems_of_lanePass _ (fun _ => rfl) rfl rfl fun _ _ _ hj => elem_unpackW h _ hj

/-- Settles O3: the elements of each value, and the poison that a selection carries onward. -/
theorem logicMovesAndConversionsGiveTheirValues : Obligations.LogicMovesAndConversionsGiveTheirValues :=
  ⟨logicAndConstantsGiveTheirValues, movesAndSelectionsCarryValueAndPoison, widthConversionsGiveTheElementsOfR74R75⟩

end Sys2Proof.Machine
end

section
/-!
PROOF. Exact values of floats (R58, R62): their sums, products, order and equality as rational numbers.
-/
namespace Sys2Proof.Machine

/-! ## The rational number of a finite value -/

/-- (−1)^neg · man · 2^exp (R58). -/
def dyadic (neg : Bool) (man : Nat) (exp : Int) : ℚ := (if neg then -1 else 1) * (man : ℚ) * (2 : ℚ) ^ exp

@[simp] theorem ratOf_fin (neg : Bool) (m : Nat) (e : Int) :
    ratOf (.fin neg m e) = ((dyadic neg m e : WithTop ℚ) : WithBot (WithTop ℚ)) := rfl
@[simp] theorem ratOf_inf_neg : ratOf (.inf true) = ⊥ := rfl
@[simp] theorem ratOf_inf_pos : ratOf (.inf false) = ((⊤ : WithTop ℚ) : WithBot (WithTop ℚ)) := rfl
theorem dyadic_not (neg : Bool) (m : Nat) (e : Int) : dyadic (!neg) m e = -dyadic neg m e := by
  cases neg <;> simp [dyadic]
theorem dyadic_mul (s t : Bool) (m n : Nat) (e g : Int) : dyadic (s != t) (m * n) (e + g) = dyadic s m e * dyadic t n g := by
  have h2 : (2 : ℚ) ^ (e + g) = 2 ^ e * 2 ^ g := zpow_add₀ two_ne_zero e g
  cases s <;> cases t <;> simp [dyadic, h2] <;> ring
@[simp] theorem dyadic_zero (neg : Bool) (e : Int) : dyadic neg 0 e = 0 := by simp [dyadic]
/-- A signed mantissa, read as sign and magnitude. -/
theorem dyadic_natAbs (x : Int) (q : Int) : dyadic (decide (x < 0)) x.natAbs q = x * (2 : ℚ) ^ q := by
  rcases lt_or_ge x 0 with h | h
  · have hx : ((x.natAbs : ℤ) : ℚ) = -x := by rw [Int.ofNat_natAbs_of_nonpos h.le]; push_cast; rfl
    rw [Int.cast_natCast] at hx
    simp [dyadic, h, hx]
  · have hx : ((x.natAbs : ℤ) : ℚ) = x := by rw [Int.natAbs_of_nonneg h]
    rw [Int.cast_natCast] at hx
    simp [dyadic, h.not_gt, hx]
theorem fixedAt_mul_pow (neg : Bool) (m : Nat) {e q : Int} (h : q ≤ e) :
    (fixedAt neg m e q : ℚ) * 2 ^ q = dyadic neg m e := by
  have hpow : (2 : ℚ) ^ (e - q).toNat * 2 ^ q = 2 ^ e := by
    rw [← zpow_natCast, Int.toNat_of_nonneg (by omega), ← zpow_add₀ two_ne_zero, sub_add_cancel]
  have hx : ((m * 2 ^ (e - q).toNat : Nat) : ℚ) * 2 ^ q = m * 2 ^ e := by
    rw [Nat.cast_mul, Nat.cast_pow, Nat.cast_ofNat, mul_assoc, hpow]
  cases neg
  · simpa [fixedAt, dyadic] using hx
  · simpa [fixedAt, dyadic] using hx

/-! ## Sums, products and signs (R62) -/

theorem eq_fin_of_ratOf {x : FVal} {p : ℚ} (h : ratOf x = ((p : WithTop ℚ) : WithBot (WithTop ℚ))) :
    ∃ s m e, x = .fin s m e ∧ dyadic s m e = p := by
  match x, h with
  | .nan, h => cases h
  | .inf true, h => cases h
  | .inf false, h => simp at h
  | .fin s m e, h => exact ⟨s, m, e, rfl, by simpa using h⟩
theorem ratOf_faddV_fin (rdn s t : Bool) (m n : Nat) (e g : Int) :
    ratOf (faddV rdn (.fin s m e) (.fin t n g)) = (((dyadic s m e + dyadic t n g : ℚ) : WithTop ℚ) : WithBot (WithTop ℚ)) := by
  have hsum : ((fixedAt s m e (min e g) + fixedAt t n g (min e g) : Int) : ℚ) * 2 ^ min e g = dyadic s m e + dyadic t n g := by
    rw [Int.cast_add, add_mul, fixedAt_mul_pow s m (min_le_left e g), fixedAt_mul_pow t n (min_le_right e g)]
  rw [← hsum, faddV]
  split
  case isTrue h => rw [h, ratOf_fin, dyadic_zero, Int.cast_zero, zero_mul]
  case isFalse => rw [ratOf_fin, dyadic_natAbs]
theorem sumsAndProductsOfFiniteValuesAreExact : Claims.SumsAndProductsOfFiniteValuesAreExact := by
  intro x y p q hx hy
  obtain ⟨s, m, e, rfl, rfl⟩ := eq_fin_of_ratOf hx
  obtain ⟨t, n, g, rfl, rfl⟩ := eq_fin_of_ratOf hy
  refine ⟨ratOf_faddV_fin _ _ _ _ _ _ _, ?_, ?_⟩
  · rw [fmulV, ratOf_fin, dyadic_mul]
  · rw [fnegV, ratOf_fin, dyadic_not]

/-! ## Order and equality (R79) -/

theorem fixedAt_lt_iff (s t : Bool) (m n : Nat) (e g : Int) :
    fixedAt s m e (min e g) < fixedAt t n g (min e g) ↔ dyadic s m e < dyadic t n g := by
  rw [← fixedAt_mul_pow s m (min_le_left e g), ← fixedAt_mul_pow t n (min_le_right e g),
    mul_lt_mul_iff_left₀ (by positivity), Int.cast_lt]
theorem fixedAt_eq_iff (s t : Bool) (m n : Nat) (e g : Int) :
    fixedAt s m e (min e g) = fixedAt t n g (min e g) ↔ dyadic s m e = dyadic t n g := by
  rw [← fixedAt_mul_pow s m (min_le_left e g), ← fixedAt_mul_pow t n (min_le_right e g),
    mul_left_inj' (by positivity), Int.cast_inj]
theorem fltV_iff {x y : FVal} (hx : x ≠ .nan) (hy : y ≠ .nan) : fltV x y = true ↔ ratOf x < ratOf y := by
  match x, y with
  | .nan, _ => exact absurd rfl hx
  | _, .nan => exact absurd rfl hy
  | .inf true, .inf true => simp [fltV]
  | .inf true, .inf false => simp [fltV]
  | .inf true, .fin _ _ _ => simp [fltV]
  | .inf false, .inf true => simp [fltV]
  | .inf false, .inf false => simp [fltV]
  | .inf false, .fin _ _ _ => simp [fltV]
  | .fin _ _ _, .inf true => simp [fltV]
  | .fin _ _ _, .inf false => exact iff_of_true rfl (WithBot.coe_lt_coe.mpr (WithTop.coe_lt_top _))
  | .fin s m e, .fin t n g => simp [fltV, fixedAt_lt_iff]
theorem feqV_iff {x y : FVal} (hx : x ≠ .nan) (hy : y ≠ .nan) : feqV x y = true ↔ ratOf x = ratOf y := by
  match x, y with
  | .nan, _ => exact absurd rfl hx
  | _, .nan => exact absurd rfl hy
  | .inf s, .inf t => cases s <;> cases t <;> simp [feqV]
  | .inf s, .fin _ _ _ => cases s <;> simp [feqV]
  | .fin _ _ _, .inf t => cases t <;> simp [feqV]
  | .fin s m e, .fin t n g => simp [feqV, fixedAt_eq_iff]
/-- A comparison of two elements is the condition on their values; a NaN is unordered (R79). -/
theorem fcmp1_iff (c : FCond) (f : FFmt) (x y : Nat) : fcmp1 c f x y = true ↔ holdsF c (fdecode f x) (fdecode f y) := by
  by_cases hx : fdecode f x = .nan
  · cases c <;> simp [fcmp1, holdsF, hx]
  by_cases hy : fdecode f y = .nan
  · cases c <;> simp [fcmp1, holdsF, hy]
  have hlt := fltV_iff hx hy
  have hgt := fltV_iff hy hx
  have heq := feqV_iff hx hy
  have hle : ratOf (fdecode f x) ≤ ratOf (fdecode f y) ↔ _ := le_iff_lt_or_eq
  have hge : ratOf (fdecode f y) ≤ ratOf (fdecode f x) ↔ _ := le_iff_lt_or_eq.trans (or_congr_right eq_comm)
  cases c <;> simp [fcmp1, holdsF, hx, hy, hlt, hgt, heq, hle, hge, ← Bool.not_eq_true]

end Sys2Proof.Machine
end

section
/-!
PROOF. Comparisons and predicate instructions (R54, R78 to R80).
-/
namespace Sys2Proof.Machine

theorem getLsbD_predOf (n : Nat) (f : Nat → Bool) {j : Nat} (hj : j < 8) : (predOf n f).getLsbD j = (decide (j < n) && f j) := by
  rw [predOf, BitVec.getLsbD_ofNat, testBit_sumBits, decide_eq_true hj, Bool.true_and]
theorem condE_iff (c : ICond) {w x y : Nat} (hx : x < 2 ^ w) (hy : y < 2 ^ w) : condE c w x y = true ↔ holdsI c w x y := by
  cases c <;> simp [condE, holdsI, sx_eq_signedOf hx, sx_eq_signedOf hy]
theorem wrap_eq (w : Nat) (x : Int) : wrap w x = (x % 2 ^ w).toNat := by
  rw [← ofNat_wrap]
  rfl
/-- A comparison pass that does not fault sets the bits of its predicate values. -/
theorem setsBits_of_predPass {s : State} {i : Instr} {srcs : List Src} {p : PReg} {val : Nat → BitVec 8} {n : Nat}
    {holds : Nat → Nat → Prop} (hexec : exec i s = predPass s i srcs p val) (hopen : closesClause i = false)
    (hclear : OperandsClear s (usesOf i).reads (usesOf i).creads (usesOf i).writes (usesOf i).cwrites)
    (hbits : ∀ k j, j < 8 → ((val k).getLsbD j = true ↔ j < n ∧ holds k j)) :
    ∃ v : Nat → BitVec 8, exec i s = .next (retireWith s srcs false (setting s p v)) ∧
      ∀ k ∈ issued s, ∀ j, j < 8 → ((v k).getLsbD j = true ↔ j < n ∧ holds k j) := by
  refine ⟨val, ?_, fun k _ j => hbits k j⟩
  rw [hexec, predPass_clear s i srcs p val hclear, hopen]
theorem operandsClear_none (s : State) : OperandsClear s [] [] [] [] := by
  refine ⟨fun k _ => ⟨fun r hr => absurd hr List.not_mem_nil, fun c hc => absurd hc List.not_mem_nil⟩, ?_⟩
  simp [rowFault?, newRows]

/-- Settles O4: the bits of each comparison, by the laws of the conditions on integers and on exact values. -/
theorem comparisonsSetThePredicateBitsOfTheirRules : Obligations.ComparisonsSetThePredicateBitsOfTheirRules := by
  intro c fc w f b a i p q r s
  refine ⟨fun h => ?cmp, fun h => ?cmpi, fun h => ?fcmp, ?pand, ?por, ?pxor, ?pnot⟩
  case cmp =>
    refine setsBits_of_predPass rfl rfl h fun k j hj => ?_
    rw [cmpP, getLsbD_predOf _ _ hj, Bool.and_eq_true, decide_eq_true_eq, condE_iff c (elem_lt _ _ _) (elem_lt _ _ _)]
  case cmpi =>
    refine setsBits_of_predPass rfl rfl h fun k j hj => ?_
    rw [cmpiP, getLsbD_predOf _ _ hj, Bool.and_eq_true, decide_eq_true_eq, condE_iff c (elem_lt _ _ _) (wrap_lt _ _), wrap_eq]
  case fcmp =>
    refine setsBits_of_predPass rfl rfl h fun k j hj => ?_
    rw [fcmpP, getLsbD_predOf _ _ hj, Bool.and_eq_true, decide_eq_true_eq, fcmp1_iff]
  case pand => exact ⟨_, predPass_clear s (.pand r q p) [] p _ (operandsClear_none s), fun _ _ => rfl⟩
  case por => exact ⟨_, predPass_clear s (.por r q p) [] p _ (operandsClear_none s), fun _ _ => rfl⟩
  case pxor => exact ⟨_, predPass_clear s (.pxor r q p) [] p _ (operandsClear_none s), fun _ _ => rfl⟩
  case pnot => exact ⟨_, predPass_clear s (.pnot q p) [] p _ (operandsClear_none s), fun _ _ => rfl⟩

end Sys2Proof.Machine
end

section
/-!
PROOF. Roundings to an integer and to a format, stochastic draws, and the special cases of the special functions (R62 to R65, R84, R85).
-/
namespace Sys2Proof.Machine

/-! ## Rounding a magnitude to an integer (R63) -/

theorem roundIntMag_of_nonneg (m : RMode) (neg : Bool) (man : Nat) {exp : Int} (h : 0 ≤ exp) :
    roundIntMag m neg man exp = man * 2 ^ exp.toNat := if_pos h
theorem roundIntMag_of_neg (m : RMode) (neg : Bool) (man : Nat) {exp : Int} (h : ¬0 ≤ exp) :
    roundIntMag m neg man exp = man / 2 ^ (-exp).toNat +
      (roundsUp m neg (man / 2 ^ (-exp).toNat) (man % 2 ^ (-exp).toNat) (2 ^ (-exp).toNat)).toNat := if_neg h
theorem mul_zpow_of_nonneg (man : Nat) {exp : Int} (h : 0 ≤ exp) : (man : ℚ) * 2 ^ exp = (man * 2 ^ exp.toNat : Nat) := by
  rw [Nat.cast_mul, Nat.cast_pow, Nat.cast_ofNat, ← zpow_natCast, Int.toNat_of_nonneg h]
theorem mul_zpow_of_neg (man : Nat) {exp : Int} (h : ¬0 ≤ exp) :
    (man : ℚ) * 2 ^ exp = (man : ℚ) / (2 ^ (-exp).toNat : Nat) := by
  rw [Nat.cast_pow, Nat.cast_ofNat, ← zpow_natCast, Int.toNat_of_nonneg (by omega), div_eq_mul_inv, ← zpow_neg, neg_neg]
theorem ceil_div_eq (man : Nat) {den : Nat} (hden : 0 < den) :
    ⌈(man : ℚ) / den⌉₊ = man / den + (decide (0 < man % den)).toNat := by
  have hpos : (0 : ℚ) < den := Nat.cast_pos.mpr hden
  have hdiv := Nat.div_add_mod man den
  have hmod := Nat.mod_lt man hden
  rcases Nat.eq_zero_or_pos (man % den) with h | h
  · have hman : (man : ℚ) / den = (man / den : Nat) := by
      rw [div_eq_iff hpos.ne', ← Nat.cast_mul, Nat.cast_inj, Nat.mul_comm]
      omega
    rw [hman, Nat.ceil_natCast, h]
    rfl
  · rw [decide_eq_true h, Bool.toNat_true, Nat.ceil_eq_iff (Nat.add_one_ne_zero _), Nat.add_sub_cancel, lt_div_iff₀ hpos, div_le_iff₀ hpos,
      ← Nat.cast_mul, ← Nat.cast_mul, Nat.cast_lt, Nat.cast_le, Nat.add_mul, Nat.mul_comm]
    constructor <;> omega
/-- Rounding a quotient to nearest is off by at most a half, and a tie goes to the even neighbour. -/
theorem rne_div (neg : Bool) (man : Nat) {den : Nat} (hden : 0 < den) :
    |((man / den + (roundsUp .rne neg (man / den) (man % den) den).toNat : Nat) : ℚ) - man / den| ≤ 1 / 2 ∧
      (|((man / den + (roundsUp .rne neg (man / den) (man % den) den).toNat : Nat) : ℚ) - man / den| = 1 / 2 →
        (man / den + (roundsUp .rne neg (man / den) (man % den) den).toNat) % 2 = 0) := by
  have hpos : (0 : ℚ) < den := Nat.cast_pos.mpr hden
  have hman : (man : ℚ) / den = (man / den : Nat) + ((man % den : Nat) : ℚ) / den := by
    rw [div_eq_iff hpos.ne', add_mul, div_mul_cancel₀ _ hpos.ne']
    exact_mod_cast (Nat.div_add_mod' man den).symm
  have hlt : ((man % den : Nat) : ℚ) / den < 1 := (div_lt_one hpos).mpr (Nat.cast_lt.mpr (Nat.mod_lt man hden))
  have hnonneg : 0 ≤ ((man % den : Nat) : ℚ) / den := by positivity
  rw [hman]
  rcases lt_trichotomy (2 * (man % den)) den with h | h | h
  · have hhalf : ((man % den : Nat) : ℚ) / den < 1 / 2 := by
      rw [div_lt_iff₀ hpos]
      have : (2 * (man % den : Nat) : ℚ) < den := by exact_mod_cast h
      linarith
    have hdown : roundsUp .rne neg (man / den) (man % den) den = false := by simp [roundsUp, h.le, h.ne]
    rw [hdown, Bool.toNat_false, Nat.add_zero, abs_sub_comm, add_sub_cancel_left, abs_of_nonneg hnonneg]
    exact ⟨hhalf.le, fun he => absurd he hhalf.ne⟩
  · have hhalf : ((man % den : Nat) : ℚ) / den = 1 / 2 := by
      rw [div_eq_iff hpos.ne']
      have : (2 * (man % den : Nat) : ℚ) = den := by exact_mod_cast h
      linarith
    have htie : roundsUp .rne neg (man / den) (man % den) den = (man / den % 2 == 1) := by simp [roundsUp, h]
    rw [htie, hhalf]
    rcases Nat.mod_two_eq_zero_or_one (man / den) with h2 | h2
    · simp [h2, abs_of_pos]
    · have hround : |((man / den + 1 : Nat) : ℚ) - ((man / den : Nat) + 1 / 2)| = 1 / 2 := by
        rw [Nat.cast_add, add_sub_add_left_eq_sub]
        norm_num
      have hodd : (man / den % 2 == 1).toNat = 1 := by rw [h2]; rfl
      rw [hodd]
      exact ⟨hround.le, fun _ => by omega⟩
  · have hhalf : 1 / 2 < ((man % den : Nat) : ℚ) / den := by
      rw [lt_div_iff₀ hpos]
      have : (den : ℚ) < 2 * (man % den : Nat) := by exact_mod_cast h
      linarith
    have hup : roundsUp .rne neg (man / den) (man % den) den = true := by simp [roundsUp, h]
    rw [hup, Bool.toNat_true, Nat.cast_add, add_sub_add_left_eq_sub, Nat.cast_one, abs_of_pos (by linarith)]
    exact ⟨by linarith, fun he => absurd he (by linarith)⟩

/-- R63, R65, R84: the rounded magnitude by each mode. -/
theorem roundIntMag_spec (neg : Bool) (man : Nat) (exp : Int) :
    let q : ℚ := man * (2 : ℚ) ^ exp
    roundIntMag .rtz neg man exp = ⌊q⌋₊ ∧
      roundIntMag .rup neg man exp = (if neg then ⌊q⌋₊ else ⌈q⌉₊) ∧
      roundIntMag .rdn neg man exp = (if neg then ⌈q⌉₊ else ⌊q⌋₊) ∧
      |(roundIntMag .rne neg man exp : ℚ) - q| ≤ 1 / 2 ∧
      (|(roundIntMag .rne neg man exp : ℚ) - q| = 1 / 2 → roundIntMag .rne neg man exp % 2 = 0) := by
  intro q
  by_cases h : 0 ≤ exp
  · have hq : q = (man * 2 ^ exp.toNat : Nat) := mul_zpow_of_nonneg man h
    simp only [roundIntMag_of_nonneg _ neg man h, hq, Nat.floor_natCast, Nat.ceil_natCast, ite_self, sub_self, abs_zero]
    norm_num
  · have hden : 0 < 2 ^ (-exp).toNat := by positivity
    have hq : q = (man : ℚ) / (2 ^ (-exp).toNat : Nat) := mul_zpow_of_neg man h
    simp only [roundIntMag_of_neg _ neg man h, hq, Nat.floor_div_eq_div, ceil_div_eq man hden]
    refine ⟨rfl, ?_, ?_, rne_div neg man hden⟩
    · cases neg <;> simp [roundsUp]
    · cases neg <;> simp [roundsUp]

theorem elem_fcvtW (r : Rnd) (dst src : CFmt) (seed step x : Word) (k : Nat) {j : Nat}
    (hj : j < min (64 / cfmtBits src) (64 / cfmtBits dst)) :
    elem (fcvtW dst src r seed step k x) j (cfmtBits dst) =
      fcvt1 dst src (rmodeOf r (philoxWord seed step k j)) (elem x j (cfmtBits src)) % 2 ^ cfmtBits dst := by
  have hcount : j < 64 / max (cfmtBits dst) (cfmtBits src) := by
    rcases le_total (cfmtBits dst) (cfmtBits src) with h | h
    · rw [max_eq_right h]; exact hj.trans_le (min_le_left _ _)
    · rw [max_eq_left h]; exact hj.trans_le (min_le_right _ _)
  exact elem_ofElems _ _ _ _ hcount ((Nat.mul_le_mul_right _ (le_max_left _ _)).trans (Nat.mul_div_le _ _))
theorem conversionsRoundByTheirMode : Claims.ConversionsRoundByTheirMode :=
  ⟨roundIntMag_spec, fun r dst src seed step x k _ hj => elem_fcvtW r dst src seed step x k hj⟩

/-! ## Special cases (R85) -/

theorem specialFunctionsOfNaN {x : Nat} (h : fdecode fmt32 x = .nan) :
    [frcp32 x, frsq32 x, fsqrt32 x, fexp232 x, flog232 x, fsin32 x, fcos32 x, ftanh32 x] = List.replicate 8 0x7FC00000 := by
  simp only [frcp32, frsq32, fsqrt32, fexp232, flog232, fsin32, fcos32, ftanh32, h]
  rfl
theorem specialFunctionsGiveTheStatedSpecialCases : Claims.SpecialFunctionsGiveTheStatedSpecialCases :=
  ⟨by decide, by decide, by decide, by decide, by decide, by decide, by decide, by decide, fun _ => specialFunctionsOfNaN⟩

/-- Settles O6: exact values, the roundings to an integer, and the special cases. -/
theorem floatValuesAreExactAndRounded : Obligations.FloatValuesAreExactAndRounded :=
  ⟨sumsAndProductsOfFiniteValuesAreExact, conversionsRoundByTheirMode, specialFunctionsGiveTheStatedSpecialCases⟩

end Sys2Proof.Machine
end

section
/-!
PROOF. The elements of the float formats (R57, R61 to R64): their widths, and what a rounding to them gives.
-/
namespace Sys2Proof.Machine

/-! ## Patterns of a format (R57) -/

theorem fsigned_lt (f : FFmt) (neg : Bool) {mag : Nat} (h : mag < 2 ^ (f.ebits + f.fbits)) : fsigned f neg mag < 2 ^ fmtWidth f := by
  have hw : 2 ^ fmtWidth f = 2 * 2 ^ (f.ebits + f.fbits) := by rw [fmtWidth, Nat.add_assoc, Nat.add_comm, pow_succ, Nat.mul_comm]
  rw [fsigned, hw]
  cases neg <;> simp <;> omega
theorem fmtMag_lt (f : FFmt) (x : Nat) : fmtMag f x < 2 ^ (f.ebits + f.fbits) := Nat.mod_lt _ (by positivity)
theorem fmtNeg_eq_testBit (f : FFmt) (x : Nat) : fmtNeg f x = x.testBit (f.ebits + f.fbits) := by
  rw [fmtNeg, Nat.testBit_eq_decide_div_mod_eq]
  rfl

/-- What the four formats of the float lane instructions share (R24, R57): IEEE specials, a fraction, and their width. -/
structure LaneFormat (f : FFmt) (n : Nat) : Prop where
  ieee : f.spec = .ieee
  width : n = f.ebits + f.fbits + 1
  fraction : 0 < f.fbits
  exponent : 0 < f.ebits
  /-- The ten classes of R83 fit an element. -/
  wide : 10 ≤ n
  /-- Scaling by 2^5000 or 2^-5000 leaves the range of the format. -/
  range : (2 : Int) ^ f.ebits + f.fbits + f.bias < 4000
theorem laneFormat (f : FWidth) : LaneFormat (fwFmt f) (fwBits f) := by
  cases f <;> exact ⟨rfl, rfl, by decide, by decide, by decide, by decide⟩

section LaneFormats
variable {f : FFmt} {n : Nat} (hf : LaneFormat f n)
include hf

theorem LaneFormat.fmtWidth_eq : fmtWidth f = n := by rw [fmtWidth, hf.width]; omega
theorem LaneFormat.fmtTop_eq : fmtTop f = (2 ^ f.ebits - 1) * 2 ^ f.fbits := by rw [fmtTop, hf.ieee]
theorem LaneFormat.fmtTop_add : fmtTop f + 2 ^ f.fbits = 2 ^ (f.ebits + f.fbits) := by
  rw [hf.fmtTop_eq, pow_add, Nat.sub_mul, Nat.one_mul]
  exact Nat.sub_add_cancel (Nat.le_mul_of_pos_left _ (by positivity))
theorem LaneFormat.pow_fbits_le_fmtTop : 2 ^ f.fbits ≤ fmtTop f := by
  have h : 2 ^ 1 ≤ 2 ^ f.ebits := Nat.pow_le_pow_right two_pos hf.exponent
  rw [hf.fmtTop_eq]
  exact Nat.le_mul_of_pos_left _ (by omega)
theorem LaneFormat.fmtTop_pos : 0 < fmtTop f := (Nat.two_pow_pos _).trans_le hf.pow_fbits_le_fmtTop
theorem LaneFormat.fmtMax_lt_fmtTop : fmtMax f < fmtTop f := Nat.sub_lt hf.fmtTop_pos one_pos
theorem LaneFormat.fsigned_lt (neg : Bool) {mag : Nat} (h : mag ≤ fmtTop f) : fsigned f neg mag < 2 ^ n := by
  have := hf.fmtTop_add
  have := Nat.two_pow_pos f.fbits
  exact hf.fmtWidth_eq ▸ Machine.fsigned_lt f neg (by omega)
theorem LaneFormat.fmtNaN_lt : fmtNaN f < 2 ^ n := by
  have hnan : fmtNaN f = fmtTop f + 2 ^ (f.fbits - 1) := by rw [fmtNaN, hf.ieee]
  have hhalf : 2 ^ (f.fbits - 1) < 2 ^ f.fbits := Nat.pow_lt_pow_right one_lt_two (Nat.sub_lt hf.fraction one_pos)
  have htop := hf.fmtTop_add
  have hn : 2 ^ n = 2 * 2 ^ (f.ebits + f.fbits) := by rw [hf.width, pow_succ, Nat.mul_comm]
  omega
theorem LaneFormat.foverflow_lt (m : RMode) (neg : Bool) : foverflow f m neg < 2 ^ n := by
  unfold foverflow
  have hmax := hf.fsigned_lt neg hf.fmtMax_lt_fmtTop.le
  have htop := hf.fsigned_lt neg (le_refl (fmtTop f))
  split
  · exact hmax
  · split
    · exact hmax
    · exact hf.fsigned_lt true hf.fmtMax_lt_fmtTop.le
    · exact hf.fsigned_lt false hf.fmtMax_lt_fmtTop.le
    · exact htop
theorem LaneFormat.froundFin_lt (m : RMode) (neg : Bool) (man : Nat) (exp : Int) : froundFin f m neg man exp < 2 ^ n := by
  unfold froundFin
  split
  · exact hf.fsigned_lt neg (Nat.zero_le _)
  · dsimp only
    split
    · exact hf.foverflow_lt m neg
    · exact hf.fsigned_lt neg ((Nat.not_lt.mp ‹_›).trans hf.fmtMax_lt_fmtTop.le)
theorem LaneFormat.frne_lt (v : FVal) : frne f v < 2 ^ n := by
  match v with
  | .nan => exact hf.fmtNaN_lt
  | .inf neg =>
    rw [frne, fencode, if_pos hf.ieee]
    exact hf.fsigned_lt neg le_rfl
  | .fin neg man exp => exact hf.froundFin_lt .rne neg man exp
theorem LaneFormat.frne_mod (v : FVal) : frne f v % 2 ^ n = frne f v := Nat.mod_eq_of_lt (hf.frne_lt v)

/-! ## Decoding (R58) -/

theorem LaneFormat.fmtMag_eq (x : Nat) : fmtMag f x = x % 2 ^ (n - 1) := by rw [fmtMag, hf.width, Nat.add_sub_cancel]
theorem LaneFormat.fmtNeg_eq (x : Nat) : fmtNeg f x = x.testBit (n - 1) := by
  rw [fmtNeg_eq_testBit, hf.width, Nat.add_sub_cancel]
/-- A pattern is its magnitude and its sign. -/
theorem LaneFormat.eq_fsigned {x : Nat} (hx : x < 2 ^ n) : x = fsigned f (fmtNeg f x) (fmtMag f x) := by
  have hdiv : x / 2 ^ (f.ebits + f.fbits) < 2 := by
    rw [Nat.div_lt_iff_lt_mul (by positivity), Nat.mul_comm, ← pow_succ, ← hf.width]
    exact hx
  have hneg : (fmtNeg f x).toNat = x / 2 ^ (f.ebits + f.fbits) := by
    rw [fmtNeg, Nat.mod_eq_of_lt hdiv]
    interval_cases x / 2 ^ (f.ebits + f.fbits) <;> rfl
  rw [fsigned, hneg, fmtMag, Nat.mul_comm, Nat.mod_add_div]
theorem LaneFormat.fdecode_eq_nan (x : Nat) : fdecode f x = .nan ↔ fmtTop f < fmtMag f x := by
  rw [fdecode]
  simp only [hf.ieee, true_and]
  split
  · split <;> simp <;> omega
  · split <;> simp <;> omega
theorem LaneFormat.fdecode_eq_inf (x : Nat) (neg : Bool) : fdecode f x = .inf neg ↔ fmtMag f x = fmtTop f ∧ fmtNeg f x = neg := by
  rw [fdecode]
  simp only [hf.ieee, true_and]
  split
  · split
    · simp [*]
    · simp [*]
  · have : fmtMag f x ≠ fmtTop f := by omega
    split <;> simp [this]
/-- The exponent of a decoded value is bounded, and its mantissa has at most one bit above the fraction. -/
theorem LaneFormat.fdecode_fin {x m : Nat} {s : Bool} {e : Int} (h : fdecode f x = .fin s m e) :
    m < 2 ^ (f.fbits + 1) ∧ 1 - (f.bias : Int) - f.fbits ≤ e ∧ e < 2 ^ f.ebits - f.bias - f.fbits := by
  have hfr : fmtMag f x % 2 ^ f.fbits < 2 ^ f.fbits := Nat.mod_lt _ (by positivity)
  have hexp : ((fmtMag f x / 2 ^ f.fbits : Nat) : Int) < 2 ^ f.ebits := by
    have h : fmtMag f x / 2 ^ f.fbits < 2 ^ f.ebits := by
      rw [Nat.div_lt_iff_lt_mul (by positivity), ← pow_add]
      exact fmtMag_lt f x
    exact_mod_cast h
  have hone : (1 : Int) < 2 ^ f.ebits := by exact_mod_cast Nat.one_lt_two_pow hf.exponent.ne'
  rw [fdecode] at h
  rw [pow_succ]
  generalize fmtMag f x / 2 ^ f.fbits = g at h hexp
  generalize fmtMag f x % 2 ^ f.fbits = r at h hfr
  split at h
  · split at h <;> cases h
  · split at h
    · cases h
      omega
    · cases h
      omega

/-! ## Roundings far outside the range (R64) -/

theorem LaneFormat.froundFin_of_large (m : RMode) (neg : Bool) {man : Nat} {exp : Int} (h0 : man ≠ 0)
    (h : 2 ^ f.ebits ≤ (Nat.log2 man : Int) + exp + f.bias) : froundFin f m neg man exp = foverflow f m neg := by
  have hbase : fmtTop f ≤ (max ((Nat.log2 man : Int) + exp) (1 - f.bias) - (1 - f.bias)).toNat * 2 ^ f.fbits := by
    rw [hf.fmtTop_eq]
    refine Nat.mul_le_mul_right _ ?_
    have hcast : ((2 ^ f.ebits : Nat) : Int) = 2 ^ f.ebits := by push_cast; rfl
    omega
  have hbig : fmtTop f ≤ froundMag f m neg man exp := by
    rw [froundMag]
    dsimp only
    split
    · exact hbase.trans (Nat.le_add_right _ _)
    · exact hbase.trans ((Nat.le_add_right _ _).trans (Nat.le_add_right _ _))
  rw [froundFin, if_neg h0]
  exact if_pos (hf.fmtMax_lt_fmtTop.trans_le hbig)
omit hf in
theorem froundFin_of_small (f : FFmt) (neg : Bool) {man : Nat} {exp : Int} (h0 : man ≠ 0)
    (h : (Nat.log2 man : Int) + exp + f.bias + f.fbits < -1) : froundFin f .rne neg man exp = fsigned f neg 0 := by
  have htop : max ((Nat.log2 man : Int) + exp) (1 - f.bias) = 1 - f.bias := max_eq_right (by omega)
  have hden : 2 * man < 2 ^ (1 - f.bias - f.fbits - exp : Int).toNat := by
    have hlog : man < 2 ^ (Nat.log2 man + 1) := Nat.lt_log2_self
    have hpow : 2 ^ (Nat.log2 man + 2) ≤ 2 ^ (1 - f.bias - f.fbits - exp : Int).toNat :=
      Nat.pow_le_pow_right two_pos (by omega)
    rw [pow_succ] at hpow
    omega
  have hzero : froundMag f .rne neg man exp = 0 := by
    rw [froundMag]
    dsimp only
    rw [htop, if_neg (by omega), Nat.div_eq_of_lt (by omega), Nat.mod_eq_of_lt (by omega)]
    simp [roundsUp, hden.le, hden.ne]
  rw [froundFin, if_neg h0, hzero]
  exact if_neg (Nat.not_lt_zero _)
/-- Scaling a decoded value by more than 5,000 powers of two rounds as scaling it by 5,000 (R81). -/
theorem LaneFormat.froundFin_clamp {x m : Nat} {s : Bool} {e : Int} (h : fdecode f x = .fin s m e) (h0 : m ≠ 0) (k : Int) :
    froundFin f .rne s m (e + max (-5000) (min 5000 k)) = froundFin f .rne s m (e + k) := by
  obtain ⟨hm, hlow, hhigh⟩ := hf.fdecode_fin h
  have hrange := hf.range
  have hlog : Nat.log2 m < f.fbits + 1 := (Nat.log2_lt h0).mpr hm
  have hpow : (0 : Int) < 2 ^ f.ebits := by positivity
  rcases lt_or_ge 5000 k with hk | hk
  · have hc : max (-5000) (min 5000 k) = 5000 := by omega
    rw [hc, hf.froundFin_of_large .rne s h0 (by omega), hf.froundFin_of_large .rne s h0 (by omega)]
  rcases lt_or_ge k (-5000) with hk' | hk'
  · have hc : max (-5000) (min 5000 k) = -5000 := by omega
    rw [hc, froundFin_of_small f s h0 (by omega), froundFin_of_small f s h0 (by omega)]
  · have hc : max (-5000) (min 5000 k) = k := by omega
    rw [hc]
end LaneFormats

end Sys2Proof.Machine
end

section
/-!
PROOF. The float lane instructions (R67, R81 to R85): what each operation gives for one element.
-/
namespace Sys2Proof.Machine

section Operations
variable {f : FFmt} {n : Nat} (hf : LaneFormat f n)
include hf

/-! ## Scaling and rounding to an integral value (R81, R82) -/

theorem LaneFormat.fscale1_fin {x m : Nat} {s : Bool} {e : Int} (h : fdecode f x = .fin s m e) (y : Nat) :
    fscale1 f x y = if m = 0 then x else frne f (.fin s m (e + sx n y)) := by
  simp only [fscale1, h, hf.fmtWidth_eq]
  split
  · rfl
  · exact hf.froundFin_clamp h ‹_› _
theorem LaneFormat.fscale1_lt {x : Nat} (hx : x < 2 ^ n) (y : Nat) : fscale1 f x y < 2 ^ n := by
  cases h : fdecode f x with
  | nan => rw [fscale1, h]; exact hf.fmtNaN_lt
  | inf neg => rw [fscale1, h]; exact hx
  | fin s m e =>
    rw [hf.fscale1_fin h]
    split
    · exact hx
    · exact hf.frne_lt _
theorem LaneFormat.fround1_lt (m : RMode) {x : Nat} (hx : x < 2 ^ n) : fround1 m f x < 2 ^ n := by
  rw [fround1]
  split
  · exact hf.fmtNaN_lt
  · exact hx
  · exact hf.froundFin_lt _ _ _ _

/-! ## The lesser and the greater number (R81) -/

/-- A NaN gives way to the other operand; of two numbers the second is taken where `second` says so. -/
def numberOf (f : FFmt) (x y : Nat) (second : Bool) : Nat :=
  if fisNaN f x && fisNaN f y then fmtNaN f else if fisNaN f x then y else if fisNaN f y then x else if second then y else x
omit hf in
theorem fmin1_eq (f : FFmt) (x y : Nat) : fmin1 f x y = numberOf f x y (fbelow f y x) := rfl
omit hf in
theorem fmax1_eq (f : FFmt) (x y : Nat) : fmax1 f x y = numberOf f x y (fbelow f x y) := rfl
omit hf in
theorem fisNaN_iff (f : FFmt) (x : Nat) : fisNaN f x = true ↔ fdecode f x = .nan := beq_iff_eq
omit hf in
theorem fisNaN_of_number {f : FFmt} {x : Nat} (h : fdecode f x ≠ .nan) : fisNaN f x = false := by
  rw [← Bool.not_eq_true, fisNaN_iff]
  exact h
theorem LaneFormat.numberOf_lt {x y : Nat} (hx : x < 2 ^ n) (hy : y < 2 ^ n) (second : Bool) : numberOf f x y second < 2 ^ n := by
  have := hf.fmtNaN_lt
  unfold numberOf
  split_ifs <;> assumption
omit hf in
theorem numberOf_nan (f : FFmt) (x y : Nat) (second : Bool) :
    (fdecode f x = .nan → fdecode f y = .nan → numberOf f x y second = fmtNaN f) ∧
      (fdecode f x = .nan → fdecode f y ≠ .nan → numberOf f x y second = y) ∧
      (fdecode f x ≠ .nan → fdecode f y = .nan → numberOf f x y second = x) := by
  refine ⟨fun hx hy => ?_, fun hx hy => ?_, fun hx hy => ?_⟩
  · simp [numberOf, (fisNaN_iff f x).mpr hx, (fisNaN_iff f y).mpr hy]
  · simp [numberOf, (fisNaN_iff f x).mpr hx, fisNaN_of_number hy]
  · simp [numberOf, fisNaN_of_number hx, (fisNaN_iff f y).mpr hy]
omit hf in
theorem numberOf_numbers {f : FFmt} {x y : Nat} (hx : fdecode f x ≠ .nan) (hy : fdecode f y ≠ .nan) (second : Bool) :
    numberOf f x y second = if second then y else x := by
  simp [numberOf, fisNaN_of_number hx, fisNaN_of_number hy]
theorem LaneFormat.fbelow_iff {x y : Nat} (hx : fdecode f x ≠ .nan) (hy : fdecode f y ≠ .nan) :
    fbelow f x y = true ↔ ratOf (fdecode f x) < ratOf (fdecode f y) ∨
      (ratOf (fdecode f x) = ratOf (fdecode f y) ∧ x.testBit (n - 1) = true ∧ y.testBit (n - 1) = false) := by
  simp [fbelow, fltV_iff hx hy, feqV_iff hx hy, hf.fmtNeg_eq, and_assoc]
theorem LaneFormat.fmin1_numbers {x y : Nat} (hx : fdecode f x ≠ .nan) (hy : fdecode f y ≠ .nan) :
    (fmin1 f x y = x ∨ fmin1 f x y = y) ∧
      ratOf (fdecode f (fmin1 f x y)) = min (ratOf (fdecode f x)) (ratOf (fdecode f y)) ∧
      (ratOf (fdecode f x) = ratOf (fdecode f y) →
        ((fmin1 f x y).testBit (n - 1) = true ↔ x.testBit (n - 1) = true ∨ y.testBit (n - 1) = true)) := by
  rw [fmin1_eq, numberOf_numbers hx hy]
  by_cases h : fbelow f y x = true
  · rw [if_pos h]
    rcases (hf.fbelow_iff hy hx).mp h with hlt | ⟨heq, hneg, -⟩
    · exact ⟨.inr rfl, (min_eq_right hlt.le).symm, fun he => absurd he hlt.ne'⟩
    · exact ⟨.inr rfl, (min_eq_right heq.le).symm, fun _ => by simp [hneg]⟩
  · rw [if_neg h]
    rw [hf.fbelow_iff hy hx, not_or, not_lt] at h
    obtain ⟨hle, hsign⟩ := h
    exact ⟨.inl rfl, (min_eq_left hle).symm, fun he => by simpa [he] using hsign⟩
theorem LaneFormat.fmax1_numbers {x y : Nat} (hx : fdecode f x ≠ .nan) (hy : fdecode f y ≠ .nan) :
    (fmax1 f x y = x ∨ fmax1 f x y = y) ∧
      ratOf (fdecode f (fmax1 f x y)) = max (ratOf (fdecode f x)) (ratOf (fdecode f y)) ∧
      (ratOf (fdecode f x) = ratOf (fdecode f y) →
        ((fmax1 f x y).testBit (n - 1) = true ↔ x.testBit (n - 1) = true ∧ y.testBit (n - 1) = true)) := by
  rw [fmax1_eq, numberOf_numbers hx hy]
  by_cases h : fbelow f x y = true
  · rw [if_pos h]
    rcases (hf.fbelow_iff hx hy).mp h with hlt | ⟨heq, -, hpos⟩
    · exact ⟨.inr rfl, (max_eq_right hlt.le).symm, fun he => absurd he hlt.ne⟩
    · exact ⟨.inr rfl, (max_eq_right heq.le).symm, fun _ => by simp [hpos]⟩
  · rw [if_neg h]
    rw [hf.fbelow_iff hx hy, not_or, not_lt] at h
    obtain ⟨hle, hsign⟩ := h
    exact ⟨.inl rfl, (max_eq_left hle).symm, fun he => by simpa [he] using hsign⟩

/-! ## Signs and classes (R82, R83) -/

theorem LaneFormat.fabs1_eq (x : Nat) : fabs1 f x % 2 ^ n = x % 2 ^ (n - 1) := by
  have hlt : x % 2 ^ (n - 1) < 2 ^ n :=
    (Nat.mod_lt _ (by positivity)).trans_le (Nat.pow_le_pow_right two_pos (Nat.sub_le n 1))
  rw [fabs1, hf.fmtMag_eq, Nat.mod_eq_of_lt hlt]
theorem LaneFormat.fneg1_spec (x : Nat) :
    fneg1 f x % 2 ^ n % 2 ^ (n - 1) = x % 2 ^ (n - 1) ∧ (fneg1 f x % 2 ^ n).testBit (n - 1) = !x.testBit (n - 1) := by
  have hmag : x % 2 ^ (n - 1) < 2 ^ (n - 1) := Nat.mod_lt _ (by positivity)
  have hform : fneg1 f x % 2 ^ n = 2 ^ (n - 1) * (!x.testBit (n - 1)).toNat + x % 2 ^ (n - 1) := by
    have hlt : fneg1 f x < 2 ^ n := hf.fmtWidth_eq ▸ Machine.fsigned_lt f _ (fmtMag_lt f x)
    rw [Nat.mod_eq_of_lt hlt, fneg1, fsigned, hf.fmtMag_eq, hf.fmtNeg_eq, hf.width, Nat.add_sub_cancel, Nat.add_comm, Nat.mul_comm]
  rw [hform, Nat.mul_add_mod, Nat.mod_mod, Nat.testBit_two_pow_mul_add _ hmag, if_neg (Nat.lt_irrefl _), Nat.sub_self]
  exact ⟨rfl, by cases x.testBit (n - 1) <;> rfl⟩

/-- The class of a pattern by its sign, its magnitude and the top bit of its fraction (R83). -/
def classOf (f : FFmt) (x : Nat) : Nat :=
  if fmtTop f < fmtMag f x then (if x.testBit (f.fbits - 1) then 9 else 8)
  else if fmtMag f x = fmtTop f then (if fmtNeg f x then 0 else 7)
  else if fmtMag f x = 0 then (if fmtNeg f x then 3 else 4)
  else if fmtMag f x < 2 ^ f.fbits then (if fmtNeg f x then 2 else 5)
  else if fmtNeg f x then 1 else 6
theorem LaneFormat.fclass1_eq (x : Nat) : fclass1 f x = 2 ^ classOf f x := by
  have hquiet : fmtMag f x / 2 ^ (f.fbits - 1) % 2 = 1 ↔ x.testBit (f.fbits - 1) = true := by
    have hlt : f.fbits - 1 < f.ebits + f.fbits := by have := hf.fraction; omega
    have hbit : (fmtMag f x).testBit (f.fbits - 1) = x.testBit (f.fbits - 1) := by
      rw [fmtMag, Nat.testBit_mod_two_pow, decide_eq_true hlt, Bool.true_and]
    rw [← hbit, Nat.testBit_eq_decide_div_mod_eq, decide_eq_true_eq]
  simp only [fclass1, classOf, hquiet]
  split_ifs <;> rfl
omit hf in
theorem classOf_lt (f : FFmt) (x : Nat) : classOf f x < 10 := by
  unfold classOf
  split_ifs <;> decide
/-- A zero of either sign is the pattern whose magnitude is 0. -/
theorem LaneFormat.eq_zero_iff {x : Nat} (hx : x < 2 ^ n) :
    (x = 2 ^ (n - 1) ↔ fmtMag f x = 0 ∧ fmtNeg f x = true) ∧ (x = 0 ↔ fmtMag f x = 0 ∧ fmtNeg f x = false) := by
  have hn : f.ebits + f.fbits = n - 1 := by rw [hf.width, Nat.add_sub_cancel]
  have hpow : 0 < 2 ^ (n - 1) := by positivity
  have hmag : fmtMag f x < 2 ^ (n - 1) := hn ▸ fmtMag_lt f x
  have hval := hf.eq_fsigned hx
  rw [fsigned, hn] at hval
  cases hneg : fmtNeg f x
  case false =>
    rw [hneg, Bool.toNat_false] at hval
    simp only [and_true, and_false, reduceCtorEq, iff_false]
    omega
  case true =>
    rw [hneg, Bool.toNat_true] at hval
    simp only [and_true, and_false, reduceCtorEq, iff_false]
    omega
theorem LaneFormat.fclass1_lt (x : Nat) : fclass1 f x < 2 ^ n := by
  rw [hf.fclass1_eq]
  exact Nat.pow_lt_pow_right one_lt_two ((classOf_lt f x).trans_le hf.wide)
theorem LaneFormat.classOf_spec {x : Nat} (hx : x < 2 ^ n) :
    (classOf f x = 0 ↔ fdecode f x = .inf true) ∧ (classOf f x = 7 ↔ fdecode f x = .inf false) ∧
      (classOf f x = 3 ↔ x = 2 ^ (n - 1)) ∧ (classOf f x = 4 ↔ x = 0) ∧
      (classOf f x = 2 ∨ classOf f x = 5 ↔ 0 < x % 2 ^ (n - 1) ∧ x % 2 ^ (n - 1) < 2 ^ f.fbits) ∧
      (8 ≤ classOf f x ↔ fdecode f x = .nan) ∧ (classOf f x = 9 ↔ fdecode f x = .nan ∧ x.testBit (f.fbits - 1) = true) ∧
      (classOf f x < 8 → (classOf f x < 4 ↔ x.testBit (n - 1) = true)) := by
  obtain ⟨hminus, hplus⟩ := hf.eq_zero_iff hx
  have htop := hf.pow_fbits_le_fmtTop
  have hfrac : 0 < 2 ^ f.fbits := by positivity
  rw [hminus, hplus, hf.fdecode_eq_inf, hf.fdecode_eq_inf, hf.fdecode_eq_nan, ← hf.fmtMag_eq, ← hf.fmtNeg_eq, classOf]
  generalize fmtMag f x = m at *
  generalize fmtNeg f x = neg at *
  generalize x.testBit (f.fbits - 1) = quiet at *
  rcases lt_or_ge (fmtTop f) m with h | h
  · have h0 : m ≠ fmtTop f ∧ m ≠ 0 ∧ ¬m < 2 ^ f.fbits := by omega
    cases quiet <;> simp [h, h0]
  rcases h.eq_or_lt with rfl | h'
  · have h0 : fmtTop f ≠ 0 ∧ ¬fmtTop f < 2 ^ f.fbits := by omega
    cases neg <;> simp [h0]
  have hlow : ¬fmtTop f < m ∧ m ≠ fmtTop f := by omega
  rcases Nat.eq_zero_or_pos m with rfl | hpos
  · cases neg <;> simp [hlow]
  rcases lt_or_ge m (2 ^ f.fbits) with hsub | hsub
  · cases neg <;> simp [hlow, hsub, hpos, hpos.ne']
  · have h0 : ¬m < 2 ^ f.fbits := by omega
    cases neg <;> simp [hlow, h0, hpos.ne']
end Operations

/-! ## Passes over the elements of a float width (R53, R67) -/

section Elements
variable (f : FWidth) (x y z : Word) {j : Nat} (hj : j < 64 / fwBits f)
include hj

theorem elem_flane1 (op : FFmt → Nat → Nat) :
    elem (flane1 op f x) j (fwBits f) = op (fwFmt f) (elem x j (fwBits f)) % 2 ^ fwBits f := elem_lanes _ _ _ hj
theorem elem_flane2 (op : FFmt → Nat → Nat → Nat) : elem (flane2 op f x y) j (fwBits f) =
    op (fwFmt f) (elem x j (fwBits f)) (elem y j (fwBits f)) % 2 ^ fwBits f := elem_lanes _ _ _ hj
theorem elem_flane3 (op : FFmt → Nat → Nat → Nat → Nat) : elem (flane3 op f z x y) j (fwBits f) =
    op (fwFmt f) (elem x j (fwBits f)) (elem y j (fwBits f)) (elem z j (fwBits f)) % 2 ^ fwBits f := elem_lanes _ _ _ hj
theorem elem_specialW (g : Nat → Nat) : elem (specialW g f x) j (fwBits f) =
    viaF32 f g (elem x j (fwBits f)) % 2 ^ fwBits f := elem_lanes _ _ _ hj
/-- The pattern that a pass of one source leaves, where the operation gives one of the format's width. -/
theorem elem_flane1_eq {op : FFmt → Nat → Nat} (h : op (fwFmt f) (elem x j (fwBits f)) < 2 ^ fwBits f) :
    elem (flane1 op f x) j (fwBits f) = op (fwFmt f) (elem x j (fwBits f)) := by
  rw [elem_flane1 f x hj, Nat.mod_eq_of_lt h]
theorem elem_flane2_eq {op : FFmt → Nat → Nat → Nat}
    (h : op (fwFmt f) (elem x j (fwBits f)) (elem y j (fwBits f)) < 2 ^ fwBits f) :
    elem (flane2 op f x y) j (fwBits f) = op (fwFmt f) (elem x j (fwBits f)) (elem y j (fwBits f)) := by
  rw [elem_flane2 f x y hj, Nat.mod_eq_of_lt h]
end Elements

/-- Settles O5: each operation on one element, under the pass that applies it to every element. -/
theorem everyFloatInstructionRetiresAndWrites : Obligations.EveryFloatInstructionRetiresAndWrites := by
  intro f rnd dst src b a d s
  dsimp only
  have hf := laneFormat f
  have hlt := fun (x : Word) (j : Nat) => elem_lt x j (fwBits f)
  refine ⟨fun h => ⟨?fadd, ?fsub, ?fmul, ?fscale, ?fmin, ?fmax⟩, fun h => ⟨?fma, ?fnma⟩,
    fun h => ⟨?fabs, ?fneg, ?fclass, ?fround, ?fcvt, ?frcp, ?frsq, ?fsqrt, ?fexp2, ?flog2, ?fsin, ?fcos, ?ftanh⟩⟩
  case fadd | fsub | fmul =>
    exact ⟨_, exec_of_lanePass rfl rfl h, fun k _ j hj => elem_flane2_eq f _ _ hj (hf.frne_lt _)⟩
  case fma | fnma =>
    exact ⟨_, exec_of_lanePass rfl rfl h, fun k _ j hj => (elem_flane3 f _ _ _ hj _).trans (hf.frne_mod _)⟩
  case fscale =>
    refine ⟨_, exec_of_lanePass rfl rfl h, fun k _ j hj => ?_⟩
    rw [elem_flane2_eq f _ _ hj (hf.fscale1_lt (hlt _ _) _)]
    cases hA : fdecode (fwFmt f) (elem (srcV s a k) j (fwBits f)) with
    | nan => simp only [fscale1, hA]
    | inf neg => simp only [fscale1, hA]
    | fin neg m e => exact (hf.fscale1_fin hA _).trans (by rw [sx_elem])
  case fmin =>
    refine ⟨_, exec_of_lanePass rfl rfl h, fun k _ j hj => ?_⟩
    rw [elem_flane2_eq f _ _ hj (hf.numberOf_lt (hlt _ _) (hlt _ _) _)]
    obtain ⟨hboth, hleft, hright⟩ := numberOf_nan (fwFmt f) (elem (srcV s a k) j (fwBits f)) (elem (srcV s b k) j (fwBits f)) _
    exact ⟨hboth, hleft, hright, fun hA hB => hf.fmin1_numbers hA hB⟩
  case fmax =>
    refine ⟨_, exec_of_lanePass rfl rfl h, fun k _ j hj => ?_⟩
    rw [elem_flane2_eq f _ _ hj (hf.numberOf_lt (hlt _ _) (hlt _ _) _)]
    obtain ⟨hboth, hleft, hright⟩ := numberOf_nan (fwFmt f) (elem (srcV s a k) j (fwBits f)) (elem (srcV s b k) j (fwBits f)) _
    exact ⟨hboth, hleft, hright, fun hA hB => hf.fmax1_numbers hA hB⟩
  case fabs =>
    exact ⟨_, exec_of_lanePass rfl rfl h, fun k _ j hj => (elem_flane1 f _ hj _).trans (hf.fabs1_eq _)⟩
  case fneg =>
    refine ⟨_, exec_of_lanePass rfl rfl h, fun k _ j hj => ?_⟩
    rw [elem_flane1 f _ hj]
    exact hf.fneg1_spec _
  case fclass =>
    refine ⟨_, exec_of_lanePass rfl rfl h, fun k _ j hj =>
      ⟨classOf (fwFmt f) (elem (srcV s a k) j (fwBits f)), classOf_lt _ _, ?_, hf.classOf_spec (hlt _ _)⟩⟩
    rw [elem_flane1_eq f _ hj (hf.fclass1_lt _), hf.fclass1_eq]
  case fround =>
    refine ⟨_, exec_of_lanePass rfl rfl h, fun k _ j hj => ?_⟩
    rw [elem_flane1_eq f _ hj (hf.fround1_lt _ (hlt _ _))]
    cases hA : fdecode (fwFmt f) (elem (srcV s a k) j (fwBits f)) with
    | nan => simp only [fround1, hA]
    | inf neg => simp only [fround1, hA]
    | fin neg m e => simp only [fround1, hA]
  case fcvt => exact benchPass_clear s (.fcvt dst rnd src a d) [a] _ h
  case frcp | frsq | fsqrt | fexp2 | flog2 | fsin | fcos | ftanh =>
    exact ⟨_, exec_of_lanePass rfl rfl h, fun k _ j hj => elem_specialW f _ hj _⟩

end Sys2Proof.Machine
end

section
/-!
PROOF. Laws of capabilities (R108 to R112, R316, R345): the fields of a capability put together from its parts, the one base that a
cursor represents, and what the derivations do to fields, bounds and tag.
-/
namespace Sys2Proof.Machine
open Sys2Proof

/-! ## Fields (R108) -/

theorem extractLsb'_extractLsb' {n : Nat} (x : BitVec n) {s₁ l₁ s₂ l₂ : Nat} (h : s₂ + l₂ ≤ l₁) :
    (x.extractLsb' s₁ l₁).extractLsb' s₂ l₂ = x.extractLsb' (s₁ + s₂) l₂ := by
  ext i hi
  simp only [BitVec.getElem_extractLsb', BitVec.getLsbD_extractLsb', Nat.add_assoc]
  simp only [show s₂ + i < l₁ by omega, decide_true, Bool.true_and]

section Packed
variable (cur : Word) (perms : BitVec 10) (sl e b t : Nat) (tag : Bool)
/-- The bits of `mkCap`, with the width of each part in sight. -/
theorem bits_mkCap : (mkCap cur perms sl e b t tag).bits = (cur ++ perms ++ BitVec.ofNat 10 sl ++ BitVec.ofNat 6 e ++
    BitVec.ofNat 19 b ++ BitVec.ofNat 19 t : BitVec (64 + 10 + 10 + 6 + 19 + 19)) := rfl
@[simp] theorem tag_mkCap : (mkCap cur perms sl e b t tag).tag = tag := rfl
@[simp] theorem capCursor_mkCap : capCursor (mkCap cur perms sl e b t tag) = cur := by
  rw [capCursor, bits_mkCap]
  simp (discharger := decide) only [BitVec.extractLsb'_append_eq_of_le, BitVec.extractLsb'_eq_self, Nat.reduceSub]
@[simp] theorem capPerms_mkCap : capPerms (mkCap cur perms sl e b t tag) = perms := by
  rw [capPerms, bits_mkCap]
  simp (discharger := decide) only [BitVec.extractLsb'_append_eq_of_le, BitVec.extractLsb'_append_eq_right, Nat.reduceSub]
@[simp] theorem capSeal_mkCap : capSeal (mkCap cur perms sl e b t tag) = sl % 1024 := by
  rw [capSeal, bits_mkCap]
  simp (discharger := decide) only [BitVec.extractLsb'_append_eq_of_le, BitVec.extractLsb'_append_eq_right, Nat.reduceSub,
    BitVec.toNat_ofNat, Nat.reducePow]
@[simp] theorem capE_mkCap : capE (mkCap cur perms sl e b t tag) = e % 64 := by
  rw [capE, bits_mkCap]
  simp (discharger := decide) only [BitVec.extractLsb'_append_eq_of_le, BitVec.extractLsb'_append_eq_right, Nat.reduceSub,
    BitVec.toNat_ofNat, Nat.reducePow]
@[simp] theorem capB_mkCap : capB (mkCap cur perms sl e b t tag) = b % 2 ^ 19 := by
  rw [capB, bits_mkCap]
  simp (discharger := decide) only [BitVec.extractLsb'_append_eq_of_le, BitVec.extractLsb'_append_eq_right, Nat.reduceSub,
    BitVec.toNat_ofNat]
@[simp] theorem capT_mkCap : capT (mkCap cur perms sl e b t tag) = t % 2 ^ 19 := by
  rw [capT, bits_mkCap, BitVec.extractLsb'_append_eq_right, BitVec.toNat_ofNat]
end Packed

/-- Below the cursor a capability is its low word. -/
theorem capPerms_eq_capLo (c : Cap) : capPerms c = (capLo c).extractLsb' 54 10 := by
  rw [capLo, extractLsb'_extractLsb' _ (by decide), capPerms]
theorem capSeal_eq_capLo (c : Cap) : capSeal c = ((capLo c).extractLsb' 44 10).toNat := by
  rw [capLo, extractLsb'_extractLsb' _ (by decide), capSeal]
theorem capE_eq_capLo (c : Cap) : capE c = ((capLo c).extractLsb' 38 6).toNat := by
  rw [capLo, extractLsb'_extractLsb' _ (by decide), capE]
theorem capB_eq_capLo (c : Cap) : capB c = ((capLo c).extractLsb' 19 19).toNat := by
  rw [capLo, extractLsb'_extractLsb' _ (by decide), capB]
theorem capT_eq_capLo (c : Cap) : capT c = ((capLo c).extractLsb' 0 19).toNat := by
  rw [capLo, extractLsb'_extractLsb' _ (by decide), capT]
theorem sameFields_of_capLo {x c : Cap} (h : capLo x = capLo c) : sameFields x c := by
  simp only [sameFields, capPerms_eq_capLo, capSeal_eq_capLo, capE_eq_capLo, capB_eq_capLo, capT_eq_capLo, h, and_self]

/-- The bounds fields of a capability are those of another. -/
def sameBounds (x c : Cap) : Prop := capE x = capE c ∧ capB x = capB c ∧ capT x = capT c
/-- The fields below the seal, in their 44 bits. -/
theorem sameBounds_of_low {x c : Cap} (h : x.bits.extractLsb' 0 44 = c.bits.extractLsb' 0 44) : sameBounds x c := by
  have field : ∀ p n, p + n ≤ 44 → x.bits.extractLsb' p n = c.bits.extractLsb' p n := by
    intro p n hp
    have := congrArg (BitVec.extractLsb' p n) h
    rwa [extractLsb'_extractLsb' _ hp, extractLsb'_extractLsb' _ hp, Nat.zero_add] at this
  exact ⟨congrArg BitVec.toNat (field 38 6 (by decide)), congrArg BitVec.toNat (field 19 19 (by decide)),
    congrArg BitVec.toNat (field 0 19 (by decide))⟩
theorem capBase_eq_of_sameBounds {x c : Cap} (hcur : capCursor x = capCursor c) (h : sameBounds x c) : capBase x = capBase c := by
  obtain ⟨hE, hB, _⟩ := h
  rw [capBase, capBase, hcur, hE, hB]
theorem capLen_eq_of_sameBounds {x c : Cap} (h : sameBounds x c) : capLen x = capLen c := by
  obtain ⟨hE, hB, hT⟩ := h
  rw [capLen, capLen, hE, hB, hT]

section Parts
variable (c : Cap) (tag : Bool)
@[simp] theorem capCursor_withCursor (cur : Word) : capCursor (withCursor c cur) = cur := BitVec.extractLsb'_append_eq_left
theorem capLo_withCursor (cur : Word) : capLo (withCursor c cur) = capLo c := BitVec.extractLsb'_append_eq_right

theorem bits_withPerms (p : BitVec 10) :
    (withPerms c p tag).bits = (capCursor c ++ p ++ c.bits.extractLsb' 0 54 : BitVec (64 + 10 + 54)) := rfl
@[simp] theorem tag_withPerms (p : BitVec 10) : (withPerms c p tag).tag = tag := rfl
@[simp] theorem capCursor_withPerms (p : BitVec 10) : capCursor (withPerms c p tag) = capCursor c := by
  rw [capCursor, bits_withPerms]
  simp (discharger := decide) only [BitVec.extractLsb'_append_eq_of_le, BitVec.extractLsb'_eq_self, Nat.reduceSub]
@[simp] theorem capPerms_withPerms (p : BitVec 10) : capPerms (withPerms c p tag) = p := by
  rw [capPerms, bits_withPerms]
  simp (discharger := decide) only [BitVec.extractLsb'_append_eq_of_le, BitVec.extractLsb'_append_eq_right, Nat.reduceSub]
/-- What stands below the permissions is as before. -/
theorem extractLsb'_withPerms (p : BitVec 10) {k n : Nat} (h : k + n ≤ 54) :
    (withPerms c p tag).bits.extractLsb' k n = c.bits.extractLsb' k n := by
  rw [bits_withPerms, BitVec.extractLsb'_append_eq_of_add_le h, extractLsb'_extractLsb' _ h, Nat.zero_add]
@[simp] theorem capSeal_withPerms (p : BitVec 10) : capSeal (withPerms c p tag) = capSeal c :=
  congrArg BitVec.toNat (extractLsb'_withPerms c tag p (by decide))
theorem sameBounds_withPerms (p : BitVec 10) : sameBounds (withPerms c p tag) c :=
  sameBounds_of_low (extractLsb'_withPerms c tag p (by decide))

theorem bits_withSeal (t : Nat) : (withSeal c t tag).bits =
    (capCursor c ++ capPerms c ++ BitVec.ofNat 10 t ++ c.bits.extractLsb' 0 44 : BitVec (64 + 10 + 10 + 44)) := rfl
@[simp] theorem tag_withSeal (t : Nat) : (withSeal c t tag).tag = tag := rfl
@[simp] theorem capCursor_withSeal (t : Nat) : capCursor (withSeal c t tag) = capCursor c := by
  rw [capCursor, bits_withSeal]
  simp (discharger := decide) only [BitVec.extractLsb'_append_eq_of_le, BitVec.extractLsb'_eq_self, Nat.reduceSub]
@[simp] theorem capPerms_withSeal (t : Nat) : capPerms (withSeal c t tag) = capPerms c := by
  rw [capPerms, bits_withSeal]
  simp (discharger := decide) only [BitVec.extractLsb'_append_eq_of_le, BitVec.extractLsb'_append_eq_right, Nat.reduceSub]
@[simp] theorem capSeal_withSeal (t : Nat) : capSeal (withSeal c t tag) = t % 1024 := by
  rw [capSeal, bits_withSeal]
  simp (discharger := decide) only [BitVec.extractLsb'_append_eq_of_le, BitVec.extractLsb'_append_eq_right, Nat.reduceSub,
    BitVec.toNat_ofNat, Nat.reducePow]
theorem sameBounds_withSeal (t : Nat) : sameBounds (withSeal c t tag) c :=
  sameBounds_of_low (by rw [bits_withSeal, BitVec.extractLsb'_append_eq_right])
end Parts
theorem sameBounds.trans {x y c : Cap} (h : sameBounds x y) (h' : sameBounds y c) : sameBounds x c :=
  ⟨h.1.trans h'.1, h.2.1.trans h'.2.1, h.2.2.trans h'.2.2⟩

theorem okCap_iff (c : Cap) : capOk c = true ↔ okCap c := by simp [capOk, okCap, and_assoc]
theorem sealer_iff (c : Cap) : isSealer c = true ↔ sealer c := by simp [isSealer, sealer, and_assoc]
theorem hasPerm_iff (c : Cap) (p : Perm) : hasPerm c p = true ↔ (capPerms c).getLsbD (permBit p) = true := Iff.rfl

/-! ## Bounds (R345) -/

/-- The base that a cursor, an exponent and a base mantissa represent: the one multiple q of 2^E whose quotient has the
mantissa B and lies no more than 2^17 above the cursor's, and less than 3 · 2^17 below it. -/
def representsBase (c e b : Nat) (q : Int) : Prop :=
  q % 2 ^ 19 = b ∧ q - 2 ^ 17 ≤ (c / 2 ^ e : Nat) ∧ ((c / 2 ^ e : Nat) : Int) < q + 3 * 2 ^ 17
theorem representsBase_unique {c e b : Nat} {q q' : Int} (h : representsBase c e b q) (h' : representsBase c e b q') : q = q' := by
  obtain ⟨hm, hlo, hhi⟩ := h
  obtain ⟨hm', hlo', hhi'⟩ := h'
  omega
theorem boundBase_represents (c e : Nat) {b : Nat} (hb : b < 2 ^ 19) :
    ∃ q : Int, boundBase c e b = q * 2 ^ e ∧ representsBase c e b q := by
  simp only [boundBase, representsBase, Int.ofNat_eq_natCast]
  generalize hk : (c / 2 ^ e % 2 ^ 19 + 2 ^ 19 - b) % 2 ^ 19 = k
  generalize c / 2 ^ e = a at hk ⊢
  by_cases h : k < 3 * 2 ^ 17
  · refine ⟨a - k, ?_, by omega, by omega, by omega⟩
    rw [if_pos h]
    push_cast
    ring
  · refine ⟨a + (2 ^ 19 - k : Nat), ?_, by omega, by omega, by omega⟩
    rw [if_neg h]
    push_cast
    ring
theorem capB_lt (c : Cap) : capB c < 2 ^ 19 := BitVec.isLt _
/-- A cursor decodes to the same base exactly if it lies in the range around that base (R108, R345). -/
theorem boundBase_eq_iff_representable (c : Cap) (x : Word) :
    boundBase x.toNat (capE c) (capB c) = capBase c ↔ representable c x := by
  obtain ⟨q, hq, hrep⟩ := boundBase_represents (capCursor c).toNat (capE c) (capB_lt c)
  obtain ⟨q', hq', hrep'⟩ := boundBase_represents x.toNat (capE c) (capB_lt c)
  have hpos : (0 : Int) < 2 ^ capE c := by positivity
  have hcast : ((x.toNat / 2 ^ capE c : Nat) : Int) = (x.toNat : Int) / 2 ^ capE c := by push_cast; rfl
  have hrange : representable c x ↔
      q - 2 ^ 17 ≤ (x.toNat / 2 ^ capE c : Nat) ∧ ((x.toNat / 2 ^ capE c : Nat) : Int) < q + 3 * 2 ^ 17 := by
    rw [hcast, Int.le_ediv_iff_mul_le hpos, Int.ediv_lt_iff_lt_mul hpos, representable, capBase, hq, pow_add]
    constructor <;> rintro ⟨h₁, h₂⟩ <;> constructor <;> linarith
  rw [hrange, capBase, hq, hq']
  constructor
  · intro h
    obtain rfl := mul_right_cancel₀ hpos.ne' h
    exact hrep'.2
  · intro h
    rw [representsBase_unique hrep' ⟨hrep.1, h⟩]

/-- `cinc` and `cset`: the tag stays where the new cursor is representable (R109). -/
theorem tag_withCursor_iff (c : Cap) (x : Word) : (withCursor c x).tag = true ↔ okCap c ∧ representable c x := by
  rw [← boundBase_eq_iff_representable, ← okCap_iff]
  simp [withCursor, capBase]
theorem sameBounds_withCursor (c : Cap) (x : Word) : sameBounds (withCursor c x) c := by
  obtain ⟨_, _, hE, hB, hT⟩ := sameFields_of_capLo (capLo_withCursor c x)
  exact ⟨hE, hB, hT⟩

/-! ## Rounded bounds (R110) -/

/-- Does an exponent cover the bounds from lo to hi? -/
def coversBounds (lo hi e : Nat) : Prop := ceilPow hi e - floorPow lo e ≤ 3 * 2 ^ (e + 17)
theorem coversBounds_last {lo hi : Nat} (h : hi ≤ lo + 2 ^ 64) : coversBounds lo hi 47 := by
  simp only [coversBounds, ceilPow, floorPow]
  omega
theorem boundExp_covers {lo hi : Nat} (h : hi ≤ lo + 2 ^ 64) :
    boundExp lo hi ≤ 47 ∧ coversBounds lo hi (boundExp lo hi) ∧ ∀ e, e < boundExp lo hi → ¬coversBounds lo hi e := by
  have hsome : ((List.range 48).find? fun e => decide (ceilPow hi e - floorPow lo e ≤ 3 * 2 ^ (e + 17))).isSome := by
    rw [List.find?_isSome]
    exact ⟨47, by simp, decide_eq_true (coversBounds_last h)⟩
  obtain ⟨e, he⟩ := Option.isSome_iff_exists.mp hsome
  have heq : boundExp lo hi = e := by rw [boundExp, he, Option.getD_some]
  simp only [List.find?_range_eq_some, Bool.not_eq_true', decide_eq_true_eq, decide_eq_false_iff_not, List.mem_range] at he
  obtain ⟨hcov, hmem, hleast⟩ := he
  rw [heq]
  refine ⟨Nat.lt_succ_iff.mp hmem, hcov, hleast⟩

section Rounded
variable {cursor : Word} (perms : BitVec 10) (sl : Nat) {hi : Nat} (tag : Bool) (h : hi ≤ cursor.toNat + 2 ^ 64)
theorem boundedCap_eq (cursor : Word) (perms : BitVec 10) (sl b t : Nat) (tag : Bool) :
    boundedCap cursor perms sl b t tag = mkCap cursor perms sl (boundExp b t) (floorPow b (boundExp b t) / 2 ^ boundExp b t % 2 ^ 19)
      (ceilPow t (boundExp b t) / 2 ^ boundExp b t % 2 ^ 19) tag := rfl
include h
theorem capE_boundedCap : capE (boundedCap cursor perms sl cursor.toNat hi tag) = boundExp cursor.toNat hi := by
  rw [boundedCap_eq, capE_mkCap, Nat.mod_eq_of_lt (by have := (boundExp_covers h).1; omega)]
theorem capBase_boundedCap : capBase (boundedCap cursor perms sl cursor.toNat hi tag) =
    (floorPow cursor.toNat (boundExp cursor.toNat hi) : Int) := by
  rw [capBase, capE_boundedCap perms sl tag h, boundedCap_eq, capCursor_mkCap, capB_mkCap]
  generalize boundExp cursor.toNat hi = e
  have hpos : 0 < 2 ^ e := by positivity
  rw [floorPow, Nat.mul_div_cancel _ hpos, Nat.mod_mod]
  simp [boundBase]
theorem capLen_boundedCap (hle : cursor.toNat ≤ hi) : capLen (boundedCap cursor perms sl cursor.toNat hi tag) =
    ceilPow hi (boundExp cursor.toNat hi) - floorPow cursor.toNat (boundExp cursor.toNat hi) := by
  obtain ⟨-, hcov, -⟩ := boundExp_covers h
  rw [capLen, capE_boundedCap perms sl tag h, boundedCap_eq, capT_mkCap, capB_mkCap]
  generalize boundExp cursor.toNat hi = e at hcov ⊢
  have hpos : 0 < 2 ^ e := by positivity
  rw [coversBounds, pow_add] at hcov
  simp only [ceilPow, floorPow, ← Nat.sub_mul, Nat.mul_div_cancel _ hpos] at hcov ⊢
  have horder : cursor.toNat / 2 ^ e ≤ (hi + 2 ^ e - 1) / 2 ^ e := Nat.div_le_div_right (by omega)
  generalize cursor.toNat / 2 ^ e = a at hcov horder ⊢
  generalize (hi + 2 ^ e - 1) / 2 ^ e = t at hcov horder ⊢
  have : t - a ≤ 3 * 2 ^ 17 := Nat.le_of_mul_le_mul_right (by linarith) hpos
  congr 1
  omega
end Rounded

/-! ## What each derivation gives -/

/-- A pass that writes a capability and does not fault gives the capabilities of its values. -/
theorem givesCap_of_capPass {i : Instr} {rd : List DReg} {rc : List CReg} {srcs : List Src} {cd : CReg}
    {rel : State → Nat → Cap → Prop} (val : State → Nat → Cap) (huses : usesOf i = ⟨rd, rc, [], [cd]⟩)
    (hopen : closesClause i = false) (hexec : ∀ s, exec i s = capPass s i srcs cd (val s)) (hval : ∀ s k, rel s k (val s k)) :
    GivesCap i rd rc srcs cd rel := by
  intro s hclear
  refine ⟨val s, ?_, fun k _ => hval s k⟩
  rw [hexec, capPass_clear s i srcs cd (val s) (by rwa [huses]), hopen]
theorem shiftLeft_eq_mul (x : Word) (n : Nat) : x * BitVec.ofNat 64 (2 ^ n) = x <<< n := by
  rw [BitVec.shiftLeft_eq_mul_twoPow]
  congr 1
  exact BitVec.eq_of_toNat_eq (by simp)
theorem withCursor_spec (c : Cap) (x : Word) : sameFields (withCursor c x) c ∧ capCursor (withCursor c x) = x ∧
    ((withCursor c x).tag = true ↔ okCap c ∧ representable c (capCursor (withCursor c x))) := by
  refine ⟨sameFields_of_capLo (capLo_withCursor c x), capCursor_withCursor c x, ?_⟩
  rw [capCursor_withCursor, tag_withCursor_iff]
theorem tag_cbndC (c : Cap) (len : Word) :
    let lo := (capCursor c).toNat
    let e := boundExp lo (lo + len.toNat)
    (cbndC c len).tag = (capOk c && decide (capBase c ≤ Int.ofNat (floorPow lo e)) &&
      decide (Int.ofNat (ceilPow (lo + len.toNat) e) ≤ capTop c)) := rfl
/-- The fields of a capability whose bounds are narrowed (R110). -/
theorem cbndC_spec (c : Cap) (len : Word) :
    let lo := (capCursor c).toNat
    let hi := lo + len.toNat
    let e := capE (cbndC c len)
    capPerms (cbndC c len) = capPerms c ∧ capSeal (cbndC c len) = capSeal c ∧ capCursor (cbndC c len) = capCursor c ∧ e ≤ 47 ∧
      coversBounds lo hi e ∧ (∀ j, j < e → ¬coversBounds lo hi j) ∧ capBase (cbndC c len) = Int.ofNat (floorPow lo e) ∧
      capTop (cbndC c len) = Int.ofNat (ceilPow hi e) ∧ ((cbndC c len).tag = true ↔
        okCap c ∧ capBase c ≤ capBase (cbndC c len) ∧ capTop (cbndC c len) ≤ capTop c) := by
  intro lo hi e
  have hhi : hi ≤ lo + 2 ^ 64 := Nat.add_le_add_left len.isLt.le lo
  have hE : e = boundExp lo hi := capE_boundedCap _ _ _ hhi
  have hbase : capBase (cbndC c len) = Int.ofNat (floorPow lo e) := by
    rw [hE]
    exact capBase_boundedCap _ _ _ hhi
  have hlen : capLen (cbndC c len) = ceilPow hi e - floorPow lo e := by
    rw [hE]
    exact capLen_boundedCap _ _ _ hhi (Nat.le_add_right _ _)
  have hpos : 0 < 2 ^ e := by positivity
  have horder : floorPow lo e ≤ ceilPow hi e := Nat.mul_le_mul_right _ (Nat.div_le_div_right (by omega))
  have htop : capTop (cbndC c len) = Int.ofNat (ceilPow hi e) := by
    rw [capTop, hbase, hlen]
    simp only [Int.ofNat_eq_natCast]
    omega
  obtain ⟨hlast, hcov, hleast⟩ := boundExp_covers hhi
  rw [← hE] at hlast hcov hleast
  refine ⟨capPerms_mkCap .., ?_, capCursor_mkCap .., hlast, hcov, hleast, hbase, htop, ?_⟩
  · exact (capSeal_mkCap ..).trans (Nat.mod_eq_of_lt (BitVec.isLt _))
  · rw [tag_cbndC, hbase, htop, ← okCap_iff, hE, Bool.and_eq_true, Bool.and_eq_true, decide_eq_true_iff, decide_eq_true_iff,
      and_assoc]
theorem cpermC_spec (c : Cap) (x : Word) :
    (∀ p, hasPerm (cpermC c x) p = true ↔ hasPerm c p = true ∧ x.getLsbD (permBit p) = true) ∧
      capSeal (cpermC c x) = capSeal c ∧ sameBounds (cpermC c x) c ∧ capCursor (cpermC c x) = capCursor c ∧
      ((cpermC c x).tag = true ↔ okCap c) := by
  refine ⟨fun p => ?_, capSeal_withPerms .., sameBounds_withPerms .., capCursor_withPerms .., okCap_iff c⟩
  have : permBit p < 10 := by cases p <;> decide
  simp [hasPerm, cpermC, this]
theorem csealC_spec (a b : Cap) :
    capSeal (csealC a b) = capNum b % 1024 ∧ capPerms (csealC a b) = capPerms a ∧ capCursor (csealC a b) = capCursor a ∧
      sameBounds (csealC a b) a ∧ ((csealC a b).tag = true ↔ okCap a ∧ sealer b ∧ hasPerm b .sealP = true) := by
  refine ⟨by rw [csealC, capSeal_withSeal, Nat.mod_mod], capPerms_withSeal .., capCursor_withSeal .., sameBounds_withSeal .., ?_⟩
  simp [csealC, okCap_iff, sealer_iff, and_assoc]
theorem cunsealC_spec (a b : Cap) :
    capSeal (cunsealC a b) = 0 ∧ (∀ p, hasPerm (cunsealC a b) p = true ↔ hasPerm a p = true ∧ hasPerm b p = true) ∧
      capCursor (cunsealC a b) = capCursor a ∧ sameBounds (cunsealC a b) a ∧
      ((cunsealC a b).tag = true ↔ a.tag = true ∧ capE a < 48 ∧ 1 ≤ capSeal a ∧ capSeal a ≤ 959 ∧ sealer b ∧
        hasPerm b .unsealP = true ∧ capNum b = capSeal a) := by
  refine ⟨by simp [cunsealC], fun p => by simp [hasPerm, cunsealC], by simp [cunsealC],
    (sameBounds_withPerms ..).trans (sameBounds_withSeal ..), ?_⟩
  simp [cunsealC, sealer_iff, and_assoc]

theorem derivationsGiveTheCapabilitiesOfTheirTable : Claims.DerivationsGiveTheCapabilitiesOfTheirTable := by
  intro b sh ca cd
  refine ⟨?cinc, ?cset, ?cbnd, ?cperm, ?cmov, ?cclr⟩
  case cinc =>
    refine givesCap_of_capPass (fun s k => cincC (readC (cur s) ca k) (srcV s b k) sh.toNat) rfl rfl (fun _ => rfl) fun s k => ?_
    rw [cincC, shiftLeft_eq_mul]
    exact withCursor_spec _ _
  case cset =>
    refine givesCap_of_capPass (fun s k => csetC (readC (cur s) ca k) (srcV s b k)) rfl rfl (fun _ => rfl) fun s k => ?_
    exact withCursor_spec _ _
  case cbnd =>
    refine givesCap_of_capPass (fun s k => cbndC (readC (cur s) ca k) (srcV s b k)) rfl rfl (fun _ => rfl) fun s k => ?_
    exact cbndC_spec _ _
  case cperm =>
    refine givesCap_of_capPass (fun s k => cpermC (readC (cur s) ca k) (srcV s b k)) rfl rfl (fun _ => rfl) fun s k => ?_
    obtain ⟨hperm, hseal, ⟨hE, hB, hT⟩, hcur, htag⟩ := cpermC_spec (readC (cur s) ca k) (srcV s b k)
    exact ⟨hperm, hseal, hE, hB, hT, hcur, htag⟩
  case cmov => exact givesCap_of_capPass (fun s k => readC (cur s) ca k) rfl rfl (fun _ => rfl) fun s k => rfl
  case cclr => exact givesCap_of_capPass (fun s k => cclrC (readC (cur s) ca k)) rfl rfl (fun _ => rfl) fun s k => ⟨rfl, rfl⟩

/-! ## Authority -/

theorem noMoreThan_of_sameBounds {x c : Cap} (htag : c.tag = true) (hcur : capCursor x = capCursor c) (h : sameBounds x c)
    (hperm : ∀ p, hasPerm x p = true → hasPerm c p = true) : noMoreThan x c := by
  refine ⟨htag, (capBase_eq_of_sameBounds hcur h).ge, ?_, hperm⟩
  rw [capTop, capTop, capBase_eq_of_sameBounds hcur h, capLen_eq_of_sameBounds h]
/-- A cursor that moves within what a capability represents leaves it its bounds. -/
theorem noMoreThan_withCursor {c : Cap} {x : Word} (h : (withCursor c x).tag = true) : noMoreThan (withCursor c x) c := by
  obtain ⟨hok, hrep⟩ := (tag_withCursor_iff c x).mp h
  have hsame := sameBounds_withCursor c x
  have hbase : capBase (withCursor c x) = capBase c := by
    rw [capBase, capCursor_withCursor, hsame.1, hsame.2.1]
    exact (boundBase_eq_iff_representable c x).mpr hrep
  refine ⟨hok.1, hbase.ge, ?_, fun p hp => ?_⟩
  · rw [capTop, capTop, hbase, capLen_eq_of_sameBounds hsame]
  · rwa [hasPerm, ← (sameFields_of_capLo (capLo_withCursor c x)).1]
theorem noMoreThan_cbndC {c : Cap} {len : Word} (h : (cbndC c len).tag = true) : noMoreThan (cbndC c len) c := by
  obtain ⟨hperm, _, _, _, _, _, _, _, htag⟩ := cbndC_spec c len
  obtain ⟨hok, hbase, htop⟩ := htag.mp h
  exact ⟨hok.1, hbase, htop, fun p hp => by rwa [hasPerm, ← hperm]⟩
theorem noMoreThan_cpermC {c : Cap} {x : Word} (h : (cpermC c x).tag = true) : noMoreThan (cpermC c x) c := by
  obtain ⟨hperm, _, hbounds, hcur, htag⟩ := cpermC_spec c x
  exact noMoreThan_of_sameBounds (htag.mp h).1 hcur hbounds fun p hp => ((hperm p).mp hp).1
theorem noMoreThan_csealC {a b : Cap} (h : (csealC a b).tag = true) : noMoreThan (csealC a b) a := by
  obtain ⟨_, hperm, hcur, hbounds, htag⟩ := csealC_spec a b
  exact noMoreThan_of_sameBounds (htag.mp h).1.1 hcur hbounds fun p hp => by rwa [hasPerm, ← hperm]
theorem noMoreThan_cunsealC {a b : Cap} (h : (cunsealC a b).tag = true) : noMoreThan (cunsealC a b) a := by
  obtain ⟨_, hperm, hcur, hbounds, htag⟩ := cunsealC_spec a b
  exact noMoreThan_of_sameBounds (htag.mp h).1 hcur hbounds fun p hp => ((hperm p).mp hp).1
theorem noMoreThan_self {c : Cap} (h : c.tag = true) : noMoreThan c c := ⟨h, le_refl _, le_refl _, fun _ hp => hp⟩

/-- A pass that writes capabilities of no more authority than those of a register leaves no more authority in its destination. -/
theorem gainsNothing_of_capPass {i : Instr} {srcs : List Src} {ca cd : CReg} {s : State} (val : Nat → Cap)
    (hwrites : (usesOf i).writes = []) (hcwrites : (usesOf i).cwrites = [cd]) (hexec : exec i s = capPass s i srcs cd val)
    (hval : ∀ k, (val k).tag = true → noMoreThan (val k) (readC (cur s) ca k))
    (hclear : OperandsClear s (usesOf i).reads (usesOf i).creads [] [cd]) :
    ∃ t, exec i s = .next t ∧ ∀ k ∈ issued s, Shaped (cur s) →
      (readC (cur t) cd k).tag = true → noMoreThan (readC (cur t) cd k) (readC (cur s) ca k) := by
  refine ⟨_, hexec.trans (capPass_clear s i srcs cd val (by rwa [hwrites, hcwrites])), fun k hk hshaped htag => ?_⟩
  rw [readC_retire_holding srcs _ hshaped] at htag ⊢
  by_cases h0 : cd = 0
  · rw [if_pos h0] at htag
    cases htag
  · rw [if_neg h0, if_pos hk] at htag ⊢
    exact hval k htag
theorem noDerivationGainsAuthority : Claims.NoDerivationGainsAuthority := by
  rintro i ca cd s (⟨b, sh, rfl⟩ | ⟨b, rfl⟩ | ⟨b, rfl⟩ | ⟨b, rfl⟩ | ⟨cb, rfl⟩ | ⟨cb, rfl⟩ | rfl | rfl)
  case inl => exact gainsNothing_of_capPass _ rfl rfl rfl fun k => noMoreThan_withCursor
  case inr.inl => exact gainsNothing_of_capPass _ rfl rfl rfl fun k => noMoreThan_withCursor
  case inr.inr.inl => exact gainsNothing_of_capPass _ rfl rfl rfl fun k => noMoreThan_cbndC
  case inr.inr.inr.inl => exact gainsNothing_of_capPass _ rfl rfl rfl fun k => noMoreThan_cpermC
  case inr.inr.inr.inr.inl => exact gainsNothing_of_capPass _ rfl rfl rfl fun k => noMoreThan_csealC
  case inr.inr.inr.inr.inr.inl => exact gainsNothing_of_capPass _ rfl rfl rfl fun k => noMoreThan_cunsealC
  case inr.inr.inr.inr.inr.inr.inl => exact gainsNothing_of_capPass _ rfl rfl rfl fun k => noMoreThan_self
  case inr.inr.inr.inr.inr.inr.inr => exact gainsNothing_of_capPass _ rfl rfl rfl fun k htag => absurd htag Bool.false_ne_true

/-- Settles O20, from the fields of each derived capability and the one base that its cursor represents. -/
theorem derivationsGainNoAuthority : Obligations.DerivationsGainNoAuthority :=
  ⟨derivationsGiveTheCapabilitiesOfTheirTable, noDerivationGainsAuthority⟩

/-! ## Sealing and inspection -/

theorem sealingNeedsASealer : Claims.SealingNeedsASealer := by
  intro cb ca cd
  constructor
  · refine givesCap_of_capPass (fun s k => csealC (readC (cur s) ca k) (readC (cur s) cb k)) rfl rfl (fun _ => rfl) fun s k => ?_
    obtain ⟨hseal, hperm, hcur, ⟨hE, hB, hT⟩, htag⟩ := csealC_spec (readC (cur s) ca k) (readC (cur s) cb k)
    exact ⟨hseal, hperm, hcur, hE, hB, hT, htag⟩
  · refine givesCap_of_capPass (fun s k => cunsealC (readC (cur s) ca k) (readC (cur s) cb k)) rfl rfl (fun _ => rfl) fun s k => ?_
    obtain ⟨hseal, hperm, hcur, ⟨hE, hB, hT⟩, htag⟩ := cunsealC_spec (readC (cur s) ca k) (readC (cur s) cb k)
    exact ⟨hseal, hperm, hcur, hE, hB, hT, htag⟩


/-- Has the capability bounds, as `cget` reads them? A sealed object has none, but the travel-sealed type 1009 has (log 54). -/
def hasBounds (c : Cap) : Prop := capE c < 48 ∧ ¬(960 ≤ capSeal c ∧ capSeal c ≤ 1023 ∧ capSeal c ≠ 1009)
theorem hasBounds_iff (c : Cap) : (decide (capE c < 48) && !isObjType (capSeal c)) = true ↔ hasBounds c := by
  rw [Bool.and_eq_true, decide_eq_true_iff, hasBounds, Bool.not_eq_true', isObjType, ← Bool.not_eq_true]
  simp [and_assoc]

section Selectors
variable (c : Cap)
/-- The selectors that read a bound read 0 where there are none. -/
theorem cgetW_unbounded {n : Nat} (hn : n = 1 ∨ n = 2 ∨ n = 3 ∨ n = 7) (h : ¬hasBounds c) : cgetW c n = 0 := by
  rw [← hasBounds_iff] at h
  rcases hn with rfl | rfl | rfl | rfl <;> exact if_neg h
theorem cgetW_base (h : hasBounds c) : cgetW c 1 = BitVec.ofInt 64 (capBase c) := if_pos ((hasBounds_iff c).mpr h)
theorem cgetW_top (h : hasBounds c) : cgetW c 2 = if capTop c = 2 ^ 64 then -1 else BitVec.ofInt 64 (capTop c) :=
  if_pos ((hasBounds_iff c).mpr h)
theorem cgetW_length (h : hasBounds c) : cgetW c 3 = BitVec.ofInt 64 (min (capTop c - capBase c) (2 ^ 64 - 1)) := by
  have hlen : capTop c - capBase c = capLen c := add_sub_cancel_left (capBase c) (capLen c : Int)
  refine (if_pos ((hasBounds_iff c).mpr h)).trans ?_
  rw [hlen]
  by_cases hbig : 2 ^ 64 ≤ capLen c
  · rw [if_pos hbig, min_eq_right (by omega)]
    rfl
  · rw [if_neg hbig, min_eq_left (by omega), BitVec.ofInt_natCast]
theorem cgetW_offset (h : hasBounds c) : cgetW c 7 = BitVec.ofInt 64 ((capCursor c).toNat - capBase c) := by
  refine (if_pos ((hasBounds_iff c).mpr h)).trans ?_
  rw [sub_eq_add_neg ((capCursor c).toNat : Int), BitVec.ofInt_add, BitVec.ofInt_neg, BitVec.ofInt_natCast, BitVec.ofNat_toNat,
    BitVec.setWidth_eq, ← BitVec.sub_eq_add_neg]
theorem cgetW_seal : cgetW c 5 = (c.bits.extractLsb' 44 10).setWidth 64 := BitVec.ofNat_toNat ..
theorem cgetW_exponent : cgetW c 8 = (c.bits.extractLsb' 38 6).setWidth 64 := BitVec.ofNat_toNat ..
end Selectors

theorem getLsbD_allP (w : Width) (x : Bool) {j : Nat} (hj : j < 8) :
    (allP w x).getLsbD j = true ↔ j < 64 / widthBits w ∧ x = true := by
  rw [allP, getLsbD_predOf _ _ hj, Bool.and_eq_true, decide_eq_true_iff]
theorem ctestB_iff (c : Cap) (b : Word) : ctestB c b = true ↔
    okCap c ∧ capBase c ≤ (capCursor c).toNat ∧ ((capCursor c).toNat + b.toNat : Int) ≤ capTop c := by
  rw [ctestB, Bool.and_eq_true, Bool.and_eq_true, okCap_iff, decide_eq_true_iff, decide_eq_true_iff, and_assoc]
  rfl
theorem cap_beq_iff (a b : Cap) : (a == b) = true ↔ a.bits = b.bits ∧ a.tag = b.tag := by
  rw [beq_iff_eq, Cap.mk.injEq]

theorem capabilitiesAreInspectedByTheirFields : Claims.CapabilitiesAreInspectedByTheirFields := by
  intro n sel b ca cb d w p
  refine ⟨fun hsel hn s hclear => ?cget, fun s hclear => ?ctest, fun s hclear => ?ceq⟩
  case cget =>
    subst hsel
    refine ⟨_, lanePass_clear s (.cget sel ca d) [] d _ hclear, fun k _ => ?_⟩
    generalize sel.toNat = n
    refine ⟨cgetW_unbounded _, ?_, ?_, ?_, ?_, ?_, ?_, fun h => ⟨?_, ?_, ?_, ?_⟩⟩
    · rintro (rfl | rfl) <;> rfl
    · rintro rfl
      rfl
    · rintro rfl
      rfl
    · rintro rfl
      exact cgetW_seal _
    · rintro rfl
      rfl
    · rintro rfl
      exact cgetW_exponent _
    · rintro rfl
      exact cgetW_base _ h
    · rintro rfl
      exact cgetW_top _ h
    · rintro rfl
      exact cgetW_length _ h
    · rintro rfl
      exact cgetW_offset _ h
  case ctest =>
    refine setsBits_of_predPass (i := .ctest b ca w p) rfl rfl hclear fun k j hj => ?_
    rw [getLsbD_allP w _ hj, ctestB_iff]
  case ceq =>
    refine setsBits_of_predPass (i := .ceq cb ca w p) rfl rfl hclear fun k j hj => ?_
    rw [getLsbD_allP w _ hj, cap_beq_iff]

/-- Settles O21, from the fields of sealed capabilities and the selectors of `cget`. -/
theorem capabilitiesAreSealedAndInspected : Obligations.CapabilitiesAreSealedAndInspected :=
  ⟨sealingNeedsASealer, capabilitiesAreInspectedByTheirFields⟩

end Sys2Proof.Machine
end

section
/-!
PROOF. The offset of the heap path (R220, R221, R244), refuted: nothing asks that the memory is well formed. Where one line stands
twice in the list of lines under identifiers, the first entry without an identifier, its read takes that entry away, and the line then
stands as the second entry says.
-/
namespace Sys2Proof.Machine
open Sys2Proof

/-- Line 0x80000 stands in the list of lines twice: under no identifier, and under identifier 1. -/
def lineListedTwice : State := { State.reset with mem := ⟨[], [], [], [(0x80000, []), (0x80000, [1])]⟩ }
/-- A heap of one byte at 0x2000000, without an offset. -/
def heapOfOneByte : ASpace := { ASpace.none_ with hbase := 0x2000000, hspan := 1 }
theorem translateRange_lineListedTwice :
    translateRange lineListedTwice 0 heapOfOneByte 1 .load 0x2000000 1 = .ok ([0x2000000], openView lineListedTwice 0x2000000) := by
  rfl
theorem views_openView_lineListedTwice : (openView lineListedTwice 0x2000000).mem.views = [(0x80000, [1])] := by
  rfl

theorem not_theHeapPathAddsItsOffset : ¬ Claims.TheHeapPathAddsItsOffset := by
  intro hclaim
  obtain ⟨hbelow, -⟩ := hclaim lineListedTwice 0 heapOfOneByte 1 .load 0x2000000 1 (by decide) (by decide) (by decide) (by decide)
    (by decide) (by decide) (by decide)
  obtain ⟨t, htranslate, -, -, hviewed, -⟩ := hbelow (by decide)
  rw [translateRange_lineListedTwice] at htranslate
  obtain ⟨-, rfl⟩ := Prod.mk.inj (Except.ok.inj htranslate)
  have hnow := hviewed 0x2000000 (by decide)
  rw [viewed, viewsOf, views_openView_lineListedTwice] at hnow
  exact absurd hnow (by decide)

/-- Refutes O15: on the heap path, a read of a line that an ill-formed memory lists twice does not leave it under its identifier. -/
theorem not_accessesAreCheckedInOrder : ¬ Obligations.AccessesAreCheckedInOrder :=
  fun h => not_theHeapPathAddsItsOffset h.2

end Sys2Proof.Machine
end

section
/-!
PROOF. The elements of a copy (R176), refuted: nothing bounds the size of an element, and the fill pattern has eight bytes. A copy of one
element of nine bytes from the pattern has no ninth byte.
-/
namespace Sys2Proof.Machine
open Sys2Proof

/-- One element of nine bytes, from the fill pattern to the start of the window. -/
def nineByteFill : CopyCmd := ⟨4, 9, 0x10001, 0, 0, 0, Cap.null, Cap.null, false, 0, none, 0, 0, 0, [], []⟩
def nineByteFlight : Flight := ⟨0, 0, 0, 0, 0, none, 0, [], [], [], [], .copy nineByteFill, 0, []⟩
/-- The package after reset, with that copy in flight. -/
def nineByteState : State := { State.reset with flights := [nineByteFlight] }

theorem copyElems_nineByteFill : copyElems nineByteFill = [(0, .fill false, 0)] := by decide
theorem winPlace_nineByteState (a : Nat) :
    winPlace (flightTask nineByteState nineByteFlight) (flightCoreT nineByteState nineByteFlight) a = (0, 0 + a % 0x80000) := rfl
theorem inFlight_nineByteFlight : inFlight nineByteState nineByteFlight := by
  refine ⟨by decide, by decide, ?_, rfl⟩
  unfold Shaped
  decide

theorem not_aCopyWritesItsElements : ¬ Claims.ACopyWritesItsElements := by
  intro hclaim
  refine Exists.elim (hclaim nineByteState nineByteFlight nineByteFill inFlight_nineByteFlight rfl rfl (by decide) rfl (by decide)
    (by decide) (by decide) (fun _ => rfl) ?inWindow ?apart ?noSources) ?ninthByte
  case inWindow =>
    intro e he
    obtain rfl := List.mem_singleton.mp (copyElems_nineByteFill ▸ he)
    exact ⟨by decide, fun a p h => by cases h⟩
  case apart =>
    intro e he e' he' i j hi hj hplace
    obtain rfl := List.mem_singleton.mp (copyElems_nineByteFill ▸ he)
    obtain rfl := List.mem_singleton.mp (copyElems_nineByteFill ▸ he')
    have hi : i < 9 := hi
    have hj : j < 9 := hj
    have hoff : 0 + (0 + i) % 0x80000 = 0 + (0 + j) % 0x80000 := congrArg Prod.snd hplace
    exact ⟨rfl, by omega⟩
  case noSources =>
    intro e he e' he' a p i j hsrc
    obtain rfl := List.mem_singleton.mp (copyElems_nineByteFill ▸ he')
    cases hsrc
  case ninthByte =>
    rintro t ⟨-, -, -, -, -, helems⟩
    have hninth := helems (0, .fill false, 0) (copyElems_nineByteFill ▸ List.mem_singleton_self _) 8 (by decide)
    cases hninth

/-- Refutes O37: a copy of one element of nine bytes has no ninth byte of its fill pattern. -/
theorem not_copiesAndTeamProductsAreWhole : ¬ Obligations.CopiesAndTeamProductsAreWhole :=
  fun h => not_aCopyWritesItsElements h.1

end Sys2Proof.Machine
end

section
/-!
PROOF. What keeps the shape of every bench: deliveries, wakes, groups and the departure of a seat (R113, R114, R323, R325).
-/
namespace Sys2Proof.Machine
open Sys2Proof

/-! ## States whose benches keep their shape -/

/-- The selection is as before, and every bench that had its shape has it. -/
structure KeepsShapes (s t : State) : Prop where
  sel : t.sel = s.sel
  shaped : ∀ core slot, Shaped (getBench s core slot) → Shaped (getBench t core slot)

theorem keepsShapes_refl (s : State) : KeepsShapes s s := ⟨rfl, fun _ _ h => h⟩
theorem KeepsShapes.trans {s t u : State} (h : KeepsShapes s t) (h' : KeepsShapes t u) : KeepsShapes s u :=
  ⟨h'.sel.trans h.sel, fun core slot hb => h'.shaped core slot (h.shaped core slot hb)⟩
theorem keepsShapes_of_cores {s t : State} (hsel : t.sel = s.sel) (hcores : t.cores = s.cores) : KeepsShapes s t := by
  refine ⟨hsel, fun core slot hb => ?_⟩
  rwa [getBench, getCore, hcores]
theorem keepsShapes_foldl {α : Type} (s : State) (l : List α) {f : State → α → State} (h : ∀ u x, KeepsShapes u (f u x)) :
    KeepsShapes s (l.foldl f s) :=
  foldl_keeps (KeepsShapes s) f l s (keepsShapes_refl s) fun u x hu => hu.trans (h u x)
theorem KeepsShapes.cur {s t : State} (h : KeepsShapes s t) (hs : Shaped (cur s)) : Shaped (cur t) := by
  rw [Machine.cur, h.sel]
  exact h.shaped _ _ hs
theorem KeepsShapes.issued {s t : State} (h : KeepsShapes s t) : issued t = issued s := by
  rw [Machine.issued, h.sel, Machine.issued]
theorem keepsShapes_putBench (s : State) (k slot : Nat) {b : Bench} (h : Shaped (getBench s k slot) → Shaped b) :
    KeepsShapes s (putBench s k slot b) := by
  refine ⟨rfl, fun core slot' hb => ?_⟩
  by_cases he : core = k ∧ slot' = slot
  · obtain ⟨rfl, rfl⟩ := he
    rw [getBench_putBench_same]
    exact h hb
  · rwa [getBench_putBench_other _ _ _ _ _ _ he]
theorem keepsShapes_putTask (s : State) (t : Task) : KeepsShapes s (putTask s t) := keepsShapes_of_cores rfl rfl

/-! ## Benches -/

theorem shaped_putSeat {b : Bench} (k : Nat) (x : Seat) (h : Shaped b) : Shaped (putSeat b k x) := by
  obtain ⟨hv, hc, hseats, hrest⟩ := (shaped_iff b).mp h
  exact (shaped_iff _).mpr ⟨hv, hc, (length_setNth _ _ _).trans hseats, hrest⟩
theorem shaped_unblockSeat {b : Bench} (k len : Nat) (closes : Bool) (h : Shaped b) : Shaped (unblockSeat b k len closes) := by
  refine shaped_putSeat k _ (foldl_keeps Shaped _ _ b h fun b r hb => ?_)
  obtain ⟨hv, hrest⟩ := (shaped_iff b).mp hb
  exact (shaped_iff _).mpr ⟨hv.clearLive r (seatBit k), hrest⟩
theorem keepsShapes_onSeat (s : State) (k slot seat : Nat) (f : Seat → Seat) : KeepsShapes s (onSeat s k slot seat f) :=
  keepsShapes_putBench s k slot (shaped_putSeat seat _)
theorem keepsShapes_freeRows (s : State) (k slot : Nat) : KeepsShapes s (freeRows s k slot) := by
  unfold freeRows
  dsimp only
  split
  · exact keepsShapes_refl s
  · exact (keepsShapes_putBench s k slot (shaped_freedBench (getBench s k slot))).trans (keepsShapes_of_cores rfl rfl)

/-! ## Writes into a saved image -/

theorem ImageWritten.keepsShapes {s t : State} (h : ImageWritten s t) : KeepsShapes s t := by
  rw [h.outside]
  exact keepsShapes_of_cores rfl rfl
theorem imageWritten_imgClearLive (s : State) (img rows caprows : Nat) (acc : Bool) (seat reg : Nat) :
    ImageWritten s (imgClearLive s img rows caprows acc seat reg) := by
  unfold imgClearLive
  split
  · exact imageWritten_refl s
  · exact imageWritten_putNumber ..
theorem imageWritten_imgUnblock (s : State) (img seat : Nat) : ImageWritten s (imgUnblock s img seat) :=
  (((imageWritten_putNumber ..).trans (imageWritten_putNumber ..)).trans (imageWritten_putNumber ..)).trans
    (imageWritten_putNumber ..)

/-! ## Deliveries and wakes (R323, R325, R327) -/

theorem keepsShapes_deliverLive (s : State) (space k slot seat : Nat) (w : Wait) (d : Delivery) :
    KeepsShapes s (deliverLive s space k slot seat w d) := by
  refine (keepsShapes_putBench s k slot fun hb => ?_).trans (keepsShapes_freeRows _ k slot)
  have hb := shaped_unblockSeat seat 4 (match w with
    | .sysc _ _ _ _ _ _ _ _ => true
    | _ => false) hb
  split
  · split
    · exact shaped_writeC _ _ _ (foldl_keeps Shaped _ _ _ hb fun b i hb => shaped_writeD _ _ _ hb)
    · exact shaped_writeC _ _ _ hb
  · exact hb
theorem keepsShapes_deliverSaved (s : State) (t : Task) (th : Thread) (w : Wait) (d : Delivery) :
    KeepsShapes s (deliverSaved s t th w d) := by
  refine ImageWritten.keepsShapes ?_ |>.trans (keepsShapes_putTask _ _)
  refine ImageWritten.trans ?_ (imageWritten_imgUnblock ..)
  have hclear : ∀ (pc : Word) (img rows caprows : Nat) (acc : Bool), ImageWritten s
      ((dueAt s 0 t pc).foldl (fun s r => imgClearLive s img rows caprows acc th.seat r) s) := fun pc img rows caprows acc =>
    imageWritten_foldl s _ fun u r => imageWritten_imgClearLive u img rows caprows acc th.seat r
  split
  · split <;> split
    · exact (hclear ..).trans (imageWritten_foldl _ _ fun u i => imageWritten_imgWriteD ..)
    · exact ((hclear ..).trans (imageWritten_foldl _ _ fun u i => imageWritten_imgWriteD ..)).trans (imageWritten_imgWriteC ..)
    · exact hclear ..
    · exact (hclear ..).trans (imageWritten_imgWriteC ..)
  · exact hclear ..
theorem keepsShapes_deliver (s : State) (p : Party) (d : Delivery) : KeepsShapes s (deliver s p d) := by
  cases p with
  | hart h =>
    simp only [deliver]
    split
    · exact keepsShapes_refl s
    · exact keepsShapes_of_cores rfl rfl
  | dean r task pager =>
    simp only [deliver]
    split
    · exact keepsShapes_of_cores rfl rfl
    · exact keepsShapes_refl s
  | seat task ct bt k =>
    simp only [deliver]
    split
    · exact keepsShapes_refl s
    · split
      · exact keepsShapes_refl s
      · split
        · refine KeepsShapes.trans ?_ (keepsShapes_deliverLive ..)
          split
          · exact keepsShapes_deliverSaved ..
          · exact keepsShapes_refl s
        · exact keepsShapes_deliverSaved ..
theorem keepsShapes_dropRight (s : State) (r : Option ReplyRight) : KeepsShapes s (dropRight s r) := by
  unfold dropRight
  split
  · split
    · exact keepsShapes_deliver s _ _
    · exact keepsShapes_refl s
  · exact keepsShapes_refl s
theorem keepsShapes_wakeParty (s : State) (p : Party) (f : WakeFault) : KeepsShapes s (wakeParty s p f) := by
  cases p with
  | hart h => exact keepsShapes_of_cores rfl rfl
  | dean r task pager => exact keepsShapes_refl s
  | seat task ct bt k =>
    simp only [wakeParty]
    split
    · exact keepsShapes_refl s
    · split
      · refine KeepsShapes.trans ?_ (keepsShapes_onSeat ..)
        split
        · exact keepsShapes_putTask ..
        · exact keepsShapes_refl s
      · exact keepsShapes_putTask ..

/-! ## Groups (R113, R114, R158) -/

theorem keepsShapes_wakePhase (s : State) (t : Task) (g : Nat) : KeepsShapes s (wakePhase s t g) := by
  refine keepsShapes_foldl s _ fun u e => keepsShapes_putBench u _ _ fun hb => ?_
  refine foldl_keeps Shaped _ _ _ hb fun b k hb => ?_
  split
  · split
    · exact shaped_unblockSeat _ _ _ hb
    · exact hb
  · exact hb
theorem keepsShapes_settleGroup (s : State) (id : Word) (g : Nat) : KeepsShapes s (settleGroup s id g) := by
  unfold settleGroup
  split
  · exact keepsShapes_refl s
  · dsimp only
    split
    · exact (keepsShapes_putTask ..).trans (keepsShapes_wakePhase ..)
    · exact keepsShapes_refl s
theorem keepsShapes_abandonMail (s : State) (id : Word) (g : Nat) : KeepsShapes s (abandonMail s id g) := by
  unfold abandonMail
  split
  · exact keepsShapes_refl s
  · exact (keepsShapes_putTask ..).trans (keepsShapes_foldl _ _ fun u r => keepsShapes_wakeParty ..)
theorem keepsShapes_groupLeave (s : State) (id : Word) (th : Thread) (g : Nat) : KeepsShapes s (groupLeave s id th g) := by
  unfold groupLeave
  split
  · exact keepsShapes_refl s
  · dsimp only
    split
    · exact keepsShapes_refl s
    · have hsettle : ∀ T, KeepsShapes s
          (settleGroup (putTask { s with flights := s.flights.filter fun f => !arrivalOf id th g f } T) id g) := fun T =>
        KeepsShapes.trans (t := putTask { s with flights := s.flights.filter fun f => !arrivalOf id th g f } T)
          (keepsShapes_of_cores rfl rfl) (keepsShapes_settleGroup _ id g)
      split
      · exact (hsettle _).trans (keepsShapes_abandonMail ..)
      · exact hsettle _
theorem keepsShapes_leaveSeat (s : State) (g k : Nat) : KeepsShapes s (leaveSeat s g k) := by
  unfold leaveSeat
  dsimp only
  split
  · exact keepsShapes_groupLeave ..
  · split
    · exact keepsShapes_of_cores rfl rfl
    · exact keepsShapes_refl s
theorem keepsShapes_exitGroups (s : State) (k : Nat) : KeepsShapes s (exitGroups s k) :=
  keepsShapes_foldl s _ fun u g => keepsShapes_leaveSeat u g k
theorem keepsShapes_exitRight (s : State) (k : Nat) : KeepsShapes s (exitRight s k) :=
  (keepsShapes_onSeat ..).trans (keepsShapes_dropRight ..)
theorem keepsShapes_eachSeat (s : State) {f : State → Nat → State} (h : ∀ u k, KeepsShapes u (f u k)) : KeepsShapes s (eachSeat s f) :=
  keepsShapes_foldl s _ h

end Sys2Proof.Machine
end

section
/-!
PROOF. The end of a thread, `yield`, `pause` and `brk` (R96 to R99).
-/
namespace Sys2Proof.Machine
open Sys2Proof

/-! ## `exit` (R96, R137) -/

theorem clearSeats_eq (b : Bench) (m : SeatMask) : clearSeats b m =
    { b with vrows := b.vrows.map (rowAfterLast · m), crows := b.crows.map (rowAfterLast · m) } := rfl
theorem RowsShaped.afterLast {α : Type} {rows : List (Row α)} (h : RowsShaped rows) (m : SeatMask) :
    RowsShaped (rows.map (rowAfterLast · m)) := by
  refine ⟨by rw [List.map_map]; exact h.1, fun y hy => ?_⟩
  obtain ⟨x, hx, rfl⟩ := List.mem_map.mp hy
  exact h.2 x hx
/-- A seat whose live bits are all clear reads nothing. -/
theorem rowRead_afterLast {α : Type} (rows : List (Row α)) {m : SeatMask} {k : Nat} (hk : m.getLsbD k = true) (r : Nat) (d : α) :
    rowRead (rows.map (rowAfterLast · m)) r k d = d := by
  rw [rowRead_eq, findRow, List.find?_map]
  cases rows.find? ((fun x => x.reg == r) ∘ (rowAfterLast · m)) with
  | none => rfl
  | some x =>
    rw [Option.map_some, Option.elim_some, seatElem_rowAfterLast, if_pos hk]
theorem shaped_clearSeats {b : Bench} (m : SeatMask) (h : Shaped b) : Shaped (clearSeats b m) := by
  obtain ⟨hv, hc, hrest⟩ := (shaped_iff b).mp h
  exact (shaped_iff _).mpr ⟨hv.afterLast m, hc.afterLast m, hrest⟩
theorem readD_clearSeats (b : Bench) {m : SeatMask} {k : Nat} (hk : m.getLsbD k = true) (n : Fin 48) :
    readD (clearSeats b m) (.v n) k = 0 := rowRead_afterLast b.vrows hk n.val 0
theorem readC_clearSeats (b : Bench) {m : SeatMask} {k : Nat} (hk : m.getLsbD k = true) (c : CReg) :
    readC (clearSeats b m) c k = Cap.null := by
  by_cases hc : c = 0
  · rw [hc, readC_zero]
  · rw [readC_of_ne _ _ hc]
    exact rowRead_afterLast b.crows hk c.val Cap.null

/-- The package once the issued seats have left their groups and dropped their reply rights. -/
def leftState (s : State) : State := eachSeat s fun s k => exitRight (exitGroups s k) k
/-- The selected bench with the issued seats ended. -/
def endedBench (s : State) : Bench :=
  mapIssued (leftState s) (cur (leftState s)) fun _ x => { pastSeat x s.sel.len true with state := .exited }
theorem keepsShapes_leftState (s : State) : KeepsShapes s (leftState s) :=
  keepsShapes_eachSeat s fun u k => (keepsShapes_exitGroups u k).trans (keepsShapes_exitRight _ k)
theorem exec_exit (s : State) : exec .exit s =
    .next (freeRows (putCur (leftState s) (clearSeats (endedBench s) s.sel.seats)) s.sel.core s.sel.slot) := rfl
theorem exitEndsThreads {s : State} (h : Shaped (cur s)) : ∃ t, exec .exit s = .next t ∧ ∀ k ∈ issued s,
    (getSeat (cur t) k).state = .exited ∧ (∀ n : Fin 48, readD (cur t) (.v n) k = 0) ∧ ∀ c, readC (cur t) c k = Cap.null := by
  have hleft := keepsShapes_leftState s
  have hcur := hleft.cur h
  have hcleared : Shaped (clearSeats (endedBench s) s.sel.seats) := shaped_clearSeats _ (shaped_mapIssued _ _ _ hcur)
  refine ⟨_, exec_exit s, fun k hk => ?_⟩
  have hbit := (mem_issued s k).mp hk
  have hfreed := cur_freeRows (putCur (leftState s) (clearSeats (endedBench s) s.sel.seats))
  rw [putCur_sel, hleft.sel, cur_putCur] at hfreed
  rw [hfreed]
  refine ⟨?_, fun n => ?_, fun c => ?_⟩
  · rw [getSeat_freedBench]
    change (getSeat (endedBench s) k).state = .exited
    rw [endedBench, getSeat_mapIssued _ _ _ (length_seats_of_shaped hcur), hleft.issued, if_pos hk]
  · rw [readD_freedBench _ hcleared, readD_clearSeats _ hbit]
  · rw [readC_freedBench _ hcleared, readC_clearSeats _ hbit]

/-! ## `yield` (R97) -/

/-- The package after the seats have moved on and the N hold of their clause has ended. -/
def unheldState (s : State) : State :=
  putCur (advance s false) { cur (advance s false) with nfree := (cur (advance s false)).nfree ||| s.sel.seats }
/-- The pipe's next pass goes to the other bench. -/
def yieldPipe (s : State) : State :=
  putCore s s.sel.core { getCore s s.sel.core with
    pipeYield := (s.sel.slot / 2) :: (getCore s s.sel.core).pipeYield.filter (· != s.sel.slot / 2) }
theorem exec_yield (s : State) : exec .yield s = .next (if onMonitor (unheldState s) then unheldState s else yieldPipe (unheldState s)) := rfl
theorem cur_yieldPipe (s : State) : cur (yieldPipe s) = cur s := by
  rw [yieldPipe, cur, putCore_sel, getBench, getCore_putCore_same]
  rfl
theorem cur_unheldState (s : State) : cur (unheldState s) =
    { mapIssued s (cur s) (fun _ x => pastSeat x s.sel.len false) with nfree := (cur s).nfree ||| s.sel.seats } := by
  rw [unheldState, cur_putCur, advance, cur_putCur, mapIssued_eq]
theorem yieldGivesWay {s : State} (h : Shaped (cur s)) : ∃ t, exec .yield s = .next t ∧ DataKept s t [] (fun _ => False) ∧
    CapsKept s t (fun _ => False) ∧ PredsKept s t (fun _ => False) ∧ BenchKept s t ∧ (cur t).nfree = (cur s).nfree ||| s.sel.seats ∧
    t.mem = s.mem ∧ SeatsBecome s t (fun _ x => pastSeat x s.sel.len false) ∧
    (s.sel.slot ≠ 64 → s.sel.slot / 2 ∈ (getCore t s.sel.core).pipeYield) := by
  refine ⟨_, exec_yield s, ?_⟩
  have hmon : onMonitor (unheldState s) = decide (s.sel.slot = 64) := rfl
  have hcur : cur (if onMonitor (unheldState s) then unheldState s else yieldPipe (unheldState s)) = cur (unheldState s) := by
    split
    · rfl
    · exact cur_yieldPipe _
  rw [cur_unheldState] at hcur
  refine ⟨dataKept_of_reads _ fun r k _ => ?_, fun c k _ => ?_, fun p k _ => ?_, ?_, ?_, ?_, fun k => ?_, fun hslot => ?_⟩
  · rw [hcur, mapIssued_eq]
    exact ⟨by cases r <;> rfl, by cases r <;> rfl⟩
  · rw [hcur, mapIssued_eq]
    exact ⟨rfl, rfl⟩
  · rw [hcur, mapIssued_eq]
    rfl
  · rw [BenchKept, hcur, mapIssued_eq]
    exact ⟨rfl, rfl, rfl, rfl, rfl, rfl, rfl, rfl, rfl, rfl⟩
  · rw [hcur]
  · split <;> rfl
  · rw [hcur]
    exact getSeat_mapIssued s (cur s) _ (length_seats_of_shaped h) k
  · rw [hmon, if_neg (by simpa using hslot), yieldPipe]
    change _ ∈ (getCore (putCore (unheldState s) s.sel.core _) s.sel.core).pipeYield
    rw [getCore_putCore_same]
    exact List.mem_cons_self

/-! ## `pause` (R98) -/

/-- The last reads of the seats that go on. -/
def goingReads (s : State) (srcs : List Src) (waits : Nat → Option Wait) (b : Bench) : Bench :=
  lastReads b (maskOf fun k => s.sel.seats.getLsbD k && (waits k).isNone) srcs
/-- A seat of a pass of class W goes on, or is blocked at its instruction. -/
def goOrWait (s : State) (srcs : List Src) (waits : Nat → Option Wait) (k : Nat) (x : Seat) : Seat :=
  match waits k with
  | none => pastSeat x s.sel.len false
  | some w => blockSeat srcs w x
theorem retireBlocking_eq_moveWith (s : State) (srcs : List Src) (waits : Nat → Option Wait) :
    retireBlocking s srcs waits = moveWith s [] (goingReads s srcs waits) (goOrWait s srcs waits) := rfl
theorem keepsSeats_goingReads (s : State) (srcs : List Src) (waits : Nat → Option Wait) : KeepsSeats (goingReads s srcs waits) :=
  ⟨fun b => shaped_lastReads b _ srcs, fun b => seats_lastReads b _ srcs⟩
theorem goOrWait_none {s : State} {srcs : List Src} {waits : Nat → Option Wait} {k : Nat} (h : waits k = none) (x : Seat) :
    goOrWait s srcs waits k x = pastSeat x s.sel.len false := by simp only [goOrWait, h]
theorem goOrWait_some {s : State} {srcs : List Src} {waits : Nat → Option Wait} {k : Nat} {w : Wait} (h : waits k = some w) (x : Seat) :
    goOrWait s srcs waits k x = blockSeat srcs w x := by simp only [goOrWait, h]

/-- What a seat waits for whose time is still to come. -/
def pauseWait (s : State) (a : Src) (k : Nat) : Option Wait :=
  if (srcV s a k).toNat ≤ s.bell.toNat then none else some (.pause (srcV s a k))
theorem pauseHoldsSeats {s : State} (a : Src) (h : Shaped (cur s)) (hclear : OperandsClear s [a.reg] [] [] []) :
    ∃ t, exec (.pause a) s = .next t ∧ LeavesOutside s t ∧
      CapsKept s t (fun _ => False) ∧ PredsKept s t (fun _ => False) ∧ BenchKept s t ∧
      ∀ k ∈ issued s,
        ((srcV s a k).toNat ≤ s.bell.toNat → getSeat (cur t) k = pastSeat (getSeat (cur s) k) s.sel.len false) ∧
        (s.bell.toNat < (srcV s a k).toNat → (getSeat (cur t) k).state = .blocked (.pause (srcV s a k)) ∧
          (getSeat (cur t) k).pc = (getSeat (cur s) k).pc) := by
  have hexec : exec (.pause a) s = .next (retireBlocking s [a] (pauseWait s a)) :=
    guardPass_clear _ _ _ fun k hk => useFault_clear s (usesOf (.pause a)) hclear k hk
  rw [retireBlocking_eq_moveWith] at hexec
  have heff := keepsSeats_goingReads s [a] (pauseWait s a)
  refine ⟨_, hexec, leavesOutside_moveWith _ _ _ _,
    capsKept_moveWith _ _ heff h _ fun b c k _ => ⟨readC_lastReads _ _ _ _ _, poisonC_lastReads _ _ _ _ _⟩,
    predsKept_moveWith _ _ _ _ _ fun b p k _ => readP_lastReads _ _ _ _ _, benchKept_moveWith _ _ _ _ fun b => benchRest_lastReads _ _ _,
    fun k hk => ?_⟩
  have hseat := seatsBecome_moveWith [] (goOrWait s [a] (pauseWait s a)) heff h k
  rw [if_pos hk] at hseat
  rw [hseat]
  refine ⟨fun hdue => goOrWait_none (if_pos hdue) _, fun hlater => ?_⟩
  rw [goOrWait_some (if_neg (Nat.not_le.mpr hlater))]
  exact ⟨rfl, rfl⟩

/-! ## `brk` (R99) -/

theorem brkTraps {s : State} (hi lo : BitVec 6) (h : Shaped (cur s)) (hslot : s.sel.slot ≠ 64) (hissued : issued s ≠ []) :
    ∃ t, exec (.brk hi lo) s = .next t ∧ t = { s with cores := t.cores } ∧
      (cur t).mode = .faulted ∧ (∀ k, (getSeat (cur t) k).pc = (getSeat (cur s) k).pc) ∧
      ∃ q, (getCore t s.sel.core).faultQ = (getCore s s.sel.core).faultQ ++ [q] ∧ q.code = 0x60 ∧ q.sub = 1 ∧
        q.aux = BitVec.ofNat 128 (64 * hi.toNat + lo.toNat) ∧ q.ifa = s.sel.pc ∧ q.past = false ∧
        q.resume = (getSeat (cur s) ((issued s).headD 0)).hdr ∧ q.index = (getSeat (cur s) ((issued s).headD 0)).idx := by
  obtain ⟨t, ht, hstop⟩ := guardPass_stops (f := fun _ => some (auxFault 0x60 1 (hi.toNat * 64 + lo.toNat)))
    (head_mem_issued hissued) rfl (fun j hj hlt => absurd hlt (not_lt_head_issued hj)) s h hslot rfl nofun nofun
  refine ⟨t, (passFault_eq_guardPass s _).trans ht, hstop.outside, hstop.mode, fun k => congrArg (·.1) (hstop.standing.place k),
    _, hstop.queue, rfl, rfl, ?_, rfl, rfl, rfl, rfl⟩
  exact congrArg (BitVec.ofNat 128) (by rw [Nat.mul_comm])

/-- Settles O14, each instruction by its own lemma; `exit` because leaving groups and dropping rights keep the bench's shape. -/
theorem threadsEndYieldPauseAndBreak : Obligations.ThreadsEndYieldPauseAndBreak :=
  fun _ a hi lo h => ⟨exitEndsThreads h, yieldGivesWay h, pauseHoldsSeats a h, brkTraps hi lo h⟩

end Sys2Proof.Machine
end

section
/-!
PROOF. Laws of groups (R113, R114, R158): the groups of a task, what completing a phase does to the threads that wait for it, and what
abandoning mailboxes leaves.
-/
namespace Sys2Proof.Machine
open Sys2Proof

/-! ## The groups of a task (R113) -/

theorem lookupKey_dropKey_same {κ α : Type} [BEq κ] [LawfulBEq κ] (l : List (κ × α)) (k : κ) : lookupKey (dropKey l k) k = none := by
  rw [lookupKey, Option.map_eq_none_iff, List.find?_eq_none]
  intro e he
  simpa using (List.mem_filter.mp he).2
theorem lookupKey_dropKey_other {κ α : Type} [BEq κ] [LawfulBEq κ] (l : List (κ × α)) {k j : κ} (h : j ≠ k) :
    lookupKey (dropKey l k) j = lookupKey l j := by
  rw [lookupKey, lookupKey, dropKey, List.find?_filter]
  congr 2
  funext e
  by_cases he : e.1 = j
  · simp [he, h]
  · simp [he]

section PutGroup
variable (t : Task) (g : Nat) (x : Group)
/-- An empty group is not kept. -/
theorem getGroup_putGroup_empty (hm : x.members = []) (hc : x.copies = 0) : getGroup (putGroup t g x) g = Group.empty := by
  rw [putGroup, if_pos (by simp [hm, hc]), getGroup, lookupKey_dropKey_same, Option.getD_none]
theorem getGroup_putGroup_same (h : x.members ≠ [] ∨ x.copies ≠ 0) : getGroup (putGroup t g x) g = x := by
  have hne : ¬(x.members.isEmpty && x.copies == 0) = true := by
    rw [Bool.and_eq_true, List.isEmpty_iff, beq_iff_eq]
    rintro ⟨hm, hc⟩
    exact h.elim (absurd hm) (absurd hc)
  rw [putGroup, if_neg hne, getGroup, lookupKey_putKey_same, Option.getD_some]
theorem getGroup_putGroup_other {h : Nat} (hne : h ≠ g) : getGroup (putGroup t g x) h = getGroup t h := by
  unfold putGroup
  split
  · rw [getGroup, lookupKey_dropKey_other _ hne, getGroup]
  · rw [getGroup, lookupKey_putKey_other _ _ _ _ (Ne.symm hne), getGroup]
theorem putGroup_eq : putGroup t g x = { t with groups := (putGroup t g x).groups } := by
  unfold putGroup
  split <;> rfl
end PutGroup

/-- A task as another one is, but for its groups and what its cores hold: its number, and the core of each team core. -/
structure SamePlaces (t u : Task) : Prop where
  id : u.id = t.id
  phys : u.cores.map (·.phys) = t.cores.map (·.phys)
theorem samePlaces_refl (t : Task) : SamePlaces t t := ⟨rfl, rfl⟩
theorem SamePlaces.trans {t u v : Task} (h : SamePlaces t u) (h' : SamePlaces u v) : SamePlaces t v :=
  ⟨h'.id.trans h.id, h'.phys.trans h.phys⟩
theorem samePlaces_putGroup (t : Task) (g : Nat) (x : Group) : SamePlaces t (putGroup t g x) := by
  rw [putGroup_eq]
  exact ⟨rfl, rfl⟩
theorem coreTOf_eq (t : Task) (core : Nat) : coreTOf t core = ((t.cores.map (·.phys)).findIdx? (· == core)).getD 0 := by
  rw [coreTOf, List.findIdx?_map]
  rfl
theorem coreTOf_of_samePlaces {t u : Task} (h : SamePlaces t u) (core : Nat) : coreTOf u core = coreTOf t core := by
  rw [coreTOf_eq, coreTOf_eq, h.phys]
/-- The benches of a task are those of any task of its number on its cores. -/
theorem taskBenches_of_samePlaces {t u : Task} (h : SamePlaces t u) {s s' : State} (hc : s'.cores = s.cores) :
    taskBenches s' u = taskBenches s t := by
  have hlist : ∀ (r : State) (v : Task), taskBenches r v = (v.cores.map (·.phys)).flatMap fun p =>
      ((getCore r p).benches.filter fun e => e.1 != 64 && e.2.task == v.id).map fun e => (p, e.1) := fun r v => by
    rw [taskBenches, List.flatMap_map]
  rw [hlist, hlist, h.phys, h.id]
  simp only [getCore, hc]

/-! ## Lines that drain (R194) -/

theorem map_setNth_nth {α β : Type} (l : List α) (k : Nat) (f : α → β) (d x : α) (h : f x = f (nth l k d)) :
    (setNth l k x).map f = l.map f := by
  rw [setNth, List.map_set, h]
  by_cases hk : k < l.length
  · rw [nth, List.getD_eq_getElem _ _ hk, ← List.getElem_map f (h := by rwa [List.length_map]), List.set_getElem_self]
  · exact List.set_eq_of_length_le (by rw [List.length_map]; omega)
/-- Draining changes what is held, not the groups, and not where the task is. -/
structure DrainKeeps (t u : Task) : Prop extends SamePlaces t u where
  groups : u.groups = t.groups
theorem drainKeeps_drainLine (t : Task) (k line : Nat) : DrainKeeps t (drainLine t k line) := by
  unfold drainLine
  dsimp only
  split
  · exact ⟨samePlaces_refl t, rfl⟩
  · exact ⟨⟨rfl, map_setNth_nth _ _ _ TaskCore.none_ _ rfl⟩, rfl⟩
theorem drainKeeps_drainCore (t : Task) (k : Nat) : DrainKeeps t (drainCore t k) :=
  foldl_keeps (DrainKeeps t) _ _ t ⟨samePlaces_refl t, rfl⟩ fun u line hu =>
    ⟨hu.toSamePlaces.trans (drainKeeps_drainLine u k line).toSamePlaces, (drainKeeps_drainLine u k line).groups.trans hu.groups⟩
theorem getGroup_drainCore (t : Task) (k g : Nat) : getGroup (drainCore t k) g = getGroup t g := by
  rw [getGroup, (drainKeeps_drainCore t k).groups, getGroup]
/-- Mailboxes that are armed or abandoned leave the groups and the places. -/
theorem samePlaces_onBound (t : Task) (g : Nat) (f : Mailbox → Mailbox) : SamePlaces t (onBound t g f) :=
  ⟨rfl, by rw [onBound, List.map_map]; rfl⟩
theorem getGroup_onBound (t : Task) (g h : Nat) (f : Mailbox → Mailbox) : getGroup (onBound t g f) h = getGroup t h := rfl

/-! ## Finding a task that has been put -/

theorem id_of_findTask {s : State} {id : Word} {t : Task} (h : findTask s id = some t) : t.id = id := by
  simpa using List.find?_some h
theorem findTask_putTask_of_id {s : State} {id : Word} {t u : Task} (h : findTask s id = some u) (hid : t.id = id) :
    findTask (putTask s t) id = some t := by
  subst hid
  exact findTask_putTask s t u h
theorem findTask_putTask_other (s : State) {id : Word} {t : Task} (hid : t.id ≠ id) : findTask (putTask s t) id = findTask s id := by
  rw [findTask, findTask, putTask, List.find?_map]
  induction s.tasks with
  | nil => rfl
  | cons x l ih =>
    by_cases hx : x.id = t.id
    · simpa [hx, hid] using ih
    · by_cases hxi : x.id = id
      · simp [hxi, Ne.symm hid]
      · simpa [hx, hxi] using ih

/-! ## The end of a phase (R113, R116) -/

theorem phaseDone_iff (x : Group) : phaseDone x = true ↔ phaseFull x := by
  rw [phaseDone, phaseFull, Bool.and_eq_true, bne_iff_ne, beq_iff_eq, Nat.pos_iff_ne_zero]

/-- The next phase of a group. -/
def nextPhase (x : Group) : Group := { x with marked := [], applied := [], copies := 0, copyArrived := 0, phase := x.phase + 1 }
/-- What a group becomes once its members or arrivals have changed to y. -/
theorem groupSettles_of_full {y : Group} (t : Task) (g : Nat) (h : phaseFull y) :
    groupSettles y (getGroup (putGroup t g (nextPhase y)) g) := by
  refine ⟨fun ⟨_, hm⟩ => getGroup_putGroup_same t g (nextPhase y) (.inl hm), fun ⟨hn, _⟩ => absurd h hn,
    fun hm _ => getGroup_putGroup_empty t g (nextPhase y) hm rfl⟩
theorem groupSettles_of_open {y : Group} (t : Task) (g : Nat) (h : ¬phaseFull y) : groupSettles y (getGroup (putGroup t g y) g) := by
  refine ⟨fun ⟨hf, _⟩ => absurd hf h, fun ⟨_, hne⟩ => getGroup_putGroup_same t g y hne,
    fun hm hc => getGroup_putGroup_empty t g y hm (hc.resolve_left h)⟩

/-- A seat that waits for a phase of the group goes on at its next instruction. -/
def wokenSeat (g : Nat) (x : Seat) : Seat :=
  if x.state = .blocked (.phase g) then { pastSeat x 4 false with state := .eligible, due := [] } else x
theorem wokenSeat_eligible (g : Nat) {x : Seat} (h : x.state = .eligible) : wokenSeat g x = x := if_neg (by rw [h]; nofun)
theorem wokenSeat_blocked {g : Nat} {x : Seat} (h : x.state = .blocked (.phase g)) :
    (wokenSeat g x).state = .eligible ∧ (wokenSeat g x).pc = x.pc + 4 := by
  rw [wokenSeat, if_pos h]
  exact ⟨rfl, rfl⟩
/-- One seat of a bench, as the end of a phase of the group leaves it. -/
def wakeSeatOf (g : Nat) (b : Bench) (k : Nat) : Bench :=
  match (getSeat b k).state with
  | .blocked (.phase h) => if h = g then unblockSeat b k 4 false else b
  | _ => b

section WakeSeat
variable (g : Nat) (b : Bench)
theorem unblockSeat_eq (k len : Nat) (closes : Bool) : unblockSeat b k len closes =
    { b with
      vrows := ((getSeat b k).due.foldl (fun b r => { b with vrows := clearLive b.vrows r (seatBit k) }) b).vrows
      seats := setNth b.seats k { pastSeat (getSeat b k) len closes with state := .eligible, due := [] } } := by
  have hfold : ∀ (rs : List Nat) (b : Bench), rs.foldl (fun b r => { b with vrows := clearLive b.vrows r (seatBit k) }) b =
      { b with vrows := (rs.foldl (fun b r => { b with vrows := clearLive b.vrows r (seatBit k) }) b).vrows } := by
    intro rs
    induction rs with
    | nil => intro b; rfl
    | cons r rs ih => intro b; exact (ih _).trans rfl
  rw [unblockSeat, hfold]
  rfl
theorem getSeat_unblockSeat_same {k : Nat} (len : Nat) (closes : Bool) (hk : k < b.seats.length) :
    getSeat (unblockSeat b k len closes) k = { pastSeat (getSeat b k) len closes with state := .eligible, due := [] } := by
  rw [unblockSeat_eq]
  exact nth_setNth_same _ _ _ _ hk
theorem getSeat_unblockSeat_other {k j : Nat} (len : Nat) (closes : Bool) (h : k ≠ j) :
    getSeat (unblockSeat b k len closes) j = getSeat b j := by
  rw [unblockSeat_eq]
  exact nth_setNth_other _ _ _ _ _ h
/-- A place without a seat reads as an exited seat. -/
theorem lt_length_of_not_exited {k : Nat} (h : (getSeat b k).state ≠ .exited) : k < b.seats.length := by
  by_contra hk
  exact h (by rw [getSeat, nth_eq_default _ _ _ (Nat.not_lt.mp hk)]; rfl)
theorem wakeSeatOf_cases (k : Nat) : wakeSeatOf g b k =
    if (getSeat b k).state = .blocked (.phase g) then unblockSeat b k 4 false else b := by
  unfold wakeSeatOf
  split
  case h_1 h heq =>
    by_cases hg : h = g
    · rw [if_pos hg, if_pos (by rw [heq, hg])]
    · rw [if_neg hg, if_neg (by rw [heq]; simpa using hg)]
  case h_2 hno => rw [if_neg fun h => hno g h]
theorem getSeat_wakeSeatOf (k j : Nat) :
    getSeat (wakeSeatOf g b k) j = if j = k then wokenSeat g (getSeat b j) else getSeat b j := by
  rw [wakeSeatOf_cases]
  by_cases hb : (getSeat b k).state = .blocked (.phase g)
  · rw [if_pos hb]
    by_cases hjk : j = k
    · subst hjk
      rw [getSeat_unblockSeat_same b 4 false (lt_length_of_not_exited b (by rw [hb]; nofun)), if_pos rfl, wokenSeat, if_pos hb]
    · rw [getSeat_unblockSeat_other b 4 false (Ne.symm hjk), if_neg hjk]
  · rw [if_neg hb]
    split
    case isTrue h => rw [h, wokenSeat, if_neg hb]
    case isFalse => rfl
/-- A bench whose seats that wait for a phase of the group have gone on. -/
def wokenBench : Bench := (List.range 32).foldl (wakeSeatOf g) b
theorem getSeat_wokenBench (j : Nat) :
    getSeat (wokenBench g b) j = if j < 32 then wokenSeat g (getSeat b j) else getSeat b j := by
  have hfold : ∀ (ks : List Nat) (b : Bench), ks.Nodup →
      getSeat (ks.foldl (wakeSeatOf g) b) j = if j ∈ ks then wokenSeat g (getSeat b j) else getSeat b j := by
    intro ks
    induction ks with
    | nil => intro b _; simp
    | cons k ks ih =>
      intro b hn
      obtain ⟨hk, hn⟩ := List.nodup_cons.mp hn
      rw [List.foldl_cons, ih _ hn, getSeat_wakeSeatOf]
      by_cases hj : j = k
      · subst hj
        simp [hk]
      · simp [hj]
  rw [wokenBench, hfold _ _ List.nodup_range]
  simp only [List.mem_range]
/-- The bench is of the same task, and the same bench of it. -/
theorem owner_wokenBench : (wokenBench g b).task = b.task ∧ (wokenBench g b).benchT = b.benchT := by
  refine foldl_keeps (fun c : Bench => c.task = b.task ∧ c.benchT = b.benchT) _ _ b ⟨rfl, rfl⟩ fun c k hc => ?_
  rw [wakeSeatOf_cases]
  split
  · rw [unblockSeat_eq]
    exact hc
  · exact hc
end WakeSeat

/-- A change of benches that leaves those who run: the selection, memory, the owner of each bench, and each eligible seat at its
instruction. -/
structure KeepsRunning (s t : State) : Prop extends KeepsShapes s t where
  mem : t.mem = s.mem
  task : ∀ core slot, (getBench t core slot).task = (getBench s core slot).task
  benchT : ∀ core slot, (getBench t core slot).benchT = (getBench s core slot).benchT
  seat : ∀ core slot j, (getSeat (getBench s core slot) j).state = .eligible →
    (getSeat (getBench t core slot) j).state = .eligible ∧ (getSeat (getBench t core slot) j).pc = (getSeat (getBench s core slot) j).pc
theorem keepsRunning_of_cores {s t : State} (hsel : t.sel = s.sel) (hmem : t.mem = s.mem) (hcores : t.cores = s.cores) :
    KeepsRunning s t := by
  have hbench : ∀ core slot, getBench t core slot = getBench s core slot := fun core slot => by rw [getBench, getCore, hcores]; rfl
  refine ⟨keepsShapes_of_cores hsel hcores, hmem, fun core slot => ?_, fun core slot => ?_, fun core slot j hj => ?_⟩ <;>
    rw [hbench]
  exact ⟨hj, rfl⟩
theorem keepsRunning_putTask (s : State) (t : Task) : KeepsRunning s (putTask s t) := keepsRunning_of_cores rfl rfl rfl
theorem keepsRunning_refl (s : State) : KeepsRunning s s := keepsRunning_of_cores rfl rfl rfl
theorem KeepsRunning.trans {s t u : State} (h : KeepsRunning s t) (h' : KeepsRunning t u) : KeepsRunning s u := by
  refine ⟨h.toKeepsShapes.trans h'.toKeepsShapes, h'.mem.trans h.mem, fun core slot => (h'.task core slot).trans (h.task core slot),
    fun core slot => (h'.benchT core slot).trans (h.benchT core slot), fun core slot j hj => ?_⟩
  obtain ⟨hstate, hpc⟩ := h.seat core slot j hj
  obtain ⟨hstate', hpc'⟩ := h'.seat core slot j hstate
  exact ⟨hstate', hpc'.trans hpc⟩
/-- A bench that is put for one of the same owner, whose eligible seats stay. -/
theorem keepsRunning_putBench (s : State) (k slot : Nat) {b : Bench} (hshape : Shaped (getBench s k slot) → Shaped b)
    (htask : b.task = (getBench s k slot).task) (hbenchT : b.benchT = (getBench s k slot).benchT)
    (hseat : ∀ j, (getSeat (getBench s k slot) j).state = .eligible →
      (getSeat b j).state = .eligible ∧ (getSeat b j).pc = (getSeat (getBench s k slot) j).pc) : KeepsRunning s (putBench s k slot b) := by
  refine ⟨keepsShapes_putBench s k slot hshape, rfl, fun core slot' => ?_, fun core slot' => ?_, fun core slot' j hj => ?_⟩ <;>
    by_cases he : core = k ∧ slot' = slot
  case pos => obtain ⟨rfl, rfl⟩ := he; rwa [getBench_putBench_same]
  case neg => rw [getBench_putBench_other _ _ _ _ _ _ he]
  case pos => obtain ⟨rfl, rfl⟩ := he; rwa [getBench_putBench_same]
  case neg => rw [getBench_putBench_other _ _ _ _ _ _ he]
  case pos => obtain ⟨rfl, rfl⟩ := he; rw [getBench_putBench_same]; exact hseat j hj
  case neg => rw [getBench_putBench_other _ _ _ _ _ _ he]; exact ⟨hj, rfl⟩
theorem shaped_wokenBench (g : Nat) {b : Bench} (h : Shaped b) : Shaped (wokenBench g b) := by
  refine foldl_keeps Shaped _ _ b h fun c k hc => ?_
  rw [wakeSeatOf_cases]
  split
  · exact shaped_unblockSeat k 4 false hc
  · exact hc
/-- The seats of one bench that wait for a phase go on. -/
def wakeBench (g : Nat) (s : State) (e : Nat × Nat) : State := putBench s e.1 e.2 (wokenBench g (getBench s e.1 e.2))
theorem wakePhase_eq (s : State) (t : Task) (g : Nat) : wakePhase s t g = (taskBenches s t).foldl (wakeBench g) s := rfl
theorem keepsRunning_wakeBench (g : Nat) (s : State) (e : Nat × Nat) : KeepsRunning s (wakeBench g s e) := by
  obtain ⟨htask, hbenchT⟩ := owner_wokenBench g (getBench s e.1 e.2)
  refine keepsRunning_putBench s e.1 e.2 (shaped_wokenBench g) htask hbenchT fun j hj => ?_
  rw [getSeat_wokenBench, wokenSeat_eligible g hj, ite_self]
  exact ⟨hj, rfl⟩
theorem keepsRunning_wakePhase (s : State) (t : Task) (g : Nat) : KeepsRunning s (wakePhase s t g) := by
  rw [wakePhase_eq]
  exact foldl_keeps (KeepsRunning s) _ _ s (keepsRunning_refl s) fun u e hu => hu.trans (keepsRunning_wakeBench g u e)
theorem getSeat_wakeBench (g : Nat) (s : State) (e : Nat × Nat) (core slot : Nat) {j : Nat} (hj : j < 32) :
    getSeat (getBench (wakeBench g s e) core slot) j =
      if e = (core, slot) then wokenSeat g (getSeat (getBench s core slot) j) else getSeat (getBench s core slot) j := by
  unfold wakeBench
  by_cases he : e = (core, slot)
  · subst he
    rw [getBench_putBench_same, getSeat_wokenBench, if_pos hj, if_pos rfl]
  · rw [getBench_putBench_other _ _ _ _ _ _ fun h => he (Prod.ext h.1.symm h.2.symm), if_neg he]
/-- Every seat of the task's benches that waits for the phase goes on at its next instruction. -/
theorem wakePhase_wakes (s : State) (t : Task) (g : Nat) {e : Nat × Nat} (he : e ∈ taskBenches s t) {j : Nat} (hj : j < 32)
    (hb : (getSeat (getBench s e.1 e.2) j).state = .blocked (.phase g)) :
    (getSeat (getBench (wakePhase s t g) e.1 e.2) j).state = .eligible ∧
      (getSeat (getBench (wakePhase s t g) e.1 e.2) j).pc = (getSeat (getBench s e.1 e.2) j).pc + 4 := by
  rw [wakePhase_eq]
  revert he
  generalize taskBenches s t = l
  intro he
  induction l generalizing s with
  | nil => exact absurd he List.not_mem_nil
  | cons x l ih =>
    rw [List.foldl_cons]
    have hx := getSeat_wakeBench g s x e.1 e.2 hj
    by_cases hxe : x = e
    · rw [if_pos hxe] at hx
      have hwoken := wokenSeat_blocked hb
      rw [← hx] at hwoken
      have hrest := foldl_keeps (KeepsRunning (wakeBench g s x)) (wakeBench g) l _ (keepsRunning_refl _) fun u y hu =>
        hu.trans (keepsRunning_wakeBench g u y)
      obtain ⟨hstate, hpc⟩ := hrest.seat e.1 e.2 j hwoken.1
      exact ⟨hstate, hpc.trans hwoken.2⟩
    · rw [if_neg hxe] at hx
      rw [← hx] at hb ⊢
      exact ih (wakeBench g s x) hb ((List.mem_cons.mp he).resolve_left (Ne.symm hxe))

/-! ## A group that has changed settles (R113) -/

/-- What is left once a group of a task has changed to y: the task with the group settled and no other group changed, and every thread
that waited for a phase that is now full on its way. -/
structure GroupChanged (s t : State) (T : Task) (g : Nat) (y : Group) : Prop extends KeepsRunning s t where
  changed : ∃ T', findTask t T.id = some T' ∧ groupSettles y (getGroup T' g) ∧ (∀ h, h ≠ g → getGroup T' h = getGroup T h) ∧
    SamePlaces T T'
  woken : phaseFull y → ∀ e ∈ taskBenches s T, ∀ j, j < 32 → (getSeat (getBench s e.1 e.2) j).state = .blocked (.phase g) →
    (getSeat (getBench t e.1 e.2) j).state = .eligible ∧
      (getSeat (getBench t e.1 e.2) j).pc = (getSeat (getBench s e.1 e.2) j).pc + 4

/-- A full phase puts the group's next phase where the group stood. -/
theorem getGroup_putGroup_putGroup (t : Task) (g : Nat) (y : Group) (h : phaseFull y) :
    getGroup (putGroup t g y) g = y := by
  refine getGroup_putGroup_same t g y ?_
  obtain ⟨hpos, -⟩ := h
  by_cases hm : y.members = []
  · rw [hm, List.length_nil, Nat.zero_add] at hpos
    exact .inr hpos.ne'
  · exact .inl hm
theorem getGroup_putGroup_open (t : Task) (g : Nat) (y : Group) (h : ¬phaseFull y) : ¬phaseFull (getGroup (putGroup t g y) g) := by
  by_cases he : y.members = [] ∧ y.copies = 0
  · rw [getGroup_putGroup_empty t g y he.1 he.2]
    rintro ⟨hpos, -⟩
    exact absurd hpos (by decide)
  · rwa [getGroup_putGroup_same t g y ((not_and_or.mp he))]
theorem settleGroup_of_full {s : State} {id : Word} {t : Task} {g : Nat} (ht : findTask s id = some t) (h : phaseFull (getGroup t g)) :
    settleGroup s id g = wakePhase (putTask s (putGroup t g (nextPhase (getGroup t g)))) t g := by
  simp only [settleGroup, ht, if_pos ((phaseDone_iff _).mpr h)]
  rfl
theorem settleGroup_of_open {s : State} {id : Word} {t : Task} {g : Nat} (ht : findTask s id = some t) (h : ¬phaseFull (getGroup t g)) :
    settleGroup s id g = s := by
  simp only [settleGroup, ht]
  exact if_neg fun hd => h ((phaseDone_iff _).mp hd)
theorem wakePhase_outside (s : State) (t : Task) (g : Nat) : wakePhase s t g = { s with cores := (wakePhase s t g).cores } := by
  rw [wakePhase_eq]
  exact foldl_keeps (fun u : State => u = { s with cores := u.cores }) _ _ s rfl fun u e hu => by
    rw [wakeBench, hu]
    rfl
/-- A group of a task changes to y, and settles. `s'` has the benches of s and its tasks, U the places of T and its other groups. -/
theorem groupChanged_settleGroup {s s' : State} {T T' U : Task} {g : Nat} (y : Group) (hT : findTask s' T.id = some T')
    (hsame : KeepsRunning s s') (hcores : s'.cores = s.cores) (hU : SamePlaces T U) (hgroups : ∀ h, h ≠ g → getGroup U h = getGroup T h) :
    GroupChanged s (settleGroup (putTask s' (putGroup U g y)) T.id g) T g y := by
  have hplace := hU.trans (samePlaces_putGroup U g y)
  have hfind : findTask (putTask s' (putGroup U g y)) T.id = some (putGroup U g y) := findTask_putTask_of_id hT hplace.id
  have hput : KeepsRunning s (putTask s' (putGroup U g y)) := hsame.trans (keepsRunning_of_cores rfl rfl rfl)
  have hothers : ∀ h, h ≠ g → getGroup (putGroup U g y) h = getGroup T h := fun h hne =>
    (getGroup_putGroup_other U g y hne).trans (hgroups h hne)
  by_cases hfull : phaseFull y
  · have hgot := getGroup_putGroup_putGroup U g y hfull
    rw [settleGroup_of_full hfind (by rwa [hgot]), hgot]
    generalize hV : putGroup (putGroup U g y) g (nextPhase y) = V
    have hVplace : SamePlaces (putGroup U g y) V := hV ▸ samePlaces_putGroup _ g _
    have hfindV : findTask (putTask (putTask s' (putGroup U g y)) V) T.id = some V :=
      findTask_putTask_of_id hfind (hVplace.id.trans hplace.id)
    refine ⟨(hput.trans (keepsRunning_putTask _ V)).trans (keepsRunning_wakePhase _ _ g),
      ⟨V, ?_, hV ▸ groupSettles_of_full _ g hfull, fun h hne => ?_, hplace.trans hVplace⟩, fun _ e he j hj hb => ?_⟩
    · rw [wakePhase_outside]
      exact hfindV
    · rw [← hV, getGroup_putGroup_other _ g _ hne, hothers h hne]
    · have hbench : ∀ core slot, getBench (putTask (putTask s' (putGroup U g y)) V) core slot = getBench s core slot := fun core slot => by
        rw [getBench, getCore, putTask_cores, putTask_cores, hcores]
        rfl
      rw [← hbench] at hb ⊢
      refine wakePhase_wakes _ _ g ?_ hj hb
      rwa [taskBenches_of_samePlaces hplace (s := s) (by rw [putTask_cores, putTask_cores, hcores])]
  · rw [settleGroup_of_open hfind (getGroup_putGroup_open U g y hfull)]
    exact ⟨hput, ⟨_, hfind, groupSettles_of_open U g hfull, hothers, hplace⟩, fun hf => absurd hf hfull⟩

/-! ## Abandoned mailboxes (R158) -/

/-- A task of a number stands with the groups and the places of T. -/
def StandsWith (s : State) (T : Task) : Prop := ∃ T', findTask s T.id = some T' ∧ T'.groups = T.groups ∧ SamePlaces T T'
theorem standsWith_putTask {s : State} {T : Task} (h : StandsWith s T) {id : Word} {t u : Task} (ht : findTask s id = some t)
    (hgroups : u.groups = t.groups) (hplace : SamePlaces t u) : StandsWith (putTask s u) T := by
  obtain ⟨T', hT', hg, hp⟩ := h
  have hid := id_of_findTask ht
  by_cases he : id = T.id
  · subst he
    obtain rfl := Option.some.inj (hT'.symm.trans ht)
    exact ⟨u, findTask_putTask_of_id ht (hplace.id.trans hid), hgroups.trans hg, hp.trans hplace⟩
  · refine ⟨T', ?_, hg, hp⟩
    rwa [findTask_putTask_other s (by rw [hplace.id, hid]; exact he)]
/-- A party that is woken for a fault: its seat, where it is resident, is eligible where it stood. -/
theorem keepsRunning_onSeat_wake (s : State) (core slot k : Nat) (f : WakeFault) :
    KeepsRunning s (onSeat s core slot k fun x => { x with state := .eligible, wake := some f, due := [] }) := by
  refine keepsRunning_putBench s core slot (shaped_putSeat k _) rfl rfl fun j hj => ?_
  by_cases hjk : k = j
  · subst hjk
    have hlen := lt_length_of_not_exited (getBench s core slot) (by rw [hj]; nofun)
    rw [getSeat, putSeat, nth_setNth_same _ _ _ _ hlen]
    exact ⟨rfl, rfl⟩
  · rw [getSeat, putSeat, nth_setNth_other _ _ _ _ _ hjk]
    exact ⟨hj, rfl⟩
theorem wakeParty_keeps (s : State) (id : Word) (ct bt k : Nat) (f : WakeFault) :
    KeepsRunning s (wakeParty s (.seat id ct bt k) f) ∧ ∀ T, StandsWith s T → StandsWith (wakeParty s (.seat id ct bt k) f) T := by
  cases ht : findTask s id with
  | none =>
    simp only [wakeParty, ht]
    exact ⟨keepsRunning_refl s, fun _ h => h⟩
  | some t =>
    have hsaved : KeepsRunning s (putTask s (savedWake t ⟨ct, bt, k⟩ f)) ∧
        ∀ T, StandsWith s T → StandsWith (putTask s (savedWake t ⟨ct, bt, k⟩ f)) T :=
      ⟨keepsRunning_of_cores rfl rfl rfl, fun T h => standsWith_putTask h ht rfl ⟨rfl, rfl⟩⟩
    simp only [wakeParty, ht]
    split
    · refine ⟨KeepsRunning.trans ?_ (keepsRunning_onSeat_wake _ _ _ k f), fun T h => ?_⟩
      · split
        · exact hsaved.1
        · exact keepsRunning_refl s
      · rw [StandsWith, findTask, onSeat_tasks]
        split
        · exact hsaved.2 T h
        · exact h
    · exact hsaved
theorem abandonMail_keeps (s : State) (id : Word) (g : Nat) :
    KeepsRunning s (abandonMail s id g) ∧ ∀ T, StandsWith s T → StandsWith (abandonMail s id g) T := by
  cases ht : findTask s id with
  | none =>
    simp only [abandonMail, ht]
    exact ⟨keepsRunning_refl s, fun _ h => h⟩
  | some t =>
    simp only [abandonMail, ht]
    refine foldl_keeps (fun u => KeepsRunning s u ∧ ∀ T, StandsWith s T → StandsWith u T) _ _ _
      ⟨keepsRunning_of_cores rfl rfl rfl, fun T h => standsWith_putTask h ht rfl (samePlaces_onBound t g _)⟩ fun u r hu => ?_
    have hw := wakeParty_keeps u id r.1 r.2.2.1 r.2.2.2 ⟨0x31, 1, r.2.1⟩
    exact ⟨hu.1.trans hw.1, fun T h => hw.2 T (hu.2 T h)⟩
/-- A group that has changed is left as it is when the mailboxes bound to it are abandoned. -/
theorem groupChanged_abandonMail {s t : State} {T : Task} {g : Nat} {y : Group} (h : GroupChanged s t T g y) (id : Word) :
    GroupChanged s (abandonMail t id g) T g y := by
  obtain ⟨hrun, hstands⟩ := abandonMail_keeps t id g
  obtain ⟨T', hT', hsettles, hothers, hplace⟩ := h.changed
  have hid := id_of_findTask hT'
  obtain ⟨U, hU, hUg, hUp⟩ := hstands T' ⟨T', by rwa [hid], rfl, samePlaces_refl T'⟩
  refine ⟨h.toKeepsRunning.trans hrun, ⟨U, by rwa [hid] at hU, ?_, fun k hk => ?_, hplace.trans hUp⟩, fun hf e he j hj hb => ?_⟩
  · rwa [getGroup, hUg]
  · rw [getGroup, hUg]
    exact hothers k hk
  · obtain ⟨hstate, hpc⟩ := h.woken hf e he j hj hb
    obtain ⟨hstate', hpc'⟩ := hrun.seat e.1 e.2 j hstate
    exact ⟨hstate', hpc'.trans hpc⟩

/-! ## One seat joins, leaves, arrives or waits (R114, R115, R208) -/

/-- The seat has gone on at its next instruction. -/
def seatGoes (s t : State) (k : Nat) : Prop :=
  (getSeat (cur t) k).pc = (getSeat (cur s) k).pc + BitVec.ofNat 64 s.sel.len ∧ (getSeat (cur t) k).state = .eligible
/-- The seat waits for a phase of the group. -/
def seatWaits (s t : State) (k g : Nat) : Prop :=
  (getSeat (cur t) k).pc = (getSeat (cur s) k).pc ∧ (getSeat (cur t) k).state = .blocked (.phase g)
/-- The other threads that waited for a phase that is full go on at their next instructions. -/
def othersWake (s t : State) (T : Task) (g k : Nat) (y : Group) : Prop :=
  phaseFull y → ∀ e ∈ taskBenches s T, ∀ j, j < 32 → j ≠ k → (getSeat (getBench s e.1 e.2) j).state = .blocked (.phase g) →
    (getSeat (getBench t e.1 e.2) j).state = .eligible ∧
      (getSeat (getBench t e.1 e.2) j).pc = (getSeat (getBench s e.1 e.2) j).pc + 4
/-- The group of the selected bench's task has changed from y to z and settled, and no other group has changed. -/
def groupAfter (s t : State) (T : Task) (g : Nat) (y z : Group) : Prop :=
  ∃ T', isTask t (cur s).task T' ∧ getGroup T' g = z ∧ groupSettles y z ∧ ∀ h, h ≠ g → getGroup T' h = getGroup T h

theorem eachSeat_single {s : State} {k : Nat} (h : issued s = [k]) (f : State → Nat → State) : eachSeat s f = f s k := by
  rw [eachSeat, h]
  rfl
theorem curTask_eq {s : State} {T : Task} (h : findTask s (cur s).task = some T) : curTask s = T := by rw [curTask, h, Option.getD_some]

section OnSelected
variable (u : State) (k : Nat) (f : Seat → Seat)
theorem getSeat_onSeat_cur (hk : k < (cur u).seats.length) :
    getSeat (cur (onSeat u u.sel.core u.sel.slot k f)) k = f (getSeat (cur u) k) := by
  change getSeat (cur (putCur u (putSeat (cur u) k (f (getSeat (cur u) k))))) k = _
  rw [cur_putCur]
  exact nth_setNth_same _ _ _ _ hk
theorem getSeat_onSeat_other (core slot : Nat) {j : Nat} (h : j ≠ k) :
    getSeat (getBench (onSeat u u.sel.core u.sel.slot k f) core slot) j = getSeat (getBench u core slot) j := by
  unfold onSeat
  by_cases he : core = u.sel.core ∧ slot = u.sel.slot
  · obtain ⟨rfl, rfl⟩ := he
    rw [getBench_putBench_same]
    exact nth_setNth_other _ _ _ _ _ (Ne.symm h)
  · rw [getBench_putBench_other _ _ _ _ _ _ he]
end OnSelected
/-- A pass of one seat moves that seat. -/
theorem advance_single {u : State} {k : Nat} (h : issued u = [k]) : advance u false =
    onSeat u u.sel.core u.sel.slot k fun x => pastSeat x u.sel.len false := by
  rw [advance, mapIssued, h]
  rfl

section SingleSeat
variable {s : State} {T : Task} {g k : Nat} (hT : findTask s (cur s).task = some T) (hs : Shaped (cur s)) (hk : issued s = [k])
  (hrun : (getSeat (cur s) k).state = .eligible)

section Moves
variable {u : State} (hu : KeepsRunning s u)
include hs hk hrun hu

theorem seat_of_keepsRunning : k < (cur u).seats.length ∧ (getSeat (cur u) k).state = .eligible ∧
    (getSeat (cur u) k).pc = (getSeat (cur s) k).pc := by
  have hseat := hu.seat s.sel.core s.sel.slot k hrun
  rw [length_seats_of_shaped (hu.toKeepsShapes.cur hs)]
  refine ⟨lt_of_mem_issued (s := s) (by rw [hk]; exact List.mem_singleton_self k), ?_⟩
  rwa [cur, hu.sel]
theorem seatGoes_pastSeat : seatGoes s (onSeat u u.sel.core u.sel.slot k fun x => pastSeat x u.sel.len false) k := by
  obtain ⟨hlen, hstate, hpc⟩ := seat_of_keepsRunning hs hk hrun hu
  rw [seatGoes, getSeat_onSeat_cur u k _ hlen, hu.sel]
  exact ⟨congrArg (· + BitVec.ofNat 64 s.sel.len) hpc, hstate⟩
theorem seatGoes_advance : seatGoes s (advance u false) k := by
  rw [advance_single (hu.toKeepsShapes.issued.trans hk)]
  exact seatGoes_pastSeat hs hk hrun hu
theorem seatWaits_blockSeat : seatWaits s (onSeat u u.sel.core u.sel.slot k (blockSeat [] (.phase g))) k g := by
  obtain ⟨hlen, hstate, hpc⟩ := seat_of_keepsRunning hs hk hrun hu
  rw [seatWaits, getSeat_onSeat_cur u k _ hlen]
  exact ⟨hpc, rfl⟩
end Moves

/-- A group has changed, and then the seat itself moves. -/
theorem othersWake_onSeat {u : State} {y : Group} (hu : GroupChanged s u T g y) (f : Seat → Seat) :
    othersWake s (onSeat u u.sel.core u.sel.slot k f) T g k y := by
  intro hfull e he j hj hjk hb
  rw [getSeat_onSeat_other u k f e.1 e.2 hjk]
  exact hu.woken hfull e he j hj hb
include hT in
theorem groupAfter_onSeat {u : State} {y : Group} (hu : GroupChanged s u T g y) (f : Seat → Seat) :
    ∃ z, groupAfter s (onSeat u u.sel.core u.sel.slot k f) T g y z := by
  obtain ⟨T', hT', hsettles, hothers, -⟩ := hu.changed
  rw [id_of_findTask hT] at hT'
  exact ⟨_, T', hT', rfl, hsettles, hothers⟩

/-! ### `join` -/

theorem groupJoin_member {th : Thread} (hT : findTask s T.id = some T) (h : th ∈ (getGroup T g).members) :
    groupJoin s T.id th g = s := by
  simp only [groupJoin, hT, List.contains_iff_mem.mpr h]
  rfl
theorem groupJoin_new {th : Thread} (hT : findTask s T.id = some T) (h : th ∉ (getGroup T g).members) :
    groupJoin s T.id th g =
      putTask s (armMail (putGroup T g { getGroup T g with members := (getGroup T g).members ++ [th] }) g) := by
  simp only [groupJoin, hT]
  exact if_neg fun hc => h (List.contains_iff_mem.mp hc)
include hT hs hk hrun in
theorem joinAddsTheThread {g : Fin 64} : ∃ t T', exec (.join g) s = .next t ∧ isTask t (cur s).task T' ∧ seatGoes s t k ∧ t.mem = s.mem ∧
    t.flights = s.flights ∧
    getGroup T' g.val = (if threadOf s k ∈ (getGroup T g.val).members then getGroup T g.val
      else { getGroup T g.val with members := (getGroup T g.val).members ++ [threadOf s k] }) ∧
    ∀ h, h ≠ g.val → getGroup T' h = getGroup T h := by
  have hexec : exec (.join g) s = .next (advance (groupJoin s (cur s).task (threadOf s k) g.val) false) := by
    rw [← eachSeat_single hk fun s k => groupJoin s (cur s).task (threadOf s k) g.val]
    rfl
  have hid := id_of_findTask hT
  rw [← hid] at hexec hT ⊢
  by_cases hm : threadOf s k ∈ (getGroup T g.val).members
  · rw [groupJoin_member hT hm] at hexec
    exact ⟨_, T, hexec, hT, seatGoes_advance hs hk hrun (keepsRunning_refl s), rfl, rfl, (if_pos hm).symm, fun _ _ => rfl⟩
  · rw [groupJoin_new hT hm] at hexec
    refine ⟨_, _, hexec, findTask_putTask_of_id hT ?_, seatGoes_advance hs hk hrun (keepsRunning_putTask s _), rfl, rfl, ?_, fun h hne => ?_⟩
    · exact ((samePlaces_putGroup T g.val _).trans (samePlaces_onBound _ g.val _)).id
    · rw [if_neg hm, armMail, getGroup_onBound, getGroup_putGroup_same _ _ _ (.inl (by simp))]
    · rw [armMail, getGroup_onBound, getGroup_putGroup_other _ _ _ hne]

/-! ### `leave` -/

/-- A group that a thread has left. -/
def withoutThread (x : Group) (th : Thread) : Group :=
  { x with members := x.members.filter (· ≠ th), marked := x.marked.filter (· ≠ th), applied := x.applied.filter (· ≠ th) }
theorem groupLeave_stranger {th : Thread} (hT : findTask s T.id = some T) (h : th ∉ (getGroup T g).members) :
    groupLeave s T.id th g = s := by
  simp only [groupLeave, hT]
  exact if_pos (by simpa using h)
theorem groupLeave_member {th : Thread} (hT : findTask s T.id = some T) (h : th ∈ (getGroup T g).members) :
    GroupChanged s (groupLeave s T.id th g) T g (withoutThread (getGroup T g) th) := by
  have hfilter : ∀ l : List Thread, (l.filter fun u => !(u == th)) = l.filter (· ≠ th) := fun l =>
    List.filter_congr fun u _ => by rw [beq_eq_decide, decide_not]
  have hdrain := drainKeeps_drainCore T th.coreT
  have hchanged := groupChanged_settleGroup (s := s) (g := g) (s' := { s with flights := s.flights.filter fun f => !arrivalOf T.id th g f })
    (withoutThread (getGroup T g) th) hT (keepsRunning_of_cores rfl rfl rfl) rfl hdrain.toSamePlaces fun h _ =>
    getGroup_drainCore T th.coreT h
  simp only [groupLeave, hT]
  simp only [hfilter]
  rw [if_neg (by simpa using h)]
  split
  · exact groupChanged_abandonMail hchanged T.id
  · exact hchanged
include hT hs hk hrun in
theorem leaveTakesTheThreadOut {g : Fin 64} : ∃ t, exec (.leave g) s = .next t ∧ seatGoes s t k ∧ t.mem = s.mem ∧
    (threadOf s k ∉ (getGroup T g.val).members → isTask t (cur s).task T) ∧
    (threadOf s k ∈ (getGroup T g.val).members → ¬accessesDone s s.sel.core s.sel.slot k = true → isTask t (cur s).task T ∧
      ∃ f ∈ t.flights, f.id = s.nextId ∧ f.kind = .arrival (threadOf s k) g.val true (getSeat (cur s) k).batch ∧ f.seats = seatBit k) ∧
    (threadOf s k ∈ (getGroup T g.val).members → accessesDone s s.sel.core s.sel.slot k = true →
      (∃ z, groupAfter s t T g.val (withoutThread (getGroup T g.val) (threadOf s k)) z) ∧
        othersWake s t T g.val k (withoutThread (getGroup T g.val) (threadOf s k))) := by
  have hexec : exec (.leave g) s = .next (advance (leaveSeat s g.val k) false) := by
    rw [← eachSeat_single hk fun s k => leaveSeat s g.val k]
    rfl
  have hid := id_of_findTask hT
  have hT' : findTask s T.id = some T := by rwa [hid]
  have hleave : leaveSeat s g.val k = if accessesDone s s.sel.core s.sel.slot k then groupLeave s T.id (threadOf s k) g.val
      else if (getGroup T g.val).members.contains (threadOf s k) then
        addArrival s T.id s.sel.core s.sel.slot (threadOf s k) g.val true else s := by
    rw [leaveSeat, curTask_eq hT, hid]
  rw [hleave] at hexec
  by_cases hm : threadOf s k ∈ (getGroup T g.val).members
  case neg =>
    rw [groupLeave_stranger hT' hm, if_neg (fun hc => hm (List.contains_iff_mem.mp hc)), ite_self] at hexec
    exact ⟨_, hexec, seatGoes_advance hs hk hrun (keepsRunning_refl s), rfl, fun _ => hT, fun h => absurd h hm, fun h => absurd h hm⟩
  case pos =>
    by_cases hdone : accessesDone s s.sel.core s.sel.slot k = true
    · have hchanged := groupLeave_member (g := g.val) hT' hm
      rw [if_pos hdone] at hexec
      have hadv := advance_single (hchanged.toKeepsShapes.issued.trans hk)
      refine ⟨_, hexec, seatGoes_advance hs hk hrun hchanged.toKeepsRunning, hchanged.mem, fun h => absurd hm h,
        fun _ h => absurd hdone h, fun _ _ => ?_⟩
      rw [hadv]
      exact ⟨groupAfter_onSeat hT hchanged _, othersWake_onSeat hchanged _⟩
    · rw [if_neg hdone, if_pos (List.contains_iff_mem.mpr hm)] at hexec
      refine ⟨_, hexec, seatGoes_advance hs hk hrun (keepsRunning_of_cores rfl rfl rfl), rfl, fun h => absurd hm h,
        fun _ _ => ⟨hT, _, List.mem_append_right _ (List.mem_singleton_self _), rfl, rfl, rfl⟩, fun _ h => absurd h hdone⟩

/-! ### `arrive` -/

/-- A group at which a thread has arrived. -/
def markedBy (x : Group) (th : Thread) : Group := { x with marked := x.marked ++ [th] }
def arrivedBy (x : Group) (th : Thread) : Group := { x with marked := x.marked ++ [th], applied := x.applied ++ [th] }

theorem arriveSeat_eq (hT : findTask s (cur s).task = some T) (g k : Nat) : arriveSeat s g k =
    if (getGroup T g).members.contains (threadOf s k) && !(getGroup T g).marked.contains (threadOf s k) then
      if accessesDone s s.sel.core s.sel.slot k then
        groupApply (putTask s (putGroup T g (markedBy (getGroup T g) (threadOf s k)))) (cur s).task (threadOf s k) g
      else addArrival (putTask s (putGroup T g (markedBy (getGroup T g) (threadOf s k)))) (cur s).task s.sel.core s.sel.slot
        (threadOf s k) g false
    else s := by
  simp only [arriveSeat, hT]
  rfl
theorem arriveSeat_idle (hT : findTask s (cur s).task = some T)
    (h : threadOf s k ∉ (getGroup T g).members ∨ threadOf s k ∈ (getGroup T g).marked) : arriveSeat s g k = s := by
  rw [arriveSeat_eq hT]
  refine if_neg fun hc => ?_
  rw [Bool.and_eq_true, Bool.not_eq_true', List.contains_iff_mem, ← Bool.not_eq_true, List.contains_iff_mem] at hc
  exact h.elim (absurd hc.1) hc.2

section Arrives
variable (hT : findTask s (cur s).task = some T) (hm : threadOf s k ∈ (getGroup T g).members)
  (hn : threadOf s k ∉ (getGroup T g).marked)

include hm in
theorem getGroup_marked : getGroup (putGroup T g (markedBy (getGroup T g) (threadOf s k))) g = markedBy (getGroup T g) (threadOf s k) :=
  getGroup_putGroup_same _ _ _ (.inl (List.ne_nil_of_mem hm))
include hT hm hn
theorem arriveSeat_open : arriveSeat s g k =
    if accessesDone s s.sel.core s.sel.slot k then
      groupApply (putTask s (putGroup T g (markedBy (getGroup T g) (threadOf s k)))) (cur s).task (threadOf s k) g
    else addArrival (putTask s (putGroup T g (markedBy (getGroup T g) (threadOf s k)))) (cur s).task s.sel.core s.sel.slot
      (threadOf s k) g false := by
  rw [arriveSeat_eq hT]
  exact if_pos (by simpa using ⟨hm, hn⟩)
theorem arriveSeat_later (hdone : ¬accessesDone s s.sel.core s.sel.slot k = true) :
    KeepsRunning s (arriveSeat s g k) ∧
      findTask (arriveSeat s g k) (cur s).task = some (putGroup T g (markedBy (getGroup T g) (threadOf s k))) ∧
      ∃ f ∈ (arriveSeat s g k).flights, f.id = s.nextId ∧ f.kind = .arrival (threadOf s k) g false (getSeat (cur s) k).batch ∧
        f.seats = seatBit k := by
  rw [arriveSeat_open hT hm hn, if_neg hdone]
  refine ⟨keepsRunning_of_cores rfl rfl rfl, ?_, _, List.mem_append_right _ (List.mem_singleton_self _), rfl, rfl, rfl⟩
  exact findTask_putTask_of_id hT ((samePlaces_putGroup T g _).id.trans (id_of_findTask hT))
theorem arriveSeat_now (happ : ∀ u ∈ (getGroup T g).applied, u ∈ (getGroup T g).marked)
    (hdone : accessesDone s s.sel.core s.sel.slot k = true) :
    GroupChanged s (arriveSeat s g k) T g (arrivedBy (getGroup T g) (threadOf s k)) := by
  have hid := id_of_findTask hT
  have hmark := samePlaces_putGroup T g (markedBy (getGroup T g) (threadOf s k))
  have hfind : findTask (putTask s (putGroup T g (markedBy (getGroup T g) (threadOf s k)))) (cur s).task =
      some (putGroup T g (markedBy (getGroup T g) (threadOf s k))) := findTask_putTask_of_id hT (hmark.id.trans hid)
  have hdrain := drainKeeps_drainCore (putGroup T g (markedBy (getGroup T g) (threadOf s k))) (threadOf s k).coreT
  have hopen : (getGroup (putGroup T g (markedBy (getGroup T g) (threadOf s k))) g).members.contains (threadOf s k) &&
      (getGroup (putGroup T g (markedBy (getGroup T g) (threadOf s k))) g).marked.contains (threadOf s k) &&
      !(getGroup (putGroup T g (markedBy (getGroup T g) (threadOf s k))) g).applied.contains (threadOf s k) := by
    rw [getGroup_marked hm]
    simpa [markedBy] using ⟨hm, fun h => hn (happ _ h)⟩
  rw [arriveSeat_open hT hm hn, if_pos hdone]
  simp only [groupApply, hfind]
  rw [if_pos hopen, getGroup_marked hm]
  rw [← hid] at hfind ⊢
  refine groupChanged_settleGroup _ hfind (keepsRunning_putTask s _) rfl (hmark.trans hdrain.toSamePlaces) fun h hne => ?_
  rw [getGroup_drainCore, getGroup_putGroup_other _ _ _ hne]
end Arrives

include hT hs hk hrun in
theorem arriveCountsTheThread {g : Fin 64} (happ : ∀ u ∈ (getGroup T g.val).applied, u ∈ (getGroup T g.val).marked) :
    ∃ t, exec (.arrive g) s = .next t ∧ seatGoes s t k ∧ t.mem = s.mem ∧
      (threadOf s k ∉ (getGroup T g.val).members ∨ threadOf s k ∈ (getGroup T g.val).marked → isTask t (cur s).task T) ∧
      (threadOf s k ∈ (getGroup T g.val).members → threadOf s k ∉ (getGroup T g.val).marked →
        accessesDone s s.sel.core s.sel.slot k = true →
          (∃ z, groupAfter s t T g.val (arrivedBy (getGroup T g.val) (threadOf s k)) z) ∧
            othersWake s t T g.val k (arrivedBy (getGroup T g.val) (threadOf s k))) ∧
      (threadOf s k ∈ (getGroup T g.val).members → threadOf s k ∉ (getGroup T g.val).marked →
        ¬accessesDone s s.sel.core s.sel.slot k = true →
          (∃ T', isTask t (cur s).task T' ∧ getGroup T' g.val = markedBy (getGroup T g.val) (threadOf s k)) ∧
            ∃ f ∈ t.flights, f.id = s.nextId ∧ f.kind = .arrival (threadOf s k) g.val false (getSeat (cur s) k).batch ∧
              f.seats = seatBit k) := by
  have hexec : exec (.arrive g) s = .next (advance (arriveSeat s g.val k) false) := by
    rw [← eachSeat_single hk fun s k => arriveSeat s g.val k]
    rfl
  by_cases hidle : threadOf s k ∉ (getGroup T g.val).members ∨ threadOf s k ∈ (getGroup T g.val).marked
  case pos =>
    rw [arriveSeat_idle hT hidle] at hexec
    exact ⟨_, hexec, seatGoes_advance hs hk hrun (keepsRunning_refl s), rfl, fun _ => hT,
      fun hm hn => absurd hidle (not_or.mpr ⟨not_not.mpr hm, hn⟩), fun hm hn => absurd hidle (not_or.mpr ⟨not_not.mpr hm, hn⟩)⟩
  case neg =>
    obtain ⟨hm, hn⟩ := not_or.mp hidle
    rw [not_not] at hm
    by_cases hdone : accessesDone s s.sel.core s.sel.slot k = true
    · have hchanged := arriveSeat_now hT hm hn happ hdone
      have hadv := advance_single (hchanged.toKeepsShapes.issued.trans hk)
      refine ⟨_, hexec, seatGoes_advance hs hk hrun hchanged.toKeepsRunning, hchanged.mem, fun h => absurd h hidle, fun _ _ _ => ?_,
        fun _ _ h => absurd hdone h⟩
      rw [hadv]
      exact ⟨groupAfter_onSeat hT hchanged _, othersWake_onSeat hchanged _⟩
    · obtain ⟨hkeeps, hfind, f, hf, hflight⟩ := arriveSeat_later hT hm hn hdone
      exact ⟨_, hexec, seatGoes_advance hs hk hrun hkeeps, hkeeps.mem, fun h => absurd h hidle, fun _ _ h => absurd h hdone,
        fun _ _ _ => ⟨⟨_, hfind, getGroup_marked hm⟩, f, hf, hflight⟩⟩

/-! ### `waitb` and `bar` -/

/-- A seat that waits for its group on a state whose task has the places of T, and whose bench is of the same task. -/
theorem waitSeat_eq {u : State} {T' : Task} (hT : findTask s (cur s).task = some T) (hu : KeepsRunning s u)
    (hT' : findTask u (cur s).task = some T') (hplace : SamePlaces T T') (g k : Nat) : waitSeat u g k =
      onSeat u u.sel.core u.sel.slot k (if threadOf s k ∈ (getGroup T' g).members ∧ threadOf s k ∈ (getGroup T' g).marked then
        blockSeat [] (.phase g) else fun y => pastSeat y u.sel.len false) := by
  have htask : (cur u).task = (cur s).task := by
    rw [cur, hu.sel]
    exact hu.task _ _
  have hbenchT : (cur u).benchT = (cur s).benchT := by
    rw [cur, hu.sel]
    exact hu.benchT _ _
  have hcur : curTask u = T' := curTask_eq (by rwa [htask])
  have hthread : threadOf u k = threadOf s k := by
    rw [threadOf, threadOf, curCoreT, curCoreT, hcur, curTask_eq hT, hu.sel, hbenchT, coreTOf_of_samePlaces hplace]
  simp only [waitSeat, hcur, hthread, Bool.and_eq_true, List.contains_iff_mem]
  split <;> rfl
theorem waitSeat_keeps (u : State) (g k : Nat) : (waitSeat u g k).mem = u.mem ∧ (waitSeat u g k).tasks = u.tasks := ⟨rfl, rfl⟩

section Waits
variable {u : State} {T' : Task} (hu : KeepsRunning s u) (hT' : findTask u (cur s).task = some T') (hplace : SamePlaces T T')
include hT hs hk hrun hu hT' hplace

theorem waitSeat_waits (h : threadOf s k ∈ (getGroup T' g).members ∧ threadOf s k ∈ (getGroup T' g).marked) :
    seatWaits s (waitSeat u g k) k g := by
  rw [waitSeat_eq hT hu hT' hplace, if_pos h]
  exact seatWaits_blockSeat hs hk hrun hu
theorem waitSeat_goes (h : ¬(threadOf s k ∈ (getGroup T' g).members ∧ threadOf s k ∈ (getGroup T' g).marked)) :
    seatGoes s (waitSeat u g k) k := by
  rw [waitSeat_eq hT hu hT' hplace, if_neg h]
  exact seatGoes_pastSeat hs hk hrun hu
end Waits

include hT hs hk hrun in
theorem waitbWaitsForThePhase {g : Fin 64} : ∃ t, exec (.waitb g) s = .next t ∧ t.mem = s.mem ∧ t.tasks = s.tasks ∧
    (threadOf s k ∈ (getGroup T g.val).members ∧ threadOf s k ∈ (getGroup T g.val).marked → seatWaits s t k g.val) ∧
    (¬(threadOf s k ∈ (getGroup T g.val).members ∧ threadOf s k ∈ (getGroup T g.val).marked) → seatGoes s t k) := by
  have hexec : exec (.waitb g) s = .next (waitSeat s g.val k) := by
    rw [← eachSeat_single hk fun s k => waitSeat s g.val k]
    rfl
  exact ⟨_, hexec, rfl, rfl, waitSeat_waits hT hs hk hrun (keepsRunning_refl s) hT (samePlaces_refl T),
    waitSeat_goes hT hs hk hrun (keepsRunning_refl s) hT (samePlaces_refl T)⟩
include hT hs hk hrun in
theorem barArrivesAndWaits {g : Fin 64} (happ : ∀ u ∈ (getGroup T g.val).applied, u ∈ (getGroup T g.val).marked) :
    ∃ t, exec (.bar g) s = .next t ∧ t.mem = s.mem ∧
      (threadOf s k ∉ (getGroup T g.val).members → seatGoes s t k ∧ isTask t (cur s).task T) ∧
      (threadOf s k ∈ (getGroup T g.val).members → threadOf s k ∈ (getGroup T g.val).marked →
        seatWaits s t k g.val ∧ isTask t (cur s).task T) ∧
      (threadOf s k ∈ (getGroup T g.val).members → threadOf s k ∉ (getGroup T g.val).marked →
        accessesDone s s.sel.core s.sel.slot k = true →
          (∃ z, groupAfter s t T g.val (arrivedBy (getGroup T g.val) (threadOf s k)) z) ∧
            othersWake s t T g.val k (arrivedBy (getGroup T g.val) (threadOf s k)) ∧
            (phaseFull (arrivedBy (getGroup T g.val) (threadOf s k)) → seatGoes s t k) ∧
            (¬phaseFull (arrivedBy (getGroup T g.val) (threadOf s k)) → seatWaits s t k g.val)) ∧
      (threadOf s k ∈ (getGroup T g.val).members → threadOf s k ∉ (getGroup T g.val).marked →
        ¬accessesDone s s.sel.core s.sel.slot k = true → seatWaits s t k g.val) := by
  have hexec : exec (.bar g) s = .next (waitSeat (arriveSeat s g.val k) g.val k) := by
    rw [← eachSeat_single hk fun s k => waitSeat (arriveSeat s g.val k) g.val k]
    rfl
  have hself := keepsRunning_refl s
  have hplace := samePlaces_refl T
  by_cases hm : threadOf s k ∈ (getGroup T g.val).members
  case neg =>
    rw [arriveSeat_idle hT (.inl hm)] at hexec
    exact ⟨_, hexec, rfl, fun _ => ⟨waitSeat_goes hT hs hk hrun hself hT hplace fun h => hm h.1, hT⟩, fun h => absurd h hm,
      fun h => absurd h hm, fun h => absurd h hm⟩
  case pos =>
    by_cases hn : threadOf s k ∈ (getGroup T g.val).marked
    · rw [arriveSeat_idle hT (.inr hn)] at hexec
      exact ⟨_, hexec, rfl, fun h => absurd hm h, fun _ _ => ⟨waitSeat_waits hT hs hk hrun hself hT hplace ⟨hm, hn⟩, hT⟩,
        fun _ h => absurd hn h, fun _ h => absurd hn h⟩
    · by_cases hdone : accessesDone s s.sel.core s.sel.slot k = true
      · have hchanged := arriveSeat_now hT hm hn happ hdone
        obtain ⟨T', hT', ⟨hfull, hopen, -⟩, -, hplace'⟩ := hchanged.changed
        rw [id_of_findTask hT] at hT'
        have hmem : (arrivedBy (getGroup T g.val) (threadOf s k)).members ≠ [] := List.ne_nil_of_mem hm
        have hwait := waitSeat_eq hT hchanged.toKeepsRunning hT' hplace' g.val k
        refine ⟨_, hexec, hchanged.mem, fun h => absurd hm h, fun _ h => absurd h hn, fun _ _ _ => ⟨?_, ?_, fun hf => ?_, fun hf => ?_⟩,
          fun _ _ h => absurd hdone h⟩
        · rw [hwait]
          exact groupAfter_onSeat hT hchanged _
        · rw [hwait]
          exact othersWake_onSeat hchanged _
        · refine waitSeat_goes hT hs hk hrun hchanged.toKeepsRunning hT' hplace' fun h => ?_
          rw [hfull ⟨hf, hmem⟩] at h
          exact List.not_mem_nil h.2
        · refine waitSeat_waits hT hs hk hrun hchanged.toKeepsRunning hT' hplace' ?_
          rw [hopen ⟨hf, .inl hmem⟩]
          exact ⟨hm, List.mem_append_right _ (List.mem_singleton_self _)⟩
      · obtain ⟨hkeeps, hfind, -⟩ := arriveSeat_later hT hm hn hdone
        refine ⟨_, hexec, hkeeps.mem, fun h => absurd hm h, fun _ h => absurd h hn, fun _ _ h => absurd h hdone, fun _ _ _ => ?_⟩
        refine waitSeat_waits hT hs hk hrun hkeeps hfind (samePlaces_putGroup T g.val _) ?_
        rw [getGroup_marked hm]
        exact ⟨hm, List.mem_append_right _ (List.mem_singleton_self _)⟩
end SingleSeat

/-- Settles O22, each instruction by its own lemma: what a group becomes is the group that settles after its change. -/
theorem groupInstructionsFollowTheirTable : Obligations.GroupInstructionsFollowTheirTable := by
  intro s T g k hT hs hk hrun happ
  exact ⟨joinAddsTheThread hT hs hk hrun, leaveTakesTheThreadOut hT hs hk hrun, arriveCountsTheThread hT hs hk hrun happ,
    waitbWaitsForThePhase hT hs hk hrun, barArrivesAndWaits hT hs hk hrun happ⟩

end Sys2Proof.Machine
end

section
/-!
PROOF. Lines under key identifiers (R244, R245): under which identifiers a line stands after a store and after a read, and which bytes a
read of a line under another identifier changes.
-/
namespace Sys2Proof.Machine
open Sys2Proof

/-! ## Where a list of lines says a line stands -/

/-- The identifiers of a line in a list; identifier 0 alone is not listed. -/
def viewAt (l : List (Nat × List Nat)) (k : Nat) : List Nat := ((l.find? fun e => e.1 == k).map (·.2)).getD [0]
theorem viewsOf_eq (m : Mem) (a : Nat) : viewsOf m a = viewAt m.views (lineKey a) := rfl
theorem viewAt_cons (e : Nat × List Nat) (l : List (Nat × List Nat)) (k : Nat) :
    viewAt (e :: l) k = if e.1 = k then e.2 else viewAt l k := by
  by_cases h : e.1 = k
  · simp [viewAt, h]
  · simp [viewAt, h]
theorem viewAt_of_lt {l : List (Nat × List Nat)} {k : Nat} (h : ∀ e ∈ l, k < e.1) : viewAt l k = [0] := by
  rw [viewAt, List.find?_eq_none.mpr fun e he => by simpa using (h e he).ne']
  rfl
theorem viewAt_viewPut_other (l : List (Nat × List Nat)) {k j : Nat} (b : List Nat) (h : j ≠ k) :
    viewAt (viewPut l k b) j = viewAt l j := by
  have hput : ∀ l, viewAt ((k, b) :: l) j = viewAt l j := fun l => by rw [viewAt_cons, if_neg (Ne.symm h)]
  induction l with
  | nil =>
    simp only [viewPut]
    split
    · rfl
    · exact hput []
  | cons e l ih =>
    obtain ⟨x, v⟩ := e
    simp only [viewPut]
    split
    · split
      · rfl
      · exact hput _
    · split
      · subst x
        have hdrop : viewAt ((k, v) :: l) j = viewAt l j := by rw [viewAt_cons, if_neg (Ne.symm h)]
        rw [hdrop]
        split
        · rfl
        · exact hput _
      · rw [viewAt_cons, viewAt_cons, ih]
theorem viewAt_viewPut_same {l : List (Nat × List Nat)} (k : Nat) (b : List Nat) (h : viewsWf l = true) :
    viewAt (viewPut l k b) k = b := by
  have hrises := ((viewsWf_iff l).mp h).1
  clear h
  have hput : ∀ l, viewAt ((k, b) :: l) k = b := fun l => by rw [viewAt_cons, if_pos rfl]
  induction l with
  | nil =>
    simp only [viewPut]
    split
    case isTrue hb => rw [hb]; rfl
    case isFalse => exact hput []
  | cons e l ih =>
    obtain ⟨x, v⟩ := e
    obtain ⟨hlt, hl⟩ := List.pairwise_cons.mp hrises
    simp only [viewPut]
    split
    case isTrue hk =>
      split
      case isTrue hb =>
        rw [hb]
        exact viewAt_of_lt (List.forall_mem_cons.mpr ⟨hk, fun e he => lt_trans hk (hlt e he)⟩)
      case isFalse => exact hput _
    case isFalse =>
      split
      case isTrue hk =>
        subst hk
        split
        case isTrue hb =>
          rw [hb]
          exact viewAt_of_lt hlt
        case isFalse => exact hput _
      case isFalse hne => rw [viewAt_cons, if_neg (Ne.symm hne), ih hl]

/-! ## Addresses of one line -/

theorem lineKey_of_line {a c : Nat} (h : a / 64 = c / 64) : lineKey a = lineKey c := by
  simp only [lineKey, underKid]
  split_ifs <;> omega
theorem addrKid_of_line {a c : Nat} (h : a / 64 = c / 64) : addrKid a = addrKid c := by
  simp only [addrKid]
  split_ifs <;> omega
theorem viewed_of_line (m : Mem) {a c : Nat} (h : a / 64 = c / 64) : viewed m a = viewed m c := by
  rw [viewed, viewed, viewsOf_eq, viewsOf_eq, lineKey_of_line h, addrKid_of_line h]

/-! ## Stores -/

theorem memTouch_views (m : Mem) (a n : Nat) (p : Bool) : (memTouch m a n p).views = m.views :=
  foldl_keeps (fun u : Mem => u.views = m.views) _ _ m rfl fun u g hu => by
    dsimp only
    split
    · exact hu
    · split <;> exact hu
/-- A line that is written stands under the identifier of the address alone. -/
theorem viewsOf_memPutBytes {m : Mem} (hm : m.wf = true) (a : Nat) {bs : List Byte} (hne : bs ≠ []) (c : Nat)
    (hline : ∀ i, i < bs.length → (a + i) / 64 = c / 64) (x : Nat) :
    viewsOf (memPutBytes m a bs) x = if lineKey x = lineKey c then [addrKid c] else viewsOf m x := by
  induction bs generalizing m a with
  | nil => exact absurd rfl hne
  | cons b bs ih =>
    have hhead := hline 0 (by simp)
    rw [Nat.add_zero] at hhead
    have hone : viewsOf (memSetByte m a b) x = if lineKey x = lineKey c then [addrKid c] else viewsOf m x := by
      rw [viewsOf_eq, memSetByte, viewOnly, lineKey_of_line hhead, addrKid_of_line hhead]
      split
      case isTrue h => rw [h, viewAt_viewPut_same _ _ (Mem.views_wf _ hm)]
      case isFalse h => rw [viewAt_viewPut_other _ _ h, viewsOf_eq]
    rw [memPutBytes_cons]
    cases bs with
    | nil => exact hone
    | cons b' bs =>
      rw [ih (memSetByte_wf _ _ _ hm) (a + 1) (by simp) fun i hi => ?_]
      · rw [hone]
        split <;> rfl
      · have := hline (i + 1) (by simpa using hi)
        rwa [show a + 1 + i = a + (i + 1) by omega]
theorem viewsOf_memStore {m : Mem} (hm : m.wf = true) (a : Nat) {bs : List Byte} (p : Bool) (hne : bs ≠ [])
    (hline : ∀ i, i < bs.length → (a + i) / 64 = a / 64) (x : Nat) :
    viewsOf (memStore m a bs p) x = if lineKey x = lineKey a then [addrKid a] else viewsOf m x := by
  rw [viewsOf_eq, memStore, memTouch_views, ← viewsOf_eq]
  exact viewsOf_memPutBytes hm a hne a hline x

/-! ## Reads of a line under another identifier -/

theorem cellGet_freeLine_other (draws base : Nat) {l : List Host.Cell} (h : cellsWf l = true) {x : Nat} (hx : x < base ∨ base + 64 ≤ x) :
    cellGet (freeLine draws base l) x = cellGet l x := by
  have hfold : ∀ ks : List Nat, (∀ j ∈ ks, j < 64) → ∀ l, cellsWf l = true → cellGet (ks.foldl (fun l j =>
      cellPut l (base + j) (BitVec.ofNat 8 ((Config.freeValue (draws + j / 8)).toNat / 2 ^ (8 * (j % 8))))) l) x = cellGet l x := by
    intro ks
    induction ks with
    | nil => intro _ l _; rfl
    | cons j ks ih =>
      intro hks l hl
      have hj := hks j List.mem_cons_self
      rw [List.foldl_cons, ih (fun i hi => hks i (List.mem_cons_of_mem _ hi)) _ (cellPut_wf _ _ _ hl), cellGet_cellPut _ _ _ _ hl,
        if_neg (by omega)]
  exact hfold _ (fun j hj => List.mem_range.mp hj) l h
theorem copyBits_keeps (m : Mem) (src dst : Nat) : (copyBits m src dst).cells = m.cells ∧ (copyBits m src dst).views = m.views :=
  foldl_keeps (fun u : Mem => u.cells = m.cells ∧ u.views = m.views) _ _ m ⟨rfl, rfl⟩ fun _ _ hu => hu
theorem openView_of_not_viewed {s : State} {pa : Nat} (h : viewed s.mem pa = false) : (openView s pa).mem.cells =
    freeLine s.draws (alignDown pa 64) s.mem.cells ∧
      (openView s pa).mem.views = viewPut s.mem.views (lineKey pa) (viewsOf s.mem pa ++ [addrKid pa]) := by
  obtain ⟨hcells, hviews⟩ := copyBits_keeps { s.mem with cells := freeLine s.draws (alignDown pa 64) s.mem.cells }
    (underKid (alignDown pa 64) ((viewsOf s.mem pa).headD 0)) (alignDown pa 64)
  simp only [openView, h, Bool.false_eq_true, if_false, hcells, hviews, and_self]
section OpenView
variable {s : State} (hwf : s.mem.wf = true) (pa a : Nat)
include hwf
/-- Only the bytes of the line that is opened change. -/
theorem memByte_openView (h : viewed s.mem pa = true ∨ a / 64 ≠ pa / 64) : memByte (openView s pa).mem a = memByte s.mem a := by
  cases hv : viewed s.mem pa with
  | true => rw [openView_viewed s pa hv]
  | false =>
    have hline := h.resolve_left (by simp [hv])
    rw [memByte, (openView_of_not_viewed hv).1, cellGet_freeLine_other _ _ ((Mem.wf_iff _).mp hwf).1 (by unfold alignDown; omega), memByte]
omit hwf in
theorem viewsOf_openView_other (h : viewed s.mem pa = true ∨ lineKey a ≠ lineKey pa) : viewsOf (openView s pa).mem a = viewsOf s.mem a := by
  cases hv : viewed s.mem pa with
  | true => rw [openView_viewed s pa hv]
  | false => rw [viewsOf_eq, (openView_of_not_viewed hv).2, viewAt_viewPut_other _ _ (h.resolve_left (by simp [hv])), viewsOf_eq]
theorem viewsOf_openView_new (hv : viewed s.mem pa = false) (h : lineKey a = lineKey pa) :
    viewsOf (openView s pa).mem a = viewsOf s.mem a ++ [addrKid pa] := by
  rw [viewsOf_eq, (openView_of_not_viewed hv).2, h, viewAt_viewPut_same _ _ (Mem.views_wf _ hwf), viewsOf_eq, viewsOf_eq, h]
/-- A line that stands under the identifier of an address is left as it is, and stands under it still. -/
theorem viewed_openView (h : viewed s.mem a = true) : viewed (openView s pa).mem a = true ∧
    memByte (openView s pa).mem a = memByte s.mem a := by
  cases hv : viewed s.mem pa with
  | true => rw [openView_viewed s pa hv]; exact ⟨h, rfl⟩
  | false =>
    refine ⟨?_, memByte_openView hwf pa a (.inr fun hline => by rw [viewed_of_line _ hline, hv] at h; cases h)⟩
    by_cases hk : lineKey a = lineKey pa
    · rw [viewed, viewsOf_openView_new hwf pa a hv hk]
      simp only [viewed, List.contains_iff_mem] at h ⊢
      exact List.mem_append_left _ h
    · rwa [viewed, viewsOf_openView_other pa a (.inr hk)]
end OpenView

end Sys2Proof.Machine
end

section
/-!
PROOF. What the checks and the translation of an access change (R102, R223 to R229, R244): translation structures, draws, and memory,
where a walk sets A or D in its leaf entry and lines are read under other identifiers.
-/
namespace Sys2Proof.Machine
open Sys2Proof

/-- Only translation structures, draws and memory have changed. -/
structure ChecksLeave (s t : State) : Prop where
  outside : t = { s with cores := t.cores, mem := t.mem, dieTlb := t.dieTlb, walkCache := t.walkCache, draws := t.draws }
  core : ∀ core, { getCore t core with tlb := [] } = { getCore s core with tlb := [] }

theorem checksLeave_of_cores {s t : State}
    (h : t = { s with mem := t.mem, dieTlb := t.dieTlb, walkCache := t.walkCache, draws := t.draws }) : ChecksLeave s t := by
  refine ⟨?_, fun core => ?_⟩
  · rw [h]
  · rw [h]
    rfl
theorem checksLeave_refl (s : State) : ChecksLeave s s := ⟨rfl, fun _ => rfl⟩
theorem ChecksLeave.trans {s t u : State} (h : ChecksLeave s t) (h' : ChecksLeave t u) : ChecksLeave s u :=
  ⟨by rw [h'.outside, h.outside], fun core => (h'.core core).trans (h.core core)⟩
theorem ChecksLeave.sel {s t : State} (h : ChecksLeave s t) : t.sel = s.sel := by rw [h.outside]
theorem ChecksLeave.leavesBenches {s t : State} (h : ChecksLeave s t) : LeavesBenches s t := by
  have hcore : ∀ core, (getCore t core).benches = (getCore s core).benches ∧ (getCore t core).spad = (getCore s core).spad :=
    fun core => ⟨by simpa using congrArg Core.benches (h.core core), by simpa using congrArg Core.spad (h.core core)⟩
  exact ⟨h.sel, fun core slot => by rw [getBench, coreBench, (hcore core).1, getBench, coreBench], fun core => (hcore core).2⟩
/-- The address space of the bench, and its task, are as before. -/
theorem ChecksLeave.curTask {s t : State} (h : ChecksLeave s t) : curTask t = curTask s := by
  have htasks : t.tasks = s.tasks := by rw [h.outside]
  rw [Machine.curTask, h.leavesBenches.cur_eq, findTask, htasks, ← findTask, Machine.curTask]
theorem ChecksLeave.benchSpace {s t : State} (h : ChecksLeave s t) : benchSpace t = benchSpace s := by
  rw [Machine.benchSpace, h.curTask, onMonitor, h.sel, ← onMonitor, Machine.benchSpace]
  have hspace : ∀ T, taskSpace t T = taskSpace s T := fun T => by
    rw [h.outside]
    rfl
  rw [hspace]

/-! ## Steps -/

theorem checksLeave_openView (s : State) (a : Nat) : ChecksLeave s (openView s a) := by
  unfold openView
  split
  · exact checksLeave_refl s
  · exact checksLeave_of_cores rfl
theorem checksLeave_tlbInstall (s : State) (core : Nat) (e : TlbEntry) :
    ChecksLeave s (tlbInstall s core e) ∧ (tlbInstall s core e).mem = s.mem := by
  unfold tlbInstall
  split
  · exact ⟨checksLeave_refl s, rfl⟩
  · refine ⟨⟨rfl, fun k => ?_⟩, rfl⟩
    change { getCore (putCore s core { getCore s core with tlb := (e :: (getCore s core).tlb).take 128 }) k with tlb := [] } = _
    rcases eq_or_ne core k with rfl | hne
    · rw [getCore_putCore_same]
    · rw [getCore_putCore_other _ _ _ _ hne]
theorem checksLeave_walkStart (s : State) (core : Nat) (sp : ASpace) (va : Nat) :
    ChecksLeave s (walkStart s core sp va).2 ∧ (walkStart s core sp va).2.mem = s.mem := by
  unfold walkStart
  dsimp only
  split
  · exact ⟨checksLeave_refl s, rfl⟩
  · split <;> exact ⟨checksLeave_of_cores rfl, rfl⟩
theorem checksLeave_walkKeep (s : State) (core asn va : Nat) (passed : List (Nat × Nat)) :
    ChecksLeave s (walkKeep s core asn va passed) ∧ (walkKeep s core asn va passed).mem = s.mem := by
  unfold walkKeep
  dsimp only
  split
  · exact ⟨checksLeave_refl s, rfl⟩
  · exact ⟨checksLeave_of_cores rfl, rfl⟩

/-- The leaf entry once A is set, and D on a write (R224). -/
def usedEntry (p : Nat) (acc : Access) : Nat := Nat.lor (Nat.lor p (2 ^ 6)) (if accWrites acc then 2 ^ 7 else 0)
theorem setAD_cases (s : State) (h : WalkHit) (acc : Access) : (setAD s h acc).1 = s ∨
    (setAD s h acc).1 = { s with mem := memStore s.mem h.at_ (bytesLE 8 (usedEntry h.pte acc)) false } := by
  have heq : setAD s h acc = if usedEntry h.pte acc = h.pte then (s, h) else
      ({ s with mem := memStore s.mem h.at_ (bytesLE 8 (usedEntry h.pte acc)) false }, { h with pte := usedEntry h.pte acc }) := by
    cases acc <;> rfl
  rw [heq]
  split
  · exact .inl rfl
  · exact .inr rfl
theorem entryAddr_aligned (table i : Nat) : (table * 4096 + 8 * i) % 8 = 0 := by omega
/-- A walk ends at an aligned entry, which it has read from memory (R224). -/
theorem walkFrom_found {s : State} {va : Nat} {acc : Access} {level table : Nat} {passed : List (Nat × Nat)} {h : WalkHit}
    (hw : walkFrom s va acc level table passed = .ok h) : h.pte = memValue s.mem h.at_ 8 ∧ h.at_ % 8 = 0 := by
  induction level generalizing table passed with
  | zero =>
    unfold walkFrom at hw
    dsimp only at hw
    repeat' split at hw
    all_goals simp only [reduceCtorEq, Except.ok.injEq] at hw
    subst hw
    exact ⟨rfl, entryAddr_aligned _ _⟩
  | succ level ih =>
    unfold walkFrom at hw
    dsimp only at hw
    split at hw
    · cases hw
    · split at hw
      · cases hw
      · split at hw
        · cases hw
        · split at hw
          · split at hw
            · cases hw
            · rw [Except.ok.injEq] at hw
              subst hw
              exact ⟨rfl, entryAddr_aligned _ _⟩
          · exact ih hw

/-- What a translation does before its line is read: memory is as before, or a walk has set A, and D on a write, in the entry where
it ended. -/
structure Walked (s t : State) (acc : Access) : Prop where
  leaves : ChecksLeave s t
  mem : t.mem = s.mem ∨ ∃ a, a % 8 = 0 ∧ t.mem = memStore s.mem a (bytesLE 8 (usedEntry (memValue s.mem a 8) acc)) false

section Translation
variable {s t : State} {core : Nat} {sp : ASpace} {lim : Word} {acc : Access}

theorem walked_refl (s : State) (acc : Access) : Walked s s acc := ⟨checksLeave_refl s, .inl rfl⟩
theorem Walked.after {u : State} (h : ChecksLeave s u) (hmem : u.mem = s.mem) (h' : Walked u t acc) : Walked s t acc :=
  ⟨h.trans h'.leaves, by rw [← hmem]; exact h'.mem⟩
theorem walked_walk {va : Nat} {e : TlbEntry} (h : walk s core sp va acc = .ok (e, t)) : Walked s t acc := by
  obtain ⟨hstart, hmem⟩ := checksLeave_walkStart s core sp va
  unfold walk at h
  split at h
  · cases h
  · dsimp only at h
    split at h
    · cases h
    · rename_i hit hw
      obtain ⟨hpte, hat⟩ := walkFrom_found hw
      cases h
      refine Walked.after hstart hmem ?_
      generalize (walkStart s core sp va).2 = u at *
      have hkeep := checksLeave_walkKeep (setAD u hit acc).1 core sp.asn va (setAD u hit acc).2.passed
      have hinstall := checksLeave_tlbInstall (walkKeep (setAD u hit acc).1 core sp.asn va (setAD u hit acc).2.passed) core
      have hset : Walked u (setAD u hit acc).1 acc := by
        rcases setAD_cases u hit acc with hs | hs
        · rw [hs]
          exact walked_refl u acc
        · rw [hs]
          exact ⟨checksLeave_of_cores rfl, .inr ⟨hit.at_, hat, by rw [hpte]⟩⟩
      exact ⟨(hset.leaves.trans hkeep.1).trans (hinstall _).1, by rw [(hinstall _).2, hkeep.2]; exact hset.mem⟩
/-- A translation by an entry is a draw; else it is a walk. -/
theorem walked_translatePaged {va p : Nat} (h : translatePaged s core sp va acc = .ok (p, t)) : Walked s t acc := by
  have hwalk : ∀ u : State, (match walk u core sp va acc with
      | .error e => Except.error e
      | .ok (e, s') => .ok (tlbPa e va, s')) = .ok (p, t) → Walked u t acc := fun u hu => by
    split at hu
    · cases hu
    · rename_i hw
      cases hu
      exact walked_walk hw
  unfold translatePaged at h
  dsimp only at h
  split at h
  · cases h
  · split at h
    · exact hwalk s h
    · have hdraw : ChecksLeave s (draw s (((tlbFor s core sp.asn va).filter fun e => tlbAllows e acc).length + 1)).2 :=
        checksLeave_of_cores rfl
      split at h
      · split at h
        · cases h
        · cases h
          exact ⟨hdraw, .inl rfl⟩
      · exact Walked.after hdraw rfl (hwalk _ h)
/-- Only the paged path changes anything; the other paths compute. -/
theorem walked_placeOf {a p : Nat} (h : placeOf s core sp lim a acc = .ok (p, t)) :
    Walked s t acc ∧ (windowEnd ≤ a → pathAt sp a ≠ .paged → t = s) := by
  unfold placeOf at h
  split at h
  · split at h
    · cases h
      exact ⟨walked_refl s acc, fun _ _ => rfl⟩
    · cases h
  · split at h
    · cases h
      exact ⟨walked_refl s acc, fun _ _ => rfl⟩
    · cases h
  · rename_i hheap hcarve
    split at h
    · cases h
    · rename_i hpaged
      split at h
      · cases h
      · cases h
        refine ⟨walked_translatePaged hpaged, fun hwin hne => ?_⟩
        exfalso
        cases hpath : pathAt sp a with
        | window =>
          unfold pathAt at hpath
          rw [if_neg (Nat.not_lt.mpr hwin)] at hpath
          split at hpath
          · cases hpath
          · split at hpath <;> cases hpath
        | carve => exact hcarve hpath
        | heap => exact hheap hpath
        | paged => exact hne hpath
theorem checksLeave_translate1 {a p : Nat} (h : translate1 s core sp lim a acc = .ok (p, t)) : ChecksLeave s t := by
  unfold translate1 at h
  split at h
  · cases h
  · rename_i hplace
    cases h
    exact (walked_placeOf hplace).1.leaves.trans (checksLeave_openView _ _)
theorem checksLeave_translateBytes {a n : Nat} {pas : List Nat} (h : translateBytes s core sp lim acc a n = .ok (pas, t)) :
    ChecksLeave s t := by
  induction n generalizing pas t with
  | zero =>
    cases h
    exact checksLeave_refl s
  | succ n ih =>
    unfold translateBytes at h
    split at h
    · cases h
    · rename_i hrest
      have hkeeps := ih hrest
      split at h
      · split at h
        · cases h
          exact hkeeps.trans (checksLeave_openView _ _)
        · split at h
          · cases h
          · rename_i hone
            cases h
            exact hkeeps.trans (checksLeave_translate1 hone)
      · split at h
        · cases h
        · rename_i hone
          cases h
          exact hkeeps.trans (checksLeave_translate1 hone)
theorem translateRange_ok {a n : Nat} {pas : List Nat} (h : translateRange s core sp lim acc a n = .ok (pas, t)) :
    translateBytes s core sp lim acc a n = .ok (pas, t) := by
  unfold translateRange at h
  split at h
  · cases h
  · exact h
/-- The translation of one byte: its place is found, and then its line is read. -/
theorem translateRange_one {a : Nat} {pas : List Nat} (h : translateRange s core sp lim acc a 1 = .ok (pas, t)) :
    ∃ pa u, placeOf s core sp lim a acc = .ok (pa, u) ∧ t = openView u pa := by
  have h := translateRange_ok h
  simp only [translateBytes, List.getLast?_nil, Nat.add_zero, translate1] at h
  cases hplace : placeOf s core sp lim a acc with
  | error e => simp [hplace] at h
  | ok r =>
    simp only [hplace, Except.ok.injEq, Prod.mk.injEq] at h
    exact ⟨r.1, r.2, rfl, h.2.symm⟩
end Translation

/-! ## The checks of a seat -/

theorem checkAccess_ok {s t : State} {c : Cap} {a : Int} {k : Ask} {extra : Bool → Option OpFault} {p : Place}
    (h : checkAccess s c a k extra = .ok (p, t)) : t = s ∨ windowEnd ≤ (BitVec.ofInt 64 a).toNat ∧
      ∃ pas, translateRange s s.sel.core (benchSpace s) (benchLimit s) k.acc (BitVec.ofInt 64 a).toNat k.n = .ok (pas, t) := by
  unfold checkAccess at h
  dsimp only at h
  repeat' split at h
  all_goals cases h
  · exact .inl rfl
  · exact .inl rfl
  · exact .inr ⟨by omega, _, ‹_›⟩
theorem checksLeave_checkAccess {s t : State} {c : Cap} {a : Int} {k : Ask} {extra : Bool → Option OpFault} {p : Place}
    (h : checkAccess s c a k extra = .ok (p, t)) : ChecksLeave s t := by
  rcases checkAccess_ok h with rfl | ⟨-, pas, htranslate⟩
  · exact checksLeave_refl _
  · exact checksLeave_translateBytes (translateRange_ok htranslate)

end Sys2Proof.Machine
end

section
/-!
PROOF. Prefetches and fences change no value (R117, R224, R244, R273, R319).
-/
namespace Sys2Proof.Machine
open Sys2Proof

/-! ## The entry in which a walk sets A (R224) -/

theorem getElem_valueLE (l : List Byte) {j : Nat} (hj : j < l.length) : BitVec.ofNat 8 (valueLE l / 256 ^ j) = l[j] := by
  induction l generalizing j with
  | nil => cases hj
  | cons b l ih =>
    have hval : valueLE (b :: l) = b.toNat + 256 * valueLE l := rfl
    cases j with
    | zero =>
      rw [hval, pow_zero, Nat.div_one, List.getElem_cons_zero]
      exact BitVec.eq_of_toNat_eq (by rw [BitVec.toNat_ofNat]; have := b.isLt; omega)
    | succ j =>
      rw [hval, pow_succ', ← Nat.div_div_eq_div_mul, show (b.toNat + 256 * valueLE l) / 256 = valueLE l by have := b.isLt; omega,
        List.getElem_cons_succ]
      exact ih (by simpa using hj)
theorem usedEntry_load (p : Nat) : usedEntry p .load = p ||| 2 ^ 6 := Nat.or_zero _
/-- A is in the lowest byte of an entry. -/
theorem byte_usedEntry_load (p j : Nat) : BitVec.ofNat 8 (usedEntry p .load / 256 ^ j) =
    if j = 0 then BitVec.ofNat 8 (p / 256 ^ j) ||| 0x40 else BitVec.ofNat 8 (p / 256 ^ j) := by
  have hpow : (256 : Nat) ^ j = 2 ^ (8 * j) := by norm_num [pow_mul]
  rw [usedEntry_load, hpow, Nat.or_div_two_pow]
  split
  case isTrue h =>
    subst h
    simp [BitVec.ofNat_or]
  case isFalse h =>
    rw [Nat.div_eq_of_lt (Nat.pow_lt_pow_right (by decide) (by omega)), Nat.or_zero]
theorem memByte_setUsed {m : Mem} (hm : m.wf = true) (e x : Nat) :
    let y := memByte (memStore m e (bytesLE 8 (usedEntry (memValue m e 8) .load)) false) x
    y = memByte m x ∨ y = memByte m x ||| 0x40 := by
  intro y
  by_cases hx : x < e ∨ e + 8 ≤ x
  · exact .inl (memByte_memStore_other m e _ false hm (by rwa [length_bytesLE]))
  · obtain ⟨j, rfl⟩ := Nat.exists_eq_add_of_le (show e ≤ x by omega)
    have hj : j < 8 := by omega
    have hstored : y = BitVec.ofNat 8 (usedEntry (memValue m e 8) .load / 256 ^ j) :=
      (memByte_memTouch _ _ _ _ _).trans ((memByte_memPutBytes m e _ hm (by rwa [length_bytesLE])).trans (by simp [bytesLE]))
    have hread : BitVec.ofNat 8 (memValue m e 8 / 256 ^ j) = memByte m (e + j) := by
      rw [memValue, getElem_valueLE _ (by simpa [memBytes] using hj)]
      simp [memBytes]
    rw [hstored, byte_usedEntry_load, hread]
    split
    · exact .inr rfl
    · exact .inl rfl

/-! ## One translation, and what memory shows then (R244) -/

section OneWalk
variable {s u : State} (hm : s.mem.wf = true) (h : Walked s u .load)
include hm h

theorem wf_of_walked : u.mem.wf = true := by
  rcases h.mem with hu | ⟨e, -, hu⟩ <;> rw [hu]
  · exact hm
  · exact memStore_wf _ _ _ _ hm
/-- A byte that was seen is as before, or has A set, unless its line has come to stand under several identifiers. -/
theorem memByte_of_walked (pa : Nat) {a : Nat} (hv : viewed s.mem a = true) (hone : (viewsOf (openView u pa).mem a).length ≤ 1) :
    memByte (openView u pa).mem a = memByte s.mem a ∨ memByte (openView u pa).mem a = memByte s.mem a ||| 0x40 := by
  have hwf := wf_of_walked hm h
  rcases h.mem with hu | ⟨e, he, hu⟩
  · rw [← hu] at hv
    exact .inl ((viewed_openView hwf pa a hv).2.trans (congrArg (memByte · a) hu))
  · have hviews := viewsOf_memStore hm e (bs := bytesLE 8 (usedEntry (memValue s.mem e 8) .load)) false
      (List.ne_nil_of_length_pos (by rw [length_bytesLE]; decide)) (fun i hi => by rw [length_bytesLE] at hi; omega) a
    rw [← hu] at hviews
    have hkept : viewed u.mem pa = true ∨ a / 64 ≠ pa / 64 := by
      by_contra hno
      obtain ⟨hnv, hline⟩ := not_or.mp hno
      rw [Bool.not_eq_true] at hnv
      rw [not_ne_iff] at hline
      rw [viewsOf_openView_new hwf pa a hnv (lineKey_of_line hline), List.length_append, List.length_singleton] at hone
      have hnil : viewsOf u.mem a = [] := List.length_eq_zero_iff.mp (by omega)
      rw [hviews] at hnil
      split at hnil
      · cases hnil
      · rw [viewed, hnil] at hv
        cases hv
    rw [memByte_openView hwf pa a hkept, hu]
    exact memByte_setUsed hm e a
end OneWalk

/-! ## The silent translations of a pass (R319) -/

/-- Every byte that was seen is seen, as it was. -/
def SeenKept (s t : State) : Prop :=
  t.mem.wf = true ∧ ∀ a, viewed s.mem a = true → viewed t.mem a = true ∧ memByte t.mem a = memByte s.mem a
/-- One seat's translation of a prefetch. -/
def prefWalk (c : Cap) (a : Int) (t : State) : State :=
  match checkAccess t c a askPref fun _ => none with
  | .ok (_, t) => t
  | .error _ => t
theorem prefWalks_eq (s : State) (c : CReg) (addr : Nat → Int) :
    prefWalks s c addr = (issued s).foldl (fun t k => prefWalk (readC (cur s) c k) (addr k) t) s := rfl
theorem prefWalk_cases (c : Cap) (a : Int) (s : State) : prefWalk c a s = s ∨ windowEnd ≤ (BitVec.ofInt 64 a).toNat ∧
    ∃ pa u, placeOf s s.sel.core (benchSpace s) (benchLimit s) (BitVec.ofInt 64 a).toNat .load = .ok (pa, u) ∧
      prefWalk c a s = openView u pa := by
  unfold prefWalk
  split
  case h_1 hok =>
    rcases checkAccess_ok hok with rfl | ⟨hwin, pas, htranslate⟩
    · exact .inl rfl
    · obtain ⟨pa, u, hplace, rfl⟩ := translateRange_one htranslate
      exact .inr ⟨hwin, pa, u, hplace, rfl⟩
  case h_2 => exact .inl rfl
theorem checksLeave_prefWalk (c : Cap) (a : Int) (s : State) : ChecksLeave s (prefWalk c a s) := by
  rcases prefWalk_cases c a s with h | ⟨-, pa, u, hplace, h⟩ <;> rw [h]
  · exact checksLeave_refl s
  · exact (walked_placeOf hplace).1.leaves.trans (checksLeave_openView u pa)
theorem seenKept_prefWalk (c : Cap) (a : Int) {s : State} (hm : s.mem.wf = true) (hpath : ∀ a, pathAt (benchSpace s) a ≠ .paged) :
    SeenKept s (prefWalk c a s) := by
  rcases prefWalk_cases c a s with h | ⟨hwin, pa, u, hplace, h⟩ <;> rw [h]
  · exact ⟨hm, fun _ hv => ⟨hv, rfl⟩⟩
  · rw [(walked_placeOf hplace).2 hwin (hpath _)]
    exact ⟨openView_wf s pa hm, fun a hv => viewed_openView hm pa a hv⟩

section Walks
variable (s : State) (c : CReg) (addr : Nat → Int)
theorem checksLeave_prefWalks : ChecksLeave s (prefWalks s c addr) := by
  rw [prefWalks_eq]
  exact foldl_keeps (ChecksLeave s) _ _ s (checksLeave_refl s) fun u k hu => hu.trans (checksLeave_prefWalk _ _ u)
theorem seenKept_prefWalks (hm : s.mem.wf = true) (hpath : ∀ a, pathAt (benchSpace s) a ≠ .paged) :
    SeenKept s (prefWalks s c addr) := by
  rw [prefWalks_eq]
  refine (foldl_keeps (fun u => ChecksLeave s u ∧ SeenKept s u) _ _ s ⟨checksLeave_refl s, hm, fun _ hv => ⟨hv, rfl⟩⟩
    fun u k ⟨hu, hwf, hseen⟩ => ?_).2
  obtain ⟨hwf', hseen'⟩ := seenKept_prefWalk (readC (cur s) c k) (addr k) hwf (by rwa [hu.benchSpace])
  refine ⟨hu.trans (checksLeave_prefWalk _ _ u), hwf', fun a hv => ?_⟩
  obtain ⟨hv₁, hb₁⟩ := hseen a hv
  obtain ⟨hv₂, hb₂⟩ := hseen' a hv₁
  exact ⟨hv₂, hb₂.trans hb₁⟩
theorem memByte_prefWalks_single (hm : s.mem.wf = true) {k : Nat} (hk : issued s = [k]) {a : Nat} (hv : viewed s.mem a = true)
    (hone : (viewsOf (prefWalks s c addr).mem a).length ≤ 1) : memByte (prefWalks s c addr).mem a = memByte s.mem a ∨
      memByte (prefWalks s c addr).mem a = memByte s.mem a ||| 0x40 := by
  have hsingle : prefWalks s c addr = prefWalk (readC (cur s) c k) (addr k) s := by
    rw [prefWalks_eq, hk]
    rfl
  rw [hsingle] at hone ⊢
  rcases prefWalk_cases (readC (cur s) c k) (addr k) s with h | ⟨-, pa, u, hplace, h⟩
  · rw [h]
    exact .inl rfl
  · rw [h] at hone ⊢
    exact memByte_of_walked hm (walked_placeOf hplace).1 pa hv hone
end Walks

/-! ## `pref` -/

/-- What a prefetch leaves: no value changes, but for A in an entry that it walked. -/
def prefetchQuiet (s t : State) : Prop :=
  t = { s with cores := t.cores, flights := t.flights, mem := t.mem, dieTlb := t.dieTlb, walkCache := t.walkCache
               draws := t.draws } ∧
    ((∃ k, issued s = [k]) → ∀ a, viewed s.mem a = true → (viewsOf t.mem a).length ≤ 1 →
      memByte t.mem a = memByte s.mem a ∨ memByte t.mem a = memByte s.mem a ||| 0x40) ∧
    ((∀ a, pathAt (benchSpace s) a ≠ .paged) → ∀ a, viewed s.mem a = true → memByte t.mem a = memByte s.mem a) ∧
    (∀ core slot, ¬(core = s.sel.core ∧ slot = s.sel.slot) → getBench t core slot = getBench s core slot) ∧
    (∀ core, { getCore t core with benches := [], tlb := [] } = { getCore s core with benches := [], tlb := [] }) ∧
    CapsKept s t (fun _ => False) ∧ PredsKept s t (fun _ => False) ∧ BenchKept s t ∧
    SeatsBecome s t (fun _ y => pastSeat y s.sel.len false)
/-- A retirement after checks, told from the state before them. -/
theorem prefetch_retires {s : State} (hs : Shaped (cur s)) (hm : s.mem.wf = true) (c : CReg) (addr : Nat → Int) (srcs : List Src) :
    prefetchQuiet s (retireWith (prefWalks s c addr) srcs false id) ∧
      DataKept s (retireWith (prefWalks s c addr) srcs false id) srcs (fun _ => False) := by
  have hleave := checksLeave_prefWalks s c addr
  have hseen := seenKept_prefWalks s c addr hm
  have hsingle := fun k hk a => memByte_prefWalks_single s c addr hm (k := k) hk (a := a)
  generalize prefWalks s c addr = u at *
  have hbenches := hleave.leavesBenches
  have hu : Shaped (cur u) := by rwa [hbenches.cur_eq]
  have heff : ChangesRegisters id := ⟨fun _ h => h, fun _ => rfl, fun _ => rfl⟩
  obtain ⟨hout, -, hother, hcore⟩ := leavesOutside_retireWith u srcs false id
  have hkept := benchKept_retireWith (s := u) srcs false heff
  have hmem : (retireWith u srcs false id).mem = u.mem := by rw [hout]
  refine ⟨⟨by rw [hout, hleave.outside], fun ⟨k, hk⟩ a hv hone => ?_, fun hpath a hv => ?_, fun core slot hne => ?_, fun core => ?_, ?_, ?_, ?_, ?_⟩, ?_⟩
  · rw [hmem] at hone ⊢
    exact hsingle k hk a hv hone
  · rw [hmem]
    exact ((hseen hpath).2 a hv).2
  · rw [hother core slot (by rwa [hleave.sel]), hbenches.bench]
  · have h₁ := congrArg (fun x : Core => { x with tlb := [] }) (hcore core)
    have h₂ := congrArg (fun x : Core => { x with benches := [] }) (hleave.core core)
    exact h₁.trans h₂
  · exact hbenches.capsKept rfl (capsKept_retireWith srcs false heff hu _ fun _ _ _ _ => ⟨rfl, rfl⟩)
  · exact hbenches.predsKept rfl (predsKept_retireWith srcs false _ fun _ _ _ _ => rfl)
  · rwa [BenchKept, hbenches.cur_eq] at hkept
  · have := hbenches.seatsBecome rfl (seatsBecome_retireWith srcs false heff hu)
    rwa [hleave.sel] at this
  · exact hbenches.dataKept rfl (dataKept_retireWith srcs false heff hu _ fun _ _ _ _ => ⟨rfl, rfl⟩)
theorem prefetchChangesNothingButTheSeats : Claims.PrefetchChangesNothingButTheSeats := by
  intro s x i c llc hs hm
  refine ⟨fun hclear => ⟨_, guardPass_clear _ _ _ fun k hk => useFault_clear s (usesOf (.prefIndex x c llc)) hclear k hk,
    prefetch_retires hs hm c _ [x]⟩, _, guardPass_clear _ _ _ fun k hk => ?_, prefetch_retires hs hm c _ []⟩
  exact useFault_clear s (usesOf (.prefImm i c llc)) (operandsClear_none s) k hk

/-! ## `fence` (R117, R273) -/

/-- Does an instruction in flight let a fence of an order go on? -/
def fenceAllows (o : FenceOrd) (x : FlightKind) : Prop :=
  match x with
  | .load _ _ _ => False
  | .stagedLoad _ _ _ => False
  | .remoteLoad _ _ _ _ => False
  | .stagedAtom _ _ _ _ _ _ => False
  | .copy _ => True
  | .matrix _ => True
  | .arrival _ _ _ _ => True
  | .image _ _ _ => True
  | .notify _ _ _ => True
  | .reply _ _ _ => True
  | _ => o = .acquire
/-- Does a fence of an order wait for a flight? -/
def fenceWaits (o : FenceOrd) (f : Flight) : Bool :=
  match o with
  | .acquire => valueFlight f
  | _ => accessFlight f
theorem fenceWaits_iff (o : FenceOrd) (f : Flight) : fenceWaits o f = false ↔ fenceAllows o f.kind := by
  cases o <;> simp only [fenceWaits, valueFlight, accessFlight, fenceAllows] <;> cases f.kind <;> simp
theorem fenceMet_eq (s : State) (core slot k : Nat) (o : FenceOrd) :
    fenceMet s core slot k o = (seatFlights s core slot k).all fun f => !fenceWaits o f := by
  cases o <;> rfl
/-- The condition of a fence for a seat: every instruction of the seat in flight lets it go on. -/
def fenceOpen (s : State) (o : FenceOrd) (k : Nat) : Prop :=
  ∀ f ∈ s.flights, f.core = s.sel.core → f.slot = s.sel.slot → f.seats.getLsbD k = true → fenceAllows o f.kind
theorem fenceMet_iff (s : State) (k : Nat) (o : FenceOrd) : fenceMet s s.sel.core s.sel.slot k o = true ↔ fenceOpen s o k := by
  rw [fenceMet_eq, List.all_eq_true]
  simp only [seatFlights, List.mem_filter, Bool.and_eq_true, beq_iff_eq, Bool.not_eq_true', fenceWaits_iff, fenceOpen, and_imp]
theorem fenceNow_iff (s : State) (sc : Scope) (o : FenceOrd) (k : Nat) : fenceNow s sc o k = true ↔ sc = .seat ∨ fenceOpen s o k := by
  rw [fenceNow, Bool.or_eq_true, beq_iff_eq, fenceMet_iff]
theorem releaseDrain_keeps (s : State) (task : Word) (coreT : Nat) (sc : Scope) :
    cur (releaseDrain s task coreT sc) = cur s ∧ (releaseDrain s task coreT sc).mem = s.mem := by
  unfold releaseDrain
  split
  · split <;> exact ⟨rfl, rfl⟩
  · exact ⟨rfl, rfl⟩

/-- What a seat waits for in a fence whose condition does not hold. -/
def fenceWait (s : State) (sc : Scope) (o : FenceOrd) (k : Nat) : Option Wait := if fenceNow s sc o k then none else some (.fence sc o)
/-- The package after a fence: its seats go on or are blocked, and what the core holds drains if one of them releases. -/
def fencedState (s : State) (sc : Scope) (o : FenceOrd) : State :=
  if fenceReleases o && (issued s).any (fenceNow s sc o) then
    releaseDrain (retireBlocking s [] (fenceWait s sc o)) (cur s).task (curCoreT s) sc
  else retireBlocking s [] (fenceWait s sc o)
theorem fencedState_keeps (s : State) (sc : Scope) (o : FenceOrd) :
    cur (fencedState s sc o) = cur (retireBlocking s [] (fenceWait s sc o)) ∧
      (fencedState s sc o).mem = (retireBlocking s [] (fenceWait s sc o)).mem := by
  unfold fencedState
  split
  · exact releaseDrain_keeps ..
  · exact ⟨rfl, rfl⟩
theorem aFenceHoldsItsSeatUntilEarlierAccessesAreDone : Claims.AFenceHoldsItsSeatUntilEarlierAccessesAreDone := by
  intro s sc o hs met
  obtain ⟨hcur, hmem⟩ := fencedState_keeps s sc o
  have heff := keepsSeats_goingReads s [] (fenceWait s sc o)
  have hout := (leavesOutside_moveWith s [] (goingReads s [] (fenceWait s sc o)) (goOrWait s [] (fenceWait s sc o))).1
  have hkept := benchKept_moveWith s [] (goingReads s [] (fenceWait s sc o)) (goOrWait s [] (fenceWait s sc o)) fun b => benchRest_lastReads _ _ _
  have hdata := dataKept_moveWith [] (goOrWait s [] (fenceWait s sc o)) heff hs (fun _ => False) fun _ _ _ _ => ⟨rfl, rfl⟩
  have hcaps := capsKept_moveWith [] (goOrWait s [] (fenceWait s sc o)) heff hs (fun _ => False) fun _ _ _ _ => ⟨rfl, rfl⟩
  have hpreds := predsKept_moveWith s [] (goingReads s [] (fenceWait s sc o)) (goOrWait s [] (fenceWait s sc o)) (fun _ => False)
    fun _ _ _ _ => rfl
  have hseats := seatsBecome_moveWith [] (goOrWait s [] (fenceWait s sc o)) heff hs
  rw [← retireBlocking_eq_moveWith] at hout hkept hdata hcaps hpreds hseats
  simp only [DataKept, CapsKept, PredsKept, BenchKept, SeatsBecome, ← hcur] at hdata hcaps hpreds hkept hseats
  refine ⟨fencedState s sc o, rfl, ?_, hdata, hcaps, hpreds, hkept, fun k hk => ?_⟩
  · rw [hmem, hout]
  · have hseat := hseats k
    rw [if_pos hk] at hseat
    rw [hseat]
    refine ⟨fun hopen => goOrWait_none (if_pos ((fenceNow_iff s sc o k).mpr hopen)) _, fun hwide hclosed => ?_⟩
    rw [goOrWait_some (if_neg fun hnow => ((fenceNow_iff s sc o k).mp hnow).elim hwide hclosed)]
    exact ⟨rfl, rfl⟩

/-- Settles O18, from what the silent translations change and from the condition of a fence. -/
theorem prefetchesAndFencesChangeNoValue : Obligations.PrefetchesAndFencesChangeNoValue :=
  ⟨prefetchChangesNothingButTheSeats, aFenceHoldsItsSeatUntilEarlierAccessesAreDone⟩

end Sys2Proof.Machine
end

section
/-!
PROOF. What a store leaves in memory and in a hold, byte by byte and granule by granule (R16, R104, R107, R189, R318).
-/
namespace Sys2Proof.Machine
open Sys2Proof

/-! ## Tags and poison of memory (R107) -/

theorem mem_natPut_iff {l : List Nat} (h : natsWf l = true) (a : Nat) (b : Bool) (x : Nat) :
    x ∈ natPut l a b ↔ if x = a then b = true else x ∈ l := by
  rw [natsWf_iff] at h
  induction l with
  | nil => cases b <;> simp [natPut]
  | cons y r ih =>
    obtain ⟨hlt, hr⟩ := List.pairwise_cons.mp h
    have hnot : ∀ z, z ≤ y → z ∉ r := fun z hz hmem => absurd (hlt z hmem) (by omega)
    simp only [natPut]
    split
    case isTrue hay =>
      have := hnot a hay.le
      cases b <;> by_cases hx : x = a <;> simp [hx, this, hay.ne]
    case isFalse =>
      split
      case isTrue hay =>
        subst hay
        have := hnot a le_rfl
        cases b <;> by_cases hx : x = a <;> simp [hx, this]
      case isFalse hne =>
        rw [List.mem_cons, List.mem_cons, ih hr]
        by_cases hx : x = a
        · simp [hx, hne]
        · simp [hx]
theorem mem_granulesOf {a n g : Nat} : g ∈ granulesOf a n ↔ ∃ j, j < n ∧ g = (a + j) / 16 * 16 := by
  unfold granulesOf
  split
  case isTrue h => simp [h]
  case isFalse h =>
    simp only [List.mem_map, List.mem_range]
    constructor
    · rintro ⟨k, hk, rfl⟩
      rcases Nat.eq_zero_or_pos k with rfl | hpos
      · exact ⟨0, by omega, by simp⟩
      · exact ⟨(a / 16 + k) * 16 - a, by omega, by omega⟩
    · rintro ⟨j, hj, rfl⟩
      exact ⟨(a + j) / 16 - a / 16, by omega, by omega⟩

theorem memTag_iff (m : Mem) (x : Nat) : memTag m x = true ↔ x / 16 ∈ m.tags := List.contains_iff_mem
theorem memPoison_iff (m : Mem) (x : Nat) : memPoison m x = true ↔ x / 16 ∈ m.poison := List.contains_iff_mem

/-- What a store of data does to the tag and the poison of one granule that it touches. -/
def touchGranule (a n : Nat) (p : Bool) (m : Mem) (g : Nat) : Mem :=
  let m := memSetTag m g false
  if p then memSetPoison m g true else if coversGranule a n g then memSetPoison m g false else m
theorem memTouch_eq (m : Mem) (a n : Nat) (p : Bool) : memTouch m a n p = (granulesOf a n).foldl (touchGranule a n p) m := rfl

section Touch
variable (a n : Nat) (p : Bool) {m : Mem} (hm : m.wf = true)
include hm

theorem touchGranule_wf (g : Nat) : (touchGranule a n p m g).wf = true := by
  have ht := memSetTag_wf m g false hm
  unfold touchGranule
  dsimp only
  split
  · exact memSetPoison_wf _ _ _ ht
  · split
    · exact memSetPoison_wf _ _ _ ht
    · exact ht
theorem memTag_touchGranule (g x : Nat) : memTag (touchGranule a n p m g) x = true ↔ x / 16 ≠ g / 16 ∧ memTag m x = true := by
  have htags : (touchGranule a n p m g).tags = natPut m.tags (g / 16) false := by
    unfold touchGranule
    dsimp only
    split
    · rfl
    · split <;> rfl
  rw [memTag_iff, htags, mem_natPut_iff ((Mem.wf_iff m).mp hm |>.2.1), memTag_iff]
  by_cases h : x / 16 = g / 16 <;> simp [h]
theorem memPoison_touchGranule (g x : Nat) : memPoison (touchGranule a n p m g) x = true ↔
    if x / 16 = g / 16 then p = true ∨ (coversGranule a n g = false ∧ memPoison m x = true) else memPoison m x = true := by
  have hput := fun b => mem_natPut_iff ((Mem.wf_iff m).mp hm |>.2.2.1) (g / 16) b (x / 16)
  rw [memPoison_iff, memPoison_iff]
  unfold touchGranule
  dsimp only
  split
  case isTrue hp =>
    rw [memSetPoison, show (memSetTag m g false).poison = m.poison from rfl, hput, hp]
    simp
  case isFalse hp =>
    split
    case isTrue hcov =>
      rw [memSetPoison, show (memSetTag m g false).poison = m.poison from rfl, hput]
      simp [hp, hcov]
    case isFalse hcov =>
      rw [show (memSetTag m g false).poison = m.poison from rfl]
      simp [hp, hcov]
theorem memTag_touchGranules (gs : List Nat) (x : Nat) : memTag (gs.foldl (touchGranule a n p) m) x = true ↔
    (∀ g ∈ gs, x / 16 ≠ g / 16) ∧ memTag m x = true := by
  induction gs generalizing m with
  | nil => simp
  | cons g gs ih => rw [List.foldl_cons, ih (touchGranule_wf a n p hm g), memTag_touchGranule a n p hm, List.forall_mem_cons]; tauto
theorem memPoison_touchGranules_clean (gs : List Nat) (x : Nat) : memPoison (gs.foldl (touchGranule a n false) m) x = true ↔
    (∀ g ∈ gs, x / 16 = g / 16 → coversGranule a n g = false) ∧ memPoison m x = true := by
  induction gs generalizing m with
  | nil => simp
  | cons g gs ih =>
    rw [List.foldl_cons, ih (touchGranule_wf a n false hm g), memPoison_touchGranule a n false hm, List.forall_mem_cons]
    by_cases h : x / 16 = g / 16
    · simp [h]; tauto
    · simp [h]
theorem memPoison_touchGranules_poisoned (gs : List Nat) (x : Nat) : memPoison (gs.foldl (touchGranule a n true) m) x = true ↔
    (∃ g ∈ gs, x / 16 = g / 16) ∨ memPoison m x = true := by
  induction gs generalizing m with
  | nil => simp
  | cons g gs ih =>
    rw [List.foldl_cons, ih (touchGranule_wf a n true hm g), memPoison_touchGranule a n true hm, List.exists_mem_cons_iff]
    by_cases h : x / 16 = g / 16 <;> simp [h]
end Touch

theorem memPutBytes_tags_poison (m : Mem) (a : Nat) (bs : List Byte) :
    (memPutBytes m a bs).tags = m.tags ∧ (memPutBytes m a bs).poison = m.poison := by
  induction bs generalizing m a with
  | nil => exact ⟨rfl, rfl⟩
  | cons b bs ih =>
    rw [memPutBytes_cons]
    exact ih _ _
theorem memPoison_memPutBytes (m : Mem) (a : Nat) (bs : List Byte) (x : Nat) : memPoison (memPutBytes m a bs) x = memPoison m x := by
  rw [memPoison, memPoison, (memPutBytes_tags_poison m a bs).2]
theorem memByte_memStore (m : Mem) (a : Nat) (bs : List Byte) (p : Bool) {j : Nat} (h : m.wf = true) (hj : j < bs.length) :
    some (memByte (memStore m a bs p) (a + j)) = bs[j]? := by
  rw [List.getElem?_eq_getElem hj, memStore, memByte_memTouch, memByte_memPutBytes _ _ _ h hj]

section Store
variable {m : Mem} (a : Nat) (bs : List Byte) (p : Bool) (hm : m.wf = true)
include hm

theorem memTag_memStore (x : Nat) : memTag (memStore m a bs p) x = true ↔
    (∀ j, j < bs.length → (a + j) / 16 ≠ x / 16) ∧ memTag m x = true := by
  have htag : memTag (memPutBytes m a bs) x = memTag m x := by rw [memTag, memTag, (memPutBytes_tags_poison m a bs).1]
  rw [memStore, memTouch_eq, memTag_touchGranules a bs.length p (memPutBytes_wf m a bs hm), htag]
  refine and_congr_left' ⟨fun h j hj he => h _ (mem_granulesOf.mpr ⟨j, hj, rfl⟩) (by omega), fun h g hg he => ?_⟩
  obtain ⟨j, hj, rfl⟩ := mem_granulesOf.mp hg
  exact h j hj (by omega)
theorem memPoison_memStore_poisoned (x : Nat) : memPoison (memStore m a bs true) x = true ↔
    (∃ j, j < bs.length ∧ (a + j) / 16 = x / 16) ∨ memPoison m x = true := by
  rw [memStore, memTouch_eq, memPoison_touchGranules_poisoned a bs.length (memPutBytes_wf m a bs hm), memPoison_memPutBytes]
  refine or_congr_left ⟨fun ⟨g, hg, he⟩ => ?_, fun ⟨j, hj, he⟩ => ⟨_, mem_granulesOf.mpr ⟨j, hj, rfl⟩, by omega⟩⟩
  obtain ⟨j, hj, rfl⟩ := mem_granulesOf.mp hg
  exact ⟨j, hj, by omega⟩
theorem memPoison_memStore_clean (x : Nat) : memPoison (memStore m a bs false) x = true ↔
    (∀ g ∈ granulesOf a bs.length, x / 16 = g / 16 → coversGranule a bs.length g = false) ∧ memPoison m x = true := by
  rw [memStore, memTouch_eq, memPoison_touchGranules_clean a bs.length (memPutBytes_wf m a bs hm), memPoison_memPutBytes]
/-- Granules that a store does not touch. -/
theorem memPoison_memStore_other {x : Nat} (hx : ∀ j, j < bs.length → (a + j) / 16 ≠ x / 16) :
    memPoison (memStore m a bs p) x = memPoison m x := by
  rw [Bool.eq_iff_iff]
  cases p with
  | true =>
    rw [memPoison_memStore_poisoned a bs hm]
    exact or_iff_right fun ⟨j, hj, he⟩ => hx j hj he
  | false =>
    rw [memPoison_memStore_clean a bs hm]
    refine and_iff_right fun g hg he => ?_
    obtain ⟨j, hj, rfl⟩ := mem_granulesOf.mp hg
    exact absurd (show (a + j) / 16 = x / 16 by omega) (hx j hj)
/-- A granule that a store without poison covers. -/
theorem memPoison_memStore_covered {x : Nat} (hx : ∀ j, j < 16 → a ≤ x / 16 * 16 + j ∧ x / 16 * 16 + j < a + bs.length) :
    memPoison (memStore m a bs false) x = false := by
  rw [Bool.eq_false_iff, Ne, memPoison_memStore_clean a bs hm]
  intro h
  have hlow := hx 0 (by decide)
  have hhigh := hx 15 (by decide)
  have huncovered := h.1 _ (mem_granulesOf.mpr ⟨x / 16 * 16 - a, by omega, rfl⟩) (by omega)
  simp only [coversGranule, Bool.and_eq_false_iff, decide_eq_false_iff_not] at huncovered
  omega
end Store

theorem storesToMemoryAreReadBack : Claims.StoresToMemoryAreReadBack := by
  intro m a bs p hm
  refine ⟨memStore_wf m a bs p hm, fun j hj => memByte_memStore m a bs p hm hj, fun x hx => memByte_memStore_other m a bs p hm hx,
    fun x ⟨j, hj, he⟩ => ⟨?_, ?_⟩, fun x hx => ⟨?_, memPoison_memStore_other a bs p hm hx⟩, ?_⟩
  · rw [Bool.eq_false_iff, Ne, memTag_memStore a bs p hm]
    exact fun h => h.1 j hj he
  · rintro rfl
    exact (memPoison_memStore_poisoned a bs hm x).mpr (.inl ⟨j, hj, he⟩)
  · rw [Bool.eq_iff_iff, memTag_memStore a bs p hm]
    exact and_iff_right hx
  · rintro rfl x hx
    exact memPoison_memStore_covered a bs hm hx

theorem aThreadSeesItsHoldBeforeMemory : Claims.AThreadSeesItsHoldBeforeMemory := by
  intro s t k va pa hpa
  refine ⟨fun b hb => ?_, fun b hcore hdie => ?_, fun hcore hdie => ?_⟩
  · simp [viewByte, hb]
  · simp [viewByte, hcore, hdie]
  · simp [viewByte, hcore, hdie, hpa]

/-! ## Lines of a hold (R189) -/

/-- The line of a hold. -/
def lineAt (h : List HoldLine) (k : Nat) : Option HoldLine := h.find? fun l => l.line == k
/-- The held byte of a place in a line. -/
def byteIn (l : HoldLine) (k : Nat) : Option Byte :=
  if l.mask.getLsbD k then some (BitVec.ofNat 8 (l.data.toNat / 2 ^ (8 * k))) else none
/-- The line that a store to an address changes: the held one, or an empty one. -/
def lineFor (h : List HoldLine) (k : Nat) : HoldLine := (lineAt h k).getD (HoldLine.fresh k)

theorem holdByte_eq (h : List HoldLine) (va : Nat) : holdByte h va = byteIn (lineFor h (va / 64)) (va % 64) := by
  cases hline : lineAt h (va / 64) with
  | none => simp [holdByte, lineFor, ← lineAt.eq_1, hline, byteIn, HoldLine.fresh]
  | some l => simp [holdByte, lineFor, ← lineAt.eq_1, hline, byteIn]
theorem line_lineFor (h : List HoldLine) (k : Nat) : (lineFor h k).line = k := by
  cases hline : lineAt h k with
  | none => simp [lineFor, hline, HoldLine.fresh]
  | some l => simpa [lineFor, hline] using List.find?_some hline
theorem lineFor_onLine (h : List HoldLine) (va k : Nat) {f : HoldLine → HoldLine} (hf : ∀ l, (f l).line = l.line) :
    lineFor (onLine h va f) k = if k = va / 64 then f (lineFor h k) else lineFor h k := by
  unfold onLine
  split
  case isTrue hany =>
    have hmap : lineAt (h.map fun l => if l.line == va / 64 then f l else l) k =
        (lineAt h k).map fun l => if l.line == va / 64 then f l else l := by
      rw [lineAt, List.find?_map]
      refine congrArg (Option.map _) (congrArg (List.find? · h) (funext fun l => ?_))
      rw [Function.comp_apply]
      split
      · rw [hf]
      · rfl
    obtain ⟨l, hl, hline⟩ := List.any_eq_true.mp hany
    rw [lineFor, hmap, lineFor]
    cases hk : lineAt h k with
    | none =>
      have hne : k ≠ va / 64 := fun he => by
        subst he
        exact absurd hline (List.find?_eq_none.mp hk l hl)
      simp [hne]
    | some x =>
      have hx : x.line = k := by simpa using List.find?_some hk
      by_cases he : k = va / 64 <;> simp [hx, he]
  case isFalse hany =>
    have hnone : lineAt h (va / 64) = none := List.find?_eq_none.mpr fun l hl hline => hany (List.any_eq_true.mpr ⟨l, hl, hline⟩)
    have hnew : (f (HoldLine.fresh (va / 64))).line = va / 64 := hf _
    rw [lineFor, lineAt, List.find?_append, ← lineAt.eq_1, lineFor]
    by_cases he : k = va / 64
    · subst he
      simp [hnone, hnew]
    · have hlast : List.find? (fun l => l.line == k) [f (HoldLine.fresh (va / 64))] = none := by simp [hnew, Ne.symm he]
      rw [hlast, Option.or_none, if_neg he]
theorem byteIn_lineByte (l : HoldLine) {k j : Nat} (hk : k < 64) (hj : j < 64) (b : Byte) :
    byteIn (lineByte l k b) j = if j = k then some b else byteIn l j := by
  have hmask : (lineByte l k b).mask.getLsbD j = (l.mask.getLsbD j || decide (j = k)) := by
    rw [lineByte, BitVec.getLsbD_or, BitVec.getLsbD_ofNat, Nat.testBit_two_pow, decide_eq_true hj, Bool.true_and]
    exact congrArg _ (decide_eq_decide.mpr eq_comm)
  have hbits : ∀ i, i < 8 → (lineByte l k b).data.toNat.testBit (8 * j + i) =
      if j = k then b.toNat.testBit i else l.data.toNat.testBit (8 * j + i) := fun i hi => by
    rw [lineByte, BitVec.toNat_ofNat, Nat.testBit_mod_two_pow, testBit_putBits, decide_eq_true (by omega), Bool.true_and]
    by_cases he : j = k
    · subst he
      rw [if_pos (by omega), if_pos rfl, Nat.add_sub_cancel_left]
    · rw [if_neg (by omega), if_neg he]
  have hbyte : BitVec.ofNat 8 ((lineByte l k b).data.toNat / 2 ^ (8 * j)) =
      if j = k then b else BitVec.ofNat 8 (l.data.toNat / 2 ^ (8 * j)) := BitVec.eq_of_getLsbD_eq fun i hi => by
    have hread : ∀ x : Nat, (BitVec.ofNat 8 (x / 2 ^ (8 * j))).getLsbD i = x.testBit (8 * j + i) := fun x => by
      rw [BitVec.getLsbD_ofNat, Nat.testBit_div_two_pow, decide_eq_true hi, Bool.true_and, Nat.add_comm]
    rw [hread, hbits i hi]
    split
    · rfl
    · exact (hread _).symm
  unfold byteIn
  rw [hmask, hbyte]
  by_cases he : j = k <;> simp [he]

/-! ## A store into a hold (R104, R107, R318) -/

/-- The bytes of a store laid into a hold. -/
def holdPutBytes (h : List HoldLine) (va : Nat) (bs : List Byte) : List HoldLine :=
  (bs.foldl (fun (p : List HoldLine × Nat) b => (onLine p.1 p.2 fun l => lineByte l (p.2 % 64) b, p.2 + 1)) (h, va)).1
theorem holdPutBytes_cons (h : List HoldLine) (va : Nat) (b : Byte) (bs : List Byte) :
    holdPutBytes h va (b :: bs) = holdPutBytes (onLine h va fun l => lineByte l (va % 64) b) (va + 1) bs := rfl
/-- What a store does to the tag and the poison of one granule of a line. -/
def touchLine (va n : Nat) (tag poisoned : Bool) (bell : Word) (g : Nat) (l : HoldLine) : HoldLine :=
  { l with
    tags := setNth l.tags (g / 16 % 4) (some (tag && !poisoned))
    poison := if poisoned then setNth l.poison (g / 16 % 4) (some true)
      else if coversGranule va n g then setNth l.poison (g / 16 % 4) (some false) else l.poison
    last := bell }
theorem holdStore_eq (h : List HoldLine) (va : Nat) (bs : List Byte) (tag poisoned : Bool) (bell : Word) :
    holdStore h va bs tag poisoned bell = (granulesOf va bs.length).foldl
      (fun h g => onLine h g (touchLine va bs.length tag poisoned bell g)) (holdPutBytes h va bs) := rfl

theorem holdByte_onLine_lineByte (h : List HoldLine) (va x : Nat) (b : Byte) :
    holdByte (onLine h va fun l => lineByte l (va % 64) b) x = if x = va then some b else holdByte h x := by
  rw [holdByte_eq, lineFor_onLine _ _ _ (by intro; rfl), holdByte_eq]
  by_cases hline : x / 64 = va / 64
  · rw [if_pos hline, byteIn_lineByte _ (Nat.mod_lt _ (by decide)) (Nat.mod_lt _ (by decide))]
    exact if_congr (by omega) rfl rfl
  · rw [if_neg hline, if_neg fun he => hline (by rw [he])]
theorem holdByte_holdPutBytes (h : List HoldLine) (va : Nat) (bs : List Byte) (x : Nat) :
    holdByte (holdPutBytes h va bs) x = if va ≤ x ∧ x < va + bs.length then bs[x - va]? else holdByte h x := by
  induction bs generalizing h va with
  | nil => rw [if_neg (by simp only [List.length_nil]; omega)]; rfl
  | cons b bs ih =>
    rw [holdPutBytes_cons, ih, holdByte_onLine_lineByte, List.length_cons]
    rcases Nat.lt_trichotomy x va with hlt | rfl | hgt
    · rw [if_neg (by omega), if_neg (by omega), if_neg (by omega)]
    · rw [if_neg (by omega), if_pos rfl, if_pos (by omega), Nat.sub_self]
      rfl
    · obtain ⟨j, rfl⟩ := Nat.exists_eq_add_of_lt hgt
      rw [show va + j + 1 - (va + 1) = j by omega, show va + j + 1 - va = j + 1 by omega, List.getElem?_cons_succ,
        if_neg (show va + j + 1 ≠ va by omega)]
      exact if_congr (by omega) rfl rfl
/-- Each byte of a store is held, and the other bytes are held as before. -/
theorem holdByte_holdStore (h : List HoldLine) (va : Nat) (bs : List Byte) (tag poisoned : Bool) (bell : Word) (x : Nat) :
    holdByte (holdStore h va bs tag poisoned bell) x = if va ≤ x ∧ x < va + bs.length then bs[x - va]? else holdByte h x := by
  rw [holdStore_eq, ← holdByte_holdPutBytes]
  refine foldl_keeps (fun u => holdByte u x = holdByte (holdPutBytes h va bs) x) _ _ _ rfl fun u g hu => ?_
  rw [← hu, holdByte_eq, lineFor_onLine _ _ _ (by intro; rfl), holdByte_eq]
  split <;> rfl

/-! ## Granules of a hold (R318) -/

/-- A line with the tags and the poison of its four granules. -/
def FourGranules (l : HoldLine) : Prop := l.tags.length = 4 ∧ l.poison.length = 4
theorem fourGranules_lineFor {h : List HoldLine} (hh : ∀ l ∈ h, FourGranules l) (k : Nat) : FourGranules (lineFor h k) := by
  cases hline : lineAt h k with
  | none => rw [lineFor, hline]; exact ⟨rfl, rfl⟩
  | some l => rw [lineFor, hline]; exact hh l (List.mem_of_find?_eq_some hline)
theorem lineFor_holdPutBytes_granules (h : List HoldLine) (va : Nat) (bs : List Byte) (k : Nat) :
    (lineFor (holdPutBytes h va bs) k).tags = (lineFor h k).tags ∧ (lineFor (holdPutBytes h va bs) k).poison = (lineFor h k).poison := by
  induction bs generalizing h va with
  | nil => exact ⟨rfl, rfl⟩
  | cons b bs ih =>
    obtain ⟨htags, hpoison⟩ := ih (onLine h va fun l => lineByte l (va % 64) b) (va + 1)
    rw [holdPutBytes_cons, htags, hpoison, lineFor_onLine _ _ _ (by intro; rfl)]
    split <;> exact ⟨rfl, rfl⟩
theorem nth_replicate_none (n j : Nat) : nth (List.replicate n (none : Option Bool)) j none = none := by
  rw [nth, List.getD_eq_getElem?_getD, List.getElem?_getD_replicate_default_eq]
theorem holdTag_eq (h : List HoldLine) (va : Nat) : holdTag h va = nth (lineFor h (va / 64)).tags (va / 16 % 4) none := by
  cases hline : lineAt h (va / 64) with
  | some l => simp [holdTag, lineFor, ← lineAt.eq_1, hline]
  | none =>
    have hnone : ∀ j, nth (HoldLine.fresh (va / 64)).tags j none = none := nth_replicate_none 4
    simp [holdTag, lineFor, ← lineAt.eq_1, hline, hnone]
theorem holdPoison_eq (h : List HoldLine) (va : Nat) : holdPoison h va = nth (lineFor h (va / 64)).poison (va / 16 % 4) none := by
  cases hline : lineAt h (va / 64) with
  | some l => simp [holdPoison, lineFor, ← lineAt.eq_1, hline]
  | none =>
    have hnone : ∀ j, nth (HoldLine.fresh (va / 64)).poison j none = none := nth_replicate_none 4
    simp [holdPoison, lineFor, ← lineAt.eq_1, hline, hnone]
theorem granulesOf_whole {a : Nat} (ha : a % 16 = 0) : granulesOf a 16 = [a] := by
  rw [granulesOf, if_neg (by decide), show (a + 16 - 1) / 16 - a / 16 + 1 = 1 by omega]
  simp
  omega
/-- A store of one whole granule leaves its tag, which poison clears, and its poison. -/
theorem holdGranule_holdStore {h : List HoldLine} (hh : ∀ l ∈ h, FourGranules l) {a : Nat} (ha : a % 16 = 0) {bs : List Byte}
    (hbs : bs.length = 16) (tag poisoned : Bool) (bell : Word) :
    holdTag (holdStore h a bs tag poisoned bell) a = some (tag && !poisoned) ∧
      holdPoison (holdStore h a bs tag poisoned bell) a = some poisoned := by
  have hline : lineFor (holdStore h a bs tag poisoned bell) (a / 64) =
      touchLine a 16 tag poisoned bell a (lineFor (holdPutBytes h a bs) (a / 64)) := by
    rw [holdStore_eq, hbs, granulesOf_whole ha, List.foldl_cons, List.foldl_nil, lineFor_onLine _ _ _ (by intro; rfl), if_pos rfl]
  obtain ⟨htags, hpoison⟩ := lineFor_holdPutBytes_granules h a bs (a / 64)
  have hfour := fourGranules_lineFor hh (a / 64)
  rw [FourGranules, ← htags, ← hpoison] at hfour
  have hslot : a / 16 % 4 < 4 := Nat.mod_lt _ (by decide)
  have hcov : coversGranule a 16 a = true := by simp [coversGranule]
  rw [holdTag_eq, holdPoison_eq, hline, touchLine]
  refine ⟨nth_setNth_same _ _ _ _ (hfour.1 ▸ hslot), ?_⟩
  dsimp only
  cases poisoned with
  | true => exact nth_setNth_same _ _ _ _ (hfour.2 ▸ hslot)
  | false => simpa [hcov] using nth_setNth_same _ _ _ _ (hfour.2 ▸ hslot)

end Sys2Proof.Machine
end

section
/-!
PROOF. What the stores of a pass change: the hold of the task's core part and the scratchpads that window addresses name
(R104 to R106, R152, R189).
-/
namespace Sys2Proof.Machine
open Sys2Proof

/-! ## Only a task's hold and scratchpads change -/

/-- From u to t only scratchpads and the hold of one core part of a task have changed; the task is U before and T after. -/
structure StoresInto (k : Nat) (u t : State) (U T : Task) : Prop where
  outside : t = { u with cores := t.cores, tasks := t.tasks }
  benches : ∀ core, { getCore t core with spad := Mem.empty } = { getCore u core with spad := Mem.empty }
  wf : (∀ core, (getCore u core).spad.wf = true) → ∀ core, (getCore t core).spad.wf = true
  found : findTask t U.id = some T
  parts : T = { U with cores := T.cores }
  others : ∀ j, j ≠ k → taskCore T j = taskCore U j
  own : taskCore T k = { taskCore U k with hold := (taskCore T k).hold }
  places : T.cores.map (·.phys) = U.cores.map (·.phys)

section Into
variable {k : Nat} {s t u : State} {S T U : Task}

theorem storesInto_refl (h : findTask u U.id = some U) : StoresInto k u u U U :=
  ⟨rfl, fun _ => rfl, fun h => h, h, rfl, fun _ _ => rfl, rfl, rfl⟩
theorem StoresInto.id (h : StoresInto k u t U T) : T.id = U.id := by rw [h.parts]
theorem StoresInto.trans (h : StoresInto k s t S T) (h' : StoresInto k t u T U) : StoresInto k s u S U where
  outside := by rw [h'.outside, h.outside]
  benches core := (h'.benches core).trans (h.benches core)
  wf hw := h'.wf (h.wf hw)
  found := by rw [← h.id]; exact h'.found
  parts := by rw [h'.parts, h.parts]
  others j hj := (h'.others j hj).trans (h.others j hj)
  own := by rw [h'.own, h.own]
  places := h'.places.trans h.places
theorem StoresInto.length (h : StoresInto k u t U T) : T.cores.length = U.cores.length := by
  simpa using congrArg List.length h.places
theorem StoresInto.sel (h : StoresInto k u t U T) : t.sel = u.sel := by rw [h.outside]
theorem StoresInto.cur (h : StoresInto k u t U T) : cur t = cur u := by
  have hb := congrArg Core.benches (h.benches u.sel.core)
  rw [Machine.cur, h.sel, getBench, coreBench, hb, Machine.cur, getBench, coreBench]
theorem StoresInto.onMonitor (h : StoresInto k u t U T) : onMonitor t = onMonitor u := by
  rw [Machine.onMonitor, h.sel, Machine.onMonitor]
theorem StoresInto.coreTOf (h : StoresInto k u t U T) (core : Nat) : coreTOf T core = coreTOf U core := by
  rw [coreTOf_eq, coreTOf_eq, h.places]
theorem StoresInto.winPlace (h : StoresInto k u t U T) (a : Nat) : winPlace T k a = winPlace U k a := by
  have hmap : (taskCore T k).map = (taskCore U k).map := by rw [h.own]
  rw [Machine.winPlace, hmap, Machine.winPlace]

/-- A store into the hold of a core part. -/
theorem storesInto_putTaskCore (hT : findTask s T.id = some T) (hk : k < T.cores.length) (l : List HoldLine) :
    let c := { taskCore T k with hold := l }
    StoresInto k s (putTask s (putTaskCore T k c)) T (putTaskCore T k c) ∧ (taskCore (putTaskCore T k c) k).hold = l := by
  intro c
  have hown : taskCore (putTaskCore T k c) k = c := nth_setNth_same _ _ _ _ hk
  refine ⟨⟨rfl, fun _ => rfl, fun h => h, findTask_putTask_of_id hT rfl, rfl, fun j hj => nth_setNth_other _ _ _ _ _ hj.symm, ?_,
    map_setNth_nth _ _ _ TaskCore.none_ _ rfl⟩, by rw [hown]⟩
  rw [hown]
/-- A store into a scratchpad. -/
theorem storesInto_onSpad (hT : findTask s T.id = some T) (core : Nat) (f : Mem → Mem) (hf : ∀ m, m.wf = true → (f m).wf = true) :
    StoresInto k s (onSpad s core f) T T := by
  have hcore : ∀ j, getCore (onSpad s core f) j =
      if core = j then { getCore s j with spad := f (getCore s j).spad } else getCore s j := fun j => by
    rcases eq_or_ne core j with rfl | hne
    · rw [onSpad, getCore_putCore_same, if_pos rfl]
    · rw [onSpad, getCore_putCore_other _ _ _ _ hne, if_neg hne]
  refine ⟨rfl, fun j => ?_, fun hw j => ?_, hT, rfl, fun _ _ => rfl, rfl, rfl⟩
  · rw [hcore]
    split <;> rfl
  · rw [hcore]
    split
    · exact hf _ (hw j)
    · exact hw j
end Into

/-! ## Window stores (R105, R152) -/

/-- The scratchpad byte of a core and an address in it. -/
def spadByte (s : State) (p : Nat × Nat) : Byte := memByte (getCore s p.1).spad p.2
/-- A part of a window store that goes to one core. -/
def winChunk (s : State) (t : Task) (k a : Nat) (bs : List Byte) (poisoned : Bool) : State :=
  onSpad s (winPlace t k a).1 fun m => memStore m (winPlace t k a).2 bs poisoned
theorem winStore_eq (s : State) (t : Task) (k a : Nat) (bs : List Byte) (poisoned : Bool) : winStore s t k a bs poisoned =
    let first := min bs.length (0x80000 - winOff a)
    if first < bs.length then
      winChunk (winChunk s t k a (bs.take first) poisoned) t k (a + first) (bs.drop first) poisoned
    else winChunk s t k a (bs.take first) poisoned := rfl
theorem winPlace_add (t : Task) (k a j : Nat) (h : winOff a + j < 0x80000) :
    winPlace t k (a + j) = ((winPlace t k a).1, (winPlace t k a).2 + j) := by
  have hcore : winCore (a + j) = winCore a := by simp only [winOff, winCore] at h ⊢; omega
  have hoff : winOff (a + j) = winOff a + j := by simp only [winOff] at h ⊢; omega
  rw [winPlace, hcore, hoff, ← Nat.add_assoc]
  rfl

section Window
variable {s : State} {T : Task} {k : Nat} (hw : ∀ core, (getCore s core).spad.wf = true) (a : Nat) (bs : List Byte) (poisoned : Bool)

theorem storesInto_winChunk (hT : findTask s T.id = some T) : StoresInto k s (winChunk s T k a bs poisoned) T T :=
  storesInto_onSpad hT _ _ fun m hm => memStore_wf m _ _ _ hm
theorem storesInto_winStore (hT : findTask s T.id = some T) : StoresInto k s (winStore s T k a bs poisoned) T T := by
  rw [winStore_eq]
  dsimp only
  have hfirst := storesInto_winChunk (k := k) a (bs.take (min bs.length (0x80000 - winOff a))) poisoned hT
  split
  · exact hfirst.trans (storesInto_winChunk _ _ _ hfirst.found)
  · exact hfirst

theorem spadByte_winChunk (p : Nat × Nat) : spadByte (winChunk s T k a bs poisoned) p =
    if (winPlace T k a).1 = p.1 then memByte (memStore (getCore s p.1).spad (winPlace T k a).2 bs poisoned) p.2 else spadByte s p := by
  rw [spadByte, winChunk, onSpad]
  rcases eq_or_ne (winPlace T k a).1 p.1 with h | h
  · rw [if_pos h, ← h, getCore_putCore_same]
  · rw [if_neg h, getCore_putCore_other _ _ _ _ h, spadByte]
include hw

theorem spadByte_winChunk_other (hfit : winOff a + bs.length ≤ 0x80000) {p : Nat × Nat}
    (hp : ∀ j, j < bs.length → winPlace T k (a + j) ≠ p) : spadByte (winChunk s T k a bs poisoned) p = spadByte s p := by
  rw [spadByte_winChunk]
  split
  case isTrue hcore =>
    refine memByte_memStore_other _ _ _ _ (hw _) (Classical.byContradiction fun hin => ?_)
    refine hp (p.2 - (winPlace T k a).2) (by omega) ?_
    rw [winPlace_add T k a _ (by omega)]
    exact Prod.ext hcore (by dsimp only; omega)
  case isFalse => rfl
theorem spadByte_winChunk_same (hfit : winOff a + bs.length ≤ 0x80000) {j : Nat} (hj : j < bs.length) :
    some (spadByte (winChunk s T k a bs poisoned) (winPlace T k (a + j))) = bs[j]? := by
  rw [spadByte_winChunk, winPlace_add T k a j (by omega), if_pos rfl]
  exact memByte_memStore _ _ _ _ (hw _) hj

/-- A window store leaves every byte that its addresses do not name. -/
theorem spadByte_winStore_other (hT : findTask s T.id = some T) (hlen : bs.length ≤ 0x80000) {p : Nat × Nat}
    (hp : ∀ j, j < bs.length → winPlace T k (a + j) ≠ p) : spadByte (winStore s T k a bs poisoned) p = spadByte s p := by
  have hoff : winOff a < 0x80000 := Nat.mod_lt _ (by decide)
  rw [winStore_eq]
  dsimp only
  generalize hn : min bs.length (0x80000 - winOff a) = n
  have hfirst : spadByte (winChunk s T k a (bs.take n) poisoned) p = spadByte s p := by
    refine spadByte_winChunk_other hw a _ poisoned (by simp only [List.length_take]; omega) fun j hj => hp j ?_
    simp only [List.length_take] at hj
    omega
  split
  case isFalse => exact hfirst
  case isTrue hlt =>
    have hwf := (storesInto_winChunk (k := k) a (bs.take n) poisoned hT).wf hw
    have hoff' : winOff (a + n) = 0 := by simp only [winOff] at hn hoff ⊢; omega
    rw [spadByte_winChunk_other hwf (a + n) _ poisoned (by simp only [List.length_drop]; omega) fun j hj => ?_, hfirst]
    simp only [List.length_drop] at hj
    rw [Nat.add_assoc]
    exact hp (n + j) (by omega)
/-- A byte of a window store stands where its address says, unless another of its bytes goes there too. -/
theorem spadByte_winStore_same (hT : findTask s T.id = some T) (hlen : bs.length ≤ 0x80000) {j : Nat} (hj : j < bs.length)
    (hone : ∀ l, l < bs.length → l ≠ j → winPlace T k (a + l) ≠ winPlace T k (a + j)) :
    some (spadByte (winStore s T k a bs poisoned) (winPlace T k (a + j))) = bs[j]? := by
  have hoff : winOff a < 0x80000 := Nat.mod_lt _ (by decide)
  rw [winStore_eq]
  dsimp only
  generalize hn : min bs.length (0x80000 - winOff a) = n
  have hfirst : j < n → some (spadByte (winChunk s T k a (bs.take n) poisoned) (winPlace T k (a + j))) = bs[j]? := fun hjn => by
    rw [spadByte_winChunk_same hw a _ poisoned (by simp only [List.length_take]; omega) (by simp only [List.length_take]; omega),
      List.getElem?_take_of_lt hjn]
  split
  case isFalse => exact hfirst (by omega)
  case isTrue hlt =>
    have hwf := (storesInto_winChunk (k := k) a (bs.take n) poisoned hT).wf hw
    have hoff' : winOff (a + n) = 0 := by simp only [winOff] at hn hoff ⊢; omega
    have hfit : winOff (a + n) + (bs.drop n).length ≤ 0x80000 := by simp only [List.length_drop]; omega
    rcases Nat.lt_or_ge j n with hjn | hnj
    · rw [spadByte_winChunk_other hwf (a + n) _ poisoned hfit fun l hl => ?_, hfirst hjn]
      simp only [List.length_drop] at hl
      rw [Nat.add_assoc]
      exact hone (n + l) (by omega) (by omega)
    · obtain ⟨l, rfl⟩ := Nat.exists_eq_add_of_le hnj
      rw [← Nat.add_assoc, spadByte_winChunk_same hwf (a + n) _ poisoned hfit (by simp only [List.length_drop]; omega),
        List.getElem?_drop]
end Window

/-! ## The stores of a pass, in ascending seat order (R104) -/

/-- The stores of a pass have been made: each byte of the hold and of a scratchpad is that of the highest seat whose store names it. -/
structure StoresMade (k n : Nat) (bs : Nat → List Byte) (ps : List (Nat × Place)) (u t : State) (U T : Task) : Prop
    extends StoresInto k u t U T where
  holdOther : ∀ va, (∀ p ∈ ps, ∀ a pas, p.2 = .mem a pas → va < a ∨ a + n ≤ va) →
    holdByte (taskCore T k).hold va = holdByte (taskCore U k).hold va
  holdSame : ∀ p ∈ ps, ∀ a pas j, p.2 = .mem a pas → j < n →
    (∀ q ∈ ps, p.1 < q.1 → ∀ b pas', q.2 = .mem b pas' → a + j < b ∨ b + n ≤ a + j) →
      holdByte (taskCore T k).hold (a + j) = (bs p.1)[j]?
  spadOther : ∀ o, (∀ p ∈ ps, ∀ a j, p.2 = .win a → j < n → Machine.winPlace U k (a + j) ≠ o) → spadByte t o = spadByte u o
  spadSame : ∀ p ∈ ps, ∀ a j, p.2 = .win a → j < n →
    (∀ q ∈ ps, p.1 < q.1 → ∀ b l, q.2 = .win b → l < n → Machine.winPlace U k (b + l) ≠ Machine.winPlace U k (a + j)) →
    (∀ l, l < n → l ≠ j → Machine.winPlace U k (a + l) ≠ Machine.winPlace U k (a + j)) →
      some (spadByte t (Machine.winPlace U k (a + j))) = (bs p.1)[j]?

section Pass
variable {k n : Nat} {bs : Nat → List Byte} {u : State} {U : Task}

theorem storesMade_nil (hU : findTask u U.id = some U) : StoresMade k n bs [] u u U U :=
  ⟨storesInto_refl hU, fun _ _ => rfl, by simp, fun _ _ => rfl, by simp⟩
/-- A store, and then those of higher seats. -/
theorem StoresMade.cons {t v : State} {T V : Task} {p : Nat × Place} {ps : List (Nat × Place)} (h : StoresMade k n bs [p] u t U T)
    (h' : StoresMade k n bs ps t v T V) (hlt : ∀ q ∈ ps, p.1 < q.1) : StoresMade k n bs (p :: ps) u v U V := by
  have hwin := h.toStoresInto.winPlace
  have hself : ∀ q ∈ [p], ¬p.1 < q.1 := by simp
  refine ⟨h.toStoresInto.trans h'.toStoresInto, fun va hva => ?_, fun p' hp' a pas j hplace hj hover => ?_, fun o ho => ?_,
    fun p' hp' a j hplace hj hover hone => ?_⟩
  · obtain ⟨hp, hps⟩ := List.forall_mem_cons.mp hva
    rw [h'.holdOther va hps, h.holdOther va (by simpa using hp)]
  · obtain ⟨-, hrest⟩ := List.forall_mem_cons.mp hover
    rcases List.mem_cons.mp hp' with rfl | hp'
    · rw [h'.holdOther _ fun q hq => hrest q hq (hlt q hq)]
      exact h.holdSame _ (List.mem_singleton_self _) a pas j hplace hj fun q hq hpq => absurd hpq (hself q hq)
    · exact h'.holdSame p' hp' a pas j hplace hj hrest
  · obtain ⟨hp, hps⟩ := List.forall_mem_cons.mp ho
    rw [h'.spadOther o (by simpa only [hwin] using hps), h.spadOther o (by simpa using hp)]
  · obtain ⟨-, hrest⟩ := List.forall_mem_cons.mp hover
    rcases List.mem_cons.mp hp' with rfl | hp'
    · rw [h'.spadOther _ (by simpa only [hwin] using fun q hq => hrest q hq (hlt q hq))]
      exact h.spadSame _ (List.mem_singleton_self _) a j hplace hj (fun q hq hpq => absurd hpq (hself q hq)) hone
    · have hsame := h'.spadSame p' hp' a j hplace hj
      simp only [hwin] at hsame
      exact hsame hrest hone

/-- The bench's task stands in the package, on team core k. -/
structure StandsOn (k : Nat) (u : State) (U : Task) : Prop where
  found : findTask u (cur u).task = some U
  core : coreTOf U u.sel.core = k
  lt : k < U.cores.length
theorem StandsOn.id (h : StandsOn k u U) : U.id = (cur u).task := id_of_findTask h.found
theorem StandsOn.curTask (h : StandsOn k u U) : curTask u = U := curTask_eq h.found
theorem StandsOn.curCoreT (h : StandsOn k u U) : curCoreT u = k := by rw [Machine.curCoreT, h.curTask, h.core]
theorem StandsOn.after {t : State} {T : Task} (h : StandsOn k u U) (h' : StoresInto k u t U T) : StandsOn k t T :=
  ⟨by rw [h'.cur, ← h.id]; exact h'.found, by rw [h'.sel, h'.coreTOf, h.core], h'.length ▸ h.lt⟩

variable (hU : StandsOn k u U)
include hU

theorem onCoreHold_eq (f : List HoldLine → List HoldLine) :
    onCoreHold u f = putTask u (putTaskCore U k { taskCore U k with hold := f (taskCore U k).hold }) := by
  rw [onCoreHold, hU.curTask, hU.curCoreT]
/-- A store into the hold. -/
theorem storesMade_mem {p : Nat × Place} {a : Nat} {pas : List Nat} (hp : p.2 = .mem a pas) (hlen : (bs p.1).length = n)
    (tag poisoned : Bool) : ∃ T, StoresMade k n bs [p] u (onCoreHold u fun h => holdStore h a (bs p.1) tag poisoned u.bell) U T ∧
      (taskCore T k).hold = holdStore (taskCore U k).hold a (bs p.1) tag poisoned u.bell := by
  obtain ⟨hinto, hhold⟩ := storesInto_putTaskCore (s := u) (hU.id ▸ hU.found) hU.lt
    (holdStore (taskCore U k).hold a (bs p.1) tag poisoned u.bell)
  rw [onCoreHold_eq hU]
  refine ⟨_, ⟨hinto, fun va hva => ?_, fun q hq b pas' j hplace hj _ => ?_, fun _ _ => rfl, fun q hq b j hplace => ?_⟩, hhold⟩
  · rw [hhold, holdByte_holdStore, if_neg (by have := hva p (List.mem_singleton_self _) a pas hp; omega)]
  · obtain rfl := List.mem_singleton.mp hq
    obtain ⟨rfl, -⟩ := Place.mem.inj (hp.symm.trans hplace)
    rw [hhold, holdByte_holdStore, if_pos (by omega), Nat.add_sub_cancel_left]
  · obtain rfl := List.mem_singleton.mp hq
    rw [hp] at hplace
    cases hplace
/-- A store into the window. -/
theorem storesMade_win (hw : ∀ core, (getCore u core).spad.wf = true) {p : Nat × Place} {a : Nat} (hp : p.2 = .win a)
    (hlen : (bs p.1).length = n) (hn : n ≤ 0x80000) (poisoned : Bool) :
    StoresMade k n bs [p] u (winStore u U k a (bs p.1) poisoned) U U := by
  have hfound := hU.id ▸ hU.found
  refine ⟨storesInto_winStore a _ poisoned hfound, fun _ _ => rfl, fun q hq b pas j hplace => ?_, fun o ho => ?_,
    fun q hq b j hplace hj _ hone => ?_⟩
  · obtain rfl := List.mem_singleton.mp hq
    rw [hp] at hplace
    cases hplace
  · exact spadByte_winStore_other hw a _ poisoned hfound (hlen.trans_le hn) fun j hj =>
      ho p (List.mem_singleton_self _) a j hp (hlen ▸ hj)
  · obtain rfl := List.mem_singleton.mp hq
    obtain rfl := Place.win.inj (hp.symm.trans hplace)
    exact spadByte_winStore_same hw a _ poisoned hfound (hlen.trans_le hn) (hlen.symm ▸ hj) fun l hl => hone l (hlen ▸ hl)
end Pass

/-- The stores of data of a pass, all of them performed now. -/
theorem storesMade_foldl {k n : Nat} {bs : Nat → List Byte} {u : State} {U : Task} {ps : List (Nat × Place)}
    (hU : StandsOn k u U) (hw : ∀ core, (getCore u core).spad.wf = true) (bad : Nat → Bool) (hlen : ∀ p ∈ ps, (bs p.1).length = n) (hn : n ≤ 0x80000)
    (hps : ∀ p ∈ ps, (∃ a, p.2 = .win a) ∨ ∃ a pas, p.2 = .mem a pas ∧ onMonitor u = false)
    (hsorted : (ps.map (·.1)).Pairwise (· < ·)) :
    ∃ T, StoresMade k n bs ps u (ps.foldl (fun t p => storeOne t p.2 ⟨bs p.1, none, bad p.1⟩) u) U T := by
  induction ps generalizing u U with
  | nil => exact ⟨U, storesMade_nil (hU.id ▸ hU.found)⟩
  | cons p ps ih =>
    obtain ⟨hlenp, hlen⟩ := List.forall_mem_cons.mp hlen
    obtain ⟨hp, hps⟩ := List.forall_mem_cons.mp hps
    obtain ⟨hlt, hsorted⟩ := List.pairwise_cons.mp hsorted
    have hone : ∃ T, StoresMade k n bs [p] u (storeOne u p.2 ⟨bs p.1, none, bad p.1⟩) U T := by
      rcases hp with ⟨a, hp⟩ | ⟨a, pas, hp, hmon⟩
      · refine ⟨U, ?_⟩
        rw [storeOne, hp, storeAt, hU.curTask, hU.curCoreT]
        exact storesMade_win hU hw hp hlenp hn _
      · obtain ⟨T, hT, -⟩ := storesMade_mem hU hp hlenp false (bad p.1)
        refine ⟨T, ?_⟩
        rw [storeOne, hp]
        simp only [storeAt, hmon, Bool.false_eq_true, if_false]
        exact hT
    obtain ⟨T, hT⟩ := hone
    obtain ⟨V, hV⟩ := ih (hU.after hT.toStoresInto) (hT.wf hw) hlen
      (fun q hq => (hps q hq).imp_right fun ⟨a, pas, hq, hmon⟩ => ⟨a, pas, hq, hT.toStoresInto.onMonitor.trans hmon⟩) hsorted
    exact ⟨V, hT.cons hV fun q hq => hlt q.1 (List.mem_map_of_mem hq)⟩

end Sys2Proof.Machine
end

section
/-!
PROOF. A pass of stores (R101 to R107, R146, R151, R189, R193, R317, R318, R362): made at its issue, or put in flight and made later.
-/
namespace Sys2Proof.Machine
open Sys2Proof

/-! ## The forms of the stores (R101, R105, R146, R317) -/

theorem exec_of_dataStore {s : State} {i : Instr} {m : MemForm} {bs : Nat → List Byte} {bad : Nat → Bool}
    (h : dataStore s i = some (m, bs, bad)) :
    exec i s = storePass s i m.srcs m.c m.addr (m.ask [.st] .store) (fun _ _ => none) fun k => ⟨bs k, none, bad k⟩ := by
  have hfrag := fragAddr_eq s
  unfold dataStore at h
  dsimp only at h
  split at h <;> cases h
  case h_1 x sz c d =>
    rw [← widthBytes_eq]
    rfl
  case h_2 j sz c d =>
    rw [← widthBytes_eq]
    rfl
  case h_5 x sz c d =>
    rw [← widthBytes_eq]
    rfl
  case h_6 j sz c d =>
    rw [← widthBytes_eq]
    rfl
  case h_7 x c d =>
    exact congrArg (fun addr => storePass s (.stfRIndex x c d) [x] c addr (askFrag .st .store) (fun _ _ => none) (storedD s d 8))
      (hfrag c (byReg s x) 8)
  case h_8 j c d =>
    exact congrArg (fun addr => storePass s (.stfRImm j c d) [] c addr (askFrag .st .store) (fun _ _ => none) (storedD s d 8))
      (hfrag c (byImm j 8) 8)
  case h_9 x c d =>
    exact congrArg (fun addr => storePass s (.stfCIndex x c d) [x] c addr (askFrag .st .store) (fun _ _ => none) (storedD s d 8))
      (hfrag c (byReg s x) 512)
  case h_10 j c d =>
    exact congrArg (fun addr => storePass s (.stfCImm j c d) [] c addr (askFrag .st .store) (fun _ _ => none) (storedD s d 8))
      (hfrag c (byImm j 8) 512)
  all_goals rfl
theorem sizeOf_le (sz : Width) : sizeOf_ sz ≤ 16 := by cases sz <;> decide
@[simp] theorem length_leBytes (n : Nat) (x : Word) : (leBytes n x).length = n := by simp [leBytes]
/-- A seat stores as many bytes as its access has, at most 16. -/
theorem length_of_dataStore {s : State} {i : Instr} {m : MemForm} {bs : Nat → List Byte} {bad : Nat → Bool}
    (h : dataStore s i = some (m, bs, bad)) : (∀ k, (bs k).length = m.n) ∧ m.n ≤ 16 := by
  unfold dataStore at h
  dsimp only at h
  split at h <;> cases h
  all_goals exact ⟨fun k => by simp, by simp [sizeOf_le]⟩
theorem exec_of_capStore {s : State} {i : Instr} {m : MemForm} {cd : CReg} (h : capStore s i = some (m, cd)) :
    exec i s = storePass s i m.srcs m.c m.addr (m.ask [.st] .store) (stcExtra s m.c cd m.addr) (storedC s cd) ∧
      m.n = 16 ∧ m.align = 16 := by
  unfold capStore at h
  split at h <;> cases h
  all_goals exact ⟨rfl, rfl, rfl⟩

/-! ## The places of a pass (R102, R105) -/

/-- Where an access at an address goes. -/
def placeAt (va : Word) (p : Place) : Prop := p = .win va.toNat ∨ (∃ pas, p = .mem va.toNat pas) ∨ p = .remote va
theorem placeAt_checkAccess {s t : State} {c : Cap} {a : Int} {k : Ask} {extra : Bool → Option OpFault} {p : Place}
    (h : checkAccess s c a k extra = .ok (p, t)) : placeAt (BitVec.ofInt 64 a) p ∧ (BitVec.ofInt 64 a).toNat % k.align = 0 := by
  unfold checkAccess at h
  dsimp only at h
  repeat' split at h
  all_goals cases h
  all_goals refine ⟨?_, not_not.mp ‹_›⟩
  · exact .inr (.inr rfl)
  · exact .inl rfl
  · exact .inr (.inl ⟨_, rfl⟩)
theorem runSeats_checksLeave {α : Type} {s t : State} {f : State → Nat → Except OpFault (α × State)} {ks : List Nat}
    {vs : List (Nat × α)} {P : Nat → α → Prop} (hf : ∀ u k v u', f u k = .ok (v, u') → ChecksLeave u u' ∧ P k v)
    (h : runSeats s f ks = .ok (vs, t)) : ChecksLeave s t ∧ ∀ e ∈ vs, P e.1 e.2 := by
  induction ks generalizing s t vs with
  | nil =>
    cases h
    exact ⟨checksLeave_refl _, by simp⟩
  | cons k ks ih =>
    unfold runSeats at h
    split at h
    · rename_i hone
      split at h
      · rename_i hrest
        obtain ⟨hleaves, hvs⟩ := ih hrest
        obtain ⟨hleave, hv⟩ := hf _ _ _ _ hone
        cases h
        exact ⟨hleave.trans hleaves, List.forall_mem_cons.mpr ⟨hv, hvs⟩⟩
      · cases h
    · split at h <;> cases h
/-- The checks of a pass give each seat the place of its address. -/
theorem accessChecks_places {s u : State} {i : Instr} {c : CReg} {addr : Nat → Int} {k : Ask} {extra : Nat → Bool → Option OpFault}
    {ps : List (Nat × Place)} (h : accessChecks s i c addr k extra = .ok (ps, u)) :
    ChecksLeave s u ∧ ∀ p ∈ ps, placeAt (BitVec.ofInt 64 (addr p.1)) p.2 ∧ (BitVec.ofInt 64 (addr p.1)).toNat % k.align = 0 := by
  refine runSeats_checksLeave (P := fun j p => placeAt (BitVec.ofInt 64 (addr j)) p ∧ (BitVec.ofInt 64 (addr j)).toNat % k.align = 0)
    (fun u k v u' hone => ?_) h
  split at hone
  · cases hone
  · exact ⟨checksLeave_checkAccess hone, placeAt_checkAccess hone⟩

/-! ## The issue (R104, R132, R151, R193) -/

/-- No access of a pass goes to another package. -/
def allNear (ps : List (Nat × Place)) : Prop := ∀ p ∈ ps, ∀ va, p.2 ≠ .remote va

section Issue
variable (u : State) (srcs : List Src) (n : Nat) (val : Nat → Stored) (ps : List (Nat × Place))

/-- The package once the stores of a pass have been made, if they are made at its issue. -/
def afterStores : State :=
  if madeLate u n ps then settleOver u n ps else ps.foldl (fun t p => storeOne t p.2 (val p.1)) (settleOver u n ps)
/-- A pass of stores in flight. -/
def storesPart : FlightPart :=
  ⟨seatsIn ps, [], [], if madeLate u n ps then .stagedStore (storeItems n val ps) else .store, 0⟩
/-- A bench whose seats have gone on, with the flag raised. -/
def raised (v : State) (flag : Option Nat) : State := moveWith v srcs (fun b => raiseFlag b flag 1) fun _ x => pastSeat x v.sel.len false
theorem issueStore_near (c : CReg) (hnear : allNear ps) (hne : ps ≠ []) : issueStore u srcs c n val ps =
    addParts (raised srcs (afterStores u n val ps) (passFlag u false)) (passFlag u false) [storesPart u n val ps] := by
  have hplaces : nearPlaces ps = ps := List.filter_eq_self.mpr fun p hp => by
    have hp := hnear p hp
    obtain ⟨k, p⟩ := p
    cases p with
    | remote va => exact absurd rfl (hp va)
    | _ => rfl
  have hfar : farPlaces ps = [] := List.filterMap_eq_nil_iff.mpr fun p hp => by
    have hp := hnear p hp
    obtain ⟨k, p⟩ := p
    cases p with
    | remote va => exact absurd rfl (hp va)
    | _ => rfl
  have hempty : ps.isEmpty = false := by simpa using hne
  simp only [issueStore, hplaces, hfar, hempty, Bool.false_eq_true, if_false, List.length_nil, List.range_zero, List.foldl_nil,
    List.map_nil, List.append_nil]
  rfl
end Issue

theorem keepsSeats_raiseFlag (flag : Option Nat) (n : Nat) : KeepsSeats fun b => raiseFlag b flag n :=
  ⟨fun _ hb => shaped_raiseFlag flag n hb, fun b => by rw [raiseFlag_eq]⟩
/-- The bench after the issue of a pass without destinations: its seats have gone on and its flag is raised. -/
structure Raised (s t : State) (srcs : List Src) (flag : Option Nat) : Prop where
  seats : SeatsBecome s t fun _ x => pastSeat x s.sel.len false
  data : DataKept s t srcs fun _ => False
  caps : CapsKept s t fun _ => False
  preds : PredsKept s t fun _ => False
  flags : ∀ k, flagOf (cur t) k = flagOf (cur s) k + if flag = some k ∧ k < 12 then 1 else 0
theorem flags_benchRest (b : Bench) : (benchRest b).flags = b.flags := rfl
theorem flags_moveWith (s : State) (srcs : List Src) (eff : Bench → Bench) (move : Nat → Seat → Seat) :
    (cur (moveWith s srcs eff move)).flags = (eff (lastReads (cur s) s.sel.seats srcs)).flags := by
  rw [← flags_benchRest, benchRest_moveWith, flags_benchRest]
theorem raised_spec {s : State} (hs : Shaped (cur s)) (srcs : List Src) (flag : Option Nat) : Raised s (raised srcs s flag) srcs flag := by
  have heff := keepsSeats_raiseFlag flag 1
  have hlen : (lastReads (cur s) s.sel.seats srcs).flags.length = 12 :=
    ((shaped_iff _).mp (shaped_lastReads (cur s) s.sel.seats srcs hs)).2.2.2.2.2
  refine ⟨seatsBecome_moveWith _ _ heff hs, dataKept_moveWith _ _ heff hs _ fun b r k _ => ?_,
    capsKept_moveWith _ _ heff hs _ fun b r k _ => ?_, predsKept_moveWith _ _ _ _ _ fun b r k _ => ?_, fun k => ?_⟩
  · rw [raiseFlag_eq]
    cases r <;> exact ⟨rfl, rfl⟩
  · rw [raiseFlag_eq]
    exact ⟨rfl, rfl⟩
  · rw [raiseFlag_eq]
    rfl
  · rw [raised, flagOf, flags_moveWith, ← flagOf, flagOf_raiseFlag _ hlen, flagOf, flags_lastReads, flagOf]
/-- The same from a state with the same bench and to one. -/
theorem Raised.of_cur {s v w t : State} {srcs : List Src} {flag : Option Nat} (h : Raised v w srcs flag) (hsel : v.sel = s.sel)
    (hcur : cur v = cur s) (ht : cur t = cur w) : Raised s t srcs flag := by
  have hissued : issued v = issued s := by rw [issued, hsel, issued]
  refine ⟨fun k => ?_, fun r k hr => ?_, fun r k hr => ?_, fun p k hp => ?_, fun k => ?_⟩
  · rw [ht, h.seats k, hissued, hcur, hsel]
  · have hread := h.data r k hr
    rwa [hissued, hcur, ← ht] at hread
  · have hread := h.caps r k hr
    rwa [hcur, ← ht] at hread
  · have hread := h.preds p k hp
    rwa [hcur, ← ht] at hread
  · rw [ht, h.flags k, hcur]

/-- After the issue of a pass of stores only benches, and what is in flight, differ from the package in which they have been made. -/
structure Issued (v t : State) (srcs : List Src) (flag : Option Nat) (part : FlightPart) : Prop where
  outside : t = { v with cores := t.cores, flights := t.flights, nextId := v.nextId + 1 }
  spad : ∀ core, (getCore t core).spad = (getCore v core).spad
  raised : Shaped (cur v) → Raised v t srcs flag
  flight : ∃ f ∈ t.flights, f.id = v.nextId ∧ f.kind = part.kind ∧ f.flag = flag
section AddParts
variable (s : State) (flag : Option Nat) (part : FlightPart)

theorem cur_addParts : cur (addParts s flag [part]) = cur s := rfl
theorem getCore_addParts (core : Nat) : getCore (addParts s flag [part]) core = getCore s core := rfl
theorem addParts_outside : addParts s flag [part] =
    { s with flights := (addParts s flag [part]).flights, nextId := s.nextId + 1 } := rfl
theorem exists_flight_addParts :
    ∃ f ∈ (addParts s flag [part]).flights, f.id = s.nextId ∧ f.kind = part.kind ∧ f.flag = flag :=
  ⟨_, List.mem_append_right _ (List.mem_singleton_self _), rfl, rfl, rfl⟩
end AddParts

theorem issued_addParts (v : State) (srcs : List Src) (flag : Option Nat) (part : FlightPart) :
    Issued v (addParts (raised srcs v flag) flag [part]) srcs flag part := by
  obtain ⟨hout, -, -, hcore⟩ : LeavesOutside v (raised srcs v flag) := leavesOutside_moveWith _ _ _ _
  have hraised := fun hv => raised_spec (s := v) hv srcs flag
  generalize raised srcs v flag = w at hout hcore hraised
  obtain ⟨f, hf, hid, hspec⟩ := exists_flight_addParts w flag part
  refine ⟨?_, fun core => ?_, fun hv => (hraised hv).of_cur rfl rfl (cur_addParts w flag part), f, hf, ?_, hspec⟩
  · rw [addParts_outside, hout]
  · rw [getCore_addParts]
    simpa using congrArg Core.spad (hcore core)
  · rw [hid, hout]

end Sys2Proof.Machine
end

section
/-!
PROOF. Stores of data that are made at their issue or later (R104, R105, R151, R189, R193), and `stc` (R318, R362).
-/
namespace Sys2Proof.Machine
open Sys2Proof

/-! ## Stores made at their issue (R103 to R106) -/

theorem performedNow_cases {u : State} {n : Nat} {p : Nat × Place} (h : performedNow u n p) :
    (∃ a, p.2 = .win a ∧ winHeld u p.1 a n = false) ∨ ∃ a pas, p.2 = .mem a pas ∧ onMonitor u = false := by
  obtain ⟨k, p⟩ := p
  cases p with
  | win a => exact .inl ⟨a, rfl, h⟩
  | mem a pas => exact .inr ⟨a, pas, rfl, h⟩
  | remote va => exact h.elim
theorem allNear_of_performedNow {u : State} {n : Nat} {ps : List (Nat × Place)} (h : ∀ p ∈ ps, performedNow u n p) : allNear ps := by
  intro p hp va hva
  rcases performedNow_cases (h p hp) with ⟨a, ha, -⟩ | ⟨a, pas, ha, -⟩ <;> exact Place.noConfusion (hva.symm.trans ha)
theorem madeLate_of_performedNow {u : State} {n : Nat} {ps : List (Nat × Place)} (hlate : u.sel.late = false)
    (h : ∀ p ∈ ps, performedNow u n p) : madeLate u n ps = false := by
  rw [madeLate, hlate, Bool.false_or, List.any_eq_false]
  intro p hp
  rcases performedNow_cases (h p hp) with ⟨a, ha, hheld⟩ | ⟨a, pas, ha, -⟩
  · simp [ha, hheld]
  · simp [ha]
/-- The task of a bench on its core, after the checks of an access. -/
theorem standsOn_of_onItsCore {s u : State} (h : onItsCore s) (hu : ChecksLeave s u) :
    ∃ U, findTask u (cur s).task = some U ∧ StandsOn (curCoreT s) u U := by
  obtain ⟨U, hU, hlt⟩ := h
  have hfound : findTask u (cur s).task = some U := by
    rw [hu.outside]
    exact hU
  exact ⟨U, hfound, hu.leavesBenches.cur_eq ▸ hfound, by rw [hu.sel, curCoreT, curTask_eq hU], hlt⟩
theorem passFlag_of_checksLeave {s u : State} (hu : ChecksLeave s u) (fb : Bool) : passFlag u fb = passFlag s fb := by
  rw [passFlag, curHeader, hu.leavesBenches.cur_eq, hu.sel, passFlag, curHeader]

theorem StandsOn.settleOver {k : Nat} {u : State} {U : Task} (h : StandsOn k u U) (n : Nat) (ps : List (Nat × Place)) :
    StandsOn k (settleOver u n ps) U := ⟨h.found, h.core, h.lt⟩
/-- A pass of stores that are made at its issue: the seats go on, and what the stores have changed stays. -/
theorem issueStore_now {s u v : State} {U T : Task} {k n : Nat} {ps : List (Nat × Place)} {val : Nat → Stored} (hs : Shaped (cur s))
    (hleave : ChecksLeave s u) (srcs : List Src) (c : CReg) (hnear : allNear ps) (hne : ps ≠ []) (hmade : afterStores u n val ps = v)
    (hU : findTask u (cur s).task = some U) (hinto : StoresInto k (settleOver u n ps) v U T) :
    ∃ t, issueStore u srcs c n val ps = t ∧ findTask t (cur s).task = some T ∧ t.mem = u.mem ∧
      (∀ core, (getCore t core).spad = (getCore v core).spad) ∧ Raised s t srcs (passFlag s false) := by
  have hissue := issueStore_near u srcs n val ps c hnear hne
  rw [hmade] at hissue
  obtain ⟨hout, hspad, hraised, -⟩ := issued_addParts v srcs (passFlag u false) (storesPart u n val ps)
  rw [← hissue] at hout hspad hraised
  have hcur : cur v = cur s := hinto.cur.trans hleave.leavesBenches.cur_eq
  have hraised := (hraised (hcur ▸ hs)).of_cur (hinto.sel.trans hleave.sel) hcur rfl
  rw [passFlag_of_checksLeave hleave] at hraised
  refine ⟨_, rfl, ?_, ?_, hspad, hraised⟩
  · have htasks : (issueStore u srcs c n val ps).tasks = v.tasks := by rw [hout]
    rw [findTask, htasks, ← findTask, ← id_of_findTask hU]
    exact hinto.found
  · rw [hout, hinto.outside]
    rfl

theorem storesPutTheirBytesWhereTheirAddressesSay : Claims.StoresPutTheirBytesWhereTheirAddressesSay := by
  intro s u i m bs bad ps hs hw hcore hform hchecks hne hlate hnow
  obtain ⟨hseats, hbenches⟩ := accessChecks_ok hchecks
  obtain ⟨hleave, hplaces⟩ := accessChecks_places hchecks
  obtain ⟨hlen, hn⟩ := length_of_dataStore hform
  obtain ⟨U, hU, hstands⟩ := standsOn_of_onItsCore hcore hleave
  have hnear := allNear_of_performedNow hnow
  have hpsne : ps ≠ [] := by
    rintro rfl
    exact hne hseats.symm
  have hwf : ∀ core, (getCore (settleOver u m.n ps) core).spad.wf = true := fun core => by
    rw [(leavesBenches_settleOver u m.n ps).spad, hbenches.spad]
    exact hw core
  obtain ⟨T, hT⟩ := storesMade_foldl (n := m.n) (bs := bs) (hstands.settleOver m.n ps) hwf bad (fun p _ => hlen p.1) (by omega)
    (fun p hp => (performedNow_cases (hnow p hp)).imp_left fun ⟨a, ha, _⟩ => ⟨a, ha⟩) (hseats ▸ pairwise_lt_issued s)
  have hmade : afterStores u m.n (fun k => ⟨bs k, none, bad k⟩) ps =
      ps.foldl (fun t p => storeOne t p.2 ⟨bs p.1, none, bad p.1⟩) (settleOver u m.n ps) := by
    rw [afterStores, madeLate_of_performedNow hlate hnow]
    rfl
  obtain ⟨t, hissue, hfound, hmem, hspad, hraised⟩ := issueStore_now hs hleave m.srcs m.c hnear hpsne hmade hU hT.toStoresInto
  have hbyte : ∀ o, memByte (getCore t o.1).spad o.2 = spadByte _ o := fun o => by rw [hspad, spadByte]
  refine ⟨t, T, U, ?_, hfound, hU, hmem, hT.parts, hT.others, hT.own, fun p hp => ⟨?_, ?_⟩, hT.holdOther, hT.holdSame,
    fun core o ho => (hbyte (core, o)).trans (hT.spadOther (core, o) ho), fun p hp a j hplace hj hover hone => ?_,
    hraised.seats, hraised.data, hraised.caps, hraised.preds, hraised.flags⟩
  · rw [exec_of_dataStore hform, storePass, hchecks]
    exact congrArg _ hissue
  · rw [← hseats]
    exact List.mem_map_of_mem hp
  · rcases (hplaces p hp).1 with hwin | ⟨pas, hmem⟩ | hremote
    · exact .inr hwin
    · exact .inl ⟨pas, hmem⟩
    · exact absurd hremote (hnear p hp _)
  · rw [hbyte]
    exact hT.spadSame p hp a j hplace hj hover hone

/-! ## Stores made later (R151, R193) -/

/-- The store of a seat that waits. -/
theorem mem_storeItems {n : Nat} {val : Nat → Stored} {ps : List (Nat × Place)} {p : Nat × Place} (hp : p ∈ ps) {va : Word}
    (hplace : placeAt va p.2) (hnear : ∀ w, p.2 ≠ .remote w) :
    (⟨p.1, va, n, valueLE (val p.1).bytes, ((val p.1).cap.map (·.tag)).getD false, (val p.1).poison, 0, 0, [], []⟩ : WinItem) ∈
      storeItems n val ps := by
  refine List.mem_filterMap.mpr ⟨p, hp, ?_⟩
  rcases hplace with hwin | ⟨pas, hmem⟩ | hremote
  · simp [hwin]
  · simp [hmem]
  · exact absurd hremote (hnear va)
theorem seat_of_mem_storeItems {n : Nat} {val : Nat → Stored} {ps : List (Nat × Place)} {x : WinItem} (h : x ∈ storeItems n val ps) :
    ∃ p ∈ ps, x.seat = p.1 := by
  obtain ⟨⟨k, p⟩, hp, hx⟩ := List.mem_filterMap.mp h
  cases p <;> cases hx
  all_goals exact ⟨_, hp, rfl⟩

section Later
variable {s u : State} {i : Instr} {m : MemForm} {bs : Nat → List Byte} {bad : Nat → Bool} {ps : List (Nat × Place)}

/-- Stores that are made later are in flight, and nothing has been stored. -/
theorem issueStore_late (hs : Shaped (cur s)) (hleave : ChecksLeave s u) (srcs : List Src) (c : CReg) (n : Nat) (val : Nat → Stored)
    (hnear : allNear ps) (hne : ps ≠ []) (hlate : madeLate u n ps = true) : ∃ t, issueStore u srcs c n val ps = t ∧
      t = { u with cores := t.cores, flights := t.flights, nextId := u.nextId + 1 } ∧
      (∀ core, (getCore t core).spad = (getCore u core).spad) ∧ Raised s t srcs (passFlag s false) ∧
      ∃ f ∈ t.flights, f.id = u.nextId ∧ f.kind = .stagedStore (storeItems n val ps) ∧ f.flag = passFlag s false := by
  have hmade : afterStores u n val ps = settleOver u n ps := if_pos hlate
  have hpart : (storesPart u n val ps).kind = .stagedStore (storeItems n val ps) := if_pos hlate
  have hissue := issueStore_near u srcs n val ps c hnear hne
  have hsettled := hleave.leavesBenches.trans (leavesBenches_settleOver u n ps)
  obtain ⟨hout, hspad, hraised, f, hf, hid, hkind, hflag⟩ :=
    issued_addParts (settleOver u n ps) srcs (passFlag u false) (storesPart u n val ps)
  rw [hmade] at hissue
  have hraised := (hraised (hsettled.cur_eq ▸ hs)).of_cur hsettled.sel hsettled.cur_eq rfl
  rw [passFlag_of_checksLeave hleave] at *
  exact ⟨_, hissue, hout, hspad, hraised, f, hf, hid, hkind.trans hpart, hflag⟩
theorem madeLate_of_held {n : Nat} (h : u.sel.late = true ∨ ∃ p ∈ ps, ∃ a, p.2 = .win a ∧ winHeld u p.1 a n = true) :
    madeLate u n ps = true := by
  rw [madeLate, Bool.or_eq_true]
  refine h.imp_right fun ⟨p, hp, a, ha, hheld⟩ => List.any_eq_true.mpr ⟨p, hp, ?_⟩
  rw [ha]
  exact hheld
end Later

/-- The one access of a flight is made: the hold takes its bytes. -/
theorem makeStore_mem {s : State} {f : Flight} {x : WinItem} {T : Task} (hT : isTask s f.task T) (hk : flightCoreT s f < T.cores.length)
    (ha : windowEnd ≤ x.addr.toNat) : ∃ U, StoresInto (flightCoreT s f) s (makeStore s f x) T U ∧
      (makeStore s f x).cores = s.cores ∧ (makeStore s f x).flights = s.flights ∧
      (taskCore U (flightCoreT s f)).hold =
        holdStore (taskCore T (flightCoreT s f)).hold x.addr.toNat (bytesLE x.size x.value) x.tag x.poison s.bell := by
  have hid : T.id = f.task := id_of_findTask hT
  have htask : flightTask s f = T := by rw [flightTask, hT, Option.getD_some]
  obtain ⟨hinto, hhold⟩ := storesInto_putTaskCore (s := s) (hid ▸ hT) hk
    (holdStore (taskCore T (flightCoreT s f)).hold x.addr.toNat (bytesLE x.size x.value) x.tag x.poison s.bell)
  have hmake : makeStore s f x = putTask s (putTaskCore T (flightCoreT s f) { taskCore T (flightCoreT s f) with
      hold := holdStore (taskCore T (flightCoreT s f)).hold x.addr.toNat (bytesLE x.size x.value) x.tag x.poison s.bell }) := by
    unfold makeStore
    rw [htask]
    exact if_neg (Nat.not_lt.mpr ha)
  rw [hmake]
  exact ⟨_, hinto, rfl, rfl, hhold⟩
theorem exec_storeAccepted_one {s : State} {f : Flight} {x : WinItem} (hf : inFlight s f) (hkind : f.kind = .stagedStore [x])
    (hready : readyItems s f = [x]) : exec (.storeAccepted f.id) s = .next (endFlight (makeStore s f x) f) := by
  have hexec : exec (.storeAccepted f.id) s = .next (performStaged s f [x]) := by
    change execStoreAccepted f.id s = _
    rw [execStoreAccepted, findFlight_of_inFlight hf]
    simp only [hkind]
  rw [hexec, performStaged, hready]
  simp [itemsLeft]

theorem storesMayBeMadeLater : Claims.StoresMayBeMadeLater := by
  intro s u i m bs bad ps hs
  refine ⟨fun hform hchecks hne hnear hlate => ?_, fun f x T hf hkind hready hT hk ha htag => ?_⟩
  · obtain ⟨hseats, -⟩ := accessChecks_ok hchecks
    obtain ⟨hleave, hplaces⟩ := accessChecks_places hchecks
    have hpsne : ps ≠ [] := by
      rintro rfl
      exact hne hseats.symm
    obtain ⟨t, hissue, hout, hspad, hraised, f, hf, hid, hkind, hflag⟩ := issueStore_late hs hleave m.srcs m.c m.n
      (fun k => ⟨bs k, none, bad k⟩) hnear hpsne (madeLate_of_held hlate)
    refine ⟨t, f, _, ?_, hf, hid, hkind, hflag, hout, hspad, fun p hp => ?_, fun x hx => seat_of_mem_storeItems hx, hraised.seats,
      hraised.data, hraised.caps, hraised.preds, hraised.flags⟩
    · rw [exec_of_dataStore hform, storePass, hchecks]
      exact congrArg _ hissue
    · refine ⟨_, mem_storeItems hp (hplaces p hp).1 (hnear p hp), rfl, rfl, rfl, rfl, rfl, ?_⟩
      rcases (hplaces p hp).1 with hwin | hmem | hremote
      · exact .inl hwin
      · exact .inr hmem
      · exact absurd hremote (hnear p hp _)
  · obtain ⟨U, hinto, hcores, hflights, hhold⟩ := makeStore_mem hT hk ha
    have hbench : flightBench (makeStore s f x) f = flightBench s f := by rw [flightBench, getBench, getCore, hcores]; rfl
    have hin : inFlight (makeStore s f x) f := by
      obtain ⟨hnodup, hmem, hshaped, htask⟩ := hf
      exact ⟨hflights ▸ hnodup, hflights ▸ hmem, hbench ▸ hshaped, hbench ▸ htask⟩
    obtain ⟨hout, hfalls, hspad, -, -⟩ := endsAlone_endFlight hin
    have hcore : ∀ core, getCore (makeStore s f x) core = getCore s core := fun core => by rw [getCore, hcores, getCore]
    have htasks : (endFlight (makeStore s f x) f).tasks = (makeStore s f x).tasks := by rw [hout]
    have hbyte := holdByte_holdStore (taskCore T (flightCoreT s f)).hold x.addr.toNat (bytesLE x.size x.value) x.tag x.poison s.bell
    refine ⟨_, U, exec_storeAccepted_one hf hkind hready, ?_, fun n => ?_, ?_, ?_, fun core => ?_, hinto.parts, hinto.others,
      fun j hj => ?_, fun va hva => ?_⟩
    · rw [hout]
      simp
    · have hfall := hfalls n
      rwa [hbench, hflights] at hfall
    · rw [hout, hinto.outside]
    · rw [isTask, findTask, htasks, ← findTask, ← id_of_findTask hT]
      exact hinto.found
    · have hsame := congrArg Core.spad (hspad core)
      rw [hcore core] at hsame
      exact hsame
    · rw [hhold, hbyte, length_bytesLE, if_pos (by omega), Nat.add_sub_cancel_left]
      simp [bytesLE, hj]
    · rw [hhold, hbyte, length_bytesLE, if_neg (by omega)]

/-! ## `stc` (R318, R362) -/

/-- The checks of an access leave what a transfer of a capability looks at. -/
theorem storedC_of_checksLeave {s u : State} (hu : ChecksLeave s u) (cd : CReg) (k : Nat) :
    storedC s cd k = ⟨capBytes (transferCap u (taskSpaceNum u (curTask u)) (readC (cur s) cd k)),
      some (transferCap u (taskSpaceNum u (curTask u)) (readC (cur s) cd k)), (poisonC (cur s) cd k).isSome⟩ := by
  have htransfer : ∀ T c, transferCap u (taskSpaceNum u T) c = transferCap s (taskSpaceNum s T) c := fun T c => by
    rw [hu.outside]
    rfl
  rw [hu.curTask, htransfer]
  rfl

theorem stcStoresACapabilityWithItsTag : Claims.StcStoresACapabilityWithItsTag := by
  intro s u i m cd k a pas hs hcore hmon hlate hform _ hfour hchecks
  obtain ⟨hleave, hplaces⟩ := accessChecks_places hchecks
  obtain ⟨hexec, hn, halign⟩ := exec_of_capStore hform
  obtain ⟨U, hU, hstands⟩ := standsOn_of_onItsCore hcore hleave
  obtain ⟨hplace, haligned⟩ := hplaces _ (List.mem_singleton_self _)
  have ha : a % 16 = 0 := by
    have haddr : a = (BitVec.ofInt 64 (m.addr k)).toNat := by
      rcases hplace with hwin | ⟨pas', hmem⟩ | hremote
      · cases hwin
      · exact (Place.mem.inj hmem).1
      · cases hremote
    rw [haddr, ← halign]
    exact haligned
  have hstored := storedC_of_checksLeave hleave cd k
  generalize transferCap u (taskSpaceNum u (curTask u)) (readC (cur s) cd k) = x at hstored ⊢
  generalize (poisonC (cur s) cd k).isSome = poisoned at hstored ⊢
  obtain ⟨T, hT, hhold⟩ := storesMade_mem (p := (k, .mem a pas)) (bs := fun _ => capBytes x) (n := 16)
    (hstands.settleOver m.n [(k, .mem a pas)]) rfl (length_bytesLE _ _) x.tag poisoned
  have hmade : afterStores u m.n (storedC s cd) [(k, .mem a pas)] = onCoreHold (settleOver u m.n [(k, .mem a pas)])
      fun h => holdStore h a (capBytes x) x.tag poisoned u.bell := by
    have hnow : madeLate u m.n [(k, .mem a pas)] = false := by simp [madeLate, hlate]
    have hmon' : onMonitor (settleOver u m.n [(k, .mem a pas)]) = false := hmon
    rw [afterStores, hnow, List.foldl_cons, List.foldl_nil, hstored]
    simp only [storeOne, storeCapAt, hmon', Bool.false_eq_true, if_false]
    rfl
  obtain ⟨t, hissue, hfound, hmem, -, hraised⟩ :=
    issueStore_now hs hleave m.srcs m.c (by simp [allNear]) (by simp) hmade hU hT.toStoresInto
  obtain ⟨htag, hpoison⟩ := holdGranule_holdStore (hfour U hU) ha (length_bytesLE 16 x.bits.toNat) x.tag poisoned u.bell
  refine ⟨t, T, x, ?_, hfound, hmem, rfl, ha, fun j hj => ?_, ?_, ?_, fun va hva V hV => ?_, hraised.seats⟩
  · rw [hexec, storePass, hchecks]
    exact congrArg _ hissue
  · rw [hT.holdSame (k, .mem a pas) (List.mem_singleton_self _) a pas j rfl hj (by simp)]
    simp [capBytes, bytesLE, hj]
  · rw [hhold]
    exact hpoison
  · rw [hhold]
    exact htag
  · obtain rfl := Option.some.inj (hU.symm.trans hV)
    exact hT.holdOther va fun p hp b pas' hb => by
      obtain rfl := List.mem_singleton.mp hp
      obtain ⟨rfl, -⟩ := Place.mem.inj hb
      exact hva

/-- Settles O17: stores at their issue and later, `stc`, the view of a thread, and memory. -/
theorem storesAreHeldAndRead : Obligations.StoresAreHeldAndRead :=
  ⟨storesPutTheirBytesWhereTheirAddressesSay, storesMayBeMadeLater, stcStoresACapabilityWithItsTag, aThreadSeesItsHoldBeforeMemory,
    storesToMemoryAreReadBack⟩

end Sys2Proof.Machine
end

section
/-!
PROOF. The hand-over of a word to a queued reader (R156), refuted: nothing asks that a core's benches stand in distinct slots. Where the
selected slot is listed twice, its second entry is the bench that the queue names; the reads of the pass (R141) put the selected bench
into both entries, and the word then goes to the next bench of that number.
-/
namespace Sys2Proof.Machine
open Sys2Proof

/-- Bench 0 of task 1: seat 0 issues, and seat 1 waits to read mailbox 0 into v1. -/
def readerBench : Bench :=
  { Bench.reset with
    task := 1
    seats := { Seat.reset with state := .eligible } :: { Seat.reset with state := .blocked (.mbr 0 (.v 1) 0) } ::
      List.replicate 30 Seat.reset }
/-- Slot 0 of core 0 stands in the list of benches twice, as bench 0 and as bench 5 of the task; slot 1 is bench 5 too. -/
def slotListedTwice : Core :=
  { Core.reset with
    benches := [(0, readerBench), (0, { readerBench with benchT := 5 }), (1, { Bench.reset with task := 1, benchT := 5 })] }
/-- Seat 1 of bench 5 is queued to read mailbox 0. -/
def readerQueued : Mailbox := { Mailbox.empty with readers := [(5, 1)] }
def queuedTask : Task :=
  { Task.none_ with id := 1, cores := [{ TaskCore.none_ with mail := readerQueued :: List.replicate 7 Mailbox.empty }] }
/-- Seat 0 of slot 0 is selected, for an instruction of 4 bytes. -/
def queuedState : State :=
  { State.reset with cores := [(0, slotListedTwice)], tasks := [queuedTask], sel := ⟨0, 0, 1, 0, 4, 0, false⟩ }

theorem shaped_readerBench : Shaped readerBench := by
  unfold Shaped
  decide
/-- The bench that the queue names is the selected one. -/
theorem queueSlot_queuedState : queueSlot queuedState 5 = 0 := by decide
/-- The state once seat 0 has written mailbox 0. -/
def wordWritten : State :=
  freeRows (mailWrite (cacheReads queuedState [⟨.v 0, .plain⟩]) ⟨.v 0, .plain⟩ 0 0) 0 0
theorem exec_mbw_queuedState : exec (.mbw 0 ⟨.v 0, .plain⟩) queuedState = .next wordWritten :=
  guardPass_clear queuedState (useWake queuedState (usesOf (.mbw 0 ⟨.v 0, .plain⟩))) wordWritten (by decide)
/-- The reader of the selected bench waits on. -/
theorem reader_wordWritten : (getSeat (getBench wordWritten 0 0) 1).state = .blocked (.mbr 0 (.v 1) 0) := by decide

/-- Refutes O23: where an ill-formed core lists the selected slot twice, the word goes to another bench than the one that the queue
names. -/
theorem not_mailboxesHandOverOneWordAtATime : ¬ Obligations.MailboxesHandOverOneWordAtATime := by
  intro hclaim
  have hclear : OperandsClear queuedState [.v 0] [] [] [] := by
    unfold OperandsClear
    decide
  refine Exists.elim ((hclaim queuedState queuedTask 0 ⟨.v 0, .plain⟩ (.v 0) 0 0 0 rfl (by decide) rfl shaped_readerBench (by decide) rfl
    rfl ?other).1 hclear) ?reader
  case other =>
    rintro r (hr | hr)
    · obtain rfl : (5, 1) = r := Option.some.inj hr
      rw [queueSlot_queuedState]
      exact ⟨by decide, shaped_readerBench, fun _ => by decide⟩
    · cases hr
  case reader =>
    rintro t ⟨ht, -, -, -, hread⟩
    obtain rfl := Host.Outcome.next.inj (exec_mbw_queuedState.symm.trans ht)
    obtain ⟨-, -, ⟨hwoken, -⟩, -⟩ := hread (5, 1) [] (.v 1) 0 rfl rfl rfl
    cases hwoken.symm.trans reader_wordWritten

end Sys2Proof.Machine
end

section
/-!
PROOF. Graphs and their bins (R288 to R290), and the launch of what a bin holds when its timer expires.
-/
namespace Sys2Proof.Machine
open Sys2Proof

/-! ## Objects that are written -/

theorem type_num_of_findObj {s : State} {type num : Nat} {o : Obj} (h : findObj s type num = some o) : o.type = type ∧ o.num = num := by
  simpa using List.find?_some h
/-- An object that is replaced is found under its own type and number, and under no other ones. -/
theorem findObj_map_other (l : List Obj) (o : Obj) {type num : Nat} (h : ¬(o.type = type ∧ o.num = num)) :
    (l.map fun x => if x.type == o.type && x.num == o.num then o else x).find? (fun x => x.type == type && x.num == num) =
      l.find? fun x => x.type == type && x.num == num := by
  induction l with
  | nil => rfl
  | cons x l ih =>
    by_cases hx : x.type = o.type ∧ x.num = o.num
    · simpa [hx, h] using ih
    · by_cases hx' : x.type = type ∧ x.num = num
      · obtain ⟨rfl, rfl⟩ := hx'
        simp [hx]
      · simpa [hx, hx'] using ih
theorem findObj_map_same (l : List Obj) (o : Obj) (h : l.any (fun x => x.type == o.type && x.num == o.num) = true) :
    (l.map fun x => if x.type == o.type && x.num == o.num then o else x).find? (fun x => x.type == o.type && x.num == o.num) =
      some o := by
  induction l with
  | nil => cases h
  | cons x l ih =>
    by_cases hx : x.type = o.type ∧ x.num = o.num
    · simp [hx]
    · simpa [hx] using ih (by simpa [hx] using h)
theorem findObj_setObjData_same {s : State} {type num : Nat} {o : Obj} (h : findObj s type num = some o) (d : ObjData) :
    findObj (setObjData s type num d) type num = some { o with data := d } := by
  obtain ⟨rfl, rfl⟩ := type_num_of_findObj h
  simp only [setObjData, h, putObj]
  exact findObj_map_same s.objs { o with data := d } (List.any_eq_true.mpr ⟨o, List.mem_of_find?_eq_some h, by simp⟩)
theorem findObj_setObjData_other (s : State) (type num : Nat) (d : ObjData) {type' num' : Nat} (hne : ¬(type = type' ∧ num = num')) :
    findObj (setObjData s type num d) type' num' = findObj s type' num' := by
  cases h : findObj s type num with
  | none => simp only [setObjData, h]
  | some o =>
    obtain ⟨rfl, rfl⟩ := type_num_of_findObj h
    simp only [setObjData, h, putObj]
    exact findObj_map_other s.objs { o with data := d } hne
/-- Only objects change when an object is written. -/
theorem setObjData_eq (s : State) (type num : Nat) (d : ObjData) :
    setObjData s type num d = { s with objs := (setObjData s type num d).objs } := by
  unfold setObjData
  split <;> rfl

/-! ## Bins (R288) -/

/-- The object of a graph is there. -/
def HasGraph (s : State) (g : Nat) : Prop := ∃ o, findObj s 967 g = some o
theorem graphOf_of_find {s : State} {g : Nat} {o : Obj} {G : GraphObj} (h : findObj s 967 g = some o) (hG : o.data = .graph G) :
    graphOf s g = G := by
  obtain ⟨type, num, _, _, _, _, data⟩ := o
  obtain rfl : data = .graph G := hG
  simp only [graphOf, h]
theorem graphOf_putBin_same {s : State} {g : Nat} (h : HasGraph s g) (n : Nat) (b : Bin) :
    graphOf (putBin s g n b) g = { graphOf s g with bins := putKey (graphOf s g).bins n b } := by
  obtain ⟨o, ho⟩ := h
  exact graphOf_of_find (findObj_setObjData_same ho _) rfl
theorem graphOf_putBin_other (s : State) {g g' : Nat} (n : Nat) (b : Bin) (hg : g ≠ g') :
    graphOf (putBin s g n b) g' = graphOf s g' := by
  rw [graphOf, putBin, findObj_setObjData_other _ _ _ _ fun e => hg e.2, graphOf]
theorem binOf_putBin_same {s : State} {g : Nat} (h : HasGraph s g) (n : Nat) (b : Bin) : binOf (putBin s g n b) g n = b := by
  rw [binOf, graphOf_putBin_same h, lookupKey_putKey_same, Option.getD_some]
theorem putBin_eq (s : State) (g n : Nat) (b : Bin) : putBin s g n b = { s with objs := (putBin s g n b).objs } := setObjData_eq ..

/-! ## The timer of a bin (R290) -/

/-- A bin that has launched what it held. -/
def launchedBin (b : Bin) : Bin := { b with delivered := [], timer := none }
/-- The task that a launch adds. -/
def launched (s : State) (g n : Nat) (recs : List BinRec) : Task :=
  { Task.none_ with
    id := s.nextTask, graph := g, node := n, readySeq := s.nextSeq, since := s.bell, launched := s.bell, records := recs, phase := .pool
    saveBase := BitVec.ofNat 64 ((aspaceObj s (codeOf s (binNode s g n).code).aspace).kid * 2 ^ 40) + s.saveNext }
theorem launchTask_eq (s : State) (g n : Nat) (recs : List BinRec) : launchTask s g n recs =
    { s with
      tasks := s.tasks ++ [launched s g n recs], nextTask := s.nextTask + 1, nextSeq := s.nextSeq + 1
      saveNext := s.saveNext + BitVec.ofNat 64 (saveSize (binNode s g n)) } := rfl
theorem aBinTimerLaunchesItsRecords : Claims.ABinTimerLaunchesItsRecords := by
  intro s node g n o G u hnode ho hG
  dsimp only
  intro htimer hdue hrecs
  have hbin := binOf_putBin_same ⟨o, ho⟩ n (launchedBin (binOf s g n))
  have hrest := putBin_eq s g n (launchedBin (binOf s g n))
  generalize hu : putBin s g n (launchedBin (binOf s g n)) = v at hbin hrest
  have hexec : exec (.binTimerExpire node) s = .next (launchTask v g n (binOf s g n).delivered) := by
    simp only [exec, execBinTimerExpire, hnode, htimer, if_pos (And.intro hdue hrecs), ← hu]
    rfl
  have hlater : binOf (launchTask v g n (binOf s g n).delivered) g n = launchedBin (binOf s g n) := hbin
  refine ⟨_, launched v g n (binOf s g n).delivered, hexec, ?_⟩
  rw [hlater, launchTask_eq, hrest]
  exact ⟨rfl, rfl, rfl, rfl, rfl, rfl, rfl, rfl, rfl, rfl, rfl, rfl, rfl, rfl, rfl, rfl⟩

end Sys2Proof.Machine
end

section
/-!
PROOF. What is staged lands in the allocations, and the Dean dispatches (R151, R298, R301, R309).
-/
namespace Sys2Proof.Machine
open Sys2Proof

/-! ## Changes of cores -/

/-- Only cores, draws and instructions in flight have changed. -/
def OnlyCores (s t : State) : Prop := t = { s with cores := t.cores, flights := t.flights, draws := t.draws }
theorem onlyCores_refl (s : State) : OnlyCores s s := rfl
theorem OnlyCores.trans {s t u : State} (h : OnlyCores s t) (h' : OnlyCores t u) : OnlyCores s u := by
  rw [OnlyCores] at h h' ⊢
  rw [h', h]
theorem onlyCores_foldl {α : Type} (s : State) (l : List α) {f : State → α → State} (h : ∀ u x, OnlyCores u (f u x)) :
    OnlyCores s (l.foldl f s) :=
  foldl_keeps (OnlyCores s) f l s (onlyCores_refl s) fun u x hu => hu.trans (h u x)
theorem OnlyCores.mem {s t : State} (h : OnlyCores s t) : t.mem = s.mem := by rw [h]
theorem OnlyCores.findTask {s t : State} (h : OnlyCores s t) (id : Word) : findTask t id = findTask s id := by rw [h]; rfl
theorem onlyCores_onBenches (s : State) (t : Task) (f : Bench → Bench) : OnlyCores s (onBenches s t f) :=
  onlyCores_foldl s _ fun _ _ => rfl

/-- Cores have changed, but not their benches. -/
structure SparesBenches (s t : State) : Prop where
  outside : OnlyCores s t
  benches : ∀ core, (getCore t core).benches = (getCore s core).benches
theorem sparesBenches_refl (s : State) : SparesBenches s s := ⟨rfl, fun _ => rfl⟩
theorem SparesBenches.trans {s t u : State} (h : SparesBenches s t) (h' : SparesBenches t u) : SparesBenches s u :=
  ⟨h.outside.trans h'.outside, fun core => (h'.benches core).trans (h.benches core)⟩
theorem sparesBenches_foldl {α : Type} (s : State) (l : List α) {f : State → α → State} (h : ∀ u x, SparesBenches u (f u x)) :
    SparesBenches s (l.foldl f s) :=
  foldl_keeps (SparesBenches s) f l s (sparesBenches_refl s) fun u x hu => hu.trans (h u x)
theorem sparesBenches_putCore (s : State) (k : Nat) (c : Core) (h : c.benches = (getCore s k).benches) :
    SparesBenches s (putCore s k c) := by
  refine ⟨rfl, fun core => ?_⟩
  rcases eq_or_ne k core with rfl | hne
  · rw [getCore_putCore_same, h]
  · rw [getCore_putCore_other _ _ _ _ hne]
theorem SparesBenches.getBench {s t : State} (h : SparesBenches s t) (core slot : Nat) : getBench t core slot = getBench s core slot := by
  rw [Machine.getBench, coreBench, h.benches, Machine.getBench, coreBench]
theorem SparesBenches.taskBenches {s t : State} (h : SparesBenches s t) (T : Task) : taskBenches t T = taskBenches s T := by
  simp only [Machine.taskBenches, h.benches]
theorem sparesBenches_onSpad (s : State) (core : Nat) (f : Mem → Mem) : SparesBenches s (onSpad s core f) :=
  sparesBenches_putCore s core _ rfl
theorem sparesBenches_freePointers (s : State) (t : Task) (u : State) : SparesBenches u (freePointers s t u) :=
  sparesBenches_foldl u _ fun v _ =>
    SparesBenches.trans (t := (draw (draw v 64).2 32).2) ⟨rfl, fun _ => rfl⟩ (sparesBenches_putCore _ _ _ rfl)

/-- A change that a bench takes once however often it is named. -/
theorem getBench_foldl_putBench (f : Bench → Bench) (hf : ∀ b, f (f b) = f b) (l : List (Nat × Nat)) (s : State) (core slot : Nat) :
    getBench (l.foldl (fun s e => putBench s e.1 e.2 (f (getBench s e.1 e.2))) s) core slot =
      if (core, slot) ∈ l then f (getBench s core slot) else getBench s core slot := by
  induction l generalizing s with
  | nil => rfl
  | cons e l ih =>
    rw [List.foldl_cons, ih]
    by_cases he : (core, slot) = e
    · subst he
      simp [hf]
    · have hother : ¬(core = e.1 ∧ slot = e.2) := fun h => he (Prod.ext h.1 h.2)
      simp [he, getBench_putBench_other _ _ _ _ _ _ hother]
theorem getBench_onBenches {s : State} {t : Task} {f : Bench → Bench} (hf : ∀ b, f (f b) = f b) {e : Nat × Nat}
    (he : e ∈ taskBenches s t) : getBench (onBenches s t f) e.1 e.2 = f (getBench s e.1 e.2) := by
  rw [onBenches, getBench_foldl_putBench f hf, if_pos he]

/-! ## Dispatch (R301, R309) -/

theorem stagingDone_iff (t : Task) : stagingDone t = true ↔ ∀ c ∈ t.cores, c.staging = [] := by
  simp [stagingDone]
theorem dispatchDue_iff {s : State} {t : Task} {b : Word} (h : t.phase = .staging b) : dispatchDue s t = true ↔
    (∀ c ∈ t.cores, c.staging = []) ∨ t.fromCkpt = false ∧ b.toNat + leadOf s t ≤ s.bell.toNat := by
  simp [dispatchDue, h, stagingDone_iff]
/-- A bench that runs, and one that waits to be restored. -/
def runBench (b : Bench) : Bench := { b with mode := .running }
def placedBench (b : Bench) : Bench := { b with mode := .placed }
/-- The package once a task runs that starts from its beginning, but for the task. -/
def dispatched (s : State) (T : Task) : State := freePointers s T (onBenches s T runBench)
theorem dispatchTask_fresh_eq {s : State} {T : Task} (h : T.fromCkpt = false) : dispatchTask s T =
    putTask { dispatched s T with nextDispatch := (dispatched s T).nextDispatch + 1 }
      { T with phase := .running, dispatchSeq := (dispatched s T).nextDispatch } := by
  simp only [dispatchTask, h, Bool.false_eq_true, if_false]
  rfl
/-- The package once the captured contents stand in the allocations of a task again, with its instructions in flight. -/
def overlaid (s : State) (T : Task) : State := (List.range T.cores.length).foldl (fun s k => overlayCapture s T k) s
def recaptured (s : State) (T : Task) : State :=
  let v := overlaid s T
  { v with flights := v.flights ++ (T.savedFlights.filter fun x => !isTmma x.2).filterMap fun x =>
      (benchOfThread v T x.1).map fun p => { firstDone x.2 with core := p.1, slot := p.2 } }
/-- The benches of a task on a core are queued to be restored. -/
def queueRestore (T : Task) (s : State) (c : TaskCore) : State :=
  putCore s c.phys { getCore s c.phys with
    restoreQ := (getCore s c.phys).restoreQ ++
      ((getCore s c.phys).benches.filter fun e => e.1 != 64 && e.2.task == T.id).map (·.1) }
/-- The package once a task from a checkpoint waits to be restored, but for the modes of its benches and the task. -/
def awaitingRestore (s : State) (T : Task) : State := T.cores.foldl (queueRestore T) (recaptured s T)
theorem sparesBenches_awaitingRestore (s : State) (T : Task) : SparesBenches s (awaitingRestore s T) :=
  have hover : SparesBenches s (overlaid s T) := sparesBenches_foldl s _ fun u k => by
    unfold overlayCapture
    exact sparesBenches_onSpad ..
  have hflights : SparesBenches (overlaid s T) (recaptured s T) := ⟨rfl, fun _ => rfl⟩
  (hover.trans hflights).trans (sparesBenches_foldl _ _ fun _ _ => sparesBenches_putCore _ _ _ rfl)
theorem dispatchTask_fromCkpt_eq {s : State} {T : Task} (h : T.fromCkpt = true) : dispatchTask s T =
    putTask (onBenches (awaitingRestore s T) T placedBench)
      { T with
        phase := .restoring, fromCkpt := false, savedFlights := T.savedFlights.filter fun x => isTmma x.2
        dispatchSeq := (awaitingRestore s T).nextDispatch } := by
  simp only [dispatchTask, h, if_true]
  rfl

/-- A task that starts from its beginning runs on all its benches. -/
theorem dispatchTask_fresh {s : State} {T : Task} (hT : isTask s T.id T) (h : T.fromCkpt = false) :
    ∃ U, (dispatchTask s T).mem = s.mem ∧ isTask (dispatchTask s T) T.id U ∧ U.phase = .running ∧
      ∀ e ∈ taskBenches s T, (getBench (dispatchTask s T) e.1 e.2).mode = .running ∧
        (getBench (dispatchTask s T) e.1 e.2).seats = (getBench s e.1 e.2).seats := by
  have hfree : SparesBenches (onBenches s T runBench) (dispatched s T) :=
    sparesBenches_freePointers s T (onBenches s T runBench)
  have hout : OnlyCores s (dispatched s T) := (onlyCores_onBenches s T runBench).trans hfree.outside
  have hbench : ∀ e ∈ taskBenches s T, getBench (dispatched s T) e.1 e.2 = runBench (getBench s e.1 e.2) := fun e he =>
    (hfree.getBench e.1 e.2).trans (getBench_onBenches (f := runBench) (fun _ => rfl) he)
  rw [dispatchTask_fresh_eq h]
  generalize dispatched s T = u at *
  refine ⟨_, hout.mem, findTask_putTask_of_id ((hout.findTask T.id).trans hT) rfl, rfl, fun e he => ?_⟩
  change (getBench u e.1 e.2).mode = _ ∧ (getBench u e.1 e.2).seats = _
  rw [hbench e he]
  exact ⟨rfl, rfl⟩
/-- A task that restarts from a checkpoint waits on all its benches to be restored. -/
theorem dispatchTask_fromCkpt {s : State} {T : Task} (hT : isTask s T.id T) (h : T.fromCkpt = true) :
    ∃ U, (dispatchTask s T).mem = s.mem ∧ isTask (dispatchTask s T) T.id U ∧ U.phase = .restoring ∧
      ∀ e ∈ taskBenches s T, (getBench (dispatchTask s T) e.1 e.2).mode = .placed := by
  have hspares := sparesBenches_awaitingRestore s T
  have hout := hspares.outside.trans (onlyCores_onBenches (awaitingRestore s T) T placedBench)
  have hbench : ∀ e ∈ taskBenches s T, getBench (onBenches (awaitingRestore s T) T placedBench) e.1 e.2 =
      placedBench (getBench (awaitingRestore s T) e.1 e.2) := fun e he =>
    getBench_onBenches (f := placedBench) (fun _ => rfl) (by rwa [hspares.taskBenches])
  rw [dispatchTask_fromCkpt_eq h]
  generalize onBenches (awaitingRestore s T) T placedBench = u at *
  refine ⟨_, hout.mem, findTask_putTask_of_id ((hout.findTask T.id).trans hT) rfl, rfl, fun e he => ?_⟩
  change (getBench u e.1 e.2).mode = _
  rw [hbench e he]
  rfl
/-- A task that is not due stays; one that is due is dispatched. -/
theorem exec_taskDispatch {s : State} {T : Task} (hT : isTask s T.id T) :
    exec (.taskDispatch T.id) s = .next (if dispatchDue s T then dispatchTask s T else s) := by
  rw [isTask] at hT
  simp only [exec, execTaskDispatch, hT]

/-! ## A granule lands (R151, R298) -/

section Granule
variable {s : State} {T : Task} {k g : Nat} {x : RegionDesc} {a : Int}

/-- A granule that this package's memory holds is read through the loader's translation. -/
theorem landGranule_local {r p : Nat} {u : State} (hsrc : granuleSource (taskNode s T) k r g = some (x, a)) (ha : 0 ≤ a) (ha' : a < 2 ^ 64)
    (hlocal : hasPerm (nth (taskNode s T).args x.arg Cap.null) .remote = false)
    (hu : translateBytes s (taskCore T k).phys (taskSpace s T) (taskSpace s T).hlimit .load a.toNat 16 =
      .ok ((List.range 16).map (p + ·), u)) (hmgmt : ∀ j, j < 16 → isMgmt (p + j) = false) :
    ∃ tag poisoned, landGranule s T k r g = .ok (putGranule u T k x g (BitVec.ofInt 64 a) (memBytes u.mem p 16) tag poisoned) := by
  have hva : (BitVec.ofInt 64 a).toNat = a.toNat := by
    rw [BitVec.toNat_ofInt]
    omega
  have hbytes : ((List.range 16).map (p + ·)).map (fun q => if isMgmt q then 0 else memByte u.mem q) = memBytes u.mem p 16 := by
    rw [List.map_map]
    refine List.map_congr_left fun j hj => ?_
    simp [hmgmt j (List.mem_range.mp hj)]
  simp only [landGranule, hsrc, hlocal, Bool.false_eq_true, if_false, hva, hu, hbytes]
  exact ⟨_, _, rfl⟩
theorem memByte_putGranule (va : Word) (bs : List Byte) (tag poisoned : Bool) (o : Nat) :
    memByte (getCore (putGranule s T k x g va bs tag poisoned) (taskCore T k).phys).spad o =
      memByte (memStore (getCore s (taskCore T k).phys).spad ((taskCore T k).base + g) bs poisoned) o := by
  rw [putGranule, getCore, putTask_cores, ← getCore]
  rw [onSpad, getCore_putCore_same]
  dsimp only
  split <;> rfl
theorem findTask_putGranule (hT : isTask s T.id T) (va : Word) (bs : List Byte) (tag poisoned : Bool) :
    isTask (putGranule s T k x g va bs tag poisoned) T.id (putTaskCore T k (landed (taskCore T k) x.k g)) :=
  findTask_putTask_of_id hT rfl
theorem notMem_waiting_of_landed {c : TaskCore} {r : Nat} {e : StageEntry} (he : e ∈ (landed c r g).staging) (hr : e.region = r) :
    g ∉ e.waiting := by
  obtain ⟨he, -⟩ := List.mem_filter.mp he
  obtain ⟨e', -, rfl⟩ := List.mem_map.mp he
  by_cases hreg : e'.region = r
  · simp [hreg]
  · simp [hreg] at hr
end Granule

theorem granulesLand (s : State) (T : Task) (hT : isTask s T.id T) (k r g : Nat) (x : RegionDesc) (a : Int) (p : Nat) (u : State)
    (hstaged : ∃ e ∈ (taskCore T k).staging, e.region = r ∧ g ∈ e.waiting)
    (hsrc : granuleSource (taskNode s T) k r g = some (x, a)) (ha : 0 ≤ a) (ha' : a < 2 ^ 64)
    (hlocal : hasPerm (nth (taskNode s T).args x.arg Cap.null) .remote = false)
    (hu : translateBytes s (taskCore T k).phys (taskSpace s T) (taskSpace s T).hlimit .load a.toNat 16 =
      .ok ((List.range 16).map (p + ·), u)) (hmgmt : ∀ j, j < 16 → isMgmt (p + j) = false)
    (hwf : (getCore u (taskCore T k).phys).spad.wf = true) :
    ∃ t U, exec (.stagingGranuleLand T.id k r g) s = .next t ∧ t.mem = u.mem ∧ isTask t T.id U ∧
      (∀ e ∈ (taskCore U k).staging, e.region = r → g ∉ e.waiting) ∧
      (∀ j, j < 16 → memByte (getCore t (taskCore T k).phys).spad ((taskCore T k).base + g + j) = memByte u.mem (p + j)) ∧
      ∀ o, o < (taskCore T k).base + g ∨ (taskCore T k).base + g + 16 ≤ o →
        memByte (getCore t (taskCore T k).phys).spad o = memByte (getCore u (taskCore T k).phys).spad o := by
  obtain ⟨tag, poisoned, hland⟩ := landGranule_local hsrc ha ha' hlocal hu hmgmt
  have hwaits : ((taskCore T k).staging.any fun e => e.region == r && e.waiting.contains g) = true := by
    obtain ⟨e, he, hr, hg⟩ := hstaged
    exact List.any_eq_true.mpr ⟨e, he, by simp [hr, hg]⟩
  have hexec : exec (.stagingGranuleLand T.id k r g) s =
      .next (putGranule u T k x g (BitVec.ofInt 64 a) (memBytes u.mem p 16) tag poisoned) := by
    have hfind : findTask s T.id = some T := hT
    simp only [exec, execStagingGranuleLand, hfind, hwaits, if_true, hland]
  have hkept : isTask u T.id T := by
    rw [isTask, findTask, (checksLeave_translateBytes hu).outside]
    exact hT
  have hk : k < T.cores.length := by
    by_contra hk
    obtain ⟨e, he, -⟩ := hstaged
    rw [taskCore, nth_eq_default _ _ _ (by omega)] at he
    cases he
  have hregion : x.k = r := by
    obtain ⟨y, hy, hxy⟩ := Option.map_eq_some_iff.mp hsrc
    cases hxy
    simpa using List.find?_some hy
  have hlen : (memBytes u.mem p 16).length = 16 := by simp [memBytes]
  refine ⟨_, _, hexec, rfl, findTask_putGranule hkept _ _ _ _, fun e he hr => ?_, fun j hj => ?_, fun o ho => ?_⟩
  · rw [taskCore, putTaskCore, nth_setNth_same _ _ _ _ hk, hregion] at he
    exact notMem_waiting_of_landed he hr
  · have hbyte := memByte_memStore (getCore u (taskCore T k).phys).spad ((taskCore T k).base + g) (memBytes u.mem p 16) poisoned (j := j)
      hwf (by omega)
    rw [← memByte_putGranule] at hbyte
    rw [← Option.some_inj, hbyte, memBytes, List.getElem?_map, List.getElem?_range hj]
    rfl
  · rw [memByte_putGranule, memByte_memStore_other _ _ _ _ hwf (by omega)]

end Sys2Proof.Machine
end

section
/-!
PROOF. What a task holds is drained and published (R189, R202, R226, R305).
-/
namespace Sys2Proof.Machine
open Sys2Proof

/-! ## The hold drains (R189, R202) -/

theorem drainLine_eq (t : Task) (k line : Nat) : drainLine t k line =
    { t with cores := (drainLine t k line).cores, dieHold := (drainLine t k line).dieHold } := by
  unfold drainLine
  dsimp only
  split <;> rfl
theorem drained_eq (t : Task) : drained t = { t with cores := (drained t).cores, dieHold := (drained t).dieHold } := by
  refine foldl_keeps (fun u : Task => u = { t with cores := u.cores, dieHold := u.dieHold }) drainCore _ t rfl fun u k hu => ?_
  refine foldl_keeps (fun v : Task => v = { t with cores := v.cores, dieHold := v.dieHold }) _ _ u hu fun v line hv => ?_
  rw [drainLine_eq, hv]
theorem samePlaces_drained (t : Task) : SamePlaces t (drained t) :=
  foldl_keeps (SamePlaces t) drainCore _ t (samePlaces_refl t) fun u k hu => hu.trans (drainKeeps_drainCore u k).toSamePlaces
theorem lt_of_hold_mem {t : Task} {k : Nat} {l : HoldLine} (h : l ∈ (taskCore t k).hold) : k < t.cores.length := by
  by_contra hk
  rw [taskCore, nth_eq_default _ _ _ (by omega)] at h
  cases h
/-- A line that drains leaves its core part. -/
theorem hold_drainLine (t : Task) (k line j : Nat) : (taskCore (drainLine t k line) j).hold =
    if j = k then (taskCore t k).hold.filter fun x => !(x.line == line) else (taskCore t j).hold := by
  unfold drainLine
  dsimp only
  split
  · rename_i hnone
    by_cases hj : j = k
    · subst hj
      have hall : ∀ x ∈ (taskCore t j).hold, (!(x.line == line)) = true := fun x hx => by
        simpa using List.find?_eq_none.mp hnone x hx
      rw [if_pos rfl, List.filter_eq_self.mpr hall]
    · rw [if_neg hj]
  · rename_i l hl
    have hk := lt_of_hold_mem (List.mem_of_find?_eq_some hl)
    by_cases hj : j = k
    · subst hj
      rw [if_pos rfl, taskCore, putTaskCore, nth_setNth_same _ _ _ _ hk]
    · rw [if_neg hj, taskCore, putTaskCore, nth_setNth_other _ _ _ _ _ (Ne.symm hj), taskCore]
theorem hold_foldl_drainLine (t : Task) (k j : Nat) (ls : List Nat) : (taskCore (ls.foldl (fun t l => drainLine t k l) t) j).hold =
    if j = k then (taskCore t k).hold.filter fun x => !ls.contains x.line else (taskCore t j).hold := by
  induction ls generalizing t with
  | nil =>
    split
    · rename_i hj
      simp [hj]
    · rfl
  | cons l ls ih =>
    rw [List.foldl_cons, ih, hold_drainLine, hold_drainLine]
    by_cases hj : j = k
    · rw [if_pos hj, if_pos hj, if_pos rfl, List.filter_filter]
      exact List.filter_congr fun x _ => by rw [List.contains_cons, Bool.not_or, Bool.and_comm]
    · rw [if_neg hj, if_neg hj, if_neg hj]
theorem hold_drainCore (t : Task) (k j : Nat) : (taskCore (drainCore t k) j).hold = if j = k then [] else (taskCore t j).hold := by
  rw [drainCore, hold_foldl_drainLine]
  refine if_congr Iff.rfl (List.filter_eq_nil_iff.mpr fun x hx => ?_) rfl
  simpa using ⟨x, hx, rfl⟩
theorem hold_foldl_drainCore (t : Task) (n j : Nat) (hj : j < n) : (taskCore ((List.range n).foldl drainCore t) j).hold = [] := by
  induction n with
  | zero => cases hj
  | succ n ih =>
    rw [List.range_succ, List.foldl_append, List.foldl_cons, List.foldl_nil, hold_drainCore]
    split
    · rfl
    · exact ih (by omega)
/-- No core part holds anything once all have drained. -/
theorem hold_drained (t : Task) : ∀ c ∈ (drained t).cores, c.hold = [] := by
  intro c hc
  obtain ⟨j, hj, rfl⟩ := List.getElem_of_mem hc
  have hlen : (drained t).cores.length = t.cores.length := by simpa using congrArg List.length (samePlaces_drained t).phys
  have hcore : taskCore (drained t) j = (drained t).cores[j] := List.getD_eq_getElem _ _ hj
  rw [← hcore]
  exact hold_foldl_drainCore t _ j (by omega)
theorem homeCore_drained (t : Task) : homeCore (drained t) = homeCore t := by
  have hphys := (samePlaces_drained t).phys
  have hdie : (drained t).die = t.die := by rw [drained_eq]
  cases h : t.cores with
  | nil => simp_all [homeCore]
  | cons c cs =>
    cases h' : (drained t).cores with
    | nil => simp_all
    | cons c' cs' =>
      have hhead : c'.phys = c.phys := by simp_all
      simp [homeCore, h, h', taskCore, nth, hhead]

/-! ## Lines are published (R202) -/

/-- The byte of a held line at an offset. -/
def lineByteAt (l : HoldLine) (k : Nat) : Byte := BitVec.ofNat 8 (l.data.toNat / 2 ^ (8 * k))
/-- The bytes that a line holds, written at their location. -/
def putLineBytes (l : HoldLine) (pa n : Nat) (m : Mem) : Mem :=
  (List.range n).foldl (fun m k => if l.mask.getLsbD k then memSetByte m (pa + k) (lineByteAt l k) else m) m
theorem putLineBytes_succ (l : HoldLine) (pa n : Nat) (m : Mem) : putLineBytes l pa (n + 1) m =
    if l.mask.getLsbD n then memSetByte (putLineBytes l pa n m) (pa + n) (lineByteAt l n) else putLineBytes l pa n m := by
  rw [putLineBytes, List.range_succ, List.foldl_append]
  rfl
theorem putLineBytes_wf (l : HoldLine) (pa n : Nat) {m : Mem} (h : m.wf = true) : (putLineBytes l pa n m).wf = true := by
  refine foldl_keeps (fun m : Mem => m.wf = true) _ _ m h fun m k hm => ?_
  split
  · exact memSetByte_wf _ _ _ hm
  · exact hm
theorem memByte_putLineBytes (l : HoldLine) (pa n : Nat) {m : Mem} (h : m.wf = true) (x : Nat) : memByte (putLineBytes l pa n m) x =
    if pa ≤ x ∧ x < pa + n ∧ l.mask.getLsbD (x - pa) = true then lineByteAt l (x - pa) else memByte m x := by
  induction n with
  | zero =>
    rw [if_neg (by omega)]
    rfl
  | succ n ih =>
    rw [putLineBytes_succ]
    by_cases hx : x = pa + n
    · subst hx
      by_cases hbit : l.mask.getLsbD n = true
      · rw [if_pos hbit, memByte_memSetByte _ _ _ _ (putLineBytes_wf l pa n h), if_pos rfl, Nat.add_sub_cancel_left,
          if_pos ⟨by omega, by omega, hbit⟩]
      · rw [if_neg hbit, ih, Nat.add_sub_cancel_left, if_neg (by omega), if_neg fun e => hbit e.2.2]
    · have hstep : memByte (if l.mask.getLsbD n then memSetByte (putLineBytes l pa n m) (pa + n) (lineByteAt l n)
          else putLineBytes l pa n m) x = memByte (putLineBytes l pa n m) x := by
        split
        · rw [memByte_memSetByte _ _ _ _ (putLineBytes_wf l pa n h), if_neg hx]
        · rfl
      rw [hstep, ih]
      exact if_congr ⟨fun e => ⟨e.1, by omega, e.2.2⟩, fun e => ⟨e.1, by omega, e.2.2⟩⟩ rfl rfl
/-- The tag and poison that a line holds for a granule, written at their location. -/
def putLineBits (l : HoldLine) (pa : Nat) (m : Mem) (g : Nat) : Mem :=
  let m := match nth l.tags g none with
    | some b => memSetTag m (pa + 16 * g) b
    | none => m
  match nth l.poison g none with
  | some b => memSetPoison m (pa + 16 * g) b
  | none => m
theorem putLineBits_keeps (l : HoldLine) (pa : Nat) (m : Mem) (g : Nat) :
    (m.wf = true → (putLineBits l pa m g).wf = true) ∧ ∀ x, memByte (putLineBits l pa m g) x = memByte m x := by
  unfold putLineBits
  cases nth l.tags g none <;> cases nth l.poison g none <;> refine ⟨fun h => ?_, fun _ => rfl⟩
  · exact h
  · exact memSetPoison_wf _ _ _ h
  · exact memSetTag_wf _ _ _ h
  · exact memSetPoison_wf _ _ _ (memSetTag_wf _ _ _ h)
/-- Memory once a line has been written. -/
def putLine (l : HoldLine) (pa : Nat) (m : Mem) : Mem := (List.range 4).foldl (putLineBits l pa) (putLineBytes l pa 64 m)
theorem putLine_keeps (l : HoldLine) (pa : Nat) (m : Mem) :
    (m.wf = true → (putLine l pa m).wf = true) ∧ ∀ x, memByte (putLine l pa m) x = memByte (putLineBytes l pa 64 m) x :=
  foldl_keeps (fun u : Mem => (m.wf = true → u.wf = true) ∧ ∀ x, memByte u x = memByte (putLineBytes l pa 64 m) x) _ _ _
    ⟨putLineBytes_wf l pa 64, fun _ => rfl⟩ fun u g hu =>
      ⟨fun h => (putLineBits_keeps l pa u g).1 (hu.1 h), fun x => ((putLineBits_keeps l pa u g).2 x).trans (hu.2 x)⟩
theorem publishWrite_eq (s : State) (l : HoldLine) {pa : Nat} (h : isMgmt pa = false) : ∃ sum,
    publishWrite s l pa = { s with mem := putLine l pa s.mem, tagSummary := sum } := by
  simp only [publishWrite, h, Bool.false_eq_true, if_false]
  split
  · exact ⟨_, rfl⟩
  · exact ⟨_, rfl⟩
theorem imageWritten_publishWrite (s : State) (l : HoldLine) (pa : Nat) : ImageWritten s (publishWrite s l pa) := by
  cases h : isMgmt pa with
  | true =>
    rw [publishWrite, if_pos h]
    exact imageWritten_refl s
  | false =>
    obtain ⟨sum, heq⟩ := publishWrite_eq s l h
    rw [heq]
    exact ⟨rfl, (putLine_keeps l pa s.mem).1⟩
theorem memByte_publishWrite {s : State} (hwf : s.mem.wf = true) (l : HoldLine) {pa : Nat} (h : isMgmt pa = false) (x : Nat) :
    memByte (publishWrite s l pa).mem x =
      if pa ≤ x ∧ x < pa + 64 ∧ l.mask.getLsbD (x - pa) = true then lineByteAt l (x - pa) else memByte s.mem x := by
  obtain ⟨sum, heq⟩ := publishWrite_eq s l h
  rw [heq]
  exact ((putLine_keeps l pa s.mem).2 x).trans (memByte_putLineBytes l pa 64 hwf x)
/-- The lines of a plan, written. -/
def publishLines (s : State) (ps : List (HoldLine × Nat)) : State := ps.foldl (fun s p => publishWrite s p.1 p.2) s
theorem imageWritten_publishLines (s : State) (ps : List (HoldLine × Nat)) : ImageWritten s (publishLines s ps) :=
  imageWritten_foldl s ps fun u p => imageWritten_publishWrite u p.1 p.2
/-- Bytes that no line of a plan covers stay. -/
theorem memByte_publishLines_other (ps : List (HoldLine × Nat)) {s : State} (hwf : s.mem.wf = true) (hmgmt : ∀ p ∈ ps, isMgmt p.2 = false)
    {x : Nat} (hx : ∀ p ∈ ps, x < p.2 ∨ p.2 + 64 ≤ x) : memByte (publishLines s ps).mem x = memByte s.mem x := by
  induction ps generalizing s with
  | nil => rfl
  | cons p ps ih =>
    rw [List.forall_mem_cons] at hmgmt hx
    rw [publishLines, List.foldl_cons, ← publishLines, ih ((imageWritten_publishWrite s p.1 p.2).wf hwf) hmgmt.2 hx.2,
      memByte_publishWrite hwf p.1 hmgmt.1, if_neg (by omega)]
/-- Each line of a plan stands at its location, if no two share a byte. -/
theorem memByte_publishLines (ps : List (HoldLine × Nat)) {s : State} (hwf : s.mem.wf = true) (hmgmt : ∀ p ∈ ps, isMgmt p.2 = false)
    (hapart : (ps.map (·.2)).Pairwise fun a b => a + 64 ≤ b ∨ b + 64 ≤ a) {p : HoldLine × Nat} (hp : p ∈ ps) {k : Nat} (hk : k < 64) :
    memByte (publishLines s ps).mem (p.2 + k) =
      if p.1.mask.getLsbD k = true then lineByteAt p.1 k else memByte s.mem (p.2 + k) := by
  induction ps generalizing s with
  | nil => cases hp
  | cons q ps ih =>
    rw [List.forall_mem_cons] at hmgmt
    rw [List.map_cons, List.pairwise_cons] at hapart
    have happart : ∀ r ∈ ps, q.2 + 64 ≤ r.2 ∨ r.2 + 64 ≤ q.2 := fun r hr => hapart.1 r.2 (List.mem_map_of_mem hr)
    have hwf' := (imageWritten_publishWrite s q.1 q.2).wf hwf
    rw [publishLines, List.foldl_cons, ← publishLines]
    rcases List.mem_cons.mp hp with rfl | hp
    · rw [memByte_publishLines_other ps hwf' hmgmt.2 fun r hr => by have := happart r hr; omega, memByte_publishWrite hwf p.1 hmgmt.1,
        Nat.add_sub_cancel_left]
      exact if_congr ⟨fun e => e.2.2, fun e => ⟨by omega, by omega, e⟩⟩ rfl rfl
    · have := happart p hp
      rw [ih hwf' hmgmt.2 hapart.2 hp, memByte_publishWrite hwf q.1 hmgmt.1, if_neg (c := q.2 ≤ p.2 + k ∧ _) (by omega)]

/-! ## Retirement begins (R305) -/

theorem ChecksLeave.findTask {s t : State} (h : ChecksLeave s t) (id : Word) : findTask t id = findTask s id := by
  rw [h.outside]
  rfl
theorem ImageWritten.findTask {s t : State} (h : ImageWritten s t) (id : Word) : findTask t id = findTask s id := by
  rw [h.outside]
  rfl
theorem checksLeave_publishPlan {s u : State} {core : Nat} {sp : ASpace} {ls : List HoldLine} {ps : List (HoldLine × Nat)}
    (h : publishPlan s core sp ls = .ok (ps, u)) : ChecksLeave s u := by
  induction ls generalizing s ps with
  | nil =>
    cases h
    exact checksLeave_refl _
  | cons l ls ih =>
    unfold publishPlan at h
    split at h
    · cases h
    · rename_i hline
      split at h
      · cases h
      · rename_i hrest
        cases h
        exact (checksLeave_translate1 hline).trans (ih hrest)
theorem publishHold_eq {s u : State} {T : Task} {ps : List (HoldLine × Nat)}
    (h : publishPlan s (homeCore T) (taskSpace s T) (drained T).dieHold = .ok (ps, u)) :
    publishHold s T = .ok (publishLines u ps, { drained T with dieHold := [] }) := by
  have hspace : taskSpace s (drained T) = taskSpace s T := by
    rw [drained_eq]
    rfl
  simp only [publishHold, homeCore_drained, hspace, h]
  rfl
theorem retireDue_iff (s : State) (T : Task) : retireDue s T = true ↔
    T.phase = .running ∧ allExited s T = true ∧ (∀ c ∈ T.cores, c.staging = []) ∧ ∀ f ∈ s.flights, f.task ≠ T.id := by
  simp [retireDue, stagingDone, and_assoc]
theorem retirementPublishes (s u : State) (T : Task) (hT : isTask s T.id T) (ps : List (HoldLine × Nat)) (hrun : T.phase = .running)
    (hexited : allExited s T = true) (hlanded : ∀ c ∈ T.cores, c.staging = []) (hflights : ∀ f ∈ s.flights, f.task ≠ T.id)
    (hplan : publishPlan s (homeCore T) (taskSpace s T) (drained T).dieHold = .ok (ps, u)) (hwf : u.mem.wf = true)
    (hmgmt : ∀ p ∈ ps, isMgmt p.2 = false) (hapart : (ps.map (·.2)).Pairwise fun a b => a + 64 ≤ b ∨ b + 64 ≤ a) :
    ∃ t U, exec (.taskRetire T.id) s = .next t ∧ isTask t T.id U ∧ U.phase = .storing ∧ U.dieHold = [] ∧ (∀ c ∈ U.cores, c.hold = []) ∧
      (∀ p ∈ ps, ∀ k, k < 64 → memByte t.mem (p.2 + k) =
        if p.1.mask.getLsbD k = true then BitVec.ofNat 8 (p.1.data.toNat / 2 ^ (8 * k)) else memByte u.mem (p.2 + k)) ∧
      ∀ a, (∀ p ∈ ps, a < p.2 ∨ p.2 + 64 ≤ a) → memByte t.mem a = memByte u.mem a := by
  have hdue : retireDue s T = true := (retireDue_iff s T).mpr ⟨hrun, hexited, hlanded, hflights⟩
  have hexec : exec (.taskRetire T.id) s = .next (putTask (publishLines u ps) { drained T with dieHold := [], phase := .storing }) := by
    have hfind : findTask s T.id = some T := hT
    simp only [exec, execTaskRetire, hfind, hdue, if_true, publishHold_eq hplan]
  have hkept : findTask (publishLines u ps) T.id = some T := by
    rw [(imageWritten_publishLines u ps).findTask, (checksLeave_publishPlan hplan).findTask]
    exact hT
  have hid : (drained T).id = T.id := (samePlaces_drained T).id
  exact ⟨_, _, hexec, findTask_putTask_of_id hkept hid, rfl, rfl, hold_drained T,
    fun p hp k hk => memByte_publishLines ps hwf hmgmt hapart hp hk, fun a ha => memByte_publishLines_other ps hwf hmgmt ha⟩

end Sys2Proof.Machine
end

section
/-!
PROOF. The storers write, everything is released, and the held records are delivered (R278, R288, R305, R400).
-/
namespace Sys2Proof.Machine
open Sys2Proof

/-! ## Storers leave the objects (R278, R305, R400) -/

theorem objs_physStore (s : State) (pa : Nat) (bs : List Byte) (p : Bool) : (physStore s pa bs p).objs = s.objs := by
  unfold physStore
  split <;> rfl
theorem objs_physStoreCap (s : State) (pa : Nat) (c : Cap) (p : Bool) : (physStoreCap s pa c p).objs = s.objs := by
  rw [(imageWritten_physStoreCap s pa c p).outside]
theorem objs_foldl {α : Type} (s : State) (l : List α) {f : State → α → State} (h : ∀ u x, (f u x).objs = u.objs) :
    (l.foldl f s).objs = s.objs :=
  foldl_keeps (fun u => u.objs = s.objs) f l s rfl fun u x hu => (h u x).trans hu
theorem objs_clearCovered (spad : Mem) (pas : List Nat) (from_ va n : Nat) (s : State) :
    (clearCovered spad pas from_ va n s).objs = s.objs := by
  unfold clearCovered
  split
  · rfl
  · refine objs_foldl s _ fun u k => ?_
    dsimp only
    split <;> rfl
theorem objs_noteEpoch (s : State) (target : Nat) : (noteEpoch s target).objs = s.objs := by
  unfold noteEpoch
  dsimp only
  split <;> rfl
theorem objs_noteNoPath (s : State) (target : Nat) : (noteNoPath s target).objs = s.objs := by
  unfold noteNoPath
  dsimp only
  split <;> rfl
theorem objs_sendRemote (s : State) (core flight : Nat) (seats : SeatMask) (target : Nat) (r : RemoteReq) :
    (sendRemote s core flight seats target r).objs = s.objs := by
  rw [sendRemote, sendAfter]
  dsimp only
  rw [objs_noteNoPath]
  dsimp only
  rw [goOut_fst_eq]
  exact objs_noteEpoch s target
theorem objs_askStage (s : State) (t : Task) (x : StageReq) : (askStage s t x).objs = s.objs := by
  rw [askStage]
  dsimp only
  rw [objs_sendRemote]
theorem objs_noteExport (s : State) (a b c d : Nat) : (noteExport s a b c d).objs = s.objs := rfl
theorem objs_noteRemote (s : State) (c : Cap) (target : Nat) : (noteRemote s c target).objs = s.objs := by
  unfold noteRemote
  extract_lets base origin
  split
  · split
    · exact objs_noteExport ..
    · rfl
  · rfl
theorem objs_travel (s : State) (space : Nat) (c : Cap) (target : Nat) : (travel s space c target).2.objs = s.objs := by
  unfold travel
  split
  · rfl
  · split
    · exact objs_noteRemote s c target
    · split
      · rfl
      · split
        · exact objs_noteExport ..
        · rfl
theorem objs_storePart (s : State) (t : Task) (coreT : Nat) (x : RegionDesc) (arg : Cap) (from_ : Nat) (row : Word) (p : Nat × Nat) :
    (storePart s t coreT x arg from_ row p).objs = s.objs := by
  rw [storePart]
  dsimp only
  rw [objs_askStage]
  exact objs_travel ..
theorem objs_storeRow {s u : State} {t : Task} {coreT : Nat} {x : RegionDesc} {r : Nat} (h : storeRow s t coreT x r = .ok u) :
    u.objs = s.objs := by
  unfold storeRow at h
  dsimp only at h
  split at h
  · cases h
    exact objs_foldl s _ fun u p => objs_storePart ..
  · split at h
    · cases h
    · rename_i v hv
      cases h
      have hread : v.objs = s.objs := by rw [(checksLeave_translateBytes hv).outside]
      refine (objs_clearCovered ..).trans ((objs_foldl v _ fun u k => ?_).trans hread)
      split
      · split
        · exact objs_physStoreCap ..
        · exact objs_physStore ..
      · exact objs_foldl u _ fun w j => objs_physStore ..
theorem objs_storeRegions {s u : State} {t : Task} (h : storeRegions s t = .ok u) : u.objs = s.objs := by
  refine foldl_keeps (fun acc : Except (Word × TransErr) State => ∀ u, acc = .ok u → u.objs = s.objs) _ _ _ ?_ (fun acc e hacc v hv => ?_) u h
  · intro u hu
    cases hu
    rfl
  · cases acc with
    | error x => cases hv
    | ok w => exact (objs_storeRow hv).trans (hacc w rfl)

/-! ## Everything is released (R305, R307) -/

/-- Cores, what is in flight, and what is asked of other packages have changed. -/
def OnlyUnplaced (s t : State) : Prop :=
  t = { s with cores := t.cores, flights := t.flights, draws := t.draws, remote := t.remote, stageReqs := t.stageReqs }
/-- The open run of a core ends if it is for a bench of a task. -/
def endTaskRun (id : Word) (s : State) (c : TaskCore) : State := if runOf s c.phys id then closeRun s c.phys else s
/-- The slots of a task's benches on a core. -/
def slotsOf (id : Word) (x : Core) : List Nat := (x.benches.filter fun e => e.1 != 64 && e.2.task == id).map (·.1)
/-- A core without the benches of a task, and without what waits for them. -/
def withoutTask (id : Word) (x : Core) : Core :=
  { x with
    benches := x.benches.filter fun e => !(slotsOf id x).contains e.1
    faultQ := x.faultQ.filter fun f => !(slotsOf id x).contains f.slot
    saveQ := x.saveQ.filter fun k => !(slotsOf id x).contains k
    restoreQ := x.restoreQ.filter fun k => !(slotsOf id x).contains k
    accTask := if x.accTask == some id then none else x.accTask
    tiles := if x.accTask == some id then [] else x.tiles }
def vacate (id : Word) (s : State) (c : TaskCore) : State := putCore s c.phys (withoutTask id (getCore s c.phys))
/-- The package once a task stands on none of its cores. -/
def vacated (s : State) (t : Task) : State := t.cores.foldl (vacate t.id) (t.cores.foldl (endTaskRun t.id) s)
theorem unplace_eq (s : State) (t : Task) : unplace s t =
    { vacated s t with
      flights := (vacated s t).flights.filter fun f => !(f.task == t.id)
      remote := (vacated s t).remote.filter fun o =>
        o.lib.isSome || !((vacated s t).stageReqs.any fun x => x.task == t.id && x.id == o.flight)
      stageReqs := (vacated s t).stageReqs.filter fun x => !(x.task == t.id) } := rfl
theorem onlyCores_vacated (s : State) (t : Task) : OnlyCores s (vacated s t) := by
  refine OnlyCores.trans (onlyCores_foldl s _ fun u c => ?_) (onlyCores_foldl _ _ fun _ _ => rfl)
  unfold endTaskRun
  split
  · exact rfl
  · exact onlyCores_refl u
theorem onlyUnplaced_unplace (s : State) (t : Task) : OnlyUnplaced s (unplace s t) := by
  have h := onlyCores_vacated s t
  rw [unplace_eq]
  generalize vacated s t = v at h
  rw [h]
  rfl
theorem flights_unplace (s : State) (t : Task) : ∀ f ∈ (unplace s t).flights, f.task ≠ t.id := by
  intro f hf
  simpa using (List.mem_filter.mp hf).2
theorem findTask_dropTask (s : State) (id : Word) : findTask (dropTask s id) id = none := by
  simp [findTask, dropTask]
/-- The package once everything that a task holds is released. -/
def released (s : State) (t : Task) : State := dropTask (unplace s t) t.id
/-- The task is gone, and nothing of it is in flight; memory and objects are as before. -/
structure Released (s t : State) (id : Word) : Prop where
  task : findTask t id = none
  mem : t.mem = s.mem
  objs : t.objs = s.objs
  flights : ∀ f ∈ t.flights, f.task ≠ id
theorem released_released (s : State) (t : Task) : Released s (released s t) t.id := by
  refine ⟨findTask_dropTask _ _, ?_, ?_, flights_unplace s t⟩
  · change (unplace s t).mem = s.mem
    rw [onlyUnplaced_unplace]
  · change (unplace s t).objs = s.objs
    rw [onlyUnplaced_unplace]

/-! ## Records are delivered, and the completion is told (R288, R305) -/

/-- Graphs, nodes and bins stand in the objects. -/
theorem graphOf_congr {s t : State} (h : t.objs = s.objs) (g : Nat) : graphOf t g = graphOf s g := by
  rw [graphOf, findObj, h]
  rfl
theorem binOf_congr {s t : State} (h : t.objs = s.objs) (g n : Nat) : binOf t g n = binOf s g n := by
  rw [binOf, graphOf_congr h, binOf]
theorem binNode_congr {s t : State} (h : t.objs = s.objs) (g n : Nat) : binNode t g n = binNode s g n := by
  rw [binNode, nodeObjOf, findObj, h, graphOf_congr h]
  rfl
/-- A graph without a capability for its completions hears of none. -/
theorem sendDone_untagged {s : State} {t : Task} (h : (graphOf s t.graph).doneep.tag = false) : sendDone s t = s := by
  have hep : epOfCap s (graphOf s t.graph).doneep = none := by simp [epOfCap, h]
  simp only [sendDone, hep]
theorem deliverHeld_nil {s : State} {t : Task} (h : t.heldRecs = []) : deliverHeld s t = s := by
  simp [deliverHeld, heldBins, h]
/-- A bin that takes one record in a place that was reserved for it. -/
def binWith (b : Bin) (d : BinRec) (timer : Option Word) : Bin := ⟨b.reserved - 1, b.delivered ++ [d], timer⟩
/-- When the timer of a bin expires once a record has come (R290). -/
def timerWith (s : State) (g n : Nat) : Option Word :=
  if (binOf s g n).delivered.isEmpty then startTimer s g n else (binOf s g n).timer
/-- A record that does not fill its bin waits there. -/
theorem deliverRecs_few {s : State} {g n : Nat} {d : BinRec} (hfew : (binOf s g n).delivered.length + 1 < (binNode s g n).count) :
    deliverRecs s g n [d] 1 = putBin s g n (binWith (binOf s g n) d (timerWith s g n)) := by
  have hfull : ¬(binNode s g n).count ≤ (binOf s g n).delivered.length + [d].length := by
    rw [List.length_singleton]
    omega
  simp only [deliverRecs, hfull, if_false]
  rfl
theorem deliverHeld_single {s : State} {t : Task} {g n : Nat} {d : BinRec} {pass seat : Nat}
    (h : t.heldRecs = [⟨g, n, d, pass, seat⟩]) : deliverHeld s t = deliverRecs s g n [d] 1 := by
  have hbins : heldBins t = [(g, n)] := by
    rw [heldBins, h]
    rfl
  simp [deliverHeld, hbins, h]
/-- A write into a bin changes no graph's capability for its completions. -/
theorem doneep_putBin (s : State) (g n : Nat) (b : Bin) (g' : Nat) (h : HasGraph s g) :
    (graphOf (putBin s g n b) g').doneep = (graphOf s g').doneep := by
  by_cases hg : g = g'
  · subst hg
    rw [graphOf_putBin_same h]
  · rw [graphOf_putBin_other s n b hg]

/-! ## Retirement ends (R305) -/

/-- The storers' writes are all performed here: the task is released, and its records are delivered. -/
theorem exec_taskRetireRelease {s u : State} {T : Task} (hT : isTask s T.id T) (hphase : T.phase = .storing) (hpage : .page ∉ T.conds)
    (hout : storersOut s T.id = false) (hu : storeRegions s T = .ok u) :
    exec (.taskRetireRelease T.id) s = .next (if storersOut u T.id = true then u else sendDone (deliverHeld (released u T) T) T) := by
  have hfind : findTask s T.id = some T := hT
  have hgo : ¬(T.phase ≠ .storing ∨ T.conds.contains .page = true) := by simp [hphase, hpage]
  simp only [exec, execTaskRetireRelease, hfind, hgo, if_false, storeOut, hout, Bool.false_eq_true, hu]
  rfl
theorem retirementReleases {s u : State} {T : Task} (hT : isTask s T.id T) (hphase : T.phase = .storing) (hpage : .page ∉ T.conds)
    (hout : storersOut s T.id = false) (hu : storeRegions s T = .ok u) (hdone : storersOut u T.id = false)
    (htag : (graphOf s T.graph).doneep.tag = false) (hrecs : T.heldRecs = []) :
    ∃ t, exec (.taskRetireRelease T.id) s = .next t ∧ findTask t T.id = none ∧ t.mem = u.mem ∧ t.objs = u.objs ∧
      ∀ f ∈ t.flights, f.task ≠ T.id := by
  have hfree := released_released u T
  have hgraph : (graphOf (released u T) T.graph).doneep.tag = false := by
    rwa [graphOf_congr (hfree.objs.trans (objs_storeRegions hu))]
  have hexec := exec_taskRetireRelease hT hphase hpage hout hu
  rw [hdone, if_neg Bool.false_ne_true, deliverHeld_nil hrecs, sendDone_untagged hgraph] at hexec
  exact ⟨_, hexec, hfree.task, hfree.mem, hfree.objs, hfree.flights⟩
theorem retirementDelivers {s u : State} {T : Task} (hT : isTask s T.id T) (hphase : T.phase = .storing) (hpage : .page ∉ T.conds)
    (hout : storersOut s T.id = false) (hu : storeRegions s T = .ok u) (hdone : storersOut u T.id = false)
    (htag : (graphOf s T.graph).doneep.tag = false) {g n : Nat} {d : BinRec} {o : Obj} {pass seat : Nat}
    (hrecs : T.heldRecs = [⟨g, n, d, pass, seat⟩]) (ho : findObj u 967 g = some o)
    (hfew : (binOf u g n).delivered.length + 1 < (binNode u g n).count) :
    ∃ t, exec (.taskRetireRelease T.id) s = .next t ∧ findTask t T.id = none ∧ t.mem = u.mem ∧
      (binOf t g n).delivered = (binOf u g n).delivered ++ [d] ∧ (binOf t g n).reserved = (binOf u g n).reserved - 1 := by
  have hfree := released_released u T
  have hexec := exec_taskRetireRelease hT hphase hpage hout hu
  generalize released u T = v at hfree hexec
  have hhas : HasGraph v g := ⟨o, by rwa [findObj, hfree.objs]⟩
  rw [← binOf_congr hfree.objs, ← binNode_congr hfree.objs] at hfew
  have hgraph : (graphOf (putBin v g n (binWith (binOf v g n) d (timerWith v g n))) T.graph).doneep.tag = false := by
    rw [doneep_putBin _ _ _ _ _ hhas, graphOf_congr (hfree.objs.trans (objs_storeRegions hu))]
    exact htag
  rw [hdone, if_neg Bool.false_ne_true, deliverHeld_single hrecs, deliverRecs_few hfew, sendDone_untagged hgraph] at hexec
  refine ⟨_, hexec, ?_, ?_, ?_⟩
  · rw [putBin_eq]
    exact hfree.task
  · rw [putBin_eq]
    exact hfree.mem
  · rw [binOf_putBin_same hhas, binOf_congr hfree.objs]
    exact ⟨rfl, rfl⟩

/-- R202, R204, R278, R288, R305, R400: retirement as it goes on, from the publication to the delivery. -/
theorem tasksRetireInOrder : Claims.TasksRetireInOrder := by
  intro s u T hT
  refine ⟨retirementPublishes s u T hT, fun hphase hpage hout hu hmore => ?_, fun hphase hpage hout hu hdone htag =>
    ⟨retirementReleases hT hphase hpage hout hu hdone htag, fun g n d o G pass seat hrecs ho _ hfew =>
      retirementDelivers hT hphase hpage hout hu hdone htag hrecs ho hfew⟩⟩
  rw [exec_taskRetireRelease hT hphase hpage hout hu, hmore, if_pos rfl]

end Sys2Proof.Machine
end

section
/-!
PROOF. Messages, replies and rights that reach a task leave where it stands on its road (R323, R325, R327, R384).
-/
namespace Sys2Proof.Machine
open Sys2Proof

/-! ## What a delivery leaves of every task -/

/-- A task as another one is, but for what its saved seats wait for and hold, and for whether it is parked as blocked. -/
structure KeepsTask (T U : Task) : Prop where
  outside : U = { T with
    conds := U.conds, savedWaits := U.savedWaits, savedRights := U.savedRights, savedForms := U.savedForms }
  page : .page ∈ U.conds ↔ .page ∈ T.conds
theorem keepsTask_refl (T : Task) : KeepsTask T T := ⟨rfl, Iff.rfl⟩
theorem KeepsTask.trans {T U V : Task} (h : KeepsTask T U) (h' : KeepsTask U V) : KeepsTask T V :=
  ⟨by rw [h'.outside, h.outside], h'.page.trans h.page⟩
theorem KeepsTask.id {T U : Task} (h : KeepsTask T U) : U.id = T.id := by rw [h.outside]

/-- Every task is kept, and nothing is in flight for a task that had nothing in flight. -/
structure KeepsTasks (s t : State) : Prop where
  task : ∀ id T, findTask s id = some T → ∃ U, findTask t id = some U ∧ KeepsTask T U
  flights : ∀ id, (∀ f ∈ s.flights, f.task ≠ id) → ∀ f ∈ t.flights, f.task ≠ id
theorem keepsTasks_of_eq {s t : State} (htasks : t.tasks = s.tasks) (hflights : t.flights = s.flights) : KeepsTasks s t := by
  refine ⟨fun id T hT => ⟨T, ?_, keepsTask_refl T⟩, fun id h => by rwa [hflights]⟩
  rwa [findTask, htasks]
theorem keepsTasks_refl (s : State) : KeepsTasks s s := keepsTasks_of_eq rfl rfl
theorem KeepsTasks.trans {s t u : State} (h : KeepsTasks s t) (h' : KeepsTasks t u) : KeepsTasks s u := by
  refine ⟨fun id T hT => ?_, fun id hs => h'.flights id (h.flights id hs)⟩
  obtain ⟨U, hU, hTU⟩ := h.task id T hT
  obtain ⟨V, hV, hUV⟩ := h'.task id U hU
  exact ⟨V, hV, hTU.trans hUV⟩
theorem keepsTasks_foldl {α : Type} (s : State) (l : List α) {f : State → α → State} (h : ∀ u x, KeepsTasks u (f u x)) :
    KeepsTasks s (l.foldl f s) :=
  foldl_keeps (KeepsTasks s) f l s (keepsTasks_refl s) fun u x hu => hu.trans (h u x)
theorem keepsTasks_putTask {s : State} {id : Word} {t u : Task} (ht : findTask s id = some t) (hu : KeepsTask t u) :
    KeepsTasks s (putTask s u) := by
  refine ⟨fun id' T hT => ?_, fun id' h => h⟩
  have hid := hu.id.trans (id_of_findTask ht)
  by_cases he : id = id'
  · subst he
    obtain rfl := Option.some.inj (ht.symm.trans hT)
    exact ⟨u, findTask_putTask_of_id ht hid, hu⟩
  · refine ⟨T, ?_, keepsTask_refl T⟩
    rwa [findTask_putTask_other s (by rw [hid]; exact he)]
theorem ImageWritten.keepsTasks {s t : State} (h : ImageWritten s t) : KeepsTasks s t := by
  rw [h.outside]
  exact keepsTasks_of_eq rfl rfl
theorem keepsTasks_freeRows (s : State) (k slot : Nat) : KeepsTasks s (freeRows s k slot) := by
  unfold freeRows
  dsimp only
  split
  · exact keepsTasks_refl s
  · refine ⟨fun id T hT => ⟨T, hT, keepsTask_refl T⟩, fun id h f hf => ?_⟩
    obtain ⟨f', hf', rfl⟩ := List.mem_map.mp hf
    split
    · exact h f' hf'
    · exact h f' hf'
theorem keepsTasks_putBench (s : State) (k slot : Nat) (b : Bench) : KeepsTasks s (putBench s k slot b) := keepsTasks_of_eq rfl rfl
theorem keepsTasks_onSeat (s : State) (k slot seat : Nat) (f : Seat → Seat) : KeepsTasks s (onSeat s k slot seat f) :=
  keepsTasks_of_eq rfl rfl
theorem keepsTasks_setObjData (s : State) (type num : Nat) (d : ObjData) : KeepsTasks s (setObjData s type num d) := by
  rw [setObjData_eq]
  exact keepsTasks_of_eq rfl rfl

/-! ## Deliveries (R323, R325, R327) -/

theorem keepsTasks_deliverLive (s : State) (space k slot seat : Nat) (w : Wait) (d : Delivery) :
    KeepsTasks s (deliverLive s space k slot seat w d) := by
  unfold deliverLive
  exact (keepsTasks_putBench s k slot _).trans (keepsTasks_freeRows _ k slot)
/-- A delivery to a saved seat writes its image, and its task waits there no more. -/
theorem deliverSaved_eq (s : State) (t : Task) (th : Thread) (w : Wait) (d : Delivery) : ∃ v forms, ImageWritten s v ∧
    deliverSaved s t th w d = putTask v { t with
      savedWaits := dropKey t.savedWaits th, savedForms := forms, conds := t.conds.filter fun c => !(c == ParkCond.blocked) } := by
  refine ⟨_, _, ImageWritten.trans ?_ (imageWritten_imgUnblock ..), rfl⟩
  have hclear : ∀ (pc : Word) (img rows caprows : Nat) (acc : Bool), ImageWritten s
      ((dueAt s 0 t pc).foldl (fun s r => imgClearLive s img rows caprows acc th.seat r) s) := fun pc img rows caprows acc =>
    imageWritten_foldl s _ fun u r => imageWritten_imgClearLive u img rows caprows acc th.seat r
  split
  · split <;> split
    · exact (hclear ..).trans (imageWritten_foldl _ _ fun u i => imageWritten_imgWriteD ..)
    · exact ((hclear ..).trans (imageWritten_foldl _ _ fun u i => imageWritten_imgWriteD ..)).trans (imageWritten_imgWriteC ..)
    · exact hclear ..
    · exact (hclear ..).trans (imageWritten_imgWriteC ..)
  · exact hclear ..
theorem keepsTasks_deliverSaved {s : State} {id : Word} {t : Task} (ht : findTask s id = some t) (th : Thread) (w : Wait) (d : Delivery) :
    KeepsTasks s (deliverSaved s t th w d) := by
  obtain ⟨v, forms, hv, heq⟩ := deliverSaved_eq s t th w d
  rw [heq]
  exact hv.keepsTasks.trans (keepsTasks_putTask ((hv.findTask id).trans ht) ⟨rfl, by simp⟩)
theorem keepsTasks_deliver (s : State) (p : Party) (d : Delivery) : KeepsTasks s (deliver s p d) := by
  cases p with
  | hart h =>
    simp only [deliver]
    split
    · exact keepsTasks_refl s
    · exact keepsTasks_of_eq rfl rfl
  | dean r task pager =>
    simp only [deliver]
    split
    · exact keepsTasks_of_eq rfl rfl
    · exact keepsTasks_refl s
  | seat task ct bt k =>
    simp only [deliver]
    split
    · exact keepsTasks_refl s
    · rename_i t ht
      split
      · exact keepsTasks_refl s
      · split
        · refine KeepsTasks.trans ?_ (keepsTasks_deliverLive ..)
          split
          · exact keepsTasks_deliverSaved ht ..
          · exact keepsTasks_refl s
        · exact keepsTasks_deliverSaved ht ..
theorem keepsTasks_dropRight (s : State) (r : Option ReplyRight) : KeepsTasks s (dropRight s r) := by
  unfold dropRight
  split
  · split
    · exact keepsTasks_deliver s _ _
    · exact keepsTasks_refl s
  · exact keepsTasks_refl s
theorem keepsTasks_setWait {s : State} {id : Word} {t : Task} (ht : findTask s id = some t) (th : Thread) (w : Wait) :
    KeepsTasks s (setWait s t th w) := by
  have hput : KeepsTasks s (putTask s (savedWait t th w)) := keepsTasks_putTask ht ⟨rfl, Iff.rfl⟩
  unfold setWait
  split
  · refine KeepsTasks.trans ?_ (keepsTasks_onSeat ..)
    split
    · exact hput
    · exact keepsTasks_refl s
  · exact hput
theorem keepsTasks_markTaken (s : State) (p : Party) : KeepsTasks s (markTaken s p) := by
  cases p with
  | hart h =>
    simp only [markTaken]
    split
    · exact keepsTasks_of_eq rfl rfl
    · exact keepsTasks_refl s
  | dean r task pager => exact keepsTasks_refl s
  | seat task ct bt k =>
    simp only [markTaken]
    split
    · exact keepsTasks_refl s
    · rename_i t ht
      split
      · exact keepsTasks_setWait ht ..
      · exact keepsTasks_refl s
theorem keepsTasks_setRight (s : State) (p : Party) (r : Option ReplyRight) : KeepsTasks s (setRight s p r) := by
  cases p with
  | hart h => exact keepsTasks_of_eq rfl rfl
  | dean r task pager => exact keepsTasks_refl s
  | seat task ct bt k =>
    simp only [setRight]
    split
    · exact keepsTasks_refl s
    · rename_i t ht
      have hput : KeepsTasks s (putTask s (savedRight t ⟨ct, bt, k⟩ r)) := keepsTasks_putTask ht ⟨rfl, Iff.rfl⟩
      split
      · refine KeepsTasks.trans ?_ (keepsTasks_onSeat ..)
        split
        · exact hput
        · exact keepsTasks_refl s
      · exact hput
theorem keepsTasks_giveRight (s : State) (p : Party) (r : ReplyRight) : KeepsTasks s (giveRight s p r) :=
  ((keepsTasks_setRight s p none).trans (keepsTasks_dropRight _ (rightOf s p))).trans (keepsTasks_setRight _ p (some r))

/-! ## Messages (R323, R349, R384) -/

theorem keepsTasks_registrarTake (s : State) (x : EpSender) : KeepsTasks s (registrarTake s x) := by
  unfold registrarTake
  split
  · refine (keepsTasks_markTaken s x.who).trans ?_
    dsimp only
    split
    · exact keepsTasks_of_eq rfl rfl
    · exact keepsTasks_deliver ..
  · exact keepsTasks_deliver ..
theorem keepsTasks_epMatch (s : State) (ep : Nat) : KeepsTasks s (epMatch s ep) := by
  unfold epMatch
  split
  · rename_i x xs rs _
    split
    · exact (keepsTasks_setObjData ..).trans (keepsTasks_registrarTake ..)
    · split
      · exact keepsTasks_refl s
      · dsimp only
        split
        · exact (((keepsTasks_setObjData ..).trans (keepsTasks_deliver ..)).trans (keepsTasks_markTaken ..)).trans (keepsTasks_giveRight ..)
        · exact ((keepsTasks_setObjData ..).trans (keepsTasks_deliver ..)).trans (keepsTasks_deliver ..)
  · exact keepsTasks_refl s
theorem keepsTasks_epSend (s : State) (ep : Nat) (x : EpSender) : KeepsTasks s (epSend s ep x) :=
  (keepsTasks_setObjData ..).trans (keepsTasks_epMatch ..)
theorem keepsTasks_physStore (s : State) (pa : Nat) (bs : List Byte) (p : Bool) : KeepsTasks s (physStore s pa bs p) := by
  unfold physStore
  split
  · exact keepsTasks_refl s
  · exact keepsTasks_of_eq rfl rfl
theorem keepsTasks_sendRecord (s : State) (t : Task) (r : FaultRec) (c : Cap) (reason : Nat) (call pager : Bool) (w2 : Word) :
    KeepsTasks s (sendRecord s t r c reason call pager w2) := by
  refine (keepsTasks_physStore s (recordPlace s t r) (recordBytes t r) false).trans ?_
  unfold sendRecord
  dsimp only
  split
  · exact keepsTasks_epSend ..
  · split
    · exact keepsTasks_of_eq rfl rfl
    · exact keepsTasks_refl _
theorem keepsTasks_sendErr (s : State) (t : Task) (r : FaultRec) (reason : Nat) : KeepsTasks s (sendErr s t r reason) :=
  keepsTasks_sendRecord ..
theorem keepsTasks_sendPager (s : State) (t : Task) (r : FaultRec) : KeepsTasks s (sendPager s t r) := keepsTasks_sendRecord ..

end Sys2Proof.Machine
end

section
/-!
PROOF. Tasks that are discarded and return to the ready pool (R303, R307, R309).
-/
namespace Sys2Proof.Machine
open Sys2Proof

/-! ## What is undone for a task (R205, R307, R325, R409) -/

/-- A task of every number that there was is still there. -/
def KeepsIds (s t : State) : Prop := ∀ id, (findTask s id).isSome = true → (findTask t id).isSome = true
theorem keepsIds_of_tasks {s t : State} (h : t.tasks = s.tasks) : KeepsIds s t := fun id hs => by rwa [findTask, h]
theorem KeepsIds.trans {s t u : State} (h : KeepsIds s t) (h' : KeepsIds t u) : KeepsIds s u := fun id hs => h' id (h id hs)
theorem KeepsTasks.keepsIds {s t : State} (h : KeepsTasks s t) : KeepsIds s t := fun id hs => by
  obtain ⟨T, hT⟩ := Option.isSome_iff_exists.mp hs
  obtain ⟨U, hU, -⟩ := h.task id T hT
  rw [hU]
  rfl
theorem keepsIds_forgetCallers (s : State) (gone : Party → Bool) : KeepsIds s (forgetCallers s gone) := fun id hs => by
  rw [findTask, forgetCallers, List.find?_map, Option.isSome_map]
  exact hs
theorem tasks_onFlightBench (s : State) (f : Flight) (g : Bench → Bench) : (onFlightBench s f g).tasks = s.tasks := by
  unfold onFlightBench
  dsimp only
  split <;> rfl
theorem tasks_endFlight (s : State) (f : Flight) : (endFlight s f).tasks = s.tasks := by
  unfold endFlight
  dsimp only
  split
  · rfl
  · exact tasks_onFlightBench ..
theorem tasks_withdrawPush (s : State) (f : Flight) : (withdrawPush s f).tasks = s.tasks := by
  unfold withdrawPush
  split
  · split
    · rfl
    · exact (tasks_endFlight ..).trans (tasks_onFlightBench ..)
  · rfl
theorem tasks_releaseReserved (s : State) (t : Task) : (releaseReserved s t).tasks = s.tasks :=
  foldl_keeps (fun u => u.tasks = s.tasks) _ t.reserved s rfl fun u b hu => by
    rw [putBin_eq]
    exact hu
/-- The package once a task's rights are dropped and its callers forgotten. -/
def rightsDropped (s : State) (t : Task) : State :=
  forgetCallers ((rightsOf s t).foldl (fun s r => dropRight s (some r)) s) (isTaskSeat t.id)
/-- The package once a task's queue places and reservations are given up too. -/
def unreserved (s : State) (t : Task) : State := releaseReserved (purgeQueues (rightsDropped s t) t.id) t
/-- The package once a task's pushes are withdrawn too. -/
def withdrawn (s : State) (t : Task) : State := ((unreserved s t).flights.filter fun f => f.task == t.id).foldl withdrawPush (unreserved s t)
theorem keepsIds_withdrawn (s : State) (t : Task) : KeepsIds s (withdrawn s t) := by
  have hdropped : KeepsIds s (rightsDropped s t) :=
    (keepsTasks_foldl s _ fun u r => keepsTasks_dropRight u (some r)).keepsIds.trans (keepsIds_forgetCallers _ _)
  have hreserved : KeepsIds (rightsDropped s t) (unreserved s t) := keepsIds_of_tasks (tasks_releaseReserved ..)
  have hpushes : KeepsIds (unreserved s t) (withdrawn s t) :=
    keepsIds_of_tasks (foldl_keeps (fun u => u.tasks = (unreserved s t).tasks) withdrawPush _ _ rfl fun u f hu =>
      (tasks_withdrawPush u f).trans hu)
  exact (hdropped.trans hreserved).trans hpushes

/-! ## A task that returns to the ready pool (R303, R307, R309) -/

/-- A task that holds nothing and waits for nothing but its owner and a placement. -/
def discarded (t : Task) : Task :=
  { t.offCore with
    conds := t.conds.filter fun c => c == ParkCond.owner || c == ParkCond.placement
    saved := false, savedCores := [], savedWaits := [], savedRights := [], savedWakes := [], savedFlights := [], savedMisses := []
    savedForms := [], faults := [], haltQ := [], ckptSeats := [], fromCkpt := false }
theorem discardTask_eq (s : State) (t : Task) : (discardTask s t).2 = discarded t ∧
    (discardTask s t).1.tasks = (unplace (withdrawn s t) t).tasks ∧ (discardTask s t).1.flights = (unplace (withdrawn s t) t).flights :=
  ⟨rfl, rfl, rfl⟩
theorem restartFrom_eq (s : State) (t : Task) : (restartFrom s t).1.tasks = s.tasks ∧ (restartFrom s t).1.flights = s.flights ∧
    ∃ ckpt cores flights, ckpt = t.restart.isSome ∧ (restartFrom s t).2 = { t with
      saved := t.saved || ckpt, fromCkpt := t.fromCkpt || ckpt, savedCores := cores, savedFlights := flights } := by
  unfold restartFrom
  split
  · rename_i h
    exact ⟨rfl, rfl, false, t.savedCores, t.savedFlights, by rw [h]; rfl, by rw [Bool.or_false, Bool.or_false]⟩
  · rename_i c h
    exact ⟨rfl, rfl, true, c.cores, c.flights, by rw [h]; rfl, by rw [Bool.or_true, Bool.or_true]⟩

/-- The package and the task once it is discarded, with its images back where it restarts from a checkpoint. -/
def undone (s : State) (t : Task) : State × Task := restartFrom (discardTask s t).1 (discardTask s t).2
/-- The task that `undone` gives holds nothing. -/
structure Undone (T U : Task) : Prop where
  id : U.id = T.id
  cores : U.cores = []
  dieHold : U.dieHold = []
  heldRecs : U.heldRecs = []
  reserved : U.reserved = []
  faults : U.faults = []
  requeues : U.requeues = T.requeues
  saved : U.saved = true ↔ T.restart.isSome = true
theorem undone_undone (s : State) (T : Task) : Undone T (undone s T).2 := by
  obtain ⟨-, -, ckpt, cores, flights, hckpt, h⟩ := restartFrom_eq (discardTask s T).1 (discardTask s T).2
  rw [(discardTask_eq s T).1] at hckpt h
  rw [undone, (discardTask_eq s T).1, h]
  exact ⟨rfl, rfl, rfl, rfl, rfl, rfl, rfl, by rw [hckpt]; rfl⟩
theorem findTask_undone {s : State} {T : Task} (hT : isTask s T.id T) : (findTask (undone s T).1 T.id).isSome = true := by
  have hwithdrawn := keepsIds_withdrawn s T T.id (by rw [show findTask s T.id = some T from hT]; rfl)
  have htasks : (undone s T).1.tasks = (withdrawn s T).tasks := by
    rw [undone, (restartFrom_eq _ _).1, (discardTask_eq s T).2.1, onlyUnplaced_unplace]
  rwa [findTask, htasks]
theorem flights_undone (s : State) (T : Task) : ∀ f ∈ (undone s T).1.flights, f.task ≠ T.id := by
  rw [undone, (restartFrom_eq _ _).2.1, (discardTask_eq s T).2.2]
  exact flights_unplace _ T
/-- What is told of a task that is back in the pool leaves it there, with nothing in flight. -/
theorem task_after_undone {s t : State} {T U : Task} (hT : isTask s T.id T) (hid : U.id = T.id)
    (ht : KeepsTasks (putTask (undone s T).1 U) t) : (∃ V, isTask t T.id V ∧ KeepsTask U V) ∧ ∀ f ∈ t.flights, f.task ≠ T.id := by
  obtain ⟨V, hV⟩ := Option.isSome_iff_exists.mp (findTask_undone hT)
  exact ⟨ht.task T.id U (findTask_putTask_of_id hV hid), ht.flights T.id (flights_undone s T)⟩

/-! ## Aborts that take effect at once (R307, R409) -/

theorem withdrawPush_other {s : State} {f : Flight} (h : ∀ req pkg d k c e len, f.kind ≠ .push req pkg d k c e len) :
    withdrawPush s f = s := by
  unfold withdrawPush
  split
  · rename_i heq
    exact absurd heq (h _ _ _ _ _ _ _)
  · rfl
theorem abortWith_now {s : State} {T : Task} (hT : isTask s T.id T) (h : abortsNow s T) (cause : AbortCause) (r : FaultRec) :
    abortWith s T.id cause r = abortNow s T.id cause r := by
  obtain ⟨hwaits, hpushes⟩ := h
  have hfind : findTask s T.id = some T := hT
  have hnone : (s.aborts.any fun a => a.1 == T.id) = false := by simpa using hwaits
  have hother : ∀ f ∈ s.flights.filter fun f => f.task == T.id, ∀ u, withdrawPush u f = u := fun f hf u => by
    obtain ⟨hf, htask⟩ := List.mem_filter.mp hf
    refine withdrawPush_other fun req pkg d k c e len hk => ?_
    have hpush := List.any_eq_false.mp hpushes f hf
    simp [htask, hk] at hpush
  have hfold : (s.flights.filter fun f => f.task == T.id).foldl withdrawPush s = s := by
    generalize s.flights.filter (fun f => f.task == T.id) = l at hother
    induction l with
    | nil => rfl
    | cons f l ih =>
      rw [List.foldl_cons, hother f List.mem_cons_self, ih fun g hg => hother g (List.mem_cons_of_mem f hg)]
  simp only [abortWith, hfind, hnone, Bool.false_eq_true, if_false, hfold, hpushes]

/-- A task that has been discarded, in the pool. -/
def pooled (U : Task) (n : Nat) (bell : Word) (conds : List ParkCond) : Task :=
  { U with phase := .pool, requeues := n, since := bell, poolTime := 0, conds := conds }
theorem abortNow_keeps {s : State} {T : Task} (hT : isTask s T.id T) (hn : T.requeues < 63) (cause : AbortCause) (r : FaultRec) :
    ∃ bell conds, KeepsTasks (putTask (undone s T).1 (pooled (undone s T).2 (T.requeues + 1) bell conds)) (abortNow s T.id cause r) := by
  have hfind : findTask s T.id = some T := hT
  have hfew : ¬64 ≤ T.requeues + 1 := by omega
  simp only [abortNow, hfind, hfew, if_false]
  cases cause with
  | pageFault va k => exact ⟨_, _, keepsTasks_sendPager ..⟩
  | requeue => exact ⟨_, _, keepsTasks_refl _⟩
  | remoteLost => exact ⟨_, _, keepsTasks_sendErr ..⟩
  | machineCheck k => exact ⟨_, _, keepsTasks_sendErr ..⟩
theorem abortedTo_abortNow {s : State} {T : Task} (hT : isTask s T.id T) (hn : T.requeues < 63) (cause : AbortCause) (r : FaultRec) :
    abortedTo (abortNow s T.id cause r) T := by
  obtain ⟨bell, conds, hkeeps⟩ := abortNow_keeps hT hn cause r
  have hU := undone_undone s T
  obtain ⟨⟨V, hV, hUV⟩, hflights⟩ := task_after_undone (U := pooled (undone s T).2 _ bell conds) hT hU.id hkeeps
  refine ⟨⟨V, hV, ?_⟩, hflights⟩
  rw [hUV.outside]
  exact ⟨rfl, rfl, hU.cores, hU.dieHold, hU.heldRecs, hU.reserved, hU.faults, hU.saved⟩

/-! ## A page fault of a loader (R303, R307) -/

theorem exec_stagingPageFault {s : State} {T : Task} (hT : isTask s T.id T) (hcores : T.cores ≠ []) (va : Word) (k : Nat) :
    exec (.stagingPageFault T.id va k) s = .next (loaderFault s T va k) := by
  have hfind : findTask s T.id = some T := hT
  simp only [exec, execStagingPageFault, hfind, hcores, if_false]
theorem stagingFaultParks {s : State} {T : Task} (hT : isTask s T.id T) (va : Word) (k : Nat) :
    ∃ U, isTask (stagingFault s T va k) T.id U ∧ U.phase = .pool ∧ .page ∈ U.conds ∧ U.cores = [] ∧ U.requeues = T.requeues ∧
      ∀ g ∈ (stagingFault s T va k).flights, g.task ≠ T.id := by
  have hU := undone_undone s T
  have hkeeps : KeepsTasks (putTask (undone s T).1
      (pooled (undone s T).2 (undone s T).2.requeues (undone s T).1.bell ((undone s T).2.conds ++ [.page]))) (stagingFault s T va k) :=
    keepsTasks_sendPager ..
  obtain ⟨⟨V, hV, hUV⟩, hflights⟩ := task_after_undone (U := pooled (undone s T).2 _ _ _) hT hU.id hkeeps
  refine ⟨V, hV, ?_, hUV.page.mpr (List.mem_append_right _ (List.mem_singleton_self _)), ?_, ?_, hflights⟩
  · rw [hUV.outside]
    rfl
  · rw [hUV.outside]
    exact hU.cores
  · rw [hUV.outside]
    exact hU.requeues
theorem loaderFault_dispatched {s : State} {T : Task} (h : ∀ b, T.phase ≠ .staging b) (va : Word) (k : Nat) :
    loaderFault s T va k = abortTask s T.id (.pageFault va k) := by
  unfold loaderFault
  split
  · rename_i b hb
    exact absurd hb (h b)
  · rfl

/-- R151, R298, R301, R303, R309: staging and what it leads to. -/
theorem stagingLandsAndTheTaskIsDispatched : Claims.StagingLandsAndTheTaskIsDispatched := by
  intro s T hT
  refine ⟨granulesLand s T hT, fun va k hcores => ⟨fun b hb => ?_, fun hphase hn hnow => ?_⟩, fun b hb => ⟨fun hfresh hdue => ?_,
    fun hckpt hlanded => ?_, fun hwait hopen => ?_⟩⟩
  · have hfault : loaderFault s T va k = stagingFault s T va k := by rw [loaderFault, hb]
    obtain ⟨U, hU⟩ := stagingFaultParks hT va k
    exact ⟨_, U, (exec_stagingPageFault hT hcores va k).trans (by rw [hfault]), hU⟩
  · refine ⟨_, exec_stagingPageFault hT hcores va k, ?_⟩
    rw [loaderFault_dispatched hphase, abortTask, abortWith_now hT hnow]
    exact abortedTo_abortNow hT hn _ _
  · have hgo : dispatchDue s T = true := (dispatchDue_iff hb).mpr (hdue.imp_right fun h => ⟨hfresh, h⟩)
    obtain ⟨U, hU⟩ := dispatchTask_fresh hT hfresh
    exact ⟨_, U, by rw [exec_taskDispatch hT, if_pos hgo], hU⟩
  · have hgo : dispatchDue s T = true := (dispatchDue_iff hb).mpr (.inl hlanded)
    obtain ⟨U, hU⟩ := dispatchTask_fromCkpt hT hckpt
    exact ⟨_, U, by rw [exec_taskDispatch hT, if_pos hgo], hU⟩
  · have hstay : ¬dispatchDue s T = true := fun h => by
      rcases (dispatchDue_iff hb).mp h with hlanded | ⟨hfresh, hlead⟩
      · exact hopen hlanded
      · rcases hwait with hckpt | hearly
        · rw [hckpt] at hfresh
          cases hfresh
        · omega
    rw [exec_taskDispatch hT, if_neg hstay]

/-- Settles O46: a task is launched by its bin's timer, staged, dispatched and retired as its three claims say. -/
theorem tasksAreLaunchedStagedAndRetired : Obligations.TasksAreLaunchedStagedAndRetired :=
  ⟨aBinTimerLaunchesItsRecords, stagingLandsAndTheTaskIsDispatched, tasksRetireInOrder⟩

end Sys2Proof.Machine
end

section
/-!
PROOF. Exchanges, scans and reductions (R162 to R165): what a pass reads of other seats stands there before it writes.
-/
namespace Sys2Proof.Machine
open Sys2Proof

/-! ## Passes that read the elements of other seats (R162) -/

/-- An exchange retires where neither its operands fault nor an element that an issued seat's result depends on is poisoned. -/
theorem exchPass_clear (s : State) (i : Instr) (srcs : List Src) (a d : DReg) (deps : Nat → List Nat) (val : Nat → Word)
    (h : OperandsClear s (usesOf i).reads (usesOf i).creads (usesOf i).writes (usesOf i).cwrites)
    (hdeps : ∀ k ∈ issued s, ∀ t ∈ deps k, poisonD (cur s) a t = none) :
    exchPass s i srcs a d deps val = .next (retireWith s srcs false (writing s d val)) := by
  refine guardPass_clear _ _ _ fun k hk => ?_
  have hown : poisonIn (cur s) (usesOf i).reads k = none := poisonIn_none _ _ _ (h.1 k hk).1
  have hothers : ((deps k).findSome? fun t => (poisonD (cur s) a t).map (poisonFault a.code)) = none :=
    List.findSome?_eq_none_iff.mpr fun t ht => by rw [hdeps k hk t ht]; rfl
  simp only [exchFault, hown, hothers, useFault_clear s (usesOf i) h k hk]
/-- A byte of a `shflx` selector names one of the 32 seats. -/
theorem shflxSel_lt (s : State) (b : Src) (k j : Nat) : (shflxSel s b k j).1 < 32 := by
  have hbyte := elem_lt (srcV s b k) j 8
  simp only [shflxSel]
  omega
/-- Bit j of a mask of chosen issued seats. -/
theorem getLsbD_maskOf_issued (s : State) (f : Nat → Bool) {j : Nat} (hj : j < 64) :
    ((maskOf fun t => s.sel.seats.getLsbD t && f t).setWidth 64).getLsbD j = true ↔ j ∈ issued s ∧ f j = true := by
  rw [BitVec.getLsbD_setWidth, getLsbD_maskOf, decide_eq_true hj, Bool.true_and, Bool.and_eq_true, Bool.and_eq_true,
    decide_eq_true_eq, mem_issued]
  exact ⟨fun h => h.2, fun h => ⟨BitVec.lt_of_getLsbD h.1, h⟩⟩

/-! ## Votes (R163) -/

theorem getLsbD_foldl_or (f : Nat → BitVec 8) (ts : List Nat) (x : BitVec 8) (j : Nat) :
    (ts.foldl (fun x t => x ||| f t) x).getLsbD j = true ↔ x.getLsbD j = true ∨ ∃ u ∈ ts, (f u).getLsbD j = true := by
  induction ts generalizing x with
  | nil => simp
  | cons t ts ih => simp [ih, or_assoc]
theorem getLsbD_foldl_and (f : Nat → BitVec 8) (ts : List Nat) (x : BitVec 8) (j : Nat) :
    (ts.foldl (fun x t => x &&& f t) x).getLsbD j = true ↔ x.getLsbD j = true ∧ ∀ u ∈ ts, (f u).getLsbD j = true := by
  induction ts generalizing x with
  | nil => simp
  | cons t ts ih => simp [ih, and_assoc]
theorem getLsbD_predBits (w : Width) (x : BitVec 8) {j : Nat} (hj : j < 8) :
    (predBits w x).getLsbD j = true ↔ j < 64 / widthBits w ∧ x.getLsbD j = true := by
  rw [predBits, getLsbD_predOf _ _ hj, Bool.and_eq_true, decide_eq_true_eq]

/-! ## The claims -/

theorem exchangesReadTheElementsOfOtherSeats : Claims.ExchangesReadTheElementsOfOtherSeats := by
  intro b a d k p q w s
  refine ⟨fun hclear hpoison => ⟨?shfl, ?shflx⟩, fun hclear => ⟨fun hpoison => ?bcast, ?ballot⟩, fun hclear => ?matched, ?any, ?all⟩
  case shfl =>
    refine exchPass_clear s (.shfl b a d) [a, b] a.reg d _ _ hclear fun t _ u hu => ?_
    obtain rfl := List.mem_singleton.mp hu
    exact hpoison _ (Nat.mod_lt _ (by decide))
  case shflx =>
    refine ⟨_, exchPass_clear s (.shflx b a d) [a, b] a.reg d _ _ hclear fun t _ u hu => ?_, fun t _ j hj => ?_⟩
    · obtain ⟨j, -, rfl⟩ := List.mem_map.mp hu
      exact hpoison _ (shflxSel_lt s b t j)
    · rw [elem_lanes _ _ _ hj, elem_mod, shflxSel]
  case bcast =>
    refine exchPass_clear s (.bcast k a d) [a] a.reg d _ _ hclear fun t _ u hu => ?_
    obtain rfl := List.mem_singleton.mp hu
    exact hpoison
  case ballot =>
    exact ⟨_, lanePass_clear s (.ballot p d) [] d _ hclear, fun t _ j hj => getLsbD_maskOf_issued s _ hj⟩
  case matched =>
    refine ⟨_, exchPass_clear s (.matchSeats a d) [a] a.reg d _ _ hclear fun t _ u hu =>
      (hclear.1 u hu).1 _ (List.mem_singleton_self _), fun t _ j hj => ?_⟩
    rw [getLsbD_maskOf_issued s _ hj, beq_iff_eq]
  case any =>
    refine ⟨_, predPass_clear s (.voteAny p w q) [] q _ (operandsClear_none s), fun t _ j hj => ?_⟩
    rw [getLsbD_predBits w _ hj, getLsbD_foldl_or]
    simp
  case all =>
    refine ⟨_, predPass_clear s (.voteAll p w q) [] q _ (operandsClear_none s), fun t _ j hj => ?_⟩
    have hones : (0xFF : BitVec 8).getLsbD j = true := BitVec.getLsbD_allOnes.trans (decide_eq_true hj)
    rw [getLsbD_predBits w _ hj, getLsbD_foldl_and, and_iff_right hones]

/-- A pass over the issued seats gives the elements of its lanes, where their sources are not poisoned. -/
theorem givesElems_of_exchPass {i : Instr} {a : Src} {d : DReg} {n : Nat} {rel : State → Nat → Nat → Nat → Prop}
    (deps : State → Nat → List Nat) (f : State → Nat → Nat → Nat)
    (hexec : ∀ s, exec i s = exchPass s i [a] a.reg d (deps s) fun k => lanes n (f s k)) (huses : usesOf i = usesD [a.reg] d)
    (hdeps : ∀ s k, ∀ t ∈ deps s k, t ∈ issued s) (hval : ∀ s k j, rel s k j (f s k j % 2 ^ n)) : GivesElems i [a.reg] [a] d n rel := by
  intro s hclear
  refine ⟨_, (hexec s).trans (exchPass_clear s i [a] a.reg d _ _ (by rw [huses]; exact hclear) fun k _ t ht =>
    (hclear.1 t (hdeps s k t ht)).1 _ (List.mem_singleton_self _)), fun k _ j hj => ?_⟩
  rw [elem_lanes _ _ _ hj]
  exact hval s k j
theorem scansCombineTheIssuedSeatsInAscendingOrder : Claims.ScansCombineTheIssuedSeatsInAscendingOrder := by
  intro w x fl o a d n incl
  have hincl : ∀ s j ts, scanOver s w fl o a j ts = incl s j ts := fun s j ts => by cases ts <;> rfl
  refine ⟨?scan, ?red⟩
  case scan =>
    exact givesElems_of_exchPass _ _ (fun _ => rfl) rfl (fun s k t ht => List.mem_of_mem_filter ht) fun s k j => by rw [hincl]
  case red =>
    exact givesElems_of_exchPass _ _ (fun _ => rfl) rfl (fun s k t ht => ht) fun s k j => by rw [hincl]

/-- Settles O9: an exchange is a pass whose sources are read at every seat that its result depends on. -/
theorem exchangesAndScansCombineSeats : Obligations.ExchangesAndScansCombineSeats :=
  ⟨exchangesReadTheElementsOfOtherSeats, scansCombineTheIssuedSeatsInAscendingOrder⟩

end Sys2Proof.Machine
end

section
/-!
PROOF. The issue of an `atom` that is performed later (R170, R193, R201), refuted: the drain that an acquire demands is made at the issue
all the same, and lines leave the core part of the hold.
-/
namespace Sys2Proof.Machine
open Sys2Proof

/-- A task on core 0 whose core part of the hold has one line. -/
def holdingTask : Task := { Task.none_ with id := 1, cores := [{ TaskCore.none_ with hold := [HoldLine.fresh 0] }] }
/-- The address space of the task: a heap of 4 KiB at 0x2000000, without an offset. -/
def heapSpace : Obj := ⟨962, 0, 0, 0, false, false, .aspace { ASpace.none_ with hbase := 0x2000000, hspan := 0x1000 }⟩
/-- A bench of the task with room for a row; c1 of seat 0 names the heap, with LD and ST. -/
def heapBench : Bench :=
  { Bench.reset with
    task := 1
    hlimit := 0x1000
    rowBudget := 1
    crows := [⟨1, 1, 0, 0, boundedCap 0x2000000 0x300 0 0x2000000 0x2001000 true :: List.replicate 31 Cap.null⟩] }
/-- Seat 0 issues, and its accesses are made later. -/
def lateState : State :=
  { State.reset with
    cores := [(0, { Core.reset with benches := [(0, heapBench)] })], tasks := [holdingTask], objs := [heapSpace]
    sel := ⟨0, 0, 1, 0, 4, 0, true⟩ }
/-- An acquire at the scope of the die. -/
def lateAtom : Instr := .atomAcquire .add (.v 0) .die false 1 (.v 1)
/-- The tasks when a step ends. -/
def tasksOf : Host.Outcome State Fault Refusal → List Task
  | .next t => t.tasks
  | _ => []

theorem shaped_heapBench : Shaped heapBench := by
  unfold Shaped
  decide
theorem accessChecks_lateState : accessChecks lateState lateAtom 1 (exactAddr lateState 1 (byReg lateState (plainSrc (.v 0))))
    ⟨[.ld, .st], 8, .glob, 8, 4, .rmw⟩ (fun _ _ => none) =
      .ok ([(0, .mem 0x2000000 ((List.range 8).map (0x2000000 + ·)))], lateState) := by
  rfl
/-- The line of the hold has left the core part. -/
theorem tasks_lateAtom : (tasksOf (exec lateAtom lateState)).map (·.dieHold) = [[HoldLine.fresh 0]] := by
  rfl

theorem not_anAtomReturnsTheOldValueAndWritesItsTable : ¬ Claims.AnAtomReturnsTheOldValueAndWritesItsTable := by
  intro hclaim
  obtain ⟨hlater, -⟩ := hclaim lateState lateState .add (.v 0) .die .acquire false 1 (.v 1) 0 0x2000000 0x2000000 shaped_heapBench rfl
    (by decide) (by decide) accessChecks_lateState
  obtain ⟨t, f, y, hexec, -, -, -, -, -, -, -, -, -, -, -, -, ht, -⟩ := hlater (.inl rfl)
  have htasks : t.tasks = [holdingTask] := by rw [ht]; rfl
  have hdrained := tasks_lateAtom
  rw [show exec lateAtom lateState = .next t from hexec, tasksOf, htasks] at hdrained
  exact absurd hdrained (by decide)

/-- Refutes O19: an acquire that goes in flight drains the hold at its issue. -/
theorem not_atomicsReturnTheOldValue : ¬ Obligations.AtomicsReturnTheOldValue :=
  fun h => not_anAtomReturnsTheOldValueAndWritesItsTable h.1

end Sys2Proof.Machine
end

section
/-!
PROOF. Copies that enter the queue (R174, R178 to R181): what a copy's registration and arrival leave, and what each issued seat adds.
-/
namespace Sys2Proof.Machine
open Sys2Proof

/-! ## Registration and arrival (R113, R179) -/

/-- A change that leaves those who run, what is in flight, and of the selected bench the capability registers, predicates and flags. -/
structure LeavesQueue (u v : State) : Prop extends KeepsRunning u v where
  caps : (cur v).crows = (cur u).crows
  preds : (cur v).preds = (cur u).preds
  flags : (cur v).flags = (cur u).flags
  flights : v.flights = u.flights
  nextId : v.nextId = u.nextId

theorem leavesQueue_of_tasks {u v : State} (h : v = { u with tasks := v.tasks }) : LeavesQueue u v := by
  rw [h]
  exact ⟨keepsRunning_of_cores rfl rfl rfl, rfl, rfl, rfl, rfl, rfl⟩
theorem leavesQueue_refl (u : State) : LeavesQueue u u := leavesQueue_of_tasks rfl
theorem LeavesQueue.trans {u v w : State} (h : LeavesQueue u v) (h' : LeavesQueue v w) : LeavesQueue u w :=
  ⟨h.toKeepsRunning.trans h'.toKeepsRunning, h'.caps.trans h.caps, h'.preds.trans h.preds, h'.flags.trans h.flags,
    h'.flights.trans h.flights, h'.nextId.trans h.nextId⟩
/-- A seat that goes on loses rows of v registers at most. -/
theorem wokenBench_keeps (g : Nat) (b : Bench) : (wokenBench g b).crows = b.crows ∧ (wokenBench g b).preds = b.preds ∧
    (wokenBench g b).flags = b.flags := by
  refine foldl_keeps (fun c : Bench => c.crows = b.crows ∧ c.preds = b.preds ∧ c.flags = b.flags) _ _ b ⟨rfl, rfl, rfl⟩ fun c k hc => ?_
  rw [wakeSeatOf_cases]
  split
  · rw [unblockSeat_eq]
    exact hc
  · exact hc
theorem leavesQueue_wakeBench (g : Nat) (u : State) (e : Nat × Nat) : LeavesQueue u (wakeBench g u e) := by
  have hcur : cur (wakeBench g u e) = if e = (u.sel.core, u.sel.slot) then wokenBench g (cur u) else cur u := by
    split
    case isTrue he =>
      rw [wakeBench, he]
      exact cur_putCur u _
    case isFalse he =>
      exact getBench_putBench_other _ _ _ _ _ _ fun h => he (Prod.ext h.1.symm h.2.symm)
  have hkeeps := wokenBench_keeps g (cur u)
  obtain ⟨hcaps, hpreds, hflags⟩ : (cur (wakeBench g u e)).crows = (cur u).crows ∧ (cur (wakeBench g u e)).preds = (cur u).preds ∧
      (cur (wakeBench g u e)).flags = (cur u).flags := by
    rw [hcur]
    split
    · exact hkeeps
    · exact ⟨rfl, rfl, rfl⟩
  exact ⟨keepsRunning_wakeBench g u e, hcaps, hpreds, hflags, rfl, rfl⟩
theorem leavesQueue_settleGroup (u : State) (id : Word) (g : Nat) : LeavesQueue u (settleGroup u id g) := by
  unfold settleGroup
  split
  · exact leavesQueue_refl u
  · dsimp only
    split
    · exact LeavesQueue.trans (leavesQueue_of_tasks (u := u) rfl) (foldl_keeps (LeavesQueue _) (wakeBench g) _ _ (leavesQueue_refl _)
        fun v e hv => hv.trans (leavesQueue_wakeBench g v e))
    · exact leavesQueue_refl u
theorem leavesQueue_arriveCopy (u : State) (id : Word) (coreT g : Nat) : LeavesQueue u (arriveCopy u id coreT g) := by
  unfold arriveCopy
  split
  · exact leavesQueue_refl u
  · exact (leavesQueue_of_tasks rfl).trans (leavesQueue_settleGroup _ id g)
theorem registerCopy_outside (u : State) (id : Word) (g : Nat) :
    registerCopy u id g = { u with tasks := (registerCopy u id g).tasks } := by
  unfold registerCopy
  split <;> rfl
/-- A copy with ARR has registered with its group; any other has not. -/
def registered (u : State) (c : CopyCmd) : State := if c.arr then registerCopy u (cur u).task (cpGroup c) else u
theorem registered_outside (u : State) (c : CopyCmd) : registered u c = { u with tasks := (registered u c).tasks } := by
  unfold registered
  split
  · exact registerCopy_outside u _ _
  · rfl
theorem registerCopy_counts {u : State} {T : Task} (g : Nat) (hT : findTask u T.id = some T) :
    ∃ T', findTask (registerCopy u T.id g) T.id = some T' ∧ getGroup T' g = { getGroup T g with copies := (getGroup T g).copies + 1 } := by
  refine ⟨putGroup T g { getGroup T g with copies := (getGroup T g).copies + 1 }, ?_,
    getGroup_putGroup_same T g _ (.inr (Nat.succ_ne_zero _))⟩
  simp only [registerCopy, hT]
  exact findTask_putTask_of_id hT (samePlaces_putGroup T g _).id

/-! ## One seat's copy (R178, R179) -/

/-- A copy with extent in the queue. -/
def inQueue (u : State) (flag : Option Nat) (e : Nat × CopyCmd) : State :=
  addFlight (putCur u (raiseFlag (cur u) flag 1)) flag (seatBit e.1) (.copy e.2)
theorem queueCopy_extent (u : State) (flag : Option Nat) {e : Nat × CopyCmd} (h : cpEmpty e.2 = false) :
    queueCopy flag u e = inQueue (registered u e.2) flag e := by
  simp only [queueCopy, h, Bool.false_eq_true, if_false]
  rfl
/-- A copy without extent is done at once: with ARR it arrives, else nothing happens. -/
theorem queueCopy_empty (u : State) (flag : Option Nat) {e : Nat × CopyCmd} (h : cpEmpty e.2 = true) :
    LeavesQueue u (queueCopy flag u e) ∧ (e.2.arr = false → queueCopy flag u e = u) := by
  have hregistered := leavesQueue_of_tasks (registered_outside u e.2)
  cases harr : e.2.arr with
  | false =>
    have hsame : queueCopy flag u e = u := by simp [queueCopy, h, harr]
    rw [hsame]
    exact ⟨leavesQueue_refl u, fun _ => rfl⟩
  | true =>
    refine ⟨?_, fun hfalse => by cases hfalse⟩
    have hstep : queueCopy flag u e = arriveCopy (registered u e.2) (cur u).task (curCoreT (registered u e.2)) (cpGroup e.2) := by
      simp only [queueCopy, h, harr, registered, if_true]
    rw [hstep]
    exact hregistered.trans (leavesQueue_arriveCopy ..)

section InQueue
variable (u : State) (flag : Option Nat) (e : Nat × CopyCmd)
theorem cur_inQueue : cur (inQueue u flag e) = raiseFlag (cur u) flag 1 := cur_putCur u _
theorem keepsRunning_inQueue : KeepsRunning u (inQueue u flag e) := by
  refine (keepsRunning_putBench u u.sel.core u.sel.slot (shaped_raiseFlag flag 1) ?_ ?_ fun j hj => ?_).trans
    (keepsRunning_of_cores (s := putCur u (raiseFlag (cur u) flag 1)) rfl rfl rfl)
  · rw [raiseFlag_eq]
  · rw [raiseFlag_eq]
  · rw [raiseFlag_eq]
    exact ⟨hj, rfl⟩
/-- The flight of a copy. -/
def copyFlight : Flight :=
  ⟨u.nextId, u.nextId, u.sel.core, u.sel.slot, (cur u).task, flag, seatBit e.1, [], [], [], [], .copy e.2, 0, []⟩
theorem flights_inQueue : (inQueue u flag e).flights = u.flights ++ [copyFlight u flag e] := by
  have htask : (cur (putCur u (raiseFlag (cur u) flag 1))).task = (cur u).task := by rw [cur_putCur, raiseFlag_eq]
  rw [copyFlight, ← htask]
  rfl
end InQueue

/-! ## The copies of a pass -/

/-- The number of copies with extent. -/
def extents (es : List (Nat × CopyCmd)) : Nat := (es.filter fun e => !cpEmpty e.2).length
theorem extents_concat (es : List (Nat × CopyCmd)) (e : Nat × CopyCmd) :
    extents (es ++ [e]) = extents es + if cpEmpty e.2 then 0 else 1 := by
  cases h : cpEmpty e.2 <;> simp [extents, List.filter_append, h]
/-- A flight is that of a seat's copy, issued by the selected bench of a state. -/
def carries (s : State) (flag : Option Nat) (e : Nat × CopyCmd) (f : Flight) : Prop :=
  s.nextId ≤ f.id ∧ f.core = s.sel.core ∧ f.slot = s.sel.slot ∧ f.seats = seatBit e.1 ∧ f.flag = flag ∧ f.kind = .copy e.2
/-- The copies of some seats have entered the queue. The data registers are as before where none of the copies has arrived. -/
structure CopiesQueued (s : State) (flag : Option Nat) (es : List (Nat × CopyCmd)) (u : State) : Prop extends KeepsRunning s u where
  caps : (cur u).crows = (cur s).crows
  preds : (cur u).preds = (cur s).preds
  data : (∀ e ∈ es, e.2.arr = false ∨ cpEmpty e.2 = false) → (cur u).vrows = (cur s).vrows ∧ (cur u).sregs = (cur s).sregs
  nextId : u.nextId = s.nextId + extents es
  flags : ∀ j, flagOf (cur u) j = flagOf (cur s) j + if flag = some j ∧ j < 12 then extents es else 0
  flights : ∀ e ∈ es, cpEmpty e.2 = false → ∃ f ∈ u.flights, carries s flag e f

section CopiesQueued
variable {s u : State} {flag : Option Nat} {es : List (Nat × CopyCmd)} (h : CopiesQueued s flag es u)
include h

theorem CopiesQueued.concat_empty {e : Nat × CopyCmd} (he : cpEmpty e.2 = true) : CopiesQueued s flag (es ++ [e]) (queueCopy flag u e) := by
  obtain ⟨hleaves, hsame⟩ := queueCopy_empty u flag he
  have hcount : extents (es ++ [e]) = extents es := by rw [extents_concat, if_pos he, Nat.add_zero]
  refine ⟨h.toKeepsRunning.trans hleaves.toKeepsRunning, hleaves.caps.trans h.caps, hleaves.preds.trans h.preds, fun hes => ?_, ?_,
    fun j => ?_, fun e' he' hext => ?_⟩
  · obtain ⟨hes, hlast⟩ := List.forall_mem_append.mp hes
    rw [hsame ((hlast e (List.mem_singleton_self e)).resolve_right (by rw [he]; nofun))]
    exact h.data hes
  · rw [hleaves.nextId, h.nextId, hcount]
  · rw [flagOf, hleaves.flags, ← flagOf, h.flags, hcount]
  · rw [hleaves.flights]
    rcases List.mem_append.mp he' with hmem | hmem
    · exact h.flights e' hmem hext
    · rw [List.mem_singleton.mp hmem, he] at hext
      cases hext
theorem CopiesQueued.concat_extent (hs : Shaped (cur s)) {e : Nat × CopyCmd} (he : cpEmpty e.2 = false) :
    CopiesQueued s flag (es ++ [e]) (queueCopy flag u e) := by
  have hcount : extents (es ++ [e]) = extents es + 1 := by rw [extents_concat, he]; rfl
  have hlen : (cur u).flags.length = 12 := ((shaped_iff _).mp (h.toKeepsShapes.cur hs)).2.2.2.2.2
  rw [queueCopy_extent u flag he]
  have hreg := registered_outside u e.2
  generalize registered u e.2 = v at hreg
  have hcur : cur (inQueue v flag e) = raiseFlag (cur u) flag 1 := by rw [cur_inQueue, hreg]; rfl
  have hflights : (inQueue v flag e).flights = u.flights ++ [copyFlight v flag e] := by rw [flights_inQueue, hreg]
  have hnext : (inQueue v flag e).nextId = u.nextId + 1 := by rw [hreg]; rfl
  refine ⟨(h.toKeepsRunning.trans (leavesQueue_of_tasks hreg).toKeepsRunning).trans (keepsRunning_inQueue v flag e), ?_, ?_,
    fun hes => ?_, ?_, fun j => ?_, fun e' he' hext => ?_⟩
  · rw [hcur, raiseFlag_eq]
    exact h.caps
  · rw [hcur, raiseFlag_eq]
    exact h.preds
  · rw [hcur, raiseFlag_eq]
    exact h.data (List.forall_mem_append.mp hes).1
  · rw [hnext, h.nextId, hcount, Nat.add_assoc]
  · rw [hcur, flagOf_raiseFlag _ hlen, h.flags, hcount]
    split <;> rfl
  · rw [hflights]
    rcases List.mem_append.mp he' with hmem | hmem
    · obtain ⟨f, hf, hcarries⟩ := h.flights e' hmem hext
      exact ⟨f, List.mem_append_left _ hf, hcarries⟩
    · obtain rfl := List.mem_singleton.mp hmem
      have hid : v.nextId = s.nextId + extents es := by rw [hreg]; exact h.nextId
      have hsel : v.sel = s.sel := by rw [hreg]; exact h.sel
      exact ⟨_, List.mem_append_right _ (List.mem_singleton_self _), by rw [copyFlight, hid]; exact Nat.le_add_right _ _,
        congrArg Sel.core hsel, congrArg Sel.slot hsel, rfl, rfl, rfl⟩
end CopiesQueued
theorem copiesQueued_foldl {s : State} (hs : Shaped (cur s)) (flag : Option Nat) (es : List (Nat × CopyCmd)) :
    CopiesQueued s flag es (es.foldl (queueCopy flag) s) := by
  induction es using List.reverseRecOn with
  | nil => exact ⟨keepsRunning_refl s, rfl, rfl, fun _ => ⟨rfl, rfl⟩, rfl, fun j => by simp [extents], by simp⟩
  | append_singleton es e ih =>
    rw [List.foldl_concat]
    cases he : cpEmpty e.2 with
    | true => exact ih.concat_empty he
    | false => exact ih.concat_extent hs he

/-! ## The pass -/

theorem copyOf_eq (s : State) (kind : Nat) (q : Src) (ca : CReg) (sz : Width) (arr : Bool) (cd : CReg) (k : Nat) :
    copyOf s kind q ca sz arr cd k = issuedCopy s k kind q sz ca arr cd := by
  rw [issuedCopy, ← widthBytes_eq]
  rfl
/-- The instruction of a copy is a pass of copies, which reads its quad and its capability registers. -/
theorem exec_of_copyForm {s : State} {i : Instr} {kind : Nat} {q : Src} {sz : Width} {ca cd : CReg} {arr fb : Bool}
    (h : copyForm i = some (kind, q, sz, ca, arr, fb, cd)) : exec i s = copyPass s i kind q ca sz arr fb cd ∧
      (usesOf i).reads = quad q.reg ∧ (usesOf i).creads ⊆ [ca, cd] ∧ (usesOf i).writes = [] ∧ (usesOf i).cwrites = [] := by
  unfold copyForm at h
  split at h <;> cases h
  case h_5 => exact ⟨rfl, rfl, List.subset_cons_self _ _, rfl, rfl⟩
  all_goals exact ⟨rfl, rfl, List.Subset.refl _, rfl, rfl⟩
/-- The package once the copies of a pass are in the queue. -/
def copiesIssued (s : State) (kind : Nat) (q : Src) (sz : Width) (ca : CReg) (arr fb : Bool) (cd : CReg) : State :=
  ((issued s).map fun k => (k, issuedCopy s k kind q sz ca arr cd)).foldl (queueCopy (passFlag s fb)) s
theorem exec_copy_clear {s : State} {i : Instr} {kind : Nat} {q : Src} {sz : Width} {ca cd : CReg} {arr fb : Bool}
    (h : copyForm i = some (kind, q, sz, ca, arr, fb, cd)) (hclear : OperandsClear s (quad q.reg) [ca, cd] [] [])
    (hfault : ∀ k ∈ issued s, copyFault s (issuedCopy s k kind q sz ca arr cd) = none) :
    exec i s = .next (retireWith (copiesIssued s kind q sz ca arr fb cd) (srcAll q (quad q.reg)) false id) := by
  obtain ⟨hexec, hreads, hcreads, hwrites, hcwrites⟩ := exec_of_copyForm (s := s) h
  have huses : OperandsClear s (usesOf i).reads (usesOf i).creads (usesOf i).writes (usesOf i).cwrites := by
    rw [hreads, hwrites, hcwrites]
    exact ⟨fun k hk => ⟨(hclear.1 k hk).1, fun c hc => (hclear.1 k hk).2 c (hcreads hc)⟩, hclear.2⟩
  rw [hexec, copyPass]
  simp only [copyOf_eq]
  exact guardPass_clear s _ _ fun k hk => by rw [useFault_clear s _ huses k hk, hfault k hk]; rfl

/-- Registers that two benches hold alike read alike. -/
theorem readD_congr {b c : Bench} (hv : c.vrows = b.vrows) (hs : c.sregs = b.sregs) (r : DReg) (k : Nat) :
    readD c r k = readD b r k ∧ poisonD c r k = poisonD b r k := by
  cases r with
  | v n => simp only [readD, poisonD, hv, and_self]
  | s n => simp only [readD, poisonD, hs, and_self]
theorem extent_iff (c : CopyCmd) : cpEmpty c = false ↔ bits c.q0 15 0 ≠ 0 ∧ bits c.q0 31 16 ≠ 0 := by
  rw [cpEmpty, Bool.or_eq_false_iff, beq_eq_false_iff_ne, beq_eq_false_iff_ne]
  rfl
theorem extents_map (ks : List Nat) (cmd : Nat → CopyCmd) (p : Nat → Prop) [DecidablePred p] (hp : ∀ k, p k ↔ cpEmpty (cmd k) = false) :
    extents (ks.map fun k => (k, cmd k)) = (ks.filter fun k => decide (p k)).length := by
  rw [extents, List.filter_map, List.length_map]
  refine congrArg (fun f => (List.filter f ks).length) (funext fun k => ?_)
  rw [Bool.eq_iff_iff, decide_eq_true_iff, hp]
  simp

section Retired
variable {s u : State} {flag : Option Nat} {es : List (Nat × CopyCmd)} (h : CopiesQueued s flag es u) (hs : Shaped (cur s))
  (srcs : List Src)
include h

theorem flights_copiesRetired {e : Nat × CopyCmd} (he : e ∈ es) (hext : cpEmpty e.2 = false) :
    ∃ f ∈ (retireWith u srcs false id).flights, carries s flag e f := by
  obtain ⟨f, hf, hcarries⟩ := h.flights e he hext
  obtain ⟨-, hmap, -⟩ := leavesOutside_retireWith u srcs false id
  obtain ⟨f', hf', hsame⟩ := List.mem_map.mp (hmap.symm ▸ List.mem_map_of_mem hf)
  simp only [Prod.mk.injEq] at hsame
  obtain ⟨hid, hcore, hslot, hflag, hseats, hkind, -⟩ := hsame
  refine ⟨f', hf', ?_⟩
  rw [carries, hid, hcore, hslot, hflag, hseats, hkind]
  exact hcarries
theorem flagOf_copiesRetired (j : Nat) : flagOf (cur (retireWith u srcs false id)) j =
    flagOf (cur s) j + if flag = some j ∧ j < 12 then extents es else 0 := by
  obtain ⟨-, -, -, hflags, -⟩ := benchKept_moveWith u srcs id (fun _ x => pastSeat x u.sel.len false) fun _ => rfl
  rw [← h.flags j, flagOf, retireWith_eq_moveWith, hflags, flagOf]
include hs
theorem dataKept_copiesRetired (hes : ∀ e ∈ es, e.2.arr = false ∨ cpEmpty e.2 = false) :
    DataKept s (retireWith u srcs false id) srcs fun _ => False := by
  obtain ⟨hvrows, hsregs⟩ := h.data hes
  have hkept := dataKept_moveWith srcs (fun _ x => pastSeat x u.sel.len false) keepsSeats_id (h.toKeepsShapes.cur hs) (fun _ => False)
    fun _ _ _ _ => ⟨rfl, rfl⟩
  intro r k hr
  obtain ⟨hread, hpoison⟩ := readD_congr hvrows hsregs r k
  rw [← hread, ← hpoison, ← h.toKeepsShapes.issued]
  exact hkept r k hr
theorem capsKept_copiesRetired : CapsKept s (retireWith u srcs false id) fun _ => False := by
  have hkept := capsKept_moveWith srcs (fun _ x => pastSeat x u.sel.len false) keepsSeats_id (h.toKeepsShapes.cur hs) (fun _ => False)
    fun _ _ _ _ => ⟨rfl, rfl⟩
  intro c k hc
  have hsame : readC (cur u) c k = readC (cur s) c k ∧ poisonC (cur u) c k = poisonC (cur s) c k := by
    simp only [readC, poisonC, h.caps, and_self]
  rw [← hsame.1, ← hsame.2]
  exact hkept c k hc
omit hs in
theorem predsKept_copiesRetired : PredsKept s (retireWith u srcs false id) fun _ => False := by
  have hkept := predsKept_moveWith u srcs id (fun _ x => pastSeat x u.sel.len false) (fun _ => False) fun _ _ _ _ => rfl
  intro p k hp
  refine (hkept p k hp).trans ?_
  simp only [readP, h.preds]
theorem pc_copiesRetired {k : Nat} (hk : k ∈ issued s) (hrun : (getSeat (cur s) k).state = .eligible) :
    (getSeat (cur (retireWith u srcs false id)) k).pc = (getSeat (cur s) k).pc + BitVec.ofNat 64 s.sel.len := by
  have hmoved := seatsBecome_moveWith srcs (fun _ x => pastSeat x u.sel.len false) keepsSeats_id (h.toKeepsShapes.cur hs) k
  rw [if_pos (h.toKeepsShapes.issued.symm ▸ hk)] at hmoved
  obtain ⟨-, hpc⟩ := h.seat s.sel.core s.sel.slot k hrun
  rw [retireWith_eq_moveWith, hmoved, cur, h.sel]
  exact congrArg (· + BitVec.ofNat 64 s.sel.len) hpc
end Retired

theorem copiesEnterTheQueueAtIssue : Claims.CopiesEnterTheQueueAtIssue := by
  intro s i kind q sz ca cd arr fb hs hform hclear cmd extent hfault
  have hextent : ∀ k, extent k ↔ cpEmpty (cmd k) = false := fun k => (extent_iff (cmd k)).symm
  have hqueued := copiesQueued_foldl hs (passFlag s fb) ((issued s).map fun k => (k, cmd k))
  have hcount : extents ((issued s).map fun k => (k, cmd k)) = ((issued s).filter fun k => decide (extent k)).length :=
    extents_map _ _ _ hextent
  have hexec := exec_copy_clear hform hclear hfault
  obtain ⟨hout, -⟩ := leavesOutside_retireWith (copiesIssued s kind q sz ca arr fb cd) (srcAll q (quad q.reg)) false id
  refine ⟨_, hexec, ?_, fun hes => dataKept_copiesRetired hqueued hs _ ?_, capsKept_copiesRetired hqueued hs _,
    predsKept_copiesRetired hqueued _, fun k hk hext => ?_, ?_, fun j => ?_, fun T g k hT hone hext harr hg => ?_,
    fun k hk hrun => pc_copiesRetired hqueued hs _ hk hrun⟩
  · rw [hout]
    exact hqueued.mem
  · intro e he
    obtain ⟨k, hk, rfl⟩ := List.mem_map.mp he
    exact hes.imp id fun hall => (hextent k).mp (hall k hk)
  · exact flights_copiesRetired hqueued _ (List.mem_map_of_mem hk) ((hextent k).mp hext)
  · rw [hout, ← hcount]
    exact hqueued.nextId
  · rw [← hcount]
    exact flagOf_copiesRetired hqueued _ j
  · have hid := id_of_findTask hT
    obtain ⟨T', hT', hgroup⟩ := registerCopy_counts g (by rwa [hid])
    refine ⟨T', ?_, hgroup⟩
    have hcopies : copiesIssued s kind q sz ca arr fb cd = inQueue (registerCopy s T.id g) (passFlag s fb) (k, cmd k) := by
      have hreg : registered s (cmd k) = registerCopy s T.id g := by
        rw [registered, if_pos (show (cmd k).arr = true from harr), hid, hg]
        rfl
      rw [← hreg, copiesIssued, hone]
      exact queueCopy_extent s (passFlag s fb) (e := (k, cmd k)) ((hextent k).mp hext)
    rw [isTask, findTask, hout, hcopies, ← hid]
    exact hT'

/-! ## `seal` (R180) -/

/-- Two changes of every issued seat are one. -/
theorem mapIssued_mapIssued (s : State) {b : Bench} (f g : Nat → Seat → Seat) (h : b.seats.length = 32) :
    mapIssued s (mapIssued s b f) g = mapIssued s b fun k x => g k (f k x) := by
  have hseats : (mapIssued s (mapIssued s b f) g).seats = (mapIssued s b fun k x => g k (f k x)).seats := by
    refine List.ext_getElem (by simp) fun k hk hk' => ?_
    have hget : getSeat (mapIssued s (mapIssued s b f) g) k = getSeat (mapIssued s b fun k x => g k (f k x)) k := by
      rw [getSeat_mapIssued _ _ _ (by rwa [length_seats_mapIssued]), getSeat_mapIssued _ _ _ h, getSeat_mapIssued _ _ _ h]
      split <;> rfl
    rwa [getSeat, getSeat, nth, nth, List.getD_eq_getElem _ _ hk, List.getD_eq_getElem _ _ hk'] at hget
  rw [mapIssued_eq s (mapIssued s b f) g, hseats, mapIssued_eq s b f, mapIssued_eq s b fun k x => g k (f k x)]
/-- The batch that follows. -/
def sealedSeat (x : Seat) : Seat := { x with batch := if x.batch = 0xFFFFFFFF then 1 else x.batch + 1 }
/-- BATCH of each seat, as D takes it. -/
def openBatch (s : State) (k : Nat) : Word := (getSeat (cur s) k).batch.setWidth 64
theorem exec_seal {s : State} (d : DReg) (hs : Shaped (cur s)) (hclear : OperandsClear s [] [] [d] []) : exec (.seal d) s =
    .next (moveWith s [] (writing s d (openBatch s)) fun _ x => sealedSeat (pastSeat x s.sel.len false)) := by
  have hseats : ∀ k, getSeat (lastReads (cur s) s.sel.seats []) k = getSeat (cur s) k := fun k => by
    rw [getSeat, seats_lastReads, getSeat]
  have hshaped := shaped_writeD (lastReads (cur s) s.sel.seats []) d ((issued s).map fun k => (k, openBatch s k, none))
    (shaped_lastReads _ _ _ hs)
  have hlen := length_seats_of_shaped hshaped
  refine (guardPass_clear s _ _ fun k hk => useFault_clear s (usesOf (.seal d)) hclear k hk).trans ?_
  simp only [retireWith, hseats]
  exact congrArg (fun b => Host.Outcome.next (freeRows (putCur s b) s.sel.core s.sel.slot)) (mapIssued_mapIssued s _ _ hlen)
theorem sealClosesTheOpenBatch : Claims.SealClosesTheOpenBatch := by
  intro s d hs hclear
  have hregisters := changesRegisters_writing s d (openBatch s)
  have heff := keepsSeats_of_changesRegisters hregisters
  refine ⟨_, exec_seal d hs hclear, leavesOutside_moveWith _ _ _ _, dataKept_moveWith _ _ heff hs _ fun _ _ _ => readD_writeD_other _ _ _ _ _,
    capsKept_moveWith _ _ heff hs _ fun _ _ _ _ => ⟨readC_writeD _ _ _ _ _, poisonC_writeD _ _ _ _ _⟩,
    predsKept_moveWith _ _ _ _ _ fun _ _ _ _ => readP_writeD _ _ _ _ _, benchKept_moveWith _ _ _ _ hregisters.rest,
    fun hd k hk => ?_, fun hd k hne => ?_, seatsBecome_moveWith _ _ heff hs⟩
  all_goals
    obtain ⟨hread, hpoison⟩ := readD_moveWith [] (fun _ x => sealedSeat (pastSeat x s.sel.len false)) heff hs d k
    obtain ⟨hread', hpoison'⟩ := readD_retireWith [] false hregisters hs d k
  · cases d with
    | s n => cases hd
    | v n =>
      rw [hread, hpoison, ← hread', ← hpoison']
      exact (readD_retire_writing_v [] false hs k n _).1 hk
  · cases d with
    | v n => cases hd
    | s n =>
      rw [hread, ← hread']
      exact (readD_retire_writing_s [] false hs k n _ hne).1

end Sys2Proof.Machine
end

section
/-!
PROOF. The elements of a copy (R176): their addresses in the image and in the box.
-/
namespace Sys2Proof.Machine
open Sys2Proof

/-! ## The descriptor (R175) -/

theorem bits_lt (w : Word) (hi lo : Nat) : bits w hi lo < 2 ^ (hi + 1 - lo) := Nat.mod_lt _ (by positivity)
theorem cpSStride_eq (c : CopyCmd) : cpSStride c = signedOf 32 (bits c.q1 31 0) := sx_eq_signedOf (bits_lt _ _ _)
theorem cpDStride_eq (c : CopyCmd) : cpDStride c = signedOf 32 (bits c.q1 63 32) := sx_eq_signedOf (bits_lt _ _ _)
theorem cpOX_eq (c : CopyCmd) : cpOX c = signedOf 16 (bits c.q2 15 0) := sx_eq_signedOf (bits_lt _ _ _)
theorem cpOY_eq (c : CopyCmd) : cpOY c = signedOf 16 (bits c.q2 31 16) := sx_eq_signedOf (bits_lt _ _ _)

/-! ## Addresses -/

/-- A coordinate under EDGE 1: the nearest one of the image. -/
def clampTo (edge : Nat) (x n : Int) : Int := if edge = 1 then max 0 (min x (n - 1)) else x
/-- Does EDGE 2 drop a coordinate outside the image? -/
def dropped (c : CopyCmd) (ix iy : Int) : Prop := cpEdge c = 2 ∧ (ix < 0 ∨ (cpSW c : Int) ≤ ix ∨ iy < 0 ∨ (cpSH c : Int) ≤ iy)
/-- The address of a coordinate in the image. -/
def imageAddr (c : CopyCmd) (cap : Cap) (stride ix iy : Int) : Int :=
  ((capCursor cap).toNat : Int) + clampTo (cpEdge c) iy (cpSH c) * stride + clampTo (cpEdge c) ix (cpSW c) * c.size
theorem clampTo_one {x n : Int} (h : 0 < n) : clampTo 1 x n = if x < 0 then 0 else if n ≤ x then n - 1 else x := by
  rw [clampTo, if_pos rfl]
  split_ifs <;> omega
theorem clampTo_other {edge : Nat} (h : edge ≠ 1) (x n : Int) : clampTo edge x n = x := if_neg h
/-- An image address is given unless the element is dropped. -/
theorem imgAddr_cases {c : CopyCmd} (hedge : cpEdge c = 1 → 0 < (cpSW c : Int) ∧ 0 < (cpSH c : Int)) (cap : Cap) (stride ix iy : Int) :
    dropped c ix iy ∧ imgAddr c cap stride ix iy = none ∨
      ¬dropped c ix iy ∧ imgAddr c cap stride ix iy = some (imageAddr c cap stride ix iy) := by
  by_cases h : dropped c ix iy
  · have hne : cpEdge c ≠ 1 := by rw [h.1]; decide
    refine .inl ⟨h, ?_⟩
    simp only [imgAddr, if_neg hne]
    exact if_pos h
  · refine .inr ⟨h, ?_⟩
    by_cases hone : cpEdge c = 1
    · obtain ⟨hw, hh⟩ := hedge hone
      simp only [imgAddr, imageAddr, hone, clampTo_one hw, clampTo_one hh]
      rfl
    · simp only [imgAddr, imageAddr, if_neg hone, clampTo_other hone]
      exact if_neg h
theorem boxAddr_eq (c : CopyCmd) (cap : Cap) (stride : Int) (x y : Nat) : boxAddr c cap stride x y =
    if bits c.q0 38 38 = 1 then ((capCursor cap).toNat : Int) + x * stride + y * c.size
    else ((capCursor cap).toNat : Int) + y * stride + x * c.size := by
  have hbit : cpTrans c = decide (bits c.q0 38 38 = 1) := by
    rw [cpTrans, bitOf, BitVec.getLsbD, Nat.testBit_eq_decide_div_mod_eq]
    rfl
  by_cases h : bits c.q0 38 38 = 1 <;> simp [boxAddr, hbit, h]

/-! ## Elements -/

/-- Where the image end of an element lies: it is read there, or filled where EDGE drops it. -/
def imageSource (c : CopyCmd) (ix iy : Int) (poisoned : Bool) (src : CopySrc) : Prop :=
  (dropped c ix iy → src = .fill poisoned) ∧
    (¬dropped c ix iy → src = .mem (imageAddr c c.src (cpSStride c) ix iy) poisoned)
/-- What the copy of a kind moves at a place of its box. -/
def movesAt (c : CopyCmd) (x y : Nat) (src : CopySrc) (dst : Int) : Prop :=
  let ix := cpOX c + x
  let entry := nth c.idx y (0, false)
  match c.kind with
  | 0 => dst = boxAddr c c.dst (cpDStride c) x y ∧ imageSource c ix (cpOY c + y) false src
  | 1 => dst = boxAddr c c.dst (cpDStride c) x y ∧ imageSource c ix entry.1 entry.2 src
  | 4 => dst = boxAddr c c.dst (cpDStride c) x y ∧ src = .fill false
  | _ => ¬dropped c ix entry.1 ∧ entry.2 = false ∧ dst = imageAddr c c.dst (cpDStride c) ix entry.1 ∧
      src = .mem (boxAddr c c.src (cpSStride c) x y) false
/-- An element that goes to the image: it is moved where its row's entry is not poisoned and EDGE does not drop it. -/
theorem toImage_iff {c : CopyCmd} (hedge : cpEdge c = 1 → 0 < (cpSW c : Int) ∧ 0 < (cpSH c : Int)) (ix : Int) (entry : Nat × Bool)
    (m n : Nat) (box dst : Int) {src : CopySrc} : (if entry.2 then none
      else (imgAddr c c.dst (cpDStride c) ix (Int.ofNat entry.1)).map fun a => (m, CopySrc.mem box false, a)) = some (n, src, dst) ↔
      n = m ∧ ¬dropped c ix entry.1 ∧ entry.2 = false ∧ dst = imageAddr c c.dst (cpDStride c) ix entry.1 ∧ src = .mem box false := by
  cases hbad : entry.2 with
  | true => simp
  | false =>
    rcases imgAddr_cases hedge c.dst (cpDStride c) ix entry.1 with ⟨h, himg⟩ | ⟨h, himg⟩
    · simp [himg, h]
    · simp only [Bool.false_eq_true, if_false, Int.ofNat_eq_natCast, himg, Option.map_some, Option.some.injEq, Prod.mk.injEq, h,
        not_false_eq_true, true_and]
      tauto
theorem mem_copyElems {c : CopyCmd} (hkind : c.kind < 5) (hedge : cpEdge c = 1 → 0 < (cpSW c : Int) ∧ 0 < (cpSH c : Int)) (n : Nat)
    (src : CopySrc) (dst : Int) : (n, src, dst) ∈ copyElems c ↔ ∃ x y, x < cpX c ∧ y < cpY c ∧ n = y * cpX c + x ∧ movesAt c x y src dst := by
  have hplaces : ∀ f : Nat → Nat → Option (Nat × CopySrc × Int),
      (∀ x y, f y x = some (n, src, dst) ↔ n = y * cpX c + x ∧ movesAt c x y src dst) →
      ((n, src, dst) ∈ (List.range (cpY c)).flatMap (fun y => (List.range (cpX c)).filterMap (f y)) ↔
        ∃ x y, x < cpX c ∧ y < cpY c ∧ n = y * cpX c + x ∧ movesAt c x y src dst) := fun f hf => by
    simp only [List.mem_flatMap, List.mem_filterMap, List.mem_range, hf]
    exact ⟨fun ⟨y, hy, x, hx, h⟩ => ⟨x, y, hx, hy, h⟩, fun ⟨x, y, hx, hy, h⟩ => ⟨y, hy, x, hx, h⟩⟩
  refine hplaces _ fun x y => ?_
  have hkinds : c.kind = 0 ∨ c.kind = 1 ∨ (c.kind = 2 ∨ c.kind = 3) ∨ c.kind = 4 := by omega
  rcases hkinds with hk | hk | hk | hk
  · simp only [hk, movesAt, Option.some.injEq, Prod.mk.injEq, imageSource]
    rcases imgAddr_cases hedge c.src (cpSStride c) (cpOX c + x) (cpOY c + y) with ⟨h, himg⟩ | ⟨h, himg⟩
    all_goals
      simp only [Int.ofNat_eq_natCast, himg, h]
      tauto
  · simp only [hk, movesAt, Option.some.injEq, Prod.mk.injEq, imageSource]
    rcases imgAddr_cases hedge c.src (cpSStride c) (cpOX c + x) (nth c.idx y (0, false)).1 with ⟨h, himg⟩ | ⟨h, himg⟩
    all_goals
      simp only [Int.ofNat_eq_natCast, himg, h]
      tauto
  · rcases hk with hk | hk
    all_goals
      simp only [hk, movesAt]
      exact toImage_iff hedge _ _ _ _ _ _
  · simp only [hk, movesAt, Option.some.injEq, Prod.mk.injEq]
    tauto

theorem copiesMoveTheElementsOfTheirKind : Claims.CopiesMoveTheElementsOfTheirKind := by
  intro s f c hkind X Y edge sw sh row rowBad clamp stride img out box src dst ix
  refine ⟨fun hk hstage y hy => ?index, fun hedge n src_ dst_ => ?elems⟩
  case index =>
    have hindexed : (cpIndexed c && c.stage == 0) = true := by
      simp only [List.mem_cons, List.not_mem_nil, or_false] at hk
      rcases hk with hk | hk | hk <;> simp [cpIndexed, hk, hstage]
    have hy : y < cpY c := hy
    rw [withIndex, if_pos hindexed]
    simp only [nth, List.getD_eq_getElem?_getD, List.getElem?_map, List.getElem?_range hy, Option.map_some, Option.getD_some]
    rfl
  case elems =>
    rw [mem_copyElems hkind hedge]
    refine exists_congr fun x => exists_congr fun y => and_congr_right fun _ => and_congr_right fun _ => and_congr_right fun _ => ?_
    have hkinds : c.kind = 0 ∨ c.kind = 1 ∨ c.kind = 2 ∨ c.kind = 3 ∨ c.kind = 4 := by omega
    rcases hkinds with hk | hk | hk | hk | hk
    all_goals
      simp only [hk, movesAt, imageSource, boxAddr_eq, cpSStride_eq, cpDStride_eq, cpOX_eq, cpOY_eq]
      exact Iff.rfl

/-- Settles O24: what each seat's copy adds to the queue, the places of the elements, and the batch that `seal` closes. -/
theorem copiesAreQueuedAndSealed : Obligations.CopiesAreQueuedAndSealed :=
  ⟨copiesEnterTheQueueAtIssue, copiesMoveTheElementsOfTheirKind, sealClosesTheOpenBatch⟩

end Sys2Proof.Machine
end

section
/-!
PROOF. Combined atomics (R169, R428), refuted: nothing bounds the operands of a request, and the parts of a set take them whole. Where two
packages swap words into one location and the first operand has bit 32 set, the second part is answered with that bit, which no word has.
-/
namespace Sys2Proof.Machine
open Sys2Proof

/-- The package 2 ms after reset, when it refuses no request; slot 0 names address space 4. -/
def servingState : State := { State.reset with bell := 2000000, exportSlots := [(0, 4)] }
/-- A request of a package to swap an operand into the word at address 0. -/
def swapWord (src : Nat) (x : Word) : RemoteReq := ⟨src, 0, 0, 0, 0, 0, .atomic .swap true [(x, 0)], [0, 1, 2, 3], none, none⟩
/-- The first operand has bit 32 set. -/
def swapsOfWideOperand : List RemoteReq := [swapWord 1 0x100000000, swapWord 2 0]
/-- What has left the package when a step ends. -/
def outboxOf : Host.Outcome State Fault Refusal → List OutMsg
  | .next t => t.outbox
  | _ => []
theorem outbox_swapsOfWideOperand : outboxOf (exec (.libraryAtomCombine swapsOfWideOperand) servingState) =
    [.answer 1 0 [(0, 0, false, false)], .answer 2 0 [(0x100000000, 0, false, false)]] := by decide
theorem swapsOfWideOperand_arrive : ∀ r ∈ swapsOfWideOperand, r.slot = 0 ∧ r.va = 0 ∧ r.pas = [0, 1, 2, 3] ∧
    refuses servingState r.src = none ∧ behindMark servingState r = false ∧ reqExpired servingState r = false ∧
      requestQuarantined servingState 4 r.base r.top = false := by decide

/-- Refutes O42: the second of two combined swaps is answered with bit 32 of the first one's operand. -/
theorem not_atomicsThatALibraryCombinesAreOneAccess : ¬ Obligations.AtomicsThatALibraryCombinesAreOneAccess := by
  intro hclaim
  obtain ⟨-, -, -, hset⟩ := hclaim servingState (swapWord 1 0x100000000) [swapWord 2 0] .swap true [(0x100000000, 0), (0, 0)] 4 0
  refine Exists.elim (hset (by decide) (by decide) (by decide) rfl rfl swapsOfWideOperand_arrive ?operands rfl (by decide) rfl
    (by decide)) ?answered
  case operands =>
    intro j r x hr hx
    match j, hr, hx with
    | 0, rfl, rfl => rfl
    | 1, rfl, rfl => rfl
  case answered =>
    rintro t ⟨ms, hexec, hlen, -, hparts, hout, -⟩
    match ms, hlen with
    | [m0, m1, m2], _ =>
      obtain ⟨v, hv, hm1⟩ := hparts 0 (0x100000000, 0) m0 m1 rfl rfl rfl
      obtain rfl : v = some 0 := hv
      obtain rfl : m1 = 0 := hm1
      have hcomputed := outbox_swapsOfWideOperand
      rw [swapsOfWideOperand, hexec, outboxOf, hout] at hcomputed
      have hsecond : some (OutMsg.answer 2 0 [(0, 0, false, false)]) = some (.answer 2 0 [(0x100000000, 0, false, false)]) :=
        congrArg (·[1]?) hcomputed
      exact absurd hsecond (by decide)

end Sys2Proof.Machine
end
